-- ==== Sys2Proof/Word.lean ====
section
/-!
DEFINITION. The word types of the Yarlen Y880 (R2, R22): bytes, 32-bit lane and mask words, 64-bit scalar words,
and the sparse list in which storage is held.
-/

namespace Sys2Proof

/-- A byte of memory or storage. -/
abbrev Byte := BitVec 8

/-- A 32-bit word: a lane register of one thread, a mask, an instruction word. -/
abbrev Word := BitVec 32

/-- A 64-bit word: a scalar register, a system register. -/
abbrev DWord := BitVec 64

/-- Storage as (key, value) pairs in one canonical form: keys strictly rising and no value zero, since an
unlisted key reads as zero. Memory is `Cells 8`, which is a list of `Host.Cell`. -/
abbrev Cells (w : Nat) := List (Nat × BitVec w)

end Sys2Proof
end

