-- ==== Sys2Proof/Syntax.lean ====
section
/-!
DEFINITION. The instructions and steps of the Yarlen Y880: one constructor of `Instr` for each row of
spec/opcode_table.json. Scalar words (R36), lane instructions (R48) and the steps that the device's own
agents take (95_what_each_step_holds.md). Constructors without fields stand last, which Lean's code generator needs: it allows
245 constructors with fields.
-/

namespace Sys2Proof

/-- A party with an issue point and a store queue (R144): a steward core 0 to 15 (`coreid` 128 + n), or a
group, named by partition, resident-workgroup identifier (R333) and group index, as R287's identity word does. -/
inductive PartyId where
  | steward (n : Nat)
  | group (part wg idx : Nat)
deriving DecidableEq, Repr

/-- A composed cache is named by partition, cluster and identifier 1 to 15 (R278). -/
structure CacheId where
  part : Nat
  cluster : Nat
  id : Nat
deriving DecidableEq, Repr

/-- The level at which a clean copy or dirty bytes stand: a core's L1, or a composed cache (R147). -/
inductive CopyLevel where
  | l1
  | composed (c : CacheId)
deriving DecidableEq, Repr

/-- Where an uncorrectable error lies (R302). -/
inductive ErrSite where
  /-- the only valid copy at the home slice, an accumulator line included -/
  | mem (pa : Nat)
  /-- a clean L1 or composed-cache copy of a line -/
  | clean (core line : Nat)
  /-- a byte of a die's L2 copy of a line, by its physical address -/
  | dieCopy (die pa : Nat)
  /-- a dirty byte of a core's L1 -/
  | dirty (core pa : Nat)
  | coreStore (core off : Nat)
  | scaleStore (core off : Nat)
  | bank (cluster bank off : Nat)
  | sreg (p : PartyId) (n : Nat)
  | vreg (p : PartyId) (n t : Nat)
  /-- shadow storage of a core that holds state of the partition (R306) -/
  | shadow (core part : Nat)
deriving DecidableEq, Repr

/-- The blocks of R325 that hold back work at their ceiling (R326): the Bobbin arrays matrix commands, the lanes runs, the
scalar units and steward cores scalar issue, the others accesses. -/
inductive PowerBlock where
  | bobbin
  | lanes
  | scalarUnits
  | sram
  | dram
  | fabric
  | ethernet
  | bridges
  | stewards
deriving DecidableEq, Repr

/-- What a fabric packet asks or answers (R156, R158, R207 to R209). An address is one of the home device's shared
space; where this module is the home, it is the physical address that the rules of its own Nimbrel give. -/
inductive PacketBody where
  | load (addr len : Nat) (shared : Bool)
  | store (addr : Nat) (bytes : List Byte)
  | atomic (addr op : Nat) (x c : DWord)
  /-- answer to the request with that number: the bytes of a load or the old word of an atomic -/
  | data (req : Nat) (bytes : List Byte)
  /-- answer: a store or a non-returning atomic was performed -/
  | done (req : Nat)
  /-- answer: the home device refused the access (R209, reason 3) -/
  | refusal (req : Nat)
  /-- the home device invalidates this module's S copy of a line (R156) -/
  | invalidate (device line : Nat)
  /-- the end-to-end acknowledgement of the packet with that number (R308); it takes no number of its own -/
  | ack (seq : Nat)
deriving DecidableEq, Repr

/-- A packet with its end-to-end sequence number (R308). `device` is the other end. -/
structure Packet where
  device : Nat
  seq : Nat
  body : PacketBody
deriving DecidableEq, Repr

/-- The fields of a lane instruction (R48) but for class and operation. `lit` is the fourth word, zero unless
`bsel` is 0b11. -/
structure LaneWord where
  u : BitVec 1
  mask : BitVec 3
  vd : BitVec 8
  va : BitVec 8
  vb : BitVec 8
  vc : BitVec 8
  bsel : BitVec 2
  cf : BitVec 2
  ty : BitVec 4
  rnd : BitVec 4
  cnt : BitVec 4
  imm32 : BitVec 32
  lit : BitVec 32
deriving DecidableEq, Repr

/-- What a step of the device's own agents acts on: the party, line, copy, port or other object, and the input
that comes from outside. Each meaning's docstring says which fields it reads. -/
structure EventArgs where
  p : PartyId
  x : Nat
  y : Nat
  z : Nat
  flag : Bool
  level : CopyLevel
  site : ErrSite
  block : PowerBlock
  pkt : Packet
  bytes : List Byte
deriving DecidableEq, Repr

/-- One constructor for each row of the opcode table. -/
inductive Instr where
  -- scalar instructions with fields, named as the opcode table names them (d, a, b registers)
  /-- R90. Writes the 64-bit sum of two scalar registers. -/
  | add (d : BitVec 6) (a : BitVec 6) (b : BitVec 6)
  /-- R90. Writes the 64-bit difference of two scalar registers. -/
  | sub (d : BitVec 6) (a : BitVec 6) (b : BitVec 6)
  /-- R90. Writes the bitwise AND of two scalar registers. -/
  | and (d : BitVec 6) (a : BitVec 6) (b : BitVec 6)
  /-- R90. Writes the bitwise OR of two scalar registers. -/
  | or (d : BitVec 6) (a : BitVec 6) (b : BitVec 6)
  /-- R90. Writes the bitwise XOR of two scalar registers. -/
  | xor (d : BitVec 6) (a : BitVec 6) (b : BitVec 6)
  /-- R90. Writes a AND NOT b. -/
  | andn (d : BitVec 6) (a : BitVec 6) (b : BitVec 6)
  /-- R90. Shifts a left by b mod 64. -/
  | shl (d : BitVec 6) (a : BitVec 6) (b : BitVec 6)
  /-- R90. Shifts a right logically by b mod 64. -/
  | shr (d : BitVec 6) (a : BitVec 6) (b : BitVec 6)
  /-- R90. Shifts a right arithmetically by b mod 64. -/
  | sar (d : BitVec 6) (a : BitVec 6) (b : BitVec 6)
  /-- R90. Rotates a left by b mod 64 bits. -/
  | rol (d : BitVec 6) (a : BitVec 6) (b : BitVec 6)
  /-- R90. Writes the low 64 bits of a times b. -/
  | mul (d : BitVec 6) (a : BitVec 6) (b : BitVec 6)
  /-- R90. Writes the high 64 bits of the signed product. -/
  | mulh (d : BitVec 6) (a : BitVec 6) (b : BitVec 6)
  /-- R90. Writes the high 64 bits of the unsigned product. -/
  | mulhu (d : BitVec 6) (a : BitVec 6) (b : BitVec 6)
  /-- R90. Writes the signed quotient rounded toward zero, with the cases of R60. -/
  | div (d : BitVec 6) (a : BitVec 6) (b : BitVec 6)
  /-- R90. Writes the unsigned quotient; division by zero gives all ones. -/
  | divu (d : BitVec 6) (a : BitVec 6) (b : BitVec 6)
  /-- R90. Writes the signed remainder. -/
  | rem (d : BitVec 6) (a : BitVec 6) (b : BitVec 6)
  /-- R90. Writes the unsigned remainder. -/
  | remu (d : BitVec 6) (a : BitVec 6) (b : BitVec 6)
  /-- R90. Writes the signed minimum. -/
  | min (d : BitVec 6) (a : BitVec 6) (b : BitVec 6)
  /-- R90. Writes the signed maximum. -/
  | max (d : BitVec 6) (a : BitVec 6) (b : BitVec 6)
  /-- R90. Writes the unsigned minimum. -/
  | minu (d : BitVec 6) (a : BitVec 6) (b : BitVec 6)
  /-- R90. Writes the unsigned maximum. -/
  | maxu (d : BitVec 6) (a : BitVec 6) (b : BitVec 6)
  /-- R90. Writes 1 if a is less than b, signed. -/
  | slt (d : BitVec 6) (a : BitVec 6) (b : BitVec 6)
  /-- R90. Writes 1 if a is less than b, unsigned. -/
  | sltu (d : BitVec 6) (a : BitVec 6) (b : BitVec 6)
  /-- R90. Writes 1 if a equals b. -/
  | seq (d : BitVec 6) (a : BitVec 6) (b : BitVec 6)
  /-- R90. Counts the leading zero bits of a. -/
  | clz (d : BitVec 6) (a : BitVec 6)
  /-- R90. Counts the trailing zero bits of a. -/
  | ctz (d : BitVec 6) (a : BitVec 6)
  /-- R90. Counts the set bits of a. -/
  | popc (d : BitVec 6) (a : BitVec 6)
  /-- R90. Reverses the bits of a. -/
  | brev (d : BitVec 6) (a : BitVec 6)
  /-- R90. Reverses the bytes of a. -/
  | bswap (d : BitVec 6) (a : BitVec 6)
  /-- R90. Writes the sign-extended 32-bit sum. -/
  | addw (d : BitVec 6) (a : BitVec 6) (b : BitVec 6)
  /-- R90. Writes the sign-extended 32-bit difference. -/
  | subw (d : BitVec 6) (a : BitVec 6) (b : BitVec 6)
  /-- R90. Writes the sign-extended 32-bit product. -/
  | mulw (d : BitVec 6) (a : BitVec 6) (b : BitVec 6)
  /-- R91. Adds a sign-extended immediate. -/
  | addi (d : BitVec 6) (a : BitVec 6) (i : BitVec 14)
  /-- R91. ANDs with a sign-extended immediate. -/
  | andi (d : BitVec 6) (a : BitVec 6) (i : BitVec 14)
  /-- R91. ORs with a sign-extended immediate. -/
  | ori (d : BitVec 6) (a : BitVec 6) (i : BitVec 14)
  /-- R91. XORs with a sign-extended immediate. -/
  | xori (d : BitVec 6) (a : BitVec 6) (i : BitVec 14)
  /-- R91. Shifts left by an immediate count. -/
  | shli (d : BitVec 6) (a : BitVec 6) (n : BitVec 6)
  /-- R91. Shifts right logically by an immediate count. -/
  | shri (d : BitVec 6) (a : BitVec 6) (n : BitVec 6)
  /-- R91. Shifts right arithmetically by an immediate count. -/
  | sari (d : BitVec 6) (a : BitVec 6) (n : BitVec 6)
  /-- R91. Writes 1 if a is less than the immediate, signed. -/
  | slti (d : BitVec 6) (a : BitVec 6) (i : BitVec 14)
  /-- R91. Writes 1 if a is less than the sign-extended immediate, unsigned. -/
  | sltui (d : BitVec 6) (a : BitVec 6) (i : BitVec 14)
  /-- R91. Writes 1 if a equals the immediate. -/
  | seqi (d : BitVec 6) (a : BitVec 6) (i : BitVec 14)
  /-- R91. Multiplies by the immediate. -/
  | muli (d : BitVec 6) (a : BitVec 6) (i : BitVec 14)
  /-- R92. Writes the sign-extended 20-bit immediate times 2^14. -/
  | lui (d : BitVec 6) (i : BitVec 20)
  /-- R93. Writes P plus the sign-extended immediate times 2^14. -/
  | auipc (d : BitVec 6) (i : BitVec 20)
  /-- R94. Places the immediate in bits 53:34 of sd, keeping its low 34 bits. -/
  | lhi (d : BitVec 6) (i : BitVec 20)
  /-- R173. Scalar relaxed CORE-scope load of 1 to 8 bytes. -/
  | ld (d : BitVec 6) (a : BitVec 6) (z : BitVec 3) (i : BitVec 11)
  /-- R173. Scalar relaxed CORE-scope store of 1 to 8 bytes. -/
  | st (d : BitVec 6) (a : BitVec 6) (z : BitVec 3) (i : BitVec 11)
  /-- R174. Scalar load performed at its scope as an acquire. -/
  | lda (d : BitVec 6) (a : BitVec 6) (z : BitVec 3) (s : BitVec 3) (i : BitVec 8)
  /-- R174. Scalar store performed at its scope as a release. -/
  | stl (d : BitVec 6) (a : BitVec 6) (z : BitVec 3) (s : BitVec 3) (i : BitVec 8)
  /-- R175. 32-bit atomic add at the home slice. -/
  | amowAdd (d : BitVec 6) (a : BitVec 6) (b : BitVec 6) (s : BitVec 3) (r : BitVec 1)
  /-- R175. 32-bit atomic AND. -/
  | amowAnd (d : BitVec 6) (a : BitVec 6) (b : BitVec 6) (s : BitVec 3) (r : BitVec 1)
  /-- R175. 32-bit atomic OR. -/
  | amowOr (d : BitVec 6) (a : BitVec 6) (b : BitVec 6) (s : BitVec 3) (r : BitVec 1)
  /-- R175. 32-bit atomic XOR. -/
  | amowXor (d : BitVec 6) (a : BitVec 6) (b : BitVec 6) (s : BitVec 3) (r : BitVec 1)
  /-- R175. 32-bit atomic signed minimum. -/
  | amowMin (d : BitVec 6) (a : BitVec 6) (b : BitVec 6) (s : BitVec 3) (r : BitVec 1)
  /-- R175. 32-bit atomic signed maximum. -/
  | amowMax (d : BitVec 6) (a : BitVec 6) (b : BitVec 6) (s : BitVec 3) (r : BitVec 1)
  /-- R175. 32-bit atomic unsigned minimum. -/
  | amowMinu (d : BitVec 6) (a : BitVec 6) (b : BitVec 6) (s : BitVec 3) (r : BitVec 1)
  /-- R175. 32-bit atomic unsigned maximum. -/
  | amowMaxu (d : BitVec 6) (a : BitVec 6) (b : BitVec 6) (s : BitVec 3) (r : BitVec 1)
  /-- R175. 32-bit atomic exchange. -/
  | amowXchg (d : BitVec 6) (a : BitVec 6) (b : BitVec 6) (s : BitVec 3) (r : BitVec 1)
  /-- R175. 32-bit atomic compare-and-swap with the compare value from sd. -/
  | amowCas (d : BitVec 6) (a : BitVec 6) (b : BitVec 6) (s : BitVec 3) (r : BitVec 1)
  /-- R175. 32-bit atomic FP32 add rounded to nearest even. -/
  | amowFadd (d : BitVec 6) (a : BitVec 6) (b : BitVec 6) (s : BitVec 3) (r : BitVec 1)
  /-- R175. 32-bit atomic FP32 maximum. -/
  | amowFmax32 (d : BitVec 6) (a : BitVec 6) (b : BitVec 6) (s : BitVec 3) (r : BitVec 1)
  /-- R175. 32-bit atomic FP32 absolute maximum. -/
  | amowFamax32 (d : BitVec 6) (a : BitVec 6) (b : BitVec 6) (s : BitVec 3) (r : BitVec 1)
  /-- R175. 64-bit atomic add. -/
  | amodAdd (d : BitVec 6) (a : BitVec 6) (b : BitVec 6) (s : BitVec 3) (r : BitVec 1)
  /-- R175. 64-bit atomic AND. -/
  | amodAnd (d : BitVec 6) (a : BitVec 6) (b : BitVec 6) (s : BitVec 3) (r : BitVec 1)
  /-- R175. 64-bit atomic OR. -/
  | amodOr (d : BitVec 6) (a : BitVec 6) (b : BitVec 6) (s : BitVec 3) (r : BitVec 1)
  /-- R175. 64-bit atomic XOR. -/
  | amodXor (d : BitVec 6) (a : BitVec 6) (b : BitVec 6) (s : BitVec 3) (r : BitVec 1)
  /-- R175. 64-bit atomic signed minimum. -/
  | amodMin (d : BitVec 6) (a : BitVec 6) (b : BitVec 6) (s : BitVec 3) (r : BitVec 1)
  /-- R175. 64-bit atomic signed maximum. -/
  | amodMax (d : BitVec 6) (a : BitVec 6) (b : BitVec 6) (s : BitVec 3) (r : BitVec 1)
  /-- R175. 64-bit atomic unsigned minimum. -/
  | amodMinu (d : BitVec 6) (a : BitVec 6) (b : BitVec 6) (s : BitVec 3) (r : BitVec 1)
  /-- R175. 64-bit atomic unsigned maximum. -/
  | amodMaxu (d : BitVec 6) (a : BitVec 6) (b : BitVec 6) (s : BitVec 3) (r : BitVec 1)
  /-- R175. 64-bit atomic exchange. -/
  | amodXchg (d : BitVec 6) (a : BitVec 6) (b : BitVec 6) (s : BitVec 3) (r : BitVec 1)
  /-- R175. 64-bit atomic compare-and-swap. -/
  | amodCas (d : BitVec 6) (a : BitVec 6) (b : BitVec 6) (s : BitVec 3) (r : BitVec 1)
  /-- R177. Acquire at the named scope on behalf of earlier loads. -/
  | fenceAcq (s : BitVec 3)
  /-- R177. Release at the named scope with no store of its own. -/
  | fenceRel (s : BitVec 3)
  /-- R177. Release then acquire, forbidding store buffering across it. -/
  | fenceFull (s : BitVec 3)
  /-- R243. Branches unconditionally. -/
  | br (i : BitVec 26)
  /-- R243. Writes lk with P + 4 and branches. -/
  | call (i : BitVec 26)
  /-- R243. Branches when the register is zero. -/
  | bz (a : BitVec 6) (i : BitVec 20)
  /-- R243. Branches when the register is non-zero. -/
  | bnz (a : BitVec 6) (i : BitVec 20)
  /-- R243. Branches when the registers are equal. -/
  | beq (a : BitVec 6) (b : BitVec 6) (i : BitVec 14)
  /-- R243. Branches when the registers differ. -/
  | bne (a : BitVec 6) (b : BitVec 6) (i : BitVec 14)
  /-- R243. Branches on signed less-than. -/
  | blt (a : BitVec 6) (b : BitVec 6) (i : BitVec 14)
  /-- R243. Branches on signed greater-or-equal. -/
  | bge (a : BitVec 6) (b : BitVec 6) (i : BitVec 14)
  /-- R243. Branches on unsigned less-than. -/
  | bltu (a : BitVec 6) (b : BitVec 6) (i : BitVec 14)
  /-- R243. Branches on unsigned greater-or-equal. -/
  | bgeu (a : BitVec 6) (b : BitVec 6) (i : BitVec 14)
  /-- R244. Jumps to register plus immediate and writes P + 4 to sd. -/
  | jalr (d : BitVec 6) (a : BitVec 6) (i : BitVec 14)
  /-- R245. Appends a run with a snapshot of s32 to s47 to the lane queue, stalling while it is full. -/
  | lrun (a : BitVec 6) (i : BitVec 14)
  /-- R246. Waits for the empty lane queue and the named flags, then removes their tags. -/
  | lsync (a : BitVec 6)
  /-- R247. Copies a mask register. -/
  | kmov (d : BitVec 3) (a : BitVec 3)
  /-- R247. ANDs two mask registers. -/
  | kand (d : BitVec 3) (a : BitVec 3) (b : BitVec 3)
  /-- R247. ORs two mask registers. -/
  | kor (d : BitVec 3) (a : BitVec 3) (b : BitVec 3)
  /-- R247. XORs two mask registers. -/
  | kxor (d : BitVec 3) (a : BitVec 3) (b : BitVec 3)
  /-- R247. Writes ka AND NOT kb. -/
  | kandn (d : BitVec 3) (a : BitVec 3) (b : BitVec 3)
  /-- R247. Inverts a mask register. -/
  | knot (d : BitVec 3) (a : BitVec 3)
  /-- R247. Counts the set bits of a mask into a scalar. -/
  | kpopc (d : BitVec 6) (a : BitVec 3)
  /-- R247. Writes the index of the lowest set mask bit. -/
  | kffs (d : BitVec 6) (a : BitVec 3)
  /-- R247. Copies a mask into a scalar, zero-extended. -/
  | ktos (d : BitVec 6) (a : BitVec 3)
  /-- R247. Copies the low GW bits of a scalar into a mask. -/
  | stok (d : BitVec 3) (a : BitVec 6)
  /-- R248. Pushes EM, FMT and a join address and narrows EM by a mask. -/
  | divpush (a : BitVec 3) (b : BitVec 6)
  /-- R247. Writes 1 if every EM bit is set in the mask. -/
  | kall (d : BitVec 6) (a : BitVec 3)
  /-- R249. Branches when the mask AND EM is non-zero, after the lane queue empties. -/
  | bkany (k : BitVec 3) (i : BitVec 20)
  /-- R249. Branches when the mask AND EM is zero, after the lane queue empties. -/
  | bknone (k : BitVec 3) (i : BitVec 20)
  /-- R250. Reads one thread's lane register into a scalar after the lane queue empties. -/
  | vread (d : BitVec 6) (n : BitVec 8) (t : BitVec 6)
  /-- R251. Writes FMT and returns its old value. -/
  | sfmtW (d : BitVec 6) (a : BitVec 6) (v : BitVec 10)
  /-- R251. Sets bits of FMT and returns its old value. -/
  | sfmtS (d : BitVec 6) (a : BitVec 6) (v : BitVec 10)
  /-- R251. Clears bits of FMT and returns its old value. -/
  | sfmtC (d : BitVec 6) (a : BitVec 6) (v : BitVec 10)
  /-- R252. Reads a system register. -/
  | csrr (d : BitVec 6) (r : BitVec 12)
  /-- R252. Writes a system register and returns its old value. -/
  | csrw (d : BitVec 6) (a : BitVec 6) (r : BitVec 12)
  /-- R252. Sets bits of a system register and returns its old value. -/
  | csrs (d : BitVec 6) (a : BitVec 6) (r : BitVec 12)
  /-- R252. Clears bits of a system register and returns its old value. -/
  | csrc (d : BitVec 6) (a : BitVec 6) (r : BitVec 12)
  /-- R254. Initialises a barrier object with expected count, named bit and owner. -/
  | binit (a : BitVec 6) (b : BitVec 6)
  /-- R254. Arrives at a barrier carrying a count, as a release. -/
  | barrive (d : BitVec 6) (a : BitVec 6) (b : BitVec 6)
  /-- R254. Adds a signed byte count to a barrier's pending count. -/
  | bexpect (a : BitVec 6) (b : BitVec 6)
  /-- R254. Waits while the barrier phase is n, then acquires. -/
  | bwait (d : BitVec 6) (a : BitVec 6) (b : BitVec 6)
  /-- R254. Tests whether the barrier phase has moved past n, acquiring if so. -/
  | btest (d : BitVec 6) (a : BitVec 6) (b : BitVec 6)
  /-- R227. Closes the open batch and opens the next. -/
  | batch (d : BitVec 6)
  /-- R256. Waits for the batch named by a register. -/
  | bbwaitReg (a : BitVec 6)
  /-- R256. Waits for the batch named by an immediate. -/
  | bbwaitImm (n : BitVec 8)
  /-- R180. Checks and starts a tensor copy, returning its tag. -/
  | tcopy (d : BitVec 6) (a : BitVec 6) (b : BitVec 6)
  /-- R185. Prefetch hint filling clean copies into the die's L2. -/
  | tprefL2 (a : BitVec 6) (b : BitVec 6)
  /-- R185. Prefetch hint filling clean copies into each page's composed cache. -/
  | tprefCc (a : BitVec 6) (b : BitVec 6)
  /-- R186. Returns the state of a copy by its tag. -/
  | tquery (d : BitVec 6) (a : BitVec 6)
  /-- R124. Writes the group's gang register. -/
  | gang (a : BitVec 6)
  /-- R128. Queues quantisation of 128 rows of A into bit planes. -/
  | planeA (d : BitVec 6) (a : BitVec 6) (b : BitVec 6)
  /-- R128. Queues quantisation of 128 columns of B into bit planes. -/
  | planeB (d : BitVec 6) (a : BitVec 6) (b : BitVec 6)
  /-- R131. Queues a copy of E8M0 scale bytes into window columns of the scale store. -/
  | scale (a : BitVec 6) (b : BitVec 6)
  /-- R132. Checks and issues a matrix multiply into an accumulator region, solo or joint. -/
  | mma (d : BitVec 6) (a : BitVec 6) (b : BitVec 6)
  /-- R136. Declares, pins and initialises a 512-line accumulator region. -/
  | acci (a : BitVec 6) (b : BitVec 6)
  /-- R139. Queues a drain of an accumulator region and closes its reservations. -/
  | accd (a : BitVec 6) (b : BitVec 6)
  /-- R188. Registers a tack from a descriptor and returns a handle or failure code. -/
  | tacknew (d : BitVec 6) (a : BitVec 6)
  /-- R189. Makes the group a holder of a tack with a landing point. -/
  | tackon (d : BitVec 6) (a : BitVec 6) (b : BitVec 6)
  /-- R190. Ends the group's hold on a tack. -/
  | tackoff (a : BitVec 6)
  /-- R190. Frees a tack with no holders. -/
  | tackdrop (d : BitVec 6) (a : BitVec 6)
  /-- R190. Returns the state word of a tack. -/
  | tackq (d : BitVec 6) (a : BitVec 6)
  /-- R260. Activates a ladder if needed and pushes items to rung 0's queue. -/
  | ladsub (d : BitVec 6) (a : BitVec 6) (b : BitVec 6)
  /-- R261. Escalates the selected threads' items to the next rung. -/
  | ladesc (a : BitVec 3) (b : BitVec 6)
  /-- R261. Settles the selected threads' items by writing their slots and counting the completion barrier. -/
  | ladres (a : BitVec 3) (b : BitVec 6)
  /-- R191. Joins the workgroup to a cluster sharing group and maps its window. -/
  | cjoin (d : BitVec 6) (a : BitVec 6)
  /-- R193. Returns the membership word. -/
  | cquery (d : BitVec 6)
  /-- R263. Releases, checks and accepts a launch RCB and returns its ticket. -/
  | launch (d : BitVec 6) (a : BitVec 6)
  /-- R264. Waits for a ticket to end and acquires. -/
  | lwait (d : BitVec 6) (a : BitVec 6)
  /-- R264. Returns a ticket's current state at once. -/
  | lwaitTest (d : BitVec 6) (a : BitVec 6)
  /-- R197. Opens or joins a reduction round in a switch slot. -/
  | frjoin (d : BitVec 6) (a : BitVec 6)
  /-- R197. Contributes a value to the joined reduction round. -/
  | frput (d : BitVec 6) (a : BitVec 6) (b : BitVec 6)
  /-- R197. Waits for the round to deliver and returns its result. -/
  | frget (d : BitVec 6) (a : BitVec 6)
  /-- R197. Returns the slot status as last seen. -/
  | frstat (d : BitVec 6) (a : BitVec 6)
  /-- R286. Raises class 0x14 with faultaddr from a register. -/
  | trap (a : BitVec 6)
  /-- R287. Resumes, skips, redirects or fails a parked group or a stopped copy or drain. -/
  | eret (d : BitVec 6) (a : BitVec 6) (b : BitVec 6)
  /-- R288. Stops the steward core until a write to a line, a posted record or 1 ms. -/
  | halt (a : BitVec 6)
  /-- R289. Invalidates translations module-wide and breaks affected tacks. -/
  | tlbinv (a : BitVec 6) (b : BitVec 6)
  /-- R279. Sets a cluster bank's mode and owner, zeroing it. -/
  | bankcfg (d : BitVec 6) (a : BitVec 6) (b : BitVec 6)
  /-- R281. Installs a composed cache definition. -/
  | vcset (d : BitVec 6) (a : BitVec 6)
  /-- R284. Has the darning engine patch executable text. -/
  | darn (d : BitVec 6) (a : BitVec 6)
  /-- R290. Drains, fails the workgroups of and resets a compute core. -/
  | corerst (d : BitVec 6) (a : BitVec 6)
  /-- R306. Stops one partition and starts another on the same cores. -/
  | pswap (d : BitVec 6) (a : BitVec 6) (b : BitVec 6)
  /-- R292. Extends a measurement slot with 64 bytes. -/
  | measureExt (d : BitVec 6) (a : BitVec 6) (b : BitVec 6)
  /-- R292. Writes a measurement slot to memory. -/
  | measureRead (a : BitVec 6) (b : BitVec 6)
  /-- R292. Closes a measurement slot until reset. -/
  | measureClose (b : BitVec 6)
  /-- R293. Writes a signed quote of report data and slots. -/
  | measureQuote (d : BitVec 6) (a : BitVec 6) (b : BitVec 6)
  /-- R292. Writes the identity public key. -/
  | measureKey (a : BitVec 6)
  /-- R271. PORTCMD code 1 installs a partition record. -/
  | partitionRecord (d : BitVec 6) (a : BitVec 6)
  /-- R291. PORTCMD code 2 installs peer-table entries. -/
  | peerEntries (d : BitVec 6) (a : BitVec 6)
  /-- R291. PORTCMD code 3 grants or revokes switch reduction slots. -/
  | reductionSlots (d : BitVec 6) (a : BitVec 6)
  /-- R329. PORTCMD code 4 op 0 brings an Ethernet port up. -/
  | ethernetUp (d : BitVec 6) (a : BitVec 6)
  /-- R330. PORTCMD code 4 op 1 takes an Ethernet port down, aborting queued ops. -/
  | ethernetDown (d : BitVec 6) (a : BitVec 6)
  /-- R329. PORTCMD code 4 op 2 queues a frame for transmission. -/
  | ethernetTransmit (d : BitVec 6) (a : BitVec 6)
  /-- R329. PORTCMD code 4 op 3 queues a receive buffer. -/
  | postReceiveBuffer (d : BitVec 6) (a : BitVec 6)
  /-- R331. PORTCMD code 5 op 0 brings a fabric port up on enabled links. -/
  | fabricPortUp (d : BitVec 6) (a : BitVec 6)
  /-- R331. PORTCMD code 5 op 1 takes a fabric port down. -/
  | fabricPortDown (d : BitVec 6) (a : BitVec 6)
  /-- R331. PORTCMD code 5 op 2 returns the device number and links up. -/
  | fabricPortQuery (d : BitVec 6) (a : BitVec 6)
  -- lane instructions of runs
  /-- R95. Lane integer add per element. -/
  | iadd (w : LaneWord)
  /-- R95. Lane integer subtract. -/
  | isub (w : LaneWord)
  /-- R95. Lane integer multiply, low bits. -/
  | imul (w : LaneWord)
  /-- R95. Lane integer multiply, high bits. -/
  | imulhi (w : LaneWord)
  /-- R95. Lane integer multiply-add. -/
  | imad (w : LaneWord)
  /-- R95. Lane bitwise AND. -/
  | iand (w : LaneWord)
  /-- R95. Lane bitwise OR. -/
  | ior (w : LaneWord)
  /-- R95. Lane bitwise XOR. -/
  | ixor (w : LaneWord)
  /-- R95. Lane bitwise NOT. -/
  | inot (w : LaneWord)
  /-- R95. Lane shift left per element. -/
  | ishl (w : LaneWord)
  /-- R95. Lane logical shift right. -/
  | ishr (w : LaneWord)
  /-- R95. Lane arithmetic shift right. -/
  | isar (w : LaneWord)
  /-- R95. Lane integer minimum. -/
  | imin (w : LaneWord)
  /-- R95. Lane integer maximum. -/
  | imax (w : LaneWord)
  /-- R95. Lane integer absolute value. -/
  | iabs (w : LaneWord)
  /-- R95. Lane per-element population count. -/
  | ipopc (w : LaneWord)
  /-- R95. Lane per-element leading-zero count. -/
  | iclz (w : LaneWord)
  /-- R97. Lane bit-field extract. -/
  | ibfe (w : LaneWord)
  /-- R97. Lane bit-field insert. -/
  | ibfi (w : LaneWord)
  /-- R98. Lane select by a mask register. -/
  | isel (w : LaneWord)
  /-- R95. Lane move of operand b. -/
  | imov (w : LaneWord)
  /-- R99. Lane floating-point add, rounded once. -/
  | fadd (w : LaneWord)
  /-- R99. Lane floating-point subtract. -/
  | fsub (w : LaneWord)
  /-- R99. Lane floating-point multiply. -/
  | fmul (w : LaneWord)
  /-- R99. Lane fused multiply-add with one rounding. -/
  | ffma (w : LaneWord)
  /-- R99. Lane floating-point minimum. -/
  | fmin (w : LaneWord)
  /-- R99. Lane floating-point maximum. -/
  | fmax (w : LaneWord)
  /-- R99. Lane floating-point absolute value. -/
  | fabs (w : LaneWord)
  /-- R99. Lane floating-point negation. -/
  | fneg (w : LaneWord)
  /-- R100. Lane round to an integral value. -/
  | frint (w : LaneWord)
  /-- R101. Lane type conversion with element mapping. -/
  | cvt (w : LaneWord)
  /-- R104. Quantises the group's 32 F32 values as one scaled block. -/
  | qblk (w : LaneWord)
  /-- R105. Writes the absolute maximum over active threads. -/
  | amax (w : LaneWord)
  /-- R107. Reads a register from a per-thread source thread. -/
  | shfl (w : LaneWord)
  /-- R107. Rotates a register by GW >> n threads. -/
  | shflr (w : LaneWord)
  /-- R107. Reads a register from thread t XOR b. -/
  | shflx (w : LaneWord)
  /-- R107. Broadcasts one thread's register to all. -/
  | bcast (w : LaneWord)
  /-- R109. Tree reduction over active threads. -/
  | lstep (w : LaneWord)
  /-- R110. Inclusive left-to-right prefix over active threads. -/
  | scan (w : LaneWord)
  /-- R111. Writes the mask of active threads with an equal value. -/
  | matchLanes (w : LaneWord)
  /-- R112. Reduces segments of equal keys. -/
  | segred (w : LaneWord)
  /-- R114. Integer compare into a mask register. -/
  | icmp (w : LaneWord)
  /-- R115. Floating-point compare into a mask register. -/
  | fcmp (w : LaneWord)
  /-- R201. Lane global load, long-latency. -/
  | laneLd (w : LaneWord)
  /-- R201. Lane global store. -/
  | laneSt (w : LaneWord)
  /-- R201. Lane core-store load. -/
  | lds (w : LaneWord)
  /-- R201. Lane core-store store. -/
  | sts (w : LaneWord)
  /-- R201. Lane cluster-window load. -/
  | ldcl (w : LaneWord)
  /-- R201. Lane cluster-window store. -/
  | stcl (w : LaneWord)
  /-- R203. Pops FIFO entries from a cluster bank per thread. -/
  | fifopop (w : LaneWord)
  /-- R203. Pushes FIFO entries into a cluster bank per thread. -/
  | fifopush (w : LaneWord)
  /-- R204. Loads a ragged row of up to cnt + 1 elements per thread. -/
  | ragld (w : LaneWord)
  /-- R205. Returning lane global atomic, threads applied in ascending order. -/
  | atom (w : LaneWord)
  /-- R206. Non-returning lane global atomic, merging adds of one word. -/
  | atomr (w : LaneWord)
  /-- R205. Lane core-store atomic. -/
  | atoms (w : LaneWord)
  /-- R208. Remote load through a peer window. -/
  | rld (w : LaneWord)
  /-- R208. Remote store through a peer window. -/
  | rst (w : LaneWord)
  /-- R208. Remote atomic at the home device's slice. -/
  | ratom (w : LaneWord)
  /-- R116. Lane reciprocal. -/
  | rcp (w : LaneWord)
  /-- R116. Lane reciprocal square root. -/
  | rsqrt (w : LaneWord)
  /-- R116. Lane square root. -/
  | sqrt (w : LaneWord)
  /-- R116. Lane floating-point division. -/
  | laneDiv (w : LaneWord)
  /-- R116. Lane base-2 exponential. -/
  | exp2 (w : LaneWord)
  /-- R116. Lane base-2 logarithm. -/
  | log2 (w : LaneWord)
  /-- R116. Lane sine. -/
  | sin (w : LaneWord)
  /-- R116. Lane cosine. -/
  | cos (w : LaneWord)
  /-- R116. Lane hyperbolic tangent. -/
  | tanh (w : LaneWord)
  /-- R117. Lane no-operation occupying cnt + 1 sweeps. -/
  | lnop (w : LaneWord)
  /-- R118. Writes an identity value to each active thread. -/
  | lid (w : LaneWord)
  -- scalar instructions without fields
  /-- R169. Discards fetched scalar instructions and unstarted runs so later fetches follow completed invalidations. -/
  | ifence
  /-- R160. Holds later engine commands until earlier loads and stores have merged or been performed. -/
  | fenceEng
  /-- R248. Switches EM to the else path, or pops and jumps to the join if it is empty. -/
  | divelse
  /-- R248. Pops the divergence stack, restoring EM and FMT. -/
  | divpop
  /-- R192. Ends the workgroup's sharing-group membership. -/
  | cleave
  /-- R265. Closes the batch, waits for outstanding work, checks and ends the group. -/
  | exit
  /-- R266. Lets every other ready scalar stream of the unit issue once. -/
  | yield
  /-- R267. Arrives at the launch's wide barrier and stops the group with a release. -/
  | phase
  /-- R238. Enters a critical section at issue priority 8. -/
  | criton
  /-- R238. Leaves the critical section. -/
  | critoff
  -- steps of the device's own agents: no encoding, their choice stands in `EventArgs`
  /-- R12. The lane arbiter starts a group's head run when its wait flags clear, decoding the header. -/
  | runStart
  /-- R19. A flagged operation completes for every active thread and its flag count drops. -/
  | longLatencyCompletion
  /-- R147. The home slice accepts or refuses a core's dirty notice for a line. -/
  | dirtyNotice
  /-- R148. A store-queue entry leaves the queue and is performed at its level. -/
  | storePerform
  /-- R147. Dirty bytes drain to the next level and set the last-writer record. -/
  | dirtyByteDrain
  /-- R147. An L1 or composed-cache clean copy is filled from the next level. -/
  | cleanCopyFill
  /-- R147. A clean copy is dropped. -/
  | cleanCopyDrop
  /-- R152. A core receives a home slice's drain command and drains the named bytes. -/
  | commandedDrain
  /-- R151. A drain is confirmed at the home slice, dropping lazy records and completing waiting acquires. -/
  | drainConfirmation
  /-- R155. The home directory grants a die S or E, forwarding dirty data. -/
  | dieReadRequest
  /-- R155. The home directory invalidates other copies and grants M. -/
  | dieWriteRequest
  /-- R315. A die drops its copies of a line and acknowledges the invalidation. -/
  | dieInvalidationAck
  /-- R155. A die evicts its copy, sending M or O data to the home. -/
  | dieCopyEviction
  /-- R156. A device acknowledges invalidation of its S copy to the switch. -/
  | fabricInvalidationAck
  /-- R157. The switch fences an unreachable holding device and counts it acknowledged. -/
  | deviceFenced
  /-- R160. A copy engine performs one element and subtracts its bytes from the barrier. -/
  | copyElement
  /-- R181. A copy completes, releasing its locks and slot. -/
  | copyComplete
  /-- R119. The next matrix-queue command starts after the previous one completes. -/
  | matrixCommandStart
  /-- R128. A PLANE command completes after writing its planes. -/
  | planeComplete
  /-- R131. A SCALE command completes after writing the scale store. -/
  | scaleComplete
  /-- R133. The region home grants an MMA's reservation. -/
  | mmaReservationGrant
  /-- R134. An MMA finishes its block sums, checks residues and sends 512 contributions or faults. -/
  | mmaComputeDone
  /-- R81. A home slice applies, holds or returns an MMA contribution to an accumulator line. -/
  | lineContribution
  /-- R134. A core resends an ordered contribution returned by a full slice buffer. -/
  | contributionRetry
  /-- R140. An ACCD starts once no reserved MMA is outstanding and checks ordered indices. -/
  | accdStart
  /-- R141. An ACCD converts and writes one output row, zeroing its lines if asked. -/
  | accdRow
  /-- R311. After the last row the ACCD applies the maximum update, releases and reopens reservations. -/
  | accdFinish
  /-- R227. A batch completes when its operations and earlier batches have completed. -/
  | batchComplete
  /-- R165. A tack holder reaches its stopping point and acknowledges an unpick. -/
  | holderAcknowledge
  /-- R217. The shuttle places at most one workgroup per clk by its order. -/
  | workgroupPlacement
  /-- R217. Every 20 us of waiting raises an unstarted launch's dispatch priority by one. -/
  | dispatchPriorityAging
  /-- R323. Every 20 us a saved workgroup awaiting restore gains one dispatch priority. -/
  | savedPriorityAging
  /-- R217. A launch first for 100 us without placing becomes blocking. -/
  | launchBlocking
  /-- R218. A launch's stagger runs out, allowing its next workgroup start. -/
  | staggerExpiry
  /-- R300. A workgroup's runs finish and its stores drain, stopping it for save. -/
  | workgroupStop
  /-- R301. The stopped workgroup's image is written to the save pool, freeing the core. -/
  | workgroupSave
  /-- R322. A saved workgroup is read back to its same core-store range and resumes. -/
  | workgroupRestore
  /-- R221. The last workgroup ends; the shuttle releases, writes status, arrives and completes the ticket. -/
  | launchComplete
  /-- R230. Every workgroup has arrived and the launch's phase completes, resuming them. -/
  | widePhaseComplete
  /-- R222. Every 20 us a group's ready run waits raises its issue priority by one. -/
  | issuePriorityAging
  /-- R239. A critical section expires 50 us after CRITON, recording event 0x18. -/
  | criticalSectionExpiry
  /-- R299. A group parked 50 us without ERET has its workgroup swapped out. -/
  | parkedSwapTimeout
  /-- R234. The shuttle packs ready rung queue entries into a new rung group. -/
  | ladderPack
  /-- R259. A ladder retires when all items are settled or failed and no rung group is resident. -/
  | ladderRetire
  /-- R203. A waiting FIFO pop or push completes when an entry or room appears. -/
  | fifoWaitEnd
  /-- R298. A fault record is written, the producer released and a steward core woken. -/
  | faultRecordDelivery
  /-- R304. A core unit that does not answer for 100 us fails the core. -/
  | unitResponseTimeout
  /-- R304. An uncorrected control-state error takes the core out of service. -/
  | coreFailure
  /-- R303. A failing DRAM row or L2 way is replaced by a spare. -/
  | rowRetirement
  /-- R307. A link receiver checks a flit, discarding and requesting resend on error. -/
  | flitReceive
  /-- R307. A link fails and its retry buffer moves to surviving links. -/
  | linkFailure
  /-- R308. A destination accepts a sequenced packet, applies it once and acknowledges. -/
  | packetReceive
  /-- R308. A source receives an acknowledgement and frees the packet. -/
  | packetAcknowledge
  /-- R308. An unacknowledged packet is resent after 20 us. -/
  | packetResendTimeout
  /-- R308. After 1 ms without acknowledgement waiting accesses complete with class 0x11. -/
  | destinationUnreachable
  /-- R196. A reduction round delivers a PARTIAL result on timeout. -/
  | roundTimeout
  /-- R196. A slot returns to idle one timeout after delivery. -/
  | slotCloseTimeout
  /-- R288. A halted steward core continues after 1 ms. -/
  | haltTimeout
  /-- R288. A write to the watched line or a posted record wakes a halted steward core. -/
  | haltWake
  /-- R329. A received frame is written to a posted buffer and its completion stored. -/
  | ethernetFrameReceive
  /-- R329. A queued transmit finishes and its completion word is stored. -/
  | ethernetTransmitDone
  /-- R330. An Ethernet link fails, aborting queued ops. -/
  | ethernetLinkFailure
  /-- R329. The port's link comes up, completing an up command. -/
  | ethernetLinkUp
  /-- R329. A link not up within 500 ms ends the up command with In use. -/
  | ethernetUpTimeout
  /-- R331. An enabled link trains and the switch assigns a device number. -/
  | fabricLinkTrained
  /-- R331. No link trains within 200 ms and the up command returns In use. -/
  | fabricUpTimeout
  /-- R327. A die at 105 C holds back work in every block. -/
  | thermalHold
  /-- R327. A held die falls below 100 C and resumes. -/
  | thermalHoldRelease
  /-- R327. A die at 115 C removes power from every die and records the trip reason. -/
  | thermalTrip
  /-- R332. The input reaches 40 V, rails come up and module reset is released. -/
  | powerOn
  /-- R309. Module reset sets the reset state and steward core 128 runs the ROM boot. -/
  | moduleReset
  /-- R5. An instruction word or lane instruction with an unassigned major, class, function or sub-operation raises class 0x01. -/
  | illegalEncoding
  /-- R302. An uncorrectable error arises in DRAM, a cache, core store, the scale store, a register file, an accumulator line or shadow storage, and the word is left holding it. -/
  | uncorrectableError
  /-- R157. A device that the switch fenced for a home range is readmitted after it has dropped its S copies, and its accesses to that range no longer raise class 0x11. -/
  | fencedDeviceReadmission
  /-- R332. Power is removed from the module input, losing all state that is not in flash and clearing the boot-status and trip-reason registers. -/
  | powerRemoval
  /-- R326. A block's draw reaches its design ceiling, and the block holds back its work at work boundaries until its draw falls. -/
  | powerCeilingReached
  /-- R307. A link sender receives the receiver's acknowledgement or resend request, frees acknowledged flits from its retry buffer or resends from the first one discarded, and counts consecutive failed resends. -/
  | linkResendRequest
deriving DecidableEq, Repr

end Sys2Proof
end

