-- ==== Sys2Proof/WellFormed.lean ====
section
/-!
DEFINITION. Well-formed instructions: the checks that an instruction word must pass whatever the state is
(R5, R39, R43, R49, R51, R52 and the field rules of the entries). A word that fails one raises class 0x01.
Checks that need the state (declared registers, FMT, group width) are made by the meanings.
-/

namespace Sys2Proof

/-- Scope codes 0 to 4 are GROUP, CORE, CLUSTER, DEVICE, FABRIC; 5 is PDEVICE; 6 and 7 are reserved (R39). -/
def scopePlain (s : BitVec 3) : Bool := s.toNat ≤ 4

/-- Scopes of an acquire: PDEVICE is accepted as well (R39). -/
def scopeAcquire (s : BitVec 3) : Bool := s.toNat ≤ 5

/-- Scope of a scalar atomic: PDEVICE needs `ar` = 1 (R39, R176). -/
def scopeAmo (s : BitVec 3) (r : BitVec 1) : Bool := scopePlain s || (s == 5#3 && r == 1#1)

namespace LaneWord

/-- Operand b as R48 gives it: the fields that `bsel` leaves unused are zero. -/
def bOk (w : LaneWord) : Bool :=
  match w.bsel.toNat with
  | 0 => w.lit == 0
  | 1 => w.vb.extractLsb' 4 4 == 0 && w.lit == 0
  | 2 => w.vb == 0 && w.lit == 0
  | _ => w.vb == 0

/-- Operand b unused: `vb` zero, `bsel` 0b00 and no fourth word (R95, R99). -/
def noB (w : LaneWord) : Bool := w.vb == 0 && w.bsel == 0 && w.lit == 0

/-- `imm32` is zero unless it is operand b (R95, R99, R116). -/
def immOnlyB (w : LaneWord) : Bool := w.bsel == 2 || w.imm32 == 0

/-- `rnd` holds an assigned code (R48). -/
def rndOk (w : LaneWord) : Bool := w.rnd.toNat ≤ 3 || w.rnd == 15

/-- The computation classes carry no completion flag (R86). -/
def noFlag (w : LaneWord) : Bool := w.cf == 0

/-- Class 0x0 with operands a and b (R95). -/
def intAB (w : LaneWord) : Bool :=
  w.bOk && w.immOnlyB && w.vc == 0 && w.rnd == 0 && w.noFlag

/-- Class 0x0 with operands a, b and c (R95). -/
def intABC (w : LaneWord) : Bool := w.bOk && w.immOnlyB && w.rnd == 0 && w.noFlag

/-- Class 0x0 with operand a alone (R95). -/
def intA (w : LaneWord) : Bool :=
  w.noB && w.imm32 == 0 && w.vc == 0 && w.rnd == 0 && w.noFlag

/-- ISEL (R98): the selector takes `imm32`, so a literal b stands in the fourth word. -/
def selOk (w : LaneWord) : Bool :=
  w.bOk && w.bsel != 2 && w.imm32.extractLsb' 3 29 == 0 && w.vc == 0 && w.rnd == 0 && w.noFlag

/-- IMOV (R95): operand b alone. -/
def movOk (w : LaneWord) : Bool := w.intAB && w.va == 0

/-- Class 0x1, rounding, operands a and b (R99). -/
def fpAB (w : LaneWord) : Bool :=
  w.bOk && w.immOnlyB && w.vc == 0 && w.rndOk && w.noFlag

/-- FFMA (R99). -/
def fpABC (w : LaneWord) : Bool := w.bOk && w.immOnlyB && w.rndOk && w.noFlag

/-- FMIN and FMAX: no rounding (R99). -/
def fpABNoRnd (w : LaneWord) : Bool := w.intAB

/-- FRINT and the special functions of one operand (R99, R116). -/
def fpA (w : LaneWord) : Bool :=
  w.noB && w.imm32 == 0 && w.vc == 0 && w.rndOk && w.noFlag

/-- CVT (R101). -/
def cvtOk (w : LaneWord) : Bool :=
  w.noB && w.vc == 0 && w.rndOk && w.noFlag &&
  w.imm32.extractLsb' 7 25 == 0 && (w.imm32.extractLsb' 0 4).toNat ≤ 13

/-- QBLK, AMAX and MATCH (R104, R105, R111): `va`, `vd`, `ty` and the mask alone. -/
def blkOk (w : LaneWord) : Bool :=
  w.noB && w.vc == 0 && w.rnd == 0 && w.cnt == 0 && w.imm32 == 0 && w.u == 0 && w.noFlag

/-- SHFL, SHFLR and SHFLX (R107). -/
def shflOk (w : LaneWord) : Bool :=
  w.bOk && w.immOnlyB && w.vc == 0 && w.rnd == 0 && w.u == 0 && w.noFlag

/-- BCAST: a scalar or `imm32` operand b (R107). -/
def bcastOk (w : LaneWord) : Bool := w.shflOk && (w.bsel == 1 || w.bsel == 2)

/-- LSTEP and SCAN (R108); `rnd` depends on the resolved type and is checked at issue. -/
def reduceOk (w : LaneWord) : Bool :=
  w.noB && w.vc == 0 && w.rndOk && w.cnt == 0 && w.u == 0 && w.noFlag &&
  w.imm32.extractLsb' 4 28 == 0 && (w.imm32.extractLsb' 0 4).toNat ≤ 6

/-- SEGRED reads `vc` as well (R108, R112). -/
def segredOk (w : LaneWord) : Bool :=
  w.noB && w.rndOk && w.cnt == 0 && w.u == 0 && w.noFlag &&
  w.imm32.extractLsb' 4 28 == 0 && (w.imm32.extractLsb' 0 4).toNat ≤ 6

/-- ICMP and FCMP (R113): `vd` names k1 to k7, and conditions run up to `top`. DESIGN CHOICE, safe (log entry 59):
`imm32` holds the condition, so operand b cannot be that word (`bsel` 0b10), and the encoding is illegal. -/
def cmpOk (w : LaneWord) (top : Nat) : Bool :=
  w.bOk && w.bsel != 2 && w.vc == 0 && w.rnd == 0 && w.cnt == 0 && w.u == 0 && w.noFlag &&
  w.vd.extractLsb' 3 5 == 0 && w.vd != 0 &&
  w.imm32.extractLsb' 6 26 == 0 && (w.imm32.extractLsb' 0 4).toNat ≤ top

/-- LNOP (R117). -/
def lnopOk (w : LaneWord) : Bool :=
  w.u == 0 && w.mask == 0 && w.vd == 0 && w.va == 0 && w.noB && w.vc == 0 && w.noFlag &&
  w.ty == 0 && w.rnd == 0 && w.imm32 == 0

/-- LID (R118). -/
def lidOk (w : LaneWord) : Bool :=
  w.va == 0 && w.noB && w.vc == 0 && w.noFlag && w.ty == 0 && w.rnd == 0 && w.cnt == 0 &&
  w.imm32.extractLsb' 3 29 == 0

/-- The scope field of R51 and R52. -/
def scope (w : LaneWord) : BitVec 3 := w.imm32.extractLsb' 13 3
/-- The order field of R51: 0 relaxed, 1 acquire, 2 release. -/
def order (w : LaneWord) : BitVec 2 := w.imm32.extractLsb' 11 2
/-- The size field of R51. -/
def size (w : LaneWord) : BitVec 3 := w.imm32.extractLsb' 8 3
/-- The sign-extend bit of R51. -/
def sext (w : LaneWord) : Bool := w.imm32.getLsbD 7
/-- The operation field of R52. -/
def atomOp (w : LaneWord) : BitVec 4 := w.imm32.extractLsb' 8 4
/-- The return bit of R52. -/
def ret (w : LaneWord) : Bool := w.imm32.getLsbD 12

/-- What classes 0x5 to 0x7 share (R51, R198); `cnt` is checked by the entry. -/
def memOk (w : LaneWord) : Bool :=
  w.bsel == 1 && w.vb.extractLsb' 4 4 == 0 && w.lit == 0 && w.ty == 0 && w.rnd == 0 && w.u == 0 &&
  w.cf != 3

/-- A register number that starts a block of the access size (R51): 2 registers at 64 bits, 4 at 128. -/
def regAligned (w : LaneWord) (r : BitVec 8) : Bool :=
  match w.size.toNat with
  | 3 => r.toNat % 2 == 0
  | 4 => r.toNat % 4 == 0
  | _ => true

/-- Loads of R201 and RLD (R208) up to `top` scopes; acquire or relaxed. -/
def loadOk (w : LaneWord) : Bool :=
  w.memOk && w.cnt == 0 && w.order.toNat ≤ 1 && w.size.toNat ≤ 4 &&
  (!w.sext || w.size.toNat ≤ 1) && w.imm32.extractLsb' 0 5 == 0 && w.regAligned w.vd

/-- Stores of R201 and RST (R208): release or relaxed. -/
def storeOk (w : LaneWord) : Bool :=
  w.memOk && w.cnt == 0 && (w.order == 0 || w.order == 2) && w.size.toNat ≤ 4 && !w.sext &&
  w.imm32.extractLsb' 0 5 == 0 && w.vd == 0 && w.regAligned w.vc

/-- FIFOPOP and FIFOPUSH (R202). -/
def fifoOk (w : LaneWord) : Bool :=
  w.memOk && w.cnt == 0 && w.va == 0 && w.imm32.extractLsb' 13 19 == 0 && !w.imm32.getLsbD 11 &&
  w.imm32.extractLsb' 0 8 == 0 && 2 ≤ w.size.toNat && w.size.toNat ≤ 4

/-- The atomics act on register pairs for ADD64 and XCHG64 (R205). -/
def atom64 (w : LaneWord) : Bool := w.atomOp == 1 || w.atomOp == 15

/-- CAS32 takes its compare value from a register (R205). -/
def atomCas (w : LaneWord) : Bool := w.atomOp == 13

/-- Atomics of classes 0x6 and 0x7 (R52, R205). -/
def atomicOk (w : LaneWord) : Bool :=
  w.memOk && w.cnt == 0 && w.imm32.extractLsb' 0 8 == 0 && scopePlain w.scope &&
  (!w.atom64 || w.vd.toNat % 2 == 0)

end LaneWord

/-- The state-free checks of each instruction (R5, R39, R43, R49, R51, R52 and the entries). -/
def Instr.wf (i : Instr) : Bool :=
  match i with
  | .ld _ _ z _ => z != 7
  | .st _ _ z _ => z.toNat ≤ 3
  | .lda _ _ z s _ => z != 7 && scopeAcquire s
  | .stl _ _ z s _ => z.toNat ≤ 3 && scopePlain s
  | .amowAdd _ _ _ s r => scopeAmo s r
  | .amowAnd _ _ _ s r => scopeAmo s r
  | .amowOr _ _ _ s r => scopeAmo s r
  | .amowXor _ _ _ s r => scopeAmo s r
  | .amowMin _ _ _ s r => scopeAmo s r
  | .amowMax _ _ _ s r => scopeAmo s r
  | .amowMinu _ _ _ s r => scopeAmo s r
  | .amowMaxu _ _ _ s r => scopeAmo s r
  | .amowXchg _ _ _ s r => scopeAmo s r
  | .amowCas _ _ _ s r => scopeAmo s r
  | .amowFadd _ _ _ s r => scopeAmo s r
  | .amowFmax32 _ _ _ s r => scopeAmo s r
  | .amowFamax32 _ _ _ s r => scopeAmo s r
  | .amodAdd _ _ _ s r => scopeAmo s r
  | .amodAnd _ _ _ s r => scopeAmo s r
  | .amodOr _ _ _ s r => scopeAmo s r
  | .amodXor _ _ _ s r => scopeAmo s r
  | .amodMin _ _ _ s r => scopeAmo s r
  | .amodMax _ _ _ s r => scopeAmo s r
  | .amodMinu _ _ _ s r => scopeAmo s r
  | .amodMaxu _ _ _ s r => scopeAmo s r
  | .amodXchg _ _ _ s r => scopeAmo s r
  | .amodCas _ _ _ s r => scopeAmo s r
  | .fenceAcq s => scopeAcquire s
  | .fenceRel s => scopePlain s
  | .fenceFull s => scopeAcquire s
  | .iadd w => w.intAB | .isub w => w.intAB | .imul w => w.intAB | .imulhi w => w.intAB
  | .imad w => w.intABC | .iand w => w.intAB | .ior w => w.intAB | .ixor w => w.intAB
  | .inot w => w.intA | .ishl w => w.intAB | .ishr w => w.intAB | .isar w => w.intAB
  | .imin w => w.intAB | .imax w => w.intAB | .iabs w => w.intA | .ipopc w => w.intA
  | .iclz w => w.intA | .ibfe w => w.intAB | .ibfi w => w.intABC | .isel w => w.selOk
  | .imov w => w.movOk
  | .fadd w => w.fpAB | .fsub w => w.fpAB | .fmul w => w.fpAB | .ffma w => w.fpABC
  | .fmin w => w.fpABNoRnd | .fmax w => w.fpABNoRnd | .fabs w => w.intA | .fneg w => w.intA
  | .frint w => w.fpA
  | .cvt w => w.cvtOk | .qblk w => w.blkOk | .amax w => w.blkOk
  | .shfl w => w.shflOk | .shflr w => w.shflOk | .shflx w => w.shflOk | .bcast w => w.bcastOk
  | .lstep w => w.reduceOk | .scan w => w.reduceOk | .matchLanes w => w.blkOk | .segred w => w.segredOk
  | .icmp w => w.cmpOk 5 | .fcmp w => w.cmpOk 7
  | .laneLd w => w.loadOk && w.vc == 0 && (scopePlain w.scope || (w.scope == 5 && w.order == 1))
  | .laneSt w => w.storeOk && scopePlain w.scope
  | .lds w => w.loadOk && w.vc == 0 && w.scope.toNat ≤ 1 && w.cf == 0
  | .sts w => w.storeOk && w.scope.toNat ≤ 1 && w.cf == 0
  | .ldcl w => w.loadOk && w.vc == 0 && w.scope.toNat ≤ 2
  | .stcl w => w.storeOk && w.scope.toNat ≤ 2
  | .fifopop w => w.fifoOk && w.regAligned w.vd
  | .fifopush w => w.fifoOk && w.vd == 0 && w.regAligned w.vc
  | .ragld w =>
    w.memOk && w.order == 0 && scopePlain w.scope && w.size.toNat ≤ 2 &&
    (!w.sext || w.size.toNat ≤ 1) && w.imm32.extractLsb' 0 5 == 0 && w.va.toNat % 2 == 0 && w.vc == 0
  | .atom w => w.atomicOk && w.ret && (w.atomCas || w.vc == 0)
  | .atomr w => w.atomicOk && !w.ret && (w.atomCas || w.vc == 0)
  | .atoms w => w.atomicOk && w.scope.toNat ≤ 1 && w.cf == 0 && (w.atomCas || w.vc == 0)
  | .rld w => w.loadOk && (w.scope == 3 || w.scope == 4)
  | .rst w => w.storeOk && (w.scope == 3 || w.scope == 4) && w.va.toNat % 2 == 0
  | .ratom w =>
    w.atomicOk && (w.scope == 3 || w.scope == 4) && (!w.atomCas || w.va.toNat % 2 == 0)
  | .rcp w => w.fpA | .rsqrt w => w.fpA | .sqrt w => w.fpA | .laneDiv w => w.fpAB
  | .exp2 w => w.fpA | .log2 w => w.fpA | .sin w => w.fpA | .cos w => w.fpA | .tanh w => w.fpA
  | .lnop w => w.lnopOk
  | .lid w => w.lidOk
  | .add _ _ _ => true | .sub _ _ _ => true | .and _ _ _ => true
  | .or _ _ _ => true | .xor _ _ _ => true | .andn _ _ _ => true
  | .shl _ _ _ => true | .shr _ _ _ => true | .sar _ _ _ => true
  | .rol _ _ _ => true | .mul _ _ _ => true | .mulh _ _ _ => true
  | .mulhu _ _ _ => true | .div _ _ _ => true | .divu _ _ _ => true
  | .rem _ _ _ => true | .remu _ _ _ => true | .min _ _ _ => true
  | .max _ _ _ => true | .minu _ _ _ => true | .maxu _ _ _ => true
  | .slt _ _ _ => true | .sltu _ _ _ => true | .seq _ _ _ => true
  | .clz _ _ => true | .ctz _ _ => true | .popc _ _ => true
  | .brev _ _ => true | .bswap _ _ => true | .addw _ _ _ => true
  | .subw _ _ _ => true | .mulw _ _ _ => true | .addi _ _ _ => true
  | .andi _ _ _ => true | .ori _ _ _ => true | .xori _ _ _ => true
  | .shli _ _ _ => true | .shri _ _ _ => true | .sari _ _ _ => true
  | .slti _ _ _ => true | .sltui _ _ _ => true | .seqi _ _ _ => true
  | .muli _ _ _ => true | .lui _ _ => true | .auipc _ _ => true
  | .lhi _ _ => true | .ifence => true | .fenceEng => true
  | .br _ => true | .call _ => true | .bz _ _ => true
  | .bnz _ _ => true | .beq _ _ _ => true | .bne _ _ _ => true
  | .blt _ _ _ => true | .bge _ _ _ => true | .bltu _ _ _ => true
  | .bgeu _ _ _ => true | .jalr _ _ _ => true | .lrun _ _ => true
  | .lsync _ => true | .kmov _ _ => true | .kand _ _ _ => true
  | .kor _ _ _ => true | .kxor _ _ _ => true | .kandn _ _ _ => true
  | .knot _ _ => true | .kpopc _ _ => true | .kffs _ _ => true
  | .ktos _ _ => true | .stok _ _ => true | .divpush _ _ => true
  | .divelse => true | .divpop => true | .kall _ _ => true
  | .bkany _ _ => true | .bknone _ _ => true | .vread _ _ _ => true
  | .sfmtW _ _ _ => true | .sfmtS _ _ _ => true | .sfmtC _ _ _ => true
  | .csrr _ _ => true | .csrw _ _ _ => true | .csrs _ _ _ => true
  | .csrc _ _ _ => true | .binit _ _ => true | .barrive _ _ _ => true
  | .bexpect _ _ => true | .bwait _ _ _ => true | .btest _ _ _ => true
  | .batch _ => true | .bbwaitReg _ => true | .bbwaitImm _ => true
  | .tcopy _ _ _ => true | .tprefL2 _ _ => true | .tprefCc _ _ => true
  | .tquery _ _ => true | .gang _ => true | .planeA _ _ _ => true
  | .planeB _ _ _ => true | .scale _ _ => true | .mma _ _ _ => true
  | .acci _ _ => true | .accd _ _ => true | .tacknew _ _ => true
  | .tackon _ _ _ => true | .tackoff _ => true | .tackdrop _ _ => true
  | .tackq _ _ => true | .ladsub _ _ _ => true | .ladesc _ _ => true
  | .ladres _ _ => true | .cjoin _ _ => true | .cleave => true
  | .cquery _ => true | .launch _ _ => true | .exit => true
  | .yield => true | .phase => true | .criton => true
  | .critoff => true | .lwait _ _ => true | .lwaitTest _ _ => true
  | .frjoin _ _ => true | .frput _ _ _ => true | .frget _ _ => true
  | .frstat _ _ => true | .trap _ => true | .eret _ _ _ => true
  | .halt _ => true | .tlbinv _ _ => true | .bankcfg _ _ _ => true
  | .vcset _ _ => true | .darn _ _ => true | .corerst _ _ => true
  | .pswap _ _ _ => true | .measureExt _ _ _ => true | .measureRead _ _ => true
  | .measureClose _ => true | .measureQuote _ _ _ => true | .measureKey _ => true
  | .partitionRecord _ _ => true | .peerEntries _ _ => true | .reductionSlots _ _ => true
  | .ethernetUp _ _ => true | .ethernetDown _ _ => true | .ethernetTransmit _ _ => true
  | .postReceiveBuffer _ _ => true | .fabricPortUp _ _ => true | .fabricPortDown _ _ => true
  | .fabricPortQuery _ _ => true | .runStart => true | .longLatencyCompletion => true
  | .dirtyNotice => true | .storePerform => true | .dirtyByteDrain => true
  | .cleanCopyFill => true | .cleanCopyDrop => true | .commandedDrain => true
  | .drainConfirmation => true | .dieReadRequest => true | .dieWriteRequest => true
  | .dieInvalidationAck => true | .dieCopyEviction => true | .fabricInvalidationAck => true
  | .deviceFenced => true | .copyElement => true | .copyComplete => true
  | .matrixCommandStart => true | .planeComplete => true | .scaleComplete => true
  | .mmaReservationGrant => true | .mmaComputeDone => true | .lineContribution => true
  | .contributionRetry => true | .accdStart => true | .accdRow => true
  | .accdFinish => true | .batchComplete => true | .holderAcknowledge => true
  | .workgroupPlacement => true | .dispatchPriorityAging => true | .savedPriorityAging => true
  | .launchBlocking => true | .staggerExpiry => true | .workgroupStop => true
  | .workgroupSave => true | .workgroupRestore => true | .launchComplete => true
  | .widePhaseComplete => true | .issuePriorityAging => true | .criticalSectionExpiry => true
  | .parkedSwapTimeout => true | .ladderPack => true | .ladderRetire => true
  | .fifoWaitEnd => true | .faultRecordDelivery => true | .unitResponseTimeout => true
  | .coreFailure => true | .rowRetirement => true | .flitReceive => true
  | .linkFailure => true | .packetReceive => true | .packetAcknowledge => true
  | .packetResendTimeout => true | .destinationUnreachable => true | .roundTimeout => true
  | .slotCloseTimeout => true | .haltTimeout => true | .haltWake => true
  | .ethernetFrameReceive => true | .ethernetTransmitDone => true | .ethernetLinkFailure => true
  | .ethernetLinkUp => true | .ethernetUpTimeout => true | .fabricLinkTrained => true
  | .fabricUpTimeout => true | .thermalHold => true | .thermalHoldRelease => true
  | .thermalTrip => true | .powerOn => true | .moduleReset => true
  | .illegalEncoding => true | .uncorrectableError => true | .fencedDeviceReadmission => true
  | .powerRemoval => true | .powerCeilingReached => true | .linkResendRequest => true

end Sys2Proof
end

