-- ==== Sys2Proof/Decode.lean ====
section
/-!
DEFINITION. Decoding (R36 to R53) and, after it, the encoder written from the same tables.
`decodeScalar` reads one 32-bit scalar word, `decodeLane` one lane instruction of 96 or 128 bits and
`decodeHeader` a run header. Each is total, and a refusal names its reason (R5).
The ten PORTCMD rows share one word: it decodes to the first of them, `partitionRecord`, and the step reads the
command block to tell them apart (R291).
-/

namespace Sys2Proof

/-- Why a word is no instruction. Every reason raises class 0x01 (R5, R40 to R45, R50, R53). -/
inductive DecodeError where
  /-- a reserved major opcode (R40) -/
  | reservedMajor
  /-- a reserved function code (R41, R42, R43) -/
  | reservedFunction
  /-- an unlisted sub-operation (R44) -/
  | reservedSub
  /-- a modifier that the entry does not define (R45) -/
  | reservedModifier
  /-- a must-be-zero field holds another value (R5, R36) -/
  | mustBeZero
  /-- a reserved field value: size, scope, type, order (R39, R49, R51) -/
  | reservedField
  /-- class 0xA to 0xF, or an operation beyond the class's last (R50) -/
  | reservedClass
  /-- a run header that R53 refuses -/
  | header
deriving DecidableEq, Repr

/-! ### Fields of a scalar word (R36) -/

def fMajor (w : Word) : BitVec 6 := w.extractLsb' 26 6
def fD (w : Word) : BitVec 6 := w.extractLsb' 20 6
def fA (w : Word) : BitVec 6 := w.extractLsb' 14 6
def fB (w : Word) : BitVec 6 := w.extractLsb' 8 6
def fFn (w : Word) : BitVec 8 := w.extractLsb' 0 8
def fSub (w : Word) : BitVec 4 := w.extractLsb' 4 4
def fMod (w : Word) : BitVec 4 := w.extractLsb' 0 4
def fImm14 (w : Word) : BitVec 14 := w.extractLsb' 0 14
def fImm20 (w : Word) : BitVec 20 := w.extractLsb' 0 20
def fImm26 (w : Word) : BitVec 26 := w.extractLsb' 0 26
/-- Size code of the memory formats. -/
def fSize (w : Word) : BitVec 3 := w.extractLsb' 11 3
/-- Scope and ar fields of an AMO (R43). -/
def fAmoScope (w : Word) : BitVec 3 := w.extractLsb' 1 3
def fAr (w : Word) : BitVec 1 := w.extractLsb' 0 1
/-- Mask-register fields: bits [2:0] of the field name k0 to k7 (R42). -/
def fKd (w : Word) : BitVec 3 := w.extractLsb' 20 3
def fKa (w : Word) : BitVec 3 := w.extractLsb' 14 3
def fKb (w : Word) : BitVec 3 := w.extractLsb' 8 3

/-- `i` when the fields that the instruction leaves unused are zero (R36, R42). -/
def zeroOr (ok : Bool) (i : Instr) : Except DecodeError Instr :=
  if ok then .ok i else .error .mustBeZero

/-- Major 0x00, function codes of R41. -/
def decodeAlu (w : Word) : Except DecodeError Instr :=
  match (fFn w).toNat with
  | 0 => .ok (.add (fD w) (fA w) (fB w))
  | 1 => .ok (.sub (fD w) (fA w) (fB w))
  | 2 => .ok (.and (fD w) (fA w) (fB w))
  | 3 => .ok (.or (fD w) (fA w) (fB w))
  | 4 => .ok (.xor (fD w) (fA w) (fB w))
  | 5 => .ok (.andn (fD w) (fA w) (fB w))
  | 6 => .ok (.shl (fD w) (fA w) (fB w))
  | 7 => .ok (.shr (fD w) (fA w) (fB w))
  | 8 => .ok (.sar (fD w) (fA w) (fB w))
  | 9 => .ok (.rol (fD w) (fA w) (fB w))
  | 10 => .ok (.mul (fD w) (fA w) (fB w))
  | 11 => .ok (.mulh (fD w) (fA w) (fB w))
  | 12 => .ok (.mulhu (fD w) (fA w) (fB w))
  | 13 => .ok (.div (fD w) (fA w) (fB w))
  | 14 => .ok (.divu (fD w) (fA w) (fB w))
  | 15 => .ok (.rem (fD w) (fA w) (fB w))
  | 16 => .ok (.remu (fD w) (fA w) (fB w))
  | 17 => .ok (.min (fD w) (fA w) (fB w))
  | 18 => .ok (.max (fD w) (fA w) (fB w))
  | 19 => .ok (.minu (fD w) (fA w) (fB w))
  | 20 => .ok (.maxu (fD w) (fA w) (fB w))
  | 21 => .ok (.slt (fD w) (fA w) (fB w))
  | 22 => .ok (.sltu (fD w) (fA w) (fB w))
  | 23 => .ok (.seq (fD w) (fA w) (fB w))
  | 29 => .ok (.addw (fD w) (fA w) (fB w))
  | 30 => .ok (.subw (fD w) (fA w) (fB w))
  | 31 => .ok (.mulw (fD w) (fA w) (fB w))
  | 24 => zeroOr (fB w == 0) (.clz (fD w) (fA w))
  | 25 => zeroOr (fB w == 0) (.ctz (fD w) (fA w))
  | 26 => zeroOr (fB w == 0) (.popc (fD w) (fA w))
  | 27 => zeroOr (fB w == 0) (.brev (fD w) (fA w))
  | 28 => zeroOr (fB w == 0) (.bswap (fD w) (fA w))
  | _ => .error .reservedFunction

/-- Major 0x14, operations of R43. -/
def decodeAmow (w : Word) : Except DecodeError Instr :=
  match (fSub w).toNat with
  | 0 => .ok (.amowAdd (fD w) (fA w) (fB w) (fAmoScope w) (fAr w))
  | 1 => .ok (.amowAnd (fD w) (fA w) (fB w) (fAmoScope w) (fAr w))
  | 2 => .ok (.amowOr (fD w) (fA w) (fB w) (fAmoScope w) (fAr w))
  | 3 => .ok (.amowXor (fD w) (fA w) (fB w) (fAmoScope w) (fAr w))
  | 4 => .ok (.amowMin (fD w) (fA w) (fB w) (fAmoScope w) (fAr w))
  | 5 => .ok (.amowMax (fD w) (fA w) (fB w) (fAmoScope w) (fAr w))
  | 6 => .ok (.amowMinu (fD w) (fA w) (fB w) (fAmoScope w) (fAr w))
  | 7 => .ok (.amowMaxu (fD w) (fA w) (fB w) (fAmoScope w) (fAr w))
  | 8 => .ok (.amowXchg (fD w) (fA w) (fB w) (fAmoScope w) (fAr w))
  | 9 => .ok (.amowCas (fD w) (fA w) (fB w) (fAmoScope w) (fAr w))
  | 10 => .ok (.amowFadd (fD w) (fA w) (fB w) (fAmoScope w) (fAr w))
  | 11 => .ok (.amowFmax32 (fD w) (fA w) (fB w) (fAmoScope w) (fAr w))
  | 12 => .ok (.amowFamax32 (fD w) (fA w) (fB w) (fAmoScope w) (fAr w))
  | _ => .error .reservedFunction

/-- Major 0x15, operations of R43: ops 10 to 15 are illegal. -/
def decodeAmod (w : Word) : Except DecodeError Instr :=
  match (fSub w).toNat with
  | 0 => .ok (.amodAdd (fD w) (fA w) (fB w) (fAmoScope w) (fAr w))
  | 1 => .ok (.amodAnd (fD w) (fA w) (fB w) (fAmoScope w) (fAr w))
  | 2 => .ok (.amodOr (fD w) (fA w) (fB w) (fAmoScope w) (fAr w))
  | 3 => .ok (.amodXor (fD w) (fA w) (fB w) (fAmoScope w) (fAr w))
  | 4 => .ok (.amodMin (fD w) (fA w) (fB w) (fAmoScope w) (fAr w))
  | 5 => .ok (.amodMax (fD w) (fA w) (fB w) (fAmoScope w) (fAr w))
  | 6 => .ok (.amodMinu (fD w) (fA w) (fB w) (fAmoScope w) (fAr w))
  | 7 => .ok (.amodMaxu (fD w) (fA w) (fB w) (fAmoScope w) (fAr w))
  | 8 => .ok (.amodXchg (fD w) (fA w) (fB w) (fAmoScope w) (fAr w))
  | 9 => .ok (.amodCas (fD w) (fA w) (fB w) (fAmoScope w) (fAr w))
  | _ => .error .reservedFunction

/-- The register fields of an X-format word are all zero. -/
def noRegs (w : Word) : Bool := fD w == 0 && fA w == 0 && fB w == 0

/-- Major 0x16, sub-operations of R44 and modifiers of R45. -/
def decodeFence (w : Word) : Except DecodeError Instr :=
  match (fSub w).toNat with
  | 0 => zeroOr (noRegs w && !w.getLsbD 3) (.fenceAcq (w.extractLsb' 0 3))
  | 1 => zeroOr (noRegs w && !w.getLsbD 3) (.fenceRel (w.extractLsb' 0 3))
  | 2 => zeroOr (noRegs w && !w.getLsbD 3) (.fenceFull (w.extractLsb' 0 3))
  | 3 => zeroOr (noRegs w && fMod w == 0) .ifence
  | 4 => zeroOr (noRegs w && fMod w == 0) .fenceEng
  | _ => .error .reservedSub

/-- The high half of a mask-register field is zero (R42). -/
def hiD (w : Word) : Bool := w.extractLsb' 23 3 == 0
def hiA (w : Word) : Bool := w.extractLsb' 17 3 == 0
def hiB (w : Word) : Bool := w.extractLsb' 11 3 == 0

/-- Major 0x26, function codes of R42 with the register roles of R247. -/
def decodeMask (w : Word) : Except DecodeError Instr :=
  match (fFn w).toNat with
  | 0 => zeroOr (hiD w && hiA w && fB w == 0) (.kmov (fKd w) (fKa w))
  | 1 => zeroOr (hiD w && hiA w && hiB w) (.kand (fKd w) (fKa w) (fKb w))
  | 2 => zeroOr (hiD w && hiA w && hiB w) (.kor (fKd w) (fKa w) (fKb w))
  | 3 => zeroOr (hiD w && hiA w && hiB w) (.kxor (fKd w) (fKa w) (fKb w))
  | 4 => zeroOr (hiD w && hiA w && hiB w) (.kandn (fKd w) (fKa w) (fKb w))
  | 5 => zeroOr (hiD w && hiA w && fB w == 0) (.knot (fKd w) (fKa w))
  | 6 => zeroOr (hiA w && fB w == 0) (.kpopc (fD w) (fKa w))
  | 7 => zeroOr (hiA w && fB w == 0) (.kffs (fD w) (fKa w))
  | 8 => zeroOr (hiA w && fB w == 0) (.ktos (fD w) (fKa w))
  | 9 => zeroOr (hiD w && fB w == 0) (.stok (fKd w) (fA w))
  | 10 => zeroOr (fD w == 0 && hiA w) (.divpush (fKa w) (fB w))
  | 11 => zeroOr (noRegs w) .divelse
  | 12 => zeroOr (noRegs w) .divpop
  | 13 => zeroOr (hiA w && fB w == 0) (.kall (fD w) (fKa w))
  | _ => .error .reservedFunction

/-- Major 0x2A (R251): operation 3 is reserved and bits [11:10] are zero. -/
def decodeSfmt (w : Word) : Except DecodeError Instr :=
  match (w.extractLsb' 12 2).toNat with
  | 0 => zeroOr (w.extractLsb' 10 2 == 0) (.sfmtW (fD w) (fA w) (w.extractLsb' 0 10))
  | 1 => zeroOr (w.extractLsb' 10 2 == 0) (.sfmtS (fD w) (fA w) (w.extractLsb' 0 10))
  | 2 => zeroOr (w.extractLsb' 10 2 == 0) (.sfmtC (fD w) (fA w) (w.extractLsb' 0 10))
  | _ => .error .reservedFunction

/-- Major 0x2B (R252). -/
def decodeCsr (w : Word) : Except DecodeError Instr :=
  match (w.extractLsb' 12 2).toNat with
  | 0 => zeroOr (fA w == 0) (.csrr (fD w) (w.extractLsb' 0 12))
  | 1 => .ok (.csrw (fD w) (fA w) (w.extractLsb' 0 12))
  | 2 => .ok (.csrs (fD w) (fA w) (w.extractLsb' 0 12))
  | _ => .ok (.csrc (fD w) (fA w) (w.extractLsb' 0 12))

/-- Major 0x2c (BAR), sub-operations of R44. -/
def decodeBar (w : Word) : Except DecodeError Instr :=
  match (fSub w).toNat, (fMod w).toNat with
  | 0, 0 => zeroOr (fD w == 0) (.binit (fA w) (fB w))
  | 1, 0 => .ok (.barrive (fD w) (fA w) (fB w))
  | 2, 0 => zeroOr (fD w == 0) (.bexpect (fA w) (fB w))
  | 3, 0 => .ok (.bwait (fD w) (fA w) (fB w))
  | 4, 0 => .ok (.btest (fD w) (fA w) (fB w))
  | 5, 0 => zeroOr (fA w == 0 && fB w == 0) (.batch (fD w))
  | 6, 0 => zeroOr (fD w == 0 && fB w == 0) (.bbwaitReg (fA w))
  | 6, 8 => if w.extractLsb' 16 10 = 0 then .ok (.bbwaitImm (w.extractLsb' 8 8)) else .error .mustBeZero
  | 0, _ => .error .reservedModifier
  | 1, _ => .error .reservedModifier
  | 2, _ => .error .reservedModifier
  | 3, _ => .error .reservedModifier
  | 4, _ => .error .reservedModifier
  | 5, _ => .error .reservedModifier
  | 6, _ => .error .reservedModifier
  | _, _ => .error .reservedSub

/-- Major 0x2d (COPY), sub-operations of R44. -/
def decodeCopy (w : Word) : Except DecodeError Instr :=
  match (fSub w).toNat, (fMod w).toNat with
  | 0, 0 => .ok (.tcopy (fD w) (fA w) (fB w))
  | 1, 0 => zeroOr (fD w == 0) (.tprefL2 (fA w) (fB w))
  | 1, 1 => zeroOr (fD w == 0) (.tprefCc (fA w) (fB w))
  | 2, 0 => zeroOr (fB w == 0) (.tquery (fD w) (fA w))
  | 0, _ => .error .reservedModifier
  | 1, _ => .error .reservedModifier
  | 2, _ => .error .reservedModifier
  | _, _ => .error .reservedSub

/-- Major 0x2e (MAT), sub-operations of R44. -/
def decodeMat (w : Word) : Except DecodeError Instr :=
  match (fSub w).toNat, (fMod w).toNat with
  | 0, 0 => zeroOr (fD w == 0 && fB w == 0) (.gang (fA w))
  | 1, 0 => .ok (.planeA (fD w) (fA w) (fB w))
  | 1, 1 => .ok (.planeB (fD w) (fA w) (fB w))
  | 2, 0 => zeroOr (fD w == 0) (.scale (fA w) (fB w))
  | 3, 0 => .ok (.mma (fD w) (fA w) (fB w))
  | 4, 0 => zeroOr (fD w == 0) (.acci (fA w) (fB w))
  | 5, 0 => zeroOr (fD w == 0) (.accd (fA w) (fB w))
  | 0, _ => .error .reservedModifier
  | 1, _ => .error .reservedModifier
  | 2, _ => .error .reservedModifier
  | 3, _ => .error .reservedModifier
  | 4, _ => .error .reservedModifier
  | 5, _ => .error .reservedModifier
  | _, _ => .error .reservedSub

/-- Major 0x2f (TACK), sub-operations of R44. -/
def decodeTack (w : Word) : Except DecodeError Instr :=
  match (fSub w).toNat, (fMod w).toNat with
  | 0, 0 => zeroOr (fB w == 0) (.tacknew (fD w) (fA w))
  | 1, 0 => .ok (.tackon (fD w) (fA w) (fB w))
  | 2, 0 => zeroOr (fD w == 0 && fB w == 0) (.tackoff (fA w))
  | 3, 0 => zeroOr (fB w == 0) (.tackdrop (fD w) (fA w))
  | 4, 0 => zeroOr (fB w == 0) (.tackq (fD w) (fA w))
  | 0, _ => .error .reservedModifier
  | 1, _ => .error .reservedModifier
  | 2, _ => .error .reservedModifier
  | 3, _ => .error .reservedModifier
  | 4, _ => .error .reservedModifier
  | _, _ => .error .reservedSub

/-- Major 0x30 (LAD), sub-operations of R44. -/
def decodeLad (w : Word) : Except DecodeError Instr :=
  match (fSub w).toNat, (fMod w).toNat with
  | 0, 0 => .ok (.ladsub (fD w) (fA w) (fB w))
  | 1, 0 => zeroOr (fD w == 0 && hiA w) (.ladesc (fKa w) (fB w))
  | 2, 0 => zeroOr (fD w == 0 && hiA w) (.ladres (fKa w) (fB w))
  | 0, _ => .error .reservedModifier
  | 1, _ => .error .reservedModifier
  | 2, _ => .error .reservedModifier
  | _, _ => .error .reservedSub

/-- Major 0x31 (CLU), sub-operations of R44. -/
def decodeClu (w : Word) : Except DecodeError Instr :=
  match (fSub w).toNat, (fMod w).toNat with
  | 0, 0 => zeroOr (fB w == 0) (.cjoin (fD w) (fA w))
  | 1, 0 => zeroOr (fD w == 0 && fA w == 0 && fB w == 0) (.cleave)
  | 2, 0 => zeroOr (fA w == 0 && fB w == 0) (.cquery (fD w))
  | 0, _ => .error .reservedModifier
  | 1, _ => .error .reservedModifier
  | 2, _ => .error .reservedModifier
  | _, _ => .error .reservedSub

/-- Major 0x32 (WORK), sub-operations of R44. -/
def decodeWork (w : Word) : Except DecodeError Instr :=
  match (fSub w).toNat, (fMod w).toNat with
  | 0, 0 => zeroOr (fB w == 0) (.launch (fD w) (fA w))
  | 1, 0 => zeroOr (fD w == 0 && fA w == 0 && fB w == 0) (.exit)
  | 2, 0 => zeroOr (fD w == 0 && fA w == 0 && fB w == 0) (.yield)
  | 3, 0 => zeroOr (fD w == 0 && fA w == 0 && fB w == 0) (.phase)
  | 4, 0 => zeroOr (fD w == 0 && fA w == 0 && fB w == 0) (.criton)
  | 5, 0 => zeroOr (fD w == 0 && fA w == 0 && fB w == 0) (.critoff)
  | 6, 0 => zeroOr (fB w == 0) (.lwait (fD w) (fA w))
  | 6, 1 => zeroOr (fB w == 0) (.lwaitTest (fD w) (fA w))
  | 0, _ => .error .reservedModifier
  | 1, _ => .error .reservedModifier
  | 2, _ => .error .reservedModifier
  | 3, _ => .error .reservedModifier
  | 4, _ => .error .reservedModifier
  | 5, _ => .error .reservedModifier
  | 6, _ => .error .reservedModifier
  | _, _ => .error .reservedSub

/-- Major 0x33 (FRED), sub-operations of R44. -/
def decodeFred (w : Word) : Except DecodeError Instr :=
  match (fSub w).toNat, (fMod w).toNat with
  | 0, 0 => zeroOr (fB w == 0) (.frjoin (fD w) (fA w))
  | 1, 0 => .ok (.frput (fD w) (fA w) (fB w))
  | 2, 0 => zeroOr (fB w == 0) (.frget (fD w) (fA w))
  | 3, 0 => zeroOr (fB w == 0) (.frstat (fD w) (fA w))
  | 0, _ => .error .reservedModifier
  | 1, _ => .error .reservedModifier
  | 2, _ => .error .reservedModifier
  | 3, _ => .error .reservedModifier
  | _, _ => .error .reservedSub

/-- Major 0x34 (SYS), sub-operations of R44. -/
def decodeSys (w : Word) : Except DecodeError Instr :=
  match (fSub w).toNat, (fMod w).toNat with
  | 0, 0 => zeroOr (fD w == 0 && fB w == 0) (.trap (fA w))
  | 1, 0 => .ok (.eret (fD w) (fA w) (fB w))
  | 2, 0 => zeroOr (fD w == 0 && fB w == 0) (.halt (fA w))
  | 3, 0 => zeroOr (fD w == 0) (.tlbinv (fA w) (fB w))
  | 4, 0 => .ok (.bankcfg (fD w) (fA w) (fB w))
  | 5, 0 => zeroOr (fB w == 0) (.vcset (fD w) (fA w))
  | 6, 0 => zeroOr (fB w == 0) (.darn (fD w) (fA w))
  | 7, 0 => zeroOr (fB w == 0) (.corerst (fD w) (fA w))
  | 8, 0 => .ok (.pswap (fD w) (fA w) (fB w))
  | 9, 0 => .ok (.measureExt (fD w) (fA w) (fB w))
  | 9, 1 => zeroOr (fD w == 0) (.measureRead (fA w) (fB w))
  | 9, 2 => zeroOr (fD w == 0 && fA w == 0) (.measureClose (fB w))
  | 9, 3 => .ok (.measureQuote (fD w) (fA w) (fB w))
  | 9, 4 => zeroOr (fD w == 0 && fB w == 0) (.measureKey (fA w))
  | 10, 0 => zeroOr (fB w == 0) (.partitionRecord (fD w) (fA w))
  | 0, _ => .error .reservedModifier
  | 1, _ => .error .reservedModifier
  | 2, _ => .error .reservedModifier
  | 3, _ => .error .reservedModifier
  | 4, _ => .error .reservedModifier
  | 5, _ => .error .reservedModifier
  | 6, _ => .error .reservedModifier
  | 7, _ => .error .reservedModifier
  | 8, _ => .error .reservedModifier
  | 9, _ => .error .reservedModifier
  | 10, _ => .error .reservedModifier
  | _, _ => .error .reservedSub
/-- Assign the majors of R40, before the state-free checks of `Instr.wf`. -/
def decodeMajor (w : Word) : Except DecodeError Instr :=
  match (fMajor w).toNat with
  | 0x00 => decodeAlu w
  | 0x01 => .ok (.addi (fD w) (fA w) (fImm14 w))
  | 0x02 => .ok (.andi (fD w) (fA w) (fImm14 w))
  | 0x03 => .ok (.ori (fD w) (fA w) (fImm14 w))
  | 0x04 => .ok (.xori (fD w) (fA w) (fImm14 w))
  | 0x05 => zeroOr (w.extractLsb' 6 8 == 0) (.shli (fD w) (fA w) (w.extractLsb' 0 6))
  | 0x06 => zeroOr (w.extractLsb' 6 8 == 0) (.shri (fD w) (fA w) (w.extractLsb' 0 6))
  | 0x07 => zeroOr (w.extractLsb' 6 8 == 0) (.sari (fD w) (fA w) (w.extractLsb' 0 6))
  | 0x08 => .ok (.slti (fD w) (fA w) (fImm14 w))
  | 0x09 => .ok (.sltui (fD w) (fA w) (fImm14 w))
  | 0x0A => .ok (.seqi (fD w) (fA w) (fImm14 w))
  | 0x0B => .ok (.muli (fD w) (fA w) (fImm14 w))
  | 0x0C => .ok (.lui (fD w) (fImm20 w))
  | 0x0D => .ok (.auipc (fD w) (fImm20 w))
  | 0x0E => .ok (.lhi (fD w) (fImm20 w))
  | 0x10 => .ok (.ld (fD w) (fA w) (fSize w) (w.extractLsb' 0 11))
  | 0x11 => .ok (.st (fD w) (fA w) (fSize w) (w.extractLsb' 0 11))
  | 0x12 => .ok (.lda (fD w) (fA w) (fSize w) (w.extractLsb' 8 3) (w.extractLsb' 0 8))
  | 0x13 => .ok (.stl (fD w) (fA w) (fSize w) (w.extractLsb' 8 3) (w.extractLsb' 0 8))
  | 0x14 => decodeAmow w
  | 0x15 => decodeAmod w
  | 0x16 => decodeFence w
  | 0x18 => .ok (.br (fImm26 w))
  | 0x19 => .ok (.call (fImm26 w))
  | 0x1A => .ok (.bz (fD w) (fImm20 w))
  | 0x1B => .ok (.bnz (fD w) (fImm20 w))
  | 0x1C => .ok (.beq (fD w) (fA w) (fImm14 w))
  | 0x1D => .ok (.bne (fD w) (fA w) (fImm14 w))
  | 0x1E => .ok (.blt (fD w) (fA w) (fImm14 w))
  | 0x1F => .ok (.bge (fD w) (fA w) (fImm14 w))
  | 0x20 => .ok (.bltu (fD w) (fA w) (fImm14 w))
  | 0x21 => .ok (.bgeu (fD w) (fA w) (fImm14 w))
  | 0x22 => .ok (.jalr (fD w) (fA w) (fImm14 w))
  | 0x24 => zeroOr (fD w == 0) (.lrun (fA w) (fImm14 w))
  | 0x25 =>
    if fSub w = 0 then zeroOr (fD w == 0 && fB w == 0 && fMod w == 0) (.lsync (fA w))
    else .error .reservedSub
  | 0x26 => decodeMask w
  | 0x27 => zeroOr (hiD w) (.bkany (fKd w) (fImm20 w))
  | 0x28 => zeroOr (hiD w) (.bknone (fKd w) (fImm20 w))
  | 0x29 => zeroOr (w.extractLsb' 0 6 == 0) (.vread (fD w) (w.extractLsb' 12 8) (w.extractLsb' 6 6))
  | 0x2A => decodeSfmt w
  | 0x2B => decodeCsr w
  | 0x2C => decodeBar w
  | 0x2D => decodeCopy w
  | 0x2E => decodeMat w
  | 0x2F => decodeTack w
  | 0x30 => decodeLad w
  | 0x31 => decodeClu w
  | 0x32 => decodeWork w
  | 0x33 => decodeFred w
  | 0x34 => decodeSys w
  | _ => .error .reservedMajor

/-- A decoded instruction is kept when it passes the state-free checks. -/
def checkWf : Except DecodeError Instr → Except DecodeError Instr
  | .ok i => if i.wf then .ok i else .error .reservedField
  | .error e => .error e

/-- The scalar instruction of a 32-bit word (R36), or the reason why it is none. -/
def decodeScalar (w : Word) : Except DecodeError Instr := checkWf (decodeMajor w)

/-! ### Lane instructions (R48) -/

/-- The fields of a lane instruction: `w` holds the three words, `lit` the fourth word or zero. -/
def laneFields (w : BitVec 96) (lit : Word) : LaneWord where
  u := w.extractLsb' 83 1
  mask := w.extractLsb' 80 3
  vd := w.extractLsb' 72 8
  va := w.extractLsb' 64 8
  vb := w.extractLsb' 56 8
  vc := w.extractLsb' 48 8
  bsel := w.extractLsb' 46 2
  cf := w.extractLsb' 44 2
  ty := w.extractLsb' 40 4
  rnd := w.extractLsb' 36 4
  cnt := w.extractLsb' 32 4
  imm32 := w.extractLsb' 0 32
  lit := lit

/-- A fourth word follows when `bsel` is 0b11 (R48). -/
def laneIsLong (w : BitVec 96) : Bool := w.extractLsb' 46 2 == 3

/-- The operation of a class and an operation code (R50). -/
def laneOp (cls op : Nat) (w : LaneWord) : Option Instr :=
  match cls, op with
  | 0, 0 => some (.iadd w)
  | 0, 1 => some (.isub w)
  | 0, 2 => some (.imul w)
  | 0, 3 => some (.imulhi w)
  | 0, 4 => some (.imad w)
  | 0, 5 => some (.iand w)
  | 0, 6 => some (.ior w)
  | 0, 7 => some (.ixor w)
  | 0, 8 => some (.inot w)
  | 0, 9 => some (.ishl w)
  | 0, 10 => some (.ishr w)
  | 0, 11 => some (.isar w)
  | 0, 12 => some (.imin w)
  | 0, 13 => some (.imax w)
  | 0, 14 => some (.iabs w)
  | 0, 15 => some (.ipopc w)
  | 0, 16 => some (.iclz w)
  | 0, 17 => some (.ibfe w)
  | 0, 18 => some (.ibfi w)
  | 0, 19 => some (.isel w)
  | 0, 20 => some (.imov w)
  | 1, 0 => some (.fadd w)
  | 1, 1 => some (.fsub w)
  | 1, 2 => some (.fmul w)
  | 1, 3 => some (.ffma w)
  | 1, 4 => some (.fmin w)
  | 1, 5 => some (.fmax w)
  | 1, 6 => some (.fabs w)
  | 1, 7 => some (.fneg w)
  | 1, 8 => some (.frint w)
  | 2, 0 => some (.cvt w)
  | 2, 1 => some (.qblk w)
  | 2, 2 => some (.amax w)
  | 3, 0 => some (.shfl w)
  | 3, 1 => some (.shflr w)
  | 3, 2 => some (.shflx w)
  | 3, 3 => some (.bcast w)
  | 3, 4 => some (.lstep w)
  | 3, 5 => some (.scan w)
  | 3, 6 => some (.matchLanes w)
  | 3, 7 => some (.segred w)
  | 4, 0 => some (.icmp w)
  | 4, 1 => some (.fcmp w)
  | 5, 0 => some (.laneLd w)
  | 5, 1 => some (.laneSt w)
  | 5, 2 => some (.lds w)
  | 5, 3 => some (.sts w)
  | 5, 4 => some (.ldcl w)
  | 5, 5 => some (.stcl w)
  | 5, 6 => some (.fifopop w)
  | 5, 7 => some (.fifopush w)
  | 5, 8 => some (.ragld w)
  | 6, 0 => some (.atom w)
  | 6, 1 => some (.atomr w)
  | 6, 2 => some (.atoms w)
  | 7, 0 => some (.rld w)
  | 7, 1 => some (.rst w)
  | 7, 2 => some (.ratom w)
  | 8, 0 => some (.rcp w)
  | 8, 1 => some (.rsqrt w)
  | 8, 2 => some (.sqrt w)
  | 8, 3 => some (.laneDiv w)
  | 8, 4 => some (.exp2 w)
  | 8, 5 => some (.log2 w)
  | 8, 6 => some (.sin w)
  | 8, 7 => some (.cos w)
  | 8, 8 => some (.tanh w)
  | 9, 0 => some (.lnop w)
  | 9, 1 => some (.lid w)
  | _, _ => none

/-- The lane instruction of three words and, when `bsel` is 0b11, a fourth (R48 to R52). -/
def decodeLane (w : BitVec 96) (lit : Word) : Except DecodeError Instr :=
  match laneOp (w.extractLsb' 92 4).toNat (w.extractLsb' 84 8).toNat
      (laneFields w (if laneIsLong w then lit else 0)) with
  | some i => checkWf (.ok i)
  | none => .error .reservedClass

/-- A run header (R47). -/
structure RunHeader where
  wait : BitVec 12
  flagA : BitVec 4
  flagB : BitVec 4
  length : Nat
  checkpoint : Option Nat
deriving DecidableEq, Repr

/-- The header of a run, with the refusals of R53. -/
def decodeHeader (w : BitVec 96) : Except DecodeError RunHeader :=
  let len := (w.extractLsb' 67 5).toNat
  let fa : BitVec 4 := w.extractLsb' 76 4
  let fb : BitVec 4 := w.extractLsb' 72 4
  let t := w.getLsbD 66
  let ck := (w.extractLsb' 56 10).toNat
  let bad (f : BitVec 4) : Bool := 12 ≤ f.toNat && f.toNat ≤ 14
  if w.extractLsb' 92 4 != 15 || len == 0 || 24 < len || bad fa || bad fb || (fa == fb && fa != 15) ||
      (!t && ck != 0) || w.extractLsb' 0 56 != 0 then .error .header
  else .ok ⟨w.extractLsb' 80 12, fa, fb, len, if t then some ck else none⟩

/-! ### The encoder -/

def encA (major : BitVec 6) (d a b : BitVec 6) (fn : BitVec 8) : Word := major ++ d ++ a ++ b ++ fn
def encI (major : BitVec 6) (d a : BitVec 6) (imm : BitVec 14) : Word := major ++ d ++ a ++ imm
def encU (major : BitVec 6) (d : BitVec 6) (imm : BitVec 20) : Word := major ++ d ++ imm
def encX (major : BitVec 6) (d a b : BitVec 6) (sub mod : BitVec 4) : Word :=
  major ++ d ++ a ++ b ++ sub ++ mod

/-- The 96 bits of a lane instruction (R48). -/
def laneBits (cls : BitVec 4) (op : BitVec 8) (w : LaneWord) : BitVec 96 :=
  cls ++ op ++ w.u ++ w.mask ++ w.vd ++ w.va ++ w.vb ++ w.vc ++ w.bsel ++ w.cf ++ w.ty ++ w.rnd ++ w.cnt ++
    w.imm32

/-- The words of a lane instruction in memory order: word 0 first (R48). -/
def encodeLaneWord (cls : BitVec 4) (op : BitVec 8) (w : LaneWord) : List Word :=
  let b := laneBits cls op w
  [b.extractLsb' 0 32, b.extractLsb' 32 32, b.extractLsb' 64 32] ++ (if w.bsel == 3 then [w.lit] else [])

/-- The words of an instruction in memory order; a step of the device's own agents has none. -/
def encode (i : Instr) : List Word :=
  match i with
  | .add d a b => [encA 0 d a b 0]
  | .sub d a b => [encA 0 d a b 1]
  | .and d a b => [encA 0 d a b 2]
  | .or d a b => [encA 0 d a b 3]
  | .xor d a b => [encA 0 d a b 4]
  | .andn d a b => [encA 0 d a b 5]
  | .shl d a b => [encA 0 d a b 6]
  | .shr d a b => [encA 0 d a b 7]
  | .sar d a b => [encA 0 d a b 8]
  | .rol d a b => [encA 0 d a b 9]
  | .mul d a b => [encA 0 d a b 10]
  | .mulh d a b => [encA 0 d a b 11]
  | .mulhu d a b => [encA 0 d a b 12]
  | .div d a b => [encA 0 d a b 13]
  | .divu d a b => [encA 0 d a b 14]
  | .rem d a b => [encA 0 d a b 15]
  | .remu d a b => [encA 0 d a b 16]
  | .min d a b => [encA 0 d a b 17]
  | .max d a b => [encA 0 d a b 18]
  | .minu d a b => [encA 0 d a b 19]
  | .maxu d a b => [encA 0 d a b 20]
  | .slt d a b => [encA 0 d a b 21]
  | .sltu d a b => [encA 0 d a b 22]
  | .seq d a b => [encA 0 d a b 23]
  | .clz d a => [encA 0 d a 0 24]
  | .ctz d a => [encA 0 d a 0 25]
  | .popc d a => [encA 0 d a 0 26]
  | .brev d a => [encA 0 d a 0 27]
  | .bswap d a => [encA 0 d a 0 28]
  | .addw d a b => [encA 0 d a b 29]
  | .subw d a b => [encA 0 d a b 30]
  | .mulw d a b => [encA 0 d a b 31]
  | .addi d a i => [encI 1 d a i]
  | .andi d a i => [encI 2 d a i]
  | .ori d a i => [encI 3 d a i]
  | .xori d a i => [encI 4 d a i]
  | .slti d a i => [encI 8 d a i]
  | .sltui d a i => [encI 9 d a i]
  | .seqi d a i => [encI 10 d a i]
  | .muli d a i => [encI 11 d a i]
  | .shli d a n => [encI 5 d a (0#8 ++ n)]
  | .shri d a n => [encI 6 d a (0#8 ++ n)]
  | .sari d a n => [encI 7 d a (0#8 ++ n)]
  | .lui d i => [encU 12 d i]
  | .auipc d i => [encU 13 d i]
  | .lhi d i => [encU 14 d i]
  | .ld d a z i => [(16#6 ++ d ++ a ++ z ++ i : BitVec 32)]
  | .st d a z i => [(17#6 ++ d ++ a ++ z ++ i : BitVec 32)]
  | .lda d a z s i => [(18#6 ++ d ++ a ++ z ++ s ++ i : BitVec 32)]
  | .stl d a z s i => [(19#6 ++ d ++ a ++ z ++ s ++ i : BitVec 32)]
  | .amowAdd d a b s r => [encA 20 d a b (0#4 ++ s ++ r)]
  | .amowAnd d a b s r => [encA 20 d a b (1#4 ++ s ++ r)]
  | .amowOr d a b s r => [encA 20 d a b (2#4 ++ s ++ r)]
  | .amowXor d a b s r => [encA 20 d a b (3#4 ++ s ++ r)]
  | .amowMin d a b s r => [encA 20 d a b (4#4 ++ s ++ r)]
  | .amowMax d a b s r => [encA 20 d a b (5#4 ++ s ++ r)]
  | .amowMinu d a b s r => [encA 20 d a b (6#4 ++ s ++ r)]
  | .amowMaxu d a b s r => [encA 20 d a b (7#4 ++ s ++ r)]
  | .amowXchg d a b s r => [encA 20 d a b (8#4 ++ s ++ r)]
  | .amowCas d a b s r => [encA 20 d a b (9#4 ++ s ++ r)]
  | .amowFadd d a b s r => [encA 20 d a b (10#4 ++ s ++ r)]
  | .amowFmax32 d a b s r => [encA 20 d a b (11#4 ++ s ++ r)]
  | .amowFamax32 d a b s r => [encA 20 d a b (12#4 ++ s ++ r)]
  | .amodAdd d a b s r => [encA 21 d a b (0#4 ++ s ++ r)]
  | .amodAnd d a b s r => [encA 21 d a b (1#4 ++ s ++ r)]
  | .amodOr d a b s r => [encA 21 d a b (2#4 ++ s ++ r)]
  | .amodXor d a b s r => [encA 21 d a b (3#4 ++ s ++ r)]
  | .amodMin d a b s r => [encA 21 d a b (4#4 ++ s ++ r)]
  | .amodMax d a b s r => [encA 21 d a b (5#4 ++ s ++ r)]
  | .amodMinu d a b s r => [encA 21 d a b (6#4 ++ s ++ r)]
  | .amodMaxu d a b s r => [encA 21 d a b (7#4 ++ s ++ r)]
  | .amodXchg d a b s r => [encA 21 d a b (8#4 ++ s ++ r)]
  | .amodCas d a b s r => [encA 21 d a b (9#4 ++ s ++ r)]
  | .fenceAcq s => [encX 0x16 0 0 0 0 (0#1 ++ s)]
  | .fenceRel s => [encX 0x16 0 0 0 1 (0#1 ++ s)]
  | .fenceFull s => [encX 0x16 0 0 0 2 (0#1 ++ s)]
  | .ifence => [encX 0x16 0 0 0 3 0]
  | .fenceEng => [encX 0x16 0 0 0 4 0]
  | .br i => [(24#6 ++ i : BitVec 32)]
  | .call i => [(25#6 ++ i : BitVec 32)]
  | .bz a i => [encU 26 a i]
  | .bnz a i => [encU 27 a i]
  | .beq a b i => [encI 28 a b i]
  | .bne a b i => [encI 29 a b i]
  | .blt a b i => [encI 30 a b i]
  | .bge a b i => [encI 31 a b i]
  | .bltu a b i => [encI 32 a b i]
  | .bgeu a b i => [encI 33 a b i]
  | .jalr d a i => [encI 0x22 d a i]
  | .lrun a i => [encI 0x24 0 a i]
  | .lsync a => [encX 0x25 0 a 0 0 0]
  | .kmov d a => [encA 0x26 (0#3 ++ d) (0#3 ++ a) 0 0]
  | .kand d a b => [encA 0x26 (0#3 ++ d) (0#3 ++ a) (0#3 ++ b) 1]
  | .kor d a b => [encA 0x26 (0#3 ++ d) (0#3 ++ a) (0#3 ++ b) 2]
  | .kxor d a b => [encA 0x26 (0#3 ++ d) (0#3 ++ a) (0#3 ++ b) 3]
  | .kandn d a b => [encA 0x26 (0#3 ++ d) (0#3 ++ a) (0#3 ++ b) 4]
  | .knot d a => [encA 0x26 (0#3 ++ d) (0#3 ++ a) 0 5]
  | .kpopc d a => [encA 0x26 d (0#3 ++ a) 0 6]
  | .kffs d a => [encA 0x26 d (0#3 ++ a) 0 7]
  | .ktos d a => [encA 0x26 d (0#3 ++ a) 0 8]
  | .stok d a => [encA 0x26 (0#3 ++ d) a 0 9]
  | .divpush a b => [encA 0x26 0 (0#3 ++ a) b 10]
  | .divelse => [encA 0x26 0 0 0 11]
  | .divpop => [encA 0x26 0 0 0 12]
  | .kall d a => [encA 0x26 d (0#3 ++ a) 0 13]
  | .bkany k i => [encU 0x27 (0#3 ++ k) i]
  | .bknone k i => [encU 0x28 (0#3 ++ k) i]
  | .vread d n t => [(0x29#6 ++ d ++ n ++ t ++ 0#6 : BitVec 32)]
  | .sfmtW d a v => [encI 0x2A d a (0#2 ++ 0#2 ++ v)]
  | .sfmtS d a v => [encI 0x2A d a (1#2 ++ 0#2 ++ v)]
  | .sfmtC d a v => [encI 0x2A d a (2#2 ++ 0#2 ++ v)]
  | .csrr d r => [encI 0x2B d 0 (0#2 ++ r)]
  | .csrw d a r => [encI 0x2B d a (1#2 ++ r)]
  | .csrs d a r => [encI 0x2B d a (2#2 ++ r)]
  | .csrc d a r => [encI 0x2B d a (3#2 ++ r)]
  | .binit a b => [encX 0x2c 0 a b 0 0]
  | .barrive d a b => [encX 0x2c d a b 1 0]
  | .bexpect a b => [encX 0x2c 0 a b 2 0]
  | .bwait d a b => [encX 0x2c d a b 3 0]
  | .btest d a b => [encX 0x2c d a b 4 0]
  | .batch d => [encX 0x2c d 0 0 5 0]
  | .bbwaitReg a => [encX 0x2c 0 a 0 6 0]
  | .bbwaitImm n => [(0x2C#6 ++ 0#10 ++ n ++ 6#4 ++ 8#4 : BitVec 32)]
  | .tcopy d a b => [encX 0x2d d a b 0 0]
  | .tprefL2 a b => [encX 0x2d 0 a b 1 0]
  | .tprefCc a b => [encX 0x2d 0 a b 1 1]
  | .tquery d a => [encX 0x2d d a 0 2 0]
  | .gang a => [encX 0x2e 0 a 0 0 0]
  | .planeA d a b => [encX 0x2e d a b 1 0]
  | .planeB d a b => [encX 0x2e d a b 1 1]
  | .scale a b => [encX 0x2e 0 a b 2 0]
  | .mma d a b => [encX 0x2e d a b 3 0]
  | .acci a b => [encX 0x2e 0 a b 4 0]
  | .accd a b => [encX 0x2e 0 a b 5 0]
  | .tacknew d a => [encX 0x2f d a 0 0 0]
  | .tackon d a b => [encX 0x2f d a b 1 0]
  | .tackoff a => [encX 0x2f 0 a 0 2 0]
  | .tackdrop d a => [encX 0x2f d a 0 3 0]
  | .tackq d a => [encX 0x2f d a 0 4 0]
  | .ladsub d a b => [encX 0x30 d a b 0 0]
  | .ladesc a b => [encX 0x30 0 (0#3 ++ a) b 1 0]
  | .ladres a b => [encX 0x30 0 (0#3 ++ a) b 2 0]
  | .cjoin d a => [encX 0x31 d a 0 0 0]
  | .cleave => [encX 0x31 0 0 0 1 0]
  | .cquery d => [encX 0x31 d 0 0 2 0]
  | .launch d a => [encX 0x32 d a 0 0 0]
  | .exit => [encX 0x32 0 0 0 1 0]
  | .yield => [encX 0x32 0 0 0 2 0]
  | .phase => [encX 0x32 0 0 0 3 0]
  | .criton => [encX 0x32 0 0 0 4 0]
  | .critoff => [encX 0x32 0 0 0 5 0]
  | .lwait d a => [encX 0x32 d a 0 6 0]
  | .lwaitTest d a => [encX 0x32 d a 0 6 1]
  | .frjoin d a => [encX 0x33 d a 0 0 0]
  | .frput d a b => [encX 0x33 d a b 1 0]
  | .frget d a => [encX 0x33 d a 0 2 0]
  | .frstat d a => [encX 0x33 d a 0 3 0]
  | .trap a => [encX 0x34 0 a 0 0 0]
  | .eret d a b => [encX 0x34 d a b 1 0]
  | .halt a => [encX 0x34 0 a 0 2 0]
  | .tlbinv a b => [encX 0x34 0 a b 3 0]
  | .bankcfg d a b => [encX 0x34 d a b 4 0]
  | .vcset d a => [encX 0x34 d a 0 5 0]
  | .darn d a => [encX 0x34 d a 0 6 0]
  | .corerst d a => [encX 0x34 d a 0 7 0]
  | .pswap d a b => [encX 0x34 d a b 8 0]
  | .measureExt d a b => [encX 0x34 d a b 9 0]
  | .measureRead a b => [encX 0x34 0 a b 9 1]
  | .measureClose b => [encX 0x34 0 0 b 9 2]
  | .measureQuote d a b => [encX 0x34 d a b 9 3]
  | .measureKey a => [encX 0x34 0 a 0 9 4]
  | .partitionRecord d a => [encX 0x34 d a 0 10 0]
  | .peerEntries d a => [encX 0x34 d a 0 10 0]
  | .reductionSlots d a => [encX 0x34 d a 0 10 0]
  | .ethernetUp d a => [encX 0x34 d a 0 10 0]
  | .ethernetDown d a => [encX 0x34 d a 0 10 0]
  | .ethernetTransmit d a => [encX 0x34 d a 0 10 0]
  | .postReceiveBuffer d a => [encX 0x34 d a 0 10 0]
  | .fabricPortUp d a => [encX 0x34 d a 0 10 0]
  | .fabricPortDown d a => [encX 0x34 d a 0 10 0]
  | .fabricPortQuery d a => [encX 0x34 d a 0 10 0]
  | .runStart => []
  | .longLatencyCompletion => []
  | .dirtyNotice => []
  | .storePerform => []
  | .dirtyByteDrain => []
  | .cleanCopyFill => []
  | .cleanCopyDrop => []
  | .commandedDrain => []
  | .drainConfirmation => []
  | .dieReadRequest => []
  | .dieWriteRequest => []
  | .dieInvalidationAck => []
  | .dieCopyEviction => []
  | .fabricInvalidationAck => []
  | .deviceFenced => []
  | .copyElement => []
  | .copyComplete => []
  | .matrixCommandStart => []
  | .planeComplete => []
  | .scaleComplete => []
  | .mmaReservationGrant => []
  | .mmaComputeDone => []
  | .lineContribution => []
  | .contributionRetry => []
  | .accdStart => []
  | .accdRow => []
  | .accdFinish => []
  | .batchComplete => []
  | .holderAcknowledge => []
  | .workgroupPlacement => []
  | .dispatchPriorityAging => []
  | .savedPriorityAging => []
  | .launchBlocking => []
  | .staggerExpiry => []
  | .workgroupStop => []
  | .workgroupSave => []
  | .workgroupRestore => []
  | .launchComplete => []
  | .widePhaseComplete => []
  | .issuePriorityAging => []
  | .criticalSectionExpiry => []
  | .parkedSwapTimeout => []
  | .ladderPack => []
  | .ladderRetire => []
  | .fifoWaitEnd => []
  | .faultRecordDelivery => []
  | .unitResponseTimeout => []
  | .coreFailure => []
  | .rowRetirement => []
  | .flitReceive => []
  | .linkFailure => []
  | .packetReceive => []
  | .packetAcknowledge => []
  | .packetResendTimeout => []
  | .destinationUnreachable => []
  | .roundTimeout => []
  | .slotCloseTimeout => []
  | .haltTimeout => []
  | .haltWake => []
  | .ethernetFrameReceive => []
  | .ethernetTransmitDone => []
  | .ethernetLinkFailure => []
  | .ethernetLinkUp => []
  | .ethernetUpTimeout => []
  | .fabricLinkTrained => []
  | .fabricUpTimeout => []
  | .thermalHold => []
  | .thermalHoldRelease => []
  | .thermalTrip => []
  | .powerOn => []
  | .moduleReset => []
  | .illegalEncoding => []
  | .uncorrectableError => []
  | .fencedDeviceReadmission => []
  | .powerRemoval => []
  | .powerCeilingReached => []
  | .linkResendRequest => []
  | .iadd w => encodeLaneWord 0 0 w
  | .isub w => encodeLaneWord 0 1 w
  | .imul w => encodeLaneWord 0 2 w
  | .imulhi w => encodeLaneWord 0 3 w
  | .imad w => encodeLaneWord 0 4 w
  | .iand w => encodeLaneWord 0 5 w
  | .ior w => encodeLaneWord 0 6 w
  | .ixor w => encodeLaneWord 0 7 w
  | .inot w => encodeLaneWord 0 8 w
  | .ishl w => encodeLaneWord 0 9 w
  | .ishr w => encodeLaneWord 0 10 w
  | .isar w => encodeLaneWord 0 11 w
  | .imin w => encodeLaneWord 0 12 w
  | .imax w => encodeLaneWord 0 13 w
  | .iabs w => encodeLaneWord 0 14 w
  | .ipopc w => encodeLaneWord 0 15 w
  | .iclz w => encodeLaneWord 0 16 w
  | .ibfe w => encodeLaneWord 0 17 w
  | .ibfi w => encodeLaneWord 0 18 w
  | .isel w => encodeLaneWord 0 19 w
  | .imov w => encodeLaneWord 0 20 w
  | .fadd w => encodeLaneWord 1 0 w
  | .fsub w => encodeLaneWord 1 1 w
  | .fmul w => encodeLaneWord 1 2 w
  | .ffma w => encodeLaneWord 1 3 w
  | .fmin w => encodeLaneWord 1 4 w
  | .fmax w => encodeLaneWord 1 5 w
  | .fabs w => encodeLaneWord 1 6 w
  | .fneg w => encodeLaneWord 1 7 w
  | .frint w => encodeLaneWord 1 8 w
  | .cvt w => encodeLaneWord 2 0 w
  | .qblk w => encodeLaneWord 2 1 w
  | .amax w => encodeLaneWord 2 2 w
  | .shfl w => encodeLaneWord 3 0 w
  | .shflr w => encodeLaneWord 3 1 w
  | .shflx w => encodeLaneWord 3 2 w
  | .bcast w => encodeLaneWord 3 3 w
  | .lstep w => encodeLaneWord 3 4 w
  | .scan w => encodeLaneWord 3 5 w
  | .matchLanes w => encodeLaneWord 3 6 w
  | .segred w => encodeLaneWord 3 7 w
  | .icmp w => encodeLaneWord 4 0 w
  | .fcmp w => encodeLaneWord 4 1 w
  | .laneLd w => encodeLaneWord 5 0 w
  | .laneSt w => encodeLaneWord 5 1 w
  | .lds w => encodeLaneWord 5 2 w
  | .sts w => encodeLaneWord 5 3 w
  | .ldcl w => encodeLaneWord 5 4 w
  | .stcl w => encodeLaneWord 5 5 w
  | .fifopop w => encodeLaneWord 5 6 w
  | .fifopush w => encodeLaneWord 5 7 w
  | .ragld w => encodeLaneWord 5 8 w
  | .atom w => encodeLaneWord 6 0 w
  | .atomr w => encodeLaneWord 6 1 w
  | .atoms w => encodeLaneWord 6 2 w
  | .rld w => encodeLaneWord 7 0 w
  | .rst w => encodeLaneWord 7 1 w
  | .ratom w => encodeLaneWord 7 2 w
  | .rcp w => encodeLaneWord 8 0 w
  | .rsqrt w => encodeLaneWord 8 1 w
  | .sqrt w => encodeLaneWord 8 2 w
  | .laneDiv w => encodeLaneWord 8 3 w
  | .exp2 w => encodeLaneWord 8 4 w
  | .log2 w => encodeLaneWord 8 5 w
  | .sin w => encodeLaneWord 8 6 w
  | .cos w => encodeLaneWord 8 7 w
  | .tanh w => encodeLaneWord 8 8 w
  | .lnop w => encodeLaneWord 9 0 w
  | .lid w => encodeLaneWord 9 1 w

/-- Decode the words of one instruction: one word is scalar, three or four are a lane instruction. -/
def decodeWords : List Word → Except DecodeError Instr
  | [w] => decodeScalar w
  | [w0, w1, w2] =>
    if laneIsLong (w2 ++ w1 ++ w0) then .error .mustBeZero else decodeLane (w2 ++ w1 ++ w0) 0
  | [w0, w1, w2, w3] =>
    if laneIsLong (w2 ++ w1 ++ w0) then decodeLane (w2 ++ w1 ++ w0) w3 else .error .mustBeZero
  | _ => .error .reservedClass

/-- The instruction that the decoder reads from bits numbered as the opcode table numbers them: up to 32 bits a
scalar word, beyond that a lane instruction. -/
def decodeTableWord (nbits w : Nat) : Option Instr :=
  let r := if nbits ≤ 32 then decodeScalar (BitVec.ofNat 32 w)
    else decodeLane (BitVec.ofNat 96 w) (BitVec.ofNat 32 (w >>> 96))
  match r with
  | .ok i => some i
  | .error _ => none

end Sys2Proof
end

