-- ==== Sys2Proof/Config.lean ====
section
/-!
DEFINITION. What the stepping and the part fix (R4, R35), and the values that the spec leaves to the part: opaque
constants, of which nothing can be proved.
-/

namespace Sys2Proof.Config

/-- `yrev` of stepping B0 (R4, R29). -/
def yrev : Nat := 0x598800B0

/-- Compute cores, and all cores with the stewards (00_scope.md). -/
def computeCores : Nat := 128
def allCores : Nat := 144

/-- Bytes of DRAM homed on one die (R314), and in all. -/
def dieBytes : Nat := 0x1800000000
def dramBytes : Nat := 0x6000000000

/-- The ROM and the start words (R310, R314). -/
def romBase : Nat := 0xFF0000000000
def romBytes : Nat := 0x40000
def startWords : Nat := 0xFF0000040000

/-- Core store of one core, and the scale store's columns (R8). -/
def storeBytes : Nat := 0x200000
def scaleColumns : Nat := 512

/-- The cluster window (R32). -/
def bankBase : Nat := 0x800000
def bankBytes : Nat := 0x40000
def windowBytes : Nat := 0x1800000

/-- 20 microseconds, 50 microseconds, 100 microseconds, 1 ms in `clk` (R3). -/
def us20 : Nat := 80000
def us50 : Nat := 200000
def us100 : Nat := 400000
def ms1 : Nat := 4000000

/-- R30 bounds how far two cores' `clk` readings differ and fixes no more: the reading of a core is the common
count plus a constant of the core (0 to 2, taken mod 3) and one of its die (0 to 12, taken mod 13). -/
opaque coreSkew : Nat → Nat
opaque dieSkew : Nat → Nat

/-- Values that the spec leaves open, one for each number of the supply `State.fresh`. -/
opaque freeWord : Nat → DWord

/-- Byte i of an image in the save pool, one image for each number of the supply: R301 gives the sizes of its parts and no
layout (R300). -/
opaque imageByte : Nat → Nat → Byte

/-- The address of an Ethernet port, the source of the flow control frames that it sends (R328): in no rule. -/
opaque portAddress : Nat → BitVec 48

/-- The Ed448 identity public key, byte i (R292): fused into the module, not in the spec. -/
opaque identityKey : Nat → Byte

/-- Byte i of the Ed448 signature by the identity key over a message (R293): no instruction reads the private key,
so its signatures are free values. -/
opaque signature : List Byte → Nat → Byte

end Sys2Proof.Config
end

