-- ==== Sys2Proof/Machine/State.lean ====
section
/-!
DEFINITION. The state of the Y880: everything the spec gives the machine, as plain data, and the state after module
reset. Lists hold what exists now (parties, launches, copies, packets); what a list does not hold has its reset value.
-/

namespace Sys2Proof.Machine

/-! ## Names -/

/-- Fault classes of R298. -/
inductive FaultClass where
  | illegal | overlap | schedule | alignment | pageAbsent | protection | kernelReserved | rangeLock
  | barrierCount | barrierOverflow | gang | quota | accumStore | residue | memoryError | storeError
  | remote | cluster | cacheAbsent | trap | certificate | fetch | privilege | critExpired
deriving DecidableEq, Repr

/-- MOESI states of a die's copy (R155). -/
inductive Moesi where
  | modified | owned | exclusive | shared
deriving DecidableEq, Repr

/-- Write policies of a composed cache (R154, R280). -/
inductive WritePolicy where
  | writeBack | writeThrough | readOnly
deriving DecidableEq, Repr

/-- Modes of a cluster bank (R279). -/
inductive BankMode where
  | unassigned | cache | scratch | fifo
deriving DecidableEq, Repr

/-- Scopes, as the scope codes 0 to 5 of R39 name them. -/
inductive Scope where
  | group | core | cluster | device | fabric | pdevice
deriving DecidableEq, Repr

/-- Operations of the atomics of R175 and R205. `mergeBf16` and `mergeF16` add two F32 addends (high half, low
half) to a pair of halves: a merged contribution of R206. -/
inductive AtomFn where
  | add | and | or | xor | min | max | minu | maxu | xchg | cas | fadd | fmax | famax
  | bf16x2 | f16x2 | mergeBf16 | mergeF16
deriving DecidableEq, Repr

/-- A barrier object lies in a core's store, in a cluster bank, in the saved image of a workgroup, or in memory by
physical address (R224, R226, R257). -/
inductive Place where
  | store (core off : Nat)
  | bank (cluster bank off : Nat)
  | image (part wg off : Nat)
  | mem (pa : Nat)
deriving DecidableEq, Repr

/-! ## Pieces of a translated access -/

/-- Bytes of one access in one line or page: physical address, length, the page's composed cache and, for a write, the
address of the leaf whose Dirty bit stands before it (R273, R274). -/
structure Piece where
  pa : Nat
  len : Nat
  cc : Nat
  leaf : Option Nat
deriving DecidableEq, Repr

/-- Where the old word of an atomic goes (R148). -/
inductive AtomDest where
  | none
  | sreg (n : Nat) (wide : Bool)
  | vreg (thread n : Nat) (wide : Bool)
deriving DecidableEq, Repr

/-- What a store-queue entry does when it is performed (R146, R148). -/
inductive SqBody where
  /-- bytes for one line -/
  | store (at_ : Piece) (bytes : List Byte)
  | atomic (at_ : Piece) (fn : AtomFn) (x c : DWord) (dest : AtomDest)
  /-- a release with no store of its own (R150) -/
  | fence
  /-- an entry for a FIFO bank (R203) -/
  | fifoPush (cluster bank : Nat) (bytes : List Byte)
  /-- for the home slice of another device, through a peer (R208) -/
  | remoteStore (peer device addr : Nat) (bytes : List Byte)
  | remoteAtomic (peer device addr op : Nat) (x c : DWord) (dest : AtomDest)
deriving DecidableEq, Repr

/-- A store-queue entry (R144, R148). `va` is the virtual address named. `op` is the lane operation it belongs to, and
`threads` those of its threads whose access it is. `req` is the number of the packet that carries a remote entry. `held`:
it waits in a held-write queue (R164), or the home of a remote entry has refused it (R209). `stepped`: a release has taken its steps (R150).
`space`: the space through which it was translated (R289); `stale`: it failed and is to be translated again (R200). -/
structure SqEntry where
  id : Nat
  va : Nat
  scope : Scope
  release : Bool
  acquire : Bool
  body : SqBody
  op : Option Nat
  threads : Word
  req : Option Nat
  held : Bool
  stepped : Bool
  space : Nat
  stale : Bool
deriving DecidableEq, Repr

/-- A request that a remote load has sent: its device and packet number, the line that it asks a copy of, and where the
bytes that the element needs lie in the answer, which is empty where the home has refused. -/
structure RemoteReq where
  device : Nat
  seq : Nat
  line : Option Nat
  off : Nat
  len : Nat
  answer : Option (List Byte)
deriving DecidableEq, Repr

/-- A thread's load that has issued and whose value has not been taken (R199): the element of a block form, the peer
of a remote load, or 1 for a FIFO pop that has found its bank empty; the pieces it was translated to, none where it must be issued again (R300); the
bytes of those performed so far, each at a time of its own (R172); its bytes, none of them where it has failed after issue (R200); and what a
remote one has asked. -/
structure LaneAccess where
  op : Nat
  thread : Nat
  elem : Nat
  va : Nat
  pieces : List Piece
  part : List Byte
  got : Option (List Byte)
  reqs : List RemoteReq
deriving DecidableEq, Repr

/-- A lane memory operation that has issued and not completed (R18, R19): its instruction and lane address, the
flag that counts it, the threads still to be replayed (R199, R200), whether its acquire is still to be taken, and whether the scalar stream has
since waited for the runs, so that later scalar accesses follow it in program order (R145). `queuedAt`: the number that was next when its run was
queued, so that lower ones are of scalar accesses before it; `released`: the release sequence of its release steps, once taken (R198). -/
structure LaneOp where
  id : Nat
  instr : Instr
  addr : Nat
  flag : Option Nat
  unfinished : Word
  acquire : Bool
  synced : Bool
  queuedAt : Nat
  released : Option Nat
deriving DecidableEq, Repr

/-- What an acquire in progress completes (R152). -/
inductive AcquireEnd where
  /-- write the register and go on to the next instruction -/
  | load (d va size : Nat) (pieces : List Piece) (value : DWord)
  /-- go on to the next instruction -/
  | next
  /-- nothing more: an atomic that has completed -/
  | atomic
  /-- complete the lane operation -/
  | lane (op : Nat)
  /-- class 0x0F at the address: a drain that it commanded cannot be confirmed (R153) -/
  | dead (va : Nat)
  /-- the same for every thread of a lane operation -/
  | deadLane (op : Nat)
deriving DecidableEq, Repr

/-- An acquire waiting for its commanded drains. -/
structure Acquire where
  scope : Scope
  fin : AcquireEnd
deriving DecidableEq, Repr

/-! ## Lane stream -/

/-- An entry of the lane queue (R11): lane address and snapshot of s32 to s47, and the number that was next when it was queued. -/
structure QEntry where
  addr : Nat
  snap : List DWord
  queuedAt : Nat
deriving DecidableEq, Repr

/-- Kinds of producer of R17. -/
inductive ProducerKind where
  | alu | load | special | uniform
deriving DecidableEq, Repr

/-- A register written by an earlier instruction of the run, and the number of later instructions with U clear. -/
structure Producer where
  isMask : Bool
  reg : Nat
  kind : ProducerKind
  gap : Nat
deriving DecidableEq, Repr

/-- The run being executed (R12, R47). `replay` is the mask under which the next instruction is replayed (R199). -/
structure Run where
  addr : Nat
  pc : Nat
  left : Nat
  snap : List DWord
  flagA : Option Nat
  flagB : Option Nat
  checkpoint : Option Nat
  producers : List Producer
  replay : Option Word
  queuedAt : Nat
deriving DecidableEq, Repr

/-- An entry of the divergence stack (R22, R248). -/
structure DivEntry where
  em : Word
  fmt : Word
  join : DWord
deriving DecidableEq, Repr

/-! ## Faults -/

/-- A fault record (R297). -/
structure FaultRec where
  cls : FaultClass
  flags : BitVec 8
  domain : Nat
  unfinished : Word
  identity : DWord
  pc : DWord
  laneAddr : DWord
  addr : DWord
  addr2 : DWord
  clk : DWord
deriving DecidableEq, Repr

/-- The unit that faulted, which a skip passes over (R287). -/
inductive FaultUnit where
  | scalar
  /-- a lane instruction that faulted at issue: its run waits at it (R199) -/
  | laneIssue
  /-- a lane operation that faulted after issue (R200) -/
  | laneLate (op : Nat)
  /-- a scalar atomic or push that faulted after issue: its entry of the store queue waits (R171) -/
  | entry (id : Nat)
  | header
  | schedule
  /-- a matrix command or copy that faulted after issue (R122, R182) -/
  | command
  | gang
deriving DecidableEq, Repr

/-- A group parked on a fault (R299). -/
structure Park where
  cls : FaultClass
  unit : FaultUnit
  since : Nat
  /-- an ERET has been given, while the workgroup is swapped out -/
  served : Bool
deriving DecidableEq, Repr

/-- A record waiting for delivery (R298): the queue's partition, none for the kernel queue; the die of the faulting
unit; whether it waits for room when the queue is full; and how many of its writes have been asked for: its bytes, the producer
count. -/
structure PendingRec where
  id : Nat
  queue : Option Nat
  die : Nat
  waits : Bool
  stage : Nat
  body : FaultRec
deriving DecidableEq, Repr

/-! ## A party: a group or a steward core -/

inductive Status where
  | running
  | parked
  /-- stopped in PHASE (R230) -/
  | phase
  /-- a steward core in HALT (R288): the watched line, since when, and whether something has woken it -/
  | halted (line since : Nat) (woken : Bool)
  /-- a steward core in the ROM loop (R310) -/
  | romLoop
  /-- parked by the darning engine (R284) -/
  | darned
  | ended
deriving DecidableEq, Repr

/-- The tacks a party has been unpicked from and not yet been landed at (R165), with what it answered. -/
structure Unpick where
  tack : Nat
  acked : Bool
deriving DecidableEq, Repr

/-- A LADSUB in progress (R260): its `sd`, its first item and their number, its ladder, its block. `entered`: it has passed its
checks; else it stalls at the activation of a ninth ladder. -/
structure Submission where
  dest : Nat
  first : Nat
  count : Nat
  ladder : Nat
  block : Nat
  entered : Bool
deriving DecidableEq, Repr

/-- The width of a group: native, or 16 threads in legacy width mode (R22); a steward core has no threads (R34). -/
inductive GroupWidth where
  | steward | legacy | native
deriving DecidableEq, Repr

/-- `GW`, the number of threads. -/
def GroupWidth.threads : GroupWidth → Nat
  | .steward => 0
  | .legacy => 16
  | .native => 32

/-- A BWAIT that has blocked (R225, R255): its object and phase, and the first other phase that an event has left there since, with
whether bytes were counted in the phase it waits on (R254). -/
structure BarrierWait where
  place : Place
  phase : Nat
  seen : Option (Nat × Bool)
deriving DecidableEq, Repr

/-- A group (R22, R26) or a steward core (R34, R310). -/
structure Party where
  id : PartyId
  core : Nat
  lane : Nat
  width : GroupWidth
  vcount : Nat
  sregs : Cells 64
  vregs : Cells 32
  kregs : Cells 32
  fmt : Word
  em : Word
  pc : DWord
  status : Status
  park : Option Park
  -- scalar stream
  pending : List (Nat × Nat)
  fetched : List (Nat × Word)
  acqs : List Acquire
  /-- numbers of what the scalar stream stalls on -/
  stallOn : List Nat
  engFence : Option Nat
  yieldTo : List PartyId
  progress : Nat
  /-- a LADSUB in progress; `progress` counts the items pushed (R260) -/
  ladsub : Option Submission
  /-- a LADESC or LADRES in progress: the threads still to be acted on with their source bytes, read at issue (R261); `progress`
  counts what it has done -/
  ladItems : Option (List (Nat × List Byte))
  /-- lines and virtual addresses of the loads performed, for the acquire of a later fence (R152) -/
  loaded : List (Nat × Nat)
  /-- tags of the copies it has issued (R178, R183, R186) -/
  copyTags : List Nat
  heldResult : Option DWord
  /-- a scalar load part of the way through: the pieces still to be performed and the bytes of the others (R172) -/
  half : Option (List Piece × List Byte)
  -- memory side
  sq : List SqEntry
  loads : List LaneAccess
  ops : List LaneOp
  -- lane stream
  queue : List QEntry
  run : Option Run
  /-- its run has stopped at a fault or in a saved image and waits for its lane again (R12) -/
  paused : Bool
  tags : List (Nat × Nat)
  divs : List DivEntry
  /-- since when the head run is known to be ready and not started (R222) -/
  readySince : Option Nat
  lastRunEnd : Nat
  aged : Nat
  /-- when its scalar stream issued last (R13), and whether it then stayed at its instruction -/
  lastIssue : Nat
  stalled : Bool
  checkpoint : Option Nat
  -- engines
  gang : List Nat
  joint : Nat
  batch : Nat
  batchDone : Nat
  members : List (Nat × Nat)
  -- work
  crit : Option Nat
  -- steward system registers, and the fault registers (R29)
  spaceid : BitVec 64
  ptroot : BitVec 64
  faultinfo : DWord
  faultaddr : DWord
  faultaddr2 : DWord
  frSeen : List (Nat × DWord)
  /-- the pages that a TLBINV in progress drops, base and size (R289) -/
  shooting : List (Nat × Nat)
  unpicks : List Unpick
  /-- landings that its LADRES, which waited for its own held write, still has to end for (R165, R240) -/
  landings : List DWord
  /-- stalled in a LADESC or LADSUB (R236, R260) -/
  blocked : Bool
  waitsOn : Option BarrierWait
deriving DecidableEq, Repr

/-! ## Cores -/

/-- A clean copy of a line (R144, R147). -/
structure CleanLine where
  line : Nat
  bytes : List Byte
deriving DecidableEq, Repr

/-- A dirty byte: physical address, value, release stamp, and the page's composed cache (R147). -/
structure DirtyByte where
  pa : Nat
  val : Byte
  stamp : Nat
  cc : Option CacheId
deriving DecidableEq, Repr

/-- A drain descriptor (R139). -/
structure AccdDesc where
  dst : Nat
  stride : Nat
  maxWord : Nat
  scaleDst : Nat
  format : Nat
  rounding : Nat
  saturate : Bool
  maxOn : Bool
  release : Bool
  zero : Bool
  maxScope : Nat
  first : Nat
  rows : Nat
deriving DecidableEq, Repr

/-- A matrix command (R119). -/
inductive MatBody where
  | plane (sideB : Bool) (dst src stride ty planes blocks : Nat)
  | scale (src stride columns first : Nat)
  | mma (base ca cb aBase bBase blocks pA pB : Nat) (deviceScope : Bool) (index : Option Nat)
  | accd (base : Nat) (desc : AccdDesc)
deriving DecidableEq, Repr

inductive MatStage where
  | waiting
  | started
  /-- an ACCD past its checks, or resumed: the next row -/
  | rows
  /-- stopped at a fault (R122, R141) -/
  | faulted (cls : FaultClass)
deriving DecidableEq, Repr

/-- A command of a matrix queue: its members with their batches (R121), the scalar PC of the command, the
core-store ranges it holds (R120), the virtual ranges an ACCD locks, and the space and root loaded when it issued (R272).
`ready`: rows that an ACCD has read and translated and not written; `maxDone`: its maximum has been updated (R311). -/
structure MatCmd where
  id : Nat
  part : Nat
  wg : Nat
  issuer : PartyId
  members : List (PartyId × Nat)
  pc : DWord
  body : MatBody
  stage : MatStage
  row : Nat
  maxSoFar : Word
  reads : List (Nat × Nat)
  writes : List (Nat × Nat)
  globals : List (Nat × Nat)
  space : Nat
  root : Nat
  ready : List (List Piece × List Byte)
  maxDone : Bool
  /-- S[sd] of an MMA, S[sa] of an ACCD: what its fault record names -/
  named : DWord
deriving DecidableEq, Repr

/-- A core: compute core 0 to 127 or steward core 128 to 143 (R8, R144). `blocks` and `columns` are the 4 KiB blocks of its core
store and the columns of its scale store whose clear bit has been reset: all others read as zeros (R27). -/
structure Core where
  relSeq : Nat
  clean : List CleanLine
  dirty : List DirtyByte
  floors : List (CacheId × Nat)
  store : Cells 8
  scale : Cells 8
  blocks : List Nat
  columns : List Nat
  generations : List (Nat × Nat)
  matrix : List MatCmd
  failed : Bool
  resetting : Bool
deriving DecidableEq, Repr

/-! ## Memory side -/

/-- A die's L2 copy of a line homed on another die (R155). -/
structure DieCopy where
  die : Nat
  line : Nat
  state : Moesi
  bytes : List Byte
deriving DecidableEq, Repr

/-- This module's S copy of a line of another device (R156), in the L2 of a die. -/
structure RemoteCopy where
  device : Nat
  line : Nat
  die : Nat
  bytes : List Byte
deriving DecidableEq, Repr

/-- A snoop-filter entry (R314): the line and when it was last used. -/
structure FilterEntry where
  line : Nat
  used : Nat
deriving DecidableEq, Repr

/-- A write request of a die that waits for acknowledgements (R155). -/
structure DieRequest where
  die : Nat
  line : Nat
  waits : List Nat
deriving DecidableEq, Repr

/-- A lazy-release record (R150, R151). -/
structure LazyRec where
  line : Nat
  core : Nat
  seq : Nat
deriving DecidableEq, Repr

/-- The last-writer record of a line (R147). -/
structure LastWriter where
  line : Nat
  core : Nat
  stamp : Nat
deriving DecidableEq, Repr

/-- A drain that a home slice has commanded (R152): the core, the acquired line, the highest stamp (none: every
byte), the acquiring party, and whether the core has drained. -/
structure DrainCmd where
  core : Nat
  line : Nat
  stamp : Option Nat
  acquirer : PartyId
  drained : Bool
deriving DecidableEq, Repr

/-- A line of a composed cache with its fill stamp (R154). -/
structure CcLine where
  line : Nat
  stamp : Nat
  bytes : List Byte
deriving DecidableEq, Repr

/-- A dirty byte of a composed cache with its core and release stamp (R154). -/
structure CcDirty where
  pa : Nat
  val : Byte
  core : Nat
  stamp : Nat
deriving DecidableEq, Repr

/-- An installed composed cache (R154, R278, R280). -/
structure ComposedCache where
  id : CacheId
  lineBytes : Nat
  ways : Nat
  policy : WritePolicy
  shares : List (Nat × Nat)
  fills : Nat
  clean : List CcLine
  dirty : List CcDirty
deriving DecidableEq, Repr

/-- A cluster bank (R32, R279): `entries` are its FIFO entries, oldest first. -/
structure Bank where
  mode : BankMode
  owner : Nat
  entrySize : Nat
  bytes : Cells 8
  entries : List (List Byte)
deriving DecidableEq, Repr

/-- A cached translation of a unit (R277): page base and size, the leaf, whether its frames hold a kernel-reserved one, and
the certified bits read for its frames (R283). `at_` is the leaf's address. -/
structure TlbEntry where
  unit : Nat
  space : Nat
  base : Nat
  size : Nat
  at_ : Nat
  leaf : DWord
  reserved : Bool
  certified : List (Nat × Bool)
deriving DecidableEq, Repr

/-- An instruction-cache line of a core (R169). -/
structure TextLine where
  core : Nat
  line : Nat
  bytes : List Byte
deriving DecidableEq, Repr

/-- Who asked for a write at a home slice: what follows when it is applied (R164). -/
inductive WriteSource where
  | entry (p : PartyId) (id : Nat)
  | copy (id elem : Nat)
  | drain (core stamp : Nat)
  /-- a steward core's barrier event (R257) -/
  | barrier (p : PartyId)
  | packet (device seq : Nat)
  /-- an Ethernet port's write of a received frame, in a space -/
  | port (n space : Nat)
  /-- a completion word, and the steward core that it wakes (R329) -/
  | completion (space : Nat) (issuer : PartyId)
  | shuttle (part seq : Nat)
  /-- a row of a drain: the core, the command and the workgroup that issued it (R140) -/
  | accd (core id part wg : Nat)
  /-- its maximum; `leaves`: at DEVICE scope, so that it leaves a record (R311) -/
  | accdMax (core id part wg : Nat) (leaves : Bool)
  /-- Accessed or Dirty, set by a unit's walker (R274) -/
  | walker (unit : Nat)
  /-- a fault record, for a partition's queue or the kernel queue (R298) -/
  | record (queue : Option Nat)
  /-- bytes that a steward core's instruction writes (R285) -/
  | service (p : PartyId)
  /-- a workgroup's image on its way to the save pool (R300) -/
  | image (part wg : Nat)
deriving DecidableEq, Repr

/-- What a write at a home slice does: `write` stores bytes of one line. -/
inductive HomeOp where
  | write (cells : List Host.Cell)
  | atomic (pa : Nat) (fn : AtomFn) (wide : Bool) (x c : DWord)
  /-- an event on a barrier object (R225): the kind 0 BINIT, 1 arrival, 2 BEXPECT, and its operand -/
  | barrier (pa : Nat) (kind : Nat) (operand : DWord) (owner : Nat)
deriving DecidableEq, Repr

/-- A held write (R164). -/
structure HeldWrite where
  op : HomeOp
  source : WriteSource
deriving DecidableEq, Repr

/-- A write whose asker has no instruction to try again (the shuttle, a record, a port): what waits until its leaves have
Dirty set (R274) and a full held-write queue has room (R168). -/
structure AskedWrite where
  unit : Nat
  pieces : List Piece
  op : HomeOp
  source : WriteSource
deriving DecidableEq, Repr

/-- A copy (R178 to R184). `next` is the first element not performed; `done` the later ones performed; `pins` the
elements that have been read, each with its translated destination and its bytes: none of them can fault any more (R161). -/
structure Copy where
  id : Nat
  core : Nat
  slot : Nat
  tagSlot : Nat
  generation : Nat
  owner : PartyId
  part : Nat
  wg : Nat
  batch : Nat
  steward : Bool
  space : Nat
  root : Nat
  pc : DWord
  src : Nat
  dst : Nat
  elem : Nat
  dims : List (Nat × Int × Int)
  srcSpace : Nat
  dstSpace : Nat
  zero : Bool
  barrier : Option Place
  barrierOff : Nat
  srcRange : Nat × Nat
  dstRange : Nat × Nat
  next : Nat
  done : List Nat
  pins : List (Nat × List Piece × List Byte)
  stopped : Option FaultClass
  saved : Bool
deriving DecidableEq, Repr

/-- An accumulator region (R136): the launch or rung that declared it, and in `spans` the physical pieces of its
64 KiB. -/
structure Region where
  part : Nat
  launch : Nat
  rung : Option (Nat × Nat)
  base : Nat
  spans : List Piece
  declared : Bool
  ordered : Bool
  n : Nat
  reserved : List Nat
  dropped : List Nat
  /-- MMAs counted as outstanding, and those whose grant is due (R133) -/
  outstanding : List Nat
  asking : List Nat
  draining : Bool
  /-- its last workgroup has exited: it is released once what can still be added to it has been (R138) -/
  leaving : Bool
  /-- ordered mode: the index each line awaits next (R83), and the contributions held -/
  await : List (Nat × Nat)
  early : List (Nat × Nat × Nat × List Word)
deriving DecidableEq, Repr

/-- An MMA that has sent its contributions, with the lines where they have not been applied (R134, R135). At DEVICE scope it
has not completed: its core holds the ranges that it read (R120). -/
structure OutMma where
  id : Nat
  core : Nat
  reads : List (Nat × Nat)
  part : Nat
  base : Nat
  members : List (PartyId × Nat)
  deviceScope : Bool
  index : Option Nat
  left : List Nat
deriving DecidableEq, Repr

/-- A contribution to one accumulator line on its way (R134). `returned`: sent back by a full slice buffer. -/
structure Contribution where
  id : Nat
  mma : Nat
  part : Nat
  base : Nat
  line : Nat
  core : Nat
  index : Option Nat
  vals : List Word
  returned : Bool
deriving DecidableEq, Repr

/-! ## Tacks -/

inductive TackKind where
  | ro | own | val | topo
deriving DecidableEq, Repr

inductive TackState where
  | free | live | breaking | broken
deriving DecidableEq, Repr

structure TackHolder where
  p : PartyId
  landing : DWord
deriving DecidableEq, Repr

/-- The launch or rung under which work stands: a rung RCB is a launch (R232). -/
structure WorkKey where
  part : Nat
  launch : Nat
  rung : Option (Nat × Nat)
deriving DecidableEq, Repr

/-- A tack of the registry (R187 to R190). `watch` are the physical pieces; `pages` the virtual pages registered. -/
structure Tack where
  index : Nat
  generation : Nat
  state : TackState
  kind : TackKind
  part : Nat
  launch : Option WorkKey
  base : Nat
  length : Nat
  value : DWord
  watch : List Piece
  space : Nat
  pages : List (Nat × Nat)
  holders : List TackHolder
deriving DecidableEq, Repr

/-! ## Work -/

/-- A region control block (R211). -/
structure Rcb where
  kind : Nat
  priority : Nat
  flags : BitVec 8
  domain : Nat
  parent : Nat
  after : Nat
  maxCores : Nat
  quota : Nat
  budget : Nat
  stagger : Nat
  entry : Nat
  lanes : Nat
  x : Nat
  y : Nat
  z : Nat
  groups : Nat
  vregs : Nat
  store : Nat
  args : Nat
  barrier : Nat
  statusAddr : Nat
deriving DecidableEq, Repr

/-- A region's values as read when the first launch beneath it was accepted (R214). -/
structure RegionValues where
  part : Nat
  addr : Nat
  rcb : Rcb
deriving DecidableEq, Repr

inductive LaunchState where
  | waiting | eligible | running | complete | failed | notRun
deriving DecidableEq, Repr

/-- An accepted launch (R214 to R221), or the template of a ladder's rung (R320, `rung`). -/
structure Launch where
  part : Nat
  seq : Nat
  rcb : Rcb
  chain : List Nat
  priority : Nat
  domain : Nat
  state : LaunchState
  eligibleAt : Nat
  /-- its place in its queue (R216) -/
  order : Nat
  aged : Nat
  nextIndex : Nat
  ended : Nat
  failures : Nat
  firstReason : Nat
  lastStart : Option Nat
  firstSince : Option Nat
  blocking : Bool
  retry : List Nat
  resume : List Nat
  statusWritten : Nat
  acceptedBy : Nat
deriving DecidableEq, Repr

inductive WgState where
  | resident
  /-- being stopped for a save (R300) -/
  | stopping
  | stopped
  /-- stopped, with writes of its image still to reach the save pool -/
  | saving
  | saved
deriving DecidableEq, Repr

/-- The item of one thread of a rung group (R233, R259), with its frame and how often it was packed before. -/
inductive ItemState where
  | running | settled | escalated
deriving DecidableEq, Repr

structure Item where
  thread : Nat
  index : Nat
  state : ItemState
  frame : List Byte
  packed : Nat
deriving DecidableEq, Repr

/-- A joint MMA waiting in a rendezvous latch (R125). -/
structure LatchEntry where
  member : Nat
  number : Nat
  gang : List Nat
  sd : DWord
  sa : DWord
  sb : DWord
  batch : Nat
  pc : DWord
deriving DecidableEq, Repr

/-- A rung of an active ladder (R258). -/
structure Rung where
  rcbAddr : Nat
  rcb : Rcb
  chain : List Nat
  priority : Nat
  domain : Nat
  banks : BitVec 64
  limit : Nat
  frame : Nat
  lastStart : Option Nat
  /-- entries in push order: item index, frame, `clk` of the push, times the item was packed before -/
  queue : List (Nat × List Byte × Nat × Nat)
  packs : Nat
  /-- the ladder's last rung, from which no item rises (R237) -/
  top : Bool
deriving DecidableEq, Repr

/-- A workgroup: resident, being stopped, saved (R217 to R220, R299 to R301, R333). `rungOwn`: the rung of a rung workgroup, as it
was when its ladder retired (R259). -/
structure Workgroup where
  part : Nat
  id : Nat
  launch : Nat
  rung : Option (Nat × Nat)
  rungOwn : Option Rung
  index : Nat
  core : Nat
  share : Nat
  length : Nat
  groups : List PartyId
  state : WgState
  startedAt : Nat
  savedAt : Nat
  aged : Nat
  retried : Bool
  sharing : Option (Nat × Nat × Nat)
  /-- a critical section defers its pre-emption (R238) -/
  deferred : Bool
  /-- swapped out for a pack, which is to be placed first (R236) -/
  displaced : Bool
  /-- where its image lies in the save pool (R300) -/
  poolAt : Nat
  /-- its image is in its core's shadow, not in the pool (R306) -/
  shadowed : Bool
  /-- errors in the share that was saved, at its old core (R302) -/
  imageErrors : List ErrSite
  latch : List LatchEntry
  items : List Item
  image : Cells 8
  scaleImage : Cells 8
  savedMatrix : List MatCmd
deriving DecidableEq, Repr

/-- An active ladder (R259). -/
structure Ladder where
  part : Nat
  addr : Nat
  cluster : Nat
  slotSize : Nat
  slotBase : Nat
  barrier : Nat
  rungs : List Rung
  submitted : Nat
  settled : Nat
  failedItems : Nat
deriving DecidableEq, Repr

/-- A partition (R269). -/
structure Partition where
  enabled : Bool
  spaceid : Nat
  ptroot : Nat
  cores : BitVec 128
  root : Nat
  faultQueue : Nat
  nextSeq : Nat
  nextWg : Nat
  swappedOut : Bool
  /-- saved in the cores' shadows, not in its pool (R306) -/
  inShadow : Bool
deriving DecidableEq, Repr

/-- A peer-table entry (R207). -/
structure Peer where
  part : Nat
  number : Nat
  device : Nat
  kind : Nat
  k : Nat
  base : Nat
  length : Nat
deriving DecidableEq, Repr

/-! ## Fabric and Ethernet -/

inductive SlotState where
  | idle | collecting | delivered
deriving DecidableEq, Repr

/-- A reduction slot of a switch (R195, R196). -/
structure Slot where
  port : Nat
  slot : Nat
  owner : Option Nat
  state : SlotState
  round : Nat
  operation : Nat
  count : Nat
  timeout : Nat
  openedAt : Nat
  deliveredAt : Nat
  taken : List DWord
  received : Nat
  joiners : List (PartyId × Bool)
  getters : List PartyId
  result : DWord
  nanSeen : Bool
  isPartial : Bool
deriving DecidableEq, Repr

/-- A contribution on its way to a switch (R197): the party, its descriptor word, the value, the register that waits for the
status word, and when it left. -/
structure FredPut where
  id : Nat
  p : PartyId
  word : DWord
  value : DWord
  dest : Nat
  sentAt : Nat
deriving DecidableEq, Repr

/-- A flit in a link's retry buffer: its link sequence number and the packet that it carries. -/
structure Flit where
  seq : Nat
  packet : Packet
deriving DecidableEq, Repr

/-- One of a port's four links (R307). `weight`: its part of the port's routing; `failedResends`: resends since the last
acknowledgement. -/
structure Link where
  enabled : Bool
  up : Bool
  weight : Nat
  nextSeq : Nat
  retry : List Flit
  failedResends : Nat
  /-- receiving side: link sequence numbers accepted, and whether a resend has been asked for -/
  accepted : List Nat
  askedResend : Bool
deriving DecidableEq, Repr

/-- A fabric port (R331). `command`: an up command in progress, its steward core, its start, and what the core stalls on. -/
structure FabricPort where
  up : Bool
  device : Option Nat
  links : List Link
  command : Option (PartyId × Nat × Nat)
deriving DecidableEq, Repr

/-- A packet sent and not acknowledged (R308). `src` names what it completes. -/
structure SentPacket where
  device : Nat
  seq : Nat
  body : PacketBody
  sentAt : Nat
  firstAt : Nat
deriving DecidableEq, Repr

/-- A queued operation of an Ethernet port (R329). `began`: a transmit has begun on the line; `frame`: what a receive has got,
empty until then; `parts`: the lines of the buffer read, with their bytes, or written. -/
structure EtherOp where
  transmit : Bool
  space : Nat
  priority : Nat
  buffer : Nat
  length : Nat
  completion : Nat
  issuer : PartyId
  began : Bool
  frame : List Byte
  parts : List (Nat × List Byte)
deriving DecidableEq, Repr

/-- An Ethernet port (R328, R329). `sent`: the frames that left, newest first, with their check marks; `paused`: until when its
partner has paused each priority; `waiting`: frames for which no buffer waits; `pausing`: priorities that it has paused at its partner. -/
structure EtherPort where
  up : Bool
  paused : List Nat
  queue : List EtherOp
  command : Option (PartyId × Nat × Nat)
  sent : List (List Byte × Bool)
  waiting : List (List Byte)
  pausing : List Nat
deriving DecidableEq, Repr

/-! ## The schedule (the model's own) -/

/-- A choice that the spec leaves to the device, set for the next moves (log entry 2). -/
structure Choice where
  /-- use a cached translation, or instruction-cache line, where the unit holds one (R277) -/
  stale : Bool
  /-- the core-store offset to try first (R10) -/
  share : Option Nat
  /-- the resident-workgroup identifier to try first (R333) -/
  wgId : Option Nat
  /-- fetch the next scalar word ahead (R169) -/
  ahead : Bool
deriving DecidableEq, Repr

/-- One move of one agent. -/
inductive Move where
  /-- the party's scalar stream issues its next instruction -/
  | issue (p : PartyId)
  /-- the next instruction of the party's run -/
  | lane (p : PartyId)
  | event (i : Instr) (a : EventArgs)
  /-- time passes -/
  | tick (n : Nat)
  | choose (c : Choice)
deriving DecidableEq, Repr

/-! ## The state -/

structure State where
  -- the schedule
  agenda : List Move
  actor : PartyId
  args : EventArgs
  turn : Nat
  choice : Choice
  fresh : Nat
  -- the module
  clk : Nat
  powered : Bool
  bootStatus : BitVec 8
  tripReason : BitVec 8
  heldDies : List Nat
  heldBlocks : List PowerBlock
  -- parties and cores
  parties : List Party
  cores : List Core
  -- memory
  mem : List Host.Cell
  dieCopies : List DieCopy
  filter : List FilterEntry
  dieRequests : List DieRequest
  lazy : List LazyRec
  dirtyHolders : List (Nat × Nat)
  lastWriters : List LastWriter
  drains : List DrainCmd
  held : List HeldWrite
  asks : List AskedWrite
  caches : List ComposedCache
  banks : List Bank
  counted : List (Place × Nat)
  tlb : List TlbEntry
  text : List TextLine
  kfmap : DWord
  errors : List ErrSite
  /-- retired rows and ways (R303), and the spare cores that each die has used (R305) -/
  retired : List (Nat × Nat)
  sparesUsed : List Nat
  -- engines
  copies : List Copy
  regions : List Region
  mmas : List OutMma
  contributions : List Contribution
  tacks : List Tack
  -- work
  partitions : List Partition
  regionValues : List RegionValues
  launches : List Launch
  workgroups : List Workgroup
  ladders : List Ladder
  /-- the DARN in progress: its steward core, partition, target and length -/
  darning : Option (PartyId × Nat × Nat × Nat)
  records : List PendingRec
  -- fabric and Ethernet
  peers : List Peer
  slots : List Slot
  puts : List FredPut
  fabric : List FabricPort
  sent : List SentPacket
  nextSeqs : List (Nat × Nat)
  acceptedSeqs : List (Nat × Nat)
  deadDevices : List Nat
  /-- devices fenced for this module's home range, and home devices that have fenced this module (R157) -/
  fenced : List Nat
  fencedAt : List Nat
  remoteCopies : List RemoteCopy
  sharers : List (Nat × Nat)
  ether : List EtherPort
  /-- ports whose up command has ended since the firmware took over: 0 and 1 Ethernet, 2 to 17 fabric (R332) -/
  portsTried : List Nat
  outbox : List Packet
  -- measurement
  slotsMeasured : List (List Byte)
  slotsClosed : List Bool
deriving DecidableEq, Repr

/-! ## Reasons to stop -/

/-- Reasons for which the machine stops. -/
inductive Fault where
  /-- raised by `step` when the module has no power (R327, R332) and the schedule holds nothing: nothing can act.
  Safe: the part does nothing either. -/
  | noPower
deriving DecidableEq, Repr

/-- Reasons for which an instruction has no meaning. -/
inductive Refusal where
  /-- an arm of `exec` that is not written: no arm at all in this model. Safe. -/
  | notModelled (mnemonic : String)
deriving DecidableEq, Repr

/-- `GW` of a group (00_scope.md). -/
def Party.gw (p : Party) : Nat := p.width.threads

/-! ## Blank parts and reset -/

def Party.blank (id : PartyId) (core : Nat) : Party where
  id := id
  core := core
  lane := 0
  width := .steward
  vcount := 0
  sregs := []
  vregs := []
  kregs := []
  fmt := 6
  em := 0
  pc := 0
  status := .running
  park := none
  pending := []
  fetched := []
  acqs := []
  stallOn := []
  engFence := none
  yieldTo := []
  progress := 0
  ladsub := none
  ladItems := none
  loaded := []
  copyTags := []
  heldResult := none
  half := none
  sq := []
  loads := []
  ops := []
  queue := []
  run := none
  paused := false
  tags := []
  divs := []
  readySince := none
  lastRunEnd := 0
  aged := 0
  lastIssue := 0
  stalled := false
  checkpoint := none
  gang := []
  joint := 0
  batch := 0
  batchDone := 0
  members := []
  crit := none
  spaceid := 0
  ptroot := 0
  faultinfo := 0
  faultaddr := 0
  faultaddr2 := 0
  frSeen := []
  shooting := []
  unpicks := []
  landings := []
  blocked := false
  waitsOn := none

/-- A steward core at reset (R310): core 128 runs the ROM, the others its loop. -/
def Party.steward (n : Nat) : Party :=
  { Party.blank (.steward n) (128 + n) with
    pc := BitVec.ofNat 64 Config.romBase
    status := if n = 0 then .running else .romLoop }

def Core.blank : Core where
  relSeq := 0
  clean := []
  dirty := []
  floors := []
  store := []
  scale := []
  blocks := []
  columns := []
  generations := []
  matrix := []
  failed := false
  resetting := false

def Bank.blank : Bank where
  mode := .unassigned
  owner := 0
  entrySize := 0
  bytes := []
  entries := []

def Partition.blank : Partition where
  enabled := false
  spaceid := 0
  ptroot := 0
  cores := 0
  root := 0
  faultQueue := 0
  nextSeq := 1
  nextWg := 0
  swappedOut := false
  inShadow := false

def Link.blank : Link where
  enabled := false
  up := false
  weight := 0
  nextSeq := 0
  retry := []
  failedResends := 0
  accepted := []
  askedResend := false

def FabricPort.blank : FabricPort where
  up := false
  device := none
  links := List.replicate 4 Link.blank
  command := none

def EtherPort.blank : EtherPort where
  up := false
  paused := List.replicate 8 0
  queue := []
  command := none
  sent := []
  waiting := []
  pausing := []

def EventArgs.blank : EventArgs where
  p := .steward 0
  x := 0
  y := 0
  z := 0
  flag := false
  level := .l1
  site := .mem 0
  block := .sram
  pkt := ⟨0, 0, .done 0⟩
  bytes := []

def Choice.blank : Choice where
  stale := false
  share := none
  wgId := none
  ahead := false

/-- The module right after module reset (R309, R310), with the boot status of R332 step 1. -/
def State.reset : State where
  agenda := []
  actor := .steward 0
  args := EventArgs.blank
  turn := 0
  choice := Choice.blank
  fresh := 0
  clk := 0
  powered := true
  bootStatus := 0x01
  tripReason := 0
  heldDies := []
  heldBlocks := []
  parties := (List.range 16).map Party.steward
  cores := List.replicate Config.allCores Core.blank
  mem := []
  dieCopies := []
  filter := []
  dieRequests := []
  lazy := []
  dirtyHolders := []
  lastWriters := []
  drains := []
  held := []
  asks := []
  caches := []
  banks := List.replicate 2048 Bank.blank
  counted := []
  tlb := []
  text := []
  kfmap := 0
  errors := []
  retired := []
  sparesUsed := [0, 0, 0, 0]
  copies := []
  regions := []
  mmas := []
  contributions := []
  tacks := []
  partitions := List.replicate 16 Partition.blank
  regionValues := []
  launches := []
  workgroups := []
  ladders := []
  darning := none
  records := []
  peers := []
  slots := []
  puts := []
  fabric := List.replicate 16 FabricPort.blank
  sent := []
  nextSeqs := []
  acceptedSeqs := []
  deadDevices := []
  fenced := []
  fencedAt := []
  remoteCopies := []
  sharers := []
  ether := List.replicate 2 EtherPort.blank
  portsTried := []
  outbox := []
  slotsMeasured := List.replicate 8 (List.replicate 64 0)
  slotsClosed := List.replicate 8 false

end Sys2Proof.Machine
end

