-- ==== Sys2Proof/Machine/Cells.lean ====
section
/-!
DEFINITION. Sparse storage in canonical form, bytes and little-endian values (R2), and plain list helpers.
-/

namespace Sys2Proof.Machine

/-- The value at a key; an unlisted key reads zero. -/
def cellGet {w : Nat} : Cells w → Nat → BitVec w
  | [], _ => 0
  | (a, x) :: r, k => if a = k then x else cellGet r k

/-- Places a value other than zero at a key, keys rising. -/
def cellPut {w : Nat} : Cells w → Nat → BitVec w → Cells w
  | [], k, v => [(k, v)]
  | (a, x) :: r, k, v =>
    if k < a then (k, v) :: (a, x) :: r
    else if k = a then (k, v) :: r
    else (a, x) :: cellPut r k v

/-- Writes a key and keeps the canonical form: writing zero unlists the key. -/
def cellSet {w : Nat} (m : Cells w) (k : Nat) (v : BitVec w) : Cells w :=
  if v = 0 then m.filter fun c => decide (c.1 ≠ k) else cellPut m k v

/-- Every key of a list lies above `k`. -/
def cellsAbove {w : Nat} (k : Nat) : Cells w → Bool
  | [] => true
  | (a, _) :: r => decide (k < a) && cellsAbove k r

/-- The canonical form: keys strictly rising, no value zero. -/
def cellsWf {w : Nat} : Cells w → Bool
  | [] => true
  | (a, x) :: r => decide (x ≠ 0) && cellsAbove a r && cellsWf r

/-- The canonical form of the memory. -/
abbrev Memory.wf (m : List Host.Cell) : Bool := cellsWf (w := 8) m

/-- Sets every key of a range to zero. -/
def cellClear {w : Nat} (m : Cells w) (lo n : Nat) : Cells w :=
  m.filter fun c => c.1 < lo || lo + n ≤ c.1

/-- `n` bytes from an address on, lowest first. -/
def readBytes (m : Cells 8) (a n : Nat) : List Byte :=
  (List.range n).map fun i => cellGet m (a + i)

/-- Writes bytes from an address on. -/
def writeBytes : Cells 8 → Nat → List Byte → Cells 8
  | m, _, [] => m
  | m, a, b :: r => writeBytes (cellSet m a b) (a + 1) r

/-- The little-endian value of bytes. -/
def le : List Byte → Nat
  | [] => 0
  | b :: r => b.toNat + 256 * le r

/-- The low `n` bytes of a number, lowest first. -/
def toLe : Nat → Nat → List Byte
  | 0, _ => []
  | n + 1, v => BitVec.ofNat 8 v :: toLe n (v / 256)

/-- Bits `hi` down to `lo` of a number. -/
def bitsOf (v hi lo : Nat) : Nat := v / 2 ^ lo % 2 ^ (hi + 1 - lo)

/-- A number read as two's complement of `w` bits. -/
def toSigned (w v : Nat) : Int :=
  if v % 2 ^ w < 2 ^ (w - 1) then (v % 2 ^ w : Nat) else (v % 2 ^ w : Nat) - (2 ^ w : Nat)

/-- The residue of an integer in `w` bits. -/
def ofSigned (w : Nat) (v : Int) : Nat := (v % (2 ^ w : Nat)).toNat

def dw (n : Nat) : DWord := BitVec.ofNat 64 n
def wd (n : Nat) : Word := BitVec.ofNat 32 n

/-- The signed and the bounded part of a 64-bit immediate. -/
def sext64 {w : Nat} (i : BitVec w) : DWord := i.signExtend 64

/-- Two ranges (start, length) share a byte. -/
def meets (a n b m : Nat) : Bool := decide (a < b + m) && decide (b < a + n)

/-- A range lies within another. -/
def within (a n b m : Nat) : Bool := decide (b ≤ a) && decide (a + n ≤ b + m)

/-- Replaces the first element that meets a condition, by its update. -/
def updFirst {α : Type} (c : α → Bool) (f : α → α) : List α → List α
  | [] => []
  | x :: r => if c x then f x :: r else x :: updFirst c f r

/-- Replaces every element that meets a condition. -/
def updAll {α : Type} (c : α → Bool) (f : α → α) (l : List α) : List α :=
  l.map fun x => if c x then f x else x

/-- Appends an element that is not there yet. -/
def addNew {α : Type} [DecidableEq α] (x : α) (l : List α) : List α := if x ∈ l then l else l ++ [x]

/-- The value of a key in a plain association list. -/
def lookupD {α β : Type} [DecidableEq α] (k : α) (dflt : β) : List (α × β) → β
  | [] => dflt
  | (a, b) :: r => if a = k then b else lookupD k dflt r

/-- Sets a key of a plain association list. -/
def assocSet {α β : Type} [DecidableEq α] (k : α) (v : β) (l : List (α × β)) : List (α × β) :=
  (k, v) :: l.filter fun c => decide (c.1 ≠ k)

/-- The first number below `n` that meets a condition. -/
def firstBelow (n : Nat) (c : Nat → Bool) : Option Nat := (List.range n).find? c

/-- The lines of 128 bytes that a range of addresses meets. -/
def linesOf (a n : Nat) : List Nat :=
  if n = 0 then [] else (List.range ((a + n - 1) / 128 - a / 128 + 1)).map (a / 128 + ·)

/-- Cuts a range at multiples of `m`: (start, length) pieces, at most `fuel` of them. -/
def cutAt (m : Nat) : Nat → Nat → Nat → List (Nat × Nat)
  | 0, _, _ => []
  | f + 1, a, n =>
    if n = 0 then []
    else
      let k := min n (m - a % m)
      (a, k) :: cutAt m f (a + k) (n - k)

/-- Bit `t` of a mask. -/
def maskBit (m : Word) (t : Nat) : Bool := m.getLsbD t

/-- A mask with the bits of the threads that meet a condition. -/
def maskOf (gw : Nat) (c : Nat → Bool) : Word :=
  (List.range gw).foldl (fun m t => if c t then m ||| (1 : Word) <<< t else m) 0

/-- The mask of ones in bits 0 to gw − 1. -/
def fullMask (gw : Nat) : Word := BitVec.ofNat 32 (2 ^ gw - 1)

end Sys2Proof.Machine
end

