-- ==== Sys2Proof/Machine/Fp.lean ====
section
/-!
DEFINITION. The floating-point formats, rounding and arithmetic of 03_arithmetic.md (R61 to R76): values are exact
dyadic numbers, and each operation rounds once.
-/

namespace Sys2Proof.Machine

/-- The floating types of R61 and R62. -/
inductive FType where
  | f32 | f16 | bf16 | e5m2 | e4m3 | picot8 | e2m1
deriving DecidableEq, Repr

/-- The rounding modes of R64. -/
inductive Rnd where
  | rne | rtz | rup | rdn
deriving DecidableEq, Repr

/-- An exact value: a NaN, an infinity, or (−1)^neg × m × 2^e; m = 0 is a signed zero. -/
inductive FVal where
  | nan
  | inf (neg : Bool)
  | num (neg : Bool) (m : Nat) (e : Int)
deriving DecidableEq, Repr

def Rnd.ofCode (n : Nat) : Rnd :=
  match n with
  | 1 => .rtz | 2 => .rup | 3 => .rdn | _ => .rne

def FType.width : FType → Nat
  | .f32 => 32 | .f16 => 16 | .bf16 => 16 | .e5m2 => 8 | .e4m3 => 8 | .picot8 => 8 | .e2m1 => 4

/-- Fraction bits and bias of the formats with fields (R61). -/
def FType.frac : FType → Nat
  | .f32 => 23 | .f16 => 10 | .bf16 => 7 | .e5m2 => 2 | .e4m3 => 3 | .picot8 => 0 | .e2m1 => 1

def FType.bias : FType → Nat
  | .f32 => 127 | .f16 => 15 | .bf16 => 127 | .e5m2 => 15 | .e4m3 => 7 | .picot8 => 0 | .e2m1 => 1

/-- The code of the largest finite magnitude, sign clear (R61, R63). -/
def FType.maxCode : FType → Nat
  | .f32 => 0x7F7FFFFF | .f16 => 0x7BFF | .bf16 => 0x7F7F | .e5m2 => 0x7B | .e4m3 => 0x7E | .picot8 => 0x5F | .e2m1 => 7

/-- The canonical NaN (R68); E2M1 has none. -/
def FType.canonicalNan : FType → Nat
  | .f32 => 0x7FC00000 | .f16 => 0x7E00 | .bf16 => 0x7FC0 | .e5m2 => 0x7E | .e4m3 => 0x7F | .picot8 => 0x80 | .e2m1 => 0

/-- The sign bit of a type. -/
def FType.signBit (t : FType) : Nat := 2 ^ (t.width - 1)

/-- The floor of the base-2 logarithm; 0 for 0. -/
def ilog2 (n : Nat) : Nat := Nat.log2 n

/-! ## Picot8 (R62, R63) -/

/-- The magnitude of a Picot8 code in units of 2^−28. -/
def picotUnits (c : Nat) : Nat :=
  if c = 0 then 0
  else
    let p := ilog2 c
    let q := min p (7 - p)
    let b := [28, 26, 22, 14, 6, 2, 0].getD p 0
    let below := c - 2 ^ p
    let e := below / 2 ^ (p - q)
    let f := below % 2 ^ (p - q)
    (2 ^ (p - q) + f) * 2 ^ (28 - (b + e) - (p - q))

/-- Picot8 codes in rising order of magnitude, zero first. -/
def picotOrder : List Nat :=
  [0x00, 0x01, 0x03, 0x02, 0x07, 0x06, 0x05, 0x04] ++ [0x0F, 0x0E, 0x0D, 0x0C, 0x0B, 0x0A, 0x09, 0x08]
    ++ [0x1E, 0x1F, 0x1C, 0x1D, 0x1A, 0x1B, 0x18, 0x19] ++ [0x16, 0x17, 0x14, 0x15, 0x12, 0x13, 0x10, 0x11]
    ++ (List.range 8).map (0x38 + ·) ++ (List.range 8).map (0x30 + ·) ++ (List.range 8).map (0x28 + ·)
    ++ (List.range 8).map (0x20 + ·) ++ (List.range 32).map (0x60 + ·) ++ (List.range 32).map (0x40 + ·)

/-! ## Decoding (R61, R62) -/

/-- The value of an encoding; bits above the width are ignored. -/
def FType.decode (t : FType) (bits : Nat) : FVal :=
  let neg := decide (bits / t.signBit % 2 = 1)
  let c := bits % t.signBit
  match t with
  | .picot8 =>
    if c = 0 then (if neg then .nan else .num false 0 0) else .num neg (picotUnits c) (-28)
  | _ =>
    let f := t.frac
    let e := c / 2 ^ f
    let m := c % 2 ^ f
    if c > t.maxCode then
      (if t = .e4m3 then .nan else if m = 0 then .inf neg else .nan)
    else if e = 0 then .num neg m (1 - (t.bias : Int) - f)
    else .num neg (2 ^ f + m) ((e : Int) - t.bias - f)

/-! ## Rounding (R64 to R66) -/

/-- Whether a rounding mode moves a magnitude up from its lower candidate: `rem` against `half` as (less, equal,
greater) decided by numbers, `lowOdd` the parity of the lower candidate. -/
def Rnd.up (r : Rnd) (neg : Bool) (rem twice : Nat) (lowOdd : Bool) : Bool :=
  if rem = 0 then false
  else
    match r with
    | .rne => decide (twice < 2 * rem) || (decide (2 * rem = twice) && lowOdd)
    | .rtz => false
    | .rup => !neg
    | .rdn => neg

/-- m × 2^e over 2^q: quotient, remainder and divisor. -/
def quantise (m : Nat) (e q : Int) : Nat × Nat × Nat :=
  if q ≤ e then (m * 2 ^ (e - q).toNat, 0, 1)
  else
    let d := 2 ^ (q - e).toNat
    (m / d, m % d, d)

/-- The code to which a positive magnitude m × 2^e rounds in a format with fields, sign clear; a code above
`maxCode` is the overflow point. -/
def FType.roundCode (t : FType) (r : Rnd) (neg : Bool) (m : Nat) (e : Int) : Nat :=
  let f := t.frac
  let emin : Int := 1 - t.bias
  let top : Int := (ilog2 m : Int) + e
  let k : Int := max (top - emin) 0
  let q : Int := emin + k - f
  let (n, rem, d) := quantise m e q
  let low := k.toNat * 2 ^ f + n
  -- beyond the overflow point only the point itself or the largest finite value is a candidate
  if t.maxCode < low then
    (match r with
     | .rtz => t.maxCode
     | .rne => t.maxCode + 1
     | .rup => if neg then t.maxCode else t.maxCode + 1
     | .rdn => if neg then t.maxCode + 1 else t.maxCode)
  else if r.up neg rem d (decide (low % 2 = 1)) then low + 1 else low

/-- The neighbours of a magnitude (in units of 2^−28, as m × 2^e) in a rising list of Picot8 codes: the lower code and
the upper one, none above the largest. -/
def picotNeighbours (m : Nat) (e : Int) : List Nat → Nat → Nat × Option Nat
  | [], low => (low, none)
  | c :: r, low =>
    let (n, rem, _) := quantise m e 0
    if picotUnits c < n || (decide (picotUnits c = n)) then picotNeighbours m e r c
    else if n < picotUnits c || rem = 0 then (low, some c) else picotNeighbours m e r c

/-- Rounding to Picot8 (R64): `none` is the overflow point. -/
def picotRound (r : Rnd) (neg : Bool) (m : Nat) (e : Int) : Option Nat :=
  -- in units of 2^−28
  let u : Int := e + 28
  let (low, high?) := picotNeighbours m u picotOrder 0
  let lowU := picotUnits low
  let highU := match high? with
    | some h => picotUnits h
    | none => 2 ^ 29
  -- exact comparison at scale 2^-k
  let k := (-u).toNat
  let x := m * 2 ^ u.toNat
  let lo := lowU * 2 ^ k
  let hi := highU * 2 ^ k
  if x = lo then some low
  else
    let take :=
      match r with
      | .rtz => false
      | .rup => !neg
      | .rdn => neg
      | .rne =>
        if hi < x then true
        else if x - lo < hi - x then false
        else if hi - x < x - lo then true
        else
          let lowOdd := decide (low % 2 = 1)
          let highOdd := match high? with
            | some h => decide (h % 2 = 1)
            | none => false
          if lowOdd = highOdd then true else lowOdd
    if take then high? else some low

/-- Rounds an exact value to a type: R64 to R68. `sat`: saturation is on. -/
def FType.encode (t : FType) (r : Rnd) (sat : Bool) (v : FVal) : Nat :=
  let signed (neg : Bool) (c : Nat) : Nat := if neg then c + t.signBit else c
  let overflow (neg : Bool) : Nat :=
    if sat then signed neg t.maxCode
    else
      match t with
      | .e4m3 => t.canonicalNan
      | .picot8 => t.canonicalNan
      | .e2m1 => signed neg t.maxCode
      | _ => signed neg (t.maxCode + 1)
  match v with
  | .nan => t.canonicalNan
  | .inf neg => overflow neg
  | .num neg m e =>
    if m = 0 then (if t = .picot8 then 0 else signed neg 0)
    else if t = .picot8 then
      (match picotRound r neg m e with
       | none => overflow neg
       | some 0 => 0
       | some c => signed neg c)
    else
      let c := t.roundCode r neg m e
      if t.maxCode < c then overflow neg else signed neg c

/-! ## Exact arithmetic (R70, R72) -/

/-- Signed integer of a dyadic value at exponent `e0`, for `e0` at or below its exponent. -/
def dyInt (neg : Bool) (m : Nat) (e e0 : Int) : Int :=
  let x : Int := (m * 2 ^ (e - e0).toNat : Nat)
  if neg then -x else x

def FVal.neg : FVal → FVal
  | .nan => .nan
  | .inf s => .inf !s
  | .num s m e => .num (!s) m e

/-- The exact sum with the sign rule of R70. -/
def FVal.add (r : Rnd) : FVal → FVal → FVal
  | .nan, _ => .nan
  | _, .nan => .nan
  | .inf a, .inf b => if a = b then .inf a else .nan
  | .inf a, .num _ _ _ => .inf a
  | .num _ _ _, .inf b => .inf b
  | .num s m e, .num s' m' e' =>
    if m = 0 ∧ m' = 0 ∧ s = s' then .num s 0 0
    else
      let e0 := min e e'
      let x := dyInt s m e e0 + dyInt s' m' e' e0
      if x = 0 then .num (decide (r = .rdn)) 0 0 else .num (decide (x < 0)) x.natAbs e0

/-- The exact product. -/
def FVal.mul : FVal → FVal → FVal
  | .nan, _ => .nan
  | _, .nan => .nan
  | .inf a, .inf b => .inf (a != b)
  | .inf a, .num s m _ => if m = 0 then .nan else .inf (a != s)
  | .num s m _, .inf b => if m = 0 then .nan else .inf (s != b)
  | .num s m e, .num s' m' e' => .num (s != s') (m * m') (e + e')

/-- Order of two numbers, −0 below +0 (R70); a NaN is below nothing. -/
def FVal.lt : FVal → FVal → Bool
  | .nan, _ => false
  | _, .nan => false
  | .inf a, .inf b => a && !b
  | .inf a, .num _ _ _ => a
  | .num _ _ _, .inf b => !b
  | .num s m e, .num s' m' e' =>
    let e0 := min e e'
    let x := dyInt s m e e0
    let y := dyInt s' m' e' e0
    decide (x < y) || (decide (x = y) && s && !s' && decide (m = 0))

/-- Numeric equality: the zeros are equal, a NaN equals nothing. -/
def FVal.eq : FVal → FVal → Bool
  | .nan, _ => false
  | _, .nan => false
  | .inf a, .inf b => a == b
  | .inf _, .num _ _ _ => false
  | .num _ _ _, .inf _ => false
  | .num s m e, .num s' m' e' =>
    let e0 := min e e'
    decide (dyInt s m e e0 = dyInt s' m' e' e0)

def FVal.isNan : FVal → Bool
  | .nan => true
  | _ => false

def FVal.abs : FVal → FVal
  | .nan => .nan
  | .inf _ => .inf false
  | .num _ m e => .num false m e

/-- FMIN and FMAX on values (R70). -/
def FVal.max (a b : FVal) : FVal :=
  if a.isNan then b else if b.isNan then a else if a.lt b then b else a

def FVal.min (a b : FVal) : FVal :=
  if a.isNan then b else if b.isNan then a else if b.lt a then b else a

/-! ## Operations on encodings -/

/-- The flush rule of R71 on an F32 encoding. -/
def flushF32 (on : Bool) (bits : Nat) : Nat :=
  if on && decide (bits / 2 ^ 23 % 256 = 0) then (if bits / 2 ^ 31 % 2 = 1 then 2 ^ 31 else 0) else bits

/-- A binary32 sum to nearest even, with subnormals: the home slice's addition (R75) and the accumulator's (R81). -/
def rne32Add (x y : Nat) : Nat := FType.f32.encode .rne false ((FType.f32.decode x).add .rne (FType.f32.decode y))

/-- The sum of a type, each half of BF16 and F16 on its own (R75). -/
def FType.addRne (t : FType) (x y : Nat) : Nat := t.encode .rne false ((t.decode x).add .rne (t.decode y))

/-- FMAX32 of the home slice (R75). -/
def fmax32 (x y : Nat) : Nat := FType.f32.encode .rne false ((FType.f32.decode x).max (FType.f32.decode y))

def fmin32 (x y : Nat) : Nat := FType.f32.encode .rne false ((FType.f32.decode x).min (FType.f32.decode y))

/-- FAMAX32 (R75). -/
def famax32 (x y : Nat) : Nat :=
  FType.f32.encode .rne false ((FType.f32.decode x).abs.max (FType.f32.decode y).abs)

/-! ## Conversions to integers (R67) -/

/-- The integer to which an exact value rounds. -/
def roundToInt (r : Rnd) (neg : Bool) (m : Nat) (e : Int) : Int :=
  let (n, rem, d) := quantise m e 0
  let k : Nat := if r.up neg rem d (decide (n % 2 = 1)) then n + 1 else n
  if neg then -(k : Int) else k

/-- Clamps to the range of a `w`-bit integer. -/
def clampInt (w : Nat) (sgn : Bool) (x : Int) : Int :=
  let lo : Int := if sgn then -(2 ^ (w - 1) : Nat) else 0
  let hi : Int := if sgn then (2 ^ (w - 1) : Nat) - 1 else (2 ^ w : Nat) - 1
  if x < lo then lo else if hi < x then hi else x

/-- A conversion to an integer type: rounds and saturates; a NaN gives 0 (R67). -/
def FVal.toInt (r : Rnd) (w : Nat) (sgn : Bool) : FVal → Nat
  | .nan => 0
  | .inf neg => ofSigned w (clampInt w sgn (if neg then -(2 ^ (w + 1) : Nat) else (2 ^ (w + 1) : Nat)))
  | .num neg m e => ofSigned w (clampInt w sgn (roundToInt r neg m e))

/-- An integer as an exact value. -/
def FVal.ofInt (x : Int) : FVal := .num (decide (x < 0)) x.natAbs 0

/-- Rounding to an integral value, keeping the sign of a zero result (R100). -/
def FVal.rint (r : Rnd) : FVal → FVal
  | .num neg m e => .num neg (roundToInt r neg m e).natAbs 0
  | x => x

/-! ## Special functions (R73, R74) -/

/-- The integer square root by bits, most significant first. -/
def isqrtFuel (n : Nat) : Nat → Nat → Nat
  | 0, acc => acc
  | b + 1, acc =>
    let t := acc + 2 ^ b
    isqrtFuel n b (if t * t ≤ n then t else acc)

def isqrt (n : Nat) : Nat := isqrtFuel n (ilog2 n / 2 + 1) 0

/-- An exact-or-sticky value: `m` with one more bit that is set when the true value lies strictly above `m`. It rounds
as the true value does wherever m has two bits more than the destination. -/
def sticky (neg : Bool) (m : Nat) (inexact : Bool) (e : Int) : FVal :=
  .num neg (2 * m + inexact.toNat) (e - 1)

/-- A magnitude just below m × 2^e. -/
def justBelow (neg : Bool) (m : Nat) (e : Int) : FVal := .num neg (m * 2 ^ 64 - 1) (e - 64)

/-- A magnitude just above m × 2^e. -/
def justAbove (neg : Bool) (m : Nat) (e : Int) : FVal := .num neg (m * 2 ^ 64 + 1) (e - 64)

/-- Division (R74). DESIGN CHOICE, unsafe (log entry 59): an infinity divided by a finite value, zero too, is an infinity
signed by the exclusive or of the signs. R74 lists only two infinities and finite dividends. -/
def FVal.div : FVal → FVal → FVal
  | .nan, _ => .nan
  | _, .nan => .nan
  | .inf _, .inf _ => .nan
  | .inf a, .num s _ _ => .inf (a != s)
  | .num s _ _, .inf b => .num (s != b) 0 0
  | .num s m e, .num s' m' e' =>
    if m' = 0 then (if m = 0 then .nan else .inf (s != s'))
    else
      let n := m * 2 ^ 100
      sticky (s != s') (n / m') (decide (n % m' ≠ 0)) (e - e' - 100)

def FVal.rcp (x : FVal) : FVal := FVal.div (.num false 1 0) x

/-- A magnitude with an even exponent. -/
def evenExp (m : Nat) (e : Int) : Nat × Int := if e % 2 = 0 then (m, e) else (2 * m, e - 1)

def FVal.sqrt : FVal → FVal
  | .nan => .nan
  | .inf neg => if neg then .nan else .inf false
  | .num neg m e =>
    if m = 0 then .num neg 0 0
    else if neg then .nan
    else
      let (m, e) := evenExp m e
      let n := m * 2 ^ 80
      let r := isqrt n
      sticky false r (decide (r * r ≠ n)) (e / 2 - 40)

def FVal.rsqrt : FVal → FVal
  | .nan => .nan
  | .inf neg => if neg then .nan else .num false 0 0
  | .num neg m e =>
    if m = 0 then .inf neg
    else if neg then .nan
    else
      let (m, e) := evenExp m e
      let r := isqrt (2 ^ 200 / m)
      sticky false r (decide (r * r * m ≠ 2 ^ 200)) (-(e / 2) - 100)

/-- Fixed-point precision of the series, and π and ln 2 times 2^512. -/
def fixBits : Nat := 320
def piFix : Nat := 0x3243f6a8885a308d313198a2e03707344a4093822299f31d0082efa98ec4e6c89452821e638d01377be5466cf34e90c6cc0ac29b7c97c50dd3f84d5b5b5470917
def ln2Fix : Nat := 0xb17217f7d1cf79abc9e3b39803f2f6af40f343267298b62d8a0d175b8baafa2be7b876206debac98559552fb4afa1b10ed2eae35c138214427573b291169b825

/-- Σ x^k / k! in fixed point: the terms from the k-th on, `t` the k-th. -/
def expSeries (x : Nat) : Nat → Nat → Nat → Nat
  | 0, _, _ => 0
  | f + 1, k, t => t + expSeries x f (k + 1) (t * x / 2 ^ fixBits / (k + 1))

/-- 2^(f / 2^320) in fixed point, for f below 2^320. -/
def exp2Frac (f : Nat) : Nat :=
  expSeries (f * (ln2Fix / 2 ^ (512 - fixBits)) / 2 ^ fixBits) 90 0 (2 ^ fixBits)

/-- The alternating series of sine (from x) and cosine (from 1): `t` the term of degree k, `x2` the square. -/
def trigSeries (x2 : Nat) : Nat → Nat → Int → Int
  | 0, _, _ => 0
  | f + 1, k, t => t + trigSeries x2 f (k + 2) (-(t * (x2 : Int)) / (2 ^ fixBits : Nat) / ((k + 1) * (k + 2) : Nat))

def sinFix (x : Nat) : Nat := (trigSeries (x * x / 2 ^ fixBits) 60 1 (x : Int)).toNat
def cosFix (x : Nat) : Nat := (trigSeries (x * x / 2 ^ fixBits) 60 0 (2 ^ fixBits : Nat)).toNat

/-- The series of the inverse hyperbolic tangent: Σ z^(2k+1) / (2k+1), `t` the power. -/
def atanhSeries (z2 : Nat) : Nat → Nat → Nat → Nat
  | 0, _, _ => 0
  | f + 1, k, t => t / k + atanhSeries z2 f (k + 2) (t * z2 / 2 ^ fixBits)

/-- A fixed-point magnitude, which is never exact, as a value. -/
def ofFix (neg : Bool) (x : Nat) (e : Int) : FVal := sticky neg x true (e - fixBits)

def FVal.exp2 : FVal → FVal
  | .nan => .nan
  | .inf neg => if neg then .num false 0 0 else .inf false
  | .num neg m e =>
    if m = 0 then .num false 1 0
    else
      let (n, rem, _) := quantise m e 0
      let top : Int := (ilog2 m : Int) + e
      if 10 < top then .num false 1 (if neg then -1024 else 1024)
      else if rem = 0 then .num false 1 (if neg then -(n : Int) else n)
      else if top < -60 then (if neg then justBelow false 1 0 else justAbove false 1 0)
      else
        -- x = i + f / 2^320 with 0 < f; exact, since |e| is below 320
        let x : Int := dyInt neg m e (-(fixBits : Nat))
        let i := x / (2 ^ fixBits : Nat)
        let f := (x % (2 ^ fixBits : Nat)).toNat
        ofFix false (exp2Frac f) i

def FVal.log2 : FVal → FVal
  | .nan => .nan
  | .inf neg => if neg then .nan else .inf false
  | .num neg m e =>
    if m = 0 then .inf true
    else if neg then .nan
    else
      let k := ilog2 m
      let i : Int := (k : Int) + e
      if m = 2 ^ k then (if i = 0 then .num false 0 0 else FVal.ofInt i)
      else
        -- ln(m / 2^k) = 2 atanh((m − 2^k) / (m + 2^k))
        let z := (m - 2 ^ k) * 2 ^ fixBits / (m + 2 ^ k)
        let ln := 2 * atanhSeries (z * z / 2 ^ fixBits) 110 1 z
        let f := ln * 2 ^ fixBits / (ln2Fix / 2 ^ (512 - fixBits))
        let x : Int := i * (2 ^ fixBits : Nat) + f
        ofFix (decide (x < 0)) (if x < 0 then x.natAbs - 1 else x.natAbs) 0

/-- The quadrant and the remainder in fixed point of a magnitude over π / 2. -/
def trigReduce (m : Nat) (e : Int) : Nat × Nat :=
  -- x × 2^512, exact for the exponents of F32
  let x := (m * 2 ^ (e + 512).toNat)
  let half := piFix / 2
  -- divide with guard bits: x × 2^256 over π/2 × 2^256
  (x / half, (x % half) / 2 ^ (512 - fixBits))

def FVal.sin : FVal → FVal
  | .nan => .nan
  | .inf _ => .nan
  | .num neg m e =>
    if m = 0 then .num neg 0 0
    else if (ilog2 m : Int) + e < -60 then justBelow neg m e
    else
      let (q, r) := trigReduce m e
      let v := if q % 2 = 0 then sinFix r else cosFix r
      ofFix (neg != decide (q % 4 ≥ 2)) v 0

def FVal.cos : FVal → FVal
  | .nan => .nan
  | .inf _ => .nan
  | .num _ m e =>
    if m = 0 then .num false 1 0
    else if (ilog2 m : Int) + e < -60 then justBelow false 1 0
    else
      let (q, r) := trigReduce m e
      let v := if q % 2 = 0 then cosFix r else sinFix r
      ofFix (decide (q % 4 = 1 ∨ q % 4 = 2)) v 0

def FVal.tanh : FVal → FVal
  | .nan => .nan
  | .inf neg => .num neg 1 0
  | .num neg m e =>
    let top : Int := (ilog2 m : Int) + e
    if m = 0 then .num neg 0 0
    else if top < -60 then justBelow neg m e
    else if 5 < top then justBelow neg 1 0
    else
      -- t = exp(−2|x|) = 2^(−2|x| / ln 2)
      let y := m * 2 ^ (e + 1 + fixBits).toNat
      let g := y * 2 ^ fixBits / (ln2Fix / 2 ^ (512 - fixBits))
      let i := g / 2 ^ fixBits
      let f := g % 2 ^ fixBits
      -- 2^−(i + f) = 2^(1 − f) / 2^(i + 1)
      let t := exp2Frac (2 ^ fixBits - 1 - f) / 2 ^ (i + 1)
      ofFix neg ((2 ^ fixBits - t) * 2 ^ fixBits / (2 ^ fixBits + t)) 0

/-! ## Block scales (R76) -/

/-- The offset of the scale exponent of R76 for a destination. -/
def FType.scaleOffset : FType → Int
  | .picot8 => 1
  | .e4m3 => -8
  | _ => -15

/-- A value times 2^k. -/
def FVal.scale (k : Int) : FVal → FVal
  | .num s m e => .num s m (e + k)
  | x => x

/-- Whether a value is finite. -/
def FVal.finite : FVal → Bool
  | .num _ _ _ => true
  | _ => false

/-- The floor of log2 of the largest finite magnitude of a block; none when it is zero or there is none. -/
def blockTop : List FVal → Option Int
  | [] => none
  | .num _ m e :: r =>
    let t := blockTop r
    if m = 0 then t
    else
      let x : Int := (ilog2 m : Int) + e
      (match t with
       | none => some x
       | some y => some (max x y))
  | _ :: r => blockTop r

/-- Quantises a block (R76): the scale byte and the elements' codes. -/
def quantBlock (t : FType) (xs : List FVal) : Nat × List Nat :=
  if xs.all (·.finite) then
    let s : Int :=
      match blockTop xs with
      | none => 0
      | some a => max (-127) (min 127 (a + t.scaleOffset))
    ((s + 127).toNat, xs.map fun x => t.encode .rne true (x.scale (-s)))
  else (0xFF, xs.map fun _ => t.canonicalNan)

end Sys2Proof.Machine
end

