-- ==== Sys2Proof/Machine/Atomic.lean ====
section
/-!
DEFINITION. The new word of every atomic operation (R75, R175, R205, R206).
-/

namespace Sys2Proof.Machine

/-- A pair of halves, each added in its own type (R75). -/
def addHalves (t : FType) (x y : Nat) : Nat :=
  t.addRne (x % 65536) (y % 65536) + 65536 * t.addRne (x / 65536 % 65536) (y / 65536 % 65536)

/-- A merged contribution: each half plus an F32 addend, rounded once (R206). -/
def mergeHalves (t : FType) (w m : Nat) : Nat :=
  let half (x a : Nat) : Nat := t.encode .rne false ((t.decode x).add .rne (FType.f32.decode a))
  half (w % 65536) (m % 2 ^ 32) + 65536 * half (w / 65536 % 65536) (m / 2 ^ 32)

/-- The new word of an atomic on a word of `w` bits: old word, operand, compare value. -/
def atomNew (fn : AtomFn) (w old x c : Nat) : Nat :=
  match fn with
  | .add => (old + x) % 2 ^ w
  | .and => old &&& x
  | .or => old ||| x
  | .xor => old ^^^ x
  | .min => if toSigned w x < toSigned w old then x else old
  | .max => if toSigned w old < toSigned w x then x else old
  | .minu => if x < old then x else old
  | .maxu => if old < x then x else old
  | .xchg => x
  | .cas => if old = c then x else old
  | .fadd => rne32Add old x
  | .fmax => fmax32 old x
  | .famax => famax32 old x
  | .bf16x2 => addHalves .bf16 old x
  | .f16x2 => addHalves .f16 old x
  | .mergeBf16 => mergeHalves .bf16 old x
  | .mergeF16 => mergeHalves .f16 old x

/-- The operand as the operation takes it: a merged pair of addends keeps its 64 bits (R206). -/
def atomArg (fn : AtomFn) (w x : Nat) : Nat :=
  match fn with
  | .mergeBf16 | .mergeF16 => x
  | _ => x % 2 ^ w

/-- Bytes of an atomic's word. -/
def atomSize (wide : Bool) : Nat := if wide then 8 else 4

end Sys2Proof.Machine
end

