-- ==== Sys2Proof/Machine/Ops.lean ====
section
/-!
DEFINITION. The named operations on parties, cores and registers, and taking a fault (R171, R296 to R299): the one
way in which a context parks. The return, ERET, stands in Machine/Eret.lean over `State.unpark`.
-/

namespace Sys2Proof

def PartyId.isSteward : PartyId → Bool
  | .steward _ => true
  | .group _ _ _ => false

/-- The fault queue of a party: a partition's, or the kernel queue (R296). -/
def PartyId.queue : PartyId → Option Nat
  | .steward _ => none
  | .group part _ _ => some part

end Sys2Proof

namespace Sys2Proof.Machine

/-- What a meaning answers. -/
abbrev Out := Host.Outcome State Fault Refusal

/-! ## Numbers of cores -/

def dieOfCore (c : Nat) : Nat := if c < 128 then c / 32 else (c - 128) / 4

/-- The cluster of a compute core, die × 8 + cluster (01_machine.md). -/
def clusterOfCore (c : Nat) : Nat := c / 4

/-! ## What is held back -/

/-- Power holds a block back, or heat every block of its die (R326, R327). -/
def State.dieHolds (s : State) (b : PowerBlock) (die : Nat) : Bool := decide (b ∈ s.heldBlocks) || decide (die ∈ s.heldDies)

/-- A block of a core's die is held back. -/
def State.holds (s : State) (b : PowerBlock) (core : Nat) : Bool := s.dieHolds b (dieOfCore core)

/-- The home die of a physical address (R314): device space is homed on die 0. -/
def homeDie (pa : Nat) : Nat := if pa < Config.dramBytes then pa / Config.dieBytes else 0

/-- The home slice of an address accepts no access: its SRAM or the DRAM stacks are held back, or heat holds its die (R326, R327).
Which accesses reach DRAM the model does not know: a hold of the stacks is one of every home slice. DESIGN CHOICE (log entry 62). -/
def State.sliceHolds (s : State) (pa : Nat) : Bool := s.dieHolds .sram (homeDie pa) || s.dieHolds .dram (homeDie pa)

/-- It accepts none from a die: it is held back, or the bridges between the two dies. -/
def State.homeHolds (s : State) (die pa : Nat) : Bool :=
  s.sliceHolds pa || (decide (die ≠ homeDie pa) && s.dieHolds .bridges die)

/-! ## Codes -/

/-- The class codes of R298. -/
def FaultClass.code : FaultClass → Nat
  | .illegal => 0x01 | .overlap => 0x02 | .schedule => 0x03 | .alignment => 0x04 | .pageAbsent => 0x05
  | .protection => 0x06 | .kernelReserved => 0x07 | .rangeLock => 0x08 | .barrierCount => 0x09
  | .barrierOverflow => 0x0A | .gang => 0x0B | .quota => 0x0C | .accumStore => 0x0D | .residue => 0x0E
  | .memoryError => 0x0F | .storeError => 0x10 | .remote => 0x11 | .cluster => 0x12 | .cacheAbsent => 0x13
  | .trap => 0x14 | .certificate => 0x15 | .fetch => 0x16 | .privilege => 0x17 | .critExpired => 0x18

/-- The scope codes of R39: 0 GROUP to 4 FABRIC, 5 PDEVICE. -/
def scopeOf (n : Nat) : Scope :=
  match n with
  | 0 => .group | 1 => .core | 2 => .cluster | 3 => .device | 4 => .fabric | _ => .pdevice

/-- A release at PDEVICE is taken at DEVICE (R176, R177). -/
def Scope.forRelease : Scope → Scope
  | .pdevice => .device
  | x => x

/-! ## Parties -/

def State.party? (s : State) (p : PartyId) : Option Party := s.parties.find? fun q => decide (q.id = p)

/-- A party; one that does not exist reads as blank. -/
def State.party (s : State) (p : PartyId) : Party := (s.party? p).getD (Party.blank p 0)

/-- The party whose instruction is being performed. -/
def State.me (s : State) : Party := s.party s.actor

/-- Changes one party. -/
def State.updParty (s : State) (p : PartyId) (f : Party → Party) : State :=
  { s with parties := s.parties.map fun q => if q.id = p then f q else q }

/-- Changes the acting party. -/
def State.upd (s : State) (f : Party → Party) : State := s.updParty s.actor f

/-- Takes an internal number. -/
def State.takeFresh (s : State) : State := { s with fresh := s.fresh + 1 }

/-! ## Cores -/

def State.core (s : State) (c : Nat) : Core := s.cores.getD c Core.blank

def State.updCore (s : State) (c : Nat) (f : Core → Core) : State :=
  { s with cores := s.cores.modify c f }

/-! ## Scalar registers (R22: s0 reads as 0 and ignores writes) -/

def Party.sreg (p : Party) (n : Nat) : DWord := if n = 0 then 0 else cellGet p.sregs n

def Party.setSreg (p : Party) (n : Nat) (v : DWord) : Party :=
  if n = 0 then p else { p with sregs := cellSet p.sregs n v }

/-- The acting party's scalar register. -/
def State.rd (s : State) (a : BitVec 6) : DWord := s.me.sreg a.toNat

/-- Writes a scalar register of a party, which clears any error that the register held (R89, R302). -/
def State.wrTo (s : State) (p : PartyId) (n : Nat) (v : DWord) : State :=
  { s.updParty p fun q => q.setSreg n v with errors := s.errors.filter fun e => decide (e ≠ .sreg p n) }

/-- Writes a scalar register of the acting party. -/
def State.wr (s : State) (d : BitVec 6) (v : DWord) : State := s.wrTo s.actor d.toNat v

/-- Goes on to the instruction at P + 4. -/
def State.adv (s : State) : State := s.upd fun p => { p with pc := p.pc + 4 }

/-- Writes the destination and goes on: the end of most scalar instructions. -/
def State.alu (s : State) (d : BitVec 6) (v : DWord) : State := (s.wr d v).adv

/-! ## Mask registers (R22, R23: k0 is all ones, bits at and above GW read zero) -/

def Party.kreg (p : Party) (n : Nat) : Word := if n = 0 then fullMask p.gw else cellGet p.kregs n

def Party.setKreg (p : Party) (n : Nat) (v : Word) : Party :=
  if n = 0 then p else { p with kregs := cellSet p.kregs n (v &&& fullMask p.gw) }

/-! ## Lane registers -/

def Party.vreg (p : Party) (n t : Nat) : Word := cellGet p.vregs (n * 32 + t)

def Party.setVreg (p : Party) (n t : Nat) (v : Word) : Party :=
  { p with vregs := cellSet p.vregs (n * 32 + t) v }

/-- Writes a lane register of one thread of a party, which clears any error that the word held (R89). -/
def State.wrV (s : State) (p : PartyId) (n t : Nat) (v : Word) : State :=
  { s.updParty p fun q => q.setVreg n t v with errors := s.errors.filter fun e => decide (e ≠ .vreg p n t) }

/-! ## Work of a group -/

/-- The workgroup of a group. -/
def State.wg? (s : State) (part wg : Nat) : Option Workgroup :=
  s.workgroups.find? fun w => decide (w.part = part ∧ w.id = wg)

def State.wgOf (s : State) : PartyId → Option Workgroup
  | .steward _ => none
  | .group part wg _ => s.wg? part wg

def State.updWg (s : State) (part wg : Nat) (f : Workgroup → Workgroup) : State :=
  { s with workgroups := updAll (fun w => decide (w.part = part ∧ w.id = wg)) f s.workgroups }

def State.partition (s : State) (n : Nat) : Partition := s.partitions.getD n Partition.blank

def State.updPartition (s : State) (n : Nat) (f : Partition → Partition) : State :=
  { s with partitions := s.partitions.modify n f }

def State.launch? (s : State) (part seq : Nat) : Option Launch :=
  s.launches.find? fun l => decide (l.part = part ∧ l.seq = seq)

def State.updLaunch (s : State) (part seq : Nat) (f : Launch → Launch) : State :=
  { s with launches := updAll (fun l => decide (l.part = part ∧ l.seq = seq)) f s.launches }

def State.ladder? (s : State) (part addr : Nat) : Option Ladder :=
  s.ladders.find? fun l => decide (l.part = part ∧ l.addr = addr)

def State.updLadder (s : State) (part addr : Nat) (f : Ladder → Ladder) : State :=
  { s with ladders := updAll (fun l => decide (l.part = part ∧ l.addr = addr)) f s.ladders }

/-- What a workgroup and its regions stand under. -/
def Workgroup.key (w : Workgroup) : WorkKey := ⟨w.part, w.launch, w.rung⟩

/-- The rung of a rung group's workgroup (R320): as its ladder has it, or as it was when that retired (R259). -/
def State.rungOf (s : State) (w : Workgroup) : Option Rung :=
  match w.rungOwn, w.rung with
  | some r, _ => some r
  | none, none => none
  | none, some (addr, k) => ((s.ladder? w.part addr).map (·.rungs)).bind fun r => r[k]?

/-- The control block of a workgroup: its launch's, or its rung's. -/
def State.rcbOfWg (s : State) (w : Workgroup) : Option Rcb :=
  match w.rung with
  | some _ => (s.rungOf w).map (·.rcb)
  | none => (s.launch? w.part w.launch).map (·.rcb)

/-- The effective fault domain of a workgroup (R213). -/
def State.domainOf (s : State) (w : Workgroup) : Nat :=
  match s.rungOf w with
  | some r => r.domain
  | none => ((s.launch? w.part w.launch).map (·.domain)).getD 0

/-- The effective priority of a workgroup's launch, or of its rung RCB (R213, R234). -/
def State.priorityOf (s : State) (w : Workgroup) : Nat :=
  match s.rungOf w with
  | some r => r.priority
  | none => ((s.launch? w.part w.launch).map (·.priority)).getD 0

/-- The partition whose enabled record names a spaceid (R272). -/
def State.partOfSpace (s : State) (space : Nat) : Option Nat :=
  firstBelow 16 fun n => (s.partition n).enabled && decide ((s.partition n).spaceid = space)

/-- The partition of a party: a group's own; a steward core's by its loaded spaceid (R272). -/
def State.partOf (s : State) (p : Party) : Option Nat :=
  match p.id with
  | .group part _ _ => some part
  | .steward _ => s.partOfSpace p.spaceid.toNat

/-! ## Time -/

/-- The `clk` that a core reads: the common count with the bounded skew of R30. -/
def State.clkOf (s : State) (core : Nat) : DWord :=
  dw (s.clk + Config.coreSkew core % 3 + Config.dieSkew (dieOfCore core) % 13)

/-! ## Memory as it stands, and the queue headers in it (R296) -/

/-- The states in which a copy's data is newer than the home's. -/
def DieCopy.isDirty (c : DieCopy) : Bool := decide (c.state = .modified) || decide (c.state = .owned)

/-- The byte that is valid below every core: a die's M or O copy has it, or else the home slice. -/
def State.homeByte (s : State) (pa : Nat) : Byte :=
  match s.dieCopies.find? fun c => decide (c.line = pa / 128) && c.isDirty with
  | some c => c.bytes.getD (pa % 128) 0
  | none => cellGet (w := 8) s.mem pa

def State.homeBytes (s : State) (pa n : Nat) : List Byte := (List.range n).map fun i => s.homeByte (pa + i)

/-- The kernel frame map (R276), and the kernel fault queue behind it (R296). -/
def State.mapBase (s : State) : Nat := bitsOf s.kfmap.toNat 47 16 * 65536

def State.kernelQueue (s : State) : Nat := s.mapBase + 0x180000

/-- Some field of a queue header. -/
def State.queueField (s : State) (addr off n : Nat) : Nat := le (s.homeBytes (addr + off) n)

def isPow2 (n : Nat) : Bool := decide (n ≠ 0) && decide (n &&& (n - 1) = 0)

/-- The capacity of a queue is one that R298 allows. -/
def State.queueSized (s : State) (a : Nat) : Bool :=
  let cap := s.queueField a 0 4
  isPow2 cap && decide (16 ≤ cap ∧ cap ≤ 65536)

/-! ## Taking a fault -/

/-- The group identity word (R287). A steward core's word holds the partition it has loaded and its `coreid`. -/
def State.identity (s : State) (p : Party) : DWord :=
  match p.id with
  | .group part wg idx => dw (part * 2 ^ 52 + wg * 2 ^ 20 + idx * 2 ^ 15 + p.core * 2 ^ 7)
  | .steward _ => dw ((s.partOf p).getD 0 * 2 ^ 52 + p.core * 2 ^ 7)

/-- A fault that stops its group's lane stream. -/
def FaultUnit.isLane : FaultUnit → Bool
  | .laneIssue | .laneLate _ | .header | .schedule => true
  | _ => false

/-- What a fault reports beside its class (R297). -/
structure FaultInfo where
  addr : DWord
  addr2 : DWord
  replayable : Bool
  unfinished : Word
  laneAddr : Option DWord
deriving DecidableEq, Repr

def FaultInfo.plain : FaultInfo where
  addr := 0
  addr2 := 0
  replayable := false
  unfinished := 0
  laneAddr := none

def FaultInfo.at_ (a : Nat) : FaultInfo := { FaultInfo.plain with addr := dw a }

/-- The flags of R297: bit 0 replayable, 1 event, 2 lane address valid, 3 steward core, 4 workgroup failed,
5 physical address, 6 retried. -/
def recFlags (replayable event lane steward failed physical retried : Bool) : BitVec 8 :=
  BitVec.ofNat 8 (replayable.toNat + 2 * event.toNat + 4 * lane.toNat + 8 * steward.toNat + 16 * failed.toNat
    + 32 * physical.toNat + 64 * retried.toNat)

/-- The record of a fault of a party (R297). -/
def State.record (s : State) (p : Party) (cls : FaultClass) (i : FaultInfo) (event : Bool) : FaultRec where
  cls := cls
  flags := recFlags i.replayable event i.laneAddr.isSome p.id.isSteward false false false
  domain := ((s.wgOf p.id).map s.domainOf).getD 0
  unfinished := i.unfinished
  identity := s.identity p
  pc := p.pc
  laneAddr := i.laneAddr.getD 0
  addr := i.addr
  addr2 := i.addr2
  clk := s.clkOf p.core

/-- Posts a record for delivery (R298): a group's to its partition's queue, a steward core's to the kernel queue. -/
def State.post (s : State) (queue : Option Nat) (die : Nat) (waits : Bool) (r : FaultRec) : State :=
  { s with records := s.records ++ [⟨s.fresh, queue, die, waits, 0, r⟩], fresh := s.fresh + 1 }

/-- An acquire that is no part of the instruction at which the scalar stream stands. -/
def Acquire.lasts (a : Acquire) : Bool :=
  match a.fin with
  | .atomic | .lane _ | .deadLane _ => true
  | _ => false

/-- What waits at the instruction at which a stream stops is let go: it executes again from its start (R21, R240). No run is ready
meanwhile (R222). -/
def Party.letGo (p : Party) : Party :=
  { p with waitsOn := none, half := none, readySince := none, acqs := p.acqs.filter Acquire.lasts }

/-- Parks a party: the context stops where it stands and keeps its state (R299); a run that stops with it leaves its lane (R12). -/
def Party.parkOn (p : Party) (cls : FaultClass) (unit : FaultUnit) (clk : Nat) : Party :=
  { p.letGo with
    status := .parked
    park := some ⟨cls, unit, clk, false⟩
    paused := p.paused || (p.run.isSome && unit.isLane) }

/-- A steward core that faults before firmware has written the kernel queue keeps its record in its own fault registers
(R310). -/
def Party.keepRecord (p : Party) (s : State) (cls : FaultClass) (i : FaultInfo) : Party :=
  if p.id.isSteward && !s.queueSized s.kernelQueue then
    { p with
      faultinfo := s.identity p ||| dw (cls.code * 2 ^ 56)
      faultaddr := i.addr
      faultaddr2 := i.addr2 }
  else p

/-- Parking with a record, whose flag bit 1 the caller gives. -/
def State.faultAs (s : State) (p : PartyId) (cls : FaultClass) (unit : FaultUnit) (i : FaultInfo) (event : Bool) : State :=
  let q := s.party p
  (s.updParty p fun x => (x.parkOn cls unit s.clk).keepRecord s cls i).post p.queue (dieOfCore q.core) true
    (s.record q cls i event)

/-- TAKING A FAULT (R171, R299): the party parks with no effect of the instruction and its record is posted. Every
precise fault, scalar or lane, goes through here. -/
def State.fault (s : State) (p : PartyId) (cls : FaultClass) (unit : FaultUnit) (i : FaultInfo) : State :=
  s.faultAs p cls unit i false

/-- A fault of the acting party's scalar instruction. -/
def State.trap (s : State) (cls : FaultClass) : State := s.fault s.actor cls .scalar FaultInfo.plain

/-- The same with the address it reports. -/
def State.trapAt (s : State) (cls : FaultClass) (a : Nat) : State :=
  s.fault s.actor cls .scalar (FaultInfo.at_ a)

/-- An event record: no context parks (R297 flag bit 1). `waits`: it reports a stopped copy or drain. -/
def State.event (s : State) (p : PartyId) (cls : FaultClass) (i : FaultInfo) (waits : Bool) : State :=
  let q := s.party p
  s.post p.queue (dieOfCore q.core) waits (s.record q cls i true)

/-- Ends a park: the context may issue again. -/
def Party.unpark (p : Party) : Party := { p with status := .running, park := none }

/-- The run being executed goes on: also while its group is parked for another unit than its lane stream, or for a DARN
(R284, R300). -/
def Party.runGoes (p : Party) : Bool :=
  p.run.isSome &&
    match p.status, p.park with
    | .running, _ => true
    | .darned, _ => true
    | .parked, some k => !k.unit.isLane
    | _, _ => false

/-! ## A patch in progress (R284) -/

/-- Bytes that the longest run takes: its header and 24 instructions of four words. -/
def runSpan : Nat := 12 + 24 * 16

/-- A group of the partition that the patch concerns: its scalar PC or a run of it lies in the target. -/
def Party.darned (q : Party) (part target length : Nat) : Bool :=
  (match q.id with
   | .group p _ _ => decide (p = part)
   | .steward _ => false) &&
    (meets q.pc.toNat 4 target length || (q.queue.any fun e => meets e.addr runSpan target length) ||
      (q.run.map fun r => meets r.addr runSpan target length).getD false)

/-- The patch in progress concerns the party: it does not go on before the patch ends (R284). -/
def State.patched (s : State) (q : Party) : Bool :=
  match s.darning with
  | some (_, part, target, length) => q.darned part target length
  | none => false

/-! ## Source and destination registers of a scalar instruction -/

/-- A register that waits for an atomic's or a switch's answer (01_machine.md, R197). -/
def Party.isPending (p : Party) (n : Nat) : Bool := p.pending.any fun q => decide (q.1 = n)

/-- An uncorrected error in a scalar register (R302). -/
def State.sregBad (s : State) (p : PartyId) (n : Nat) : Bool := decide (ErrSite.sreg p n ∈ s.errors)

/-- The interlock and the error check of every scalar instruction: while a named register waits for an answer the
stream stalls; a source with an uncorrected error raises class 0x10 (R89, R302); else the instruction goes on. -/
def State.scalar (s : State) (dests srcs : List (BitVec 6)) (k : State → State) : Out :=
  if (dests ++ srcs).any fun r => s.me.isPending r.toNat then .next s
  else if srcs.any fun r => s.sregBad s.actor r.toNat then .next (s.trap .storeError)
  else .next (k s)

end Sys2Proof.Machine
end

