-- ==== Sys2Proof/Machine/Barrier.lean ====
section
/-!
DEFINITION. Barrier objects (R224) and their events (R225), and the storages in which an object can lie.
-/

namespace Sys2Proof.Machine

/-- The fields of a barrier object (R224). -/
structure BarrierObj where
  phase : Nat
  waiting : Int
  expected : Nat
  remaining : Nat
  named : Bool
  latched : Bool
  owner : Nat
deriving DecidableEq, Repr

/-- Reads the 128-bit layout of R224. Reserved bits that a program has stored non-zero are ignored, and the next event writes them
back as zero: R5 refuses them in records and descriptors, and R225 names no such case of an object. DESIGN CHOICE (log entry 60);
unsafe. -/
def BarrierObj.ofBytes (bs : List Byte) : BarrierObj :=
  let v := le bs
  { phase := bitsOf v 127 120
    waiting := toSigned 24 (bitsOf v 119 96)
    expected := bitsOf v 95 80
    remaining := bitsOf v 79 64
    named := decide (bitsOf v 49 49 = 1)
    latched := decide (bitsOf v 48 48 = 1)
    owner := bitsOf v 31 0 }

/-- Writes it. -/
def BarrierObj.toBytes (b : BarrierObj) : List Byte :=
  toLe 16 (b.phase * 2 ^ 120 + ofSigned 24 b.waiting * 2 ^ 96 + b.expected * 2 ^ 80 + b.remaining * 2 ^ 64
    + b.named.toNat * 2 ^ 49 + b.latched.toNat * 2 ^ 48 + b.owner)

/-- The events of R225. -/
inductive BarrierEvent where
  | init (expected : Nat) (named : Bool) (owner : Nat)
  | arrive (c : Nat)
  | expect (n : Int)
  | land (bytes : Nat)
deriving DecidableEq, Repr

/-- The signed range of the byte count. -/
def inPending (x : Int) : Bool := decide (-8388608 ≤ x) && decide (x ≤ 8388607)

/-- Completion, after any event but BINIT. -/
def BarrierObj.settle (b : BarrierObj) : BarrierObj :=
  if b.remaining = 0 ∧ b.waiting = 0 then
    { b with phase := (b.phase + 1) % 256, remaining := b.expected, latched := false }
  else b

/-- An event on an object: the rows of R225, the first that matches applies. -/
def BarrierObj.apply (b : BarrierObj) : BarrierEvent → Except FaultClass BarrierObj
  | .init e n o => .ok ⟨0, 0, e, e, n, false, o⟩
  | .arrive c =>
    if b.named ∧ ¬ b.latched ∧ c = 0 then .error .barrierCount
    else if b.named ∧ ¬ b.latched then
      .ok ({ b with expected := c, remaining := c - 1, latched := true }).settle
    else if b.named ∧ c ≠ b.expected then .error .barrierCount
    else if b.remaining = 0 then .error .barrierCount
    else .ok ({ b with remaining := b.remaining - 1 }).settle
  | .expect n =>
    if inPending (b.waiting + n) then .ok ({ b with waiting := b.waiting + n }).settle else .error .barrierOverflow
  | .land k =>
    if inPending (b.waiting - k) then .ok ({ b with waiting := b.waiting - k }).settle else .error .barrierOverflow

/-! ## Storages -/

/-- Items noted in a list that holds each once. -/
def addAll (new l : List Nat) : List Nat := new.foldl (fun l x => addNew x l) l

/-- The 4 KiB blocks of core store that a range meets. -/
def blocksOf (off n : Nat) : List Nat := if n = 0 then [] else (List.range ((off + n - 1) / 4096 + 1 - off / 4096)).map (off / 4096 + ·)

/-- Writes core store: the clear bits of its blocks are reset (R27), and the errors of the bytes written go (R302). -/
def State.writeStore (s : State) (core off : Nat) (bs : List Byte) : State :=
  { s.updCore core fun c => { c with store := writeBytes c.store off bs, blocks := addAll (blocksOf off bs.length) c.blocks } with
    errors := s.errors.filter fun e =>
      match e with
      | .coreStore c o => !(decide (c = core) && decide (off ≤ o) && decide (o < off + bs.length))
      | _ => true }

def State.bank (s : State) (cluster bank : Nat) : Bank := s.banks.getD (cluster * 64 + bank) Bank.blank

def State.updBank (s : State) (cluster bank : Nat) (f : Bank → Bank) : State :=
  { s with banks := s.banks.modify (cluster * 64 + bank) f }

/-- Bytes at a place other than memory. -/
def State.readPlace (s : State) (n : Nat) : Place → List Byte
  | .store core off => readBytes (s.core core).store off n
  | .bank cl b off => readBytes (s.bank cl b).bytes off n
  | .image part wg off => ((s.wg? part wg).map fun w => readBytes w.image off n).getD (List.replicate n 0)
  | .mem pa => readBytes s.mem pa n

/-- Writes bytes at a place other than memory. -/
def State.writePlace (s : State) (bs : List Byte) : Place → State
  | .store core off => s.writeStore core off bs
  | .bank cl b off =>
    { s.updBank cl b fun x => { x with bytes := writeBytes x.bytes off bs } with
      errors := s.errors.filter fun e =>
        match e with
        | .bank c k o => !(decide (c = cl) && decide (k = b) && decide (off ≤ o) && decide (o < off + bs.length))
        | _ => true }
  | .image part wg off => s.updWg part wg fun w => { w with image := writeBytes w.image off bs }
  | .mem _ => s

def State.barrierAt (s : State) (pl : Place) : BarrierObj := BarrierObj.ofBytes (s.readPlace 16 pl)

/-- Every party that is blocked on an object observes the phase that an event leaves (R255). `counted`: the phases that have
counted bytes. -/
def State.noteBarrier (s : State) (pl : Place) (phase : Nat) (counted : List (Place × Nat)) : State :=
  { s with parties := s.parties.map fun q =>
      match q.waitsOn with
      | some w =>
        if w.place = pl ∧ w.seen = none ∧ w.phase ≠ phase then
          { q with waitsOn := some { w with seen := some (phase, decide ((pl, w.phase) ∈ counted)) } }
        else q
      | none => q }

/-- The byte-counted bit beside an object, kept with the phase that counted bytes (R254), and who waits on the object. An event
that completes a phase clears the bit of the phase it opens; BINIT clears them all, once its waiters have seen them. -/
def State.countBit (s : State) (pl : Place) (ev : BarrierEvent) (old new : BarrierObj) : State :=
  let l := match ev with
    | .land _ => addNew (pl, old.phase) s.counted
    | _ => s.counted
  let l1 := match ev with
    | .init _ _ _ => l.filter fun c => decide (c.1 ≠ pl)
    | _ => l
  { s.noteBarrier pl new.phase l with
    counted := if old.phase = new.phase then l1 else l1.filter fun c => decide (c ≠ (pl, new.phase)) }

/-- Applies an event at a storage other than memory: one indivisible step (R225). -/
def State.barrierEvent (s : State) (pl : Place) (ev : BarrierEvent) : Except FaultClass State :=
  let b := s.barrierAt pl
  match b.apply ev with
  | .error c => .error c
  | .ok b' => .ok ((s.writePlace b'.toBytes pl).countBit pl ev b b')

end Sys2Proof.Machine
end

