-- ==== Sys2Proof/Machine/Mem.lean ====
section
/-!
DEFINITION. The ordering machine of 06_ordering.md below the store queues: home slices and directories, die copies,
merge state, composed caches, drains, held writes, tack breaks. Everything that writes memory goes through
`State.homeNow`; everything that asks for a write at a home slice goes through `State.homeApply`.
-/

namespace Sys2Proof.Machine

/-! ## Homes -/

/-- The home slice of a line: die and slice p[11:7] (R314). -/
def homeSlice (line : Nat) : Nat × Nat := (homeDie (line * 128), line % 32)

/-- A line of memory that exists (R314): DRAM, the ROM or the start words. -/
def lineExists (line : Nat) : Bool :=
  decide (line * 128 + 128 ≤ Config.dramBytes) || within (line * 128) 128 Config.romBase Config.romBytes ||
    decide (line * 128 = Config.startWords)

/-- A region's line base address: word i of the 512 lines (R136), through its physical spans. -/
def spanAt : List Piece → Nat → Option Nat
  | [], _ => none
  | p :: r, off => if off < p.len then some (p.pa + off) else spanAt r (off - p.len)

/-- The region that holds a physical line, if it is marked (R138). -/
def State.regionOfLine (s : State) (line : Nat) : Option Region :=
  s.regions.find? fun r => r.spans.any fun p => meets (line * 128) 128 p.pa p.len

def State.marked (s : State) (line : Nat) : Bool := (s.regionOfLine line).isSome

def Tack.active (t : Tack) : Bool := decide (t.state = .live) || decide (t.state = .breaking)

/-- A line watched by a live or breaking tack (R163). -/
def State.watched (s : State) (line : Nat) : Bool :=
  s.tacks.any fun t => t.active && t.watch.any fun p => meets (line * 128) 128 p.pa p.len

/-- The home refuses dirty permission and E or M for such a line (R147, R155, R136). -/
def State.refusesDirty (s : State) (line : Nat) : Bool := s.watched line || s.marked line

/-! ## Waking (R288) -/

def State.wakeLine (s : State) (line : Nat) : State :=
  { s with parties := s.parties.map fun p =>
      match p.status with
      | .halted l t _ => if l = line then { p with status := .halted l t true } else p
      | _ => p }

/-- A posted record or port completion wakes a halted steward core. -/
def State.wakeSteward (s : State) (n : Nat) : State :=
  s.updParty (.steward n) fun p =>
    match p.status with
    | .halted l t _ => { p with status := .halted l t true }
    | _ => p

/-! ## Writing at a home slice -/

/-- The steward core that issued an operation of a port is woken. -/
def State.wakeIssuer (s : State) : PartyId → State
  | .steward n => s.wakeSteward n
  | .group _ _ _ => s

/-- Memory bytes written at the home slice: wakes who halts on the line and clears the errors written over. -/
def State.writeMem (s : State) (cells : List Host.Cell) : State :=
  match cells with
  | [] => s
  | (a, _) :: _ =>
    { s.wakeLine (a / 128) with
      mem := cells.foldl (fun m c => cellSet m c.1 c.2) s.mem
      errors := s.errors.filter fun e =>
        match e with
        | .mem pa => !(cells.any fun c => decide (c.1 = pa))
        | _ => true }

/-- Overwrites bytes of a list from a position on. -/
def setBytes (l : List Byte) (off : Nat) : List Byte → List Byte
  | [] => l
  | b :: r => setBytes (l.set off b) (off + 1) r

/-- Pairs an address with bytes. -/
def cellsFrom (a : Nat) (bs : List Byte) : List Host.Cell := bs.mapIdx fun i b => (a + i, b)

/-! ## Die copies and the snoop filter (R155, R314, R315) -/

def State.dieCopy? (s : State) (die line : Nat) : Option DieCopy :=
  s.dieCopies.find? fun c => decide (c.die = die ∧ c.line = line)

/-- The other dies that hold a line. -/
def State.holders (s : State) (line : Nat) : List DieCopy := s.dieCopies.filter fun c => decide (c.line = line)

/-- Drops the L1 and composed-cache clean copies of a line on a die (R315). -/
def State.dropClean (s : State) (die line : Nat) : State :=
  { s with
    cores := s.cores.mapIdx fun i c =>
      if dieOfCore i = die then { c with clean := c.clean.filter fun l => decide (l.line ≠ line) } else c
    caches := s.caches.map fun c =>
      if c.id.cluster / 8 = die then
        { c with clean := c.clean.filter fun l => !meets (l.line * c.lineBytes) c.lineBytes (line * 128) 128 }
      else c }

/-- A line is dropped from the filter when the last other die has given its copy up. -/
def State.trimFilter (s : State) (line : Nat) : State :=
  if (s.holders line).isEmpty then { s with filter := s.filter.filter fun f => decide (f.line ≠ line) } else s

/-- The partition whose core it is. -/
def State.partOfCore (s : State) (core : Nat) : Option Nat :=
  firstBelow 16 fun n => (s.partition n).enabled && (s.partition n).cores.getLsbD core

/-- A byte of a die's copy holds an uncorrected error. -/
def State.copyBad (s : State) (c : DieCopy) : Bool :=
  s.errors.any fun e =>
    match e with
    | .dieCopy d pa => decide (d = c.die ∧ pa / 128 = c.line)
    | _ => false

/-- A die's M or O data goes to the home, unless it holds an uncorrected error. -/
def State.writeBack (s : State) (c : DieCopy) : State :=
  if c.isDirty && !s.copyBad c then s.writeMem (cellsFrom (c.line * 128) c.bytes) else s

/-- The first byte of a die's copy that holds an error. -/
def State.firstBad (s : State) (c : DieCopy) : Nat :=
  ((List.range 128).find? fun i => decide (ErrSite.dieCopy c.die (c.line * 128 + i) ∈ s.errors)).getD 0 + c.line * 128

/-- Dirty data with an uncorrected error is not written back: memory keeps its bytes, and the partition whose core wrote
the line last receives an event record with the physical address (R302). -/
def State.reportCopy (s : State) (c : DieCopy) : State :=
  let s1 : State := { s with errors := s.errors.filter fun e =>
    match e with
    | .dieCopy d pa => !(decide (d = c.die) && decide (pa / 128 = c.line))
    | _ => true }
  if c.isDirty then
    let part := (s.lastWriters.find? fun w => decide (w.line = c.line)).bind fun w => s.partOfCore w.core
    s1.post part c.die false
      { cls := .memoryError, flags := recFlags false true false false false true false, domain := 0, unfinished := 0,
        identity := dw (part.getD 0 * 2 ^ 52), pc := 0, laneAddr := 0, addr := dw (s.firstBad c), addr2 := 0,
        clk := s.clkOf (32 * c.die) }
  else s1

/-- A copy goes with no data sent: its error, if it has one, is reported. -/
def State.giveUp (s : State) (c : DieCopy) : State :=
  let s1 := if s.copyBad c then s.reportCopy c else s
  { s1 with dieCopies := s1.dieCopies.filter fun d => !(decide (d.die = c.die) && decide (d.line = c.line)) }

/-- A die gives a copy up: M and O data is applied at the home first. -/
def State.dropCopy (s : State) (die line : Nat) : State :=
  match s.dieCopy? die line with
  | none => s
  | some c => ((s.writeBack c).giveUp c).trimFilter line

/-- Invalidations to every copy but one, each acknowledged (R155, R315). -/
def State.invalidate (s : State) (line : Nat) (keep : Option Nat) : State :=
  (s.holders line).foldl
    (fun s c => if keep = some c.die then s else (s.dropCopy c.die line).dropClean c.die line) s

/-- The filter's set of a line: home die, slice and set (R314). Lines that agree in bits [21:7] compete. -/
def filterSet (line : Nat) : Nat × Nat := (homeDie (line * 128), line % 2 ^ 15)

/-- The least recently used of filter entries. -/
def oldestEntry (fs : List FilterEntry) : Option FilterEntry :=
  fs.foldl (fun b f =>
    match b with
    | none => some f
    | some g => if f.used < g.used then some f else some g) none

/-- A directory request uses the line's filter entry, allocating one; a full set back-invalidates its least recently
used entry (R314). -/
def State.useFilter (s : State) (line : Nat) : State :=
  let same := s.filter.filter fun f => decide (f.line ≠ line) && decide (filterSet f.line = filterSet line)
  let s1 : State :=
    if s.filter.any (fun f => decide (f.line = line)) || decide (same.length < 8) then s
    else
      match oldestEntry same with
      | none => s
      | some v => s.invalidate v.line none
  { s1 with
    filter := (s1.filter.filter fun f => decide (f.line ≠ line)) ++ [⟨line, s1.fresh⟩]
    fresh := s1.fresh + 1 }

/-- The lines of another device that a slice of a die's L2 has room for: it holds 32768 lines (R35), of which the snoop filters of the
same slice of the three other dies allow 3 times 8192 to copies of their lines (R314), less the lines homed there that
accumulator regions pin (R136; log entry 61). -/
def State.remoteRoom (s : State) (die slice : Nat) : Nat :=
  8192 - ((s.regions.flatMap (·.spans)).flatMap fun p => (linesOf p.pa p.len).filter fun l => decide (homeSlice l = (die, slice))).length

/-- The newest copies of lines of other devices that have room. -/
def State.fitRemote (s : State) : State :=
  { s with remoteCopies := s.remoteCopies.foldr (fun c l =>
      if (l.filter fun x => decide (x.die = c.die ∧ x.line % 32 = c.line % 32)).length < s.remoteRoom c.die (c.line % 32) then c :: l
      else l) [] }

/-- M and O data comes back to the home, and its holder keeps S (R155, R317). A dirty line with an error is not written back: it is
reported and dropped, and the home keeps its bytes (R302). -/
def State.recall (s : State) (line : Nat) : State :=
  let s1 := ((s.holders line).filter DieCopy.isDirty).foldl
    (fun s c => if s.copyBad c then (s.giveUp c).trimFilter line else s.writeBack c) s
  { s1 with dieCopies := s1.dieCopies.map fun c => if c.line = line ∧ c.isDirty = true then { c with state := .shared } else c }

/-- The same, and a holder in E keeps S too: another holder is to come, or a watch (R155, R163). -/
def State.recallAll (s : State) (line : Nat) : State :=
  let s1 := s.recall line
  { s1 with dieCopies := s1.dieCopies.map fun c =>
      if c.line = line ∧ c.state = .exclusive then { c with state := .shared } else c }

/-- The only valid copy of a line is a die's, and holds an error. -/
def State.badDirty (s : State) (line : Nat) : Bool := (s.holders line).any fun c => c.isDirty && s.copyBad c

/-- A device holds an S copy of the line (R156). -/
def State.shared (s : State) (line : Nat) : Bool := s.sharers.any fun x => decide (x.1 = line)

/-- A holder in M or O forwards its data and keeps O; the home does not take it. -/
def State.forwardFrom (s : State) (line : Nat) : State :=
  { s with dieCopies := s.dieCopies.map fun d =>
      if d.line = line then { d with state := if d.isDirty then .owned else .shared } else d }

/-- DIE_READ_REQUEST: the directory grants S, or E when no other die or device holds the line and it may (R155, R156).
`forward`: a holder in M or O keeps O and the home does not take the data. -/
def State.dieRead (s : State) (die line : Nat) (forward : Bool) : State :=
  match s.dieCopy? die line with
  | some _ => s
  | none =>
    let s0 := (if s.badDirty line then s.recall line else s).useFilter line
    let (s1, bytes) : State × List Byte :=
      match (s0.holders line).find? DieCopy.isDirty with
      | some c => (if forward then s0.forwardFrom line else s0.recallAll line, c.bytes)
      | none => (s0.recallAll line, readBytes s0.mem (line * 128) 128)
    let st : Moesi := if (s1.holders line).isEmpty && !s1.refusesDirty line && !s1.shared line then .exclusive else .shared
    { s1 with dieCopies := s1.dieCopies ++ [⟨die, line, st, bytes⟩] }

/-- The directory grants M after every other copy is invalidated, with the dirty data forwarded from any holder in M or
O; the home's bytes stay as they were (R155, R316). -/
def State.dieOwn (s : State) (die line : Nat) : State :=
  let bytes :=
    match (s.holders line).find? fun c => c.isDirty && (!s.copyBad c || decide (c.die = die)) with
    | some c => c.bytes
    | none => ((s.dieCopy? die line).map (·.bytes)).getD (readBytes s.mem (line * 128) 128)
  let s1 := (s.holders line).foldl (fun s c => if c.die = die then s else (s.giveUp c).dropClean c.die line) s
  ({ s1 with dieCopies :=
      (s1.dieCopies.filter fun c => !(decide (c.die = die) && decide (c.line = line))) ++
        [⟨die, line, .modified, bytes⟩] } : State).useFilter line

/-- A die holds a line in M. -/
def State.holdsM (s : State) (die line : Nat) : Bool := ((s.dieCopy? die line).map fun c => decide (c.state = .modified)).getD false

/-- A die may write its copy with no request: it holds the line in M or E. -/
def State.ownsLine (s : State) (die line : Nat) : Bool :=
  s.holdsM die line || ((s.dieCopy? die line).map fun c => decide (c.state = .exclusive)).getD false

/-- Writes bytes of a line into a die's copy, which becomes M: the write is performed there (R149), and clears the errors written
over. It is no write at the home slice, so it wakes nobody (R288). -/
def State.writeCopy (s : State) (die line : Nat) (cells : List Host.Cell) : State :=
  { s with
    dieCopies := s.dieCopies.map fun c =>
      if c.die = die ∧ c.line = line then
        { c with
          state := .modified
          bytes := cells.foldl (fun b x => b.set (x.1 - line * 128) x.2) c.bytes }
      else c
    errors := s.errors.filter fun e =>
      match e with
      | .dieCopy d pa => !(decide (d = die) && cells.any fun c => decide (c.1 = pa))
      | _ => true }

/-! ## Reading -/

/-- The valid copy of a byte below every core holds an uncorrected error: a die's M or O copy, or else memory (R302). -/
def State.homeBad (s : State) (pa : Nat) : Bool :=
  match (s.holders (pa / 128)).find? DieCopy.isDirty with
  | some c => decide (ErrSite.dieCopy c.die pa ∈ s.errors)
  | none => decide (ErrSite.mem pa ∈ s.errors)

/-- The bytes of a piece at the home slice, with every other die's dirty data taken first (R317). Bytes with an error are not
taken: the reader meets it. -/
def State.homeRead (s : State) (pa n : Nat) : State × List Byte :=
  if (List.range n).any fun i => s.homeBad (pa + i) then (s, readBytes s.mem pa n)
  else
    let s1 := s.recall (pa / 128)
    (s1, readBytes s1.mem pa n)

/-- The bytes of a piece of one line at a die's L2: the home slice, or the die's coherent copy (R146, R155). A line of
an accumulator region is read at its home slice (R138). -/
def State.l2Read (s : State) (die pa n : Nat) : State × List Byte :=
  let line := pa / 128
  if homeDie pa = die ∨ s.marked line then s.homeRead pa n
  else
    match s.dieCopy? die line with
    | some c => (s, (c.bytes.drop (pa - line * 128)).take n)
    | none =>
      if (List.range n).any fun i => s.homeBad (pa + i) then s.homeRead pa n
      else
        let s1 := s.dieRead die line false
        match s1.dieCopy? die line with
        | some c => (s1, (c.bytes.drop (pa - line * 128)).take n)
        | none => s1.homeRead pa n

/-- The composed cache of a core for a page that names `cc`: none for 0, and none for a steward core, which is in no
cluster (R278). -/
def cacheIdOf (part : Option Nat) (core cc : Nat) : Option CacheId :=
  match part with
  | none => none
  | some p => if cc = 0 ∨ 128 ≤ core then none else some ⟨p, clusterOfCore core, cc⟩

def State.cache? (s : State) (id : CacheId) : Option ComposedCache := s.caches.find? fun c => decide (c.id = id)

def State.updCache (s : State) (id : CacheId) (f : ComposedCache → ComposedCache) : State :=
  { s with caches := updAll (fun c => decide (c.id = id)) f s.caches }

/-- The floor of a core for a composed cache (R144). -/
def Core.floor (c : Core) (id : CacheId) : Nat := lookupD id 0 c.floors

/-- Reads bytes line by line at an L2. -/
def State.l2Lines (s : State) (die : Nat) : List (Nat × Nat) → State × List Byte
  | [] => (s, [])
  | (a, n) :: r =>
    let (s1, b) := s.l2Read die a n
    let (s2, bs) := s1.l2Lines die r
    (s2, b ++ bs)

/-- Fills a composed cache's line from L2 (R154). -/
def State.fillCache (s : State) (id : CacheId) (die pa : Nat) : State :=
  match s.cache? id with
  | none => s
  | some c =>
    let l := pa / c.lineBytes
    let (s1, bytes) := s.l2Lines die (cutAt 128 3 (l * c.lineBytes) c.lineBytes)
    s1.updCache id fun c =>
      { c with
        fills := c.fills + 1
        clean := (c.clean.filter fun x => decide (x.line ≠ l)) ++ [⟨l, c.fills, bytes⟩] }

/-- The bytes of a piece in a composed cache: its clean copy if the stamp is at or above the core's floor. -/
def ComposedCache.hit (c : ComposedCache) (floor pa n : Nat) : Option (List Byte) :=
  ((c.clean.find? fun x => decide (x.line = pa / c.lineBytes) && decide (floor ≤ x.stamp)).map fun x =>
    (x.bytes.drop (pa % c.lineBytes)).take n)

/-- Lays dirty bytes of a composed cache over bytes read: dirty bytes always hit (R154). -/
def ComposedCache.overlay (c : ComposedCache) (pa : Nat) (bs : List Byte) : List Byte :=
  bs.mapIdx fun i b => ((c.dirty.find? fun d => decide (d.pa = pa + i)).map (·.val)).getD b

/-- Lays a core's L1 dirty bytes over bytes read. -/
def Core.overlay (c : Core) (pa : Nat) (bs : List Byte) : List Byte :=
  bs.mapIdx fun i b => ((c.dirty.find? fun d => decide (d.pa = pa + i)).map (·.val)).getD b

/-- A core's own dirty byte in a composed cache (R146, R154). -/
def State.cacheDirty (s : State) (core pa : Nat) : Option Byte :=
  s.caches.findSome? fun c => (c.dirty.find? fun d => decide (d.core = core ∧ d.pa = pa)).map (·.val)

/-- Lays a core's own dirty bytes over bytes read: those of composed caches, and over them the L1's. -/
def State.ownOverlay (s : State) (core pa : Nat) (bs : List Byte) : List Byte :=
  (s.core core).overlay pa (bs.mapIdx fun i b => (s.cacheDirty core (pa + i)).getD b)

/-- An access of a lane operation precedes a scalar instruction when the scalar stream has waited for its run; a
scalar access always does (R145). -/
def Party.behind (q : Party) : Option Nat → Bool
  | none => true
  | some i => q.ops.any fun o => decide (o.id = i) && o.synced

/-- The number that was next when the run of an operation was queued: scalar accesses with a lower one precede it. -/
def Party.queuedAt (q : Party) (op : Nat) : Nat := ((q.ops.find? fun o => decide (o.id = op)).map (·.queuedAt)).getD 0

/-- A store-queue entry that stands in program order before a load (R145): of a scalar load, or of one of lane operation
`op`. The other accesses of the two streams are unordered. -/
def Party.storesBefore (q : Party) (op : Option Nat) (e : SqEntry) : Bool :=
  match op with
  | none => q.behind e.op
  | some o => if e.op.isSome then decide (e.id < o) else decide (e.id < q.queuedAt o)

/-- The byte that the youngest earlier store-queue entry of the group holds for an address (R146, R148). -/
def Party.sqByte (q : Party) (op : Option Nat) (pa : Nat) : Option Byte :=
  q.sq.foldl (fun r e =>
    if q.storesBefore op e then
      match e.body with
      | .store p bs => if p.pa ≤ pa ∧ pa < p.pa + p.len then bs[pa - p.pa]? else r
      | _ => r
    else r) none

/-- The level below the core's own bytes (R146). A marked accumulator line is read at its home slice (R138). -/
def State.loadBase (s : State) (core : Nat) (part : Option Nat) (scope : Scope) (acq : Bool) (p : Piece) :
    State × List Byte :=
  let die := dieOfCore core
  let cid := (cacheIdOf part core p.cc).bind fun i => (s.cache? i).map fun c => (i, c)
  if s.marked (p.pa / 128) then s.homeRead p.pa p.len
  else
  match scope with
  | .group | .core =>
    (match (s.core core).clean.find? fun l => decide (l.line = p.pa / 128) with
     | some l => (s, (l.bytes.drop (p.pa % 128)).take p.len)
     | none =>
       match cid with
       | some (i, c) =>
         (match c.hit ((s.core core).floor i) p.pa p.len with
          | some b => (s, c.overlay p.pa b)
          | none =>
            let (s1, b) := s.l2Read die p.pa p.len
            (s1, c.overlay p.pa b))
       | none => s.l2Read die p.pa p.len)
  | .cluster =>
    (match cid with
     | some (i, c) =>
       (match c.hit ((s.core core).floor i) p.pa p.len with
        | some b => (s, c.overlay p.pa b)
        | none =>
          let s1 := s.fillCache i die p.pa
          let (s2, b) := s1.l2Read die p.pa p.len
          (s2, c.overlay p.pa b))
     | none => s.l2Read die p.pa p.len)
  | .device => if acq then s.homeRead p.pa p.len else s.l2Read die p.pa p.len
  | .fabric | .pdevice => s.homeRead p.pa p.len

/-! ## Errors in what is read (R302) -/

/-- An uncorrected error at a byte's home: a marked line counts as a whole (R138). -/
def State.lineBad (s : State) (pa : Nat) : Bool :=
  if s.marked (pa / 128) then (List.range 128).any fun i => s.homeBad (pa / 128 * 128 + i) else s.homeBad pa

/-- The core holds the byte dirty at some level. -/
def State.ownDirty (s : State) (core pa : Nat) : Bool :=
  ((s.core core).dirty.any fun d => decide (d.pa = pa)) || (s.cacheDirty core pa).isSome

/-- An uncorrected error in a byte that an access at its home slice takes: in the core's own dirty byte, which drains first, or
at the home. -/
def State.byteBad (s : State) (core pa : Nat) : Bool :=
  if s.ownDirty core pa then decide (ErrSite.dirty core pa ∈ s.errors) else s.lineBad pa

/-- An error in the byte at a die's L2: in the copy that the die holds in M or O, or at the home; an S or E copy holds none. -/
def State.l2Bad (s : State) (die pa : Nat) : Bool :=
  if homeDie pa = die then s.homeBad pa
  else
    match s.dieCopy? die (pa / 128) with
    | some c => c.isDirty && decide (ErrSite.dieCopy die pa ∈ s.errors)
    | none => s.homeBad pa

/-- An error in the byte in a composed cache, or below it where neither a clean copy nor a dirty byte hits. -/
def State.cacheBad (s : State) (core : Nat) (i : CacheId) (c : ComposedCache) (pa : Nat) : Bool :=
  match c.dirty.find? fun d => decide (d.pa = pa) with
  | some d => decide (ErrSite.dirty d.core pa ∈ s.errors)
  | none => (c.hit ((s.core core).floor i) pa 1).isNone && s.l2Bad (dieOfCore core) pa

/-- An uncorrected error in a byte that a load takes: in the core's own dirty byte, or in the copy that its scope reads, as
`State.loadBase` finds it. -/
def State.loadBad (s : State) (core : Nat) (part : Option Nat) (scope : Scope) (acq : Bool) (cc pa : Nat) : Bool :=
  let cid := (cacheIdOf part core cc).bind fun i => (s.cache? i).map fun c => (i, c)
  let below := match cid with
    | some (i, c) => s.cacheBad core i c pa
    | none => s.l2Bad (dieOfCore core) pa
  if s.ownDirty core pa then decide (ErrSite.dirty core pa ∈ s.errors)
  else if s.marked (pa / 128) then s.lineBad pa
  else
    match scope with
    | .group | .core => !((s.core core).clean.any fun l => decide (l.line = pa / 128)) && below
    | .cluster => below
    | .device => if acq then s.homeBad pa else s.l2Bad (dieOfCore core) pa
    | .fabric | .pdevice => s.homeBad pa

/-- A load of a piece is served on its core's die, above its home slice, as `State.loadBase` finds it. -/
def State.servedNear (s : State) (core : Nat) (part : Option Nat) (scope : Scope) (acq : Bool) (p : Piece) : Bool :=
  let copy := (s.dieCopy? (dieOfCore core) (p.pa / 128)).isSome
  let hit := match (cacheIdOf part core p.cc).bind fun i => (s.cache? i).map fun c => (i, c) with
    | some (i, c) => (c.hit ((s.core core).floor i) p.pa p.len).isSome
    | none => false
  !s.marked (p.pa / 128) &&
    match scope with
    | .group | .core => ((s.core core).clean.any fun l => decide (l.line = p.pa / 128)) || hit || copy
    | .cluster => hit || copy
    | .device => !acq && copy
    | _ => false

/-- A load of a piece is not accepted: its core's die is held back, or the home slice that it reads (R326, R327). -/
def State.loadHolds (s : State) (core : Nat) (part : Option Nat) (scope : Scope) (acq : Bool) (p : Piece) : Bool :=
  s.holds .sram core || (!s.servedNear core part scope acq p && s.homeHolds (dieOfCore core) p.pa)

/-- A load of one piece: the group's own earlier stores in the queue first, then the core's dirty bytes, then the level
of its scope (R146). `op`: the lane operation that loads. The last component says whether a byte holds an uncorrected
error. -/
def State.loadPiece (s : State) (q : Party) (part : Option Nat) (scope : Scope) (acq : Bool) (op : Option Nat) (p : Piece) :
    State × List Byte × Bool :=
  let (s1, b) := s.loadBase q.core part scope acq p
  let b := (s1.ownOverlay q.core p.pa b).mapIdx fun i x => (q.sqByte op (p.pa + i)).getD x
  let bad := (List.range p.len).any fun i => (q.sqByte op (p.pa + i)).isNone && s.loadBad q.core part scope acq p.cc (p.pa + i)
  (s1, b, bad)

/-- The piece that an access performs next when it has read `n` bytes: each piece is performed on its own (R172). -/
def nextPiece : List Piece → Nat → Option Piece
  | [], _ => none
  | p :: r, n => if n < p.len then some p else nextPiece r (n - p.len)

/-- A load of the pieces of an access, one after the other (R172). -/
def State.loadPieces (s : State) (q : Party) (part : Option Nat) (scope : Scope) (acq : Bool) (op : Option Nat) :
    List Piece → State × List Byte × Bool
  | [] => (s, [], false)
  | p :: r =>
    let (s1, b, e) := s.loadPiece q part scope acq op p
    let (s2, bs, e') := s1.loadPieces q part scope acq op r
    (s2, b ++ bs, e || e')

/-! ## Acquires (R152) -/

/-- The steps of an acquire once its drains are confirmed: L1 clean lines dropped from CLUSTER up, the core's epoch
floors raised from DEVICE up. -/
def State.acquireNow (s : State) (core : Nat) (scope : Scope) : State :=
  match scope with
  | .group | .core => s
  | .cluster => s.updCore core fun c => { c with clean := [] }
  | .device | .pdevice | .fabric =>
    let fl := (s.caches.filter fun c => decide (core < 128 ∧ c.id.cluster = clusterOfCore core)).map fun c => (c.id, c.fills)
    s.updCore core fun c => { c with clean := [], floors := fl ++ c.floors.filter fun f => !(fl.any fun g => decide (g.1 = f.1)) }

/-- Whether a scope acquires by commanded drains. -/
def Scope.commands : Scope → Bool
  | .device | .pdevice | .fabric => true
  | _ => false

/-- The drains an acquire of a line commands (R152): the lazy records of other cores; at PDEVICE also the dirty holders
and the last writer. -/
def State.drainsFor (s : State) (p : PartyId) (core : Nat) (scope : Scope) (line : Nat) : List DrainCmd :=
  if scope.commands then
    let lz := (s.lazy.filter fun r => decide (r.line = line ∧ r.core ≠ core)).map fun r => ⟨r.core, line, some r.seq, p, false⟩
    let pd : List DrainCmd :=
      if scope = .pdevice then
        ((s.dirtyHolders.filter fun h => decide (h.1 = line)).map fun h => ⟨h.2, line, none, p, false⟩) ++
          ((s.lastWriters.filter fun w => decide (w.line = line ∧ w.core ≠ core)).map fun w =>
            ⟨w.core, line, some w.stamp, p, false⟩)
      else []
    lz ++ pd
  else []

/-! ## Lane operations and flags (R19) -/

/-- A lane operation has completed for every thread: nothing of it is left. -/
def Party.opDone (q : Party) (o : LaneOp) : Bool :=
  decide (o.unfinished = 0) && !o.acquire && !(q.loads.any fun l => decide (l.op = o.id)) &&
    !(q.sq.any fun e => decide (e.op = some o.id))

/-- Drops the operations that have completed: their flag counts drop by one (R19). -/
def Party.settleOps (q : Party) : Party := { q with ops := q.ops.filter fun o => !q.opDone o }

/-! ## Completing a store-queue entry (R148) -/

def SqBody.isAtomic : SqBody → Bool
  | .atomic _ _ _ _ _ => true
  | _ => false

/-- The old word of an atomic, as its destination takes it (R175, R205). -/
def Party.takeOld (q : Party) (e : SqEntry) (dest : AtomDest) (wide : Bool) (old : Nat) : Party :=
  match dest with
  | .none => q
  | .sreg n w =>
    { q.setSreg n (if w then dw old else (BitVec.ofNat 32 old).signExtend 64) with
      pending := q.pending.filter fun x => decide (x ≠ (n, e.id)) }
  | .vreg t n _ =>
    let q1 := q.setVreg n t (wd old)
    if wide then q1.setVreg (n + 1) t (wd (old / 2 ^ 32)) else q1

/-- Adds a lazy-release record; a fifth core's release first has the oldest recorded core drain, which the caller has
done (R151). -/
def addLazy (l : List LazyRec) (r : LazyRec) : List LazyRec :=
  (l.filter fun x => !(decide (x.line = r.line) && decide (x.core = r.core))) ++ [r]

/-! ## Home operations -/

/-- The event of R225 that a steward core's instruction or the shuttle asks for at a home slice. -/
def barrierEventOf (kind : Nat) (operand : DWord) (owner : Nat) : BarrierEvent :=
  match kind with
  | 0 => .init (operand.toNat % 65536) (decide (operand.toNat / 65536 % 2 = 1)) owner
  | 1 => .arrive (operand.toNat % 65536)
  | _ => .expect operand.toInt

/-- The bytes that an operation would leave, as (address, byte) pairs of one line, and what it returns: an atomic's old
word, a barrier's old phase; a refused barrier event leaves its bytes. -/
def State.homeEffect (s : State) (op : HomeOp) : List Host.Cell × Nat × Option FaultClass :=
  match op with
  | .write cells => (cells, 0, none)
  | .atomic pa fn wide x c =>
    let n := atomSize wide
    let old := le (readBytes s.mem pa n)
    (cellsFrom pa (toLe n (atomNew fn (8 * n) old (atomArg fn (8 * n) x.toNat) (c.toNat % 2 ^ (8 * n)))), old, none)
  | .barrier pa kind operand owner =>
    let b := BarrierObj.ofBytes (readBytes s.mem pa 16)
    (match b.apply (barrierEventOf kind operand owner) with
     | .ok b' => (cellsFrom pa b'.toBytes, b.phase, none)
     | .error c => ([], b.phase, some c))

/-- The line of an operation. -/
def HomeOp.line : HomeOp → Nat
  | .write cells => ((cells.head?.map (·.1)).getD 0) / 128
  | .atomic pa _ _ _ _ => pa / 128
  | .barrier pa _ _ _ => pa / 128

/-- The bytes that an operation names. -/
def HomeOp.touches (op : HomeOp) (a : Nat) : Bool :=
  match op with
  | .write cells => cells.any fun c => decide (c.1 = a)
  | .atomic pa _ wide _ _ => decide (pa ≤ a ∧ a < pa + atomSize wide)
  | .barrier pa _ _ _ => decide (pa ≤ a ∧ a < pa + 16)

/-- The copy of a number. -/
def State.copy? (s : State) (id : Nat) : Option Copy := s.copies.find? fun c => decide (c.id = id)

/-- The launch or rung of the group that a write comes from (R187, OWN; R232). -/
def State.launchOfSource (s : State) : WriteSource → Option WorkKey
  | .entry p _ => (s.wgOf p).map Workgroup.key
  | .copy id _ => (s.copy? id).bind fun c => if c.steward then none else (s.wg? c.part c.wg).map Workgroup.key
  | .accd _ _ part wg => (s.wg? part wg).map Workgroup.key
  | .accdMax _ _ part wg _ => (s.wg? part wg).map Workgroup.key
  | _ => none

/-- The core beyond which a write is performed, whose own dirty bytes of the same bytes drain first (R146, R160, R318). -/
def State.coreOfSource (s : State) : WriteSource → Option Nat
  | .entry p _ => some (s.party p).core
  | .copy id _ => (s.copy? id).map (·.core)
  | .accd core _ _ _ => some core
  | .accdMax core _ _ _ _ => some core
  | .barrier p => some (s.party p).core
  | .service p => some (s.party p).core
  | _ => none

/-- The value of a watched word after an operation. -/
def overlayCells (old : List Byte) (a : Nat) (cells : List Host.Cell) : List Byte :=
  old.mapIdx fun i b => ((cells.find? fun c => decide (c.1 = a + i)).map (·.2)).getD b

/-- Whether a write breaks a tack (R164, R187). -/
def State.breaks (s : State) (op : HomeOp) (src : WriteSource) (t : Tack) : Bool :=
  let cells := (s.homeEffect op).1
  t.active && (t.watch.any fun p => cells.any fun c => decide (p.pa ≤ c.1 ∧ c.1 < p.pa + p.len)) &&
    match t.kind with
    | .ro => true
    | .own =>
      (match t.launch, s.launchOfSource src with
       | some l, some k => decide (k ≠ l)
       | _, _ => true)
    | .val =>
      (match t.watch with
       | p :: _ =>
         let old := readBytes s.mem p.pa p.len
         decide (overlayCells old p.pa cells ≠ old)
       | [] => false)
    | .topo => false

/-- The first port that is up, with its first link that is up. -/
def State.route (s : State) : Option (Nat × Nat) :=
  (firstBelow 16 fun p => (s.fabric.getD p FabricPort.blank).up).bind fun p =>
    (firstBelow 4 fun k => ((s.fabric.getD p FabricPort.blank).links.getD k Link.blank).up).map fun k => (p, k)

/-- Puts a packet into a link's retry buffer under the next link sequence number (R307). The spec gives no split of a
packet into flits: an entry stands for all of its flits. -/
def Link.put (l : Link) (k : Packet) : Link := { l with nextSeq := l.nextSeq + 1, retry := l.retry ++ [⟨l.nextSeq, k⟩] }

def State.updLink (s : State) (port link : Nat) (f : Link → Link) : State :=
  { s with fabric := s.fabric.modify port fun p => { p with links := p.links.modify link f } }

/-- A packet leaves over a port that is up. With none it waits to be sent again (R308). -/
def State.emit (s : State) (device seq : Nat) (body : PacketBody) : State :=
  match s.route with
  | none => s
  | some (p, k) => { s.updLink p k fun l => l.put ⟨device, seq, body⟩ with outbox := s.outbox ++ [⟨device, seq, body⟩] }

/-- Sends a packet with the next end-to-end sequence number of its pair; it is kept until it is acknowledged (R308). -/
def State.send (s : State) (device : Nat) (body : PacketBody) : State :=
  let seq := lookupD device 0 s.nextSeqs
  let s1 : State :=
    { s with
      nextSeqs := assocSet device (seq + 1) s.nextSeqs
      sent := s.sent ++ [⟨device, seq, body, s.clk, s.clk⟩] }
  s1.emit device seq body

/-- The number that the next packet to a device takes. -/
def State.nextSeq (s : State) (device : Nat) : Nat := lookupD device 0 s.nextSeqs

/-- Sends this module's invalidations to the devices that share a line, once each (R156). -/
def State.askSharers (s : State) (line : Nat) : State :=
  (s.sharers.filter fun x => decide (x.1 = line)).foldl (fun s x =>
    if s.sent.any fun p => decide (p.device = x.2) && decide (p.body = .invalidate x.2 line) then s
    else s.send x.2 (.invalidate x.2 line)) s

/-- A write performed at the home slice: every die copy is invalidated first, and the bytes are applied whole
(R149). -/
def State.homeNow (s : State) (op : HomeOp) : State × Nat × Option FaultClass :=
  let s1 := s.invalidate op.line none
  let (cells, old, err) := s1.homeEffect op
  (s1.writeMem cells, old, err)

/-! ## The start of a break (R165) -/

/-- A swapped-out holder acknowledges at once; a blocked or stopped one at its acknowledgement (R165). -/
def State.swappedOut (s : State) (p : PartyId) : Bool :=
  match s.wgOf p with
  | some w => decide (w.state = .saved)
  | none => false

/-- A break begins: an unpick goes to every holder. -/
def State.startBreak (s : State) (idx : Nat) : State :=
  match s.tacks.find? fun t => decide (t.index = idx) with
  | none => s
  | some t =>
    if t.state = .live then
      let s1 := { s with tacks := updAll (fun t => decide (t.index = idx)) (fun t => { t with state := .breaking }) s.tacks }
      t.holders.foldl (fun s h =>
        s.updParty h.p fun q => { q with unpicks := q.unpicks ++ [⟨idx, s.swappedOut h.p⟩], readySince := none }) s1
    else s

/-! ## Drains (R147, R154, R316) -/

/-- Removes a core from a line's dirty-holder set when no dirty byte of it is left at any level (R147). -/
def State.clearHolder (s : State) (core line : Nat) : State :=
  let left := ((s.core core).dirty.any fun d => decide (d.pa / 128 = line)) ||
    s.caches.any fun c => c.dirty.any fun d => decide (d.core = core ∧ d.pa / 128 = line)
  if left then s else { s with dirtyHolders := s.dirtyHolders.filter fun h => decide (h ≠ (line, core)) }

/-- The last-writer record (R147). -/
def State.setLastWriter (s : State) (line core stamp : Nat) : State :=
  { s with lastWriters := (s.lastWriters.filter fun w => decide (w.line ≠ line)) ++ [⟨line, core, stamp⟩] }

/-- An uncorrectable dirty byte is not written back: memory keeps its bytes and the owning partition receives an event
record (R302). -/
def State.reportDirty (s : State) (part : Option Nat) (core pa : Nat) : State :=
  { s.post part (dieOfCore core) false
      { cls := .memoryError, flags := recFlags false true false false false true false, domain := 0, unfinished := 0,
        identity := dw (part.getD 0 * 2 ^ 52), pc := 0, laneAddr := 0, addr := dw pa, addr2 := 0, clk := s.clkOf core } with
    errors := s.errors.filter fun e => decide (e ≠ .dirty core pa) }

/-- Dirty bytes of one core and one line that drain together: of its L1, and of composed caches. -/
structure LineDrain where
  core : Nat
  line : Nat
  l1 : List DirtyByte
  cc : List (CacheId × CcDirty)
deriving DecidableEq, Repr

/-- The bytes that a condition on each level selects. -/
def State.lineDrain (s : State) (core line : Nat) (l1 : DirtyByte → Bool) (cc : CacheId → CcDirty → Bool) : LineDrain where
  core := core
  line := line
  l1 := (s.core core).dirty.filter fun d => decide (d.pa / 128 = line) && l1 d
  cc := s.caches.flatMap fun c =>
    (c.dirty.filter fun d => decide (d.core = core ∧ d.pa / 128 = line) && cc c.id d).map fun d => (c.id, d)

/-- An L1 byte that holds an uncorrected error, or one of a composed cache with no L1 byte over it. -/
def State.l1Bad (s : State) (core : Nat) (d : DirtyByte) : Bool := decide (ErrSite.dirty core d.pa ∈ s.errors)

def State.ccBad (s : State) (d : CcDirty) : Bool :=
  decide (ErrSite.dirty d.core d.pa ∈ s.errors) && !((s.core d.core).dirty.any fun x => decide (x.pa = d.pa))

/-- What reaches L2: the bytes without error, the L1's over those of composed caches. -/
def State.drainCells (s : State) (d : LineDrain) : List Host.Cell :=
  let top := d.l1.filter fun x => !s.l1Bad d.core x
  ((d.cc.filter fun x => !s.ccBad x.2 && !(top.any fun y => decide (y.pa = x.2.pa))).map fun x => (x.2.pa, x.2.val)) ++
    top.map fun x => (x.pa, x.val)

/-- The highest stamp of the bytes that reach L2 (R316). -/
def State.drainTop (s : State) (d : LineDrain) : Nat :=
  max ((d.l1.filter fun x => !s.l1Bad d.core x).foldl (fun m x => max m x.stamp) 0)
    ((d.cc.filter fun x => !s.ccBad x.2).foldl (fun m x => max m x.2.stamp) 0)

/-- Nothing holds a write to the line back: no device shares it, and no write to it is held (R156, R164). -/
def State.lineFree (s : State) (line : Nat) : Bool :=
  !s.shared line && !(s.held.any fun h => decide (h.op.line = line))

/-- The tacks that drained bytes would break. -/
def State.drainBreaks (s : State) (d : LineDrain) : List Tack :=
  s.tacks.filter fun t => s.breaks (.write (s.drainCells d)) (.drain d.core (s.drainTop d)) t

/-- A drain of a line is not accepted: the core's die is held back, or the home slice that it writes or asks for M (R326, R327). -/
def State.landHolds (s : State) (core line : Nat) : Bool :=
  let die := dieOfCore core
  s.holds .sram core || ((s.refusesDirty line || !s.holdsM die line) && s.homeHolds die (line * 128))

/-- The bytes may reach L2 now. `own` is the line of a write that is being applied, behind which they do not wait. -/
def State.mayLand (s : State) (own : Option Nat) (d : LineDrain) : Bool :=
  decide (own = some d.line) || (s.lineFree d.line && (s.drainBreaks d).isEmpty && !s.landHolds d.core d.line)

/-- Takes the bytes out of the core and its caches. The clean copies of the composed caches that they leave or pass keep
the drained values, or are dropped where the cache is read-only (R154). -/
def State.takeDirty (s : State) (d : LineDrain) : State :=
  let pass (c : ComposedCache) (pa : Nat) (v : Byte) : ComposedCache :=
    { c with clean :=
        match c.policy with
        | .readOnly => c.clean.filter fun l => decide (l.line ≠ pa / c.lineBytes)
        | _ => c.clean.map fun l =>
            if l.line = pa / c.lineBytes then { l with bytes := l.bytes.set (pa % c.lineBytes) v } else l }
  { s.updCore d.core fun c => { c with dirty := c.dirty.filter fun x => !(d.l1.any fun y => decide (y = x)) } with
    caches := s.caches.map fun c =>
      let low := d.cc.filter fun x => decide (x.1 = c.id)
      let c1 := low.foldl (fun c x => pass c x.2.pa x.2.val)
        { c with dirty := c.dirty.filter fun x => !(low.any fun y => decide (y.2 = x)) }
      (d.l1.filter fun x => decide (x.cc = some c.id)).foldl (fun c x => pass c x.pa x.val) c1 }

/-- Drained bytes are written: at the home slice when the die is the line's home, or the line is watched or marked; else
in the die's M copy, for which the die asks unless it holds M (R155, R316). -/
def State.landCells (s : State) (core line stamp : Nat) (cells : List Host.Cell) : State :=
  let die := dieOfCore core
  let s1 :=
    if homeDie (line * 128) = die ∨ s.refusesDirty line then (s.homeNow (.write cells)).1
    else (if s.holdsM die line then s else s.dieOwn die line).writeCopy die line cells
  s1.setLastWriter line core stamp

/-- The bytes leave, and those with an uncorrected error are reported (R302). -/
def State.takeOut (s : State) (d : LineDrain) : State :=
  let bad := ((d.l1.filter (s.l1Bad d.core)).map (·.pa)) ++ (d.cc.filter fun x => s.ccBad x.2).map fun x => x.2.pa
  bad.foldl (fun s pa => s.reportDirty (s.partOfCore d.core) d.core pa) (s.takeDirty d)

/-- Bytes of one line drain to L2. While the line is not free they stay with the core, and what they wait for is asked
for (R147, R156). -/
def State.landDrain (s : State) (own : Option Nat) (d : LineDrain) : State :=
  if d.l1.isEmpty && d.cc.isEmpty then s
  else if !s.mayLand own d then ((s.drainBreaks d).foldl (fun s t => s.startBreak t.index) s).askSharers d.line
  else
    let cells := s.drainCells d
    let s1 := s.takeOut d
    (if cells.isEmpty then s1 else s1.landCells d.core d.line (s.drainTop d) cells).clearHolder d.core d.line

/-- The core and line of dirty bytes, each once. -/
def coreLines (l : List (Nat × Nat)) : List (Nat × Nat) := l.foldl (fun r x => addNew x r) []

/-- Selected dirty bytes of composed caches drain to L2, byte-masked, their stamps kept (R154). -/
def State.drainCaches (s : State) (which : CacheId → Bool) (sel : CcDirty → Bool) (own : Option Nat) : State :=
  (coreLines (s.caches.flatMap fun c => if which c.id then (c.dirty.filter sel).map fun d => (d.core, d.pa / 128) else [])).foldl
    (fun s x => s.landDrain own (s.lineDrain x.1 x.2 (fun _ => false) fun i d => which i && sel d)) s

/-- Dirty bytes of a composed cache that reach L2 before bytes of a core merge over them: the core's own of the line with
a lower stamp (R147), and other cores' at the same addresses (log entry 61). -/
def under (core line stamp : Nat) (pas : List Nat) (d : CcDirty) : Bool :=
  decide (d.pa / 128 = line) &&
    ((decide (d.core = core) && decide (d.stamp < stamp)) || (decide (d.core ≠ core) && decide (d.pa ∈ pas)))

/-- Makes room for such bytes; `cacheReady` says whether it is done. -/
def State.roomInCache (s : State) (i : CacheId) (core line stamp : Nat) (pas : List Nat) : State :=
  s.drainCaches (fun j => decide (j = i)) (under core line stamp pas) none

def State.cacheReady (s : State) (i : CacheId) (core line stamp : Nat) (pas : List Nat) : Bool :=
  !(((s.cache? i).map fun c => c.dirty.any (under core line stamp pas)).getD false)

/-- Bytes merge into a composed cache under their core and stamp. -/
def ComposedCache.mergeDirty (c : ComposedCache) (new : List CcDirty) : ComposedCache :=
  { c with dirty := (c.dirty.filter fun x => !(new.any fun d => decide (d.pa = x.pa))) ++ new }

/-- The write-back composed cache of a dirty byte's page. -/
def State.backOf (s : State) (d : DirtyByte) : Option CacheId :=
  d.cc.filter fun i => ((s.cache? i).map fun c => decide (c.policy = .writeBack)).getD false

/-- Bytes of one line of an L1 that pass into a write-back composed cache. -/
def State.drainToCache (s : State) (core line : Nat) (i : CacheId) (sel : DirtyByte → Bool) : State :=
  let out := (s.core core).dirty.filter fun d => decide (d.pa / 128 = line ∧ s.backOf d = some i) && sel d
  let stamp := out.foldl (fun m d => max m d.stamp) 0
  let s1 := s.roomInCache i core line stamp (out.map (·.pa))
  if out.isEmpty || !s1.cacheReady i core line stamp (out.map (·.pa)) then s1
  else
    let s2 := s1.updCore core fun c => { c with dirty := c.dirty.filter fun x => !(out.any fun y => decide (y = x)) }
    let s3 := (out.filter (s.l1Bad core)).foldl (fun s d => s.reportDirty (s.partOfCore core) core d.pa) s2
    (s3.updCache i fun c => c.mergeDirty ((out.filter fun d => !s.l1Bad core d).map fun d => ⟨d.pa, d.val, core, d.stamp⟩)).clearHolder
      core line

/-- Selected dirty bytes of an L1 drain to the next level: the page's composed cache under write-back, else L2 (R147). -/
def State.drainL1 (s : State) (core : Nat) (sel : DirtyByte → Bool) : State :=
  (coreLines (((s.core core).dirty.filter sel).map fun d => (core, d.pa / 128))).foldl (fun s x =>
    let s1 := ((s.core core).dirty.filterMap s.backOf).foldl (fun s i => s.drainToCache core x.2 i sel) s
    s1.landDrain none (s1.lineDrain core x.2 (fun d => sel d && (s1.backOf d).isNone) fun _ _ => false)) s

/-- The lines of a core's selected dirty bytes at every level. -/
def State.dirtyLines (s : State) (core : Nat) (sel : Nat → Nat → Bool) : List (Nat × Nat) :=
  coreLines ((((s.core core).dirty.filter fun d => sel d.pa d.stamp).map fun d => (core, d.pa / 128)) ++
    s.caches.flatMap fun c => (c.dirty.filter fun d => decide (d.core = core) && sel d.pa d.stamp).map fun d => (core, d.pa / 128))

/-- A core's selected dirty bytes, by address and stamp, drain to L2 from every level; those of the L1 pass what other
cores' bytes stand in their composed cache. -/
def State.drainOwn (s : State) (core : Nat) (sel : Nat → Nat → Bool) (own : Option Nat) : State :=
  (s.dirtyLines core sel).foldl (fun s x =>
    let l1 := (s.core core).dirty.filter fun d => decide (d.pa / 128 = x.2) && sel d.pa d.stamp
    let s1 := s.drainCaches (fun i => l1.any fun d => decide (d.cc = some i)) (under core x.2 0 (l1.map (·.pa))) own
    s1.landDrain own (s1.lineDrain core x.2 (fun d => sel d.pa d.stamp) fun _ d => sel d.pa d.stamp)) s

/-- Selected dirty bytes of a core are left at some level. -/
def State.dirtyLeft (s : State) (core : Nat) (sel : Nat → Nat → Bool) : Bool :=
  ((s.core core).dirty.any fun d => sel d.pa d.stamp) ||
    s.caches.any fun c => c.dirty.any fun d => decide (d.core = core) && sel d.pa d.stamp

/-- The bytes stamped at or below a sequence; none means every byte. -/
def upTo (stamp : Option Nat) (_ n : Nat) : Bool :=
  match stamp with
  | none => true
  | some m => decide (n ≤ m)

/-- A core drains every dirty byte stamped at or below a sequence, at every level, to L2. -/
def State.drainCore (s : State) (core : Nat) (stamp : Option Nat) : State := s.drainOwn core (upTo stamp) none

/-- The bytes of a line. -/
def ofLine (line pa _ : Nat) : Bool := decide (pa / 128 = line)

/-- The home slice has every dirty holder of a line drain it, takes their permission, and recalls E and M copies (R163,
R136). `claimed` says whether it is done: a line that is not free holds its bytes back. -/
def State.claimLine (s : State) (line : Nat) : State :=
  let hs := s.dirtyHolders.filter fun h => decide (h.1 = line)
  let s1 := hs.foldl (fun s h => s.drainOwn h.2 (ofLine line) none) s
  { s1.recallAll line with
    dirtyHolders := s1.dirtyHolders.filter fun h => decide (h.1 ≠ line) || s1.dirtyLeft h.2 (ofLine line) }

def State.claimed (s : State) (line : Nat) : Bool := !(s.dirtyHolders.any fun h => decide (h.1 = line))

/-! ## What follows a write -/

/-- The address of the first acquired line for which a failed core would have to drain (R153). Lines come with the
virtual address that was acquired. -/
def State.deadDrain (s : State) (p : PartyId) (scope : Scope) (lines : List (Nat × Nat)) : Option Nat :=
  (lines.find? fun l => (s.drainsFor p (s.party p).core scope l.1).any fun d => (s.core d.core).failed).map (·.2)

/-- The acquire of a party begins: its commanded drains are sent, but for those of failed cores, which no core would
confirm. -/
def State.beginAcquire (s : State) (p : PartyId) (scope : Scope) (lines : List (Nat × Nat)) (fin : AcquireEnd) : State :=
  let core := (s.party p).core
  let ds := (lines.flatMap fun l => s.drainsFor p core scope l.1).filter fun d => !(s.core d.core).failed
  { s.updParty p fun q => { q with acqs := q.acqs ++ [⟨scope, fin⟩] } with drains := s.drains ++ ds }

/-- What the issuing core sees of a store or atomic as it is performed: its L1 clean copy takes the bytes of a store, and
the page's composed cache those of one at CLUSTER scope, by its policy (R146, R154). The clean copies of an atomic's line on
its die go, since a later load of the group reads its result (R148). -/
def State.seenByCore (s : State) (q : Party) (e : SqEntry) : State :=
  match e.body with
  | .store at_ bs =>
    let s1 := s.updCore q.core fun c => { c with clean := c.clean.map fun l =>
        if l.line = at_.pa / 128 then { l with bytes := setBytes l.bytes (at_.pa % 128) bs } else l }
    if e.scope ≠ .cluster then s1
    else
      match cacheIdOf (s.partOf q) q.core at_.cc with
      | none => s1
      | some i => s1.updCache i fun c =>
          { c with clean :=
              match c.policy with
              | .readOnly => c.clean.filter fun l => decide (l.line ≠ at_.pa / c.lineBytes)
              | _ => c.clean.map fun l =>
                  if l.line = at_.pa / c.lineBytes then { l with bytes := setBytes l.bytes (at_.pa % c.lineBytes) bs } else l }
  | .atomic at_ _ _ _ _ => s.dropClean (dieOfCore q.core) (at_.pa / 128)
  | _ => s

/-- The release sequence of a core rises (R150). -/
def State.bumpSeq (s : State) (core : Nat) : State := s.updCore core fun c => { c with relSeq := (c.relSeq + 1) % 2 ^ 64 }

/-- A release that leaves a record on its line: one at DEVICE scope whose own store or atomic is performed at a home
slice of this module (R150). -/
def SqEntry.leavesRecord (e : SqEntry) : Bool :=
  e.release && decide (e.scope.forRelease = .device) &&
    match e.body with
    | .store _ _ => true
    | .atomic _ _ _ _ _ => true
    | _ => false

/-- The operation's release steps are taken, at a release sequence (R198). -/
def Party.setReleased (q : Party) (op : Option Nat) (seq : Nat) : Party :=
  { q with ops := updAll (fun o => decide (some o.id = op)) (fun o => { o with released := some seq }) q.ops }

def Party.releasedAt (q : Party) (op : Option Nat) : Option Nat :=
  (q.ops.find? fun o => decide (some o.id = op)).bind (·.released)

/-- The record that a DEVICE release leaves on its line; the release sequence then rises, once for all threads of a lane
release (R150, R198). -/
def State.leaveRecord (s : State) (p : PartyId) (e : SqEntry) (line : Nat) : State :=
  let q := s.party p
  match q.releasedAt e.op with
  | some n => { s with lazy := addLazy s.lazy ⟨line, q.core, n⟩ }
  | none =>
    let n := (s.core q.core).relSeq
    (({ s with lazy := addLazy s.lazy ⟨line, q.core, n⟩ } : State).bumpSeq q.core).updParty p fun q => q.setReleased e.op n

/-- A performed entry leaves the queue (R148): an atomic's old word returns, a DEVICE release leaves its record (R150), an
acquiring atomic goes on to its acquire (R176). -/
def State.entryDone (s : State) (p : PartyId) (id old : Nat) (wide : Bool) : State :=
  let q := s.party p
  match q.sq.find? fun e => decide (e.id = id) with
  | none => s
  | some e =>
    let (dest, line) : AtomDest × Nat :=
      match e.body with
      | .atomic at_ _ _ _ d => (d, at_.pa / 128)
      | .remoteAtomic _ _ _ _ _ _ d => (d, 0)
      | .store at_ _ => (.none, at_.pa / 128)
      | _ => (.none, 0)
    let s1 := s.seenByCore q e
    let s2 := if e.leavesRecord then s1.leaveRecord p e line else s1
    -- an acquire that cannot be confirmed leaves its destination and stops at its instruction (R153)
    let dead := if e.acquire then s.deadDrain p e.scope [(line, e.va)] else none
    let s2b := match dest with
      | .sreg n _ => { s2 with errors := s2.errors.filter fun x => decide (x ≠ ErrSite.sreg p n) }
      | .vreg t n w =>
        { s2 with errors := s2.errors.filter fun x => decide (x ≠ ErrSite.vreg p n t) && !(w && decide (x = ErrSite.vreg p (n + 1) t)) }
      | _ => s2
    let s3 := s2b.updParty p fun q =>
      let q1 := { q with
        sq := q.sq.filter fun x => decide (x.id ≠ id)
        stallOn := q.stallOn.filter fun x => decide (x ≠ id) }
      if dead.isSome then { q1 with pc := q1.pc - 4, pending := q1.pending.filter fun x => decide (x.2 ≠ id) }
      else (q1.takeOld e dest wide old).settleOps
    if e.acquire then
      s3.beginAcquire p e.scope [(line, e.va)] (match dead with | some va => .dead va | none => .atomic)
    else s3

/-- A landed copy element is counted (R160, R181): element by element from the canonical order's front. -/
def Copy.land (c : Copy) (elem : Nat) : Copy :=
  let d := addNew elem c.done
  let rec skip : Nat → Nat → Nat
    | 0, n => n
    | f + 1, n => if n ∈ d then skip f (n + 1) else n
  let n := skip (d.length + 1) c.next
  { c with next := n, done := d.filter fun x => decide (n ≤ x), pins := c.pins.filter fun x => decide (x.1 ≠ elem) }

/-- What follows an applied write, by who asked for it. -/
def State.afterWrite (s : State) (op : HomeOp) (src : WriteSource) (old : Nat) (err : Option FaultClass) : State :=
  match src with
  | .entry p id =>
    let wide := match op with
      | .atomic _ _ w _ _ => w
      | _ => false
    s.entryDone p id old wide
  | .copy id elem =>
    let s1 := { s with copies := updAll (fun c => decide (c.id = id)) (fun c => c.land elem) s.copies }
    (match (s.copies.find? fun c => decide (c.id = id)).bind fun c => c.barrier.map fun b => (c, b) with
     | none => s1
     | some (c, b) =>
       match s1.barrierEvent b (.land c.elem) with
       | .ok s2 => s2
       | .error _ => s1)
  | .drain core stamp => (s.setLastWriter op.line core stamp).clearHolder core op.line
  | .barrier p =>
    -- a party that was landed meanwhile waits for no result
    if (s.party p).stallOn.isEmpty then s
    else
    (match err with
     | some c => (s.updParty p fun q => { q with stallOn := [] }).fault p c .scalar FaultInfo.plain
     | none => s.updParty p fun q => { q with heldResult := some (dw old), stallOn := [] })
  | .packet device seq =>
    let body : PacketBody := match op with
      | .atomic _ _ w _ _ => .data seq (toLe (atomSize w) old)
      | _ => .done seq
    s.send device body
  | .port _ _ => s
  | .completion _ p => s.wakeIssuer p
  | .accd _ _ _ _ => s
  | .accdMax core _ _ _ leaves =>
    if leaves then
      ({ s with lazy := addLazy s.lazy ⟨op.line, core, (s.core core).relSeq⟩ } : State).bumpSeq core
    else s
  | .walker _ => s
  | .record _ => s
  | .service _ => s
  | .image _ _ => s
  | .shuttle part seq =>
    (match err with
     | none => s
     | some c =>
       -- a refused arrival on a completion barrier: an event record to the launch's domain (R221)
       let dom := ((s.launch? part seq).map (·.domain)).getD 0
       s.post (some part) 0 false
         { cls := c, flags := recFlags false true false false false false false, domain := dom, unfinished := 0,
           identity := dw (part * 2 ^ 52), pc := 0, laneAddr := 0,
           addr := dw (((s.launch? part seq).map (·.rcb.barrier)).getD 0), addr2 := 0, clk := dw s.clk })

/-! ## Tacks breaking (R165 to R167) -/

/-- A load of a lane operation that has failed after issue (R200). -/
def LaneAccess.lost (l : LaneAccess) : Bool := decide (l.got = some [])

/-- A queue entry that has failed after issue (R200, R203, R308). -/
def SqEntry.failed (e : SqEntry) : Bool := e.held && e.req.isSome

/-- Abandons an entry of the scalar stream that has failed: its register waits for nothing. -/
def Party.dropEntry (q : Party) (id : Nat) : Party :=
  { q with
    sq := q.sq.filter fun e => decide (e.id ≠ id)
    pending := q.pending.filter fun x => decide (x.2 ≠ id)
    stallOn := q.stallOn.filter fun x => decide (x ≠ id) }

/-- Abandons a lane operation with what is left of it. -/
def Party.dropOp (q : Party) (op : Nat) : Party :=
  { q with
    ops := q.ops.filter fun o => decide (o.id ≠ op)
    loads := q.loads.filter fun l => decide (l.op ≠ op)
    sq := q.sq.filter fun e => decide (e.op ≠ some op) }

/-- Abandons the run or the operation that waits at a fault. -/
def Party.abandon (q : Party) (u : FaultUnit) : Party :=
  match u with
  | .laneLate op => { q.dropOp op with run := none }
  | .entry id => q.dropEntry id
  | .laneIssue | .schedule => Party.settleOps { q with run := none, ops := q.ops.map fun o => { o with unfinished := 0 } }
  | _ => q

/-- A ladder instruction is part of the way through and not stalled: it is wholly performed first (R240). -/
def Party.midway (q : Party) : Bool := (q.ladItems.isSome || q.ladsub.isSome) && !q.blocked

/-- A fault that none of its own scalar instructions raises may park the group now: its scalar stream stands at an instruction boundary (R21,
R122, R182). -/
def Party.mayPark (q : Party) : Bool := decide (q.status = .running) && !q.midway

/-- Where a scalar stream has stopped: a group stopped in PHASE has passed it, and waits at it (R240, R267). -/
def Party.stoppedAt (q : Party) : DWord := if q.status = .phase then q.pc - 4 else q.pc

/-- Landing (R28, R167, R312, R313): s60 the last checkpoint, s61 the scalar PC at which the stream stopped, the lane queue emptied,
the pc at the landing point; the group becomes runnable. -/
def Party.land (q : Party) (landing : DWord) : Party :=
  let ck : DWord := match q.checkpoint with
    | some c => dw c
    | none => BitVec.allOnes 64
  -- a LADSUB that the landing abandons reports how far it came (R260)
  let q0 := match q.ladsub with
    | some x => q.setSreg x.dest (dw ((x.first + q.progress) % 2 ^ 32))
    | none => q
  let q0 := match q.park with
    | some k => q0.abandon k.unit
    | none => q0
  let q1 := (q0.setSreg 60 ck).setSreg 61 q.stoppedAt
  { q1.letGo with
    pc := landing
    queue := []
    run := none
    paused := false
    checkpoint := none
    fetched := []
    progress := 0
    ladsub := none
    ladItems := none
    status := .running
    park := none
    stallOn := []
    acqs := []
    heldResult := none
    yieldTo := []
    blocked := false }

/-- A group in a LADRES that has waited for its own held write lands when that is wholly performed (R165, R240). -/
def Party.landOrWait (q : Party) (landing : DWord) : Party :=
  if q.midway then { q with landings := q.landings ++ [landing] } else q.land landing

/-- The landings that a ladder instruction has put off take place as it ends. -/
def Party.landAll (q : Party) : Party :=
  if q.landings.isEmpty then q else q.landings.foldl Party.land { q with landings := [] }

/-- Every holder has acknowledged: the tack is broken and its watch removed; landing follows the held writes. -/
def State.markBroken (s : State) (idx : Nat) : State :=
  { s with tacks := updAll (fun t => decide (t.index = idx)) (fun t => { t with state := .broken, watch := [] }) s.tacks }

/-- Whether every holder of a breaking tack has acknowledged. -/
def State.allAcked (s : State) (t : Tack) : Bool :=
  decide (t.state = .breaking) && t.holders.all fun h =>
    (s.party h.p).unpicks.all fun u => !decide (u.tack = t.index) || u.acked

/-- Lands the holders of a broken tack and ends their holds on it; their holds on other tacks stay, and so do the unpicks
of those (R167, R189, R312). -/
def State.landHolders (s : State) (idx : Nat) : State :=
  match s.tacks.find? fun t => decide (t.index = idx) with
  | none => s
  | some t =>
    let s1 := t.holders.foldl (fun s h =>
      s.updParty h.p fun q =>
        if q.unpicks.any fun u => decide (u.tack = idx) then
          { q.landOrWait h.landing with unpicks := q.unpicks.filter fun u => decide (u.tack ≠ idx) }
        else q) s
    { s1 with tacks := updAll (fun t => decide (t.index = idx)) (fun t => { t with holders := [] }) s1.tacks }

/-! ## Applying writes (R149, R164, R167) -/

/-- The first held write of each line. -/
def heldHeads : List HeldWrite → List Nat → List HeldWrite
  | [], _ => []
  | h :: r, seen => if h.op.line ∈ seen then heldHeads r seen else h :: heldHeads r (h.op.line :: seen)

/-- The core whose record a write leaves on its line: a DEVICE release (R150). -/
def State.recordCore (s : State) (src : WriteSource) : Option Nat :=
  match src with
  | .entry p id =>
    let q := s.party p
    (q.sq.find? fun e => decide (e.id = id)).bind fun e => if e.leavesRecord then some q.core else none
  | .accdMax core _ _ _ true => some core
  | _ => none

/-- The oldest record of a line that holds four of other cores (R151). -/
def State.lazyFull (s : State) (line core : Nat) : Option LazyRec :=
  let recs := s.lazy.filter fun r => decide (r.line = line ∧ r.core ≠ core)
  if recs.length < 4 then none else recs.head?

/-- The fifth core's release to a line has the oldest recorded core drain, and its record dropped (R151); a byte that cannot
drain yet leaves the record in place. -/
def State.roomForLazy (s : State) (line core : Nat) (own : Option Nat) : State :=
  match s.lazyFull line core with
  | none => s
  | some r =>
    let s1 := s.drainOwn r.core (upTo (some r.seq)) own
    if s1.dirtyLeft r.core (upTo (some r.seq)) then s1 else { s1 with lazy := s1.lazy.erase r }

/-- Room for the record of a write, if it leaves one. -/
def State.roomFor (s : State) (line : Nat) (src : WriteSource) : State :=
  match s.recordCore src with
  | none => s
  | some c => s.roomForLazy line c (some line)

def State.roomy (s : State) (line : Nat) (src : WriteSource) : Bool :=
  match s.recordCore src with
  | none => true
  | some c => ((s.roomFor line src).lazyFull line c).isNone

/-- A copy's element whose bytes its barrier cannot count is not performed (R161, R225). -/
def State.overflows (s : State) (src : WriteSource) : Bool :=
  match src with
  | .copy id _ =>
    (match (s.copy? id).bind fun c => c.barrier.map fun b => (c, b) with
     | none => false
     | some (c, b) => !inPending ((s.barrierAt b).waiting - c.elem))
  | _ => false

/-- A held write that may be applied: the first of its line, breaking no live or breaking tack, with no sharing device left
and room for its record. -/
def State.applicable (s : State) : Option HeldWrite :=
  (heldHeads s.held []).find? fun h =>
    !s.shared h.op.line && !(s.tacks.any fun t => s.breaks h.op h.source t) && s.roomy h.op.line h.source &&
      !s.overflows h.source

/-- An entry of a store queue fails (R200, R308): it waits there for the fault service. -/
def State.failEntry (s : State) (p : PartyId) (id : Nat) : State :=
  s.updParty p fun q =>
    { q with sq := updAll (fun e => decide (e.id = id)) (fun e => { e with held := true, req := some (e.req.getD 0) }) q.sq }

/-- The bytes that an operation reads before it writes them hold an uncorrected error (R302). -/
def State.opBad (s : State) (op : HomeOp) (src : WriteSource) : Bool :=
  let bad (pa n : Nat) : Bool := (List.range n).any fun i =>
    match s.coreOfSource src with
    | some c => s.byteBad c (pa + i)
    | none => s.lineBad (pa + i)
  match op with
  | .write _ => false
  | .atomic pa _ wide _ _ => bad pa (atomSize wide)
  | .barrier pa _ _ _ => bad pa 16

/-- An operation whose bytes cannot be read is not performed: its atomic fails with its entry (R171, R200), a remote one is
refused, a drain asks for its maximum again, and meets the error there, and a barrier event answers class 0x0F. -/
def State.opFailed (s : State) (op : HomeOp) (src : WriteSource) : State :=
  match src with
  | .entry p id => s.failEntry p id
  | .packet device seq => s.send device (.refusal seq)
  | .accdMax core id _ _ _ => s.updCore core fun k =>
      { k with matrix := updAll (fun m => decide (m.id = id)) (fun m => { m with maxDone := false }) k.matrix }
  | _ => s.afterWrite op src 0 (some .memoryError)

/-- Applies one write: the issuing core's own dirty bytes of it drain first (R146), the fifth release of a line makes room
(R151), and it is performed at its home slice with what follows it. -/
def State.applyWrite (s : State) (op : HomeOp) (src : WriteSource) : State :=
  if s.opBad op src then s.opFailed op src
  else
  let s0 := s.roomFor op.line src
  let s1 := match s0.coreOfSource src with
    | none => s0
    | some c => s0.drainOwn c (fun pa _ => op.touches pa) (some op.line)
  let (s2, old, err) := s1.homeNow op
  let s3 := match op with
    | .barrier pa _ _ _ => s2.noteBarrier (.mem pa) (s2.barrierAt (.mem pa)).phase []
    | _ => s2
  s3.afterWrite op src old err

/-- What the first held writes wait for is begun: the break of each tack that one would break, also of a tack registered
since it was queued (R165), and room for a record. -/
def State.pushHeads (s : State) : State :=
  (heldHeads s.held []).foldl (fun s h =>
    (s.tacks.filter fun t => s.breaks h.op h.source t).foldl (fun s t => s.startBreak t.index)
      (if s.shared h.op.line then s else s.roomFor h.op.line h.source)) s

/-- Breaks complete and held writes are applied until nothing more can move: in each round a completed break marks its
tack broken, applies its lines' writes in queue order and lands its holders (R167). -/
def State.settleHeld : Nat → State → State
  | 0, s => s
  | f + 1, s0 =>
    let s := s0.pushHeads
    match s.tacks.find? fun t => s.allAcked t with
    | some t => settleHeld f ((settleLines f (s.markBroken t.index)).landHolders t.index)
    | none =>
      match s.applicable with
      | some h => settleHeld f (({ s with held := s.held.erase h } : State).applyWrite h.op h.source)
      | none => s
where
  /-- The held writes that can now be applied, in order. -/
  settleLines : Nat → State → State
    | 0, s => s
    | f + 1, s =>
      match s.applicable with
      | some h => settleLines f (({ s with held := s.held.erase h } : State).applyWrite h.op h.source)
      | none => s

def State.settleFuel (s : State) : Nat := s.held.length + s.tacks.length + 2

def State.settleWrites (s : State) : State := s.settleHeld s.settleFuel

/-- Held writes at a home slice (R168). -/
def State.heldAt (s : State) (line : Nat) : Nat :=
  (s.held.filter fun h => decide (homeSlice h.op.line = homeSlice line)).length

/-- A full held-write queue refuses a write to a watched line: the writer retries (R168). -/
def State.refusedWrite (s : State) (line : Nat) : Bool := s.watched line && decide (64 ≤ s.heldAt line)

/-- A write asked for at a home slice: applied at once, or queued behind a held write of its line, behind the break of
the tacks it breaks, behind the sharing devices' acknowledgements, or for want of room for its record (R151, R156, R164). -/
def State.homeApply (s : State) (op : HomeOp) (src : WriteSource) : State :=
  let line := op.line
  let hit := s.tacks.filter fun t => s.breaks op src t
  if hit.isEmpty && s.lineFree line && s.roomy line src then s.applyWrite op src
  else
    let s1 : State := { s with held := s.held ++ [⟨op, src⟩] }
    let s2 : State := match src with
      | .entry p id => s1.updParty p fun q =>
          { q with
            sq := updAll (fun e => decide (e.id = id)) (fun e => { e with held := true }) q.sq
            -- a held store is let go, a held atomic is waited for (R166)
            stallOn := if q.sq.any fun e => decide (e.id = id) && e.body.isAtomic then q.stallOn
              else q.stallOn.filter fun x => decide (x ≠ id) }
      | _ => s1
    (s2.askSharers line).settleWrites

/-! ## Writes that are asked for again (R168) -/

/-- A write asked for before another keeps its place: of the same asker, or of the same channel, that of a device and a line
(R158). -/
def AskedWrite.ahead (x a : AskedWrite) : Bool :=
  match x.source, a.source with
  | .packet d _, .packet e _ => decide (d = e ∧ x.op.line = a.op.line)
  | u, v => decide (u = v)

/-- The home slice takes a write that is ready: it accepts accesses, no earlier one of its asker waits, and there is room in the
held-write queue. -/
def State.takes (s : State) (a : AskedWrite) (ready : Bool) : Bool :=
  ready && !s.sliceHolds (a.op.line * 128) && !s.refusedWrite a.op.line && !(s.asks.any fun x => x.ahead a)

/-- It is asked for at its home slice, or else its asker tries again. -/
def State.request (s : State) (a : AskedWrite) (ready : Bool) : State :=
  if s.takes a ready then s.homeApply a.op a.source else { s with asks := s.asks ++ [a] }

/-! ## Dirty bits (R274) -/

/-- The walker's atomic OR of a bit into a leaf at its home slice, unless the bit is set or the OR is on its way. -/
def State.orLeaf (s : State) (unit at_ bit : Nat) : State :=
  let a := at_ + bit / 8 / 4 * 4
  let op : HomeOp := .atomic a .or false (dw (2 ^ (bit % 32))) 0
  if (s.homeByte (at_ + bit / 8)).getLsbD (bit % 8) || s.held.any (fun h => decide (h.op = op ∧ h.source = .walker unit)) ||
      s.asks.any (fun h => decide (h.op = op ∧ h.source = .walker unit)) then s
  else s.request ⟨unit, [], op, .walker unit⟩ true

/-- Dirty is set in the leaves of a write's pieces before it is performed; `leavesDirty` says whether all have it: an OR
on its way is waited for. -/
def State.setDirty (s : State) (unit : Nat) (ps : List Piece) : State :=
  ps.foldl (fun s p =>
    match p.leaf with
    | some a =>
      let s1 := s.orLeaf unit a 8
      if (s1.homeByte (a + 1)).getLsbD 0 then
        { s1 with tlb := updAll (fun e => decide (e.unit = unit ∧ e.at_ = a)) (fun e => { e with leaf := e.leaf ||| 0x100 }) s1.tlb }
      else s1
    | none => s) s

def State.leavesDirty (s : State) (ps : List Piece) : Bool :=
  ps.all fun p =>
    match p.leaf with
    | some a => (s.homeByte (a + 1)).getLsbD 0
    | none => true

/-- Dirty is set in the leaves of a write, and then `k` (R274). -/
def State.afterDirty (s : State) (unit : Nat) (ps : List Piece) (k : State → State) : State :=
  let s1 := s.setDirty unit ps
  if s1.leavesDirty ps then k s1 else s1

/-- Dirty set, the write is asked for at its home slice; else its asker tries again. -/
def State.ask (s : State) (a : AskedWrite) : State :=
  let s1 := s.setDirty a.unit a.pieces
  s1.request a (s1.leavesDirty a.pieces)

def State.askAgain (s : State) : State := s.asks.foldl State.ask { s with asks := [] }

/-- Writes of sources wait, asked for or held. -/
def State.waitsAny (s : State) (f : WriteSource → Bool) : Bool := (s.asks.any fun a => f a.source) || s.held.any fun h => f h.source

def State.waitsFor (s : State) (src : WriteSource) : Bool := s.waitsAny fun x => decide (x = src)

/-- A core's dirty bytes that its drains have sent to home slices wait there. -/
def State.drainsHeld (s : State) (core : Nat) : Bool :=
  s.waitsAny fun x =>
    match x with
    | .drain c _ => decide (c = core)
    | _ => false

/-- A core that goes out of service drains; what cannot reach L2 yet leaves it as writes asked for at the home slices. -/
def State.flushCore (s : State) (core : Nat) : State :=
  let s0 := s.drainCore core none
  (s0.dirtyLines core (upTo none)).foldl (fun s x =>
    let d := s.lineDrain core x.2 (fun _ => true) fun _ _ => true
    let cells := s.drainCells d
    if cells.isEmpty then s.takeOut d else (s.takeOut d).ask ⟨core, [], .write cells, .drain core (s.drainTop d)⟩) s0

/-! ## Stores -/

/-- Lines that a core's L1 holds, clean or dirty. -/
def Core.l1Lines (c : Core) : List Nat :=
  c.dirty.foldl (fun r d => addNew (d.pa / 128) r) (c.clean.map (·.line))

/-- The L1 has room for a line: 256 KiB hold 2048 lines (R8). -/
def Core.l1Room (c : Core) (line : Nat) : Bool :=
  let ls := c.l1Lines
  decide (line ∈ ls) || decide (ls.length < 2048)

/-- Makes room for a line: the oldest clean line is dropped, or else the oldest dirty line drains (R8, R147; log entry 61). -/
def State.roomL1 (s : State) (core line : Nat) : State :=
  let c := s.core core
  if c.l1Room line then s
  else
    match c.clean.find? fun l => !(c.dirty.any fun d => decide (d.pa / 128 = l.line)) with
    | some l => s.updCore core fun c => { c with clean := c.clean.filter fun x => decide (x.line ≠ l.line) }
    | none =>
      match c.dirty with
      | [] => s
      | d :: _ =>
        let s1 := s.drainL1 core fun x => decide (x.pa / 128 = d.pa / 128)
        if ((s1.core core).dirty.any fun x => decide (x.pa / 128 = d.pa / 128)) then s1
        else s1.updCore core fun c => { c with clean := c.clean.filter fun x => decide (x.line ≠ d.pa / 128) }

/-- A store may merge: the L1 has room for its line and no dirty byte of the line has a lower stamp (R147). -/
def Core.mergeReady (c : Core) (line : Nat) : Bool :=
  c.l1Room line && !(c.dirty.any fun d => decide (d.pa / 128 = line ∧ d.stamp < c.relSeq))

/-- What a merge waits for: dirty bytes of the line stamped below the current release sequence drain first (R147). -/
def State.beforeMerge (s : State) (core line : Nat) : State :=
  let s1 :=
    if (s.core core).dirty.any fun d => decide (d.pa / 128 = line ∧ d.stamp < (s.core core).relSeq) then
      s.drainL1 core (fun d => decide (d.pa / 128 = line))
    else s
  s1.roomL1 core line

/-- A write over dirty bytes of a core clears their errors (R302). -/
def State.clearDirtyErrors (s : State) (core pa n : Nat) : State :=
  { s with errors := s.errors.filter fun e =>
      match e with
      | .dirty c a => !(decide (c = core) && decide (pa ≤ a) && decide (a < pa + n))
      | _ => true }

/-- A store merges into the core's dirty bytes with the current release sequence as stamp (R147). -/
def State.merge (s : State) (core : Nat) (cc : Option CacheId) (at_ : Piece) (bs : List Byte) : State :=
  let s1 := s.clearDirtyErrors core at_.pa bs.length
  ({ s1 with dirtyHolders := addNew (at_.pa / 128, core) s1.dirtyHolders } : State).updCore core fun c =>
    { c with
      dirty := (c.dirty.filter fun d => !(decide (at_.pa ≤ d.pa) && decide (d.pa < at_.pa + bs.length))) ++
        bs.mapIdx fun i b => ⟨at_.pa + i, b, c.relSeq, cc⟩ }

/-- A store performed at L2 or beyond (R149): in the die's own M or E copy, else at the home slice. `home`: at the
home slice in any case (FABRIC, or the line is refused). -/
def State.storeL2 (s : State) (core : Nat) (home : Bool) (at_ : Piece) (bs : List Byte) (p : PartyId) (id : Nat) : State :=
  let die := dieOfCore core
  let line := at_.pa / 128
  let cells := cellsFrom at_.pa bs
  if !home && s.ownsLine die line && !s.refusesDirty line && s.lineFree line then
    ((s.drainOwn core (fun pa _ => decide (at_.pa ≤ pa ∧ pa < at_.pa + bs.length)) (some line)).writeCopy die line cells).entryDone
      p id 0 false
  else s.homeApply (.write cells) (.entry p id)

/-- A store at CLUSTER scope under write-back merges into the composed cache with its core and the release sequence as
stamp (R154), once what it must not cover has reached L2 and the core's own L1 bytes of it have drained (R146). -/
def State.mergeCc (s : State) (p : PartyId) (e : SqEntry) (i : CacheId) (at_ : Piece) (bs : List Byte) : State :=
  let core := (s.party p).core
  let line := at_.pa / 128
  let pas := (List.range bs.length).map (at_.pa + ·)
  let seq := (s.core core).relSeq
  let mine (d : DirtyByte) : Bool := decide (at_.pa ≤ d.pa ∧ d.pa < at_.pa + bs.length)
  let s1 := (s.drainL1 core mine).roomInCache i core line seq pas
  if (s1.core core).dirty.any mine || !s1.cacheReady i core line seq pas then s1
  else
    let s2 := s1.clearDirtyErrors core at_.pa bs.length
    (({ s2 with dirtyHolders := addNew (line, core) s2.dirtyHolders } : State).updCache i fun c =>
      c.mergeDirty (bs.mapIdx fun k b => ⟨at_.pa + k, b, core, seq⟩)).entryDone p e.id 0 false

/-- A store of one piece is performed at the level of its scope (R146, R154). One that cannot merge yet stays in its
queue. -/
def State.performStore (s : State) (p : PartyId) (e : SqEntry) (at_ : Piece) (bs : List Byte) : State :=
  let q := s.party p
  let line := at_.pa / 128
  let cid := cacheIdOf (s.partOf q) q.core at_.cc
  match e.scope with
  | .group | .core =>
    if s.refusesDirty line && !decide ((line, q.core) ∈ s.dirtyHolders) then
      -- the dirty notice is refused: performed at the home slice instead (R147, R164)
      s.homeApply (.write (cellsFrom at_.pa bs)) (.entry p e.id)
    else
      let s1 := s.beforeMerge q.core line
      if (s1.core q.core).mergeReady line then (s1.merge q.core cid at_ bs).entryDone p e.id 0 false else s1
  | .cluster =>
    (match cid.bind s.cache? with
     | none => s.storeL2 q.core false at_ bs p e.id
     | some c =>
       if c.policy ≠ .writeBack then s.storeL2 q.core false at_ bs p e.id
       else if s.refusesDirty line then s.storeL2 q.core true at_ bs p e.id
       else s.mergeCc p e c.id at_ bs)
  | .device | .pdevice => s.storeL2 q.core e.release at_ bs p e.id
  | .fabric => s.storeL2 q.core true at_ bs p e.id

/-! ## Releases (R150, R151) -/

/-- Drains of the L1 to the next level, at CLUSTER, or of everything to L2. `isFence`: with no store of its own. -/
def State.releaseDrains (s : State) (core : Nat) (scope : Scope) (isFence : Bool) : State :=
  match scope.forRelease with
  | .cluster => s.drainL1 core (fun _ => true)
  | .device => if isFence then s.drainCore core none else s
  | .fabric => s.drainCore core none
  | _ => s

/-- The drains are done: no byte that they name is left. -/
def State.releaseReady (s : State) (core : Nat) (scope : Scope) (isFence : Bool) : Bool :=
  match scope.forRelease with
  | .cluster => (s.core core).dirty.isEmpty
  | .device => !isFence || !s.dirtyLeft core (upTo none)
  | .fabric => !s.dirtyLeft core (upTo none)
  | _ => true

/-- The release sequence rises at CLUSTER scope and wider. -/
def State.bumpFor (s : State) (core : Nat) (scope : Scope) : State :=
  match scope.forRelease with
  | .cluster | .device | .fabric => s.bumpSeq core
  | _ => s

/-- A release that a blocking instruction takes (LAUNCH, BARRIVE, PHASE, TLBINV, FENCE.FULL): the drains of a fence, the
sequence's rise, and then `k`. While a byte cannot drain the instruction stays where it is and is tried again. Its caller has
waited for the earlier accesses. -/
def State.afterRelease (s : State) (core : Nat) (scope : Scope) (k : State → State) : State :=
  let s1 := s.releaseDrains core scope true
  if s1.releaseReady core scope true then k (s1.bumpFor core scope) else s1

/-- The earlier accesses of a party are performed: loads have values, the store queue holds none of them (R150). -/
def Party.quiet (q : Party) : Bool :=
  q.sq.all (fun e => !q.behind e.op) && q.loads.all (fun l => !q.behind (some l.op)) && q.acqs.isEmpty

/-! ## Confirmation of drains and the end of acquires -/

/-- The value that a scalar load writes (R173): size codes 0 to 2 sign-extend, 3 fills all 64 bits, 4 to 6
zero-extend. -/
def loadExtend (size : Nat) (bs : List Byte) : DWord :=
  if size < 3 then BitVec.ofInt 64 (toSigned (8 * bs.length) (le bs)) else dw (le bs)

/-! ## Values of lane loads (R198, R201, R203, R204) -/

/-- The fields of an instruction that loads into lane registers. -/
def Instr.loadWord : Instr → Option LaneWord
  | .laneLd w => some w
  | .lds w => some w
  | .ldcl w => some w
  | .ragld w => some w
  | .rld w => some w
  | .fifopop w => some w
  | _ => none

/-- A loaded element as registers, lowest address in the lowest: 8 and 16 bits are extended to 32. -/
def laneValues (sext : Bool) (bs : List Byte) : List Word :=
  if bs.length < 4 then [if sext then BitVec.ofInt 32 (toSigned (8 * bs.length) (le bs)) else wd (le bs)]
  else (List.range (bs.length / 4)).map fun i => wd (le ((bs.drop (4 * i)).take 4))

/-- Writes consecutive registers of a thread. -/
def State.wrVs (s : State) (p : PartyId) (n t : Nat) : List Word → State
  | [] => s
  | v :: r => (s.wrV p n t v).wrVs p (n + 1) t r

/-- The registers that a thread's element takes. A pop that found nothing keeps `vd` and clears `vc`. -/
def State.takeLoad (s : State) (p : PartyId) (i : Instr) (thread elem : Nat) (bs : List Byte) : State :=
  match Instr.loadWord i with
  | none => s
  | some w =>
    match i with
    | .ragld _ => s.wrVs p (w.vd.toNat + elem) thread (laneValues w.sext bs)
    | .fifopop _ =>
      if elem = 1 then s.wrV p w.vc.toNat thread 0
      else (s.wrVs p w.vd.toNat thread (laneValues false bs)).wrV p w.vc.toNat thread 1
    | _ => s.wrVs p w.vd.toNat thread (laneValues w.sext bs)

/-- A load of an acquiring lane operation gives its value; at PDEVICE it is read again first (R152). One that then meets an
uncorrected error fails (R200). -/
def State.takeAcquired (s : State) (q : Party) (o : LaneOp) (scope : Scope) (l : LaneAccess) : State :=
  let (s1, bs, bad) : State × List Byte × Bool :=
    if scope = .pdevice ∧ l.pieces ≠ [] then s.loadPieces q (s.partOf q) .pdevice true (some o.id) l.pieces
    else (s, l.got.getD [], false)
  if bad then
    s1.updParty q.id fun q => { q with loads := updAll (fun x => decide (x = l)) (fun x => { x with got := some [] }) q.loads }
  else
    (s1.takeLoad q.id o.instr l.thread l.elem bs).updParty q.id fun q => { q with loads := q.loads.filter fun x => decide (x ≠ l) }

/-- The loads of an acquiring lane operation give their values, and it completes. Those that have failed stay: their threads acquire
when they are replayed (R200). -/
def State.takeLoads (s : State) (p : PartyId) (op : Nat) (scope : Scope) : State :=
  let q := s.party p
  match q.ops.find? fun o => decide (o.id = op) with
  | none => s
  | some o =>
    let s1 := (q.loads.filter fun l => decide (l.op = op) && !l.lost).foldl (fun s l => s.takeAcquired q o scope l) s
    s1.updParty p fun q => Party.settleOps
      { q with
        ops := updAll (fun o => decide (o.id = op)) (fun o => { o with acquire := q.loads.any fun l => decide (l.op = op) }) q.ops }

/-- Completes an acquire's operation (R152). -/
def State.acquireEnd (s : State) (p : PartyId) (a : Acquire) : State :=
  let q := s.party p
  let s1 := s.acquireNow q.core a.scope
  match a.fin with
  | .load d va size pieces v =>
    if a.scope = .pdevice then
      let (s2, bs, bad) := s1.loadPieces q (s1.partOf q) .pdevice true none pieces
      if bad then s2.fault p .memoryError .scalar (FaultInfo.at_ va)
      else (s2.wrTo p d (loadExtend size bs)).updParty p fun q => { q with pc := q.pc + 4 }
    else (s1.wrTo p d v).updParty p fun q => { q with pc := q.pc + 4 }
  | .next => s1.updParty p fun q => { q with pc := q.pc + 4 }
  | .atomic => s1
  | .lane op => s1.takeLoads p op a.scope
  | .dead va => s1.fault p .memoryError .scalar (FaultInfo.at_ va)
  | .deadLane op =>
    s1.updParty p fun q => { q with loads := updAll (fun l => decide (l.op = op)) (fun l => { l with got := some [] }) q.loads }

/-- When no drain of a party is outstanding, its acquires complete in order. -/
def State.settleAcquires (s : State) (p : PartyId) : State :=
  if s.drains.any fun d => decide (d.acquirer = p) then s
  else
    let as := (s.party p).acqs
    as.foldl (fun s a => s.acquireEnd p a) (s.updParty p fun q => { q with acqs := [] })

/-- Acquires of every party that waits for no drain complete. -/
def State.settleAll (s : State) : State :=
  s.parties.foldl (fun s q => if q.acqs.isEmpty then s else s.settleAcquires q.id) s.askAgain

/-- An acquire: its drains are commanded, and it completes at once when there are none. A drain commanded of a failed
core cannot be confirmed: the acquire completes, with class 0x0F in place of what it would have gone on to (R153). -/
def State.acquire (s : State) (p : PartyId) (scope : Scope) (lines : List (Nat × Nat)) (fin : AcquireEnd) : State :=
  (s.beginAcquire p scope lines (match s.deadDrain p scope lines with
    | some va => .dead va
    | none => fin)).settleAcquires p

end Sys2Proof.Machine
end

