-- ==== Sys2Proof/Machine/Translate.lean ====
section
/-!
DEFINITION. Translation (R272 to R277), the physical map (R314), the kernel frame map (R276), range locks (R159, R120)
and the checks of a global access in the order of R171.
-/

namespace Sys2Proof.Machine

/-- What an access does to the bytes it names: `exec` fetches them; `patch` writes text through an executable page (R284);
`watch` places a tack's watch on them, which touches none (R188). -/
inductive Access where
  | read | write | exec | patch | watch
deriving DecidableEq, Repr

/-- Who translates: the unit whose cache is used, the spaceid, the root, and whether it is held to U = 1 and KR = 0
(R272). -/
structure UnitCtx where
  unit : Nat
  space : Nat
  root : Nat
  user : Bool
  /-- a steward core with ptroot 0 uses physical addresses (R310) -/
  physical : Bool
deriving DecidableEq, Repr

/-- The translating unit of a party: a steward core's registers as it last wrote them, a group's as the shuttle loaded them
at dispatch. -/
def State.unitOf (_ : State) (q : Party) : UnitCtx :=
  ⟨q.core, q.spaceid.toNat, q.ptroot.toNat, !q.id.isSteward, q.id.isSteward && decide (q.ptroot = 0)⟩

/-- A global address is sign-extended from bit 56 (R31). -/
def canonical (va : Nat) : Bool :=
  let top := va / 2 ^ 56
  decide (top = 0) || decide (top = 0xFF)

/-! ## The frame maps (R276, R281) -/

/-- Frame f is kernel-reserved. The map is read as the line stands, also where a die holds it in M or O. -/
def State.frameReserved (s : State) (f : Nat) : Bool :=
  decide (0x600000 ≤ f) || (s.homeByte (s.mapBase + f / 8)).getLsbD (f % 8)

/-- Some frame of a leaf's range is kernel-reserved. A range of 8 frames or more covers whole bytes of the map, and a
byte that neither memory nor a dirty die copy lists is zero. -/
def State.anyReserved (s : State) (f n : Nat) : Bool :=
  let lo := s.mapBase + f / 8
  let hi := s.mapBase + (f + n) / 8
  if n < 8 then (List.range n).any fun i => s.frameReserved (f + i)
  else decide (0x600000 < f + n) ||
    (s.mem.any fun c => decide (lo ≤ c.1 ∧ c.1 < hi) && decide (s.homeByte c.1 ≠ 0)) ||
    s.dieCopies.any fun c => c.isDirty && (List.range 128).any fun i =>
      decide (lo ≤ c.line * 128 + i ∧ c.line * 128 + i < hi) && decide (c.bytes.getD i 0 ≠ 0)

/-- The certified bit of a frame. -/
def State.frameCertified (s : State) (f : Nat) : Bool :=
  decide (f < 0x600000) && (s.homeByte (s.mapBase + 0xC0000 + f / 8)).getLsbD (f % 8)

/-- Bytes 0x0 to 0xB_FFFF of the map, closed to writes once the lock is set. -/
def State.mapLocked (s : State) (pa n : Nat) : Bool :=
  decide (s.kfmap.getLsbD 0 = true) && meets pa n s.mapBase 0xC0000

def Access.writes : Access → Bool
  | .write | .patch => true
  | _ => false

/-- A physical address that exists (R314), for the access; the locked part of the kernel frame map takes no write from any
unit (R276). -/
def State.physOk (s : State) (pa n : Nat) (k : Access) : Bool :=
  let dram := decide (pa + n ≤ Config.dramBytes)
  let rom := within pa n Config.romBase Config.romBytes && !k.writes
  let start := within pa n Config.startWords 128
  decide (k = .watch) || (dram || rom || start) && !(k.writes && s.mapLocked pa n)

/-! ## The walk (R273, R274) -/

/-- The levels: index bits, size class of the leaf allowed, bits of its page. -/
def walkLevels : List (Nat × Nat × Nat × Nat) :=
  [(56, 43, 0, 0), (42, 30, 3, 30), (29, 22, 2, 22), (21, 16, 1, 16)]

/-- A translation found: leaf entry, its physical address, whether a walk ended there, the page's virtual base and size. -/
structure Leaf where
  entry : Nat
  at_ : Nat
  walked : Bool
  base : Nat
  size : Nat
  reserved : Bool
  certified : Bool
deriving DecidableEq, Repr

def leafFrame (e : Nat) : Nat := bitsOf e 47 16

/-- A malformed entry (R275): as a leaf of the level's size class, or as a pointer. -/
def malformed (e cls : Nat) : Bool :=
  let sz := bitsOf e 14 13
  decide (bitsOf e 63 48 ≠ 0) || decide (bitsOf e 15 15 ≠ 0) ||
    (if sz = 0 then decide (cls = 1) || decide (bitsOf e 12 1 ≠ 0)
     else decide (sz ≠ cls) || decide (leafFrame e % (if sz = 1 then 1 else if sz = 2 then 64 else 16384) ≠ 0) ||
       decide (bitsOf e 3 2 = 3) || (decide (bitsOf e 6 6 = 1) && decide (bitsOf e 5 5 = 0)))

/-- Walks from a table on. The walker reads each entry at its home slice (R274); a table in device space that is not backed raises
class 0x06, as any access there does (R314). -/
def State.walk (s : State) (va table : Nat) : List (Nat × Nat × Nat × Nat) → State × Except FaultClass Leaf
  | [] => (s, .error .protection)
  | (hi, lo, cls, pageBits) :: r =>
    let a := table + 8 * bitsOf va hi lo
    if !s.frameReserved (a / 65536) || !s.physOk a 8 .read then (s, .error .protection)
    else if (List.range 8).any fun i => s.homeBad (a + i) then (s, .error .memoryError)
    else
      let (s1, bs) := s.homeRead a 8
      let e := le bs
      if e % 2 = 0 then (s1, .error .pageAbsent)
      else if malformed e cls then (s1, .error .protection)
      else if bitsOf e 14 13 = 0 then s1.walk va (leafFrame e * 65536) r
      else
        let size := 2 ^ pageBits
        let f := leafFrame e
        (s1, .ok ⟨e, a, true, va / size * size % 2 ^ 64, size, s1.anyReserved f (size / 65536),
          s1.frameCertified (f + va % size / 65536)⟩)

/-- The rows of R275 that a leaf decides. -/
def Leaf.check (l : Leaf) (user : Bool) (k : Access) : Option FaultClass :=
  let bit (n : Nat) : Bool := decide (bitsOf l.entry n n = 1)
  if l.reserved && !bit 5 then some .kernelReserved
  else if user && bit 5 then some .kernelReserved
  else if user && !bit 4 then some .protection
  else
    match k with
    | .read => if bit 1 then none else some .protection
    | .write => if bit 2 then none else some .protection
    | .exec => if bit 3 then none else some .fetch
    | .patch => if bit 3 then none else some .protection
    | .watch => if bit 1 then none else some .protection

/-- A page's translation: from the unit's cache where the schedule chooses so (R277), else by a walk, which the unit
caches. -/
def State.leafOf (s : State) (u : UnitCtx) (va : Nat) : State × Except FaultClass Leaf :=
  let hit := s.tlb.find? fun e => decide (e.unit = u.unit) && (decide (e.space = u.space) || e.leaf.getLsbD 6) &&
    decide (e.base ≤ va) && decide (va < e.base + e.size)
  match s.choice.stale, hit with
  | true, some e =>
    let f := leafFrame e.leaf.toNat + va % e.size / 65536
    (match e.certified.find? fun c => decide (c.1 = f) with
     | some c => (s, .ok ⟨e.leaf.toNat, e.at_, false, e.base, e.size, e.reserved, c.2⟩)
     | none =>
       let b := s.frameCertified f
       ({ s with tlb := { e with certified := (f, b) :: e.certified } :: s.tlb.filter fun x => decide (x ≠ e) },
         .ok ⟨e.leaf.toNat, e.at_, false, e.base, e.size, e.reserved, b⟩))
  | _, _ =>
    match s.walk va u.root walkLevels with
    | (s1, .error c) => (s1, .error c)
    | (s1, .ok l) =>
      let t : TlbEntry := ⟨u.unit, u.space, l.base, l.size, l.at_, dw l.entry, l.reserved,
        [(leafFrame l.entry + va % l.size / 65536, l.certified)]⟩
      ({ s1 with tlb := t :: s1.tlb.filter fun e =>
          !(decide (e.unit = u.unit) && decide (e.space = u.space) && decide (e.base = l.base)) }, .ok l)

/-- A translated access: its pieces, one per line and page, and whether its frames are certified and kernel-reserved. -/
structure Xlat where
  pieces : List Piece
  certified : Bool
  reserved : Bool
deriving DecidableEq, Repr

/-- A fetch needs its frame certified on a compute core, and kernel-reserved on a steward core under translation (R283). -/
def Leaf.textOk (l : Leaf) (s : State) (user : Bool) (va : Nat) : Bool :=
  if user then l.certified else s.frameReserved (leafFrame l.entry + va % l.size / 65536)

/-- The bits that the access has the walker set lie where no atomic is performed: in the locked part of the map or in the ROM (R274,
R276, R314). -/
def Leaf.locked (l : Leaf) (s : State) (k : Access) (mark : Bool) : Bool :=
  mark && !s.physOk l.at_ 8 .write &&
    ((l.walked && decide (bitsOf l.entry 7 7 = 0)) || (k.writes && decide (bitsOf l.entry 8 8 = 0)))

/-- One page's part of an access. `mark`: set Accessed where a walk has passed every check (R274). -/
def State.xlatePart (s : State) (u : UnitCtx) (va n : Nat) (k : Access) (mark : Bool) :
    State × Except FaultClass Xlat :=
  if u.physical then
    if s.physOk va n k then
      (s, .ok ⟨(cutAt 128 (n / 128 + 2) va n).map fun c => ⟨c.1, c.2, 0, none⟩, true, true⟩)
    else (s, .error .protection)
  else
    match s.leafOf u va with
    | (s1, .error c) => (s1, .error c)
    | (s1, .ok l) =>
      match l.check u.user k with
      | some c => (s1, .error c)
      | none =>
        if k = .exec ∧ l.textOk s1 u.user va = false then (s1, .error .certificate)
        else if l.locked s1 k mark then (s1, .error .protection)
        else
          let s2 := if mark ∧ l.walked then s1.orLeaf u.unit l.at_ 7 else s1
          let pa := leafFrame l.entry * 65536 + va % l.size
          let leaf := if k.writes ∧ bitsOf l.entry 8 8 = 0 then some l.at_ else none
          if s2.physOk pa n k then
            (s2, .ok ⟨(cutAt 128 (n / 128 + 2) pa n).map fun c => ⟨c.1, c.2, bitsOf l.entry 12 9, leaf⟩, l.certified, l.reserved⟩)
          else (s2, .error .protection)

/-- The parts of an access by 64 KiB frames, in increasing order; the failing part's first address is reported. -/
def State.xlateParts (s : State) (u : UnitCtx) (k : Access) (mark : Bool) :
    List (Nat × Nat) → State × Except (FaultClass × Nat) Xlat
  | [] => (s, .ok ⟨[], true, true⟩)
  | (a, n) :: r =>
    match s.xlatePart u a n k mark with
    | (s1, .error c) => (s1, .error (c, a))
    | (s1, .ok x) =>
      match s1.xlateParts u k mark r with
      | (s2, .error e) => (s2, .error e)
      | (s2, .ok y) => (s2, .ok ⟨x.pieces ++ y.pieces, x.certified && y.certified, x.reserved && y.reserved⟩)

/-- Translates an access of `n` bytes: both pages of a straddling one before either part is performed (R172). -/
def State.xlate (s : State) (u : UnitCtx) (va n : Nat) (k : Access) (mark : Bool) :
    State × Except (FaultClass × Nat) Xlat :=
  if !canonical va || !canonical ((va + n - 1) % 2 ^ 64) then (s, .error (.protection, va))
  else s.xlateParts u k mark (cutAt 65536 (n / 65536 + 2) va n)

/-! ## Composed caches (R278) -/

/-- A page that names a composed cache that is not installed, or has no banks, raises 0x13. A steward core is in no
cluster and uses none. -/
def State.cacheAbsent (s : State) (part : Option Nat) (core : Nat) (ps : List Piece) : Bool :=
  ps.any fun p =>
    match cacheIdOf part core p.cc with
    | none => false
    | some i =>
      (match s.cache? i with
       | none => true
       | some c => c.shares.isEmpty)

/-! ## Range locks (R159, R120) -/

/-- Global addresses are compared with 2^63 added, so that a range across address 0 is one interval. -/
def biased (space a : Nat) : Nat := if space = 0 then (a + 2 ^ 63) % 2 ^ 64 else a

/-- An access of a core in one of the three address spaces (0 global, 1 core store, 2 cluster window) meets the core's
locks: a destination range at any access, a source range at a write; also the source ranges of an MMA of DEVICE scope that has
sent its lines and not completed. Ranges are held biased. -/
def State.lockHit (s : State) (core space va n : Nat) (write : Bool) : Bool :=
  let a := biased space va
  (s.copies.any fun c =>
    decide (c.core = core) && !c.steward && !c.saved &&
      ((decide (c.dstSpace = space) && meets a n c.dstRange.1 c.dstRange.2) ||
       (write && !c.zero && decide (c.srcSpace = space) && meets a n c.srcRange.1 c.srcRange.2))) ||
  ((s.core core).matrix.any fun m =>
    if space = 1 then
      (m.writes.any fun r => meets a n r.1 r.2) || (write && m.reads.any fun r => meets a n r.1 r.2)
    else if space = 0 then m.globals.any fun r => meets a n r.1 r.2
    else false) ||
  (s.mmas.any fun m => decide (m.core = core ∧ space = 1) && m.deviceScope && write && m.reads.any fun r => meets a n r.1 r.2)

/-! ## The checks of a global access (R171) -/

/-- The outcome of the checks of one global access. -/
inductive Checked where
  | fault (cls : FaultClass) (addr2 : Nat) (replayable : Bool)
  | ok (x : Xlat)
deriving DecidableEq, Repr

/-- Checks in the order of R171: alignment, canonical address and translation, composed cache, range locks, accumulator
lines. `aligned`: it must be. `stores`: a store or atomic. The 0x0F of a load is found when the bytes are read. -/
def State.checkAccess (s : State) (q : Party) (va n : Nat) (k : Access) (aligned stores : Bool) : State × Checked :=
  if aligned ∧ va % n ≠ 0 then (s, .fault .alignment 0 false)
  else
    match s.xlate (s.unitOf q) va n k true with
    | (s1, .error (c, a)) => (s1, .fault c (if a = va then 0 else a) (decide (c = .pageAbsent)))
    | (s1, .ok x) =>
      if s1.cacheAbsent (s1.partOf q) q.core x.pieces then (s1, .fault .cacheAbsent 0 false)
      else if s1.lockHit q.core 0 va n stores then (s1, .fault .rangeLock 0 false)
      else if stores && x.pieces.any fun p => s1.marked (p.pa / 128) then (s1, .fault .accumStore 0 false)
      else (s1, .ok x)

end Sys2Proof.Machine
end

