-- ==== Sys2Proof/Machine/Fetch.lean ====
section
/-!
DEFINITION. Fetching instruction text (R242, R245, R283, R169) and the words that a step runs.
-/

namespace Sys2Proof.Machine

/-- The instruction-cache line that the schedule has a fetch use, where the core holds it (R169). -/
def State.textHeld (s : State) (core pa : Nat) : Option TextLine :=
  if s.choice.stale then s.text.find? fun t => decide (t.core = core ∧ t.line = pa / 128) else none

/-- A word of text: from the core's instruction-cache line where the schedule chooses a line the core holds, else
from the die's L2; the schedule may have the core keep the line (R169). -/
def State.textWord (s : State) (core pa : Nat) : State × Word :=
  match s.textHeld core pa with
  | some t => (s, wd (le ((t.bytes.drop (pa % 128)).take 4)))
  | none =>
    if s.choice.ahead then
      let (s1, bs) := s.l2Read (dieOfCore core) (pa / 128 * 128) 128
      ({ s1 with text := ⟨core, pa / 128, bs⟩ :: s1.text.filter fun t => !(decide (t.core = core) && decide (t.line = pa / 128)) },
        wd (le ((bs.drop (pa % 128)).take 4)))
    else
      let (s1, bs) := s.l2Read (dieOfCore core) pa 4
      (s1, wd (le bs))

/-- What a failed fetch reports: its class and what `faultaddr2` holds (R242). -/
structure FetchFault where
  cls : FaultClass
  second : Nat
  replayable : Bool
deriving DecidableEq, Repr

/-- One word of text at a virtual address. A compute core needs its frame certified; a steward core under translation
needs it kernel-reserved; under physical addresses neither (R283, R310). -/
def State.fetchWord (s : State) (q : Party) (va : Nat) : State × Except FetchFault Word :=
  match s.xlate (s.unitOf q) va 4 .exec true with
  | (s1, .error (.memoryError, _)) => (s1, .error ⟨.memoryError, 0, false⟩)
  | (s1, .error (.certificate, _)) => (s1, .error ⟨.certificate, 0, false⟩)
  | (s1, .error (c, _)) => (s1, .error ⟨.fetch, c.code, decide (c = .pageAbsent)⟩)
  | (s1, .ok x) =>
    match x.pieces with
    | [p] =>
      if (s1.textHeld q.core p.pa).isNone && (List.range 4).any fun i => s1.l2Bad (dieOfCore q.core) (p.pa + i) then
        (s1, .error ⟨.memoryError, 0, false⟩)
      else
        let (s2, w) := s1.textWord q.core p.pa
        (s2, .ok w)
    | _ => (s1, .error ⟨.fetch, FaultClass.protection.code, false⟩)

/-- The next scalar word of a party: one that it holds fetched ahead, else from memory (R169). -/
def State.nextWord (s : State) (q : Party) : State × Except FetchFault Word :=
  let pc := q.pc.toNat
  match q.fetched.find? fun f => decide (f.1 = pc) with
  | some (_, w) => (s.updParty q.id fun p => { p with fetched := p.fetched.filter fun f => decide (f.1 ≠ pc) }, .ok w)
  | none =>
    match s.fetchWord q pc with
    | (s1, .error e) => (s1, .error e)
    | (s1, .ok w) =>
      if s.choice.ahead then
        match s1.fetchWord q (pc + 4) with
        | (s2, .ok w2) => (s2.updParty q.id fun p => { p with fetched := p.fetched ++ [(pc + 4, w2)] }, .ok w)
        | (_, .error _) => (s1, .ok w)
      else (s1, .ok w)

/-- The steward's PORTCMD rows share one word: the command block that S[a] names picks the row (R291, R329, R331). A
block that cannot be read, or is none of the commands, is left to the first row's meaning, which raises its fault. -/
def State.pickCommand (s : State) (q : Party) (d a : BitVec 6) : Instr :=
  let va := (q.sreg a.toNat).toNat
  match s.xlate (s.unitOf q) va 16 .read false with
  | (_, .error _) => .partitionRecord d a
  | (s1, .ok x) =>
    let bs := (s1.loadPieces q (s1.partOf q) .core false none x.pieces).2.1
    let code := le (bs.take 2)
    let op := le ((bs.drop 9).take 1)
    match code, op with
    | 2, _ => .peerEntries d a
    | 3, _ => .reductionSlots d a
    | 4, 0 => .ethernetUp d a
    | 4, 1 => .ethernetDown d a
    | 4, 2 => .ethernetTransmit d a
    | 4, 3 => .postReceiveBuffer d a
    | 5, 0 => .fabricPortUp d a
    | 5, 1 => .fabricPortDown d a
    | 5, 2 => .fabricPortQuery d a
    | _, _ => .partitionRecord d a

/-- A fault of a scalar fetch: at the target, whose address is reported (R242). -/
def State.fetchFault (s : State) (p : PartyId) (e : FetchFault) : State :=
  let q := s.party p
  s.fault p e.cls .scalar
    { addr := q.pc, addr2 := dw e.second, replayable := e.replayable, unfinished := 0, laneAddr := none }

/-- The instruction that a word stands for, as the step runs it: an unassigned word is an illegal encoding. -/
def State.decodeAt (s : State) (q : Party) (w : Word) : Instr :=
  match decodeScalar w with
  | .error _ => .illegalEncoding
  | .ok (.partitionRecord d a) => s.pickCommand q d a
  | .ok i => i

/-! ## Lane text -/

/-- A fault of a lane fetch (R245): at the header or instruction of lane address `la`, `bad` the word that failed. -/
def State.laneFetchFault (s : State) (p : PartyId) (e : FetchFault) (unit : FaultUnit) (la bad : Nat) : State :=
  s.fault p e.cls unit
    { addr := dw la, addr2 := if bad = la then dw e.second else dw bad, replayable := e.replayable, unfinished := 0,
      laneAddr := some (dw bad) }

/-- Words of lane text from an address on; the failing word's address is reported. -/
def State.laneWords (s : State) (q : Party) (va : Nat) : Nat → State × Except (FetchFault × Nat) (List Word)
  | 0 => (s, .ok [])
  | n + 1 =>
    match s.fetchWord q va with
    | (s1, .error e) => (s1, .error (e, va))
    | (s1, .ok w) =>
      match s1.laneWords q ((va + 4) % 2 ^ 64) n with
      | (s2, .error e) => (s2, .error e)
      | (s2, .ok ws) => (s2, .ok (w :: ws))

/-- Three words as one 96-bit number, word 0 lowest (R2). -/
def join96 (ws : List Word) : BitVec 96 :=
  (ws.getD 2 0) ++ (ws.getD 1 0) ++ (ws.getD 0 0)

end Sys2Proof.Machine
end

