-- ==== Sys2Proof/Machine/Access.lean ====
section
/-!
DEFINITION. What the memory instructions of both streams share: waiting for runs (R14), program order (R145), entering
the store queue (R148), and the scalar load, store, atomic and fence (R170 to R177).
-/

namespace Sys2Proof.Machine

/-! ## Waiting for the lane queue (R14, R145) -/

/-- No run is queued or running. -/
def Party.laneIdle (q : Party) : Bool := q.queue.isEmpty && q.run.isNone

/-- The scalar stream has waited for the runs: its later accesses follow theirs in program order (R145). -/
def Party.sync (q : Party) : Party := { q with ops := q.ops.map fun o => { o with synced := true } }

/-- Waits until the lane queue is empty, then goes on. -/
def State.afterRuns (s : State) (k : State → Out) : Out :=
  if s.me.laneIdle then k (s.upd Party.sync) else .next s

/-! ## Program order of a scalar access (R145) -/

/-- Lane loads that precede a scalar access and have no value yet. -/
def Party.loadsBehind (q : Party) : Bool :=
  q.loads.any fun l => q.behind (some l.op)

/-- A lane acquire that precedes a scalar access and has not completed (R152). -/
def Party.acquireBehind (q : Party) : Bool := q.ops.any fun o => o.acquire && o.synced

/-- Every earlier access of a party is performed, for an instruction that releases and waits (R150). -/
def Party.settled (q : Party) : Bool := q.quiet && !q.acquireBehind

/-- An earlier atomic of the group on the same bytes that has not returned: a later load reads its result (R148). -/
def Party.atomicPending (q : Party) (ps : List Piece) : Bool :=
  q.sq.any fun e =>
    match e.body with
    | .atomic a _ _ _ _ => ps.any fun p => meets a.pa a.len p.pa p.len
    | _ => false

/-! ## Store-queue entries -/

/-- Cuts a list of bytes as its pieces lie. -/
def cutBytes : List Piece → List Byte → List (Piece × List Byte)
  | [], _ => []
  | p :: r, bs => (p, bs.take p.len) :: cutBytes r (bs.drop p.len)

/-- Enters a store-queue entry of a party. -/
def State.enqueue (s : State) (p : PartyId) (e : SqEntry) : State :=
  { s.updParty p fun q => { q with sq := q.sq ++ [{ e with id := s.fresh, space := q.spaceid.toNat }] } with fresh := s.fresh + 1 }

/-- The entries of a store: one for each line it meets (R172). -/
def State.enqueueStore (s : State) (p : PartyId) (va : Nat) (scope : Scope) (release : Bool) (op : Option Nat)
    (threads : Word) : List (Piece × List Byte) → State
  | [] => s
  | (pc, bs) :: r =>
    (s.enqueue p ⟨0, va, scope, release, false, .store pc bs, op, threads, none, false, false, 0, false⟩).enqueueStore p (va + pc.len) scope release op threads r

/-- The party keeps a tack of kind RO or VAL whose watched bytes the pieces meet (R166). -/
def State.ownTack (s : State) (p : PartyId) (ps : List Piece) : Bool :=
  s.tacks.any fun t => t.active && (decide (t.kind = .ro) || decide (t.kind = .val)) &&
    (t.holders.any fun h => decide (h.p = p)) && t.watch.any fun w => ps.any fun x => meets w.pa w.len x.pa x.len

/-! ## Scalar accesses -/

/-- Bytes of the size codes (R39). -/
def sizeBytes (z : Nat) : Nat :=
  match z with
  | 0 => 1 | 1 => 2 | 2 => 4 | 3 => 8 | 4 => 1 | 5 => 2 | _ => 4

/-- A failed check of a scalar access: the instruction has no effect (R171). -/
def State.accessFault (s : State) (va : Nat) (cls : FaultClass) (addr2 : Nat) (replayable : Bool) : State :=
  s.fault s.actor cls .scalar { addr := dw va, addr2 := dw addr2, replayable := replayable, unfinished := 0, laneAddr := none }

/-- Lines of an access with the address it names. -/
def lineVas (va : Nat) (ps : List Piece) : List (Nat × Nat) := ps.map fun p => (p.pa / 128, va)

/-- Reads an object in global memory that a scalar instruction names, by the checks of R171; `k` goes on with its
bytes. -/
def State.readObject (s : State) (va n : Nat) (scope : Scope) (k : State → List Byte → State) : State :=
  let q := s.me
  if q.acquireBehind then s
  else
    match s.checkAccess q va n .read false false with
    | (s1, .fault c a r) => s1.accessFault va c a r
    | (s1, .ok x) =>
      if q.atomicPending x.pieces || x.pieces.any (s1.loadHolds q.core (s1.partOf q) scope false) then s
      else
        let (s2, bs, bad) := s1.loadPieces q (s1.partOf q) scope false none x.pieces
        if bad then s2.accessFault va .memoryError 0 false else k s2 bs

/-- A scalar load performs the next of its pieces, `got` being the bytes of those before: a load that crosses a line is two
accesses, each of a time of its own (R172). The last one gives the value. -/
def State.loadNext (s : State) (d : BitVec 6) (z va : Nat) (scope : Scope) (acq : Bool) (got : List Byte) : List Piece → State
  | [] => s
  | p :: r =>
    let q := s.me
    if s.loadHolds q.core (s.partOf q) scope acq p then s
    else
      let (s1, b, bad) := s.loadPiece q (s.partOf q) scope acq none p
      if bad then s1.accessFault va .memoryError 0 false
      else
        let s2 := s1.upd fun q =>
          { q with
            loaded := addNew (p.pa / 128, va) q.loaded
            half := if r.isEmpty then none else some (r, got ++ b) }
        if !r.isEmpty then s2
        else if acq then s2.acquire s2.actor scope [(p.pa / 128, va)] (.load d.toNat va z [p] (loadExtend z (got ++ b)))
        else s2.alu d (loadExtend z (got ++ b))

/-- LD and LDA (R173, R174). One that is part of the way through goes on under its translations. An LDA is aligned, so that it has
one piece. -/
def State.scalarLoad (s : State) (d : BitVec 6) (z va : Nat) (scope : Scope) (acq : Bool) : State :=
  let q := s.me
  if q.acquireBehind then s
  else
    match q.half with
    | some (ps, got) => s.loadNext d z va scope acq got ps
    | none =>
      match s.checkAccess q va (sizeBytes z) .read acq false with
      | (s1, .fault c a r) => s1.accessFault va c a r
      | (s1, .ok x) => if q.atomicPending x.pieces then s else s1.loadNext d z va scope acq [] x.pieces

/-- The numbers of a store's entries whose bytes meet a range of the party's own tacks. -/
def State.tackIds (s : State) (p : PartyId) (ps : List Piece) : List Nat :=
  ((ps.mapIdx fun i x => (s.fresh + i, x)).filter fun x => s.ownTack p [x.2]).map (·.1)

/-- ST and STL (R173, R174). A store into a range of the party's own tack stalls the stream until each part of it there has
reached its home slice (R166). -/
def State.scalarStore (s : State) (v : DWord) (z va : Nat) (scope : Scope) (rel : Bool) : State :=
  let q := s.me
  if q.acquireBehind || q.loadsBehind then s
  else
    match s.checkAccess q va (sizeBytes z) .write rel true with
    | (s1, .fault c a r) => s1.accessFault va c a r
    | (s1, .ok x) =>
      let s2 := s1.enqueueStore s1.actor va scope rel none 0 (cutBytes x.pieces (toLe (sizeBytes z) v.toNat))
      (s2.upd fun q => { q with stallOn := q.stallOn ++ s1.tackIds q.id x.pieces }).adv

/-- AMOW and AMOD (R175, R176). With `ar` the stream waits for the release, the atomic and the acquire. -/
def State.amo (s : State) (fn : AtomFn) (wide : Bool) (d a b : BitVec 6) (sc : BitVec 3) (ar : Bool) : Out :=
  s.scalar [d] (if fn = .cas then [a, b, d] else [a, b]) fun s =>
    let q := s.me
    let va := (s.rd a).toNat
    let n := atomSize wide
    if q.acquireBehind || q.loadsBehind then s
    else
      match s.checkAccess q va n .write true true with
      | (s1, .fault c a r) => s1.accessFault va c a r
      | (s1, .ok x) =>
        match x.pieces with
        | [pc] =>
          if (List.range n).any fun i => s1.byteBad q.core (pc.pa + i) then s1.accessFault va .memoryError 0 false
          else
            let id := s1.fresh
            let dest : AtomDest := if d = 0 then .none else .sreg d.toNat wide
            let s2 := s1.enqueue s1.actor
              ⟨0, va, scopeOf sc.toNat, ar, ar, .atomic pc fn (s.rd b) (s.rd d) dest, none, 0, none, false, false, 0, false⟩
            (s2.upd fun q =>
              { q with
                pending := if d = 0 then q.pending else q.pending ++ [(d.toNat, id)]
                stallOn := if ar || s2.ownTack q.id x.pieces then q.stallOn ++ [id] else q.stallOn }).adv
        | _ => s1

/-! ## Fences (R177) -/

/-- FENCE.ACQ: an acquire on behalf of every earlier load. It waits for the runs queued before it, and for the loads of
their operations. -/
def State.fenceAcq (s : State) (scope : Scope) : Out :=
  s.afterRuns fun s =>
    let q := s.me
    if !q.loads.isEmpty || q.acquireBehind then .next s
    else .next (s.acquire s.actor scope q.loaded .next)

/-- FENCE.REL: a release with no store of its own, which waits in the store queue behind the earlier accesses. -/
def State.fenceRel (s : State) (scope : Scope) : Out :=
  s.afterRuns fun s =>
    if s.me.loadsBehind then .next s
    else .next (s.enqueue s.actor ⟨0, 0, scope, true, false, .fence, none, 0, none, false, false, 0, false⟩).adv

/-- FENCE.FULL: the release of its scope, then the acquire. -/
def State.fenceFull (s : State) (scope : Scope) : Out :=
  s.afterRuns fun s =>
    if !s.me.settled then .next s
    else .next (s.afterRelease s.me.core scope fun s1 => s1.acquire s1.actor scope s1.me.loaded .next)

end Sys2Proof.Machine
end

