-- ==== Sys2Proof/Machine/Flags.lean ====
section
/-!
DEFINITION. The machine has no status flags: what its instructions test and count stands here. Integer results that
both streams share (R60, R90, R95), and the conditions of the compares (R114, R115, R247).
-/

namespace Sys2Proof.Machine

/-- 1 or 0. -/
def ofBool (b : Bool) : DWord := if b then 1 else 0

/-- The low 32 bits, sign-extended. -/
def sext32 (x : DWord) : DWord := (x.extractLsb' 0 32).signExtend 64

/-- Signed division (R60): by zero every quotient bit is set; the most negative value by −1 gives itself. -/
def divSigned {w : Nat} (a b : BitVec w) : BitVec w :=
  if b = 0 then BitVec.allOnes w else BitVec.ofInt w (a.toInt.tdiv b.toInt)

/-- Signed remainder (R60): by zero the dividend. -/
def remSigned {w : Nat} (a b : BitVec w) : BitVec w :=
  if b = 0 then a else BitVec.ofInt w (a.toInt.tmod b.toInt)

/-- Leading zero bits of a `w`-bit pattern; `w` of zero. -/
def leadingZeros (w n : Nat) : Nat := if n = 0 then w else w - 1 - Nat.log2 n

/-- Trailing zero bits; `w` of zero. -/
def trailingZeros (w n : Nat) : Nat := ((List.range w).find? fun i => n.testBit i).getD w

/-- Set bits of the low `w` bits. -/
def setBits (w n : Nat) : Nat := (List.range w).countP fun i => n.testBit i

/-! ## Forms of scalar instructions -/

/-- An instruction that computes one register from two. -/
def State.scalar2 (s : State) (d a b : BitVec 6) (f : DWord → DWord → DWord) : Out :=
  s.scalar [d] [a, b] fun s => s.alu d (f (s.rd a) (s.rd b))

/-- An instruction that computes one register from one. -/
def State.scalar1 (s : State) (d a : BitVec 6) (f : DWord → DWord) : Out :=
  s.scalar [d] [a] fun s => s.alu d (f (s.rd a))

/-! ## Conditions -/

/-- The conditions of ICMP, by code, on values in order (R114). -/
def intCond (code : Nat) (x y : Int) : Bool :=
  match code with
  | 0 => decide (x = y)
  | 1 => decide (x ≠ y)
  | 2 => decide (x < y)
  | 3 => decide (x ≤ y)
  | 4 => decide (y < x)
  | _ => decide (y ≤ x)

end Sys2Proof.Machine
end

