-- ==== Sys2Proof/Machine/Control.lean ====
section
/-!
DEFINITION. Branches, runs, the MASK family, VREAD, SFMT and CSR: majors 0x18 to 0x2B (R240 to R252).
-/

namespace Sys2Proof.Machine

/-! ## Shared -/

/-- Continues at an address. -/
def State.goto (s : State) (t : DWord) : State := s.upd fun q => { q with pc := t }

/-- An instruction that a steward core does not have raises class 0x01 (R34). -/
def State.laneOnly (s : State) (k : Out) : Out :=
  if s.actor.isSteward then .next (s.trap .illegal) else k

/-- The region control block that shapes a group's work: its rung's or its launch's (R211, R320). -/
def State.rcbOf (s : State) (p : PartyId) : Option Rcb :=
  (s.wgOf p).bind fun w =>
    match s.rungOf w with
    | some r => some r.rcb
    | none => (s.launch? w.part w.launch).map (·.rcb)

/-! ## Branches (R243, R244) -/

/-- A branch: taken, it continues at P + 4 × displacement. -/
def State.branch (s : State) (taken : Bool) (disp : DWord) : State :=
  if taken then s.goto (s.me.pc + (disp <<< 2)) else s.adv

/-- A B-format branch. -/
def State.branch2 (s : State) (a b : BitVec 6) (i : BitVec 14) (c : DWord → DWord → Bool) : Out :=
  s.scalar [] [a, b] fun s => s.branch (c (s.rd a) (s.rd b)) (sext64 i)

def execBr (i : BitVec 26) (s : State) : Out := .next (s.branch true (sext64 i))

def execCall (i : BitVec 26) (s : State) : Out :=
  s.scalar [63] [] fun s => (s.wr 63 (s.me.pc + 4)).branch true (sext64 i)

def execBz (a : BitVec 6) (i : BitVec 20) (s : State) : Out :=
  s.scalar [] [a] fun s => s.branch (decide (s.rd a = 0)) (sext64 i)

def execBnz (a : BitVec 6) (i : BitVec 20) (s : State) : Out :=
  s.scalar [] [a] fun s => s.branch (decide (s.rd a ≠ 0)) (sext64 i)

def execBeq (a b : BitVec 6) (i : BitVec 14) (s : State) : Out := s.branch2 a b i fun x y => decide (x = y)

def execBne (a b : BitVec 6) (i : BitVec 14) (s : State) : Out := s.branch2 a b i fun x y => decide (x ≠ y)

def execBlt (a b : BitVec 6) (i : BitVec 14) (s : State) : Out := s.branch2 a b i fun x y => x.slt y

def execBge (a b : BitVec 6) (i : BitVec 14) (s : State) : Out := s.branch2 a b i fun x y => !x.slt y

def execBltu (a b : BitVec 6) (i : BitVec 14) (s : State) : Out := s.branch2 a b i fun x y => decide (x < y)

def execBgeu (a b : BitVec 6) (i : BitVec 14) (s : State) : Out := s.branch2 a b i fun x y => decide (y ≤ x)

/-- R244. -/
def execJalr (d a : BitVec 6) (i : BitVec 14) (s : State) : Out :=
  s.scalar [d] [a] fun s =>
    let t := s.rd a + sext64 i
    if t.toNat % 4 ≠ 0 then s.trap .alignment
    else (s.wr d (s.me.pc + 4)).goto t

/-! ## Runs (R245, R246) -/

/-- Entries of the lane queue, the run in progress included (R11). -/
def Party.queued (q : Party) : Nat := q.queue.length + q.run.isSome.toNat

/-- The snapshot of the lane-shared scalars s32 to s47. -/
def Party.snapshot (q : Party) : List DWord := (List.range 16).map fun i => q.sreg (32 + i)

/-- R245. The lane address is taken from the launch's lane code base. -/
def execLrun (a : BitVec 6) (i : BitVec 14) (s : State) : Out :=
  s.laneOnly (s.scalar [] [a] fun s =>
    let off := s.rd a + (sext64 i <<< 2)
    let q := s.me
    if off.toNat % 4 ≠ 0 then s.trap .alignment
    else if 4 ≤ q.queued ∨ (List.range 16).any (fun n => q.isPending (32 + n)) then s
    else
      match (List.range 16).find? fun n => s.sregBad q.id (32 + n) with
      | some _ => s.trap .storeError
      | none =>
        let base := ((s.rcbOf q.id).map (·.lanes)).getD 0
        let e : QEntry := ⟨(base + off.toNat) % 2 ^ 64, q.snapshot, s.fresh⟩
        (s.upd fun q =>
          { q with
            queue := q.queue ++ [e]
            readySince := if q.queued = 0 then none else q.readySince }).adv)

/-- Operations outstanding behind a flag: its count (R19). -/
def Party.flagCount (q : Party) (f : Nat) : Nat := (q.ops.filter fun o => decide (o.flag = some f)).length

/-- The flags of a mask are clear. -/
def Party.flagsClear (q : Party) (mask : Nat) : Bool :=
  q.ops.all fun o =>
    match o.flag with
    | some f => !mask.testBit f
    | none => true

/-- Removes the tags of the flags of a mask (R20). -/
def Party.untag (q : Party) (mask : Nat) : Party :=
  { q with tags := q.tags.filter fun t => !mask.testBit t.2 }

/-- R246. -/
def execLsync (a : BitVec 6) (s : State) : Out :=
  s.laneOnly (s.scalar [] [a] fun s =>
    let m := (s.rd a).toNat
    if 4096 ≤ m then s.trap .illegal
    else if s.me.laneIdle && s.me.flagsClear m then
      (s.upd fun q => (q.untag m).sync).adv
    else s)

/-! ## MASK family (R241, R247) -/

/-- A MASK-family instruction: not on a steward core, and after the runs. -/
def State.maskOp (s : State) (dests srcs : List (BitVec 6)) (k : State → State) : Out :=
  s.laneOnly (s.afterRuns fun s => s.scalar dests srcs k)

/-- Writes a mask register and goes on. Writing k0 raises class 0x01 (R241). -/
def State.wrK (s : State) (d : BitVec 3) (v : Word) : State :=
  if d = 0 then s.trap .illegal
  else (s.upd fun q => q.setKreg d.toNat v).adv

def State.rdK (s : State) (a : BitVec 3) : Word := s.me.kreg a.toNat

def execKmov (d a : BitVec 3) (s : State) : Out :=
  s.maskOp [] [] fun s => s.wrK d (s.rdK a)

def execKnot (d a : BitVec 3) (s : State) : Out :=
  s.maskOp [] [] fun s => s.wrK d (~~~(s.rdK a))

def execKand (d a b : BitVec 3) (s : State) : Out :=
  s.maskOp [] [] fun s => s.wrK d (s.rdK a &&& s.rdK b)

def execKor (d a b : BitVec 3) (s : State) : Out :=
  s.maskOp [] [] fun s => s.wrK d (s.rdK a ||| s.rdK b)

def execKxor (d a b : BitVec 3) (s : State) : Out :=
  s.maskOp [] [] fun s => s.wrK d (s.rdK a ^^^ s.rdK b)

def execKandn (d a b : BitVec 3) (s : State) : Out :=
  s.maskOp [] [] fun s => s.wrK d (s.rdK a &&& ~~~(s.rdK b))

def execKpopc (d : BitVec 6) (a : BitVec 3) (s : State) : Out :=
  s.maskOp [d] [] fun s => s.alu d (dw (setBits 32 (s.rdK a).toNat))

def execKffs (d : BitVec 6) (a : BitVec 3) (s : State) : Out :=
  s.maskOp [d] [] fun s =>
    let k := s.rdK a
    s.alu d (if k = 0 then BitVec.allOnes 64 else dw (trailingZeros 32 k.toNat))

def execKtos (d : BitVec 6) (a : BitVec 3) (s : State) : Out :=
  s.maskOp [d] [] fun s => s.alu d ((s.rdK a).setWidth 64)

def execKall (d : BitVec 6) (a : BitVec 3) (s : State) : Out :=
  s.maskOp [d] [] fun s => s.alu d (ofBool (decide (s.me.em &&& ~~~(s.rdK a) = 0)))

def execStok (d : BitVec 3) (a : BitVec 6) (s : State) : Out :=
  s.maskOp [] [a] fun s => s.wrK d ((s.rd a).setWidth 32)

/-! ## Divergence (R24, R248) -/

/-- R248. The stack's top is the head of the list. -/
def execDivpush (a : BitVec 3) (b : BitVec 6) (s : State) : Out :=
  s.maskOp [] [b] fun s =>
    let t := s.rd b
    if t.toNat % 4 ≠ 0 then s.trap .alignment
    else if s.me.divs.length = 16 then s.trap .illegal
    else (s.upd fun q => { q with divs := ⟨q.em, q.fmt, t⟩ :: q.divs, em := q.em &&& s.rdK a }).adv

def execDivelse (s : State) : Out :=
  s.maskOp [] [] fun s =>
    match s.me.divs with
    | [] => s.trap .illegal
    | e :: r =>
      let em := e.em &&& ~~~s.me.em
      if em = 0 then s.upd fun q => { q with em := e.em, fmt := e.fmt, divs := r, pc := e.join }
      else (s.upd fun q => { q with em := em, fmt := e.fmt }).adv

def execDivpop (s : State) : Out :=
  s.maskOp [] [] fun s =>
    match s.me.divs with
    | [] => s.trap .illegal
    | e :: r => (s.upd fun q => { q with em := e.em, fmt := e.fmt, divs := r }).adv

/-! ## Mask branches (R249) -/

def execBkany (k : BitVec 3) (i : BitVec 20) (s : State) : Out :=
  s.maskOp [] [] fun s => s.branch (decide (s.rdK k &&& s.me.em ≠ 0)) (sext64 i)

def execBknone (k : BitVec 3) (i : BitVec 20) (s : State) : Out :=
  s.maskOp [] [] fun s => s.branch (decide (s.rdK k &&& s.me.em = 0)) (sext64 i)

/-! ## VREAD (R250) -/

def execVread (d : BitVec 6) (n : BitVec 8) (t : BitVec 6) (s : State) : Out :=
  s.maskOp [d] [] fun s =>
    let q := s.me
    if q.gw ≤ t.toNat ∨ q.vcount ≤ n.toNat then s.trap .illegal
    else if q.tags.any fun g => decide (g.1 = n.toNat) then s.trap .schedule
    else if decide (ErrSite.vreg q.id n.toNat t.toNat ∈ s.errors) then s.trap .storeError
    else s.alu d ((q.vreg n.toNat t.toNat).setWidth 64)

/-! ## SFMT (R25, R251) -/

/-- An FMT value without reserved type, rounding or bits. -/
def fmtOk (v : Word) : Bool :=
  decide (v.toNat < 1024) && decide (v.toNat / 16 % 16 < 4) && decide (v.toNat % 16 < 14)

/-- SFMT: on a group it waits for the runs; `f` makes the new FMT from the old one and the value. -/
def State.sfmt (s : State) (d a : BitVec 6) (v : BitVec 10) (f : Word → Word → Word) : Out :=
  s.afterRuns fun s => s.scalar [d] [a] fun s =>
    let x := s.rd a
    let old := s.me.fmt
    let new := f old ((v ||| x.extractLsb' 0 10).setWidth 32)
    if x.toNat / 1024 ≠ 0 ∨ !fmtOk new then s.trap .illegal
    else (s.upd fun q => { q with fmt := new }).alu d (old.setWidth 64)

def execSfmtW (d a : BitVec 6) (v : BitVec 10) (s : State) : Out := s.sfmt d a v fun _ x => x

def execSfmtS (d a : BitVec 6) (v : BitVec 10) (s : State) : Out := s.sfmt d a v fun old x => old ||| x

def execSfmtC (d a : BitVec 6) (v : BitVec 10) (s : State) : Out := s.sfmt d a v fun old x => old &&& ~~~x

/-! ## System registers (R29, R252) -/

/-- The registers of R29. -/
inductive SysReg where
  | yrev | dieid | coreid | gwid | grpid | wgid | partid | clk
  | faultinfo | faultaddr | faultaddr2 | spaceid | ptroot | kfmap
deriving DecidableEq, Repr

def SysReg.ofNumber (n : Nat) : Option SysReg :=
  match n with
  | 0x000 => some .yrev | 0x001 => some .dieid | 0x002 => some .coreid | 0x003 => some .gwid
  | 0x004 => some .grpid | 0x005 => some .wgid | 0x006 => some .partid | 0x007 => some .clk
  | 0x100 => some .faultinfo | 0x101 => some .faultaddr | 0x102 => some .faultaddr2
  | 0x110 => some .spaceid | 0x111 => some .ptroot | 0x112 => some .kfmap
  | _ => none

def SysReg.readOnly : SysReg → Bool
  | .yrev | .dieid | .coreid | .gwid | .grpid | .wgid | .partid | .clk => true
  | _ => false

/-- The group index of a party (R287). -/
def groupIndex : PartyId → Nat
  | .steward _ => 0
  | .group _ _ idx => idx

def State.readSys (s : State) (r : SysReg) : DWord :=
  let q := s.me
  match r with
  | .yrev => dw Config.yrev
  | .dieid => dw (dieOfCore q.core)
  | .coreid => dw q.core
  | .gwid => if q.id.isSteward then 0 else dw q.gw
  | .grpid => dw (groupIndex q.id)
  | .wgid => dw (((s.wgOf q.id).map (·.index)).getD 0)
  | .partid => dw ((s.partOf q).getD 0)
  | .clk => s.clkOf q.core
  | .faultinfo => q.faultinfo
  | .faultaddr => q.faultaddr
  | .faultaddr2 => q.faultaddr2
  | .spaceid => q.spaceid
  | .ptroot => q.ptroot
  | .kfmap => s.kfmap

/-- Bits that R29 and R276 require to be zero. -/
def SysReg.zeroBits : SysReg → Nat
  | .spaceid => 2 ^ 64 - 2 ^ 16
  | .ptroot => 2 ^ 64 - 2 ^ 48 + (2 ^ 16 - 1)
  | .kfmap => 2 ^ 64 - 2 ^ 48 + (2 ^ 16 - 2)
  | _ => 0

def State.writeSys (s : State) (r : SysReg) (v : DWord) : State :=
  match r with
  | .faultinfo => s.upd fun q => { q with faultinfo := v }
  | .faultaddr => s.upd fun q => { q with faultaddr := v }
  | .faultaddr2 => s.upd fun q => { q with faultaddr2 := v }
  | .spaceid => s.upd fun q => { q with spaceid := v, fetched := [] }
  | .ptroot => s.upd fun q => { q with ptroot := v, fetched := [] }
  | .kfmap => { s with kfmap := v }
  | _ => s

/-- CSR: `f` makes the new value from the old one; none only reads. -/
def State.csr (s : State) (d : BitVec 6) (srcs : List (BitVec 6)) (n : BitVec 12) (f : Option (DWord → DWord)) : Out :=
  s.scalar [d] srcs fun s =>
    match SysReg.ofNumber n.toNat with
    | none => s.trap .illegal
    | some r =>
      if !r.readOnly && !s.actor.isSteward then s.trap .privilege
      else
        let old := s.readSys r
        match f with
        | none => s.alu d old
        | some f =>
          let new := f old
          if r.readOnly then s.trap .illegal
          else if r = .kfmap ∧ s.kfmap.getLsbD 0 then s.trap .privilege
          else if new.toNat &&& r.zeroBits ≠ 0 then s.trap .illegal
          else (s.writeSys r new).alu d old

def execCsrr (d : BitVec 6) (r : BitVec 12) (s : State) : Out := s.csr d [] r none

def execCsrw (d a : BitVec 6) (r : BitVec 12) (s : State) : Out := s.csr d [a] r (some fun _ => s.rd a)

def execCsrs (d a : BitVec 6) (r : BitVec 12) (s : State) : Out := s.csr d [a] r (some fun old => old ||| s.rd a)

def execCsrc (d a : BitVec 6) (r : BitVec 12) (s : State) : Out := s.csr d [a] r (some fun old => old &&& ~~~s.rd a)

end Sys2Proof.Machine
end

