-- ==== Sys2Proof/Machine/Storage.lean ====
section
/-!
DEFINITION. Core-store shares (R31), the cluster window (R32, R191, R194) and barrier words (R253): which storage an
offset names, and its bytes.
-/

namespace Sys2Proof.Machine

/-- Bytes of one member in the cluster window. -/
def memberBytes : Nat := 0x200000

/-- A range of core-store offsets lies in the party's share (R31). -/
def State.inShare (s : State) (p : PartyId) (off n : Nat) : Bool :=
  match s.wgOf p with
  | some w => within off n w.share w.length
  | none => false

/-- The storage of a range of the cluster window, or none: class 0x12 (R32). `w` is the caller's workgroup. A
swapped-out member's share is its saved image, by the same offsets (R194). -/
def State.windowPlace (s : State) (w : Workgroup) (off n : Nat) : Option Place :=
  if off < Config.bankBase then
    match w.sharing with
    | none => none
    | some (cl, g, _) =>
      let m := off / memberBytes
      let x := off % memberBytes
      match s.workgroups.find? fun v => decide (v.part = w.part ∧ v.sharing = some (cl, g, m)) with
      | none => none
      | some v =>
        if within x n v.share v.length then
          some (if v.state = .saved then .image v.part v.id x else .store v.core x)
        else none
  else if Config.windowBytes < off + n then none
  else
    let b := (off - Config.bankBase) / Config.bankBytes
    let x := (off - Config.bankBase) % Config.bankBytes
    let k := s.bank (clusterOfCore w.core) b
    if k.mode = .scratch ∧ k.owner = w.part ∧ x + n ≤ Config.bankBytes then some (.bank (clusterOfCore w.core) b x) else none

/-- Moves a place by bytes. -/
def Place.shift (k : Nat) : Place → Place
  | .store c o => .store c (o + k)
  | .bank cl b o => .bank cl b (o + k)
  | .image p w o => .image p w (o + k)
  | .mem pa => .mem (pa + k)

/-- Bytes of core store or of a cluster bank that hold an uncorrected error (R302). -/
def State.storeBad (s : State) (n : Nat) : Place → Bool
  | .bank cl b off => s.errors.any fun e =>
      match e with
      | .bank c k o => decide (c = cl ∧ k = b ∧ off ≤ o ∧ o < off + n)
      | _ => false
  | .store core off => s.errors.any fun e =>
      match e with
      | .coreStore c o => decide (c = core ∧ off ≤ o ∧ o < off + n)
      | _ => false
  | _ => false

/-- The class of such an error: a bank's bytes are no core store (R302). -/
def Place.errClass : Place → FaultClass
  | .bank _ _ _ => .memoryError
  | _ => .storeError

/-- The barrier object that a barrier word names, checked in the order of R253. -/
def State.barrierPlace (s : State) (p : PartyId) (v : DWord) : Except FaultClass Place :=
  let n := v.toNat
  let off := n % 2 ^ 25
  if 2 ^ 26 ≤ n then .error .illegal
  else if off % 16 ≠ 0 then .error .alignment
  else
    match s.wgOf p with
    | none => .error .protection
    | some w =>
      if n < 2 ^ 25 then
        if within off 16 w.share w.length then .ok (.store w.core off) else .error .protection
      else
        match s.windowPlace w off 16 with
        | some pl => .ok pl
        | none => .error .cluster

/-- The scope of an object's storage (R226). -/
def Place.scope : Place → Scope
  | .store _ _ => .core
  | .image _ _ _ => .core
  | .bank _ _ _ => .cluster
  | .mem _ => .device

/-- A copy or drain has counted bytes into the phase of an object that a wait named (R254). -/
def State.countedIn (s : State) (pl : Place) (phase : Nat) : Bool := decide ((pl, phase) ∈ s.counted)

end Sys2Proof.Machine
end

