-- ==== Sys2Proof/Machine/Bar.lean ====
section
/-!
DEFINITION. The BAR family (R224 to R228, R253 to R257).
-/

namespace Sys2Proof.Machine

/-- The resident-workgroup identifier that BINIT writes as owner; a steward core has none, and the spec gives no value
for it. -/
def State.ownerOf (s : State) : Nat :=
  match s.actor with
  | .group _ wg _ => wg
  | .steward _ => (Config.freeWord s.fresh).toNat % 2 ^ 32

/-! ## On a steward core (R257) -/

/-- The bytes of an object in global memory, or the fault. -/
def State.stewardBarrier (s : State) (va : Nat) (k : Access) : State × Except State Piece :=
  if va % 16 ≠ 0 then (s, .error (s.trapAt .alignment va))
  else
    match s.checkAccess s.me va 16 k true (decide (k = .write)) with
    | (s1, .fault c a r) => (s1, .error (s1.accessFault va c a r))
    | (s1, .ok x) =>
      match x.pieces with
      | [pc] =>
        if (List.range 16).any fun i => s1.byteBad s.me.core (pc.pa + i) then (s1, .error (s1.accessFault va .memoryError 0 false))
        else (s1, .ok pc)
      | _ => (s1, .error (s1.trapAt .protection va))

/-- Completes a steward core's event once it has been applied: the old phase goes to `d`, if there is one. -/
def State.stewardEventEnd (s : State) (d : Option (BitVec 6)) : State :=
  match s.me.heldResult with
  | none => s
  | some v =>
    let s1 := s.upd fun q => { q with heldResult := none }
    match d with
    | some d => s1.alu d v
    | none => s1.adv

/-- A steward core's barrier event: applied at the object's home slice, where it may be held (R164), or refused while the
slice's queue is full (R168). An arrival releases at DEVICE first. -/
def State.stewardEvent (s : State) (va kind : Nat) (operand : DWord) (d : Option (BitVec 6)) : State :=
  if s.me.heldResult.isSome then s.stewardEventEnd d
  else
    match s.stewardBarrier va .write with
    | (_, .error t) => t
    | (s1, .ok pc) =>
      if s1.refusedWrite (pc.pa / 128) then s
      else
        let go (s2 : State) : State :=
          let s3 := s2.upd fun q => { q with stallOn := [s2.fresh] }
          ((({ s3 with fresh := s3.fresh + 1 } : State).homeApply (.barrier pc.pa kind operand s.ownerOf)
            (.barrier s.actor))).stewardEventEnd d
        s1.afterDirty s1.me.core [pc] fun s1 => if kind = 1 then s1.afterRelease s1.me.core .device go else go s1

/-- A steward core's wait or test: `k` goes on with the phase, the line with its address, and the object. -/
def State.stewardPhase (s : State) (va : Nat) (k : State → Nat → List (Nat × Nat) → Place → State) : State :=
  match s.stewardBarrier va .read with
  | (_, .error t) => t
  | (s1, .ok pc) =>
    let (s2, bs) := s1.homeRead pc.pa 16
    k s2 (BarrierObj.ofBytes bs).phase [(pc.pa / 128, va)] (.mem pc.pa)

/-! ## On a compute core -/

/-- An event of a group, precise: on a fault nothing is changed. `rel`: an arrival releases first (R226). -/
def State.groupEvent (s : State) (v : DWord) (ev : BarrierEvent) (rel : Bool) (d : Option (BitVec 6)) : State :=
  match s.barrierPlace s.actor v with
  | .error c => s.trap c
  | .ok pl =>
    if rel && !s.me.settled then s
    else if s.storeBad 16 pl && !(match ev with | .init _ _ _ => true | _ => false) then s.trap pl.errClass
    else
      match s.barrierEvent pl ev with
      | .error c => s.trap c
      | .ok _ =>
        let go (s0 : State) : State :=
          let old := (s0.barrierAt pl).phase
          match s0.barrierEvent pl ev with
          | .error c => s.trap c
          | .ok s1 =>
            match d with
            | some d => s1.alu d (dw old)
            | none => s1.adv
        if rel then s.afterRelease s.me.core pl.scope go else go s

/-- The scope of a wait on phase n of an object (R226, R254). -/
def State.waitScope (s : State) (pl : Place) (n : Nat) : Scope :=
  if s.countedIn pl n then .device else pl.scope

/-! ## Instructions -/

/-- R254 sub 0. -/
def execBinit (a b : BitVec 6) (s : State) : Out :=
  s.scalar [] [a, b] fun s =>
    let v := (s.rd b).toNat
    if 2 ^ 17 ≤ v then s.trap .illegal
    else if s.actor.isSteward then s.stewardEvent (s.rd a).toNat 0 (s.rd b) none
    else s.groupEvent (s.rd a) (.init (v % 65536) (decide (v / 65536 = 1)) s.ownerOf) false none

/-- R254 sub 1: an arrival. -/
def execBarrive (d a b : BitVec 6) (s : State) : Out :=
  s.scalar [d] [a, b] fun s =>
    let v := (s.rd b).toNat
    if 65536 ≤ v then s.trap .illegal
    else if s.actor.isSteward then
      if s.me.settled then s.stewardEvent (s.rd a).toNat 1 (s.rd b) (some d) else s
    else s.groupEvent (s.rd a) (.arrive v) true (some d)

/-- R254 sub 2. An operand outside the signed range of the count raises class 0x0A. -/
def execBexpect (a b : BitVec 6) (s : State) : Out :=
  s.scalar [] [a, b] fun s =>
    let n := (s.rd b).toInt
    if s.actor.isSteward then
      if !inPending n then s.trap .barrierOverflow else s.stewardEvent (s.rd a).toNat 2 (s.rd b) none
    else
      match s.barrierPlace s.actor (s.rd a) with
      | .error c => s.trap c
      | .ok _ => if !inPending n then s.trap .barrierOverflow else s.groupEvent (s.rd a) (.expect n) false none

/-- What a party that waits on a phase of an object has observed since it blocked. -/
def Party.observed (q : Party) (pl : Place) (n : Nat) : Option (Nat × Bool) :=
  match q.waitsOn with
  | some w => if w.place = pl ∧ w.phase = n then w.seen else none
  | none => none

/-- The acting party blocks on a phase of an object; a wait that goes on keeps what it has observed. -/
def State.blockOn (s : State) (pl : Place) (n : Nat) : State :=
  s.upd fun q =>
    match q.waitsOn with
    | some w => if w.place = pl ∧ w.phase = n then q else { q with waitsOn := some ⟨pl, n, none⟩ }
    | none => { q with waitsOn := some ⟨pl, n, none⟩ }

/-- R254 sub 3: waits while the phase is n, then acquires. -/
def execBwait (d a b : BitVec 6) (s : State) : Out :=
  s.scalar [d] [a, b] fun s =>
    let v := (s.rd b).toNat
    if 256 ≤ v then s.trap .illegal
    else if s.actor.isSteward then
      s.stewardPhase (s.rd a).toNat fun s1 ph lines pl =>
        let back (s1 : State) (ph : Nat) : State :=
          (s1.upd fun q => { q with waitsOn := none }).acquire s1.actor .device lines (.load d.toNat 0 3 [] (dw ph))
        match s1.me.observed pl v with
        | some x => back s1 x.1
        | none => if ph = v then s.blockOn pl v else back s1 ph
    else
      match s.barrierPlace s.actor (s.rd a) with
      | .error c => s.trap c
      | .ok pl =>
        let ph := (s.barrierAt pl).phase
        let back (sc : Scope) (ph : Nat) : State :=
          (s.upd fun q => { q with waitsOn := none }).acquire s.actor sc [] (.load d.toNat 0 3 [] (dw ph))
        if s.storeBad 16 pl then s.trap pl.errClass
        else
          match s.me.observed pl v with
          | some (n, dev) => back (if dev then .device else pl.scope) n
          | none => if ph = v then s.blockOn pl v else back (s.waitScope pl v) ph

/-- R254 sub 4: does not wait. -/
def execBtest (d a b : BitVec 6) (s : State) : Out :=
  s.scalar [d] [a, b] fun s =>
    let v := (s.rd b).toNat
    if 256 ≤ v then s.trap .illegal
    else if s.actor.isSteward then
      s.stewardPhase (s.rd a).toNat fun s1 ph lines _ =>
        if ph = v then s1.alu d 0 else s1.acquire s1.actor .device lines (.load d.toNat 0 3 [] 1)
    else
      match s.barrierPlace s.actor (s.rd a) with
      | .error c => s.trap c
      | .ok pl =>
        let ph := (s.barrierAt pl).phase
        if s.storeBad 16 pl then s.trap pl.errClass
        else if ph = v then s.alu d 0
        else s.acquire s.actor (s.waitScope pl v) [] (.load d.toNat 0 3 [] 1)

/-! ## Batches (R227, R228, R256) -/

/-- Closed batches that are incomplete. -/
def Party.openBatches (q : Party) : Nat := (q.batch + 256 - q.batchDone) % 256

/-- R227. -/
def execBatch (d : BitVec 6) (s : State) : Out :=
  s.laneOnly (s.scalar [d] [] fun s =>
    let q := s.me
    if 128 ≤ q.openBatches then s
    else (s.upd fun q => { q with batch := (q.batch + 1) % 256 }).alu d (dw q.batch))

/-- R228. -/
def State.bbwait (s : State) (n : Nat) : State :=
  let q := s.me
  let k := (q.batch + 256 - n) % 256
  if k = 0 then s.trap .illegal
  else if 128 < k then s.adv
  else if k ≤ q.openBatches then s
  else s.acquire s.actor .device [] .next

def execBbwaitReg (a : BitVec 6) (s : State) : Out :=
  s.laneOnly (s.scalar [] [a] fun s =>
    if 256 ≤ (s.rd a).toNat then s.trap .illegal else s.bbwait (s.rd a).toNat)

def execBbwaitImm (n : BitVec 8) (s : State) : Out := s.laneOnly (.next (s.bbwait n.toNat))

end Sys2Proof.Machine
end

