-- ==== Sys2Proof/Machine/Cluster.lean ====
section
/-!
DEFINITION. The CLU family: sharing groups of a cluster (R191 to R194).
-/

namespace Sys2Proof.Machine

/-- The members of a sharing group. -/
def State.sharers? (s : State) (part cl g : Nat) : List Workgroup :=
  s.workgroups.filter fun w => decide (w.part = part) &&
    match w.sharing with
    | some (c, h, _) => decide (c = cl ∧ h = g)
    | none => false

/-- Member m of a sharing group is mapped. -/
def State.memberMapped (s : State) (part cl g m : Nat) : Bool :=
  (s.sharers? part cl g).any fun w => decide (w.sharing = some (cl, g, m))

/-- Ends a workgroup's membership (R192). -/
def State.leave (s : State) (part wg : Nat) : State := s.updWg part wg fun w => { w with sharing := none }

/-- R191. -/
def execCjoin (d a : BitVec 6) (s : State) : Out :=
  s.laneOnly (s.scalar [d] [a] fun s =>
    let g := (s.rd a).toNat
    if 16 ≤ g then s.trap .illegal
    else
      match s.wgOf s.actor with
      | none => s
      | some w =>
        match w.sharing with
        | some (_, h, m) => if h = g then s.alu d (dw m) else s.trap .cluster
        | none =>
          let cl := clusterOfCore w.core
          match firstBelow 4 fun m => !s.memberMapped w.part cl g m with
          | none => s.alu d (BitVec.allOnes 64)
          | some m => (s.updWg w.part w.id fun w => { w with sharing := some (cl, g, m) }).alu d (dw m))

/-- R192. -/
def execCleave (s : State) : Out :=
  s.laneOnly (.next (match s.wgOf s.actor with
    | none => s.adv
    | some w => (s.leave w.part w.id).adv))

/-- R193. -/
def execCquery (d : BitVec 6) (s : State) : Out :=
  s.laneOnly (s.scalar [d] [] fun s =>
    match s.wgOf s.actor with
    | none => s.alu d 0
    | some w =>
      match w.sharing with
      | none => s.alu d 0
      | some (cl, g, m) =>
        let present := (List.range 4).foldl (fun n i => n + (s.memberMapped w.part cl g i).toNat * 2 ^ i) 0
        s.alu d (dw (g * 2 ^ 8 + 64 + m * 16 + present)))

end Sys2Proof.Machine
end

