-- ==== Sys2Proof/Machine/Coherence.lean ====
section
/-!
DEFINITION. The steps that the merge state, home slices and home directories take on their own (R147, R151, R152, R155 to R157,
R314 to R317).
-/

namespace Sys2Proof.Machine

/-! ## Merge state (R147) -/

/-- R147. `args.x` is the core and `args.y` the line: a store of that core waits to merge, and the home accepts the notice or
refuses it. -/
def execDirtyNotice (s : State) : Out :=
  let line := s.args.y
  let waits := s.parties.any fun q => decide (q.core = s.args.x) && q.sq.any fun e =>
    match e.body with
    | .store a _ => decide (a.pa / 128 = line ∧ (e.scope = .group ∨ e.scope = .core))
    | _ => false
  .next (if waits && !s.refusesDirty line then { s with dirtyHolders := addNew (line, s.args.x) s.dirtyHolders } else s)

/-- R147, R154. `args.level` is the core's L1 or a composed cache; `args.x` is the core, `args.y` a physical address:
its byte drains to the next level, or with `args.flag` every dirty byte of its line. -/
def execDirtyByteDrain (s : State) : Out :=
  let here (pa : Nat) : Bool := if s.args.flag then decide (pa / 128 = s.args.y / 128) else decide (pa = s.args.y)
  .next (if s.holds .sram s.args.x then s
  else match s.args.level with
  | .l1 => s.drainL1 s.args.x fun d => here d.pa
  | .composed id => s.drainCaches (fun i => decide (i = id)) (fun d => decide (d.core = s.args.x) && here d.pa) none)

/-- The L1 clean copy of a line filled from the page's composed cache `cc`, or from L2, under the core's own dirty
bytes, once the L1 has room for it (R8). -/
def State.fillL1 (s : State) (core line cc : Nat) : State :=
  let s0 := (s.updCore core fun c => { c with clean := c.clean.filter fun l => decide (l.line ≠ line) }).roomL1 core line
  if (s0.core core).l1Room line then
    let (s1, bs) := s0.loadBase core (s0.partOfCore core) .core false ⟨line * 128, 128, cc, none⟩
    let bs := s1.ownOverlay core (line * 128) bs
    s1.updCore core fun c => { c with clean := c.clean ++ [⟨line, bs⟩] }
  else s0

/-- R147. `args.level` is the core's L1 or a composed cache, `args.x` the core, `args.y` the line of 128 bytes and
`args.z` the composed cache of its page for an L1 fill. Bytes with an uncorrected error are not filled, nor a marked line. -/
def execCleanCopyFill (s : State) : Out :=
  let line := s.args.y
  .next (if !lineExists line || s.marked line || decide (Config.allCores ≤ s.args.x) then s
  else
    match s.args.level with
    | .l1 =>
      let part := s.partOfCore s.args.x
      if s.loadHolds s.args.x part .core false ⟨line * 128, 128, s.args.z, none⟩ ||
          (List.range 128).any (fun i => s.loadBad s.args.x part .core false s.args.z (line * 128 + i)) then s
      else s.fillL1 s.args.x line s.args.z
    | .composed id =>
      let die := id.cluster / 8
      if s.dieHolds .sram die || ((s.dieCopy? die line).isNone && s.homeHolds die (line * 128)) ||
          (List.range 128).any (fun i => s.l2Bad die (line * 128 + i)) then s
      else s.fillCache id die (line * 128))

/-- R147. `args.level` is the core's L1 or a composed cache, `args.x` the core and `args.y` the line of 128 bytes. -/
def execCleanCopyDrop (s : State) : Out :=
  let line := s.args.y
  .next (match s.args.level with
  | .l1 => s.updCore s.args.x fun c => { c with clean := c.clean.filter fun l => decide (l.line ≠ line) }
  | .composed id => s.updCache id fun c =>
      { c with clean := c.clean.filter fun l => !meets (l.line * c.lineBytes) c.lineBytes (line * 128) 128 })

/-! ## Commanded drains (R151, R152) -/

/-- R152. `args.x` is the number of the drain in the list of commands: its core drains the bytes it names, to L2, and has
drained when none of them is left above it. -/
def execCommandedDrain (s : State) : Out :=
  .next (match s.drains[s.args.x]? with
  | none => s
  | some d =>
    if d.drained || s.holds .sram d.core then s
    else
      let s1 := s.drainCore d.core d.stamp
      if s1.dirtyLeft d.core (upTo d.stamp) then s1
      else { s1 with drains := updAll (fun x => decide (x = d)) (fun x => { x with drained := true }) s1.drains })

/-- R151, R152. `args.x` is the number of a drain that its core has performed: the home drops the core's records that it
covers, and the acquire that waits for nothing more completes. -/
def execDrainConfirmation (s : State) : Out :=
  .next (match s.drains[s.args.x]? with
  | none => s
  | some d =>
    if !d.drained || s.drainsHeld d.core then s
    else
      let covered (r : LazyRec) : Bool := decide (r.line = d.line ∧ r.core = d.core) &&
        match d.stamp with
        | none => true
        | some n => decide (r.seq ≤ n)
      State.settleAcquires
        { s with drains := s.drains.eraseIdx s.args.x, lazy := s.lazy.filter fun r => !covered r } d.acquirer)

/-! ## Copies across dies (R155, R314, R315) -/

/-- R155. `args.x` is the die that asks for a copy of line `args.y`. `args.flag`: a holder in M or O forwards its data and
keeps O. -/
def execDieReadRequest (s : State) : Out :=
  let die := s.args.x
  let line := s.args.y
  .next (if 4 ≤ die ∨ homeDie (line * 128) = die ∨ s.marked line ∨ lineExists line = false ∨ s.homeHolds die (line * 128) then s
  else s.dieRead die line s.args.flag)

/-- A write request whose acknowledgements are in is granted, once the devices that share the line have dropped their copies
too and no write to it is held (R156); refused where the line is watched or marked. -/
def State.grantDie (s : State) (die line : Nat) : State :=
  let s1 : State := { s with dieRequests := s.dieRequests.filter fun r => !(decide (r.die = die) && decide (r.line = line)) }
  if s1.refusesDirty line then s1
  else if s1.lineFree line then s1.dieOwn die line
  else s.askSharers line

/-- The write requests that wait for no die are granted, where they can be. -/
def State.grantDies (s : State) : State :=
  (s.dieRequests.filter fun r => r.waits.isEmpty).foldl (fun s r => s.grantDie r.die r.line) s

/-- R155. `args.x` is the die that asks for M of line `args.y`: the directory invalidates every other copy and collects the
acknowledgements. A request that waits only for devices or held writes asks again. -/
def execDieWriteRequest (s : State) : Out :=
  let die := s.args.x
  let line := s.args.y
  .next (if 4 ≤ die ∨ homeDie (line * 128) = die ∨ s.refusesDirty line ∨ lineExists line = false ∨ s.homeHolds die (line * 128) then s
  else if s.dieRequests.any (fun r => decide (r.die = die ∧ r.line = line)) then s.grantDies
  else
    let others := ((s.holders line).filter fun c => decide (c.die ≠ die)).map (·.die)
    State.grantDies { s with dieRequests := s.dieRequests ++ [⟨die, line, others⟩] })

/-- R315. `args.x` is the die that has been asked to drop line `args.y`: its L2 copy and its clean copies go, and it
acknowledges. A holder in M or O is the last to, and forwards its data (R316). -/
def execDieInvalidationAck (s : State) : Out :=
  let die := s.args.x
  let line := s.args.y
  .next (if !(s.dieRequests.any fun r => decide (r.line = line ∧ die ∈ r.waits)) then s
  else
    let forwards := ((s.dieCopy? die line).map DieCopy.isDirty).getD false && !s.refusesDirty line
    let last := s.dieRequests.all fun r => decide (r.line ≠ line ∨ die ∉ r.waits ∨ r.waits = [die])
    if forwards && !(last && s.lineFree line) then s.askSharers line
    else
      let s1 := if forwards then s else (s.dropCopy die line).dropClean die line
      State.grantDies
        { s1 with dieRequests := s1.dieRequests.map fun r =>
            if r.line = line then { r with waits := r.waits.filter fun d => decide (d ≠ die) } else r })

/-- R155. `args.x` is the die that gives up its copy of line `args.y`. -/
def execDieCopyEviction (s : State) : Out := .next (s.dropCopy s.args.x s.args.y)

/-! ## Copies across devices (R156, R157) -/

/-- R156. `args.x` is the device that has dropped its S copy of line `args.y`: writes held for it may go on. -/
def execFabricInvalidationAck (s : State) : Out :=
  .next (State.settleWrites { s with sharers := s.sharers.filter fun x => decide (x ≠ (s.args.y, s.args.x)) }).grantDies

/-- R157. `args.x` is the device: the switch fences it for this module's home range and counts it as acknowledged.
`args.flag`: this module is the one that is fenced, for the home range of that device. -/
def execDeviceFenced (s : State) : Out :=
  .next (if s.args.flag then { s with fencedAt := addNew s.args.x s.fencedAt }
  else State.settleWrites
    { s with
      fenced := addNew s.args.x s.fenced
      sharers := s.sharers.filter fun x => decide (x.2 ≠ s.args.x) } |>.grantDies)

/-- R157. `args.x` is the device, which has dropped its S copies and is readmitted. `args.flag`: this module is readmitted to
the home range of that device, and drops its S copies first. -/
def execFencedDeviceReadmission (s : State) : Out :=
  .next (if s.args.flag then
    { s with
      fencedAt := s.fencedAt.filter fun d => decide (d ≠ s.args.x)
      remoteCopies := s.remoteCopies.filter fun c => decide (c.device ≠ s.args.x) }
  else { s with fenced := s.fenced.filter fun d => decide (d ≠ s.args.x) })

end Sys2Proof.Machine
end

