-- ==== Sys2Proof/Machine/Engine.lean ====
section
/-!
DEFINITION. What the engine commands share: FENCE.ENG (R160), the budgets of the tree of control blocks (R213), bounding
ranges (R159) and executable pages (R169).
-/

namespace Sys2Proof.Machine

/-- Engine commands wait behind the store-queue entries that a FENCE.ENG named (R160). -/
def Party.engHeld (q : Party) : Bool :=
  match q.engFence with
  | none => false
  | some n => q.sq.any fun e => decide (e.id < n)

/-! ## Budgets (R211, R213) -/

def Region.key (r : Region) : WorkKey := ⟨r.part, r.launch, r.rung⟩

/-- A rung: of its ladder, or as a workgroup that outlives the ladder keeps it. -/
def State.rungOfKey (s : State) (k : WorkKey) : Option Rung :=
  k.rung.bind fun r =>
    match ((s.ladder? k.part r.1).map (·.rungs)).bind fun l => l[r.2]? with
    | some x => some x
    | none => s.workgroups.findSome? fun w => if w.key = k then w.rungOwn else none

/-- The regions above a launch or rung, nearest first. -/
def State.chainOf (s : State) (k : WorkKey) : List Nat :=
  match k.rung with
  | some _ => ((s.rungOfKey k).map (·.chain)).getD []
  | none => ((s.launch? k.part k.launch).map (·.chain)).getD []

def State.rcbOfKey (s : State) (k : WorkKey) : Option Rcb :=
  match k.rung with
  | some _ => (s.rungOfKey k).map (·.rcb)
  | none => (s.launch? k.part k.launch).map (·.rcb)

/-- The values of a region as they were read (R214). -/
def State.regionRcb (s : State) (part addr : Nat) : Option Rcb :=
  (s.regionValues.find? fun v => decide (v.part = part ∧ v.addr = addr)).map (·.rcb)

/-- Taking `n` more of what a field of the control blocks bounds keeps every bound: of the launch itself, and of each
region of its chain over everything beneath it. A field of 0 inherits. `usage` counts what the chosen work holds. -/
def State.budgetOk (s : State) (k : WorkKey) (field : Rcb → Nat) (usage : (WorkKey → Bool) → Nat) (n : Nat) : Bool :=
  let ok (bound used : Nat) : Bool := decide (bound = 0) || decide (used + n ≤ bound)
  ok (((s.rcbOfKey k).map field).getD 0) (usage fun x => decide (x = k)) &&
    (s.chainOf k).all fun a =>
      ok (((s.regionRcb k.part a).map field).getD 0) (usage fun x => decide (x.part = k.part) && decide (a ∈ s.chainOf x))

/-- Copies of groups that are in flight under the chosen work. -/
def State.copiesUnder (s : State) (f : WorkKey → Bool) : Nat :=
  (s.copies.filter fun c => !c.steward && ((s.wg? c.part c.wg).map fun w => f w.key).getD false).length

/-- Accumulator lines marked under the chosen work. -/
def State.linesUnder (s : State) (f : WorkKey → Bool) : Nat := 512 * (s.regions.filter fun r => f r.key).length

/-! ## Bounding ranges (R159, R179) -/

/-- The lowest address and the end of a strided array. -/
def hull (base : Int) (elem : Nat) (dims : List (Nat × Int)) : Int × Int :=
  dims.foldl (fun h d =>
    let x := ((d.1 : Int) - 1) * d.2
    if x < 0 then (h.1 + x, h.2) else (h.1, h.2 + x)) (base, base + elem)

/-- The displacement of element i: dimension 0 varies fastest (R179). -/
def elemOffset : List (Nat × Int) → Nat → Int
  | [], _ => 0
  | (ext, st) :: r, i => ((i % ext : Nat) : Int) * st + elemOffset r (i / ext)

/-- A hull of global addresses is canonical (R31). -/
def hullCanonical (h : Int × Int) : Bool := decide (-(2 ^ 56 : Nat) ≤ h.1) && decide (h.2 ≤ (2 ^ 56 : Nat))

/-- A hull as a range of the lock table: start and length. -/
def hullRange (space : Nat) (h : Int × Int) : Nat × Nat :=
  (biased space (ofSigned 64 h.1), (h.2 - h.1).toNat)

/-- Some present page of a global range is executable (R169). The leaves are read and not marked. -/
def State.anyExec (s : State) (u : UnitCtx) (va n : Nat) : Bool :=
  !u.physical && (cutAt 65536 (n / 65536 + 2) va n).any fun c =>
    match (s.walk (c.1 % 2 ^ 64) u.root walkLevels).2 with
    | .ok l => decide (bitsOf l.entry 3 3 = 1)
    | .error _ => false

/-- A range of the cluster window lies in mapped shares and granted scratch banks (R180). -/
def State.windowRange (s : State) (w : Workgroup) (lo n : Nat) : Bool :=
  (cutAt Config.bankBytes (n / Config.bankBytes + 2) lo n).all fun c => (s.windowPlace w c.1 c.2).isSome

/-! ## A fault after issue (R122, R182) -/

/-- A command or copy that faults after issue parks its group at its next boundary: the record holds the address and the
scalar PC of the command, which is replayable (R122, R182). `event`: flag bit 1, which R182 gives the record of a copy in every row. -/
def State.commandFault (s : State) (p : PartyId) (cls : FaultClass) (addr : DWord) (pc : DWord) (event : Bool) : State :=
  s.faultAs p cls .command { addr := addr, addr2 := pc, replayable := true, unfinished := 0, laneAddr := none } event

/-- A page fault of a copy or drain leaves its group running: an event record, which is replayable (R182, R141). -/
def State.commandEvent (s : State) (p : PartyId) (addr : DWord) (pc : DWord) : State :=
  s.event p .pageAbsent { addr := addr, addr2 := pc, replayable := true, unfinished := 0, laneAddr := none } true

end Sys2Proof.Machine
end

