-- ==== Sys2Proof/Machine/Copies.lean ====
section
/-!
DEFINITION. The COPY family and the copy engine's steps (R160, R161, R178 to R186).
-/

namespace Sys2Proof.Machine

/-! ## The descriptor (R179) -/

structure CopyDesc where
  src : Nat
  dst : Nat
  elem : Nat
  zero : Bool
  srcSpace : Nat
  dstSpace : Nat
  dims : List (Nat × Int × Int)
deriving DecidableEq, Repr

def CopyDesc.srcDims (c : CopyDesc) : List (Nat × Int) := c.dims.map fun d => (d.1, d.2.1)
def CopyDesc.dstDims (c : CopyDesc) : List (Nat × Int) := c.dims.map fun d => (d.1, d.2.2)
def CopyDesc.count (c : CopyDesc) : Nat := c.dims.foldl (fun n d => n * d.1) 1

def Copy.srcDims (c : Copy) : List (Nat × Int) := c.dims.map fun d => (d.1, d.2.1)
def Copy.dstDims (c : Copy) : List (Nat × Int) := c.dims.map fun d => (d.1, d.2.2)
def Copy.count (c : Copy) : Nat := c.dims.foldl (fun n d => n * d.1) 1

/-- A field of bytes: little-endian, from an offset. -/
def fieldAt (bs : List Byte) (off n : Nat) : Nat := le ((bs.drop off).take n)

/-- The number of dimensions that a header names; none where it is out of range. -/
def descDims (bs : List Byte) : Option Nat :=
  let n := fieldAt bs 17 1
  if 1 ≤ n ∧ n ≤ 16 then some n else none

/-- Reads a descriptor of `n` dimensions, or none where a field breaks R179. -/
def CopyDesc.ofBytes (bs : List Byte) (n : Nat) : Option CopyDesc :=
  let flags := fieldAt bs 18 2
  let elem := fieldAt bs 16 1
  let dims := (List.range n).map fun d =>
    (fieldAt bs (32 + 24 * d) 4, toSigned 64 (fieldAt bs (40 + 24 * d) 8), toSigned 64 (fieldAt bs (48 + 24 * d) 8))
  let zero := decide (flags / 16 % 2 = 1)
  let c : CopyDesc := ⟨fieldAt bs 0 8, fieldAt bs 8 8, elem, zero, flags % 4, flags / 4 % 4, dims⟩
  let ok := decide (elem = 1 ∨ elem = 2 ∨ elem = 4 ∨ elem = 8) && decide (flags < 32) && decide (fieldAt bs 20 12 = 0) &&
    decide (c.srcSpace ≠ 3 ∧ c.dstSpace ≠ 3) && dims.all (fun d => decide (1 ≤ d.1)) &&
    (List.range n).all (fun d => decide (fieldAt bs (36 + 24 * d) 4 = 0)) &&
    (!zero || (decide (c.src = 0) && dims.all fun d => decide (d.2.1 = 0)))
  if ok then some c else none

/-- Bases and strides are multiples of the element bytes (R180). -/
def CopyDesc.aligned (c : CopyDesc) : Bool :=
  decide (c.src % c.elem = 0) && decide (c.dst % c.elem = 0) &&
    c.dims.all fun d => decide (d.2.1 % (c.elem : Int) = 0) && decide (d.2.2 % (c.elem : Int) = 0)

/-- The base of one side as an integer: global addresses are signed. -/
def sideBase (space a : Nat) : Int := if space = 0 then toSigned 64 a else (a : Int)

def CopyDesc.srcHull (c : CopyDesc) : Int × Int := hull (sideBase c.srcSpace c.src) c.elem c.srcDims
def CopyDesc.dstHull (c : CopyDesc) : Int × Int := hull (sideBase c.dstSpace c.dst) c.elem c.dstDims

/-! ## Checks at issue (R180) -/

/-- The checks of one side's bounding range: class 0x06, then class 0x12. -/
def State.sideCheck6 (s : State) (p : PartyId) (space : Nat) (h : Int × Int) : Bool :=
  match space with
  | 0 => hullCanonical h
  | 1 => decide (0 ≤ h.1) && s.inShare p h.1.toNat (h.2 - h.1).toNat
  | _ => decide (0 ≤ h.1) && decide (h.2 ≤ (Config.windowBytes : Nat))

def State.sideCheck12 (s : State) (p : PartyId) (space : Nat) (h : Int × Int) : Bool :=
  match space, s.wgOf p with
  | 2, some w => s.windowRange w h.1.toNat (h.2 - h.1).toNat
  | 2, none => false
  | _, _ => true

/-- A range meets the destination range of an uncompleted copy or matrix command of the core (R180, R120). -/
def State.rangeTaken (s : State) (core space : Nat) (r : Nat × Nat) : Bool :=
  (s.copies.any fun c => decide (c.core = core) && !c.steward && !c.saved && decide (c.dstSpace = space) &&
    meets r.1 r.2 c.dstRange.1 c.dstRange.2) ||
  (s.core core).matrix.any fun m =>
    (if space = 1 then m.writes else if space = 0 then m.globals else []).any fun x => meets r.1 r.2 x.1 x.2

/-- The class of the first check that fails, after the descriptor's own address. `barrier` is the barrier word. -/
def State.copyChecks (s : State) (q : Party) (c : CopyDesc) (barrier : DWord) : Except FaultClass (Option Place) :=
  let b := barrier.toNat
  let steward := q.id.isSteward
  let pl := if b = 0 then .ok none else (s.barrierPlace q.id barrier).map some
  let bad (k : FaultClass) : Bool :=
    match pl with
    | .error x => decide (x = k)
    | .ok _ => false
  let u := s.unitOf q
  let sh := c.srcHull
  let dh := c.dstHull
  let sr := hullRange c.srcSpace sh
  let dr := hullRange c.dstSpace dh
  if 2 ^ 26 ≤ b ∨ (b ≠ 0 ∧ 8388607 < c.elem * c.count) ∨ (steward ∧ (b ≠ 0 ∨ c.srcSpace ≠ 0 ∨ c.dstSpace ≠ 0)) then
    .error .illegal
  else if !c.aligned || bad .alignment then .error .alignment
  else if !(c.zero || s.sideCheck6 q.id c.srcSpace sh) || !s.sideCheck6 q.id c.dstSpace dh || bad .protection ||
      (decide (c.dstSpace = 0) && s.anyExec u (ofSigned 64 dh.1) (dh.2 - dh.1).toNat) then .error .protection
  else if !(c.zero || s.sideCheck12 q.id c.srcSpace sh) || !s.sideCheck12 q.id c.dstSpace dh || bad .cluster then
    .error .cluster
  else if (!c.zero && decide (c.srcSpace = c.dstSpace) && meets sr.1 sr.2 dr.1 dr.2) ||
      (!steward && ((!c.zero && s.rangeTaken q.core c.srcSpace sr) || s.rangeTaken q.core c.dstSpace dr)) then
    .error .rangeLock
  else pl

/-! ## TCOPY (R178 to R184) -/

/-- Entries of a core's range-lock table in use (R8, R120, R159). -/
def State.lockEntries (s : State) (core : Nat) : Nat :=
  2 * (s.copies.filter fun c => decide (c.core = core) && !c.steward && !c.saved).length +
    ((s.core core).matrix.map fun m => m.globals.length).sum

/-- Tags issued to a party's workgroup (R186). -/
def State.tagsOf (s : State) (q : Party) : List Nat :=
  match s.wgOf q.id with
  | some w => w.groups.flatMap fun g => (s.party g).copyTags
  | none => q.copyTags

/-- The generation of a reused slot: one more each time; a value that would repeat a tag of the workgroup, issued on
another core, is passed over, since no tag of a workgroup names two copies (R178, R183). -/
def freeGen (slot : Nat) (tags : List Nat) : Nat → Nat → Nat
  | 0, g => g
  | f + 1, g => if g * 512 + slot ∈ tags then freeGen slot tags f ((g + 1) % 2 ^ 23) else g

/-- Starts a copy that has passed its checks: it takes the lowest free slot and its locks, and joins the open batch. -/
def State.copyBegin (s : State) (d : BitVec 6) (c : CopyDesc) (pl : Option Place) (off : Nat) : State :=
  let q := s.me
  let u := s.unitOf q
  let (part, wg) : Nat × Nat := match q.id with
    | .group p w _ => (p, w)
    | .steward _ => (0, 0)
  match firstBelow 512 fun k => !(s.copies.any fun x => decide (x.core = q.core ∧ x.slot = k) && !x.saved) with
  | none => s
  | some slot =>
    let tags := s.tagsOf q
    let g0 := match (s.core q.core).generations.find? fun x => decide (x.1 = slot) with
      | none => 0
      | some x => (x.2 + 1) % 2 ^ 23
    let g := freeGen slot tags tags.length g0
    let x : Copy :=
      { id := s.fresh, core := q.core, slot := slot, tagSlot := slot, generation := g, owner := q.id, part := part, wg := wg,
        batch := q.batch, steward := q.id.isSteward, space := u.space, root := u.root, pc := q.pc, src := c.src, dst := c.dst,
        elem := c.elem, dims := c.dims, srcSpace := c.srcSpace, dstSpace := c.dstSpace, zero := c.zero, barrier := pl,
        barrierOff := off, srcRange := hullRange c.srcSpace c.srcHull, dstRange := hullRange c.dstSpace c.dstHull,
        next := 0, done := [], pins := [], stopped := none, saved := false }
    (({ s.updCore q.core fun k => { k with generations := assocSet slot g k.generations } with
        copies := s.copies ++ [x]
        fresh := s.fresh + 1 } : State).upd fun q => { q with copyTags := q.copyTags ++ [g * 512 + slot] }).alu d
      (dw (g * 512 + slot))

/-- The descriptor's bytes are read; the fields are checked, then the rows of R180, then what may stall it. -/
def State.copyIssue (s : State) (d : BitVec 6) (at_ : Nat) (bs : List Byte) (n : Nat) (barrier : DWord) : State :=
  let q := s.me
  match CopyDesc.ofBytes bs n with
  | none => s.trapAt .illegal at_
  | some c =>
    match s.copyChecks q c barrier with
    | .error k => s.trap k
    | .ok pl =>
      let mine := (s.copies.filter fun x => decide (x.core = q.core) && !x.saved).length
      if mine ≥ (if q.id.isSteward then 64 else 512) then s
      else if !q.id.isSteward && decide (1024 < s.lockEntries q.core + 2) then s
      else
        match s.wgOf q.id with
        | some w =>
          if s.budgetOk w.key (·.budget) s.copiesUnder 1 then s.copyBegin d c pl (barrier.toNat % 2 ^ 25) else s
        | none => s.copyBegin d c pl 0

/-- A steward core's descriptor lies in global memory (R184). -/
def State.copySteward (s : State) (d : BitVec 6) (va : Nat) (barrier : DWord) : State :=
  if va % 64 ≠ 0 then s.trapAt .alignment va
  else
    s.readObject va 32 .core fun s1 bs =>
      match descDims bs with
      | none => s1.trapAt .illegal va
      | some n => s1.readObject va (32 + 24 * n) .core fun s2 bs => s2.copyIssue d va bs n barrier

/-- A group's descriptor lies in its share. -/
def State.copyGroup (s : State) (d : BitVec 6) (off : Nat) (barrier : DWord) : State :=
  let q := s.me
  let pl : Place := .store q.core off
  if off % 64 ≠ 0 then s.trapAt .alignment off
  else if !s.inShare q.id off 32 then s.trapAt .protection off
  else if s.storeBad 32 pl then s.trapAt .storeError off
  else
    match descDims (s.readPlace 32 pl) with
    | none => s.trapAt .illegal off
    | some n =>
      if !s.inShare q.id off (32 + 24 * n) then s.trapAt .protection off
      else if s.storeBad (32 + 24 * n) pl then s.trapAt .storeError off
      else s.copyIssue d off (s.readPlace (32 + 24 * n) pl) n barrier

/-- R178. -/
def execTcopy (d a b : BitVec 6) (s : State) : Out :=
  s.scalar [d] [a, b] fun s =>
    if s.me.engHeld || s.me.acquireBehind then s
    else if s.actor.isSteward then s.copySteward d (s.rd a).toNat (s.rd b)
    else s.copyGroup d (s.rd a).toNat (s.rd b)

/-! ## TPREF and TQUERY (R185, R186) -/

/-- R185. A hint: the clean copies that it may fill, the machine may fill at any time (R147). -/
def execTprefL2 (a b : BitVec 6) (s : State) : Out := s.scalar [] [a, b] fun s => s.adv

/-- R185. A hint, as TPREF.L2. -/
def execTprefCc (a b : BitVec 6) (s : State) : Out := s.scalar [] [a, b] fun s => s.adv

/-- R186. State 0 of a copy that the workgroup issued comes with a DEVICE acquire. -/
def execTquery (d a : BitVec 6) (s : State) : Out :=
  s.scalar [d] [a] fun s =>
    let q := s.me
    let t := (s.rd a).toNat
    if t ∈ s.tagsOf q then
      match s.copies.find? fun c => decide (c.generation * 512 + c.tagSlot = t) &&
          (match q.id with
           | .group p w _ => !c.steward && decide (c.part = p ∧ c.wg = w)
           | .steward _ => decide (c.owner = q.id)) with
      | some c => s.alu d (if c.stopped.isSome || c.saved then dw (c.next * 4 + 2) else 1)
      | none => s.acquire s.actor .device [] (.load d.toNat 0 3 [] 0)
    else s.alu d 0

/-! ## The engine's steps (R160, R161, R181, R182) -/

/-- The unit that translates for a copy (R272). -/
def Copy.unit (c : Copy) : UnitCtx := ⟨256 + c.core, c.space, c.root, !c.steward, c.steward && decide (c.root = 0)⟩

/-- The address of an element on one side. -/
def sideAddr (space a : Nat) (dims : List (Nat × Int)) (i : Nat) : Nat := ofSigned 64 (sideBase space a + elemOffset dims i)

/-- The partition of a copy, for its pages' composed caches. -/
def State.copyPart (s : State) (c : Copy) : Option Nat := if c.steward then s.partOfSpace c.space else some c.part

/-- Translates and checks one side of an element: pieces for a global side, none for a storage. -/
def State.copySide (s : State) (c : Copy) (space a : Nat) (k : Access) : State × Except FaultClass (List Piece) :=
  match space with
  | 0 =>
    (match s.xlate c.unit a c.elem k true with
     | (s1, .error (x, _)) => (s1, .error x)
     | (s1, .ok x) =>
       if s1.cacheAbsent (s1.copyPart c) c.core x.pieces then (s1, .error .cacheAbsent)
       else if k = .write then
         if x.pieces.any fun p => s1.marked (p.pa / 128) then (s1, .error .accumStore) else (s1, .ok x.pieces)
       else (s1, .ok x.pieces))
  | 1 => (s, .ok [])
  | _ => (s, if ((s.wg? c.part c.wg).bind fun w => s.windowPlace w a c.elem).isSome then .ok [] else .error .cluster)

/-- The bytes of an element, through the core's own view, or the class where one holds an uncorrected error as it is read
(R182). -/
def State.copyRead (s : State) (c : Copy) (i : Nat) (ps : List Piece) : State × Except FaultClass (List Byte) :=
  let a := sideAddr c.srcSpace c.src c.srcDims i
  let storage (pl : Place) : Except FaultClass (List Byte) :=
    if s.storeBad c.elem pl then .error pl.errClass else .ok (s.readPlace c.elem pl)
  if c.zero then (s, .ok (List.replicate c.elem 0))
  else
    match c.srcSpace with
    | 0 =>
      let (s1, bs, bad) := s.loadPieces (Party.blank c.owner c.core) (s.copyPart c) .core false none ps
      (s1, if bad then .error .memoryError else .ok bs)
    | 1 => (s, storage (.store c.core a))
    | _ =>
      match (s.wg? c.part c.wg).bind fun w => s.windowPlace w a c.elem with
      | some pl => (s, storage pl)
      | none => (s, .error .cluster)

/-- Element i as it was pinned; or it is translated, checked and read now: where its destination lies, and its bytes. A failing
element reports its address; none: it is not accepted yet (R326). -/
def State.copyPin (s : State) (c : Copy) (i : Nat) : State × Except (Option (FaultClass × Nat)) (List Piece × List Byte) :=
  let sa := sideAddr c.srcSpace c.src c.srcDims i
  let da := sideAddr c.dstSpace c.dst c.dstDims i
  match c.pins.find? fun p => decide (p.1 = i) with
  | some p => (s, .ok p.2)
  | none =>
    match if c.zero then (s, .ok []) else s.copySide c c.srcSpace sa .read with
    | (s1, .error k) => (s1, .error (some (k, sa)))
    | (s1, .ok ps) =>
      match s1.copySide c c.dstSpace da .write with
      | (s2, .error k) => (s2, .error (some (k, da)))
      | (s2, .ok ds) =>
        if ps.any (s2.loadHolds c.core (s2.copyPart c) .core false) || ds.any fun p => s2.homeHolds (dieOfCore c.core) p.pa then
          (s2, .error none)
        else
          match s2.copyRead c i ps with
          | (s3, .error k) => (s3, .error (some (k, sa)))
          | (s3, .ok bs) => (s3, .ok (ds, bs))

/-- Counts an element performed in a storage: its bytes leave the barrier's count (R225). -/
def State.copyLand (s : State) (c : Copy) (i : Nat) : State :=
  let s1 : State := { s with copies := updAll (fun x => decide (x.id = c.id)) (fun x => x.land i) s.copies }
  match c.barrier with
  | none => s1
  | some pl =>
    match s1.barrierEvent pl (.land c.elem) with
    | .ok s2 => s2
    | .error _ => s1

/-- Performs an element whose checks have passed, with its bytes. A global destination is written at its home slice, Dirty
set first (R160, R274). -/
def State.copyWrite (s : State) (c : Copy) (i : Nat) (bs : List Byte) (ds : List Piece) : State :=
  let a := sideAddr c.dstSpace c.dst c.dstDims i
  match c.dstSpace with
  | 0 =>
    (match ds with
     | [p] => s.afterDirty c.unit.unit ds fun s => s.homeApply (.write (cellsFrom p.pa bs)) (.copy c.id i)
     | _ => s)
  | 1 => (s.writePlace bs (.store c.core a)).copyLand c i
  | _ =>
    match (s.wg? c.part c.wg).bind fun w => s.windowPlace w a c.elem with
    | some pl => (s.writePlace bs pl).copyLand c i
    | none => s

/-- Stops a copy in canonical order at its next element: what it has asked of home slices for later ones is taken back (R161,
R182). A class that parks its issuer waits for an instruction boundary of it. -/
def State.copyStop (s : State) (c : Copy) (k : FaultClass) (a : Nat) : State :=
  if k ≠ .pageAbsent ∧ (s.party c.owner).mayPark = false then s
  else
    let s1 : State :=
      { s with
        copies := updAll (fun x => decide (x.id = c.id)) (fun x => { x with stopped := some k, pins := [] }) s.copies
        held := s.held.filter fun h => match h.source with
          | .copy id _ => decide (id ≠ c.id)
          | _ => true }
    if k = .pageAbsent then s1.commandEvent c.owner (dw a) c.pc else s1.commandFault c.owner k (dw a) c.pc true

/-- Elements of a copy that are pinned and not performed: their bytes are reserved at its barrier. -/
def Copy.reserved (c : Copy) : List Nat := (c.pins.map (·.1)).filter fun j => decide (c.next ≤ j) && !decide (j ∈ c.done)

/-- The barrier of a copy would overflow if the elements up to i landed, with what is reserved for elements of copies that
later ones may have passed (R161, R225; log entry 60). -/
def State.copyOverflows (s : State) (c : Copy) (i : Nat) : Bool :=
  match c.barrier with
  | none => false
  | some pl =>
    let upTo := ((List.range (i + 1 - c.next)).map (c.next + ·)).filter fun j => !decide (j ∈ c.done)
    let mine := (c.reserved.foldl (fun l j => addNew j l) upTo).length * c.elem
    let others := ((s.copies.filter fun x => decide (x.id ≠ c.id ∧ x.barrier = some pl)).map fun x => x.reserved.length * x.elem).sum
    !inPending ((s.barrierAt pl).waiting - (mine + others : Nat))

/-- An element of a copy is pinned. -/
def State.setPin (s : State) (id j : Nat) (x : List Piece × List Byte) : State :=
  { s with copies := updAll (fun c => decide (c.id = id)) (fun c =>
      { c with pins := (j, x) :: c.pins.filter fun p => decide (p.1 ≠ j) }) s.copies }

/-- Elements from the first not performed up to i that are neither performed nor pinned are pinned: element i may be
performed before them, since none of them can then fault. -/
def State.copyPinUpTo (s : State) (id : Nat) : List Nat → State × Bool
  | [] => (s, true)
  | j :: r =>
    match s.copy? id with
    | none => (s, false)
    | some c =>
      if j ∈ c.done then s.copyPinUpTo id r
      else
        match s.copyPin c j with
        | (_, .error _) => (s, false)
        | (s1, .ok x) => (s1.setPin id j x).copyPinUpTo id r

/-- An element is already on its way: its write is held. -/
def State.copyHeld (s : State) (id i : Nat) : Bool := s.held.any fun h => decide (h.source = .copy id i)

/-- A held element whose barrier can no longer count it is taken back; the copy stops at it if it is the next. -/
def State.copyTakeBack (s : State) (c : Copy) (i : Nat) : State :=
  if s.overflows (.copy c.id i) && decide (i = c.next) then s.copyStop c .barrierOverflow c.barrierOff else s

/-- The element that may be performed now: those before it and itself are pinned, its barrier can count it, and its home slice
takes the write. A failing one stops the copy once it is the next. -/
def State.copyStep (s : State) (c : Copy) (i : Nat) : State :=
  let stop (s1 : State) (k : FaultClass) (a : Nat) : State := if i = c.next then s1.copyStop c k a else s
  match s.copyPinUpTo c.id ((List.range (i - c.next)).map (c.next + ·)) with
  | (_, false) => s
  | (s0, true) =>
    match s0.copyPin c i with
    | (_, .error none) => s
    | (s1, .error (some (k, a))) => stop s1 k a
    | (s1, .ok (ds, bs)) =>
      if s1.copyOverflows c i then stop s1 .barrierOverflow c.barrierOff
      else if ds.any fun p => s1.refusedWrite (p.pa / 128) then s
      else (s1.setPin c.id i (ds, bs)).copyWrite c i bs ds

/-- R160. `args.x` is the copy, `args.y` the element. Elements may be performed in any order (R181); a copy that faults
has performed every element before the faulting one and none after it (R161). One into the cluster window performs them in order, since a
member may leave it at any time (log entry 60). -/
def execCopyElement (s : State) : Out :=
  let i := s.args.y
  .next (match s.copy? s.args.x with
  | none => s
  | some c =>
    if c.stopped.isSome || c.saved || decide (i < c.next) || decide (c.count ≤ i) || decide (i ∈ c.done) ||
        (decide (c.dstSpace = 2) && decide (i ≠ c.next)) || s.holds .sram c.core then s
    else if s.copyHeld c.id i then s.copyTakeBack c i
    else s.copyStep c i)

/-- R181. `args.x` is the copy: every element has been performed and counted. -/
def execCopyComplete (s : State) : Out :=
  .next { s with copies := s.copies.filter fun c =>
    !(decide (c.id = s.args.x) && decide (c.count ≤ c.next) && !c.saved && c.stopped.isNone) }

end Sys2Proof.Machine
end

