-- ==== Sys2Proof/Machine/Tacks.lean ====
section
/-!
DEFINITION. The TACK family (R187 to R190), the breaks that no write causes (R187 TOPO, R289), and the acknowledgement
of an unpick (R165).
-/

namespace Sys2Proof.Machine

/-! ## The descriptor (R187) -/

structure TackDesc where
  kind : TackKind
  base : Nat
  length : Nat
  value : Nat
deriving DecidableEq, Repr

/-- Reads a descriptor, or none where a field breaks R187. -/
def TackDesc.ofBytes (bs : List Byte) : Option TackDesc :=
  let base := le ((bs.drop 8).take 8)
  let length := le ((bs.drop 16).take 8)
  let value := le ((bs.drop 24).take 8)
  let d (k : TackKind) : TackDesc := ⟨k, base, length, value⟩
  if 256 ≤ le (bs.take 8) then none
  else
    match le (bs.take 1) with
    | 1 => if 1 ≤ length ∧ length ≤ 16777216 ∧ value = 0 then some (d .ro) else none
    | 2 => if 1 ≤ length ∧ length ≤ 16777216 ∧ value = 0 then some (d .own) else none
    | 3 =>
      if (length = 4 ∧ base % 4 = 0 ∧ value < 2 ^ 32) ∨ (length = 8 ∧ base % 8 = 0) then some (d .val) else none
    | 4 => if base = 0 ∧ length = 0 ∧ value = 0 then some (d .topo) else none
    | _ => none

/-! ## The registry -/

/-- The partition of a party as the registry sees it. -/
def State.tackPart (s : State) (q : Party) : Nat := (s.partOf q).getD 0

/-- The launch of a party, if it is a group of one: a rung RCB is a launch too (R232). -/
def State.launchOf (s : State) (p : PartyId) : Option WorkKey :=
  (s.wgOf p).map Workgroup.key

def State.tackAt (s : State) (i : Nat) : Option Tack := s.tacks.find? fun t => decide (t.index = i)

/-- The tack of a valid handle of the party's partition. -/
def State.tackOf (s : State) (q : Party) (h : DWord) : Option Tack :=
  if 2 ^ 32 ≤ h.toNat then none
  else
    s.tacks.find? fun t => decide (t.index = h.toNat % 4096 ∧ t.generation = h.toNat / 4096 ∧ t.state ≠ .free) &&
      decide (t.part = s.tackPart q)

def State.updTack (s : State) (i : Nat) (f : Tack → Tack) : State :=
  { s with tacks := updAll (fun t => decide (t.index = i)) f s.tacks }

def Tack.holder? (t : Tack) (p : PartyId) : Bool := t.holders.any fun h => decide (h.p = p)

/-- The lowest index that no tack holds. -/
def State.freeTack (s : State) : Option Nat :=
  firstBelow 4096 fun i => !(s.tacks.any fun t => decide (t.index = i) && decide (t.state ≠ .free))

/-- Failure codes of R188 to R190: all ones less n. -/
def failCode (n : Nat) : DWord := BitVec.allOnes 64 - dw n

/-- Drains and recalls before a watch on the lines of a range (R163). -/
def State.claimLines (s : State) (ps : List Piece) : State := ps.foldl (fun s p => s.claimLine (p.pa / 128)) s

/-- The page that a unit has translated for an address. -/
def State.pageOf (s : State) (u : UnitCtx) (va : Nat) : Nat × Nat :=
  match s.tlb.find? fun e => decide (e.unit = u.unit ∧ e.base ≤ va ∧ va < e.base + e.size) &&
      (decide (e.space = u.space) || e.leaf.getLsbD 6) with
  | some e => (e.base, e.size)
  | none => (va / 65536 * 65536, 65536)

/-- Steps 3 to 8 of R188, for a descriptor that is well formed. A line whose drain must wait (R156) has the instruction
wait. -/
def State.register (s : State) (d : BitVec 6) (t : TackDesc) : State :=
  let q := s.me
  let (s1, r) : State × Except (FaultClass × Nat) Xlat :=
    if t.length = 0 then (s, .ok ⟨[], true, true⟩) else s.xlate (s.unitOf q) t.base t.length .watch false
  match r with
  | .error (c, a) => s1.accessFault a c 0 (decide (c = .pageAbsent))
  | .ok x =>
    match s1.freeTack with
    | none => s1.alu d (failCode 0)
    | some i =>
      if x.pieces.any fun p => !lineExists (p.pa / 128) then s1.alu d (failCode 1)
      else if x.pieces.any fun p => s1.marked (p.pa / 128) then s1.alu d (failCode 3)
      else
        let s2 := s1.claimLines x.pieces
        if !(x.pieces.all fun p => s2.claimed (p.pa / 128)) then s2
        else
        let word := x.pieces.flatMap fun p => readBytes s2.mem p.pa p.len
        if t.kind = .val ∧ x.pieces.any (fun p => (List.range p.len).any fun i => s2.byteBad q.core (p.pa + i)) then
          s2.accessFault t.base .memoryError 0 false
        else if t.kind = .val ∧ le word ≠ t.value then s2.alu d (failCode 2)
        else
          let g := match s2.tackAt i with
            | none => 1
            | some o => (o.generation + 1) % 2 ^ 20
          let new : Tack :=
            { index := i, generation := g, state := .live, kind := t.kind, part := s2.tackPart q,
              launch := s2.launchOf q.id, base := t.base, length := t.length, value := dw t.value, watch := x.pieces,
              space := (s2.unitOf q).space,
              pages := (cutAt 65536 258 t.base t.length).map fun c => s2.pageOf (s2.unitOf q) c.1, holders := [] }
          ({ s2 with tacks := new :: s2.tacks.filter fun o => decide (o.index ≠ i) } : State).alu d (dw (g * 4096 + i))

/-! ## Instructions -/

/-- R188. -/
def execTacknew (d a : BitVec 6) (s : State) : Out :=
  s.scalar [d] [a] fun s =>
    let va := (s.rd a).toNat
    if va % 32 ≠ 0 then s.trapAt .alignment va
    else
      s.readObject va 32 .core fun s1 bs =>
        match TackDesc.ofBytes bs with
        | none => s1.trapAt .illegal va
        | some t => s1.register d t

/-- R189. -/
def execTackon (d a b : BitVec 6) (s : State) : Out :=
  s.scalar [d] [a, b] fun s =>
    let q := s.me
    let landing := s.rd b
    if landing.toNat % 4 ≠ 0 then s.trapAt .alignment landing.toNat
    else
      match s.tackOf q (s.rd a) with
      | none => s.alu d (failCode 4)
      | some t =>
        if t.state ≠ .live then s.alu d (failCode 5)
        else if !t.holder? q.id && decide (4 ≤ (s.tacks.filter fun x => x.holder? q.id).length) then s.alu d (failCode 6)
        else
          let s1 := s.updTack t.index fun t =>
            { t with holders := (t.holders.filter fun h => decide (h.p ≠ q.id)) ++ [⟨q.id, landing⟩] }
          s1.acquire s1.actor .device [] (.load d.toNat 0 3 [] 0)

/-- R190 sub 2. -/
def execTackoff (a : BitVec 6) (s : State) : Out :=
  s.scalar [] [a] fun s =>
    match s.tackOf s.me (s.rd a) with
    | none => s.adv
    | some t =>
      (s.updTack t.index fun t => { t with holders := t.holders.filter fun h => decide (h.p ≠ s.actor) }).adv

/-- R190 sub 3. -/
def execTackdrop (d a : BitVec 6) (s : State) : Out :=
  s.scalar [d] [a] fun s =>
    match s.tackOf s.me (s.rd a) with
    | none => s.alu d (failCode 4)
    | some t =>
      if !t.holders.isEmpty then s.alu d (failCode 7)
      else (s.updTack t.index fun t => { t with state := .free, watch := [] }).alu d 0

/-- R190 sub 4. -/
def execTackq (d a : BitVec 6) (s : State) : Out :=
  s.scalar [d] [a] fun s =>
    match s.tackOf s.me (s.rd a) with
    | none => s.alu d 0
    | some t =>
      let held := (s.held.filter fun h => s.breaks h.op h.source t).length
      let st := match t.state with
        | .free => 0 | .live => 1 | .breaking => 2 | .broken => 3
      s.alu d (dw (min held 65535 * 2 ^ 16 + min t.holders.length 255 * 2 ^ 8 + (t.holder? s.actor).toNat * 4 + st))

/-! ## Unpicks (R165) -/

/-- A load that must be issued again (R300). -/
def LaneAccess.stale (l : LaneAccess) : Bool := l.got.isNone && l.pieces.isEmpty && l.reqs.isEmpty

/-- A load that waits for a FIFO entry (R203): its group counts as blocked. -/
def Party.waitingPop (q : Party) (l : LaneAccess) : Bool :=
  l.got.isNone && q.ops.any fun o => decide (o.id = l.op) &&
    match o.instr with
    | .fifopop _ => true
    | _ => false

/-- A lane atomic whose old word a register waits for (R313). -/
def SqEntry.returnsLane (e : SqEntry) : Bool :=
  match e.body with
  | .atomic _ _ _ _ (.vreg _ _ _) => true
  | .remoteAtomic _ _ _ _ _ _ (.vreg _ _ _) => true
  | _ => false

/-- An entry held behind the break of a tack that its own group holds: the group does not wait for it (R166). -/
def State.heldByOwn (s : State) (q : Party) (e : SqEntry) : Bool :=
  e.held && q.unpicks.any fun u => (s.tackAt u.tack).any fun t =>
    match e.body with
    | .atomic a _ _ _ _ => t.watch.any fun w => meets (a.pa / 128 * 128) 128 w.pa w.len
    | _ => false

/-- A LADRES waits for the store of a slot that is held behind the break of a tack that its own group holds: the group is stalled
on its own held write (R165, R166, R235). -/
def State.slotHeld (s : State) (q : Party) : Bool :=
  q.ladItems.isSome && q.sq.any fun e => e.held && e.op.isNone &&
    match e.body with
    | .store a _ => q.unpicks.any fun u => (s.tackAt u.tack).any fun t => t.watch.any fun w => meets (a.pa / 128 * 128) 128 w.pa w.len
    | _ => false

/-- A holder is at a point where it acknowledges (R165, R313): no run executing, every load and lane atomic has given its
value, and its scalar stream stands before its next instruction or is stalled in one. A run that waits at its fault counts as finished. -/
def State.canAcknowledge (s : State) (q : Party) : Bool :=
  !q.runGoes && (!q.midway || s.slotHeld q) &&
    (q.sq.all fun e => !e.returnsLane || s.heldByOwn q e || (decide (q.status = .parked) && e.failed)) &&
    (q.loads.all fun l => q.waitingPop l || (decide (q.status = .parked) && (l.lost || l.stale))) &&
    (q.acqs.all fun a => match a.fin with | .lane _ => true | _ => false) &&
    (q.stallOn.isEmpty || (q.heldResult.isNone && q.sq.all fun e => !decide (e.id ∈ q.stallOn) || e.held))

/-- R165. `args.p` reaches its stopping point: its queued runs are discarded, it acknowledges the unpicks it has
received, and the breaks that are then complete take place. -/
def execHolderAcknowledge (s : State) : Out :=
  let q := s.party s.args.p
  .next (if q.unpicks.isEmpty || !s.canAcknowledge q then s
    else
      (s.updParty q.id fun q =>
        { q with queue := [], unpicks := q.unpicks.map fun u => { u with acked := true } }).settleWrites)

/-! ## Breaks by events -/

/-- Starts the break of every live tack that meets a condition and completes what can be completed. -/
def State.breakTacks (s : State) (f : Tack → Bool) : State :=
  ((s.tacks.filter fun t => f t && decide (t.state = .live)).foldl (fun s t => s.startBreak t.index) s).settleWrites

/-- A break that meets a condition is still in progress. -/
def State.breakingAny (s : State) (f : Tack → Bool) : Bool :=
  s.tacks.any fun t => f t && t.active

/-- The TOPO tacks of a partition (R187). -/
def topoOf (part : Nat) (t : Tack) : Bool := decide (t.kind = .topo ∧ t.part = part)

/-- A reconfiguration of a partition waits until its TOPO tacks are broken (R187). -/
def State.afterTopo (s : State) (part : Nat) (k : State → State) : State :=
  let s1 := s.breakTacks (topoOf part)
  if s1.breakingAny (topoOf part) then s1 else k s1

end Sys2Proof.Machine
end

