-- ==== Sys2Proof/Machine/Planes.lean ====
section
/-!
DEFINITION. The arithmetic of the bobbin array: the plane quantisation of R77, its layout (R128) and the block sum
of R78.
-/

namespace Sys2Proof.Machine

/-- One element of a PLANE source (R127): the type codes, S8 and Z8 read as integers. -/
def planeElem (ty : Nat) (bits : Nat) : FVal :=
  match ty with
  | 0 => FType.f32.decode bits
  | 1 => FType.f16.decode bits
  | 2 => FType.bf16.decode bits
  | 3 => FType.e4m3.decode bits
  | 4 => FType.e5m2.decode bits
  | 5 => FType.picot8.decode bits
  | 6 => FType.e2m1.decode bits
  | 7 => FVal.ofInt (toSigned 8 bits)
  | _ => FVal.ofInt (bits : Nat)

/-- Half bytes of an element. -/
def planeHalves (ty : Nat) : Nat :=
  match ty with
  | 0 => 8 | 1 => 4 | 2 => 4 | 6 => 1 | _ => 2

/-- An element that starts at a half byte of a store: E2M1's even element lies in the low half (R61). -/
def planeBits (store : Cells 8) (off halves ty : Nat) : Nat :=
  if ty = 6 then (cellGet store (off + halves / 2)).toNat / 16 ^ (halves % 2) % 16
  else le (readBytes store (off + halves / 2) (planeHalves ty / 2))

/-- A quantised row of a block: flagged, the exponent, magnitudes and signs (R77). -/
structure PlaneRow where
  flagged : Bool
  exp : Int
  mags : List Nat
  signs : List Bool
deriving DecidableEq, Repr

/-- The quantised magnitude of one element. -/
def planeMag (p : Nat) (top : Int) : FVal → Nat
  | .num _ m e => min (roundToInt .rne false m (e + ((p : Int) - 1 - top))).natAbs (2 ^ p - 1)
  | _ => 0

def FVal.isNeg : FVal → Bool
  | .num s _ _ => s
  | _ => false

/-- R77. -/
def planeRow (p : Nat) (xs : List FVal) : PlaneRow :=
  if xs.all (·.finite) then
    let top := (blockTop xs).getD 0
    let ms := xs.map (planeMag p top)
    ⟨false, top, ms, (xs.zip ms).map fun x => x.1.isNeg && decide (x.2 ≠ 0)⟩
  else ⟨true, 0, xs.map fun _ => 0, xs.map fun _ => false⟩

/-- Bytes of one block of planes (R128). -/
def planeBlock (p : Nat) : Nat := 512 * (p + 1) + 160

/-- The word of one row in magnitude plane j. -/
def magWord (r : PlaneRow) (j : Nat) : Nat := (r.mags.mapIdx fun k m => m / 2 ^ j % 2 * 2 ^ k).sum

def signWord (r : PlaneRow) : Nat := (r.signs.mapIdx fun k s => s.toNat * 2 ^ k).sum

/-- Sixteen bytes holding one bit for each row. -/
def rowBits (rs : List PlaneRow) (f : PlaneRow → Bool) : List Byte :=
  toLe 16 (rs.mapIdx fun i r => (f r).toNat * 2 ^ i).sum

/-- A block of 128 quantised rows, as R128 lays it out. -/
def planeBytes (p : Nat) (rs : List PlaneRow) : List Byte :=
  ((List.range p).flatMap fun j => rs.flatMap fun r => toLe 4 (magWord r j)) ++
    (rs.flatMap fun r => toLe 4 (signWord r)) ++
    (rs.flatMap fun r => toLe 1 (ofSigned 8 (r.exp + 128))) ++
    rowBits rs (·.flagged) ++ rowBits rs fun r => decide (r.exp + 128 < 0)

/-- Row i of block b of planes read back from a store, by the layout of the declared p (R129). -/
def planeRead (store : Cells 8) (base p b i : Nat) : PlaneRow :=
  let a := base + b * planeBlock p
  let word (j : Nat) : Nat := le (readBytes store (a + 512 * j + 4 * i) 4)
  let words := (List.range p).map word
  let e0 := a + 512 * (p + 1)
  let bit (off : Nat) : Bool := (cellGet store (e0 + off + i / 8)).getLsbD (i % 8)
  let byte : Int := ((cellGet store (e0 + i)).toNat : Nat)
  ⟨bit 128, if bit 144 then byte - 384 else byte - 128,
    (List.range 32).map fun k => (words.mapIdx fun j w => w / 2 ^ k % 2 * 2 ^ j).sum,
    (List.range 32).map fun k => (word p).testBit k⟩

/-- The exact integer of a block (R78). -/
def blockInt (a b : PlaneRow) : Int :=
  let term (x y : Nat × Bool) : Int := if x.2 = y.2 then (x.1 * y.1 : Nat) else -((x.1 * y.1 : Nat) : Int)
  (List.zipWith term (a.mags.zip a.signs) (b.mags.zip b.signs)).sum

/-- The residue that the second datapath computes from the plane bits (R80). -/
def blockResidue (pA pB : Nat) (a b : PlaneRow) : Nat :=
  let hits (x c : Nat) (like : Bool) : Nat :=
    ((List.zipWith (fun u v => (decide (u.2 = v.2) == like) && u.1.testBit x && v.1.testBit c)
      (a.mags.zip a.signs) (b.mags.zip b.signs)).filter id).length
  let sum : Int := ((List.range pA).flatMap fun x => (List.range pB).map fun c =>
    ((2 ^ ((x + c) % 8) : Nat) : Int) * ((hits x c true : Int) - hits x c false)).sum
  (sum % 255).toNat

/-- The two datapaths agree. -/
def residueAgrees (pA pB : Nat) (a b : PlaneRow) : Bool := decide (blockResidue pA pB a b = (blockInt a b % 255).toNat)

/-- The block sum T of R78, as an F32 encoding. -/
def blockSum (pA pB : Nat) (a b : PlaneRow) (scaleA scaleB : Nat) : Nat :=
  if a.flagged || b.flagged || decide (scaleA = 0xFF) || decide (scaleB = 0xFF) then FType.f32.canonicalNan
  else
    let i := blockInt a b
    let e : Int := a.exp + b.exp - ((pA : Int) - 1) - ((pB : Int) - 1) + ((scaleA : Int) - 127) + ((scaleB : Int) - 127)
    FType.f32.encode .rne false (.num (decide (i < 0)) i.natAbs e)

/-- S of R78: the blocks in increasing order, from +0.0. -/
def tileSum (pA pB : Nat) (as bs : List (PlaneRow × Nat)) : Nat :=
  (List.zipWith (fun x y => blockSum pA pB x.1 y.1 x.2 y.2) as bs).foldl rne32Add 0

end Sys2Proof.Machine
end

