-- ==== Sys2Proof/Machine/Matrix.lean ====
section
/-!
DEFINITION. The MAT family, the matrix queue, accumulator regions and the steps of the bobbin array and the drains
(R80 to R83, R119 to R142).
-/

namespace Sys2Proof.Machine

/-! ## Shared -/

/-- A MAT instruction: not on a steward core, and behind the entries that a FENCE.ENG named. -/
def State.matOp (s : State) (srcs : List (BitVec 6)) (k : State → Workgroup → State) : Out :=
  s.laneOnly (s.scalar [] srcs fun s =>
    if s.me.engHeld || s.me.acquireBehind then s
    else
      match s.wgOf s.actor with
      | none => s.trap .illegal
      | some w => k s w)

/-- The scale window of a workgroup: first column and width (R130). -/
def Workgroup.window (w : Workgroup) : Nat × Nat :=
  (w.share / 4096, (w.share + w.length) / 4096 - w.share / 4096)

/-- A source range meets the destination of an uncompleted copy of the core (R120). -/
def State.copyDest (s : State) (core : Nat) (r : Nat × Nat) : Bool :=
  s.copies.any fun c => decide (c.core = core) && !c.steward && !c.saved && decide (c.dstSpace = 1) &&
    meets r.1 r.2 c.dstRange.1 c.dstRange.2

/-- A region of a partition by its base (R132). -/
def State.region? (s : State) (part base : Nat) : Option Region :=
  s.regions.find? fun r => decide (r.part = part ∧ r.base = base)

def State.updRegion (s : State) (part base : Nat) (f : Region → Region) : State :=
  { s with regions := updAll (fun r => decide (r.part = part ∧ r.base = base)) f s.regions }

/-- A command of a party, not yet in a queue. -/
def Party.command (q : Party) (w : Workgroup) (id : Nat) (body : MatBody) (reads writes : List (Nat × Nat)) : MatCmd :=
  { id := id, part := w.part, wg := w.id, issuer := q.id, members := [(q.id, q.batch)], pc := q.pc, body := body,
    stage := .waiting, row := 0, maxSoFar := 0, reads := reads, writes := writes, globals := [], space := q.spaceid.toNat,
    root := q.ptroot.toNat, ready := [], maxDone := false, named := 0 }

/-- A command enters the queue of 16, or the stream stalls (R119). -/
def State.enterQueue (s : State) (c : MatCmd) : State :=
  if 16 ≤ (s.core s.me.core).matrix.length then s
  else
    (({ s.updCore s.me.core fun k => { k with matrix := k.matrix ++ [c] } with fresh := s.fresh + 1 } : State)).adv

/-! ## GANG (R124) -/

/-- The member fields of a gang word. -/
def gangMembers (v n : Nat) : List Nat := (List.range n).map fun m => v / 2 ^ (5 * m + 3) % 32

/-- Strictly rising. -/
def rising : List Nat → Bool
  | a :: b :: r => decide (a < b) && rising (b :: r)
  | _ => true

def execGang (a : BitVec 6) (s : State) : Out :=
  s.matOp [a] fun s w =>
    let v := (s.rd a).toNat
    let n := v % 8
    let ms := gangMembers v n
    let me := groupIndex s.actor
    if n = 1 ∨ n = 7 ∨ v / 2 ^ (5 * n + 3) ≠ 0 then s.trap .illegal
    else if n ≠ 0 ∧ !(rising ms && decide (me ∈ ms) && ms.all fun m => decide (m < w.groups.length)) then s.trap .gang
    else if w.latch.any fun e => decide (e.member = me) then s.trap .gang
    else (s.upd fun q => { q with gang := ms, joint := 0 }).adv

/-! ## PLANE and SCALE (R127 to R131) -/

/-- Issues a PLANE: the checks, then the queue. -/
def State.plane (s : State) (w : Workgroup) (sideB : Bool) (d a b : BitVec 6) : State :=
  let dst := (s.rd d).toNat
  let src := (s.rd a).toNat
  let v := (s.rd b).toNat
  let ty := bitsOf v 12 9
  let p := bitsOf v 8 6 + 1
  let nb := v % 64 + 1
  let stride := bitsOf v 32 13
  let halves := planeHalves ty
  let size := max 1 (halves / 2)
  let rowBytes := if sideB then 128 * halves / 2 else nb * 32 * halves / 2
  let rows := if sideB then nb * 32 else 128
  let reads := [(src, (rows - 1) * stride + rowBytes)]
  let writes := [(dst, nb * planeBlock p)]
  if v / 2 ^ 33 ≠ 0 ∨ 9 ≤ ty ∨ 32 < nb then s.trap .illegal
  else if src % size ≠ 0 ∨ stride % size ≠ 0 ∨ dst % 32 ≠ 0 then s.trap .alignment
  else if !(reads ++ writes).all fun r => within r.1 r.2 w.share w.length then s.trap .protection
  else if reads.any fun r => s.copyDest s.me.core r then s.trap .rangeLock
  else s.enterQueue (s.me.command w s.fresh (.plane sideB dst src stride ty p nb) reads writes)

def execPlaneA (d a b : BitVec 6) (s : State) : Out := s.matOp [d, a, b] fun s w => s.plane w false d a b

def execPlaneB (d a b : BitVec 6) (s : State) : Out := s.matOp [d, a, b] fun s w => s.plane w true d a b

def execScale (a b : BitVec 6) (s : State) : Out :=
  s.matOp [a, b] fun s w =>
    let src := (s.rd a).toNat
    let v := (s.rd b).toNat
    let stride := bitsOf v 37 18
    let n := bitsOf v 17 9 + 1
    let c0 := v % 512
    let reads := [(src, 127 * stride + n)]
    if v / 2 ^ 38 ≠ 0 then s.trap .illegal
    else if w.window.2 < c0 + n then s.trap .protection
    else if !reads.all fun r => within r.1 r.2 w.share w.length then s.trap .protection
    else if reads.any fun r => s.copyDest s.me.core r then s.trap .rangeLock
    else s.enterQueue (s.me.command w s.fresh (.scale src stride n (w.window.1 + c0)) reads [])

/-! ## MMA (R125, R126, R132, R133) -/

/-- The operands of an MMA. -/
structure MmaOperands where
  base : Nat
  ca : Nat
  cb : Nat
  aBase : Nat
  bBase : Nat
  blocks : Nat
  pA : Nat
  pB : Nat
  device : Bool
  index : Option Nat
deriving DecidableEq, Repr

def MmaOperands.reads (m : MmaOperands) : List (Nat × Nat) :=
  [(m.aBase, m.blocks * planeBlock m.pA), (m.bBase, m.blocks * planeBlock m.pB)]

/-- Indices of MMAs that a drain holds back, in a queue or saved with their workgroup: they reserve when it has finished (R133). R132 refuses an index that is already
reserved for the round and does not speak of one that waits to be; a second MMA with it is refused too. DESIGN CHOICE (log
entry 53); unsafe. -/
def State.waitingIndex (s : State) (part base k : Nat) : Bool :=
  let f (m : MatCmd) : Bool := match m.body with
    | .mma b _ _ _ _ _ _ _ _ (some i) => decide (m.part = part ∧ b = base ∧ i = k) && decide (m.stage = .waiting)
    | _ => false
  s.cores.any (fun c => c.matrix.any f) || s.workgroups.any fun w => w.savedMatrix.any f

/-- The checks of R132, in their order, then the source ranges (R120). -/
def State.mmaChecks (s : State) (w : Workgroup) (d a b : BitVec 6) : Except FaultClass MmaOperands :=
  let base := (s.rd d).toNat
  let v := (s.rd a).toNat
  let h := (s.rd b).toNat
  let nb := h % 64 + 1
  let scope := bitsOf h 14 12
  let ord := decide (bitsOf h 15 15 = 1)
  let idx := bitsOf h 21 16
  let m : MmaOperands :=
    ⟨base, bitsOf v 50 42, bitsOf v 59 51, bitsOf v 20 0, bitsOf v 41 21, nb, bitsOf h 8 6 + 1, bitsOf h 11 9 + 1,
      decide (scope = 3), if ord then some idx else none⟩
  if v / 2 ^ 60 ≠ 0 ∨ h / 2 ^ 22 ≠ 0 then .error .illegal
  else if 32 < nb then .error .illegal
  else if scope ≠ 1 ∧ scope ≠ 3 then .error .illegal
  else if !ord && decide (idx ≠ 0) then .error .illegal
  else if w.window.2 < m.ca + nb ∨ w.window.2 < m.cb + nb then .error .protection
  else if m.aBase % 32 ≠ 0 ∨ m.bBase % 32 ≠ 0 then .error .alignment
  else if !m.reads.all fun r => within r.1 r.2 w.share w.length then .error .protection
  else if base % 128 ≠ 0 then .error .alignment
  else
    match s.region? w.part base with
    | none => .error .accumStore
    | some r =>
      if r.declared && !ord || !r.declared && decide (ord ≠ r.ordered) then .error .accumStore
      else if ord && (decide (r.n ≤ idx) || (r.ordered && (decide (idx ∈ r.reserved) || s.waitingIndex w.part base idx))) then
        .error .accumStore
      else if m.reads.any fun x => s.copyDest s.me.core x then .error .rangeLock
      else .ok m

/-- An MMA enters the queue and asks for its reservation; its stream waits for the grant (R133). While a drain is in
progress it asks again when that drain has finished. -/
def State.mmaEnter (s : State) (w : Workgroup) (m : MmaOperands) (members : List (PartyId × Nat)) : State :=
  if 16 ≤ (s.core s.me.core).matrix.length then s
  else
    let id := s.fresh
    let c : MatCmd :=
      { s.me.command w id (.mma m.base m.ca m.cb m.aBase m.bBase m.blocks m.pA m.pB m.device m.index) m.reads [] with
        members := members
        named := dw m.base }
    let open_ := ((s.region? w.part m.base).map fun r => !r.draining).getD false
    let s1 := s.enterQueue c
    let s2 :=
      if open_ then
        s1.updRegion w.part m.base fun r =>
          { r with
            asking := r.asking ++ [id]
            reserved := if r.ordered then r.reserved ++ m.index.toList else r.reserved }
      else s1
    s2.upd fun q => { q with stallOn := [id] }

/-- The groups that the gang registers of a set name (R125). -/
def latchNeeds (l : List LatchEntry) : List Nat := l.flatMap (·.gang)

/-- A gang fault: every member parks, once each stands at an instruction boundary; one record, which names the group `p` and holds the number n (R125). -/
def State.gangFault (s : State) (w : Workgroup) (p : PartyId) (members : List Nat) (n : Nat) : State :=
  let others := w.groups.filter fun g => decide (groupIndex g ∈ members) && decide (g ≠ p)
  let s1 := others.foldl (fun s g =>
    if (s.party g).status = .ended ∨ (s.party g).status = .parked then s
    else s.updParty g fun q => q.parkOn .gang .command s.clk) s
  s1.fault p .gang .gang (FaultInfo.at_ n)

/-- A joint MMA: it waits in the latch, or completes its set, which enters the queue once (R125, R126). After a gang fault the
set is dropped from the latch and the completing member's joint number has gone on, so that a replayed MMA is its next one:
R125 does not say. DESIGN CHOICE (log entry 53); unsafe. -/
def State.mmaJoint (s : State) (w : Workgroup) (m : MmaOperands) (d a b : BitVec 6) : State :=
  let q := s.me
  let n := q.joint
  let e : LatchEntry := ⟨groupIndex q.id, n, q.gang, s.rd d, s.rd a, s.rd b, q.batch, q.pc⟩
  let set := (w.latch.filter fun x => decide (x.number = n)) ++ [e]
  let drop (s : State) : State := s.updWg w.part w.id fun w => { w with latch := w.latch.filter fun x => decide (x.number ≠ n) }
  if (latchNeeds set).any fun i => !(set.any fun x => decide (x.member = i)) then
    ((s.updWg w.part w.id fun w => { w with latch := w.latch ++ [e] }).upd fun q => { q with joint := n + 1 }).adv
  else if set.any fun x => decide (x.gang ≠ e.gang ∨ x.sd ≠ e.sd ∨ x.sa ≠ e.sa ∨ x.sb ≠ e.sb) then
    if w.groups.any fun g => decide (groupIndex g ∈ latchNeeds set) && (s.party g).midway then s
    else ((drop s).upd fun q => { q with joint := n + 1 }).gangFault w q.id (latchNeeds set) n
  else if 16 ≤ (s.core q.core).matrix.length then s
  else
    let members := set.map fun x => (PartyId.group w.part w.id x.member, x.batch)
    ((drop s).mmaEnter w m members).upd fun q => { q with joint := n + 1 }

def execMma (d a b : BitVec 6) (s : State) : Out :=
  s.matOp [d, a, b] fun s w =>
    match s.mmaChecks w d a b with
    | .error c => s.trap c
    | .ok m => if s.me.gang.isEmpty then s.mmaEnter w m [(s.actor, s.me.batch)] else s.mmaJoint w m d a b

/-! ## ACCI (R136, R137) -/

/-- Translates the pages of a region; they must be writable. -/
def State.acciPages (s : State) (q : Party) (base : Nat) : State × Except (FaultClass × Nat) Xlat :=
  s.xlate (s.unitOf q) base 65536 .write true

/-- The lines of a region, by physical pieces. -/
def pieceLines (ps : List Piece) : List Nat := ps.flatMap fun p => linesOf p.pa p.len

/-- Marks the lines of a region: the drains and recalls of R136, then the start value. A line that dirty bytes cannot leave yet,
or that another device shares (R156), is waited for. -/
def State.markRegion (s : State) (r : Region) (zero : Bool) (k : State → State) : State :=
  let s1 := (pieceLines r.spans).foldl (fun s l => (s.claimLine l).askSharers l) s
  if !((pieceLines r.spans).all fun l => s1.claimed l && s1.lineFree l) then s1
  else
    let s2 := State.fitRemote { s1 with regions := s1.regions ++ [r] }
    k (if zero then
      (pieceLines r.spans).foldl (fun s l => (s.homeNow (.write (cellsFrom (128 * l) (List.replicate 128 0)))).1) s2
    else s2)

def execAcci (a b : BitVec 6) (s : State) : Out :=
  s.matOp [a, b] fun s w =>
    let q := s.me
    let base := (s.rd a).toNat
    let v := (s.rd b).toNat
    let n := v % 128
    let byLaunch := decide (bitsOf v 8 8 = 1)
    if v / 2 ^ 9 ≠ 0 ∨ 64 < n ∨ (byLaunch ∧ n = 0) then s.trap .illegal
    else if base % 128 ≠ 0 then s.trap .alignment
    else
      match s.acciPages q base with
      | (s1, .error (c, x)) =>
        s1.fault s1.actor c .scalar { addr := dw x, addr2 := 0, replayable := decide (c = .pageAbsent), unfinished := 0, laneAddr := none }
      | (s1, .ok x) =>
        if !s1.budgetOk w.key (·.quota) s1.linesUnder 512 then s1.trap .quota
        else if (pieceLines x.pieces).any s1.marked then s1.trap .accumStore
        else
          let flag := ((s1.rcbOf q.id).map fun r => r.flags.getLsbD 3).getD false
          let r : Region :=
            { part := w.part, launch := w.launch, rung := w.rung, base := base, spans := x.pieces, declared := byLaunch,
              ordered := if byLaunch then flag else decide (n ≠ 0), n := n, reserved := [], dropped := [], outstanding := [],
              asking := [], draining := false, leaving := false, await := [], early := [] }
          s1.afterDirty (s1.unitOf q).unit x.pieces fun s => s.markRegion r (decide (bitsOf v 7 7 = 1)) State.adv

/-! ## ACCD at issue (R139) -/

/-- Bytes of an output element. -/
def accdSize (format : Nat) : Nat :=
  match format with
  | 0 => 4 | 1 => 2 | 2 => 2 | _ => 1

/-- The drain descriptor, or none where a field breaks R139. -/
def AccdDesc.ofBytes (bs : List Byte) : Option AccdDesc :=
  let f := fieldAt bs 32 1
  let flags := fieldAt bs 34 1
  let c : AccdDesc :=
    { dst := fieldAt bs 0 8, stride := fieldAt bs 8 8, maxWord := fieldAt bs 16 8, scaleDst := fieldAt bs 24 8, format := f,
      rounding := fieldAt bs 33 1, saturate := decide (flags % 2 = 1), maxOn := decide (flags / 2 % 2 = 1),
      release := decide (flags / 4 % 2 = 1), zero := decide (flags / 8 % 2 = 1), maxScope := fieldAt bs 35 1,
      first := fieldAt bs 36 2, rows := fieldAt bs 38 2 }
  let block := decide (f = 3 ∨ f = 4)
  let ok := decide (f ≤ 4) && decide (c.rounding ≤ (if block then 0 else 3)) && decide (flags < 16) &&
    (!c.saturate || decide (f = 1 ∨ f = 2)) && !(c.release && c.zero) &&
    (if c.maxOn then decide (1 ≤ c.maxScope ∧ c.maxScope ≤ 4) && decide (c.maxWord ≠ 0) else decide (c.maxScope = 0)) &&
    (if block then decide (c.scaleDst ≠ 0) else decide (c.scaleDst = 0)) && decide (c.first ≤ 127) &&
    decide (1 ≤ c.rows ∧ c.first + c.rows ≤ 128) && decide (fieldAt bs 40 24 = 0)
  if ok then some c else none

/-- The global ranges that a drain writes (R120, R159): its rows, its scales, its maximum word. -/
def AccdDesc.globals (c : AccdDesc) : List (Nat × Nat) :=
  let h := hull (toSigned 64 c.dst) (128 * accdSize c.format) [(c.rows, toSigned 64 c.stride)]
  hullRange 0 h ::
    ((if c.scaleDst = 0 then [] else [hullRange 0 (toSigned 64 c.scaleDst, toSigned 64 c.scaleDst + 4 * c.rows)]) ++
      if c.maxOn then [hullRange 0 (toSigned 64 c.maxWord, toSigned 64 c.maxWord + 4)] else [])

def execAccd (a b : BitVec 6) (s : State) : Out :=
  s.matOp [a, b] fun s w =>
    let base := (s.rd a).toNat
    let off := (s.rd b).toNat
    let pl : Place := .store w.core off
    if off % 64 ≠ 0 then s.trapAt .alignment off
    else if !within off 64 w.share w.length then s.trapAt .protection off
    else if s.storeBad 64 pl then s.trapAt .storeError off
    else
      match AccdDesc.ofBytes (s.readPlace 64 pl) with
      | none => s.trapAt .illegal off
      | some c =>
        let size := accdSize c.format
        if c.dst % size ≠ 0 ∨ c.stride % size ≠ 0 ∨ c.maxWord % 4 ≠ 0 then s.trap .alignment
        else
          match s.region? w.part base with
          | none => s.trap .accumStore
          | some _ =>
            if s.copyDest w.core (off, 64) then s.trap .rangeLock
            else if 16 ≤ (s.core s.me.core).matrix.length ∨ 1024 < s.lockEntries s.me.core + c.globals.length then s
            else
              (s.enterQueue { s.me.command w s.fresh (.accd base c) [] [] with
                globals := c.globals, named := dw base, row := c.first }).updRegion w.part base fun r => { r with draining := true }

/-! ## The queue's steps -/

def State.updMat (s : State) (core id : Nat) (f : MatCmd → MatCmd) : State :=
  s.updCore core fun c => { c with matrix := updAll (fun m => decide (m.id = id)) f c.matrix }

def State.dropMat (s : State) (core id : Nat) : State :=
  s.updCore core fun c => { c with matrix := c.matrix.filter fun m => decide (m.id ≠ id) }

/-- A fault of a command after it has entered the queue (R122): its members park, once each stands at an instruction boundary, and
one record names the issuer. -/
def State.matFault (s : State) (core : Nat) (c : MatCmd) (cls : FaultClass) (addr addr2 : DWord) : State :=
  if !(s.party c.issuer).mayPark || c.members.any fun m => (s.party m.1).midway then s
  else
  let s1 := s.updMat core c.id fun m => { m with stage := .faulted cls }
  let s2 := c.members.foldl (fun s m =>
    if m.1 = c.issuer ∨ (s.party m.1).status = .ended then s
    else s.updParty m.1 fun q => q.parkOn cls .command s.clk) s1
  s2.commandFault c.issuer cls addr addr2 false

def State.executing? (s : State) (core : Nat) : Option MatCmd :=
  (s.core core).matrix.find? fun m => decide (m.stage = .started ∨ m.stage = .rows)

/-- An ACCD stopped on a page fault holds the queue behind it; another fault holds its group's later commands only. -/
def MatCmd.blocks (c : MatCmd) : Bool :=
  match c.stage, c.body with
  | .faulted .pageAbsent, .accd _ _ => true
  | _, _ => false

/-- An MMA has its reservation. -/
def State.granted (s : State) (c : MatCmd) : Bool :=
  match c.body with
  | .mma base _ _ _ _ _ _ _ _ _ => ((s.region? c.part base).map fun r => decide (c.id ∈ r.outstanding)).getD false
  | _ => true

/-- The command that may start: the first that no faulted command of one of its members holds back (R119, R122). -/
def nextMat : List MatCmd → List PartyId → Option MatCmd
  | [], _ => none
  | c :: r, held =>
    if c.blocks then none
    else
      match c.stage with
      | .faulted _ => nextMat r (held ++ c.members.map (·.1))
      | _ => if c.members.any fun m => decide (m.1 ∈ held) then nextMat r held else some c

/-- An MMA of DEVICE scope has sent its contributions and gone from the queue, and has not completed (R135): a drain behind it
waits (R119). That its entry frees, and that the array goes on, when it has sent them is DEDUCED (log entry 53). -/
def State.drainWaits (s : State) (core : Nat) (c : MatCmd) : Bool :=
  match c.body with
  | .accd _ _ => s.mmas.any fun m => decide (m.core = core ∧ m.id < c.id) && m.deviceScope
  | _ => false

/-- R119. `args.x` is the core. -/
def execMatrixCommandStart (s : State) : Out :=
  let core := s.args.x
  .next (match s.executing? core, nextMat (s.core core).matrix [] with
  | none, some c =>
    if c.stage = .waiting ∧ s.granted c ∧ !s.drainWaits core c ∧ !s.holds .bobbin core then s.updMat core c.id fun m => { m with stage := .started } else s
  | _, _ => s)

/-- The executing command of a core, if it has the body wanted. -/
def State.withMat (s : State) (core : Nat) (k : MatCmd → State) : Out :=
  match s.executing? core with
  | none => .next s
  | some c => .next (k c)

/-- The first byte with an uncorrected error in ranges of a core's store. -/
def State.badByte (s : State) (core : Nat) (rs : List (Nat × Nat)) : Option Nat :=
  (s.errors.filterMap fun e =>
    match e with
    | .coreStore c o => if c = core ∧ rs.any fun r => r.1 ≤ o && decide (o < r.1 + r.2) then some o else none
    | _ => none).min?

/-- The bytes of rows at a stride: what a command reads of its source range. -/
def stridedRows (src stride rows n : Nat) : List (Nat × Nat) := (List.range rows).map fun r => (src + r * stride, n)

/-- R128. `args.x` is the core. The whole source is read before the destination is written, so that a destination may overlap its
own source: the spec does not say. DESIGN CHOICE (log entry 53); unsafe. The lowest source byte that holds an uncorrected error is the address of its fault: R128 and
R131 give none. DESIGN CHOICE (log entry 53); unsafe. -/
def execPlaneComplete (s : State) : Out :=
  let core := s.args.x
  s.withMat core fun c =>
    match c.body with
    | .plane sideB dst src stride ty p nb =>
      (match s.badByte core (if sideB then stridedRows src stride (nb * 32) (128 * planeHalves ty / 2)
          else stridedRows src stride 128 (nb * 32 * planeHalves ty / 2)) with
       | some o => s.matFault core c .storeError (dw o) c.pc
       | none =>
         let store := (s.core core).store
         let elem (i k : Nat) : FVal :=
           let (r, col) := if sideB then (k, i) else (i, k)
           planeElem ty (planeBits store (src + r * stride) (col * planeHalves ty) ty)
         let block (b : Nat) : List Byte :=
           planeBytes p ((List.range 128).map fun i => planeRow p ((List.range 32).map fun k => elem i (32 * b + k)))
         (s.writeStore core dst ((List.range nb).flatMap block)).dropMat core c.id)
    | _ => s

/-- R131. `args.x` is the core. The address of its fault is as for PLANE. -/
def execScaleComplete (s : State) : Out :=
  let core := s.args.x
  s.withMat core fun c =>
    match c.body with
    | .scale src stride n first =>
      (match s.badByte core (stridedRows src stride 128 n) with
       | some o => s.matFault core c .storeError (dw o) c.pc
       | none =>
         let store := (s.core core).store
         let cells := (List.range 128).flatMap fun r => (List.range n).map fun k =>
           (r * 512 + first + k, cellGet store (src + r * stride + k))
         let s1 := s.updCore core fun x =>
           { x with
             scale := cells.foldl (fun m e => cellSet m e.1 e.2) x.scale
             columns := addAll ((List.range n).map (first + ·)) x.columns }
         ({ s1 with errors := s1.errors.filter fun e =>
             match e with
             | .scaleStore k o => !(decide (k = core) && cells.any fun x => decide (x.1 = o))
             | _ => true } : State).dropMat core c.id)
    | _ => s

/-! ## MMA steps -/

/-- R133: the region home counts the MMA as outstanding, and its stream goes on. `args.x` is the command. A region
released meanwhile leaves no reservation to grant: class 0x0D. -/
def execMmaReservationGrant (s : State) : Out :=
  let id := s.args.x
  .next (match (List.range 128).findSome? fun k => ((s.core k).matrix.find? fun m => decide (m.id = id)).map fun m => (k, m) with
  | none => s
  | some (core, c) =>
    match c.body with
    | .mma base _ _ _ _ _ _ _ _ _ =>
      if c.stage ≠ .waiting then s
      else
        let wake (s : State) : State :=
          c.members.foldl (fun s m => s.updParty m.1 fun q => { q with stallOn := q.stallOn.filter fun i => decide (i ≠ id) }) s
        (match s.region? c.part base with
         | none => if (s.party c.issuer).mayPark then (wake s).matFault core c .accumStore c.named c.pc else s
         | some r =>
           if id ∈ r.asking then
             wake (s.updRegion c.part base fun r =>
               { r with asking := r.asking.filter fun i => decide (i ≠ id), outstanding := r.outstanding ++ [id] })
           else s)
    | _ => s)

/-- The scale byte of a row and a column of the scale store. -/
def Core.scaleAt (c : Core) (r col : Nat) : Nat := (cellGet c.scale (r * 512 + col)).toNat

/-- The 128 words of row i of the tile (R78). -/
def Core.tileRow (c : Core) (m : MmaOperands) (i : Nat) : List Word :=
  let bs := List.range m.blocks
  let a := bs.map fun b => (planeRead c.store m.aBase m.pA b i, c.scaleAt i (m.ca + b))
  (List.range 128).map fun j =>
    wd (tileSum m.pA m.pB a (bs.map fun b => (planeRead c.store m.bBase m.pB b j, c.scaleAt j (m.cb + b))))

/-- Every block of the tile passes the residue check (R80). -/
def Core.residuesAgree (c : Core) (m : MmaOperands) : Bool :=
  (List.range m.blocks).all fun b => (List.range 128).all fun i => (List.range 128).all fun j =>
    residueAgrees m.pA m.pB (planeRead c.store m.aBase m.pA b i) (planeRead c.store m.bBase m.pB b j)

/-- R134. `args.x` is the core, `args.flag` a residue mismatch that the array finds. The operand word's columns are
relative to the workgroup's window. -/
def execMmaComputeDone (s : State) : Out :=
  let core := s.args.x
  s.withMat core fun c =>
    match c.body with
    | .mma base ca cb aBase bBase blocks pA pB dev index =>
      let w0 := ((s.wg? c.part c.wg).map (·.window.1)).getD 0
      let m : MmaOperands := ⟨base, w0 + ca, w0 + cb, aBase, bBase, blocks, pA, pB, dev, index⟩
      let badScale := s.errors.any fun e =>
        match e with
        | .scaleStore k o => decide (k = core) && (within (o % 512) 1 m.ca blocks || within (o % 512) 1 m.cb blocks)
        | _ => false
      if s.args.flag || !(s.core core).residuesAgree m then s.matFault core c .residue c.named c.pc
      else if (s.badByte core c.reads).isSome || badScale then s.matFault core c .storeError c.named c.pc
      else
        let lines := (List.range 128).flatMap fun i =>
          let row := (s.core core).tileRow m i
          (List.range 4).map fun b => (4 * i + b, (row.drop (32 * b)).take 32)
        let cs := lines.map fun l =>
          (⟨s.fresh + l.1, c.id, c.part, base, l.1, core, index, l.2, false⟩ : Contribution)
        { s.dropMat core c.id with
          contributions := s.contributions ++ cs
          fresh := s.fresh + 512
          mmas := s.mmas ++ [⟨c.id, core, c.reads, c.part, base, c.members, dev, index, List.range 512⟩] }
    | _ => s

/-- The 32 words of a line with a contribution added (R81). -/
def addLine (mem : Cells 8) (pa : Nat) (vals : List Word) : List Byte :=
  vals.mapIdx (fun i v => toLe 4 (rne32Add (le (readBytes mem (pa + 4 * i) 4)) v.toNat)) |>.flatten

/-- An MMA has no more to do with a line: when its last line has ended the region home counts it no longer (R133, R135). -/
def State.lineEnded (s : State) (part base mma line : Nat) : State :=
  let left := s.mmas.map fun m => if m.id = mma then { m with left := m.left.filter fun l => decide (l ≠ line) } else m
  if left.any fun m => decide (m.id = mma) && m.left.isEmpty then
    ({ s with mmas := left.filter fun m => decide (m.id ≠ mma) } : State).updRegion part base fun r =>
      { r with outstanding := r.outstanding.filter fun i => decide (i ≠ mma) }
  else { s with mmas := left }

/-- Applies a contribution at its home slice; a line with an uncorrected error discards it (R138). -/
def State.applyLine (s : State) (r : Region) (mma line : Nat) (vals : List Word) : State :=
  let s1 : State :=
    match spanAt r.spans (128 * line) with
    | none => s
    | some pa =>
      if s.lineBad pa then s
      else (s.homeNow (.write (cellsFrom pa (addLine s.mem pa vals)))).1
  s1.lineEnded r.part r.base mma line

/-- Releases a region: its lines are ordinary memory and keep their values (R142). -/
def State.releaseRegion (s : State) (part base : Nat) : State :=
  { s with regions := s.regions.filter fun r => !(decide (r.part = part) && decide (r.base = base)) }

/-- The index that a line awaits: the next not applied and not dropped (R83, R287). -/
def Region.awaits (r : Region) (line : Nat) : Nat :=
  let k := lookupD line 0 r.await
  ((List.range 65).find? fun i => decide (k ≤ i) && !decide (i ∈ r.dropped)).getD 64

/-- A contribution on its way that can be applied: one returned or early waits for an index before it. -/
def Region.takes (r : Region) (c : Contribution) : Bool :=
  decide (c.part = r.part ∧ c.base = r.base) && (!r.ordered || decide (c.index = some (r.awaits c.line)))

/-- A drain of a region that has not completed, and that entered before command `id`, stands in some queue or saved
workgroup. Commands are numbered as they enter. -/
def State.drainBefore (s : State) (part base id : Nat) : Bool :=
  let f (m : MatCmd) : Bool := match m.body with
    | .accd b _ => decide (m.part = part ∧ b = base ∧ m.id < id)
    | _ => false
  s.cores.any (fun c => c.matrix.any f) || s.workgroups.any fun w => w.savedMatrix.any f

/-- A region whose last workgroup has exited is released, as ACCD releases one, once no MMA reserved there is still to send, no
contribution to it can be applied any more and no drain of it is in progress (R138, R140). -/
def State.settleLeaving (s : State) : State :=
  let sent (i : Nat) : Bool := s.mmas.any fun m => decide (m.id = i)
  (s.regions.filter fun r => r.leaving && r.asking.isEmpty && r.outstanding.all sent && !(s.contributions.any r.takes) &&
    !s.drainBefore r.part r.base s.fresh).foldl (fun s r => s.releaseRegion r.part r.base) s

/-- Regions of work that has ended: new reservations are refused, and they are released after what is outstanding, as ACCD does
(R133, R138, R142). -/
def State.releaseRegions (s : State) (f : WorkKey → Bool) : State :=
  State.settleLeaving
    { s with regions := s.regions.map fun r => if f r.key then { r with leaving := true, draining := true } else r }

/-- Applies the held contributions of a line whose turn has come, in index order. -/
def State.applyEarly (s : State) (part base line : Nat) : Nat → State
  | 0 => s
  | f + 1 =>
    match s.region? part base with
    | none => s
    | some r =>
      match r.early.find? fun e => decide (e.1 = line ∧ e.2.1 = r.awaits line) with
      | none => s
      | some e =>
        ((s.updRegion part base fun r =>
          { r with
            early := r.early.filter fun x => decide (x ≠ e)
            await := assocSet line (e.2.1 + 1) r.await }).applyLine r e.2.2.1 line e.2.2.2).applyEarly part base line f

/-- A contribution returned to a core out of service is never sent: its MMA ends at that line, and in ordered mode its index is
missing (R134, R304, R305). -/
def State.loseContribution (s : State) (x : Contribution) : State :=
  let s1 : State := { s with contributions := s.contributions.filter fun y => decide (y.id ≠ x.id) }
  (s1.updRegion x.part x.base fun r =>
    { r with reserved := r.reserved.filter fun i => !(r.ordered && decide (some i = x.index)) }).lineEnded x.part x.base x.mma x.line

/-- A contribution is returned to its core, or lost where that has gone out of service since it was sent (`allCores`). -/
def State.sendBack (s : State) (c : Contribution) : State :=
  if c.core = Config.allCores then s.loseContribution c
  else { s with contributions := updAll (fun x => decide (x.id = c.id)) (fun x => { x with returned := true }) s.contributions }

/-- R81 to R83, R326. `args.x` is the contribution; `args.flag`: the slice's buffer is full, and an early one is returned to
its core (R134). -/
def execLineContribution (s : State) : Out :=
  .next (State.settleLeaving (match s.contributions.find? fun c => decide (c.id = s.args.x) && !c.returned with
  | none => s
  | some c =>
    let gone : State := { s with contributions := s.contributions.filter fun x => decide (x.id ≠ c.id) }
    match s.region? c.part c.base with
    | none => s
    | some r =>
      let pa := (spanAt r.spans (128 * c.line)).getD 0
      if if c.core = Config.allCores then s.sliceHolds pa else s.homeHolds (dieOfCore c.core) pa then s
      else match r.ordered, c.index with
      | true, some k =>
        if k = r.awaits c.line then
          (((gone.updRegion c.part c.base fun r => { r with await := assocSet c.line (k + 1) r.await }).applyLine r c.mma c.line
            c.vals)).applyEarly c.part c.base c.line 64
        else if s.args.flag then s.sendBack c
        else gone.updRegion c.part c.base fun r => { r with early := r.early ++ [(c.line, k, c.mma, c.vals)] }
      | _, _ => gone.applyLine r c.mma c.line c.vals))

/-- R134. `args.x` is a contribution that was returned: its core sends it again. -/
def execContributionRetry (s : State) : Out :=
  .next { s with contributions := updAll (fun c => decide (c.id = s.args.x)) (fun c => { c with returned := false }) s.contributions }

/-! ## ACCD steps (R140 to R142) -/

/-- Indices that no MMA reserved this round, as a bitmap. -/
def Region.missing (r : Region) : Nat :=
  if r.ordered then
    ((List.range r.n).filter fun i => !decide (i ∈ r.reserved) && !decide (i ∈ r.dropped)).foldl (fun m i => m + 2 ^ i) 0
  else 0

/-- Nothing that an ordered region still awaits can come: what has been sent waits for an index that is missing. -/
def State.stuck (s : State) (r : Region) : Bool :=
  decide (r.missing ≠ 0) && r.asking.isEmpty && (r.outstanding.all fun i => s.mmas.any fun m => decide (m.id = i)) &&
    !s.contributions.any r.takes

/-- R140. `args.x` is the core. It waits for the drains of its region that entered before it, each of which ends a round, and for
the MMAs reserved since. A drain whose region holds contributions back for an index that a failed core has lost does not
wait for them: it faults as R305 says. DEDUCED (log entry 53). -/
def execAccdStart (s : State) : Out :=
  let core := s.args.x
  s.withMat core fun c =>
    match c.body, c.stage with
    | .accd base _, .started =>
      (match s.region? c.part base with
       | none => s.matFault core c .accumStore c.named c.pc
       | some r =>
         if s.drainBefore c.part base c.id || !s.stuck r && (!r.outstanding.isEmpty || !r.asking.isEmpty) then s
         else if r.missing ≠ 0 then s.matFault core c .accumStore c.named (dw r.missing)
         else s.updMat core c.id fun m => { m with stage := .rows })
    | _, _ => s

/-- The four lines of an output row. -/
def Region.rowWords (r : Region) (mem : Cells 8) (i : Nat) : List Nat :=
  (List.range 128).map fun j =>
    match spanAt r.spans (512 * i + 4 * j) with
    | some pa => le (readBytes mem pa 4)
    | none => 0

/-- Where its four lines stand. -/
def Region.rowPieces (r : Region) (i : Nat) : List Piece :=
  (List.range 4).filterMap fun b => (spanAt r.spans (512 * i + 128 * b)).map fun pa => ⟨pa, 128, 0, none⟩

/-- The output bytes of a row and its scale bytes (R141). -/
def accdRowBytes (c : AccdDesc) (ws : List Nat) : List Byte × List Byte :=
  let conv (t : FType) : List Byte :=
    ws.flatMap fun w => toLe (t.width / 8) (t.encode (Rnd.ofCode c.rounding) c.saturate (FType.f32.decode w))
  let blocks (t : FType) : List Byte × List Byte :=
    let qs := (List.range 4).map fun b => quantBlock t (((ws.drop (32 * b)).take 32).map FType.f32.decode)
    (qs.flatMap fun q => q.2.flatMap fun x => toLe 1 x, qs.flatMap fun q => toLe 1 q.1)
  match c.format with
  | 0 => (ws.flatMap fun w => toLe 4 w, [])
  | 1 => (conv .bf16, [])
  | 2 => (conv .f16, [])
  | 3 => blocks .e4m3
  | _ => blocks .picot8

/-- Who translates for a drain: the core's copy engine, under the space and root loaded as the ACCD issued (R272). -/
def MatCmd.unit (c : MatCmd) (core : Nat) : UnitCtx := ⟨256 + core, c.space, c.root, true, false⟩

/-- Translates one destination of a drain. -/
def State.drainPieces (s : State) (core : Nat) (c : MatCmd) (va n : Nat) : State × Except (FaultClass × Nat) (List Piece) :=
  if n = 0 then (s, .ok [])
  else
    match s.xlate (c.unit core) va n .write true with
    | (s1, .error e) => (s1, .error e)
    | (s1, .ok x) =>
      if s1.cacheAbsent (some c.part) core x.pieces then (s1, .error (.cacheAbsent, va))
      else if x.pieces.any fun p => s1.marked (p.pa / 128) then (s1, .error (.accumStore, va))
      else (s1, .ok x.pieces)

/-- Writes translated bytes at the home slices, as a copy does. -/
def State.drainWrite (s : State) (core : Nat) (c : MatCmd) (ps : List Piece) (bs : List Byte) : State :=
  (cutBytes ps bs).foldl (fun s x => s.homeApply (.write (cellsFrom x.1.pa x.2)) (.accd core c.id c.part c.wg)) s

/-- The home slices have room for a write to each of these pieces (R168). -/
def State.takesAll (s : State) (ps : List Piece) : Bool :=
  ps.all fun p => !s.watched (p.pa / 128) ||
    decide (s.heldAt (p.pa / 128) + (ps.filter fun x => decide (homeSlice (x.pa / 128) = homeSlice (p.pa / 128))).length ≤ 64)

/-- A drain of a core cannot go on to these pieces: its engine or a home slice accepts no access (R326, R327). -/
def State.drainHolds (s : State) (core : Nat) (ps : List Piece) : Bool :=
  s.holds .sram core || ps.any fun p => s.homeHolds (dieOfCore core) p.pa

/-- A fault at a destination: a page fault leaves the group running and the queue waiting (R141). -/
def State.drainFault (s : State) (core : Nat) (c : MatCmd) (cls : FaultClass) (a : Nat) : State :=
  if cls = .pageAbsent then
    (s.updMat core c.id fun m => { m with stage := .faulted .pageAbsent }).commandEvent c.issuer (dw a) c.pc
  else s.matFault core c cls (dw a) c.pc

/-- The first line of row i that holds an uncorrected error (R138). -/
def State.rowBad (s : State) (r : Region) (i : Nat) : Option Nat :=
  (List.range 4).find? fun b => (spanAt r.spans (512 * i + 128 * b)).any s.lineBad

/-- Sets the four lines of a row to +0.0 (R140). -/
def State.zeroRow (s : State) (r : Region) (i : Nat) : State :=
  (List.range 4).foldl (fun s b =>
    match spanAt r.spans (512 * i + 128 * b) with
    | some pa => (s.homeNow (.write (cellsFrom pa (List.replicate 128 0)))).1
    | none => s) s

/-- A row as it is read: its 128 words, and where its output and scale bytes go. -/
structure DrainRow where
  words : List Nat
  out : List Piece
  outBytes : List Byte
  scale : List Piece
  scaleBytes : List Byte
deriving DecidableEq, Repr

def DrainRow.pieces (w : DrainRow) : List Piece := w.out ++ w.scale

/-- Reads row i, converts it and translates its destinations, or the class and address of its fault (R141). -/
def State.drainRow (s : State) (core : Nat) (c : MatCmd) (r : Region) (d : AccdDesc) (i : Nat) :
    State × Except (FaultClass × Nat) DrainRow :=
  match s.rowBad r i with
  | some b => (s, .error (.memoryError, r.base + 512 * i + 128 * b))
  | none =>
    let k := i - d.first
    let ws := r.rowWords s.mem i
    let (out, scales) := accdRowBytes d ws
    match s.drainPieces core c ((d.dst + k * d.stride) % 2 ^ 64) out.length with
    | (s1, .error e) => (s1, .error e)
    | (s1, .ok ps) =>
      match s1.drainPieces core c ((d.scaleDst + 4 * k) % 2 ^ 64) scales.length with
      | (s2, .error e) => (s2, .error e)
      | (s2, .ok qs) => (s2, .ok ⟨ws, ps, out, qs, scales⟩)

/-- The maximum of a drain so far, with a row (R75). -/
def MatCmd.withRow (c : MatCmd) (i : Nat) (ws : List Nat) : MatCmd :=
  { c with row := i + 1, maxSoFar := wd (ws.foldl famax32 c.maxSoFar.toNat) }

/-- A row is written, and its lines zeroed where the descriptor asks for it. -/
def State.writeRow (s : State) (core : Nat) (c : MatCmd) (r : Region) (d : AccdDesc) (w : DrainRow) : State :=
  let s1 := (s.drainWrite core c w.out w.outBytes).drainWrite core c w.scale w.scaleBytes
  (if d.zero then s1.zeroRow r c.row else s1).updMat core c.id fun m => m.withRow c.row w.words

/-- R141. `args.x` is the core: one row is read, converted and written; or one that was read before the maximum was updated is
written. -/
def execAccdRow (s : State) : Out :=
  let core := s.args.x
  s.withMat core fun c =>
    match c.body, c.stage, c.ready with
    | .accd _ _, .rows, (ps, bs) :: rest =>
      if !s.takesAll ps || s.drainHolds core ps then s
      else s.afterDirty (c.unit core).unit ps fun s => (s.updMat core c.id fun m => { m with ready := rest }).drainWrite core c ps bs
    | .accd base d, .rows, [] =>
      if d.first + d.rows ≤ c.row then s
      else
        (match s.region? c.part base with
         | none => s
         | some r =>
           match s.drainRow core c r d c.row with
           | (s1, .error (cls, a)) => s1.drainFault core c cls a
           | (s1, .ok w) =>
             if !s1.takesAll w.pieces || s1.drainHolds core (r.rowPieces c.row ++ w.pieces) then s
             else s1.afterDirty (c.unit core).unit w.pieces fun s => s.writeRow core c r d w)
    | _, _, _ => s

/-- MMAs of a region that a drain refused, and that no drain holds back any more: every one that was in progress when they
asked has finished (R133). -/
def State.refusedMmas (s : State) (part base : Nat) : List (Nat × Option Nat) :=
  let out := ((s.region? part base).map fun r => r.outstanding ++ r.asking).getD []
  (s.cores.flatMap (·.matrix)).filterMap fun m =>
    match m.body with
    | .mma b _ _ _ _ _ _ _ _ i =>
      if m.part = part ∧ b = base ∧ m.stage = .waiting ∧ !decide (m.id ∈ out) ∧ !s.drainBefore part base m.id then some (m.id, i)
      else none
    | _ => none

/-- The end of a drain: a new round, reservations open for the MMAs that it refused; another drain that has entered a
queue closes them again behind these (R133, R140). -/
def State.reopen (s : State) (part base : Nat) : State :=
  let ask := s.refusedMmas part base
  let again := s.drainBefore part base s.fresh
  s.updRegion part base fun r =>
    { r with
      reserved := if r.ordered then ask.filterMap (·.2) else []
      dropped := []
      await := []
      early := []
      asking := ask.map (·.1)
      draining := again || r.leaving }

/-- Writes of a drain that its home slices hold. -/
def State.drainHeld (s : State) (core : Nat) (c : MatCmd) : Bool :=
  s.held.any fun h => match h.source with
    | .accd k i _ _ => decide (k = core ∧ i = c.id)
    | .accdMax k i _ _ _ => decide (k = core ∧ i = c.id)
    | _ => false

/-- The accesses of a group before a command: what its release orders (R150). -/
def Party.doneBefore (q : Party) (id : Nat) : Bool :=
  q.sq.all (fun e => decide (id ≤ e.id) || !q.behind e.op) && q.loads.all fun l => decide (id ≤ l.op) || !q.behind (some l.op)

/-- What the release of the maximum's update waits for beside its drains: the group's accesses before the ACCD, and at DEVICE
and FABRIC scope the drain's own writes, which at a narrower scope it may precede (R150, R311). -/
def State.maxGoes (s : State) (core : Nat) (c : MatCmd) (d : AccdDesc) : Bool :=
  (s.party c.issuer).doneBefore c.id &&
    (decide (d.maxScope < 3) || (decide (d.first + d.rows ≤ c.row) && c.ready.isEmpty && !s.drainHeld core c))

/-- Who asks for the maximum's update. -/
def MatCmd.maxSource (c : MatCmd) (core : Nat) (d : AccdDesc) : WriteSource :=
  .accdMax core c.id c.part c.wg (decide (scopeOf d.maxScope = .device))

/-- The maximum update: an atomic with release at its scope, at the word's home slice, once its release steps are taken
(R140, R311). -/
def State.maxUpdate (s : State) (core : Nat) (c : MatCmd) (d : AccdDesc) (p : Piece) : State :=
  let sc := scopeOf d.maxScope
  let s1 := s.releaseDrains core sc false
  if !s1.releaseReady core sc false then s1
  else
    ((if sc = .device then s1 else s1.bumpFor core sc).updMat core c.id fun m => { m with maxDone := true }).homeApply
      (.atomic p.pa .famax false (c.maxSoFar.setWidth 64) 0) (c.maxSource core d)

/-- The rows left of a drain are read, and their lines zeroed where the descriptor asks for it, before the maximum is updated at
CORE or CLUSTER scope: their writes follow, each once Dirty is set in its leaves and its home slice has room (R274, R311; log entry
62). A row that would fault, or that the home slices of its lines hold back, leaves the drain as it was. -/
def State.readRest (s : State) (core : Nat) (r : Region) (d : AccdDesc) : Nat → MatCmd → Option (State × MatCmd)
  | 0, c => some (s, c)
  | f + 1, c =>
    match s.drainRow core c r d c.row with
    | (_, .error _) => none
    | (s1, .ok w) =>
      if s1.drainHolds core (r.rowPieces c.row) then none
      else
        (if d.zero then s1.zeroRow r c.row else s1).readRest core r d f
          { c.withRow c.row w.words with ready := c.ready ++ [(w.out, w.outBytes), (w.scale, w.scaleBytes)] }

/-- The drain completes: its region is released or reopened (R140). -/
def State.drainDone (s : State) (core : Nat) (c : MatCmd) (base : Nat) (d : AccdDesc) : State :=
  let s1 := s.dropMat core c.id
  (if d.release then s1.releaseRegion c.part base else s1.reopen c.part base).settleLeaving

/-- R140, R311. `args.x` is the core: once every row is read the maximum is updated; when every write has been performed the
region is released or reopened and the drain completes. With rows left, a maximum at CORE or CLUSTER scope is updated before
their writes. -/
def execAccdFinish (s : State) : Out :=
  let core := s.args.x
  s.withMat core fun c =>
    match c.body, c.stage with
    | .accd base d, .rows =>
      let left := d.first + d.rows - c.row
      if d.maxOn && !c.maxDone then
        if !s.maxGoes core c d then s
        else
          (match s.drainPieces core c d.maxWord 4, s.region? c.part base with
           | (s1, .error (cls, a)), _ => if left = 0 then s1.drainFault core c cls a else s
           | (s1, .ok [p]), some r =>
             if s1.opBad (.atomic p.pa .famax false 0 0) (c.maxSource core d) then (if left = 0 then s1.drainFault core c .memoryError d.maxWord else s)
             else if s1.refusedWrite (p.pa / 128) || s1.drainHolds core [p] then s
             else s1.afterDirty (c.unit core).unit [p] fun s =>
               (match s.readRest core r d left c with
                | none => s
                | some (s2, c2) => (s2.updMat core c.id fun _ => c2).maxUpdate core c2 d p)
           | (s1, .ok _), _ => s1)
      else if left = 0 ∧ c.ready = [] ∧ !s.drainHeld core c then s.drainDone core c base d
      else s
    | _, _ => s

/-! ## Batches (R227) -/

/-- A batch of a group has an operation that has not completed. -/
def State.batchBusy (s : State) (p : PartyId) (b : Nat) : Bool :=
  let f (m : MatCmd) : Bool := decide ((p, b) ∈ m.members)
  (s.copies.any fun c => decide (c.owner = p ∧ c.batch = b)) || s.cores.any (fun c => c.matrix.any f) ||
    (s.workgroups.any fun w => w.savedMatrix.any f ||
      w.latch.any fun e => decide (PartyId.group w.part w.id e.member = p ∧ e.batch = b)) ||
    s.mmas.any fun m => m.deviceScope && decide ((p, b) ∈ m.members)

/-- R227. `args.p` is the group: its oldest closed batch completes. -/
def execBatchComplete (s : State) : Out :=
  let q := s.party s.args.p
  .next (if q.batchDone ≠ q.batch ∧ !s.batchBusy q.id q.batchDone then
    s.updParty q.id fun q => { q with batchDone := (q.batchDone + 1) % 256 }
  else s)

end Sys2Proof.Machine
end

