-- ==== Sys2Proof/Machine/Rcb.lean ====
section
/-!
DEFINITION. Region control blocks (R211 to R214): their fields, their checks and the chain above a launch, and the
accesses that the shuttle makes (R221).
-/

namespace Sys2Proof.Machine

/-! ## Fields (R211) -/

def Rcb.ofBytes (bs : List Byte) : Rcb where
  kind := fieldAt bs 0 4
  priority := fieldAt bs 4 1
  flags := BitVec.ofNat 8 (fieldAt bs 5 1)
  domain := fieldAt bs 6 2
  parent := fieldAt bs 8 8
  after := fieldAt bs 0x10 8
  maxCores := fieldAt bs 0x18 4
  quota := fieldAt bs 0x1C 4
  budget := fieldAt bs 0x20 4
  stagger := fieldAt bs 0x24 4
  entry := fieldAt bs 0x28 8
  lanes := fieldAt bs 0x30 8
  x := fieldAt bs 0x38 4
  y := fieldAt bs 0x3C 4
  z := fieldAt bs 0x40 4
  groups := fieldAt bs 0x44 2
  vregs := fieldAt bs 0x46 2
  store := fieldAt bs 0x48 4
  args := fieldAt bs 0x50 8
  barrier := fieldAt bs 0x58 8
  statusAddr := fieldAt bs 0x60 8

/-- The linear count of a launch's workgroups (R33). -/
def Rcb.total (r : Rcb) : Nat := r.x * r.y * r.z

/-- The width of a launch's groups: flag bit 2 asks for legacy width (08_progress.md). -/
def Rcb.width (r : Rcb) : GroupWidth := if r.flags.getLsbD 2 then .legacy else .native

def Rcb.gw (r : Rcb) : Nat := r.width.threads

def prioOk (p : Nat) : Bool := decide (p < 8) || decide (p = 255)

/-- A well-formed region (R212). -/
def regionOk (bs : List Byte) : Bool :=
  let r := Rcb.ofBytes bs
  decide (r.kind = 1) && prioOk r.priority && decide (r.flags.toNat &&& 0xFD = 0) && decide (fieldAt bs 0x24 220 = 0)

/-- A well-formed launch (R211, R33). -/
def launchOk (bs : List Byte) : Bool :=
  let r := Rcb.ofBytes bs
  decide (r.kind = 2) && prioOk r.priority && decide (r.flags.toNat < 16) && decide (r.parent ≠ 0) &&
    decide (r.entry % 4 = 0) && decide (r.lanes % 4 = 0) && decide (1 ≤ r.x ∧ 1 ≤ r.y ∧ 1 ≤ r.z) && decide (r.total < 2 ^ 64) &&
    decide (1 ≤ r.groups ∧ r.groups ≤ 32) && decide (r.vregs = 32 ∨ r.vregs = 64 ∨ r.vregs = 128) &&
    decide (r.store % 4096 = 0 ∧ r.store ≤ 0x200000) && decide (fieldAt bs 0x4C 4 = 0) && decide (r.barrier % 16 = 0) &&
    decide (r.statusAddr % 8 = 0) && decide (fieldAt bs 0x68 152 = 0)

/-! ## Effective values (R213) -/

/-- The effective priority of a node under its regions, nearest first. -/
def effPriority : List Rcb → Nat
  | [] => 7
  | r :: up => if r.priority = 255 then effPriority up else min r.priority (effPriority up)

def effDomain (l : List Rcb) : Nat := ((l.find? fun r => decide (r.domain ≠ 0)).map (·.domain)).getD 0

/-! ## The chain above a launch (R212, R214) -/

/-- A region of a chain. -/
structure ChainNode where
  addr : Nat
  rcb : Rcb
deriving DecidableEq, Repr

/-- Reads and checks the regions above a launch up to the partition root, nearest first, `fuel` levels at most. A
region with an accepted launch beneath it keeps the values that were read. -/
def State.readChain (part : Nat) (k : State → List ChainNode → State) : Nat → State → Nat → List ChainNode → State
  | 0, s, addr, _ => s.trapAt .illegal addr
  | f + 1, s, addr, acc =>
    let next (s : State) (r : Rcb) : State :=
      let acc := acc ++ [⟨addr, r⟩]
      if r.parent ≠ 0 then s.readChain part k f r.parent acc
      else if addr = (s.partition part).root then k s acc
      else s.trapAt .illegal addr
    if addr % 256 ≠ 0 then s.trapAt .illegal addr
    else
      match s.regionRcb part addr with
      | some r => next s r
      | none =>
        s.readObject addr 256 .device fun s bs =>
          if regionOk bs then next s (Rcb.ofBytes bs) else s.trapAt .illegal addr

/-- Reads a launch RCB with its chain: levels are counted with the launch. -/
def State.readLaunch (s : State) (part va : Nat) (k : State → Rcb → List ChainNode → State) : State :=
  s.readObject va 256 .device fun s bs =>
    if launchOk bs then
      let r := Rcb.ofBytes bs
      s.readChain part (fun s c => k s r c) 7 r.parent []
    else s.trapAt .illegal va

/-- The values of regions are held from the first acceptance beneath them (R214). -/
def State.holdRegions (s : State) (part : Nat) (c : List ChainNode) : State :=
  { s with regionValues := c.foldl (fun l n =>
      if l.any fun v => decide (v.part = part ∧ v.addr = n.addr) then l else l ++ [⟨part, n.addr, n.rcb⟩]) s.regionValues }

def Launch.over (l : Launch) : Bool :=
  decide (l.state = .complete) || decide (l.state = .failed) || decide (l.state = .notRun)

/-- They are dropped when no accepted launch and no active ladder remains beneath them, and no workgroup that has outlived its
ladder. -/
def State.dropRegions (s : State) : State :=
  { s with regionValues := s.regionValues.filter fun v =>
      (s.launches.any fun l => !l.over && decide (l.part = v.part) && decide (v.addr ∈ l.chain)) ||
      (s.ladders.any fun a => decide (a.part = v.part) && a.rungs.any fun r => decide (v.addr ∈ r.chain)) ||
      s.workgroups.any fun w => decide (w.part = v.part) && w.rungOwn.any fun r => decide (v.addr ∈ r.chain) }

/-! ## The shuttle's accesses (R215, R221) -/

/-- The shuttle translates under the partition's spaceid with the permissions of a compute core. -/
def State.shuttleUnit (s : State) (part : Nat) : UnitCtx :=
  ⟨512 + part, (s.partition part).spaceid, (s.partition part).ptroot, true, false⟩

/-- An event record for a launch whose access failed (R221). -/
def State.launchEvent (s : State) (part seq : Nat) (cls : FaultClass) (addr : Nat) : State :=
  s.post (some part) 0 false
    { cls := cls, flags := recFlags false true false false false false false,
      domain := ((s.launch? part seq).map (·.domain)).getD 0, unfinished := 0, identity := dw (part * 2 ^ 52), pc := 0,
      laneAddr := 0, addr := dw addr, addr2 := 0, clk := dw s.clk }

/-- A write or arrival of the shuttle, of `n` bytes: what fails translation is not performed. What a home slice refuses is
asked for again. -/
def State.shuttleWrite (s : State) (part seq va n : Nat) (op : Nat → HomeOp) : State :=
  match s.xlate (s.shuttleUnit part) va n .write true with
  | (s1, .error (c, _)) => s1.launchEvent part seq c va
  | (s1, .ok x) =>
    if x.pieces.any fun p => s1.marked (p.pa / 128) then s1.launchEvent part seq .accumStore va
    else
      match x.pieces with
      | [p] => s1.ask ⟨(s.shuttleUnit part).unit, x.pieces, op p.pa, .shuttle part seq⟩
      | _ => s1

/-- The status word of a launch (R215). -/
def Launch.statusWord (l : Launch) (code : Nat) : Nat :=
  min l.failures (2 ^ 32 - 1) * 2 ^ 32 + l.firstReason * 2 ^ 24 + code

/-- Writes the status word at a change of state. -/
def State.writeStatus (s : State) (part seq code : Nat) : State :=
  match s.launch? part seq with
  | none => s
  | some l =>
    let s1 := s.updLaunch part seq fun l => { l with statusWritten := code }
    if l.rcb.statusAddr = 0 then s1
    else s1.shuttleWrite part seq l.rcb.statusAddr 8 fun pa => .write (cellsFrom pa (toLe 8 (l.statusWord code)))

/-- Writes of a launch's status or barrier that a tack holds back. -/
def State.shuttleHeld (s : State) (part seq : Nat) : Bool :=
  s.waitsFor (.shuttle part seq)

end Sys2Proof.Machine
end

