-- ==== Sys2Proof/Machine/Shuttle.lean ====
section
/-!
DEFINITION. The shuttle (R9, R10, R216 to R219): which work is considered, in which order, where it fits, and how a
workgroup starts, leaves and is marked for a stop.
-/

namespace Sys2Proof.Machine

/-! ## What a core holds (R9, R10) -/

def Workgroup.onCore (w : Workgroup) : Bool := decide (w.state ≠ .saved)

/-- The lane and the vector registers of every group resident on a core. -/
def State.groupSlots (s : State) (c : Nat) : List (Nat × Nat) :=
  (s.workgroups.filter fun w => decide (w.core = c) && w.onCore).flatMap fun w =>
    w.groups.map fun g => ((s.party g).lane, (s.party g).vcount)

/-- The lane with a free slot and the fewest groups, and of those the lowest. -/
def pickLane (occ : List (Nat × Nat)) (v : Nat) : Option Nat :=
  let on (l : Nat) : List (Nat × Nat) := occ.filter fun o => decide (o.1 = l)
  (List.range 64).foldl (fun best l =>
    if 128 < ((on l).map (·.2)).sum + v then best
    else
      match best with
      | none => some l
      | some b => if (on l).length < (on b).length then some l else best) none

/-- Lanes for `n` groups, in increasing group index. -/
def pickLanes (v : Nat) : Nat → List (Nat × Nat) → Option (List Nat)
  | 0, _ => some []
  | n + 1, occ =>
    match pickLane occ v with
    | none => none
    | some l => (pickLanes v n (occ ++ [(l, v)])).map (l :: ·)

/-- A range of core store that no resident workgroup holds. -/
def State.rangeFree (s : State) (c off len : Nat) : Bool :=
  decide (off + len ≤ Config.storeBytes) && !(s.workgroups.any fun w =>
    decide (w.core = c) && w.onCore && meets off len w.share w.length)

/-- The share that a placement takes: the one the schedule chooses, if it is free; else the lowest. -/
def State.freeShare (s : State) (c len : Nat) : Option Nat :=
  match s.choice.share with
  | some o =>
    if o % 4096 = 0 && s.rangeFree c o len then some o
    else (firstBelow 512 fun k => s.rangeFree c (4096 * k) len).map (4096 * ·)
  | none => (firstBelow 512 fun k => s.rangeFree c (4096 * k) len).map (4096 * ·)

/-- The max-cores budgets allow work on a core (R10, R213). -/
def State.coresOk (s : State) (k : WorkKey) (c : Nat) : Bool :=
  s.budgetOk k (·.maxCores) (fun f =>
    ((s.workgroups.filter fun w => w.onCore && f w.key).foldl (fun l w => addNew w.core l) [c]).length) 0

/-- Where a workgroup would stand. -/
structure Spot where
  core : Nat
  lanes : List Nat
  share : Nat
deriving DecidableEq, Repr

def Workgroup.owns (w : Workgroup) (c : Copy) : Bool := decide (c.part = w.part ∧ c.wg = w.id) && !c.steward

/-- A core has a copy slot and the range-lock entries for each copy of a saved workgroup, and the entries of its drains, beside
those of the workgroups that stand there (R8, R183). R10 names no copy among its conditions; without them no free slot were
left to hold a restored one: DESIGN CHOICE (log entry 53); safe. -/
def State.copyRoom (s : State) (w : Workgroup) (c : Nat) : Bool :=
  let here := s.copies.filter fun x => decide (x.core = c) && !x.saved && s.workgroups.any fun v => v.owns x
  let back := s.copies.filter w.owns
  let drains := (s.core c).matrix.filter fun m => s.workgroups.any fun v => decide (v.part = m.part ∧ v.id = m.wg)
  decide (here.length + back.length ≤ 512) &&
    decide (2 * (here.length + back.length) + ((drains ++ w.savedMatrix).map fun m => m.globals.length).sum ≤ 1024)

/-- A workgroup fits on a core (R10); `back`: a saved one returns to its own range only (R322). -/
def State.fitOn (s : State) (k : WorkKey) (r : Rcb) (back : Option Workgroup) (c : Nat) : Option Spot :=
  if (s.core c).failed || (s.core c).resetting || !s.coresOk k c then none
  else
    match pickLanes r.vregs r.groups (s.groupSlots c), (match back with
        | some w => if s.rangeFree c w.share r.store && s.copyRoom w c then some w.share else none
        | none => s.freeShare c r.store) with
    | some ls, some o => some ⟨c, ls, o⟩
    | _, _ => none

/-- The compute cores of a partition, and of its cores those of one cluster. -/
def State.coresOf (s : State) (part : Nat) : List Nat :=
  (List.range 128).filter fun c => (s.partition part).enabled && (s.partition part).cores.getLsbD c

/-- Among the cores that fit, the one with the fewest resident groups, and of those the lowest (R217). -/
def State.fit (s : State) (k : WorkKey) (r : Rcb) (back : Option Workgroup) (cores : List Nat) : Option Spot :=
  cores.foldl (fun best c =>
    match s.fitOn k r back c with
    | none => best
    | some x =>
      match best with
      | none => some x
      | some b => if (s.groupSlots c).length < (s.groupSlots b.core).length then some x else best) none

/-! ## What waits to be placed (R217, R220, R234, R323) -/

inductive Cand where
  | saved (wg : Nat)
  | pack (ladder rung : Nat)
  | launch (seq : Nat)
deriving DecidableEq, Repr

/-- A candidate with the key of its place in the order, lowest first. -/
structure Ranked where
  key : List Nat
  cand : Cand
deriving DecidableEq, Repr

/-- Compares keys of one length. -/
def keyLt : List Nat → List Nat → Bool
  | a :: x, b :: y => decide (a < b) || (decide (a = b) && keyLt x y)
  | _, _ => false

def insertRanked (x : Ranked) : List Ranked → List Ranked
  | [] => [x]
  | y :: r => if keyLt x.key y.key then x :: y :: r else y :: insertRanked x r

def sortRanked (l : List Ranked) : List Ranked := l.foldl (fun a x => insertRanked x a) []

/-- The dispatch priority of a launch: raised while its first workgroup has not started. -/
def Launch.dispatch (l : Launch) : Nat := if l.nextIndex = 0 then min 7 (l.priority + l.aged) else l.priority

def Launch.unplaced (l : Launch) : Bool := !l.retry.isEmpty || decide (l.nextIndex < l.rcb.total)

/-- A saved workgroup may be restored: none of its groups is parked, it does not wait in a wide phase, and no pack for which it
has been swapped out is still to be placed (R236). -/
def State.restorable (s : State) (w : Workgroup) : Bool :=
  decide (w.state = .saved) && !(w.displaced && (w.rung.bind fun r => s.ladder? w.part r.1).isSome) &&
    (w.groups.all fun g => decide ((s.party g).status ≠ .parked ∧ (s.party g).status ≠ .darned)) &&
    ((w.groups.any fun g => decide ((s.party g).status = .running)) ||
      ((s.launch? w.part w.launch).map fun l => decide (l.resume.head? = some w.index)).getD false)

/-- Entries of a rung's queue that a decision now sees (R321). -/
def State.seenEntries (s : State) (r : Rung) : List (Nat × List Byte × Nat × Nat) :=
  r.queue.takeWhile fun e => decide (e.2.2.1 < s.clk)

/-- A pack meets its rule's condition (R234). -/
def State.packReady (s : State) (r : Rung) : Bool :=
  match s.seenEntries r with
  | [] => false
  | e :: q => decide (r.rcb.gw ≤ q.length + 1) || decide (r.limit ≤ s.clk - e.2.2.1)

/-- A stagger has run out (R218). -/
def State.staggered (s : State) (last : Option Nat) (d : Nat) : Bool :=
  match last with
  | none => true
  | some t => decide (t + d ≤ s.clk)

/-- Everything that waits to be placed in a partition, in order. -/
def State.order (s : State) (part : Nat) : List Cand :=
  let sv := (s.workgroups.filter fun w => decide (w.part = part) && s.restorable w).map fun w =>
    (⟨[7 - min 7 (s.priorityOf w + w.aged), 0, 7 - s.priorityOf w, w.savedAt, w.id], .saved w.id⟩ : Ranked)
  let ls := s.ladders.mapIdx fun i a => (i, a)
  let pk := (ls.filter fun a => decide (a.2.part = part)).flatMap fun a =>
    ((a.2.rungs.mapIdx fun k r => (k, r)).filter fun k => s.packReady k.2).map fun k =>
      (⟨[7 - k.2.priority, 1, 7 - k.1, a.1, 0], .pack a.2.addr k.1⟩ : Ranked)
  let la := (s.launches.filter fun l => decide (l.part = part) && l.unplaced &&
      (decide (l.state = .eligible) || decide (l.state = .running))).map fun l =>
    (⟨[7 - l.dispatch, 2, 7 - l.priority, l.seq, 0], .launch l.seq⟩ : Ranked)
  (sortRanked (sv ++ pk ++ la)).map (·.cand)

/-- A launch ahead of it in the same queue has not started its first workgroup (R217). -/
def State.behindFirst (s : State) (l : Launch) : Bool :=
  decide (l.nextIndex = 0) && s.launches.any fun m =>
    decide (m.part = l.part ∧ m.priority = l.priority ∧ m.order < l.order ∧ m.nextIndex = 0 ∧ m.state = .eligible)

/-- The first launch in the order has been first since a moment, which is kept, also while a stagger delays it; the others have
not (R217). -/
def State.noteFirst (s : State) (part : Nat) : State :=
  let first := (s.order part).findSome? fun c =>
    match c with
    | .launch q => some q
    | _ => none
  { s with launches := s.launches.map fun l =>
      if l.part ≠ part then l
      else if some l.seq = first then { l with firstSince := some (l.firstSince.getD s.clk) }
      else { l with firstSince := none } }

/-! ## Starting a workgroup (R26, R333) -/

/-- The registers of a group at its start; `ladder` is the ladder object and the rung of a rung group. -/
def startParty (id : PartyId) (c lane : Nat) (r : Rcb) (index share : Nat) (ladder : Option (Nat × Nat)) (items : List Item) :
    Party :=
  let q : Party :=
    { Party.blank id c with
      lane := lane
      width := r.width
      vcount := r.vregs
      em := match ladder with
          | none => fullMask r.gw
          | some _ => fullMask items.length
      pc := dw r.entry
      vregs := (List.range r.gw).foldl (fun m t => cellSet m t (wd t)) [] }
  let q1 := (((q.setSreg 1 (dw r.args)).setSreg 2 (dw index)).setSreg 3 (dw (groupIndex id))).setSreg 4 (dw share)
  match ladder with
  | none => q1
  | some (a, k) =>
    items.foldl (fun q i => q.setVreg 1 i.thread (wd i.index)) ((q1.setSreg 5 (dw a)).setSreg 6 (dw k))

/-- The resident-workgroup identifier that a placement takes: the schedule's choice, if it is free; else the lowest. -/
def State.freeWg (s : State) (part : Nat) : Nat :=
  let taken (n : Nat) : Bool := s.workgroups.any fun w => decide (w.part = part ∧ w.id = n)
  let lowest := (firstBelow (s.workgroups.length + 1) fun n => !taken n).getD 0
  match s.choice.wgId with
  | some n => if n < 2 ^ 32 && !taken n then n else lowest
  | none => lowest

/-- A workgroup becomes resident at a spot, each group with a DEVICE acquire and with the space and root that the shuttle
loads at dispatch (R272). How long a group has waited when none of its runs has ended yet R13 does not say: it counts from
here. DESIGN CHOICE (log entry 54); unsafe for a claim about the arbitration of a lane before a group's first run. -/
def State.startWg (s : State) (k : WorkKey) (r : Rcb) (index : Nat) (x : Spot) (items : List Item) (retried : Bool) : State :=
  let id := s.freeWg k.part
  let gs := (List.range r.groups).map fun i => PartyId.group k.part id i
  let w : Workgroup :=
    { part := k.part, id := id, launch := k.launch, rung := k.rung, rungOwn := none, index := index, core := x.core, share := x.share,
      length := r.store, groups := gs, state := .resident, startedAt := s.clk, savedAt := 0, aged := 0, retried := retried,
      sharing := none, deferred := false, displaced := false, poolAt := 0, shadowed := false,
      imageErrors := [], latch := [], items := items, image := [], scaleImage := [], savedMatrix := [] }
  let ps := (gs.zip x.lanes).map fun g => startParty g.1 x.core g.2 r index x.share k.rung items
  let p := s.partition k.part
  let ps := ps.map fun q =>
    { q with lastRunEnd := s.clk, spaceid := BitVec.ofNat 64 p.spaceid, ptroot := BitVec.ofNat 64 p.ptroot }
  ({ s with workgroups := s.workgroups ++ [w], parties := s.parties ++ ps } : State).acquireNow x.core .device

/-! ## Leaving a core (R27, R33) -/

/-- An error in the share or the scale window of a workgroup on its core. -/
def Workgroup.holdsError (w : Workgroup) (e : ErrSite) : Bool :=
  match e with
  | .coreStore c o => decide (c = w.core) && within o 1 w.share w.length
  | .scaleStore c o =>
    decide (c = w.core ∧ w.window.1 ≤ o % Config.scaleColumns ∧ o % Config.scaleColumns < w.window.1 + w.window.2)
  | _ => false

/-- The clear bits of the share and the scale window of a workgroup that leaves a core are set: they read as zeros from then
on. -/
def State.clearShare (s : State) (w : Workgroup) : State :=
  let (c0, n) := w.window
  { s.updCore w.core fun c =>
      { c with
        store := cellClear c.store w.share w.length
        scale := c.scale.filter fun x => !(decide (c0 ≤ x.1 % Config.scaleColumns) && decide (x.1 % Config.scaleColumns < c0 + n))
        blocks := c.blocks.filter fun b => !within (4096 * b) 4096 w.share w.length
        columns := c.columns.filter fun x => !(decide (c0 ≤ x) && decide (x < c0 + n)) } with
    counted := s.counted.filter fun x =>
      match x.1 with
      | .store c o => !(decide (c = w.core) && within o 16 w.share w.length)
      | _ => true
    errors := s.errors.filter fun e => !w.holdsError e }

/-- A workgroup and its parties are gone; its identifier is free (R333). -/
def State.removeWg (s : State) (w : Workgroup) : State :=
  let s1 := if w.onCore then s.clearShare w else s
  { s1 with
    workgroups := s1.workgroups.filter fun v => !(decide (v.part = w.part) && decide (v.id = w.id))
    parties := s1.parties.filter fun q => !decide (q.id ∈ w.groups)
    tacks := s1.tacks.map fun t => { t with holders := t.holders.filter fun h => !decide (h.p ∈ w.groups) }
    errors := s1.errors.filter fun e =>
      match e with
      | .sreg p _ => !decide (p ∈ w.groups)
      | .vreg p _ _ => !decide (p ∈ w.groups)
      | _ => true }

/-- A workgroup of a launch has ended: it is counted. When its last workgroup has left, every region that the launch still holds
is released (R138). -/
def State.countEnded (s : State) (w : Workgroup) : State :=
  if w.rung.isSome then s
  else
    let s1 := s.updLaunch w.part w.launch fun l => { l with ended := l.ended + 1 }
    if ((s1.launch? w.part w.launch).map fun l => decide (l.rcb.total ≤ l.ended)).getD false then
      s1.releaseRegions fun k => decide (k = w.key)
    else s1

/-- Accumulator regions of rung groups whose ladder has retired are released when no group of the rung is left (R138), and the
values of the control blocks above them dropped. -/
def State.releaseRung (s : State) (w : Workgroup) : State :=
  match w.rung with
  | some r =>
    if (s.ladder? w.part r.1).isNone && !(s.workgroups.any fun v => decide (v.key = w.key)) then
      (s.releaseRegions fun k => decide (k = w.key)).dropRegions
    else s.dropRegions
  | none => s

/-! ## The save pool (R296, R301) -/

/-- A usable fault queue (R298). One that meets the locked bytes of the reserved-frame map, where no write is performed (R276),
is not: DEDUCED (log entry 54). -/
def State.queueUsable (s : State) (a : Nat) : Bool :=
  let cap := s.queueField a 0 4
  decide (a % 64 = 0) && s.queueSized a && decide (a + 64 + 64 * cap ≤ Config.dramBytes) &&
    ((cutAt 65536 70 a (64 + 64 * cap)).all fun c => s.frameReserved (c.1 / 65536)) && !s.mapLocked a (64 + 64 * cap)

/-- The image size of a workgroup (R301). -/
def State.imageSize (s : State) (w : Workgroup) : Nat :=
  4096 + w.length + w.length / 32 +
    (w.groups.map fun g => 1376 + 128 * (s.party g).vcount).sum

/-- The bytes of a partition's save pool. One that does not lie in DRAM, or that meets the locked bytes of the reserved-frame map,
where no write is performed (R276), has no room: DEDUCED (log entry 54). -/
def State.poolSize (s : State) (part : Nat) : Nat :=
  let a := (s.partition part).faultQueue
  let n := s.queueField a 40 8
  if s.queueUsable a && decide (s.queueField a 32 8 + n ≤ Config.dramBytes) && !s.mapLocked (s.queueField a 32 8) n then n else 0

/-- Its free bytes, less what workgroups that are being saved will take. -/
def State.poolFree (s : State) (part : Nat) : Nat :=
  s.poolSize part - ((s.workgroups.filter fun w => decide (w.part = part ∧ w.state ≠ .resident)).map s.imageSize).sum

/-- The images in a partition's save pool: offset and size. -/
def State.pooled (s : State) (part : Nat) : List (Nat × Nat) :=
  (s.workgroups.filter fun w => decide (w.part = part ∧ (w.state = .saved ∨ w.state = .saving)) && !w.shadowed).map fun w =>
    (w.poolAt, s.imageSize w)

/-- The lowest place in the save pool that no image holds: the start, or the end of one. The spec fixes none. -/
def State.poolPlace (s : State) (part n : Nat) : Nat :=
  let l := s.pooled part
  let free (o : Nat) : Bool := !(l.any fun x => meets o n x.1 x.2)
  (((0 :: l.map fun x => x.1 + x.2).filter free).min?).getD 0

/-- A group of a workgroup is in a critical section. -/
def State.inCrit (s : State) (w : Workgroup) : Bool := w.groups.any fun g => (s.party g).crit.isSome

/-- A workgroup is being stopped: none of its groups is ready from now on (R222, R300). -/
def State.stopWg (s : State) (w : Workgroup) : State :=
  (w.groups.foldl (fun s g => s.updParty g fun q => { q with readySince := none }) s).updWg w.part w.id fun w =>
    { w with state := .stopping, deferred := false }

/-- A save begins, if the pool has room; a critical section defers it (R238, R300, R301). -/
def State.beginStop (s : State) (part wg : Nat) : State :=
  match s.wg? part wg with
  | none => s
  | some w =>
    if w.state ≠ .resident ∨ s.poolFree part < s.imageSize w then s
    else if s.inCrit w then s.updWg part wg fun w => { w with deferred := true }
    else s.stopWg w

/-- A group leaves its critical section: a pre-emption that it deferred begins (R239). -/
def State.endCrit (s : State) (p : PartyId) : State :=
  let s1 := s.updParty p fun q => { q with crit := none }
  match s1.wgOf p with
  | some w => if w.deferred then s1.beginStop w.part w.id else s1
  | none => s1

/-! ## Pre-emption (R219, R231) -/

/-- A workgroup is on its way out of its core. -/
def Workgroup.leaves (w : Workgroup) : Bool := decide (w.state = .stopping ∨ w.state = .stopped ∨ w.state = .saving)

/-- The state without some workgroups of a core, and without those on their way out. -/
def State.without (s : State) (ids : List (Nat × Nat)) : State :=
  { s with workgroups := s.workgroups.filter fun w =>
      !w.leaves && !decide ((w.part, w.id) ∈ ids) }

/-- Orders victims: lowest priority first, and of equals the most recently started. -/
def insertVictim (s : State) (w : Workgroup) : List Workgroup → List Workgroup
  | [] => [w]
  | v :: r =>
    if s.priorityOf w < s.priorityOf v ∨ (s.priorityOf w = s.priorityOf v ∧ v.startedAt < w.startedAt) then w :: v :: r
    else v :: insertVictim s w r

/-- The fewest of a core's victims whose removal makes work fit there. -/
def State.victimsOn (s : State) (k : WorkKey) (r : Rcb) (back : Option Workgroup) (ok : Workgroup → Bool) (c : Nat) :
    Option (List (Nat × Nat)) :=
  let vs := ((s.workgroups.filter fun w => decide (w.core = c ∧ w.state = .resident) && ok w).foldl
    (fun l w => insertVictim s w l) []).map fun w => (w.part, w.id)
  ((List.range vs.length).map fun n => vs.take (n + 1)).find? fun l => ((s.without l).fitOn k r back c).isSome

/-- Stops the victims that make work fit: on the core that needs the fewest removals, and of those the lowest. Nothing
is stopped where the work fits already, or will once those on their way out have gone. -/
def State.preempt (s : State) (k : WorkKey) (r : Rcb) (back : Option Workgroup) (cores : List Nat) (ok : Workgroup → Bool) : State :=
  if ((s.without []).fit k r back cores).isSome then s
  else
    match cores.foldl (fun (best : Option (List (Nat × Nat))) c =>
        match s.victimsOn k r back ok c with
        | none => best
        | some v =>
          match best with
          | none => some v
          | some b => if v.length < b.length then some v else best) none with
    | none => s
    | some v => v.foldl (fun s i => s.beginStop i.1 i.2) s

/-- Marks the workgroups that a pre-emption has just chosen, and that meet a condition, as swapped out for a pack (R236). -/
def State.displace (t s : State) (f : Workgroup → Bool) : State :=
  { t with workgroups := t.workgroups.map fun w =>
      match s.wg? w.part w.id with
      | some v => if f v && (decide (v.state ≠ w.state) || (w.deferred && !v.deferred)) then { w with displaced := true } else w
      | none => w }

/-- Every group of a workgroup has arrived at a wide phase (R230). -/
def State.arrived (s : State) (w : Workgroup) : Bool :=
  w.groups.all fun g => decide ((s.party g).status = .phase ∨ (s.party g).status = .ended)

/-- The cores on which a saved workgroup may stand: for a rung group those of its ladder's cluster, in which it has started
(R232). -/
def State.coresFor (s : State) (w : Workgroup) : List Nat :=
  (s.coresOf w.part).filter fun c => w.rung.isNone || decide (clusterOfCore c = clusterOfCore w.core)

/-- What a saved workgroup needs of a core. -/
def State.shapeOf (s : State) (w : Workgroup) : Rcb :=
  { (s.rcbOfWg w).getD (Rcb.ofBytes []) with
    groups := w.groups.length
    vregs := ((w.groups.head?).map fun g => (s.party g).vcount).getD 0
    store := w.length }

/-- The removals that the order calls for: for the launch and the saved workgroup that stand first (R219), for a
launch whose own arrived workgroups hold what it needs (R231), and for a ready pack whose ladder's stalled groups do
(R236). `stalled` names those groups. -/
def State.makeRoom (s : State) (part : Nat) (stalled : Nat → Nat → Workgroup → Bool) : State :=
  let cores := s.coresOf part
  let ord := s.order part
  let s1 := match ord.find? fun c => match c with | .saved _ => true | _ => false with
    | some (.saved id) =>
      (match s.wg? part id with
       | some w => s.preempt w.key (s.shapeOf w) (some w) (s.coresFor w) fun v =>
           decide (v.part = part) && decide (s.priorityOf v < s.priorityOf w)
       | none => s)
    | _ => s
  let s2 := match ord.find? fun c => match c with | .launch _ => true | _ => false with
    | some (.launch q) =>
      (match s1.launch? part q with
       | some l =>
         if s1.behindFirst l || !s1.staggered l.lastStart l.rcb.stagger then s1
         else s1.preempt ⟨part, q, none⟩ l.rcb none cores fun v =>
           decide (v.part = part) && decide (s1.priorityOf v < l.priority)
       | none => s1)
    | _ => s1
  let s3 := ord.foldl (fun s c =>
    match c with
    | .launch q =>
      (match s.launch? part q with
       | some l => s.preempt ⟨part, q, none⟩ l.rcb none cores fun v =>
           decide (v.part = part ∧ v.launch = q ∧ v.rung = none) && s.arrived v
       | none => s)
    | _ => s) s2
  ord.foldl (fun s c =>
    match c with
    | .pack a k =>
      (match (s.ladder? part a).bind fun l => (l.rungs[k]?).map fun r => (l, r) with
       | some (l, r) => (s.preempt ⟨part, 0, some (a, k)⟩ r.rcb none (cores.filter fun c => decide (clusterOfCore c = l.cluster))
           (stalled a k)).displace s (stalled a k)
       | none => s)
    | _ => s) s3

/-! ## The placement of a clk (R217) -/

/-- The first candidate in order that can be placed now, with its spot. -/
def State.firstFit (s : State) (part : Nat) : List Cand → Bool → Option (Cand × Spot)
  | [], _ => none
  | c :: rest, blocked =>
    let cores := s.coresOf part
    match c with
    | .saved id =>
      (match s.wg? part id with
       | none => s.firstFit part rest blocked
       | some w =>
         let r := s.shapeOf w
         let last := match s.rungOf w with
           | some g => g.lastStart
           | none => (s.launch? part w.launch).bind (·.lastStart)
         if !s.staggered last r.stagger then s.firstFit part rest blocked
         else
           match s.fit w.key r (some w) (s.coresFor w) with
           | some x => some (c, x)
           | none => s.firstFit part rest blocked)
    | .pack a k =>
      (match (s.ladder? part a).bind fun l => (l.rungs[k]?).map fun r => (l, r) with
       | none => s.firstFit part rest blocked
       | some (l, r) =>
         if !s.staggered r.lastStart r.rcb.stagger then s.firstFit part rest blocked
         else
           match s.fit ⟨part, 0, some (a, k)⟩ r.rcb none (cores.filter fun c => decide (clusterOfCore c = l.cluster)) with
           | some x => some (c, x)
           | none => s.firstFit part rest blocked)
    | .launch q =>
      (match s.launch? part q with
       | none => s.firstFit part rest blocked
       | some l =>
         if blocked || s.behindFirst l || !s.staggered l.lastStart l.rcb.stagger then s.firstFit part rest (blocked || l.blocking)
         else
           match s.fit ⟨part, q, none⟩ l.rcb none cores with
           | some x => some (c, x)
           | none => s.firstFit part rest l.blocking)

/-- Nothing of a partition that is swapped out is placed (R306). -/
def State.placeable (s : State) (part : Nat) : Option (Cand × Spot) :=
  if (s.partition part).swappedOut || !(s.partition part).enabled then none else s.firstFit part (s.order part) false

end Sys2Proof.Machine
end

