-- ==== Sys2Proof/Machine/Work.lean ====
section
/-!
DEFINITION. The WORK family (R262 to R268) and the shuttle's steps for launches and wide phases (R216 to R231, R238,
R239).
-/

namespace Sys2Proof.Machine

/-! ## Tickets (R215) -/

def ticketOf (part seq : Nat) : Nat := part * 2 ^ 60 + seq

/-- The state of an issued ticket: older than the last 65536, it reads as complete. -/
def State.ticketState (s : State) (part seq : Nat) : Nat :=
  if seq + 65536 < (s.partition part).nextSeq then 3
  else
    match s.launch? part seq with
    | none => 3
    | some l =>
      match l.state with
      | .waiting => 1 | .eligible => 0 | .running => 2 | .complete => 3 | .failed => 4 | .notRun => 5

/-- A launch that waits on a ticket. -/
def Launch.waitsOn (l : Launch) (part seq : Nat) : Bool :=
  decide (l.state = .waiting ∧ l.part = part ∧ l.rcb.after = ticketOf part seq)

/-- Launches that wait on a ticket which has ended in state 4 or 5 never run, and those that wait on them in turn. -/
def State.notRun (part : Nat) : Nat → State → List Nat → State
  | 0, s, _ => s
  | _, s, [] => s
  | f + 1, s, q :: rest =>
    let ws := (s.launches.filter fun l => l.waitsOn part q).map (·.seq)
    let s1 := ws.foldl (fun s n => (s.updLaunch part n fun l => { l with state := .notRun }).writeStatus part n 5) s
    s1.notRun part f (rest ++ ws)

/-- A launch joins the queue of its priority, behind those that stand there (R216). -/
def State.makeEligible (s : State) (part seq : Nat) : State :=
  { s.updLaunch part seq fun l => { l with state := .eligible, eligibleAt := s.clk, order := s.fresh } with fresh := s.fresh + 1 }

/-- A ticket has ended: the launches that wait on it (R216). -/
def State.ticketEnded (s : State) (part seq code : Nat) : State :=
  if code = 3 then
    ((s.launches.filter fun l => l.waitsOn part seq).map (·.seq)).foldl
      (fun s n => (s.makeEligible part n).writeStatus part n 0) s
  else s.notRun part (s.launches.length + 1) [seq]

/-- The acceptance of a ticket puts another out of the window of the last 65536, which counts as completed (R215). -/
def State.closeWindow (s : State) (part seq : Nat) : State :=
  if 65536 < seq then s.ticketEnded part (seq - 65536) 3 else s

/-! ## LAUNCH (R263) -/

/-- Accepted launches of a partition that are incomplete. -/
def State.incomplete (s : State) (part : Nat) : Nat := (s.launches.filter fun l => decide (l.part = part) && !l.over).length

/-- Accepts a launch that has passed its checks. -/
def State.accept (s : State) (d : BitVec 6) (part : Nat) (r : Rcb) (chain : List ChainNode) : State :=
  let seq := (s.partition part).nextSeq
  let nodes := r :: chain.map (·.rcb)
  let ended := if r.after = 0 then 3 else s.ticketState part (r.after % 2 ^ 60)
  let l : Launch :=
    { part := part, seq := seq, rcb := r, chain := chain.map (·.addr), priority := effPriority nodes,
      domain := effDomain nodes, state := .waiting, eligibleAt := s.clk, order := 0, aged := 0, nextIndex := 0,
      ended := 0, failures := 0, firstReason := 0, lastStart := none, firstSince := none, blocking := false, retry := [],
      resume := [], statusWritten := 0, acceptedBy := s.me.core }
  let s0 : State := { (s.updPartition part fun p => { p with nextSeq := seq + 1 }) with launches := s.launches ++ [l] }
  let s1 := (if ended = 3 then s0.makeEligible part seq else s0).holdRegions part chain
  let s2 := (s1.writeStatus part seq (if ended = 3 then 0 else 1)).closeWindow part seq
  let s3 :=
    if ended = 4 ∨ ended = 5 then (s2.updLaunch part seq fun l => { l with state := .notRun }).writeStatus part seq 5 else s2
  (s3.dropRegions.noteFirst part).alu d (dw (ticketOf part seq))

def execLaunch (d a : BitVec 6) (s : State) : Out :=
  s.afterRuns fun s => s.scalar [d] [a] fun s =>
    let va := (s.rd a).toNat
    if va % 256 ≠ 0 then s.trapAt .alignment va
    else if !s.me.settled then s
    else
      match s.partOf s.me with
      | none => s.trap .privilege
      | some part =>
        s.afterRelease s.me.core .device fun s => s.readLaunch part va fun s1 r chain =>
          let q := r.after % 2 ^ 60
          if r.after ≠ 0 ∧ (r.after / 2 ^ 60 ≠ part ∨ q = 0 ∨ (s1.partition part).nextSeq ≤ q) then s1.trapAt .illegal va
          else if 4096 ≤ s1.incomplete part then s
          else s1.accept d part r chain

/-! ## LWAIT (R264) -/

/-- The ticket of an operand, or none: class 0x01. -/
def State.ticketArg (s : State) (v : DWord) : Option (Nat × Nat) :=
  match s.partOf s.me with
  | none => none
  | some part =>
    let q := v.toNat % 2 ^ 60
    if v.toNat / 2 ^ 60 = part ∧ q ≠ 0 ∧ q < (s.partition part).nextSeq then some (part, q) else none

def execLwait (d a : BitVec 6) (s : State) : Out :=
  s.scalar [d] [a] fun s =>
    match s.ticketArg (s.rd a) with
    | none => s.trap .illegal
    | some (p, q) =>
      let st := s.ticketState p q
      if st < 3 then s else s.acquire s.actor .device [] (.load d.toNat 0 3 [] (dw st))

def execLwaitTest (d a : BitVec 6) (s : State) : Out :=
  s.scalar [d] [a] fun s =>
    match s.ticketArg (s.rd a) with
    | none => s.trap .illegal
    | some (p, q) =>
      let st := s.ticketState p q
      if st < 3 then s.alu d (dw st) else s.acquire s.actor .device [] (.load d.toNat 0 3 [] (dw st))

/-! ## EXIT (R265) -/

/-- Every batch has completed and nothing of the open one is outstanding. -/
def State.batchesDone (s : State) (q : Party) : Bool := decide (q.openBatches = 0) && !s.batchBusy q.id q.batch

/-- The group has nothing outstanding: what EXIT waits for. -/
def State.finished (s : State) (q : Party) : Bool :=
  q.laneIdle && q.ops.isEmpty && q.loads.isEmpty && q.sq.isEmpty && q.acqs.isEmpty && q.pending.isEmpty && s.batchesDone q

/-- The active threads of a rung group whose items are neither settled nor escalated (R237). -/
def Workgroup.unsettled (w : Workgroup) (em : Word) : Word :=
  maskOf 32 fun t => maskBit em t && w.items.any fun i => decide (i.thread = t ∧ i.state = .running)

/-- A set of joint MMAs that still awaits the group (R125). -/
def Workgroup.awaits (w : Workgroup) (g : Nat) : Option LatchEntry :=
  w.latch.find? fun e => decide (g ∈ e.gang ∧ e.member ≠ g) && !(w.latch.any fun x => decide (x.member = g ∧ x.number = e.number))

/-- The last group has ended: the workgroup leaves its core (R33). -/
def State.wgExit (s : State) (w : Workgroup) : State :=
  ((((s.removeWg w).countEnded w).releaseRung w).noteFirst w.part)

/-- Ends a group. -/
def State.endGroup (s : State) (w : Workgroup) : State :=
  let s1 := (s.endCrit s.actor).upd fun q => { q with status := .ended, gang := [], yieldTo := [] }
  let s2 : State := { s1 with tacks := s1.tacks.map fun t => { t with holders := t.holders.filter fun h => decide (h.p ≠ s.actor) } }
  if w.groups.all fun g => decide ((s2.party g).status = .ended) then s2.wgExit w else s2

def execExit (s : State) : Out :=
  s.laneOnly (.next (
    let q := s.me
    match s.wgOf q.id with
    | none => s
    | some w =>
      if !s.finished q then s
      else
        let left := if w.rung.isSome then w.unsettled q.em else 0
        if left ≠ 0 then
          s.fault q.id .illegal .scalar { addr := 0, addr2 := 0, replayable := false, unfinished := left, laneAddr := none }
        else
          match w.awaits (groupIndex q.id) with
          | some e =>
            let set := w.latch.filter fun x => decide (x.number = e.number)
            if w.groups.any fun g => decide (groupIndex g ∈ latchNeeds set) && (s.party g).midway then s
            else (s.updWg w.part w.id fun w => { w with latch := w.latch.filter fun x => decide (x.number ≠ e.number) }).gangFault w
              q.id (latchNeeds set) e.number
          | none => s.endGroup w))

/-! ## YIELD (R266) -/

/-- The scalar unit of a lane (R8). -/
def Party.unit (q : Party) : Nat := q.lane / 8

/-- A group that could issue a scalar instruction now. One whose scalar access has failed is about to park. -/
def Party.ready (q : Party) : Bool :=
  decide (q.status = .running) && q.stallOn.isEmpty && (q.unpicks.isEmpty || q.midway) &&
    !(q.sq.any fun e => e.failed && e.op.isNone) &&
    q.acqs.all fun a => match a.fin with | .lane _ => true | _ => false

/-- The workgroup of a party is resident and not being stopped; a steward core has none. -/
def State.onCore (s : State) (q : Party) : Bool :=
  q.id.isSteward || ((s.wgOf q.id).map fun w => decide (w.state = .resident)).getD false

/-- The workgroup of a group has not been stopped: a run that has started may finish (R300). -/
def State.mayFinish (s : State) (q : Party) : Bool :=
  ((s.wgOf q.id).map fun w => decide (w.state = .resident ∨ w.state = .stopping)).getD false

/-- A ready scalar stream of the unit (R266): a group that is not on its core has none, and one that is being stopped ends the
instruction that it is in (R300). -/
def State.streams (s : State) (q : Party) : Bool :=
  q.ready && (s.onCore q || (q.midway && ((s.wgOf q.id).map fun w => decide (w.state = .stopping)).getD false))

def execYield (s : State) : Out :=
  if s.actor.isSteward then .next s.adv
  else
    let q := s.me
    let others := (s.parties.filter fun r => decide (r.id ≠ q.id ∧ r.core = q.core ∧ r.unit = q.unit) && s.streams r).map (·.id)
    .next (s.upd fun q => { q with yieldTo := others }).adv

/-! ## PHASE (R230, R267) -/

def execPhase (s : State) : Out :=
  s.laneOnly (.next (
    let q := s.me
    match s.wgOf q.id with
    | none => s
    | some w =>
      if w.rung.isSome then s.trap .illegal
      else
        -- the critical section ends before the wait (R267)
        let s1 := if q.crit.isSome then s.endCrit q.id else s
        if !(q.laneIdle && q.settled && s.batchesDone q) then s1
        else s1.afterRelease q.core .device fun s =>
          (s.upd fun q => { q with status := .phase, pc := q.pc + 4 }).noteFirst w.part))

/-! ## Critical sections (R238, R239, R268) -/

/-- Effective crit-allowed (R213). -/
def State.critAllowed (s : State) (p : PartyId) : Bool :=
  match s.wgOf p with
  | none => false
  | some w =>
    ((s.rcbOfWg w).map fun r => r.flags.getLsbD 1).getD false &&
      (s.chainOf w.key).all fun a => ((s.regionRcb w.part a).map fun r => r.flags.getLsbD 1).getD false

def execCriton (s : State) : Out :=
  s.laneOnly (.next (
    if !s.critAllowed s.actor then s.trap .privilege
    else (s.upd fun q => { q with crit := some (q.crit.getD s.clk) }).adv))

def execCritoff (s : State) : Out := s.laneOnly (.next (s.endCrit s.actor).adv)

/-- R239. `args.p` is the group: 50 microseconds have passed since its CRITON. -/
def execCriticalSectionExpiry (s : State) : Out :=
  let q := s.party s.args.p
  .next (match q.crit with
  | none => s
  | some t =>
    if s.clk < t + Config.us50 then s
    else (s.event q.id .critExpired FaultInfo.plain false).endCrit q.id)

/-- The issue priority of a group (R222). -/
def State.issuePriority (s : State) (q : Party) : Nat :=
  if q.crit.isSome then 8
  else min 7 (((s.wgOf q.id).map s.priorityOf).getD 0 + q.aged)

/-! ## Launch queues -/

/-- R217. `args.x` is the partition and `args.y` the launch. -/
def execDispatchPriorityAging (s : State) : Out :=
  .next ((s.updLaunch s.args.x s.args.y fun l =>
    if l.state = .eligible ∧ l.nextIndex = 0 ∧ l.eligibleAt + Config.us20 * (l.aged + 1) ≤ s.clk ∧ l.priority + l.aged < 7 then
      { l with aged := l.aged + 1 }
    else l).noteFirst s.args.x)

/-- R323. `args.x` is the partition and `args.y` the saved workgroup. -/
def execSavedPriorityAging (s : State) : Out :=
  .next (s.updWg s.args.x s.args.y fun w =>
    if w.state = .saved ∧ w.savedAt + Config.us20 * (w.aged + 1) ≤ s.clk ∧ s.priorityOf w + w.aged < 7 then
      { w with aged := w.aged + 1 }
    else w)

/-- R217. `args.x` is the partition and `args.y` the launch: first for 100 microseconds. -/
def execLaunchBlocking (s : State) : Out :=
  .next (s.updLaunch s.args.x s.args.y fun l =>
    match l.firstSince with
    | some t => if t + Config.us100 ≤ s.clk then { l with blocking := true } else l
    | none => l)

/-- R218. `args.x` is the partition and `args.y` the launch. -/
def execStaggerExpiry (s : State) : Out :=
  .next ((s.updLaunch s.args.x s.args.y fun l =>
    if s.staggered l.lastStart l.rcb.stagger then { l with lastStart := none } else l).noteFirst s.args.x)

/-- R217. `args.x` is the partition: the shuttle makes room where the order calls for it, and places the next workgroup
of a launch if that comes first. -/
def execWorkgroupPlacement (s : State) : Out :=
  let part := s.args.x
  let s0 := s.makeRoom part fun _ _ _ => false
  .next (match s0.placeable part with
  | some (.launch q, x) =>
    (match s0.launch? part q with
     | none => s0
     | some l =>
       let (index, again) : Nat × Bool := match l.retry with
         | i :: _ => (i, true)
         | [] => (l.nextIndex, false)
       let s1 := s0.startWg ⟨part, q, none⟩ l.rcb index x [] again
       let s2 := s1.updLaunch part q fun l =>
         { l with
           retry := if again then l.retry.drop 1 else l.retry
           nextIndex := if again then l.nextIndex else l.nextIndex + 1
           lastStart := some s.clk
           firstSince := none
           blocking := false
           state := .running }
       (if l.state = .running then s2 else s2.writeStatus part q 2).noteFirst part)
  | _ => s0)

/-! ## Completion (R221) -/

/-- The DEVICE release on behalf of every group of a launch: the cores of its partition drain, and then `k`; while a byte cannot
drain the completion waits. -/
def State.releaseAll (s : State) (part : Nat) (k : State → State) : State :=
  let cs := s.coresOf part
  let s1 := cs.foldl (fun s c => s.releaseDrains c .device true) s
  if cs.all fun c => s1.releaseReady c .device true then k (cs.foldl (fun s c => s.bumpFor c .device) s1) else s1

/-- The steps of R221 in order: 6 in `statusWritten` says that the status word has been written, 7 that the arrival has
been made. A step waits for what a tack holds back. -/
def State.completeLaunch (s : State) (part seq : Nat) (l : Launch) : State :=
  let code := if l.failures = 0 then 3 else 4
  let s1 :=
    if l.statusWritten < 6 then
      s.releaseAll part fun s => (s.writeStatus part seq code).updLaunch part seq fun l => { l with statusWritten := 6 }
    else s
  if l.statusWritten < 6 ∧ ((s1.launch? part seq).map (·.statusWritten)).getD 6 < 6 then s1
  else if s1.shuttleHeld part seq then s1
  else
    let s2 :=
      if l.statusWritten < 7 then
        let s2 :=
          if l.rcb.barrier = 0 then s1 else s1.shuttleWrite part seq l.rcb.barrier 16 fun pa => .barrier pa 1 1 0
        s2.updLaunch part seq fun l => { l with statusWritten := 7 }
      else s1
    if s2.shuttleHeld part seq then s2
    else
      let s3 := s2.updLaunch part seq fun l => { l with state := if code = 3 then .complete else .failed }
      ((s3.ticketEnded part seq code).dropRegions).noteFirst part

/-- R221. `args.x` is the partition and `args.y` the launch: its last workgroup has ended. -/
def execLaunchComplete (s : State) : Out :=
  let part := s.args.x
  let seq := s.args.y
  .next (match s.launch? part seq with
  | none => s
  | some l => if l.over || decide (l.ended < l.rcb.total) then s else s.completeLaunch part seq l)

/-! ## Wide phases (R230, R231) -/

/-- The workgroups of a launch. -/
def State.wgsOf (s : State) (part seq : Nat) : List Workgroup :=
  s.workgroups.filter fun w => decide (w.part = part ∧ w.launch = seq ∧ w.rung = none)

/-- Resumes an arrived workgroup on its core: its stopped groups go on, with a DEVICE acquire. -/
def State.resumePhase (s : State) (w : Workgroup) : State :=
  let s1 := w.groups.foldl (fun s g => s.updParty g fun q => if q.status = .phase then { q with status := .running } else q) s
  s1.acquireNow w.core .device

/-- Indices in increasing order. -/
def insertNat (n : Nat) : List Nat → List Nat
  | [] => [n]
  | m :: r => if n < m then n :: m :: r else m :: insertNat n r

/-- R230. `args.x` is the partition and `args.y` the launch: its phase completes, and the next of its arrived workgroups
resumes when the stagger allows; a saved one resumes at its restore. -/
def execWidePhaseComplete (s : State) : Out :=
  let part := s.args.x
  let seq := s.args.y
  .next (match s.launch? part seq with
  | none => s
  | some l =>
    let ws := s.wgsOf part seq
    let resume :=
      if !l.resume.isEmpty then l.resume
      else if l.unplaced || !(ws.all fun w => s.arrived w) then []
      else (ws.filter fun w => w.groups.any fun g => decide ((s.party g).status = .phase)).foldl (fun a w => insertNat w.index a) []
    let s1 := s.updLaunch part seq fun l => { l with resume := resume }
    match resume with
    | [] => s
    | i :: rest =>
      match ws.find? fun w => decide (w.index = i) with
      | none => s1.updLaunch part seq fun l => { l with resume := rest }
      | some w =>
        if w.state = .resident ∧ s.staggered l.lastStart l.rcb.stagger then
          (s1.resumePhase w).updLaunch part seq fun l => { l with resume := rest, lastStart := some s.clk }
        else s1)

end Sys2Proof.Machine
end

