-- ==== Sys2Proof/Machine/Saves.lean ====
section
/-!
DEFINITION. Stopping, saving and restoring a workgroup (R123, R183, R299 to R301, R322).
-/

namespace Sys2Proof.Machine

/-! ## Stopping (R300) -/

/-- A load that R300 records as replayable, and for whose result no save waits: a pop at an empty bank, one that has failed, and one
that is to be issued again. -/
def Party.replays (q : Party) (l : LaneAccess) : Bool := q.waitingPop l || l.stale || (decide (q.status = .parked) && l.lost)

/-- A group has reached the point at which it can be saved: no run executing but one that waits at its fault, no ladder
instruction part of the way through, no acquire in progress, a store queue that holds nothing but what has failed, and every
result that is on its way taken: those of finished runs as R313 says, and those of a run that waits at its fault with them. -/
def Party.canStop (q : Party) : Bool :=
  !q.runGoes && !q.midway && q.sq.all (fun e => e.failed || e.stale) && q.acqs.isEmpty && q.loads.all q.replays

/-- Step 3 of R300: loads whose results have not returned are recorded as replayable: they lose their translation and
are issued again. -/
def Party.recordReplays (q : Party) : Party :=
  { q with
    loads := q.loads.map fun l => if l.got.isSome then l else { l with pieces := [], part := [], reqs := [] }
    fetched := []
    half := none
    readySince := none
    waitsOn := none }

/-- A command of a workgroup that must run to completion first (R123). Only an ACCD stops at a row: one whose rows have all been
written that it has read, and that waits for no held write. -/
def State.mustFinish (s : State) (w : Workgroup) : Bool :=
  (s.core w.core).matrix.any fun m =>
    decide (m.part = w.part ∧ m.wg = w.id ∧ (m.stage = .started ∨ m.stage = .rows)) &&
      match m.body with
      | .accd _ _ => !m.ready.isEmpty || s.drainHeld w.core m
      | _ => true

/-- A copy stands in canonical order: nothing performed ahead, nothing on its way (R161, R183). -/
def State.copyCanonical (s : State) (c : Copy) : Bool :=
  c.done.isEmpty && !s.held.any fun h => match h.source with
    | .copy id _ => decide (id = c.id)
    | _ => false

/-- R300. `args.x` is the partition and `args.y` the workgroup: steps 2 to 4 have ended, the dirty bytes of the core among
them. -/
def execWorkgroupStop (s : State) : Out :=
  .next (match s.wg? s.args.x s.args.y with
  | none => s
  | some w =>
    if w.state ≠ .stopping ∨ !(w.groups.all fun g => (s.party g).canStop) ∨ s.mustFinish w ∨
        (s.copies.any fun c => w.owns c && !s.copyCanonical c) then s
    else
      let s1 := s.drainCore w.core none
      if s1.dirtyLeft w.core (upTo none) then s1
      else (w.groups.foldl (fun s g => s.updParty g Party.recordReplays) s1).updWg w.part w.id fun w => { w with state := .stopped })

/-! ## Saving (R301) -/

/-- Moves a barrier's place with the share that holds it. -/
def Place.toImage (w : Workgroup) : Place → Place
  | .store c o => if c = w.core ∧ within o 16 w.share w.length then .image w.part w.id o else .store c o
  | x => x

def Place.fromImage (w : Workgroup) (core : Nat) : Place → Place
  | .image p g o => if p = w.part ∧ g = w.id then .store core o else .image p g o
  | x => x

/-- A command as it is saved: an ACCD keeps its next row (R123). -/
def MatCmd.asSaved (m : MatCmd) : MatCmd :=
  match m.stage with
  | .faulted _ => m
  | _ => { m with stage := .waiting }

/-- The places of every wait move with a share. -/
def State.moveWaits (s : State) (f : Place → Place) : State :=
  { s with parties := s.parties.map fun q => { q with waitsOn := q.waitsOn.map fun x => { x with place := f x.place } } }

/-- Step 5 of R300: the writes of the image are asked for at the home slices of the partition's save pool, where a tack or a
sharing device may hold them. The bytes are free values; what the image holds is kept with the workgroup (log entry 39). -/
def State.writeImage (s : State) (w : Workgroup) : State :=
  let a := (s.partition w.part).faultQueue
  let n := s.imageSize w
  let at_ := min (s.poolPlace w.part n) (s.queueField a 40 8 - n)
  let base := s.queueField a 32 8 + at_
  let s0 : State := { s.updWg w.part w.id fun w => { w with poolAt := at_, shadowed := false } with fresh := s.fresh + 1 }
  (cutAt 128 (n / 128 + 2) base n).foldl (fun t c =>
    t.ask ⟨(t.shuttleUnit w.part).unit, [],
      .write (cellsFrom c.1 ((List.range c.2).map fun i => Config.imageByte s.fresh (c.1 - base + i))), .image w.part w.id⟩) s0

/-- Moves what the bobbin array still owes a workgroup: its MMAs of DEVICE scope that have sent their lines hold their source
ranges until they complete (R120, R135), on the core where the workgroup stands, and on none while it stands on none (log entry
53). -/
def State.moveMmas (s : State) (w : Workgroup) (core : Nat) : State :=
  { s with mmas := s.mmas.map fun m =>
      if m.deviceScope && m.members.any fun x => decide (x.1 ∈ w.groups) then { m with core := core } else m }

/-- The state of a stopped workgroup moves to its image, and its core is free. -/
def State.saveWg (s : State) (w : Workgroup) : State :=
  let k := s.core w.core
  let (c0, n) := w.window
  let mine (m : MatCmd) : Bool := decide (m.part = w.part ∧ m.wg = w.id)
  let s1 : State :=
    { s.updCore w.core fun c => { c with matrix := c.matrix.filter fun m => !mine m } with
      copies := s.copies.map fun c =>
        { c with
          saved := c.saved || w.owns c
          pins := if w.owns c then [] else c.pins
          barrier := c.barrier.map (Place.toImage w) }
      counted := s.counted.map fun x => (x.1.toImage w, x.2) }
  (((s1.moveWaits (Place.toImage w)).moveMmas w Config.allCores).clearShare w).updWg w.part w.id fun w =>
    { w with
      state := .saved
      deferred := false
      imageErrors := s.errors.filter w.holdsError
      savedAt := s.clk
      aged := 0
      image := k.store.filter fun x => within x.1 1 w.share w.length
      scaleImage := k.scale.filter fun x =>
        decide (c0 ≤ x.1 % Config.scaleColumns) && decide (x.1 % Config.scaleColumns < c0 + n)
      savedMatrix := (k.matrix.filter mine).map MatCmd.asSaved }

/-- A swapped-out holder counts as acknowledged (R165). -/
def State.ackSaved (s : State) (w : Workgroup) : State :=
  (w.groups.foldl (fun s g => s.updParty g fun q =>
    { q with unpicks := q.unpicks.map fun u => { u with acked := true } }) s).settleWrites

/-- R300, R301. `args.x` is the partition and `args.y` the workgroup: its image is written, and once no write of it waits its core
is free. PSWAP saves the workgroups that it has stopped itself (R306). -/
def execWorkgroupSave (s : State) : Out :=
  let id := s.args.y
  let s1 : State := match s.wg? s.args.x id with
    | none => s
    | some w =>
      if w.state = .stopped ∧ (s.partition w.part).swappedOut = false then
        (s.writeImage w).updWg w.part id fun w => { w with state := .saving }
      else s
  .next (match s1.wg? s.args.x id with
  | none => s1
  | some w =>
    if w.state ≠ .saving ∨ s1.waitsFor (.image w.part id) then s1
    else ((s1.saveWg w).ackSaved w).noteFirst w.part)

/-! ## Restoring (R183, R220, R322) -/

/-- The lowest slot of a core's copy engine that no copy holds: a placement has made sure that there is one. -/
def State.freeSlot (s : State) (core : Nat) : Nat :=
  (firstBelow 512 fun k => !(s.copies.any fun x => decide (x.core = core ∧ x.slot = k) && !x.saved)).getD 0

/-- The copies of a workgroup resume on its new core, each in a free slot there. -/
def State.restoreCopies (s : State) (w : Workgroup) (core : Nat) : State :=
  ((s.copies.filter fun c => w.owns c).map (·.id)).foldl (fun s i =>
    let k := s.freeSlot core
    { s with copies := updAll (fun c => decide (c.id = i)) (fun c => { c with core := core, slot := k, saved := false }) s.copies }) s

/-- Writes cells back. -/
def cellsBack {w : Nat} (m img : Cells w) : Cells w := img.foldl (fun m x => cellSet m x.1 x.2) m

/-- An error of a saved share, on the core to which it returns. -/
def errorOn (core : Nat) : ErrSite → ErrSite
  | .coreStore _ o => .coreStore core o
  | .scaleStore _ o => .scaleStore core o
  | e => e

/-- The saved MMAs of a workgroup that a drain had refused ask again, where no drain of their region is in progress; else at
its end (R123, R133). -/
def State.askRestored (s : State) (w : Workgroup) : State :=
  w.savedMatrix.foldl (fun s m =>
    match m.body, m.stage with
    | .mma base _ _ _ _ _ _ _ _ i, .waiting =>
      s.updRegion m.part base fun r =>
        if r.draining || decide (m.id ∈ r.asking) || decide (m.id ∈ r.outstanding) then r
        else { r with asking := r.asking ++ [m.id], reserved := if r.ordered then r.reserved ++ i.toList else r.reserved }
    | _, _ => s) s

/-- A saved workgroup becomes resident at its old range, all of which is written, each group with a DEVICE acquire and with the space and root that the
shuttle loads (R272). Its commands come before any new one of its own; the queue of its new core takes them also where they
bring it above 16 entries, which R123 does not speak of. DESIGN CHOICE (log entry 53); safe but for a claim about the length of a
queue. -/
def State.restoreWg (s : State) (w : Workgroup) (x : Spot) : State :=
  let (c0, n) := w.window
  let s1 : State :=
    { s.updCore x.core fun c =>
        { c with
          store := cellsBack c.store w.image
          scale := cellsBack c.scale w.scaleImage
          blocks := addAll ((List.range (w.length / 4096)).map (w.share / 4096 + ·)) c.blocks
          columns := addAll ((List.range n).map (c0 + ·)) c.columns
          matrix := c.matrix ++ w.savedMatrix } with
      copies := s.copies.map fun c => { c with barrier := c.barrier.map (Place.fromImage w x.core) }
      counted := s.counted.map fun y => (y.1.fromImage w x.core, y.2)
      errors := (s.errors.filter fun e => !({ w with core := x.core } : Workgroup).holdsError e) ++ w.imageErrors.map (errorOn x.core) }
  let s2 := (((s1.moveWaits (Place.fromImage w x.core)).restoreCopies w x.core).askRestored w).moveMmas w x.core
  let s3 := s2.updWg w.part w.id fun w =>
    { w with
      state := .resident, core := x.core, image := [], scaleImage := [], savedMatrix := [], aged := 0, shadowed := false
      imageErrors := [] }
  let p := s.partition w.part
  let s4 := (w.groups.zip x.lanes).foldl (fun s g => s.updParty g.1 fun q =>
    { q with
      core := x.core
      lane := g.2
      readySince := none
      spaceid := BitVec.ofNat 64 p.spaceid
      ptroot := BitVec.ofNat 64 p.ptroot }) s3
  s4.acquireNow x.core .device

/-- Notes the start for the stagger (R218). -/
def State.noteStart (s : State) (w : Workgroup) : State :=
  match w.rung, w.rungOwn with
  | none, _ => s.updLaunch w.part w.launch fun l => { l with lastStart := some s.clk }
  | some r, some _ =>
    -- a rung that has outlived its ladder
    { s with workgroups := s.workgroups.map fun v =>
        if v.part = w.part ∧ v.rung = some r then { v with rungOwn := v.rungOwn.map fun g => { g with lastStart := some s.clk } } else v }
  | some (a, k), none => s.updLadder w.part a fun l => { l with rungs := l.rungs.modify k fun r => { r with lastStart := some s.clk } }

/-- A workgroup restored while the darning engine patches its partition stays stopped until the patch has ended (R284). -/
def State.holdGroups (s : State) (w : Workgroup) : State :=
  w.groups.foldl (fun s g => s.updParty g fun q => if q.status = .running then { q with status := .darned } else q) s

/-- Restores the saved workgroup that comes first in the order and fits. One that waits in a completed wide phase goes on
(R231). -/
def State.restoreNext (s : State) (part : Nat) : State :=
  match s.placeable part with
  | some (.saved id, x) =>
    (match s.wg? part id with
     | none => s
     | some w =>
       let s1 := (s.restoreWg w x).noteStart w
       let hold (s : State) : State :=
         if (s.darning.map (·.2.1)) = some part then s.holdGroups w else s
       let phase := ((s1.launch? part w.launch).map fun l => decide (w.rung = none ∧ l.resume.head? = some w.index)).getD false
       hold (if phase then
         (s1.resumePhase { w with core := x.core }).updLaunch part w.launch fun l => { l with resume := l.resume.drop 1 }
       else s1))
  | _ => s

/-- R322. `args.x` is the partition. -/
def execWorkgroupRestore (s : State) : Out :=
  .next ((s.makeRoom s.args.x fun _ _ _ => false).restoreNext s.args.x)

/-! ## Parked workgroups (R299) -/

/-- Bit 0 of the flags of a partition's queue header: swap out a parked workgroup at once. -/
def State.swapAtOnce (s : State) (part : Nat) : Bool :=
  let a := (s.partition part).faultQueue
  s.queueUsable a && decide (s.queueField a 4 4 % 2 = 1)

/-- R299. `args.p` is the group: parked for 50 microseconds without an ERET, or at once where the queue header says
so. -/
def execParkedSwapTimeout (s : State) : Out :=
  let q := s.party s.args.p
  .next (match q.park, s.wgOf q.id with
  | some k, some w =>
    if decide (k.since + Config.us50 ≤ s.clk) || s.swapAtOnce w.part then s.beginStop w.part w.id else s
  | _, _ => s)

end Sys2Proof.Machine
end

