-- ==== Sys2Proof/Machine/Ladders.lean ====
section
/-!
DEFINITION. The LAD family and the shuttle's steps for ladders (R232 to R237, R258 to R261, R320, R321).
-/

namespace Sys2Proof.Machine

/-! ## The ladder object (R258) -/

/-- A rung record. -/
structure RungDesc where
  rcb : Nat
  banks : BitVec 64
  limit : Nat
  frame : Nat
deriving DecidableEq, Repr

structure LadderDesc where
  cluster : Nat
  slotSize : Nat
  slotBase : Nat
  barrier : Nat
  rungs : List RungDesc
deriving DecidableEq, Repr

def LadderDesc.ofBytes (bs : List Byte) : LadderDesc where
  cluster := fieldAt bs 1 1
  slotSize := fieldAt bs 4 4
  slotBase := fieldAt bs 8 8
  barrier := fieldAt bs 0x10 4
  rungs := (List.range (fieldAt bs 0 1)).map fun k =>
    ⟨fieldAt bs (0x20 + 0x30 * k) 8, BitVec.ofNat 64 (fieldAt bs (0x28 + 0x30 * k) 8), fieldAt bs (0x30 + 0x30 * k) 4,
      fieldAt bs (0x34 + 0x30 * k) 2⟩

/-- Fields in range; what must be zero is zero. -/
def ladderFieldsOk (bs : List Byte) : Bool :=
  let n := fieldAt bs 0 1
  let l := LadderDesc.ofBytes bs
  decide (1 ≤ n ∧ n ≤ 4) && decide (l.cluster < 32) && decide (fieldAt bs 2 2 = 0) &&
    decide (8 ≤ l.slotSize ∧ l.slotSize ≤ 65536 ∧ l.slotSize % 8 = 0) && decide (l.slotBase % 8 = 0) &&
    decide (l.barrier % 16 = 0 ∧ Config.bankBase ≤ l.barrier ∧ l.barrier < Config.windowBytes) &&
    decide (fieldAt bs 0x14 12 = 0) && decide (fieldAt bs 0xE0 32 = 0) &&
    (List.range 4).all fun k =>
      if k < n then decide (fieldAt bs (0x36 + 0x30 * k) 26 = 0) else decide (fieldAt bs (0x20 + 0x30 * k) 48 = 0)

def RungDesc.fieldsOk (r : RungDesc) : Bool :=
  decide (1 ≤ r.limit) && decide (32 ≤ r.frame ∧ r.frame ≤ 512 ∧ r.frame % 8 = 0) && decide (r.banks ≠ 0)

/-- Every bank of a rung serves as its queue: FIFO mode, granted, of the entry size 8 + F (R259). -/
def State.rungBanksOk (s : State) (part cluster : Nat) (r : RungDesc) : Bool :=
  (List.range 64).all fun b => !r.banks.getLsbD b ||
    (let k := s.bank cluster b
     decide (k.mode = .fifo ∧ k.owner = part ∧ k.entrySize = 8 + r.frame))

/-- No bank serves two rungs. -/
def disjointBanks : List RungDesc → Bool
  | [] => true
  | r :: l => (l.all fun x => decide (x.banks &&& r.banks = 0)) && disjointBanks l

/-- The completion barrier lies in a scratch bank of the ladder's cluster. -/
def State.ladderBarrierOk (s : State) (part : Nat) (l : LadderDesc) : Bool :=
  let k := s.bank l.cluster ((l.barrier - Config.bankBase) / Config.bankBytes)
  decide (k.mode = .scratch ∧ k.owner = part)

/-- The object of a ladder passes the checks that its own bytes and the banks decide. -/
def State.ladderOk (s : State) (part : Nat) (bs : List Byte) : Bool :=
  let l := LadderDesc.ofBytes bs
  ladderFieldsOk bs && l.rungs.all RungDesc.fieldsOk && disjointBanks l.rungs &&
    l.rungs.all (s.rungBanksOk part l.cluster) && s.ladderBarrierOk part l

/-- Reads and checks the rung RCBs in order (R259). -/
def State.readRungs (part : Nat) (k : State → List (Rung × List ChainNode) → State) :
    List RungDesc → State → List (Rung × List ChainNode) → State
  | [], s, acc => k s acc
  | d :: ds, s, acc =>
    if d.rcb % 256 ≠ 0 then s.trapAt .illegal d.rcb
    else
      s.readLaunch part d.rcb fun s r chain =>
        if r.groups ≠ 1 ∨ r.store < r.gw * d.frame then s.trapAt .illegal d.rcb
        else
          let nodes := r :: chain.map (·.rcb)
          let x : Rung :=
            { rcbAddr := d.rcb, rcb := r, chain := chain.map (·.addr), priority := effPriority nodes, domain := effDomain nodes,
              banks := d.banks, limit := d.limit, frame := d.frame, lastStart := none, queue := [], packs := 0,
              top := false }
          s.readRungs part k ds (acc ++ [(x, chain)])

/-- Entries that a rung's banks hold together (R232). -/
def Rung.capacity (r : Rung) : Nat := setBits 64 r.banks.toNat * (Config.bankBytes / (8 + r.frame))

/-! ## LADSUB (R260) -/

/-- Bytes of the submission block: a group's in its share, a steward core's in global memory. -/
def State.blockBytes (s : State) (off n : Nat) (k : State → List Byte → State) : State :=
  let q := s.me
  if q.id.isSteward then s.readObject off n .core k
  else if !s.inShare q.id off n then s.trapAt .protection off
  else if s.lockHit q.core 1 off n false then s.trapAt .rangeLock off
  else if s.storeBad n (.store q.core off) then s.trapAt .storeError off
  else k s (s.readPlace n (.store q.core off))

/-- Pushes an entry to a rung's queue. -/
def State.pushEntry (s : State) (part addr k index : Nat) (frame : List Byte) : State :=
  s.updLadder part addr fun l =>
    { l with rungs := l.rungs.modify k fun r => { r with queue := r.queue ++ [(index, frame, s.clk, 0)] } }

/-- The next item of a submission: pushed unless rung 0's queue is full; after the last the instruction completes. -/
def State.submitNext (s : State) (part : Nat) (x : Submission) : State :=
  let j := s.me.progress
  match (s.ladder? part x.ladder).bind fun l => l.rungs.head? with
  | none => s
  | some r =>
    if r.capacity ≤ r.queue.length then s.upd fun q => { q with blocked := true }
    else
      s.blockBytes (x.block + 8 + j * r.frame) r.frame fun s bs =>
        let s1 := (s.pushEntry part x.ladder 0 (x.first + j) bs).updLadder part x.ladder fun l => { l with submitted := l.submitted + 1 }
        if j + 1 < x.count then s1.upd fun q => { q with progress := j + 1, blocked := false }
        else
          ((s1.upd fun q => { q with progress := 0, ladsub := none, blocked := false }).wr (BitVec.ofNat 6 x.dest)
            (dw ((x.first + x.count) % 2 ^ 32))).adv

/-- Activates a ladder that has passed its checks. -/
def State.activate (s : State) (part addr : Nat) (l : LadderDesc) (rs : List (Rung × List ChainNode)) : State :=
  let rungs := rs.mapIdx fun k r => { r.1 with top := decide (k + 1 = rs.length) }
  rs.foldl (fun s r => s.holdRegions part r.2)
    { s with ladders := s.ladders ++ [⟨part, addr, l.cluster, l.slotSize, l.slotBase, l.barrier, rungs, 0, 0, 0⟩] }

/-- The issuing core belongs to a ladder's cluster, or is a steward core of its die. -/
def Party.nearCluster (q : Party) (cluster : Nat) : Bool :=
  if q.id.isSteward then decide (dieOfCore q.core = cluster / 8) else decide (clusterOfCore q.core = cluster)

/-- The checks of R260 in order; then the ladder is activated if it must be, and the first item is pushed. The activation of a
ninth ladder of a cluster stalls (R259). -/
def State.submit (s : State) (part : Nat) (d : BitVec 6) (addr block : Nat) : State :=
  s.blockBytes block 8 fun s hd =>
    let first := fieldAt hd 0 4
    let n := fieldAt hd 4 4
    if n = 0 ∨ 1024 < n ∨ 2 ^ 32 < first + n then s.trapAt .illegal block
    else
      let x : Submission := ⟨d.toNat, first, n, addr, block, true⟩
      let go (s : State) : State := (s.upd fun q => { q with ladsub := some x, progress := 0, blocked := false }).submitNext part x
      match s.ladder? part addr with
      | some l =>
        s.blockBytes block (8 + n * ((l.rungs.head?.map (·.frame)).getD 0)) fun s _ =>
          if s.me.nearCluster l.cluster then go s else s.trap .cluster
      | none =>
        s.readObject addr 256 .device fun s bs =>
          let l := LadderDesc.ofBytes bs
          s.blockBytes block (8 + n * ((l.rungs.head?.map (·.frame)).getD 0)) fun s _ =>
            if !s.me.nearCluster l.cluster then s.trap .cluster
            else if !s.ladderOk part bs then s.trapAt .illegal addr
            else
              s.readRungs part (fun s rs =>
                if 8 ≤ (s.ladders.filter fun a => decide (a.cluster = l.cluster)).length then
                  s.upd fun q => { q with ladsub := some { x with entered := false }, progress := 0, blocked := true }
                else go (s.activate part addr l rs)) l.rungs []

/-- R260. A steward core whose loaded spaceid is that of no enabled partition has no ladder to name: class 0x01, as an operand out of
range. R260 does not say. DESIGN CHOICE (log entry 37); unsafe. -/
def execLadsub (d a b : BitVec 6) (s : State) : Out :=
  s.scalar [d] [a, b] fun s =>
    let addr := (s.rd a).toNat
    let block := (s.rd b).toNat
    match s.partOf s.me with
    | none => s.trap .illegal
    | some part =>
      match s.me.ladsub with
      | some ⟨dest, first, count, ladder, block, true⟩ => s.submitNext part ⟨dest, first, count, ladder, block, true⟩
      | _ =>
        if addr % 256 ≠ 0 then s.trapAt .alignment addr
        else if block % 8 ≠ 0 then s.trapAt .alignment block
        else s.submit part d addr block

/-! ## LADESC and LADRES (R261) -/

/-- The selected threads, in ascending order. -/
def State.selected (s : State) (a : BitVec 3) : List Nat :=
  (List.range s.me.gw).filter fun t => maskBit (s.rdK a) t

/-- A thread that the instruction may not name. -/
def Workgroup.badThread (w : Workgroup) (em : Word) (t : Nat) : Bool :=
  !maskBit em t || !(w.items.any fun i => decide (i.thread = t ∧ i.state = .running))

/-- A fault of some threads of a ladder instruction (R237). A landing that it has put off takes place as it ends. -/
def State.threadFault (s : State) (cls : FaultClass) (addr : Nat) (replayable : Bool) (ts : List Nat) : State :=
  ((s.upd fun q => { q with ladItems := none }).fault s.actor cls .scalar
    { addr := dw addr, addr2 := 0, replayable := replayable, unfinished := maskOf 32 fun t => decide (t ∈ ts), laneAddr := none }).upd
      Party.landAll

/-- A ladder instruction has completed. -/
def State.ladderDone (s : State) : State :=
  (s.upd fun q => { q with progress := 0, blocked := false, ladItems := none }).adv.upd Party.landAll

/-- The next thread of a ladder instruction is acted on; with none left it has completed. -/
def State.nextThread (s : State) (k : State → Nat → List Byte → State) : State :=
  match s.me.ladItems with
  | some ((t, bs) :: _) => k s t bs
  | _ => s.ladderDone

/-- A thread has been acted on; `n` more of the progress is counted. -/
def State.threadDone (s : State) (n : Nat) : State :=
  match s.me.ladItems with
  | some (_ :: x :: rest) => s.upd fun q => { q with progress := q.progress + n, blocked := false, ladItems := some (x :: rest) }
  | _ => s.ladderDone

/-- What both instructions check of the threads still to be acted on, once, as their source bytes are read; `k` acts on the first
of them. `n` is the source bytes of a thread; `top`: a LADESC at the top rung, which is illegal whatever it selects (R261). R261
gives the classes of the sources no order: one outside the share comes before a lock, and a lock before an error, as in R171.
DESIGN CHOICE (log entry 37); unsafe. -/
def State.ladderOp (s : State) (w : Workgroup) (ts : List Nat) (b : BitVec 6) (n : Nat) (top : Bool) (k : State → Nat → List Byte → State) :
    State :=
  if s.me.ladItems.isSome then s.nextThread k
  else
  let q := s.me
  let bad := ts.filter fun t => top || w.badThread q.em t
  let src (t : Nat) : Nat := ((s.rd b).toNat + t * n) % 2 ^ 64
  let outside := ts.filter fun t => !s.inShare q.id (src t) n
  let locked := ts.filter fun t => s.lockHit q.core 1 (src t) n false
  let broken := ts.filter fun t => s.storeBad n (.store q.core (src t))
  if top || !bad.isEmpty then s.threadFault .illegal 0 false bad
  else if !outside.isEmpty then s.threadFault .protection (src (outside.headD 0)) false outside
  else if !locked.isEmpty then s.threadFault .rangeLock (src (locked.headD 0)) false locked
  else if !broken.isEmpty then s.threadFault .storeError (src (broken.headD 0)) false broken
  else
    (s.upd fun q => { q with ladItems := some (ts.map fun t => (t, s.readPlace n (.store q.core (src t)))) }).nextThread k

/-- An item's new state. -/
def State.setItem (s : State) (w : Workgroup) (t : Nat) (st : ItemState) : State :=
  s.updWg w.part w.id fun w => { w with items := w.items.map fun i => if i.thread = t then { i with state := st } else i }

def Workgroup.itemIndex (w : Workgroup) (t : Nat) : Nat := ((w.items.find? fun i => decide (i.thread = t)).map (·.index)).getD 0

/-- The ladder and the rung of a group; a group that is no rung group, or whose ladder has retired, has none, and every thread it
names fails. -/
def State.ladderOf (s : State) (w : Workgroup) : Option (Ladder × Nat) :=
  if w.rungOwn.isSome then none else w.rung.bind fun r => (s.ladder? w.part r.1).map fun l => (l, r.2)

/-- A group of the top rung. -/
def State.atTop (s : State) (w : Workgroup) : Bool := ((s.rungOf w).map (·.top)).getD false

def execLadesc (a : BitVec 3) (b : BitVec 6) (s : State) : Out :=
  s.maskOp [] [b] fun s =>
    match s.wgOf s.actor with
    | none => s
    | some w =>
      let ts := (s.selected a).drop s.me.progress
      match s.ladderOf w with
      | none => s.ladderOp w ts b 0 (s.atTop w) fun s _ _ => s
      | some (l, k) =>
        match l.rungs[k + 1]? with
        | none => s.ladderOp w ts b 0 true fun s _ _ => s
        | some r =>
          s.ladderOp w ts b r.frame false fun s t bs =>
            if r.capacity ≤ r.queue.length then s.upd fun q => { q with blocked := true }
            else
              ((s.pushEntry w.part l.addr (k + 1) (w.itemIndex t) bs).setItem w t .escalated).threadDone 1

/-- The store of a thread's slot, then the subtraction, which waits until the store has been performed (R235). An odd
progress says that the thread's store has been entered. -/
def State.settleItem (s : State) (w : Workgroup) (l : Ladder) (t : Nat) (bs : List Byte) : State :=
  let q := s.me
  let va := (l.slotBase + w.itemIndex t * l.slotSize) % 2 ^ 64
  let pl : Place := .bank l.cluster ((l.barrier - Config.bankBase) / Config.bankBytes) ((l.barrier - Config.bankBase) % Config.bankBytes)
  if q.progress % 2 = 0 then
    if !inPending ((s.barrierAt pl).waiting - l.slotSize) then s.threadFault .barrierOverflow l.barrier false [t]
    else
      match s.checkAccess q va l.slotSize .write false true with
      | (s1, .fault c a r) => s1.threadFault c (if a = 0 then va else a) r ((q.ladItems.getD []).map (·.1))
      | (s1, .ok x) =>
        (s1.enqueueStore s1.actor va .device false none 0 (cutBytes x.pieces bs)).upd fun q => { q with progress := q.progress + 1 }
  else if q.sq.any fun e => e.op.isNone then s
  else
    match s.barrierEvent pl (.land l.slotSize) with
    | .error c => s.threadFault c l.barrier false [t]
    | .ok s1 =>
      ((s1.setItem w t .settled).updLadder w.part l.addr fun l => { l with settled := l.settled + 1 }).threadDone 1

def execLadres (a : BitVec 3) (b : BitVec 6) (s : State) : Out :=
  s.maskOp [] [b] fun s =>
    match s.wgOf s.actor with
    | none => s
    | some w =>
      let ts := (s.selected a).drop (s.me.progress / 2)
      if s.me.acquireBehind || s.me.loadsBehind then s
      else
        match s.ladderOf w with
        | none => s.ladderOp w ts b 0 false fun s _ _ => s
        | some (l, _) => s.ladderOp w ts b l.slotSize false fun s t bs => s.settleItem w l t bs

/-! ## The shuttle's steps (R234, R236, R259) -/

/-- A group of a lower rung of the ladder that is stalled in a LADESC on a full queue (R236). -/
def State.stalledLadesc (s : State) (addr k : Nat) (w : Workgroup) : Bool :=
  match w.rung with
  | some (a, j) => decide (a = addr ∧ j < k) && w.groups.any fun g => (s.party g).blocked && (s.party g).ladsub.isNone
  | none => false

/-- Starts a pack at a spot: its frames go to core store, its items to the threads (R234). -/
def State.startPack (s : State) (part addr k : Nat) (r : Rung) (x : Spot) : State :=
  let es := (s.seenEntries r).take r.rcb.gw
  let items := es.mapIdx fun i e => (⟨i, e.1, .running, e.2.1, e.2.2.2⟩ : Item)
  let s1 := s.startWg ⟨part, 0, some (addr, k)⟩ r.rcb r.packs x items false
  let s2 := items.foldl (fun s i => s.writeStore x.core (x.share + i.thread * r.frame) i.frame) s1
  let s3 := s2.updLadder part addr fun l =>
    { l with rungs := l.rungs.modify k fun r =>
        { r with queue := r.queue.drop es.length, packs := r.packs + 1, lastStart := some s.clk } }
  -- the groups that were swapped out for it may come back
  { s3 with workgroups := s3.workgroups.map fun w =>
      if w.part = part ∧ (w.rung.map (·.1)) = some addr ∧ w.displaced = true then { w with displaced := false } else w }

/-- R234. `args.x` is the partition: a ready pack comes first in the order and fits. -/
def execLadderPack (s : State) : Out :=
  let part := s.args.x
  let s0 := s.makeRoom part s.stalledLadesc
  .next (match s0.placeable part with
  | some (.pack a k, x) =>
    (match (s0.ladder? part a).bind fun l => l.rungs[k]? with
     | some r => s0.startPack part a k r x
     | none => s0)
  | _ => s0)

/-- The workgroups of a ladder that outlive it keep their rung: its control block and what was read with it. -/
def State.keepRungs (s : State) (l : Ladder) : State :=
  { s with workgroups := s.workgroups.map fun w =>
      match w.rung with
      | some (a, k) => if w.part = l.part ∧ a = l.addr ∧ w.rungOwn = none then { w with rungOwn := l.rungs[k]? } else w
      | none => w }

/-- R259. `args.x` is the partition and `args.y` the ladder: every item is settled or failed, and no rung group of it is
resident. A saved one, which R259 lets outlive the ladder, keeps its rung. -/
def execLadderRetire (s : State) : Out :=
  let part := s.args.x
  .next (match s.ladder? part s.args.y with
  | none => s
  | some l =>
    let left := (s.workgroups.any fun w => decide (w.part = part ∧ w.rungOwn = none) && w.onCore && (w.rung.map fun r => decide (r.1 = l.addr)).getD false) ||
      (s.parties.any fun q => (q.ladsub.map fun x => decide (x.ladder = l.addr)).getD false && decide (s.partOf q = some part))
    if l.submitted ≠ l.settled + l.failedItems ∨ !(l.rungs.all fun r => r.queue.isEmpty) ∨ left then s
    else
      let s1 := s.releaseRegions fun k => decide (k.part = part) && (k.rung.map fun r => decide (r.1 = l.addr)).getD false &&
        !(s.workgroups.any fun w => decide (w.key = k))
      ({ s1.keepRungs l with
          ladders := s1.ladders.filter fun a => !(decide (a.part = part) && decide (a.addr = l.addr)) } : State).dropRegions)

end Sys2Proof.Machine
end

