-- ==== Sys2Proof/Machine/Failure.lean ====
section
/-!
DEFINITION. Workgroups that fail, and the failure or reset of a core (R221, R233, R287, R304, R305).
-/

namespace Sys2Proof.Machine

/-! ## Dropping commands and copies (R287, R304) -/

/-- An MMA is dropped at its region home: its reservation is released. In ordered mode the round passes over the index of one
that an ERET has dropped, so that later indices held for a line are applied; that of one `lost` with its workgroup is missing,
and may be reserved again (R305). -/
def State.passOver (s : State) (part base id : Nat) (index : Option Nat) (lost : Bool) : State :=
  let s1 := s.updRegion part base fun r =>
    { r with
      outstanding := r.outstanding.filter fun i => decide (i ≠ id)
      asking := r.asking.filter fun i => decide (i ≠ id)
      reserved := r.reserved.filter fun i => !(r.ordered && decide (some i = index))
      dropped := if r.ordered && !lost then r.dropped ++ index.toList else r.dropped }
  (List.range 512).foldl (fun s l => s.applyEarly part base l 64) s1

/-- Takes a command out of every queue and image. -/
def State.removeCmd (s : State) (id : Nat) : State :=
  { s with
    cores := s.cores.map fun c => { c with matrix := c.matrix.filter fun m => decide (m.id ≠ id) }
    workgroups := s.workgroups.map fun w => { w with savedMatrix := w.savedMatrix.filter fun m => decide (m.id ≠ id) } }

/-- A matrix command is dropped (R287, R304): what it has done stays. -/
def State.dropCommand (s : State) (lost : Bool) (m : MatCmd) : State :=
  let s1 := m.members.foldl (fun s x => s.updParty x.1 fun q =>
    { q with stallOn := q.stallOn.filter fun i => decide (i ≠ m.id) }) (s.removeCmd m.id)
  match m.body with
  | .mma base _ _ _ _ _ _ _ _ index => (s1.passOver m.part base m.id index lost).settleLeaving
  | .accd base _ => (s1.reopen m.part base).settleLeaving
  | _ => s1

/-- A copy is dropped: locks and slot are released, and nothing further is subtracted from its barrier. -/
def State.dropCopyCmd (s : State) (id : Nat) : State := { s with copies := s.copies.filter fun c => decide (c.id ≠ id) }

/-- The matrix commands of a workgroup, in queues and images. -/
def State.commandsOf (s : State) (part wg : Nat) : List MatCmd :=
  ((s.cores.flatMap (·.matrix)) ++ s.workgroups.flatMap (·.savedMatrix)).filter fun m => decide (m.part = part ∧ m.wg = wg)

/-! ## A failed workgroup -/

/-- The items of a failed rung group (R233): packed again once where the RCB is retry-idempotent and a core was lost,
else failed. -/
def State.failItems (s : State) (w : Workgroup) (retry : Bool) : State :=
  match w.rung with
  | none => s
  | some (a, k) =>
    (w.items.filter fun i => decide (i.state = .running)).foldl (fun s i =>
      s.updLadder w.part a fun l =>
        if retry ∧ i.packed = 0 then
          { l with rungs := l.rungs.modify k fun r => { r with queue := r.queue ++ [(i.index, i.frame, s.clk, 1)] } }
        else { l with failedItems := l.failedItems + 1 }) s

/-- The launch of a failed workgroup counts it, or places it once more (R305). -/
def State.countFailed (s : State) (w : Workgroup) (again : Bool) (reason : Nat) : State :=
  if w.rung.isSome then s
  else if again then s.updLaunch w.part w.launch fun l => { l with retry := l.retry ++ [w.index] }
  else
    (s.updLaunch w.part w.launch fun l =>
      { l with failures := l.failures + 1, firstReason := if l.firstReason = 0 then reason else l.firstReason }).countEnded w

/-- A workgroup fails: its copies, commands and holds end, its resources are released, and it is counted. `lost`: with
its core, so that a retry-idempotent launch runs it again (R304, R305). -/
def State.failWg (s : State) (w : Workgroup) (reason : Nat) (lost : Bool) : State :=
  let flag := ((s.rcbOfWg w).map fun r => r.flags.getLsbD 0).getD false
  let s1 := (s.commandsOf w.part w.id).foldl (State.dropCommand · true ·) s
  let s2 : State :=
    { s1 with
      copies := s1.copies.filter fun c => !w.owns c
      drains := s1.drains.filter fun d => !decide (d.acquirer ∈ w.groups) }
  let s3 := ((s2.failItems w (lost && flag)).moveMmas w Config.allCores).removeWg w
  ((s3.countFailed w (lost && flag && !w.retried) reason).settleWrites).noteFirst w.part

/-! ## Core failure and core reset (R304) -/

/-- The other members of a lost workgroup's sharing group receive an event record that names it. -/
def State.tellMembers (s : State) (w : Workgroup) : State :=
  match w.sharing with
  | none => s
  | some (cl, g, _) =>
    ((s.sharers? w.part cl g).filter fun v => decide (v.id ≠ w.id)).foldl (fun s v =>
      s.post (some w.part) (cl / 8) false
        { cls := .cluster, flags := recFlags false true false false false false false, domain := s.domainOf v, unfinished := 0,
          identity := dw (w.part * 2 ^ 52 + w.id * 2 ^ 20 + w.core * 2 ^ 7), pc := 0, laneAddr := 0, addr := 0, addr2 := 0,
          clk := s.clkOf w.core }) s

/-- Groups of the other members of a lost workgroup's sharing group that wait on an object into which a lost copy of it counted park
with class 0x12. -/
def State.parkWaiters (s : State) (w : Workgroup) (c : Copy) : State :=
  match c.barrier, w.sharing with
  | some pl, some (cl, g, _) =>
    let others := ((s.sharers? w.part cl g).filter fun v => decide (v.id ≠ w.id)).flatMap (·.groups)
    (others.filter fun p => decide ((s.party p).waitsOn.map (·.place) = some pl ∧ (s.party p).status = .running)).foldl
      (fun s p => s.fault p .cluster .scalar FaultInfo.plain) s
  | _, _ => s

/-- The record of a lost workgroup: class 0x10 with flag bit 4, the reason, and bit 6 where it runs again. -/
def State.reportLost (s : State) (w : Workgroup) (reason : Nat) : State :=
  let again := ((s.rcbOfWg w).map fun r => r.flags.getLsbD 0).getD false && !w.retried
  s.post (some w.part) (dieOfCore w.core) true
    { cls := .storeError, flags := recFlags false false false false true false again, domain := s.domainOf w, unfinished := 0,
      identity := dw (w.part * 2 ^ 52 + w.id * 2 ^ 20 + w.core * 2 ^ 7), pc := 0, laneAddr := 0, addr := 0, addr2 := dw reason,
      clk := s.clkOf w.core }

/-- What a full slice has returned to a core out of service is never sent; what is on its way from it still is, and has no core to
return to (R134, R304). -/
def State.loseReturned (s : State) (c : Nat) : State :=
  let s1 := (s.contributions.filter fun x => x.returned && decide (x.core = c)).foldl State.loseContribution s
  { s1 with contributions := updAll (fun x => decide (x.core = c)) (fun x => { x with core := Config.allCores }) s1.contributions }

/-- The shadow of a core out of service is cleared with it. A workgroup whose image was there is lost as its residents are, which
R304 and R306 leave open: DESIGN CHOICE (log entry 39), unsafe. -/
def State.loseShadows (s : State) (c reason : Nat) : State :=
  let ws := s.workgroups.filter fun w => decide (w.core = c) && w.shadowed
  let s1 := ws.foldl (fun s w => (s.reportLost w reason).failWg w 0x10 true) s
  { s1 with errors := s1.errors.filter fun e =>
      match e with
      | .shadow k _ => decide (k ≠ c)
      | _ => true }

/-- Taking a core out of service (R304): `reason` 1 for a hardware failure, after which it is marked failed; 2 for
CORERST. Its lazy-release records stay: an acquire that meets one commands a drain of the core (R153). -/
def State.failCore (s : State) (c reason : Nat) : State :=
  let s1 := s.flushCore c
  let ws := s1.workgroups.filter fun w => decide (w.core = c) && w.onCore
  let s2 := ws.foldl (fun s w => (s.tellMembers w).reportLost w reason) s1
  let s3 := ws.foldl (fun s w => (s1.copies.filter w.owns).foldl (fun s x => s.parkWaiters w x) s) s2
  let s4 := ((ws.foldl (fun s w => s.failWg w 0x10 true) s3).loseReturned c).settleLeaving.loseShadows c reason
  { s4.updCore c fun _ => { Core.blank with failed := decide (reason = 1) } with
    dirtyHolders := s4.dirtyHolders.filter fun h => decide (h.2 ≠ c)
    tlb := s4.tlb.filter fun e => decide (e.unit ≠ c ∧ e.unit ≠ 256 + c)
    text := s4.text.filter fun t => decide (t.core ≠ c)
    errors := s4.errors.filter fun e =>
      match e with
      | .dirty k _ => decide (k ≠ c)
      | .clean k _ => decide (k ≠ c)
      | .coreStore k _ => decide (k ≠ c)
      | .scaleStore k _ => decide (k ≠ c)
      | _ => true }

/-- An acquire of a party waits on a line: a load's, or a lane operation's with loads; a fence's and an atomic's may. -/
def Party.awaitsLine (q : Party) (line : Nat) (a : Acquire) : Bool :=
  match a.fin with
  | .load _ _ _ ps _ => ps.any fun p => decide (p.pa / 128 = line)
  | .lane op =>
    let ls := q.loads.filter fun l => decide (l.op = op)
    ls.isEmpty || ls.any fun l => l.pieces.any fun p => decide (p.pa / 128 = line)
  | _ => true

/-- An acquire that cannot be completed as it was: it ends in class 0x0F. -/
def Acquire.lose (va : Nat) (a : Acquire) : Acquire :=
  match a.fin with
  | .load _ va _ _ _ => { a with fin := .dead va }
  | .lane op => { a with fin := .deadLane op }
  | .next | .atomic => { a with fin := .dead va }
  | .dead _ | .deadLane _ => a

/-- An acquire that waits on bytes that are lost completes with class 0x0F (R153, R304). An atomic's has its old word
already. -/
def State.loseAcquire (s : State) (d : DrainCmd) : State :=
  let va := (((s.party d.acquirer).loaded.find? fun x => decide (x.1 = d.line)).map (·.2)).getD 0
  ({ s with drains := s.drains.filter fun x => decide (x ≠ d) } : State).updParty d.acquirer fun q =>
    { q with
      acqs := updAll (q.awaitsLine d.line) (Acquire.lose va) q.acqs
      pc := if q.acqs.any fun a => decide (a.fin = .atomic) then q.pc - 4 else q.pc }

/-- The dirty bytes of a core's L1 are lost with it. -/
def State.loseDirty (s : State) (c : Nat) : State :=
  let waiting := s.drains.filter fun d => decide (d.core = c) && !d.drained
  let s1 := (waiting.foldl State.loseAcquire s).updCore c fun k => { k with dirty := [] }
  waiting.foldl (fun s d => s.settleAcquires d.acquirer) s1

/-- A core fails by itself. `lose`: its dirty bytes cannot be drained. -/
def State.coreDies (s : State) (c : Nat) (lose : Bool) : State :=
  if c < 128 ∧ !(s.core c).failed then (if lose then s.loseDirty c else s).failCore c 1 else s

/-- R304. `args.x` is the core: an uncorrected error has struck its control state. `args.flag`: its dirty bytes cannot be
drained. -/
def execCoreFailure (s : State) : Out := .next (s.coreDies s.args.x s.args.flag)

/-- R304. `args.x` is the core: one of its units has not answered for 100 microseconds. `args.flag` as for CORE_FAILURE. -/
def execUnitResponseTimeout (s : State) : Out := .next (s.coreDies s.args.x s.args.flag)

end Sys2Proof.Machine
end

