-- ==== Sys2Proof/Machine/Eret.lean ====
section
/-!
DEFINITION. TRAP, the return from a fault ERET, HALT and TLBINV (R286 to R289).
-/

namespace Sys2Proof.Machine

/-- A steward-only instruction raises class 0x17 on a compute core (R34, R44). -/
def State.stewardOnly (s : State) (k : Out) : Out :=
  if s.actor.isSteward then k else .next (s.trap .privilege)

/-! ## TRAP (R286) -/

def execTrap (a : BitVec 6) (s : State) : Out :=
  s.scalar [] [a] fun s => s.trapAt .trap (s.rd a).toNat

/-! ## ERET (R287) -/

/-- The group that an identity word names, by its partition, workgroup and group fields. -/
def groupOfIdentity (v : Nat) : PartyId := .group (bitsOf v 55 52) (bitsOf v 51 20) (bitsOf v 19 15)

/-- The steward core that an identity word names by its core field, which R287 has ERET ignore for a group: it is read where
no group is there to act on. DEDUCED (log entry 27). -/
def stewardOfIdentity (v : Nat) : Option PartyId :=
  if 128 ≤ bitsOf v 14 7 ∧ bitsOf v 14 7 < 144 then some (.steward (bitsOf v 14 7 - 128)) else none

/-- The class for which a command has stopped. -/
def MatCmd.stoppedOn (m : MatCmd) : Option FaultClass :=
  match m.stage with
  | .faulted c => some c
  | _ => none

/-- The copies and commands of a group that a fault has stopped, which a condition selects. -/
def State.stoppedCopies (s : State) (p : PartyId) (f : FaultClass → Bool) : List Copy :=
  s.copies.filter fun c => decide (c.owner = p) && (c.stopped.map f).getD false

def State.stoppedCmds (s : State) (p : PartyId) (f : FaultClass → Bool) : List MatCmd :=
  ((s.cores.flatMap (·.matrix)) ++ s.workgroups.flatMap (·.savedMatrix)).filter fun m =>
    (m.members.any fun x => decide (x.1 = p)) && (m.stoppedOn.map f).getD false

/-- Mode 0 for them: they go on where they stopped. -/
def State.replayStopped (s : State) (p : PartyId) (f : FaultClass → Bool) : State :=
  let ids := (s.stoppedCmds p f).map (·.id)
  let again (m : MatCmd) : MatCmd := if m.id ∈ ids then { m with stage := .waiting } else m
  { s with
    copies := s.copies.map fun c => if c.owner = p ∧ (c.stopped.map f).getD false then { c with stopped := none } else c
    cores := s.cores.map fun c => { c with matrix := c.matrix.map again }
    workgroups := s.workgroups.map fun w => { w with savedMatrix := w.savedMatrix.map again } }

/-- Mode 1 for them: they are dropped. -/
def State.dropStopped (s : State) (p : PartyId) (f : FaultClass → Bool) : State :=
  let s1 := (s.stoppedCopies p f).foldl (fun s c => s.dropCopyCmd c.id) s
  (s1.stoppedCmds p f).foldl (State.dropCommand · false ·) s1

/-- Mode 1 on the unit that faulted (R287). A lane instruction is passed over by a replay under no thread. -/
def Party.skip (q : Party) (u : FaultUnit) : Party :=
  let q1 := q.unpark
  match u with
  | .scalar | .gang => { q1 with pc := q1.pc + 4, progress := 0, ladsub := none, ladItems := none, blocked := false, waitsOn := none }
  | .laneIssue | .schedule => { q1 with run := q1.run.map fun r => { r with replay := some 0 } }
  | .laneLate op => q1.dropOp op
  | .header => { q1 with queue := q1.queue.drop 1 }
  | .entry id => q1.dropEntry id
  | .command => q1

/-- Mode 2: the group goes on elsewhere, with its lane queue emptied; what waits at its fault is abandoned. -/
def Party.resumeAt (q : Party) (u : FaultUnit) (pc : DWord) : Party :=
  let q1 : Party :=
    { q.unpark with
      pc := pc
      queue := []
      progress := 0
      ladsub := none
      ladItems := none
      blocked := false
      waitsOn := none
      fetched := [] }
  q1.abandon u

/-- A failed entry is translated and asked for again. -/
def SqEntry.again (e : SqEntry) : SqEntry := { e with held := false, req := none, stale := true }

/-- Mode 0: the group goes on; accesses that failed after issue are issued again. -/
def Party.replayUnit (q : Party) (u : FaultUnit) : Party :=
  match u with
  | .laneLate op =>
    { q.unpark with
      loads := q.loads.map fun l => if l.op = op ∧ l.lost then { l with pieces := [], part := [], got := none, reqs := [] } else l
      sq := q.sq.map fun e => if e.op = some op ∧ e.failed then e.again else e }
  | .entry id => { q.unpark with sq := updAll (fun e => decide (e.id = id)) SqEntry.again q.sq }
  | _ => q.unpark

/-- ERET on a parked group. Modes 0 and 1 serve its stopped copies and commands with it; mode 2 drops what it parked
on. -/
def State.eretParked (s : State) (w : Workgroup) (q : Party) (k : Park) (mode : Nat) (pc : DWord) : State :=
  match mode with
  | 0 => (s.updParty q.id fun q => q.replayUnit k.unit).replayStopped q.id fun _ => true
  | 1 => (s.updParty q.id fun q => q.skip k.unit).dropStopped q.id fun _ => true
  | 2 => (s.updParty q.id fun q => q.resumeAt k.unit pc).dropStopped q.id fun c => decide (c ≠ .pageAbsent)
  | _ => s.failWg w k.cls.code false

/-- ERET on a group that goes on while a copy or drain of it is stopped on a page fault; none: No such object. -/
def State.eretRunning (s : State) (w : Workgroup) (q : Party) (mode : Nat) : Option State :=
  let page (c : FaultClass) : Bool := decide (c = .pageAbsent)
  if (s.stoppedCopies q.id page).isEmpty && (s.stoppedCmds q.id page).isEmpty then none
  else
    match mode with
    | 0 => some (s.replayStopped q.id page)
    | 1 => some (s.dropStopped q.id page)
    | 2 => none
    | _ => some (s.failWg w FaultClass.pageAbsent.code false)

/-- ERET on a group: parked, or going on with something stopped; none: No such object. -/
def State.eretGroup (s : State) (p : PartyId) (mode : Nat) (pc : DWord) : Option State :=
  match s.party? p, s.wgOf p with
  | some q, some w =>
    (match q.park with
     | some k => some (s.eretParked w q k mode pc)
     | none => s.eretRunning w q mode)
  | _, _ => none

/-- ERET on a steward core that has stopped at a fault (R171), or one of whose copies has (R182); none: No such object. Mode
3 finds no workgroup there. -/
def State.eretSteward (s : State) (p : PartyId) (mode : Nat) (pc : DWord) : Option State :=
  let page (c : FaultClass) : Bool := decide (c = .pageAbsent)
  match (s.party p).park, mode with
  | some k, 0 => some ((s.updParty p fun q => q.replayUnit k.unit).replayStopped p fun _ => true)
  | some k, 1 => some ((s.updParty p fun q => q.skip k.unit).dropStopped p fun _ => true)
  | some k, 2 => some ((s.updParty p fun q => q.resumeAt k.unit pc).dropStopped p fun c => decide (c ≠ .pageAbsent))
  | some _, _ => none
  | none, 0 => if (s.stoppedCopies p page).isEmpty then none else some (s.replayStopped p page)
  | none, 1 => if (s.stoppedCopies p page).isEmpty then none else some (s.dropStopped p page)
  | none, _ => none

/-- The group that a word names, or else the steward core. -/
def State.eretOn (s : State) (v mode : Nat) (pc : DWord) : Option State :=
  match s.eretGroup (groupOfIdentity v) mode pc with
  | some s1 => some s1
  | none => (stewardOfIdentity v).bind fun p => s.eretSteward p mode pc

/-- The status values of R285. -/
def noSuchObject : DWord := BitVec.allOnes 64
def conflict : DWord := BitVec.allOnes 64 - 1
def inUse : DWord := BitVec.allOnes 64 - 2
def closed : DWord := BitVec.allOnes 64 - 3

def execEret (d a b : BitVec 6) (s : State) : Out :=
  s.stewardOnly (s.scalar [d] [a, b] fun s =>
    let v := (s.rd a).toNat
    let mode := (s.rd b).toNat % 4
    let pc := s.rd b &&& ~~~(3 : DWord)
    if bitsOf v 63 56 ≠ 0 ∨ v % 128 ≠ 0 then s.trap .illegal
    else
      match s.eretOn v mode pc with
      | some s1 => s1.alu d 0
      | none => s.alu d noSuchObject)

/-! ## HALT (R288) -/

def execHalt (a : BitVec 6) (s : State) : Out :=
  s.stewardOnly (s.scalar [] [a] fun s =>
    let va := (s.rd a).toNat
    match s.checkAccess s.me va 8 .read true false with
    | (s1, .fault c a r) => s1.accessFault va c a r
    | (s1, .ok x) =>
      (s1.upd fun q => { q with status := .halted (((x.pieces.head?.map (·.pa)).getD 0) / 128) s.clk false }).adv)

/-- Step 3 of R332: the firmware has locked `kfmap` and started every steward core. That the status changes as the last of them
leaves the ROM is DEDUCED (log entry 6). -/
def State.nimbrelStarted (s : State) : State :=
  if s.bootStatus = 0x02 ∧ s.kfmap.getLsbD 0 = true ∧ !(s.parties.any fun q => decide (q.status = .romLoop)) then
    { s with bootStatus := 0x03 }
  else s

/-- The firmware refuses Nimbrel: what it does by itself no instruction shows, so that the schedule says so. -/
def State.nimbrelRefused (s : State) : State := if s.bootStatus = 0x02 then { s with bootStatus := 0xE3 } else s

/-- R288. `args.p` is the steward core: something has woken it. One in the ROM loop goes on once its start word is not
zero, at the word's value (R310). A start word that is no multiple of 4 has no fate in the spec, which gives the scalar pc only
such values (R36): the core goes on there and fetches the word that lies there. DESIGN CHOICE (log entry 55); unsafe.
`args.flag`: the firmware refuses Nimbrel. -/
def execHaltWake (s : State) : Out :=
  let (s1, bs) := match s.args.p with
    | .steward n => s.homeRead (Config.startWords + 8 * n) 8
    | .group _ _ _ => (s, [])
  .next (if s.args.flag then s.nimbrelRefused
  else (s1.updParty s.args.p fun q =>
    match q.status with
    | .halted _ _ true => { q with status := .running }
    | .romLoop => if le bs = 0 then q else { q with status := .running, pc := dw (le bs) }
    | _ => q).nimbrelStarted)

/-- R288. `args.p` is the steward core: 1 ms has passed. -/
def execHaltTimeout (s : State) : Out :=
  .next (s.updParty s.args.p fun q =>
    match q.status with
    | .halted _ t _ => if t + Config.ms1 ≤ s.clk then { q with status := .running } else q
    | _ => q)

/-! ## TLBINV (R289) -/

/-- What a TLBINV covers: the kind, the space, and for kind 0 the pages. -/
structure Shootdown where
  kind : Nat
  space : Nat
  pages : List (Nat × Nat)
deriving DecidableEq, Repr

/-- Accesses of other spaces may have used a translation that is dropped: kinds 0 and 2 drop global ones too. The model does not keep
which leaf an access found; it waits for those of every space: DESIGN CHOICE (log entry 43); safe. -/
def Shootdown.anySpace (x : Shootdown) : Bool := decide (x.kind = 0 ∨ x.kind = 2 ∨ x.kind = 3)

/-- An access may have used a dropped translation. -/
def Shootdown.awaits (x : Shootdown) (space a n : Nat) : Bool :=
  (x.anySpace || decide (space = x.space)) && (decide (x.kind ≠ 0) || x.pages.any fun p => meets a n p.1 p.2)

/-- So may accesses of a space whose addresses the model does not keep. -/
def Shootdown.awaitsAll (x : Shootdown) (space : Nat) : Bool := x.anySpace || decide (space = x.space)

/-- A range of a space lies in what is covered. -/
def Shootdown.covers (x : Shootdown) (space a n : Nat) : Bool :=
  match x.kind with
  | 0 => decide (space = x.space) && x.pages.any fun p => meets a n p.1 p.2
  | 3 => true
  | _ => decide (space = x.space)

/-- The global sides of a copy: the address of each element. -/
def Copy.sides (c : Copy) : List (Nat → Nat) :=
  (if c.srcSpace = 0 ∧ !c.zero then [sideAddr 0 c.src c.srcDims] else []) ++
    if c.dstSpace = 0 then [sideAddr 0 c.dst c.dstDims] else []

/-- The space through which a write that waits at its home slice has been translated; what a party's store queue holds is seen
there. -/
def State.spaceOfSource (s : State) : WriteSource → Option Nat
  | .copy id _ => (s.copy? id).map (·.space)
  | .accd _ _ part _ => some (s.partition part).spaceid
  | .accdMax _ _ part _ _ => some (s.partition part).spaceid
  | .shuttle part _ => some (s.partition part).spaceid
  | .barrier p => some (s.party p).spaceid.toNat
  | .service p => some (s.party p).spaceid.toNat
  | .port _ space => some space
  | .completion space _ => some space
  | .entry _ _ | .drain _ _ | .packet _ _ | .walker _ | .record _ | .image _ _ => none

/-- A cached translation is dropped. -/
def Shootdown.drops (x : Shootdown) (va : Nat) (e : TlbEntry) : Bool :=
  match x.kind with
  | 0 => (decide (e.space = x.space) || e.leaf.getLsbD 6) && decide (e.base ≤ va ∧ va < e.base + e.size)
  | 1 => decide (e.space = x.space) && !e.leaf.getLsbD 6
  | 2 => decide (e.space = x.space) || e.leaf.getLsbD 6
  | _ => true

/-- An access that used a translation has not been performed: a store or atomic in a queue under the space through which it was
translated, a load, a scalar load part of the way through, an element of a copy, or a write that waits at its home slice. -/
def State.translationUsed (s : State) (x : Shootdown) : Bool :=
  (s.parties.any fun q =>
    let u := s.unitOf q
    (q.sq.any fun e =>
      match e.body with
      | .store a _ => x.awaits e.space e.va a.len
      | .atomic a _ _ _ _ => x.awaits e.space e.va a.len
      | _ => false) ||
    (!u.physical &&
      ((q.half.isSome && x.awaitsAll u.space) ||
        q.loads.any fun l => l.got.isNone && !l.pieces.isEmpty && x.awaits u.space l.va (l.pieces.map (·.len)).sum))) ||
  (s.copies.any fun c => c.pins.any fun p => c.sides.any fun a => x.awaits c.space (a p.1) c.elem) ||
  (s.cores.any fun c => c.matrix.any fun m => !m.ready.isEmpty && x.awaitsAll m.space) ||
  s.waitsAny fun src => ((s.spaceOfSource src).map x.awaitsAll).getD false

/-- A tack whose range meets a page that is covered. -/
def Shootdown.hitsTack (x : Shootdown) (t : Tack) : Bool :=
  t.pages.any fun p => x.covers t.space p.1 p.2

/-- The pages of kind 0 (R289): the whole page of each translation that covers the address, and those that the registry found. -/
def State.pagesAt (s : State) (sp va : Nat) : List (Nat × Nat) :=
  let cached := (s.tlb.filter fun e => (decide (e.space = sp) || e.leaf.getLsbD 6) && decide (e.base ≤ va ∧ va < e.base + e.size)).map
    fun e => (e.base, e.size)
  let known := s.tacks.flatMap fun t => t.pages.filter fun p => decide (t.space = sp ∧ p.1 ≤ va ∧ va < p.1 + p.2)
  (va / 65536 * 65536, 65536) :: cached ++ known

/-- R289. The pages are found once, before any translation is dropped. -/
def execTlbinv (a b : BitVec 6) (s : State) : Out :=
  s.stewardOnly (s.scalar [] [a, b] fun s =>
    let v := (s.rd b).toNat
    let va := (s.rd a).toNat
    if bitsOf v 63 32 ≠ 0 ∨ bitsOf v 15 2 ≠ 0 then s.trap .illegal
    else if !s.me.settled then s
    else
      let sp := bitsOf v 31 16
      let go (s : State) : State :=
        let x : Shootdown := ⟨v % 4, sp, s.me.shooting⟩
        let s1 := s.breakTacks x.hitsTack
        let s2 : State := { s1 with tlb := s1.tlb.filter fun e => !x.drops va e, text := [] }
        if s2.breakingAny x.hitsTack || s2.translationUsed x then s2
        else (s2.upd fun q => { q with progress := 0, shooting := [] }).adv
      if s.me.progress = 0 then
        s.afterRelease s.me.core .device fun s => go (s.upd fun q => { q with progress := 1, shooting := s.pagesAt sp va })
      else go s)

end Sys2Proof.Machine
end

