-- ==== Sys2Proof/Machine/Operands.lean ====
section
/-!
DEFINITION. Operands and the issue of lane instructions: resolved types (R48, R49), operand b (R85), block forms (R87),
declared registers (R23), overlap (R49), tags (R20), gaps (R17), register errors (R89), the U form (R15), and how a run
goes on (R12, R199, R313).
-/

namespace Sys2Proof.Machine

/-! ## Resolved types (R48, R59) -/

inductive LTy where
  | s32 | z32 | s16x2 | z16x2 | s8x4 | z8x4 | f32 | f16x2 | bf16x2 | e4m3x4 | e5m2x4 | p8x4 | s64 | z64
deriving DecidableEq, Repr

def LTy.ofCode : Nat → Option LTy
  | 0 => some .s32 | 1 => some .z32 | 2 => some .s16x2 | 3 => some .z16x2 | 4 => some .s8x4 | 5 => some .z8x4
  | 6 => some .f32 | 7 => some .f16x2 | 8 => some .bf16x2 | 9 => some .e4m3x4 | 10 => some .e5m2x4 | 11 => some .p8x4
  | 12 => some .s64 | 13 => some .z64 | _ => none

/-- Element width, elements of a unit, and whether a unit is a register pair. -/
def LTy.width : LTy → Nat
  | .s32 | .z32 | .f32 => 32
  | .s16x2 | .z16x2 | .f16x2 | .bf16x2 => 16
  | .s64 | .z64 => 64
  | _ => 8

def LTy.count : LTy → Nat
  | .s16x2 | .z16x2 | .f16x2 | .bf16x2 => 2
  | .s8x4 | .z8x4 | .e4m3x4 | .e5m2x4 | .p8x4 => 4
  | _ => 1

def LTy.wide : LTy → Bool
  | .s64 | .z64 => true
  | _ => false

/-- Registers of a unit. -/
def LTy.regs (t : LTy) : Nat := if t.wide then 2 else 1

def LTy.signed : LTy → Bool
  | .s32 | .s16x2 | .s8x4 | .s64 => true
  | _ => false

def LTy.float? : LTy → Option FType
  | .f32 => some .f32 | .f16x2 => some .f16 | .bf16x2 => some .bf16
  | .e4m3x4 => some .e4m3 | .e5m2x4 => some .e5m2 | .p8x4 => some .picot8
  | _ => none

/-- The type sets of R95: A, P, S and W; and the floating types of R99. -/
def LTy.setA (t : LTy) : Bool := t.float?.isNone
def LTy.setP (t : LTy) : Bool := t.setA && !t.wide
def LTy.setS (t : LTy) : Bool := t.signed
def LTy.setW (t : LTy) : Bool := decide (t = .s32) || decide (t = .z32)
def LTy.setF (t : LTy) : Bool := decide (t = .f32) || decide (t = .f16x2) || decide (t = .bf16x2)

/-- Element `e` of a unit. -/
def LTy.elem (t : LTy) (v e : Nat) : Nat := v / 2 ^ (t.width * e) % 2 ^ t.width

/-- The value of an element of an integer type. -/
def LTy.int (t : LTy) (x : Nat) : Int := if t.signed then toSigned t.width x else (x : Int)

/-- A unit made of elements, each taken modulo its width. -/
def LTy.pack (t : LTy) (f : Nat → Nat) : Nat :=
  (List.range t.count).foldl (fun v e => v + f e % 2 ^ t.width * 2 ^ (t.width * e)) 0

/-- Applies a function to the elements of up to three units. -/
def LTy.each (t : LTy) (f : Nat → Nat → Nat → Nat) (a b c : Nat) : Nat :=
  t.pack fun e => f (t.elem a e) (t.elem b e) (t.elem c e)

/-! ## What FMT and the fields give (R25, R49) -/

/-- The type of an instruction at issue. -/
def laneType (w : LaneWord) (fmt : Word) : Option LTy :=
  LTy.ofCode (if w.ty = 15 then fmt.toNat % 16 else w.ty.toNat)

def laneRnd (w : LaneWord) (fmt : Word) : Rnd :=
  Rnd.ofCode (if w.rnd = 15 then fmt.toNat / 16 % 16 else w.rnd.toNat)

def fmtFlush (fmt : Word) : Bool := fmt.getLsbD 9
def fmtSat (fmt : Word) : Bool := fmt.getLsbD 8

/-! ## Units of a thread -/

/-- A register or pair of one thread. -/
def Party.regUnit (q : Party) (wide : Bool) (n t : Nat) : Nat :=
  (q.vreg n t).toNat + if wide then 2 ^ 32 * (q.vreg (n + 1) t).toNat else 0

/-- Operand b of a thread in pass `i` (R85, R87). -/
def Party.operandB (q : Party) (r : Run) (w : LaneWord) (ty : LTy) (i t : Nat) : Nat :=
  let lit (x : Word) : Nat := if ty = .s64 then (x.signExtend 64).toNat else x.toNat
  match w.bsel.toNat with
  | 0 => q.regUnit ty.wide (w.vb.toNat + i * ty.regs) t
  | 1 => (r.snap.getD (w.vb.toNat % 16) 0).toNat % (if ty.wide then 2 ^ 64 else 2 ^ 32)
  | 2 => lit w.imm32
  | _ => lit w.lit

/-- Writes registers or pairs of threads of a party, which clears the errors of the words written (R89). -/
def State.writeUnits (s : State) (p : PartyId) (wide : Bool) (n : Nat) (vals : List (Nat × Nat)) : State :=
  { s.updParty p fun q => vals.foldl (fun q x =>
      let q1 := q.setVreg n x.1 (wd x.2)
      if wide then q1.setVreg (n + 1) x.1 (wd (x.2 / 2 ^ 32)) else q1) q with
    errors := s.errors.filter fun e =>
      match e with
      | .vreg p' m t => !(decide (p' = p) && (decide (m = n) || (wide && decide (m = n + 1))) &&
          vals.any fun x => decide (x.1 = t))
      | _ => true }

/-! ## Which threads act (00_scope.md, R199) -/

/-- The threads for which an instruction of a run acts; a replay leaves out those that have finished. -/
def Party.activeMask (q : Party) (r : Run) (m : BitVec 3) : Word :=
  q.em &&& q.kreg m.toNat &&& fullMask q.gw &&& r.replay.getD (BitVec.allOnes 32)

/-- The threads of a mask, in ascending order. -/
def threadsOf (gw : Nat) (m : Word) : List Nat := (List.range gw).filter fun t => m.getLsbD t

/-! ## What an instruction names -/

/-- A block of registers: first, count, and the multiple at which it must start. -/
structure Block where
  first : Nat
  count : Nat
  align : Nat
deriving DecidableEq, Repr

/-- Registers that an instruction reads for its own thread and across threads, those that it writes, the mask registers
that it reads and the one that it writes, and the kind of producer that it is (R17, R86). -/
structure LaneUse where
  own : List Block
  far : List Block
  writes : List Block
  masks : List Nat
  maskDest : Option Nat
  kind : ProducerKind
deriving DecidableEq, Repr

def Block.has (b : Block) (n : Nat) : Bool := decide (b.first ≤ n ∧ n < b.first + b.count)

def LaneUse.blocks (u : LaneUse) : List Block := u.own ++ u.far ++ u.writes

/-- Every register is declared (R23) and every block starts where it must (R51, R85). -/
def LaneUse.regsOk (u : LaneUse) (vcount : Nat) : Bool :=
  u.blocks.all fun b => decide (b.first + b.count ≤ vcount) && decide (b.first % b.align = 0)

/-- A destination block overlaps a source block in part (R49). -/
def LaneUse.overlaps (u : LaneUse) : Bool :=
  u.writes.any fun d => (u.own ++ u.far).any fun b =>
    meets d.first d.count b.first b.count && !(decide (d.first = b.first) && decide (d.count = b.count))

/-- A register that it reads or writes is tagged (R20). -/
def LaneUse.tagged (u : LaneUse) (tags : List (Nat × Nat)) : Bool :=
  tags.any fun t => u.blocks.any fun b => b.has t.1

/-- The minimum gap of R17. -/
def minGap (k : ProducerKind) (legacy far : Bool) : Nat :=
  match k with
  | .alu => far.toNat
  | .load | .special => far.toNat + legacy.toNat
  | .uniform => 0

/-- A gap is too short. An instruction is a per-thread consumer of every mask that it names, the U form too (R86). -/
def LaneUse.gapShort (u : LaneUse) (r : Run) (legacy isU : Bool) : Bool :=
  r.producers.any fun p =>
    if p.isMask then
      decide (p.reg ∈ u.masks) && decide (p.gap < minGap p.kind legacy false) ||
        decide (u.maskDest = some p.reg) && decide (p.gap < minGap p.kind legacy isU)
    else
      (u.blocks.any fun b => b.has p.reg) && decide (p.gap < minGap p.kind legacy (isU || !u.far.isEmpty))

/-- The registers that it produces, for the gaps of later instructions. -/
def LaneUse.produces (u : LaneUse) (isU : Bool) : List Producer :=
  let kind := if isU then ProducerKind.uniform else u.kind
  (u.writes.flatMap fun b => (List.range b.count).map fun i => (⟨false, b.first + i, kind, 0⟩ : Producer)) ++
    u.maskDest.toList.map fun m => ⟨true, m, kind, 0⟩

/-! ## Register errors (R89) -/

/-- A word of a block of a thread holds an uncorrected error. -/
def State.blockBad (s : State) (p : PartyId) (bs : List Block) (t : Nat) : Bool :=
  s.errors.any fun e =>
    match e with
    | .vreg p' n t' => decide (p' = p ∧ t' = t) && bs.any fun b => b.has n
    | _ => false

/-- The threads that an error stops: for its own words, and for those of the threads it depends on. `deps` gives a thread
those threads, each with the blocks that it reads there. -/
def State.badThreads (s : State) (q : Party) (u : LaneUse) (deps : Nat → List (Nat × List Block)) (ts : List Nat) : Word :=
  maskOf 32 fun t => decide (t ∈ ts) && (s.blockBad q.id u.own t || (deps t).any fun j => s.blockBad q.id j.2 j.1)

/-! ## The run goes on -/

/-- A run has finished: it passes its checkpoint (R313), and its lane arbitrates again (R12, R13). -/
def Party.endRun (q : Party) (r : Run) (clk : Nat) : Party :=
  { q with
    run := none
    checkpoint := match r.checkpoint with
      | some c => some c
      | none => q.checkpoint
    lastRunEnd := clk
    readySince := none }

/-- An instruction has issued for its last thread: the run goes on to the next, or has finished. `new` are the
registers it has produced. -/
def State.laneDone (s : State) (w : LaneWord) (new : List Producer) : State :=
  s.upd fun q =>
    match q.run with
    | none => q
    | some r =>
      let r1 : Run :=
        { r with
          pc := (r.pc + if w.bsel = 3 then 16 else 12) % 2 ^ 64
          left := r.left - 1
          producers := (if w.u = 0 then r.producers.map fun p => { p with gap := p.gap + 1 } else r.producers) ++ new
          replay := none }
      if r1.left = 0 then q.endRun r1 s.clk else { q with run := some r1 }

/-- A fault at issue, precise at the lane instruction: the run waits at it (R21, R199). -/
def State.laneFault (s : State) (cls : FaultClass) (r : Run) (unit : FaultUnit) (addr addr2 : Nat) (mask : Word)
    (replayable : Bool) : State :=
  s.fault s.actor cls unit
    { addr := dw addr, addr2 := dw addr2, replayable := replayable, unfinished := mask, laneAddr := some (dw r.pc) }

/-- The issue of a lane computation instruction: its checks in the order of R89, then its effect, then the run goes on. -/
def State.laneIssue (s : State) (w : LaneWord) (legal : Bool) (u : LaneUse) (deps : Nat → List (Nat × List Block))
    (k : State → Run → Word → State) : Out :=
  let q := s.me
  match q.run with
  | none => .next s
  | some r =>
    if r.replay = some 0 then .next (s.laneDone w [])
    else if !legal || !u.regsOk q.vcount then .next (s.laneFault .illegal r .laneIssue 0 0 0 false)
    else if u.overlaps then .next (s.laneFault .overlap r .laneIssue 0 0 0 false)
    else if u.tagged q.tags || u.gapShort r (decide (q.gw = 16)) (decide (w.u = 1)) then
      .next (s.laneFault .schedule r .schedule 0 0 0 false)
    else
      let act := q.activeMask r w.mask
      let ts := if w.u = 1 then [0] else threadsOf q.gw act
      let bad := s.badThreads q u deps ts
      if bad ≠ 0 then .next (s.laneFault .storeError r .laneIssue 0 0 bad false)
      else .next ((k s r act).laneDone w (u.produces (decide (w.u = 1))))

/-! ## Per-thread instructions -/

/-- What FMT and the fields give an instruction at issue. -/
structure LaneCtx where
  ty : LTy
  rnd : Rnd
  flush : Bool
  sat : Bool
deriving DecidableEq, Repr

def Party.laneCtx (q : Party) (w : LaneWord) (ty : LTy) : LaneCtx :=
  ⟨ty, laneRnd w q.fmt, fmtFlush q.fmt, fmtSat q.fmt⟩

/-- One pass: the values of the active threads, thread 0's for all in the U form (R15, R87). -/
def State.lanePass (s : State) (w : LaneWord) (act : Word) (wide : Bool) (n : Nat) (f : Party → Nat → Nat) : State :=
  let q := s.me
  let ts := threadsOf q.gw act
  let vals := if w.u = 1 then (let v := f q 0; ts.map fun t => (t, v)) else ts.map fun t => (t, f q t)
  s.writeUnits s.actor wide n vals

/-- The mask registers that the mask field reads. -/
def maskReads (w : LaneWord) : List Nat := if w.mask = 0 then [] else [w.mask.toNat]

/-- Blocks of the operands that an instruction reads. -/
def operandBlocks (w : LaneWord) (ty : LTy) (hasA hasB hasC : Bool) : List Block :=
  let n := (w.cnt.toNat + 1) * ty.regs
  (if hasA then [⟨w.va.toNat, n, ty.regs⟩] else []) ++ (if hasB ∧ w.bsel = 0 then [⟨w.vb.toNat, n, ty.regs⟩] else []) ++
    (if hasC then [⟨w.vc.toNat, n, ty.regs⟩] else [])

/-- Which operands an instruction reads. -/
structure Reads where
  a : Bool
  b : Bool
  c : Bool
deriving DecidableEq, Repr

/-- A per-thread instruction of one type: `f` gives the unit that a thread writes from its operands. -/
def State.perThread (s : State) (w : LaneWord) (ok : LTy → Bool) (reads : Reads) (kind : ProducerKind)
    (f : LaneCtx → Nat → Nat → Nat → Nat) : Out :=
  let q := s.me
  match laneType w q.fmt with
  | none => s.laneIssue w false ⟨[], [], [], [], none, kind⟩ (fun _ => []) fun s _ _ => s
  | some ty =>
    let cx := q.laneCtx w ty
    let n := (w.cnt.toNat + 1) * ty.regs
    s.laneIssue w (ok ty)
      ⟨operandBlocks w ty reads.a reads.b reads.c, [], [⟨w.vd.toNat, n, ty.regs⟩], maskReads w, none, kind⟩ (fun _ => [])
      fun s r act =>
        (List.range (w.cnt.toNat + 1)).foldl (fun s i =>
          s.lanePass w act ty.wide (w.vd.toNat + i * ty.regs) fun q t =>
            f cx (q.regUnit ty.wide (w.va.toNat + i * ty.regs) t) (q.operandB r w ty i t)
              (q.regUnit ty.wide (w.vc.toNat + i * ty.regs) t)) s

end Sys2Proof.Machine
end

