-- ==== Sys2Proof/Machine/LaneInt.lean ====
section
/-!
DEFINITION. Lane integer instructions, class 0x0 (R95 to R98), and the integer and floating compares, class 0x4
(R113 to R115).
-/

namespace Sys2Proof.Machine

/-- A class 0x0 instruction: `f` acts on each element, of the type's width. -/
def State.laneInt (s : State) (w : LaneWord) (ok : LTy → Bool) (reads : Reads) (f : LTy → Nat → Nat → Nat → Nat) : Out :=
  s.perThread w ok reads .alu fun cx a b c => cx.ty.each (f cx.ty) a b c

/-- Operands a and b; a, b and c; a alone. -/
def readsAB : Reads := ⟨true, true, false⟩
def readsABC : Reads := ⟨true, true, true⟩
def readsA : Reads := ⟨true, false, false⟩

def execIadd (w : LaneWord) (s : State) : Out := s.laneInt w LTy.setA readsAB fun _ a b _ => a + b

def execIsub (w : LaneWord) (s : State) : Out :=
  s.laneInt w LTy.setA readsAB fun ty a b _ => ofSigned ty.width ((a : Int) - b)

def execImul (w : LaneWord) (s : State) : Out := s.laneInt w LTy.setA readsAB fun _ a b _ => a * b

def execImulhi (w : LaneWord) (s : State) : Out :=
  s.laneInt w LTy.setP readsAB fun ty a b _ => ofSigned ty.width ((ty.int a * ty.int b) / (2 ^ ty.width : Nat))

def execImad (w : LaneWord) (s : State) : Out := s.laneInt w LTy.setA readsABC fun _ a b c => a * b + c

def execIand (w : LaneWord) (s : State) : Out := s.laneInt w LTy.setA readsAB fun _ a b _ => a &&& b

def execIor (w : LaneWord) (s : State) : Out := s.laneInt w LTy.setA readsAB fun _ a b _ => a ||| b

def execIxor (w : LaneWord) (s : State) : Out := s.laneInt w LTy.setA readsAB fun _ a b _ => a ^^^ b

def execInot (w : LaneWord) (s : State) : Out := s.laneInt w LTy.setA readsA fun ty a _ _ => 2 ^ ty.width - 1 - a

def execIshl (w : LaneWord) (s : State) : Out :=
  s.laneInt w LTy.setA readsAB fun ty a b _ => a * 2 ^ (b % ty.width)

def execIshr (w : LaneWord) (s : State) : Out :=
  s.laneInt w LTy.setA readsAB fun ty a b _ => a / 2 ^ (b % ty.width)

/-- ISAR reads `a` as signed for every type. -/
def execIsar (w : LaneWord) (s : State) : Out :=
  s.laneInt w LTy.setA readsAB fun ty a b _ => ofSigned ty.width (toSigned ty.width a / (2 ^ (b % ty.width) : Nat))

def execImin (w : LaneWord) (s : State) : Out :=
  s.laneInt w LTy.setA readsAB fun ty a b _ => if ty.int b < ty.int a then b else a

def execImax (w : LaneWord) (s : State) : Out :=
  s.laneInt w LTy.setA readsAB fun ty a b _ => if ty.int a < ty.int b then b else a

def execIabs (w : LaneWord) (s : State) : Out :=
  s.laneInt w LTy.setS readsA fun ty a _ _ => (ty.int a).natAbs

def execIpopc (w : LaneWord) (s : State) : Out :=
  s.laneInt w LTy.setP readsA fun ty a _ _ => setBits ty.width a

def execIclz (w : LaneWord) (s : State) : Out :=
  s.laneInt w LTy.setP readsA fun ty a _ _ => leadingZeros ty.width a

/-! ## Fields (R97) -/

/-- Position and length of a field: the length clamped to what is left above the position. -/
def fieldOf (b : Nat) : Nat × Nat :=
  let pos := b % 32
  (pos, min (min (b / 256 % 64) 32) (32 - pos))

def execIbfe (w : LaneWord) (s : State) : Out :=
  s.laneInt w LTy.setW readsAB fun ty a b _ =>
    let (pos, len) := fieldOf b
    let x := a / 2 ^ pos % 2 ^ len
    if ty.signed ∧ len ≠ 0 then ofSigned 32 (toSigned len x) else x

def execIbfi (w : LaneWord) (s : State) : Out :=
  s.laneInt w LTy.setW readsABC fun _ a b c =>
    let (pos, len) := fieldOf b
    c % 2 ^ pos + a % 2 ^ len * 2 ^ pos + c / 2 ^ (pos + len) * 2 ^ (pos + len)

/-! ## ISEL and IMOV (R95, R98) -/

/-- R98. The selector is read per thread. -/
def execIsel (w : LaneWord) (s : State) : Out :=
  let q := s.me
  let sel := w.imm32.toNat % 8
  match laneType w q.fmt with
  | none => s.laneIssue w false ⟨[], [], [], [], none, .alu⟩ (fun _ => []) fun s _ _ => s
  | some ty =>
    let n := (w.cnt.toNat + 1) * ty.regs
    s.laneIssue w ty.setA
      ⟨operandBlocks w ty true true false, [], [⟨w.vd.toNat, n, ty.regs⟩],
        maskReads w ++ (if sel = 0 then [] else [sel]), none, .alu⟩ (fun _ => [])
      fun s r act =>
        (List.range (w.cnt.toNat + 1)).foldl (fun s i =>
          s.lanePass w act ty.wide (w.vd.toNat + i * ty.regs) fun q t =>
            if (q.kreg sel).getLsbD t then q.regUnit ty.wide (w.va.toNat + i * ty.regs) t else q.operandB r w ty i t) s

def execImov (w : LaneWord) (s : State) : Out :=
  s.laneInt w LTy.setA ⟨false, true, false⟩ fun _ _ b _ => b

/-! ## Compares (R113 to R115) -/

/-- A compare: inactive threads receive 0. The mask field is read before kM is written. -/
def State.laneCompare (s : State) (w : LaneWord) (ok : LTy → Bool) (cond : LaneCtx → Nat → Nat → Nat → Bool) : Out :=
  let q := s.me
  let code := w.imm32.toNat % 16
  let e := w.imm32.toNat / 16 % 4
  let m := w.vd.toNat % 8
  match laneType w q.fmt with
  | none => s.laneIssue w false ⟨[], [], [], [], none, .alu⟩ (fun _ => []) fun s _ _ => s
  | some ty =>
    s.laneIssue w (ok ty && decide (e < ty.count))
      ⟨operandBlocks w ty true true false, [], [], maskReads w, some m, .alu⟩ (fun _ => [])
      fun s r act => s.upd fun q =>
        q.setKreg m (maskOf q.gw fun t => act.getLsbD t &&
          cond (q.laneCtx w ty) code (ty.elem (q.regUnit ty.wide w.va.toNat t) e) (ty.elem (q.operandB r w ty 0 t) e))

def execIcmp (w : LaneWord) (s : State) : Out :=
  s.laneCompare w LTy.setA fun cx code a b => intCond code (cx.ty.int a) (cx.ty.int b)

/-- The conditions of FCMP (R115): with a NaN, only `.ne` and `.unord` hold. -/
def fpCond (code : Nat) (x y : FVal) : Bool :=
  let un := x.isNan || y.isNan
  match code with
  | 0 => x.eq y
  | 1 => !x.eq y
  | 2 => !un && !x.eq y && x.lt y
  | 3 => !un && (x.eq y || x.lt y)
  | 4 => !un && !x.eq y && y.lt x
  | 5 => !un && (x.eq y || y.lt x)
  | 6 => !un
  | _ => un

/-- An element of a floating type as a value, after the flush rule of R71. -/
def LaneCtx.read (cx : LaneCtx) (t : FType) (x : Nat) : FVal :=
  t.decode (if t = .f32 then flushF32 cx.flush x else x)

/-- A value rounded to an element, after the flush rule of R71. -/
def LaneCtx.write (cx : LaneCtx) (t : FType) (rnd : Rnd) (sat : Bool) (v : FVal) : Nat :=
  let x := t.encode rnd sat v
  if t = .f32 then flushF32 cx.flush x else x

def execFcmp (w : LaneWord) (s : State) : Out :=
  s.laneCompare w LTy.setF fun cx code a b =>
    match cx.ty.float? with
    | none => false
    | some t => fpCond code (cx.read t a) (cx.read t b)

end Sys2Proof.Machine
end

