-- ==== Sys2Proof/Machine/LaneFp.lean ====
section
/-!
DEFINITION. Lane floating-point instructions, class 0x1 (R99, R100), CVT (R101 to R103), special functions, class 0x8
(R116), and the miscellaneous class 0x9 (R117, R118).
-/

namespace Sys2Proof.Machine

/-- A floating instruction: `f` gives the exact value of each element, which is rounded once (R72). -/
def State.laneFloat (s : State) (w : LaneWord) (ok : LTy → Bool) (reads : Reads) (kind : ProducerKind)
    (f : Rnd → FVal → FVal → FVal → FVal) : Out :=
  s.perThread w ok reads kind fun cx a b c =>
    match cx.ty.float? with
    | none => 0
    | some t => cx.ty.each (fun a b c => cx.write t cx.rnd false (f cx.rnd (cx.read t a) (cx.read t b) (cx.read t c))) a b c

/-! ## Class 0x1 -/

def execFadd (w : LaneWord) (s : State) : Out := s.laneFloat w LTy.setF readsAB .alu fun r a b _ => a.add r b

def execFsub (w : LaneWord) (s : State) : Out := s.laneFloat w LTy.setF readsAB .alu fun r a b _ => a.add r b.neg

def execFmul (w : LaneWord) (s : State) : Out := s.laneFloat w LTy.setF readsAB .alu fun _ a b _ => a.mul b

def execFfma (w : LaneWord) (s : State) : Out := s.laneFloat w LTy.setF readsABC .alu fun r a b c => (a.mul b).add r c

def execFmin (w : LaneWord) (s : State) : Out := s.laneFloat w LTy.setF readsAB .alu fun _ a b _ => a.min b

def execFmax (w : LaneWord) (s : State) : Out := s.laneFloat w LTy.setF readsAB .alu fun _ a b _ => a.max b

def execFabs (w : LaneWord) (s : State) : Out := s.laneFloat w LTy.setF readsA .alu fun _ a _ _ => a.abs

def execFneg (w : LaneWord) (s : State) : Out := s.laneFloat w LTy.setF readsA .alu fun _ a _ _ => a.neg

def execFrint (w : LaneWord) (s : State) : Out := s.laneFloat w LTy.setF readsA .alu fun r a _ _ => a.rint r

/-! ## CVT (R101 to R103) -/

/-- One element converted (R65 to R67). With saturation on, a negative value of an S type that widens to a Z type is 0: R67 clamps it
where R103 extends its sign. DESIGN CHOICE (log entry 59); unsafe. -/
def LaneCtx.convert (cx : LaneCtx) (dst : LTy) (sat : Bool) (x : Nat) : Nat :=
  match cx.ty.float?, dst.float? with
  | some a, some b => cx.write b cx.rnd sat (cx.read a x)
  | some a, none => (cx.read a x).toInt cx.rnd dst.width dst.signed
  | none, some b => cx.write b cx.rnd sat (FVal.ofInt (cx.ty.int x))
  | none, none => ofSigned dst.width (if sat then clampInt dst.width dst.signed (cx.ty.int x) else cx.ty.int x)

/-- The unit that a conversion leaves: `old` is the destination's unit (R102). -/
def LaneCtx.convertUnit (cx : LaneCtx) (dst : LTy) (sat : Bool) (pos a old : Nat) : Nat :=
  let ns := cx.ty.count
  let nd := dst.count
  dst.pack fun i =>
    if ns < nd then
      (if pos * ns ≤ i ∧ i < pos * ns + ns then cx.convert dst sat (cx.ty.elem a (i - pos * ns)) else dst.elem old i)
    else cx.convert dst sat (cx.ty.elem a (pos * nd + i))

/-- R101. A narrowing conversion reads its destination as well. DESIGN CHOICE, unsafe (log entry 59): the elements that
its U form does not write are thread 0's, as all of its result is (R15). -/
def execCvt (w : LaneWord) (s : State) : Out :=
  let q := s.me
  let pos := w.imm32.toNat / 32 % 4
  match laneType w q.fmt, LTy.ofCode (w.imm32.toNat % 16) with
  | some ty, some dst =>
    let cx := q.laneCtx w ty
    let sat := w.imm32.getLsbD 4 || cx.sat
    let top := if ty.count < dst.count then dst.count / ty.count else ty.count / dst.count
    let n := w.cnt.toNat + 1
    let into : Block := ⟨w.vd.toNat, n * dst.regs, dst.regs⟩
    s.laneIssue w (decide (pos < top))
      ⟨⟨w.va.toNat, n * ty.regs, ty.regs⟩ :: (if ty.count < dst.count then [into] else []), [], [into], maskReads w, none, .alu⟩
      (fun _ => [])
      fun s _ act =>
        (List.range n).foldl (fun s i =>
          s.lanePass w act dst.wide (w.vd.toNat + i * dst.regs) fun q t =>
            cx.convertUnit dst sat pos (q.regUnit ty.wide (w.va.toNat + i * ty.regs) t)
              (q.regUnit dst.wide (w.vd.toNat + i * dst.regs) t)) s
  | _, _ => s.laneIssue w false ⟨[], [], [], [], none, .alu⟩ (fun _ => []) fun s _ _ => s

/-! ## Special functions (R116) -/

/-- A special function of one operand. -/
def State.laneSpecial (s : State) (w : LaneWord) (f : FVal → FVal) : Out :=
  s.laneFloat w (fun t => decide (t = .f32)) readsA .special fun _ a _ _ => f a

def execRcp (w : LaneWord) (s : State) : Out := s.laneSpecial w FVal.rcp

def execRsqrt (w : LaneWord) (s : State) : Out := s.laneSpecial w FVal.rsqrt

def execSqrt (w : LaneWord) (s : State) : Out := s.laneSpecial w FVal.sqrt

def execLaneDiv (w : LaneWord) (s : State) : Out :=
  s.laneFloat w (fun t => decide (t = .f32)) readsAB .special fun _ a b _ => a.div b

def execExp2 (w : LaneWord) (s : State) : Out := s.laneSpecial w FVal.exp2

def execLog2 (w : LaneWord) (s : State) : Out := s.laneSpecial w FVal.log2

def execSin (w : LaneWord) (s : State) : Out := s.laneSpecial w FVal.sin

def execCos (w : LaneWord) (s : State) : Out := s.laneSpecial w FVal.cos

def execTanh (w : LaneWord) (s : State) : Out := s.laneSpecial w FVal.tanh

/-! ## Class 0x9 -/

/-- R117. -/
def execLnop (w : LaneWord) (s : State) : Out :=
  s.laneIssue w true ⟨[], [], [], [], none, .alu⟩ (fun _ => []) fun s _ _ => s

/-- The identity value of a thread (R118). Thread t issues t `clk` after its instruction starts (R16): LID moves time on
to its last thread's issue, so that no later read of `clk` on the core is smaller (R30). -/
def State.identityValue (s : State) (q : Party) (code t : Nat) : Nat :=
  match code with
  | 0 => t
  | 1 => (match q.id with | .group _ _ i => i | .steward _ => 0)
  | 2 => ((s.wgOf q.id).map (·.index)).getD 0
  | 3 => q.lane
  | 4 => q.core
  | 5 => q.gw
  | 6 => (s.clkOf q.core).toNat + t
  | _ => (s.partOf q).getD 0

def execLid (w : LaneWord) (s : State) : Out :=
  s.laneIssue w true ⟨[], [], [⟨w.vd.toNat, 1, 1⟩], maskReads w, none, .alu⟩ (fun _ => [])
    fun s _ act =>
      let t := s.lanePass w act false w.vd.toNat fun q t => s.identityValue q (w.imm32.toNat % 16) t
      if w.imm32.toNat % 16 = 6 ∧ w.u = 0 then { t with clk := s.clk + (s.me.gw - 1) } else t

end Sys2Proof.Machine
end

