-- ==== Sys2Proof/Machine/LaneCross.lean ====
section
/-!
DEFINITION. Cross-thread lane instructions: QBLK and AMAX of class 0x2 (R104, R105), and class 0x3 (R106 to R112). Every
source is read before any destination is written.
-/

namespace Sys2Proof.Machine

/-- A cross-thread instruction whose type is one that `ok` accepts: `far` and `own` are its source blocks, `dest` the
registers it writes. -/
def State.crossThread (s : State) (w : LaneWord) (ok : LTy → Bool) (use : LTy → LaneUse)
    (deps : LTy → Party → Run → Word → Nat → List (Nat × List Block)) (k : State → LTy → Run → Word → State) : Out :=
  let q := s.me
  match laneType w q.fmt, q.run with
  | some ty, some r => s.laneIssue w (ok ty) (use ty) (deps ty q r (q.activeMask r w.mask)) fun s r act => k s ty r act
  | _, _ => s.laneIssue w false ⟨[], [], [], [], none, .alu⟩ (fun _ => []) fun s _ _ => s

/-- Threads, each with the blocks `bs` read there. -/
def readAll (bs : List Block) (ts : List Nat) : List (Nat × List Block) := ts.map fun j => (j, bs)

/-- Blocks `bs` of the active threads, which every active thread's result depends on. -/
def depsActive (bs : LTy → List Block) : LTy → Party → Run → Word → Nat → List (Nat × List Block) :=
  fun ty q _ act _ => readAll (bs ty) (threadsOf q.gw act)

/-- One unit of source a. -/
def unitA (w : LaneWord) (ty : LTy) : Block := ⟨w.va.toNat, ty.regs, ty.regs⟩

/-! ## QBLK and AMAX (R104, R105) -/

/-- R104. Inactive threads contribute +0. -/
def execQblk (w : LaneWord) (s : State) : Out :=
  s.crossThread w (fun t => decide (t = .e4m3x4 ∨ t = .e5m2x4 ∨ t = .p8x4) && decide (s.me.gw = 32))
    (fun _ => ⟨[], [⟨w.va.toNat, 1, 1⟩], [⟨w.vd.toNat, 2, 1⟩], maskReads w, none, .alu⟩)
    (depsActive fun _ => [⟨w.va.toNat, 1, 1⟩])
    fun s ty _ act =>
      let q := s.me
      let xs := (List.range 32).map fun k =>
        if act.getLsbD k then FType.f32.decode (flushF32 (fmtFlush q.fmt) (q.vreg w.va.toNat k).toNat) else .num false 0 0
      let (sb, qs) := quantBlock ((ty.float?).getD .picot8) xs
      let word (t : Nat) : Nat := le (((qs.drop (t / 4 * 4)).take 4).map fun c => BitVec.ofNat 8 c)
      let ts := threadsOf q.gw act
      (s.writeUnits s.actor false w.vd.toNat (ts.map fun t => (t, word t))).writeUnits s.actor false (w.vd.toNat + 1)
        (ts.map fun t => (t, sb))

/-- The FAMAX32 fold of the active threads' words (R105). -/
def amaxFold (flush : Bool) : List Nat → Nat
  | [] => 0
  | [x] => famax32 (flushF32 flush x) (flushF32 flush x)
  | x :: r => famax32 (flushF32 flush x) (amaxFold flush r)

def execAmax (w : LaneWord) (s : State) : Out :=
  s.crossThread w (fun t => decide (t = .f32))
    (fun _ => ⟨[], [⟨w.va.toNat, 1, 1⟩], [⟨w.vd.toNat, 1, 1⟩], maskReads w, none, .alu⟩)
    (depsActive fun _ => [⟨w.va.toNat, 1, 1⟩])
    fun s _ _ act =>
      let q := s.me
      let ts := threadsOf q.gw act
      let v := amaxFold (fmtFlush q.fmt) (ts.map fun t => (q.vreg w.va.toNat t).toNat)
      s.writeUnits s.actor false w.vd.toNat (ts.map fun t => (t, v))

/-! ## Shuffles and broadcast (R107) -/

/-- The types that move as whole units. -/
def LTy.moves (t : LTy) : Bool := t.setA || t.setF

/-- A data movement: `src` gives the source thread of a thread from its operand b. Each pass reads one unit of that
thread. -/
def State.laneMove (s : State) (w : LaneWord) (src : Nat → Nat → Nat → Nat) : Out :=
  s.crossThread w LTy.moves
    (fun ty => ⟨operandBlocks w ty false true false, operandBlocks w ty true false false,
      [⟨w.vd.toNat, (w.cnt.toNat + 1) * ty.regs, ty.regs⟩], maskReads w, none, .alu⟩)
    (fun ty q r _ t => (List.range (w.cnt.toNat + 1)).map fun i =>
      (src q.gw t (q.operandB r w ty i t), [⟨w.va.toNat + i * ty.regs, ty.regs, ty.regs⟩]))
    fun s ty r act =>
      (List.range (w.cnt.toNat + 1)).foldl (fun s i =>
        s.lanePass w act ty.wide (w.vd.toNat + i * ty.regs) fun q t =>
          q.regUnit ty.wide (w.va.toNat + i * ty.regs) (src q.gw t (q.operandB r w ty i t))) s

def execShfl (w : LaneWord) (s : State) : Out := s.laneMove w fun gw _ b => b % gw

def execShflr (w : LaneWord) (s : State) : Out := s.laneMove w fun gw t b => (t + gw / 2 ^ (b % 8)) % gw

def execShflx (w : LaneWord) (s : State) : Out := s.laneMove w fun gw t b => (t ^^^ (b % gw)) % gw

def execBcast (w : LaneWord) (s : State) : Out := s.laneMove w fun gw _ b => b % gw

/-! ## Reductions (R108 to R110, R112) -/

/-- The combining step on a unit. -/
def LaneCtx.comb (cx : LaneCtx) (code x y : Nat) : Nat :=
  cx.ty.each (fun x y _ =>
    match cx.ty.float? with
    | some t =>
      (match code with
       | 0 => cx.write t cx.rnd false ((cx.read t x).add cx.rnd (cx.read t y))
       | 1 => cx.write t .rne false ((cx.read t x).min (cx.read t y))
       | 2 => cx.write t .rne false ((cx.read t x).max (cx.read t y))
       | _ => famax32 (flushF32 cx.flush x) (flushF32 cx.flush y))
    | none =>
      (match code with
       | 0 => x + y
       | 1 => if cx.ty.int y < cx.ty.int x then y else x
       | 2 => if cx.ty.int x < cx.ty.int y then y else x
       | 3 => x &&& y
       | 4 => x ||| y
       | _ => x ^^^ y)) x y 0

/-- A thread's unit as a reduction reads it: subnormals flushed by FMT, and a NaN, which is returned where nothing is
combined with it, canonical (R68, R71). -/
def LaneCtx.input (cx : LaneCtx) (x : Nat) : Nat :=
  match cx.ty.float? with
  | none => x
  | some t => cx.ty.each (fun x _ _ =>
      let y := if t = .f32 then flushF32 cx.flush x else x
      if (t.decode y).isNan then t.canonicalNan else y) x 0 0

/-- The operations that a type accepts (R108), and `rnd` read only by a floating `.add`. -/
def reduceLegal (w : LaneWord) (t : LTy) : Bool :=
  let code := w.imm32.toNat % 16
  let add := t.setF && decide (code = 0)
  (t.setA && decide (code ≤ 5) || t.setF && decide (code ≤ 2) || decide (t = .f32 ∧ code = 6)) && (add || decide (w.rnd = 0))

/-- An absent operand leaves the other (R109). -/
def combOpt (f : Nat → Nat → Nat) : Option Nat → Option Nat → Option Nat
  | some x, some y => some (f x y)
  | some x, none => some x
  | none, y => y

/-- The tree of R109: `n` levels over twice 2^(n − 1) values. -/
def foldTree (f : Nat → Nat → Nat) : Nat → List (Option Nat) → Option Nat
  | 0, xs => xs.headD none
  | n + 1, xs =>
    let h := 2 ^ n
    foldTree f n ((List.range h).map fun t => combOpt f (xs.getD t none) (xs.getD (t + h) none))

/-- The running fold, each value its inclusive prefix (R110). -/
def foldScan (f : Nat → Nat → Nat) : Option Nat → List Nat → List Nat
  | _, [] => []
  | none, x :: r => x :: foldScan f (some x) r
  | some a, x :: r => f a x :: foldScan f (some (f a x)) r

/-- What a reduction uses: source a of every active thread. -/
def reduceUse (w : LaneWord) (keys : List Block) (ty : LTy) : LaneUse :=
  ⟨[], unitA w ty :: keys, [⟨w.vd.toNat, ty.regs, ty.regs⟩], maskReads w, none, .alu⟩

/-- The values of the active threads with their threads. -/
def LaneCtx.inputs (cx : LaneCtx) (q : Party) (w : LaneWord) (act : Word) : List (Nat × Nat) :=
  (threadsOf q.gw act).map fun t => (t, cx.input (q.regUnit cx.ty.wide w.va.toNat t))

/-- R109. -/
def execLstep (w : LaneWord) (s : State) : Out :=
  s.crossThread w (reduceLegal w) (reduceUse w []) (depsActive fun ty => [unitA w ty]) fun s ty _ act =>
    let q := s.me
    let cx := q.laneCtx w ty
    let xs := (List.range q.gw).map fun t =>
      if act.getLsbD t then some (cx.input (q.regUnit ty.wide w.va.toNat t)) else none
    match foldTree (cx.comb (w.imm32.toNat % 16)) (ilog2 q.gw) xs with
    | none => s
    | some v => s.writeUnits s.actor ty.wide w.vd.toNat ((threadsOf q.gw act).map fun t => (t, v))

/-- R110. Thread t depends on the active threads up to t. -/
def execScan (w : LaneWord) (s : State) : Out :=
  s.crossThread w (reduceLegal w) (reduceUse w [])
    (fun ty q _ act t => readAll [unitA w ty] ((threadsOf q.gw act).filter fun u => decide (u ≤ t))) fun s ty _ act =>
    let q := s.me
    let cx := q.laneCtx w ty
    let xs := cx.inputs q w act
    s.writeUnits s.actor ty.wide w.vd.toNat
      ((xs.map (·.1)).zip (foldScan (cx.comb (w.imm32.toNat % 16)) none (xs.map (·.2))))

/-- R111. DESIGN CHOICE, safe (log entry 59): the Z32 destination of an S64 or Z64 match may be an odd register. -/
def execMatchLanes (w : LaneWord) (s : State) : Out :=
  s.crossThread w LTy.setA
    (fun ty => ⟨[], [unitA w ty], [⟨w.vd.toNat, 1, 1⟩], maskReads w, none, .alu⟩) (depsActive fun ty => [unitA w ty])
    fun s ty _ act =>
      let q := s.me
      let v (t : Nat) : Nat := q.regUnit ty.wide w.va.toNat t
      s.writeUnits s.actor false w.vd.toNat ((threadsOf q.gw act).map fun t =>
        (t, (maskOf q.gw fun u => act.getLsbD u && decide (v u = v t)).toNat))

/-- Cuts a list where its keys change. -/
def segments : List (Nat × Nat × Nat) → List (List (Nat × Nat × Nat))
  | [] => []
  | x :: r =>
    match segments r with
    | (y :: g) :: gs => if x.1 = y.1 then (x :: y :: g) :: gs else [x] :: (y :: g) :: gs
    | gs => [x] :: gs

/-- What each thread's result depends on, from the threads of each segment: source a and the keys of its segment, and the
keys beside it that end it (R89, R112). -/
def segmentDeps (w : LaneWord) (ty : LTy) (before : List Nat) : List (List Nat) → Nat → List (Nat × List Block)
  | [], _ => []
  | g :: gs, t =>
    if t ∈ g then
      readAll [unitA w ty, ⟨w.vc.toNat, 1, 1⟩] g ++
        readAll [⟨w.vc.toNat, 1, 1⟩] (before.getLast?.toList ++ (gs.headD []).head?.toList)
    else segmentDeps w ty g gs t

/-- The active threads of a party with their keys, cut into segments. -/
def Party.segmentsOf (q : Party) (w : LaneWord) (act : Word) (v : Nat → Nat) : List (List (Nat × Nat × Nat)) :=
  segments ((threadsOf q.gw act).map fun t => ((q.vreg w.vc.toNat t).toNat, t, v t))

/-- R112. Segments are runs of active threads with equal keys. The key is read as one 32-bit register; whether R85's even
numbering for 64-bit types covers it neither rule says: an odd one is allowed. DESIGN CHOICE (log entry 59); unsafe. -/
def execSegred (w : LaneWord) (s : State) : Out :=
  s.crossThread w (reduceLegal w) (reduceUse w [⟨w.vc.toNat, 1, 1⟩])
    (fun ty q _ act => segmentDeps w ty [] ((q.segmentsOf w act fun _ => 0).map fun g => g.map (·.2.1)))
    fun s ty _ act =>
    let q := s.me
    let cx := q.laneCtx w ty
    let out := (q.segmentsOf w act fun t => cx.input (q.regUnit ty.wide w.va.toNat t)).flatMap fun g =>
      let v := ((foldScan (cx.comb (w.imm32.toNat % 16)) none (g.map (·.2.2))).getLast?).getD 0
      g.map fun x => (x.2.1, v)
    s.writeUnits s.actor ty.wide w.vd.toNat out

end Sys2Proof.Machine
end

