-- ==== Sys2Proof/Machine/LaneMem.lean ====
section
/-!
DEFINITION. Lane memory instructions on global memory, core store and the cluster window, and the lane atomics: classes
0x5 and 0x6 (R198 to R206, R318, R319). Every thread's access is checked at its issue slot; a long-latency one is performed
later.
-/

namespace Sys2Proof.Machine

/-! ## Addresses (R51, R52, R198) -/

/-- Bytes of a size code of R51. -/
def laneBytes (w : LaneWord) : Nat := 2 ^ min w.size.toNat 4

def laneScale (w : LaneWord) : Nat := 2 ^ (w.imm32.toNat / 32 % 4)

/-- The address of a thread: base, scaled index and displacement. -/
def laneAddr (q : Party) (r : Run) (w : LaneWord) (scale t : Nat) : Nat :=
  ofSigned 64 (((r.snap.getD (w.vb.toNat % 16) 0).toNat : Int) + (q.vreg w.va.toNat t).toInt * scale +
    (w.imm32.extractLsb' 16 16).toInt)

/-- The little-endian bytes of a thread's data registers. -/
def laneData (q : Party) (n t bytes : Nat) : List Byte :=
  ((List.range ((bytes + 3) / 4)).flatMap fun i => toLe 4 (q.vreg (n + i) t).toNat).take bytes

/-- Registers of an access of some bytes. -/
def regsOf (bytes : Nat) : Nat := if bytes ≤ 4 then 1 else bytes / 4

/-! ## What a lane memory instruction uses -/

/-- The index register. -/
def indexBlock (w : LaneWord) : Block := ⟨w.va.toNat, 1, 1⟩

/-- A load of `bytes` a thread into `vd`. -/
def loadUse (w : LaneWord) (kind : ProducerKind) : LaneUse :=
  let n := regsOf (laneBytes w)
  ⟨[indexBlock w], [], [⟨w.vd.toNat, n, n⟩], maskReads w, none, kind⟩

/-- A store of `bytes` a thread from `vc`. -/
def storeUse (w : LaneWord) : LaneUse :=
  let n := regsOf (laneBytes w)
  ⟨[indexBlock w, ⟨w.vc.toNat, n, n⟩], [], [], maskReads w, none, .alu⟩

/-- A fault of one thread's access at issue (R199). -/
structure ThreadFault where
  thread : Nat
  cls : FaultClass
  addr : Nat
  addr2 : Nat
  replayable : Bool
deriving DecidableEq, Repr

/-! ## The operation (R18, R19, R20) -/

/-- The flag that an instruction names through its header. -/
def Run.flagOf (r : Run) (w : LaneWord) : Option Nat :=
  match w.cf.toNat with
  | 1 => r.flagA
  | 2 => r.flagB
  | _ => none

/-- The schedule checks of R18, R19 and R53 on the flag field. -/
def Party.flagBad (q : Party) (r : Run) (w : LaneWord) (long : Bool) : Bool :=
  if w.cf = 0 then long
  else
    match r.flagOf w with
    | none => true
    | some f => decide (255 ≤ (q.ops.filter fun o => decide (o.flag = some f)).length)

/-- The operation that a replay takes up again: the group's youngest, which the issue left unfinished. -/
def Party.replayOp (q : Party) (r : Run) : Option LaneOp :=
  (q.ops.filter fun o => decide (o.addr = r.pc ∧ o.unfinished ≠ 0)).getLast?

/-! ## Faults after issue (R200) -/

/-- The first operation of which nothing is left but accesses that have failed. -/
def Party.lateReady (q : Party) : Option LaneOp :=
  q.ops.find? fun o =>
    let ls := q.loads.filter fun l => decide (l.op = o.id)
    let es := q.sq.filter fun e => decide (e.op = some o.id)
    decide (o.unfinished = 0) && !(ls.isEmpty && es.isEmpty) && ls.all LaneAccess.lost && es.all SqEntry.failed

/-- The class of an instruction's access that fails after issue. -/
def Instr.lateClass : Instr → FaultClass
  | .fifopop _ => .cluster
  | .fifopush _ => .cluster
  | .rld _ => .remote
  | .rst _ => .remote
  | .ratom _ => .remote
  | _ => .memoryError

/-- Peer and reason, as `faultaddr2` holds them: 2 where the home cannot be reached, 3 where it has refused (R209, R308). -/
def State.remoteReason (s : State) (peer device : Nat) : Nat :=
  peer % 1024 + (if device ∈ s.deadDevices ∨ device ∈ s.fencedAt then 2 else 3) * 4096

/-- What is left of an operation: threads, address, second address. -/
def State.lateLeft (s : State) (q : Party) (op : Nat) : List (Word × Nat × Nat) :=
  ((q.loads.filter fun l => decide (l.op = op)).map fun l =>
    (maskOf 32 fun t => decide (t = l.thread), l.va,
      match l.reqs.find? fun x => decide (x.answer = some []) with
      | some x => s.remoteReason l.elem x.device
      | none => 0)) ++
  (q.sq.filter fun e => decide (e.op = some op)).map fun e =>
    (e.threads, e.va,
      match e.body with
      | .remoteStore peer d _ _ => s.remoteReason peer d
      | .remoteAtomic peer d _ _ _ _ _ => s.remoteReason peer d
      | _ => 0)

/-- The entry with the lowest thread. -/
def lowestLeft (l : List (Word × Nat × Nat)) : Option (Word × Nat × Nat) :=
  l.foldl (fun b x =>
    match b with
    | none => some x
    | some y => if (x.1 &&& (0 - x.1)) < (y.1 &&& (0 - y.1)) then some x else some y) none

/-- An operation whose remaining accesses have failed: its group parks, and the record names their threads. -/
def State.lateFault (s : State) (p : PartyId) (o : LaneOp) : State :=
  let q := s.party p
  let left := s.lateLeft q o.id
  let (_, a, a2) := (lowestLeft left).getD (0, 0, 0)
  s.fault p (Instr.lateClass o.instr) (.laneLate o.id)
    { addr := dw a, addr2 := dw a2, replayable := false, unfinished := left.foldl (fun m x => m ||| x.1) 0, laneAddr := some (dw o.addr) }

/-- A lane instruction that must wait. Its group parks here where an operation has failed, since nothing else would end
the wait. -/
def State.laneWait (s : State) : Out :=
  match s.me.lateReady with
  | some o => .next (if s.me.mayPark then s.lateFault s.actor o else s)
  | none => .next s

/-- Ends the unfinished part of an operation of the group. An operation that has loaded nothing acquires nothing. -/
def Party.finishOp (q : Party) (op : Nat) : Party :=
  Party.settleOps
    { q with
      ops := updAll (fun o => decide (o.id = op))
        (fun o => { o with unfinished := 0, acquire := o.acquire && q.loads.any fun l => decide (l.op = op) }) q.ops }

/-- What the sweep of a lane memory instruction over its threads answers: it must wait; it fails as a whole, no thread's
access performed, and the faults name the threads (R89); or it is done, but for the threads that the faults name (R199). -/
inductive Swept where
  | wait
  | failed (f : ThreadFault) (fs : List ThreadFault)
  | done (s : State) (fs : List ThreadFault)

/-- The threads that faults name. -/
def faultMask (fs : List ThreadFault) : Word := maskOf 32 fun t => fs.any fun x => decide (x.thread = t)

/-- What goes before the sweep of a lane memory instruction: its checks, what it waits for, and its operation. `long`: it
returns a value by a flag. `waits` answers the state in which it waits, if it does; `k` performs the threads' accesses under
an operation. -/
def State.laneMem (s : State) (i : Instr) (w : LaneWord) (u : LaneUse) (long acq : Bool) (waits : State → Party → Option State)
    (k : State → Run → Nat → List Nat → Swept) : Out :=
  let q := s.me
  match q.run with
  | none => .next s
  | some r =>
    let old := if r.replay.isSome then q.replayOp r else none
    if r.replay = some 0 then
      .next ((match old with
        | some o => s.upd fun q => q.finishOp o.id
        | none => s).laneDone w [])
    else if r.replay.isNone && !u.regsOk q.vcount then .next (s.laneFault .illegal r .laneIssue 0 0 0 false)
    else if r.replay.isNone && u.overlaps then .next (s.laneFault .overlap r .laneIssue 0 0 0 false)
    else if r.replay.isNone && (q.flagBad r w long || u.tagged q.tags || u.gapShort r (decide (q.gw = 16)) false) then
      .next (s.laneFault .schedule r .schedule 0 0 0 false)
    else
      let ts := threadsOf q.gw (q.activeMask r w.mask)
      let bad := s.badThreads q u (fun _ => []) ts
      if bad ≠ 0 then .next (s.laneFault .storeError r .laneIssue 0 0 bad false)
      else if q.ops.any fun o => o.acquire && !decide (some o.id = old.map (·.id)) then s.laneWait
      else
        match waits s q with
        | some s' => s'.laneWait
        | none =>
        let op := match old with
          | some o => o.id
          | none => s.fresh
        let s1 := match old with
          | some _ => s
          | none =>
            ({ s with fresh := s.fresh + 1 } : State).upd fun q =>
              { q with
                ops := q.ops ++ [⟨op, i, r.pc, r.flagOf w, 0, acq && !ts.isEmpty, false, r.queuedAt, none⟩]
                tags := if long then q.tags ++ (u.writes.flatMap fun b =>
                          (List.range b.count).map fun i => (b.first + i, (r.flagOf w).getD 0)) else q.tags }
        match k s1 r op ts with
        | .wait => s.laneWait
        | .failed f fs => .next (s.laneFault f.cls r .laneIssue f.addr f.addr2 (faultMask (f :: fs)) f.replayable)
        | .done s2 [] => .next ((s2.upd fun q => q.finishOp op).laneDone w (if long then [] else u.produces false))
        | .done s2 (f :: fs) =>
          let mask := faultMask (f :: fs)
          .next ((s2.upd fun q =>
            { q with
              ops := updAll (fun o => decide (o.id = op)) (fun o => { o with unfinished := mask }) q.ops
              run := q.run.map fun r => { r with replay := some mask } }).laneFault f.cls r .laneIssue f.addr f.addr2 mask
                f.replayable)

/-! ## Checks of the three spaces (R199) -/

/-- A thread's access that has passed its checks: address and pieces, or its place. -/
structure LaneTarget where
  thread : Nat
  addr : Nat
  pieces : List Piece
  place : Place
deriving DecidableEq, Repr

/-- Checks of a list of threads on global memory, in order. -/
def State.checkGlobal (s : State) (q : Party) (n : Nat) (k : Access) (aligned stores : Bool) (addr : Nat → Nat) :
    List Nat → State × List LaneTarget × List ThreadFault
  | [] => (s, [], [])
  | t :: r =>
    match s.checkAccess q (addr t) n k aligned stores with
    | (s1, .fault c a2 rp) =>
      let (s2, xs, fs) := s1.checkGlobal q n k aligned stores addr r
      (s2, xs, ⟨t, c, addr t, a2, rp⟩ :: fs)
    | (s1, .ok x) =>
      let (s2, xs, fs) := s1.checkGlobal q n k aligned stores addr r
      (s2, ⟨t, addr t, x.pieces, .mem 0⟩ :: xs, fs)

/-- The check of one access to core store (R31, R120, R159). -/
def State.checkStore (s : State) (q : Party) (n a : Nat) (write : Bool) : Except FaultClass Place :=
  if a % n ≠ 0 then .error .alignment
  else if !s.inShare q.id a n then .error .protection
  else if s.lockHit q.core 1 a n write then .error .rangeLock
  else .ok (.store q.core a)

/-- The check of one access to the cluster window (R32). -/
def State.checkWindow (s : State) (q : Party) (n a : Nat) (write : Bool) : Except FaultClass Place :=
  if a % n ≠ 0 then .error .alignment
  else
    match (s.wgOf q.id).bind fun w => s.windowPlace w a n with
    | none => .error .cluster
    | some pl => if s.lockHit q.core 2 a n write then .error .rangeLock else .ok pl

/-- Checks of a list of threads on a storage. -/
def checkPlaces (chk : Nat → Except FaultClass Place) (addr : Nat → Nat) : List Nat → List LaneTarget × List ThreadFault
  | [] => ([], [])
  | t :: r =>
    let (xs, fs) := checkPlaces chk addr r
    match chk (addr t) with
    | .error c => (xs, ⟨t, c, addr t, 0, false⟩ :: fs)
    | .ok pl => (⟨t, addr t, [], pl⟩ :: xs, fs)

/-! ## What an instruction waits for -/

/-- A store or atomic issues only when every earlier load of its group has its value (R148). -/
def waitsForLoads (s : State) (q : Party) : Option State := if q.loads.isEmpty then none else some s

/-- A release that is performed at once also waits for the earlier entries (R150). -/
def waitsForAll (s : State) (q : Party) : Option State := if q.loads.isEmpty && q.sq.isEmpty then none else some s

/-- It also waits for the drains of its scope. -/
def waitsForDrains (scope : Scope) (s : State) (q : Party) : Option State :=
  match waitsForAll s q with
  | some s' => some s'
  | none =>
    let s1 := s.releaseDrains q.core scope true
    if s1.releaseReady q.core scope true then none else some s1

def waitsForNothing (_ : State) (_ : Party) : Option State := none

/-! ## Global loads and stores: LD, ST, RAGLD (R201, R204) -/

def State.addLoads (s : State) (ls : List LaneAccess) : State := s.upd fun q => { q with loads := q.loads ++ ls }

/-- R201 op 0x00. -/
def execLaneLd (w : LaneWord) (s : State) : Out :=
  let acq := decide (w.order = 1)
  s.laneMem (.laneLd w) w (loadUse w .alu) true acq waitsForNothing fun s r op ts =>
    let q := s.me
    let (s1, xs, fs) := s.checkGlobal q (laneBytes w) .read acq false (laneAddr q r w (laneScale w)) ts
    if xs.any fun x => q.atomicPending x.pieces then .wait
    else .done (s1.addLoads (xs.map fun x => ⟨op, x.thread, 0, x.addr, x.pieces, [], none, []⟩)) fs

/-- R201 op 0x01. -/
def execLaneSt (w : LaneWord) (s : State) : Out :=
  let rel := decide (w.order = 2)
  let n := laneBytes w
  s.laneMem (.laneSt w) w (storeUse w) false false waitsForLoads fun s r op ts =>
    let q := s.me
    let (s1, xs, fs) := s.checkGlobal q n .write rel true (laneAddr q r w (laneScale w)) ts
    .done (xs.foldl (fun s x => s.enqueueStore s.actor x.addr (scopeOf w.scope.toNat) rel (some op) (maskOf 32 fun t => decide (t = x.thread))
      (cutBytes x.pieces (laneData q w.vc.toNat x.thread n))) s1) fs

/-- The row length of a thread, at most `cnt` + 1 (R204). -/
def raggedLength (q : Party) (w : LaneWord) (t : Nat) : Nat := min (q.vreg (w.va.toNat + 1) t).toNat (w.cnt.toNat + 1)

/-- Checks of a thread's elements; the first that fails is the thread's fault. -/
def State.checkRow (s : State) (q : Party) (n a t : Nat) : List Nat → State × List (Nat × LaneTarget) × Option ThreadFault
  | [] => (s, [], none)
  | e :: r =>
    let x := (a + e * n) % 2 ^ 64
    match s.checkAccess q x n .read false false with
    | (s1, .fault c a2 rp) => (s1, [], some ⟨t, c, x, a2, rp⟩)
    | (s1, .ok y) =>
      let (s2, xs, f) := s1.checkRow q n a t r
      (s2, (e, ⟨t, x, y.pieces, .mem 0⟩) :: xs, f)

/-- Rows of a list of threads. -/
def State.checkRows (s : State) (q : Party) (w : LaneWord) (addr : Nat → Nat) :
    List Nat → State × List (Nat × LaneTarget) × List ThreadFault
  | [] => (s, [], [])
  | t :: r =>
    let (s1, xs, f) := s.checkRow q (laneBytes w) (addr t) t (List.range (raggedLength q w t))
    let (s2, ys, fs) := s1.checkRows q w addr r
    match f with
    | none => (s2, xs ++ ys, fs)
    | some f => (s2, ys, f :: fs)

/-- R204. Elements beyond a row's length are zero and are not read. -/
def execRagld (w : LaneWord) (s : State) : Out :=
  s.laneMem (.ragld w) w
    ⟨[⟨w.va.toNat, 2, 2⟩], [], [⟨w.vd.toNat, w.cnt.toNat + 1, 1⟩], maskReads w, none, .alu⟩ true false waitsForNothing
    fun s r op ts =>
      let q := s.me
      let (s1, xs, fs) := s.checkRows q w (laneAddr q r w (laneScale w)) ts
      if xs.any fun x => q.atomicPending x.2.pieces then .wait
      else
        let good := ts.filter fun t => !(fs.any fun f => decide (f.thread = t))
        let s2 := good.foldl (fun s t =>
          (List.range (w.cnt.toNat + 1)).foldl (fun s e =>
            if raggedLength q w t ≤ e then s.wrV s.actor (w.vd.toNat + e) t 0 else s) s) s1
        .done (s2.addLoads (xs.map fun x => ⟨op, x.2.thread, x.1, x.2.addr, x.2.pieces, [], none, []⟩)) fs

/-! ## Core store: LDS, STS (R201, R31) -/

/-- Threads whose bytes in core store hold an error: class 0x10, and no thread's destination is written (R89, R302). -/
def State.storeErrors (s : State) (n : Nat) (xs : List LaneTarget) : List ThreadFault :=
  (xs.filter fun x => s.storeBad n x.place).map fun x => ⟨x.thread, .storeError, x.addr, 0, false⟩

/-- R201 op 0x02. -/
def execLds (w : LaneWord) (s : State) : Out :=
  let n := laneBytes w
  s.laneMem (.lds w) w (loadUse w .load) false false waitsForNothing fun s r _ ts =>
    let q := s.me
    let (xs, fs) := checkPlaces (fun a => s.checkStore q n a false) (laneAddr q r w (laneScale w)) ts
    match s.storeErrors n xs with
    | e :: es => .failed e es
    | [] => .done (xs.foldl (fun s x => s.takeLoad s.actor (.lds w) x.thread 0 (s.readPlace n x.place)) s) fs

/-- R201 op 0x03. -/
def execSts (w : LaneWord) (s : State) : Out :=
  let n := laneBytes w
  s.laneMem (.sts w) w (storeUse w) false false (if w.order = 2 then waitsForAll else waitsForLoads) fun s r _ ts =>
    let q := s.me
    let (xs, fs) := checkPlaces (fun a => s.checkStore q n a true) (laneAddr q r w (laneScale w)) ts
    .done (xs.foldl (fun s x => s.writePlace (laneData q w.vc.toNat x.thread n) x.place) s) fs

/-! ## The cluster window: LDCL, STCL (R194, R201) -/

/-- R201 op 0x04. The value is taken at the storage as the access reaches it; an error in a bank's bytes shows when the
data returns (R200). -/
def execLdcl (w : LaneWord) (s : State) : Out :=
  let n := laneBytes w
  s.laneMem (.ldcl w) w (loadUse w .alu) true (decide (w.order = 1)) waitsForNothing fun s r op ts =>
    let q := s.me
    let (xs, fs) := checkPlaces (fun a => s.checkWindow q n a false) (laneAddr q r w (laneScale w)) ts
    match (s.storeErrors n xs).filter fun f => xs.any fun x => decide (x.thread = f.thread ∧ x.place.errClass = .storeError) with
    | e :: es => .failed e es
    | [] => .done (s.addLoads (xs.map fun x =>
        ⟨op, x.thread, 0, x.addr, [], [], some (if s.storeBad n x.place then [] else s.readPlace n x.place), []⟩)) fs

/-- R201 op 0x05. A release takes its steps first. -/
def execStcl (w : LaneWord) (s : State) : Out :=
  let n := laneBytes w
  let rel := decide (w.order = 2)
  let scope := scopeOf w.scope.toNat
  s.laneMem (.stcl w) w (storeUse w) false false (if rel then waitsForDrains scope else waitsForLoads) fun s r _ ts =>
    let q := s.me
    let (xs, fs) := checkPlaces (fun a => s.checkWindow q n a true) (laneAddr q r w (laneScale w)) ts
    let s1 := if rel && !xs.isEmpty then (s.releaseDrains q.core scope true).bumpFor q.core scope else s
    .done (xs.foldl (fun s x => s.writePlace (laneData q w.vc.toNat x.thread n) x.place) s1) fs

/-! ## FIFO banks (R202, R203) -/

/-- The bank that an offset names, if it is one that the instruction may reach with its size. -/
def State.fifoBank (s : State) (q : Party) (off n : Nat) : Except FaultClass (Nat × Nat) :=
  if off % n ≠ 0 then .error .alignment
  else
    match s.wgOf q.id with
    | none => .error .cluster
    | some w =>
      let cl := clusterOfCore w.core
      let b := (off - Config.bankBase) / Config.bankBytes
      let k := s.bank cl b
      if off < Config.bankBase ∨ Config.windowBytes ≤ off ∨ off % Config.bankBytes ≠ 0 ∨ k.mode ≠ .fifo ∨ k.owner ≠ w.part ∨
          k.entrySize ≠ n then .error .cluster
      else .ok (cl, b)

/-- A pop of each thread in ascending order: an entry, nothing, or a wait. -/
def State.popEach (s : State) (cl b op off : Nat) (wait : Bool) : List Nat → State
  | [] => s
  | t :: r =>
    match (s.bank cl b).entries with
    | e :: es =>
      ((s.updBank cl b fun k => { k with entries := es }).addLoads [⟨op, t, 0, off, [], [], some e, []⟩]).popEach cl b op off wait r
    | [] => (s.addLoads [⟨op, t, if wait then 0 else 1, off, [], [], if wait then none else some [0], []⟩]).popEach cl b op off wait r

/-- R203. -/
def execFifopop (w : LaneWord) (s : State) : Out :=
  let n := laneBytes w
  let m := regsOf n
  s.laneMem (.fifopop w) w ⟨[], [], [⟨w.vd.toNat, m, m⟩, ⟨w.vc.toNat, 1, 1⟩], maskReads w, none, .alu⟩ true false waitsForNothing
    fun s r op ts =>
      let q := s.me
      let off := (r.snap.getD (w.vb.toNat % 16) 0).toNat
      match s.fifoBank q off n with
      | .error c => .done s (ts.map fun t => ⟨t, c, off, 0, false⟩)
      | .ok (cl, b) => .done (s.popEach cl b op off (w.imm32.getLsbD 12) ts) []

/-- R203. A push waits in the bank's arbiter while the bank is full, whatever Wait holds. -/
def execFifopush (w : LaneWord) (s : State) : Out :=
  let n := laneBytes w
  let m := regsOf n
  s.laneMem (.fifopush w) w ⟨[⟨w.vc.toNat, m, m⟩], [], [], maskReads w, none, .alu⟩ false false waitsForLoads
    fun s r op ts =>
      let q := s.me
      let off := (r.snap.getD (w.vb.toNat % 16) 0).toNat
      match s.fifoBank q off n with
      | .error c => .done s (ts.map fun t => ⟨t, c, off, 0, false⟩)
      | .ok (cl, b) => .done (ts.foldl (fun s t =>
          s.enqueue s.actor ⟨0, off, .cluster, false, false, .fifoPush cl b (laneData q w.vc.toNat t n), some op,
            maskOf 32 fun u => decide (u = t), none, false, false, 0, false⟩) s) []

/-! ## Lane atomics (R205, R206) -/

/-- The operation of a code of R52. -/
def laneAtomFn (code : Nat) : AtomFn :=
  match code with
  | 0 => .add | 1 => .add | 2 => .fadd | 3 => .bf16x2 | 4 => .f16x2 | 5 => .min | 6 => .max | 7 => .minu | 8 => .maxu
  | 9 => .and | 10 => .or | 11 => .xor | 12 => .xchg | 13 => .cas | 14 => .famax | _ => .xchg

/-- Operand width of an operation code of R52. -/
def wideCode (op : Nat) : Bool := decide (op = 1) || decide (op = 15)

/-- What an atomic uses: index, operand and, for CAS32, the compare value. -/
def atomUse (w : LaneWord) (kind : ProducerKind) : LaneUse :=
  let n := if w.atom64 then 2 else 1
  let d : Block := ⟨w.vd.toNat, n, n⟩
  ⟨[indexBlock w, d] ++ (if w.atomCas then [⟨w.vc.toNat, 1, 1⟩] else []), [], if w.ret then [d] else [], maskReads w, none, kind⟩

/-- Operand and compare value of a thread. -/
def atomOperand (q : Party) (w : LaneWord) (t : Nat) : Nat := q.regUnit w.atom64 w.vd.toNat t
def atomCompare (q : Party) (w : LaneWord) (t : Nat) : Nat := if w.atomCas then (q.vreg w.vc.toNat t).toNat else 0

def atomBytes (w : LaneWord) : Nat := atomSize w.atom64

/-- R205 op 0x00: one entry for each thread, in ascending order. -/
def execAtom (w : LaneWord) (s : State) : Out :=
  let n := atomBytes w
  s.laneMem (.atom w) w (atomUse w .alu) true false waitsForLoads fun s r op ts =>
    let q := s.me
    let (s1, xs, fs) := s.checkGlobal q n .write true true (laneAddr q r w n) ts
    .done (xs.foldl (fun s x =>
      match x.pieces with
      | [p] => s.enqueue s.actor ⟨0, x.addr, scopeOf w.scope.toNat, false, false,
          .atomic p (laneAtomFn w.atomOp.toNat) (dw (atomOperand q w x.thread)) (dw (atomCompare q w x.thread))
            (.vreg x.thread w.vd.toNat w.atom64), some op, maskOf 32 fun t => decide (t = x.thread), none, false, false, 0, false⟩
      | _ => s) s1) fs

/-- The F32 sum of addends, each step rounded (R206). -/
def mergeF32 : List Nat → Nat
  | [] => 0
  | x :: r => r.foldl rne32Add x

/-- The merged operand of the adding operations, and the operation that applies it (R206). -/
def mergeOperands (code : Nat) (xs : List Nat) : AtomFn × Nat :=
  let up (t : FType) (x : Nat) : Nat := FType.f32.encode .rne false (t.decode x)
  let halves (t : FType) : Nat :=
    mergeF32 (xs.map fun x => up t (x % 65536)) + 2 ^ 32 * mergeF32 (xs.map fun x => up t (x / 65536 % 65536))
  match code with
  | 2 => (.fadd, mergeF32 xs)
  | 3 => (.mergeBf16, halves .bf16)
  | 4 => (.mergeF16, halves .f16)
  | 1 => (.add, xs.sum % 2 ^ 64)
  | _ => (.add, xs.sum % 2 ^ 32)

/-- Threads gathered by the word that they name, in order of the first. -/
def byWord (xs : List LaneTarget) : List (LaneTarget × List Nat) :=
  xs.foldl (fun g x =>
    if g.any fun y => decide (y.1.addr = x.addr) then g.map fun y => if y.1.addr = x.addr then (y.1, y.2 ++ [x.thread]) else y
    else g ++ [(x, [x.thread])]) []

/-- R205 op 0x01, R206: threads of an adding operation that name one word are merged. -/
def execAtomr (w : LaneWord) (s : State) : Out :=
  let n := atomBytes w
  let code := w.atomOp.toNat
  s.laneMem (.atomr w) w (atomUse w .alu) false false waitsForLoads fun s r op ts =>
    let q := s.me
    let (s1, xs, fs) := s.checkGlobal q n .write true true (laneAddr q r w n) ts
    let put (s : State) (x : LaneTarget) (fn : AtomFn) (v c : Nat) (who : List Nat) : State :=
      match x.pieces with
      | [p] => s.enqueue s.actor ⟨0, x.addr, scopeOf w.scope.toNat, false, false, .atomic p fn (dw v) (dw c) .none, some op,
          maskOf 32 fun t => decide (t ∈ who), none, false, false, 0, false⟩
      | _ => s
    if code ≤ 4 then
      .done ((byWord xs).foldl (fun s g =>
        let (fn, v) := mergeOperands code (g.2.map fun t => atomOperand q w t)
        put s g.1 fn v 0 g.2) s1) fs
    else
      .done (xs.foldl (fun s x => put s x (laneAtomFn code) (atomOperand q w x.thread) (atomCompare q w x.thread) [x.thread]) s1) fs

/-- R205 op 0x02: at the storage, thread by thread. -/
def execAtoms (w : LaneWord) (s : State) : Out :=
  let n := atomBytes w
  s.laneMem (.atoms w) w (atomUse w (if w.ret then .load else .alu)) false false waitsForLoads fun s r _ ts =>
    let q := s.me
    let (xs, fs) := checkPlaces (fun a => s.checkStore q n a true) (laneAddr q r w n) ts
    match s.storeErrors n xs with
    | e :: es => .failed e es
    | [] => .done (xs.foldl (fun s x =>
        let old := le (s.readPlace n x.place)
        let new := atomNew (laneAtomFn w.atomOp.toNat) (8 * n) old (atomOperand q w x.thread) (atomCompare q w x.thread)
        let s1 := s.writePlace (toLe n new) x.place
        if w.ret then s1.writeUnits s1.actor w.atom64 w.vd.toNat [(x.thread, old)] else s1) s) fs

end Sys2Proof.Machine
end

