-- ==== Sys2Proof/Machine/Remote.lean ====
section
/-!
DEFINITION. Remote accesses: the peer table (R207) and RLD, RST, RATOM of class 0x7 (R156, R158, R208, R209).
-/

namespace Sys2Proof.Machine

/-! ## The peer table (R207) -/

def State.peerEntry (s : State) (part n : Nat) : Option Peer :=
  s.peers.find? fun x => decide (x.part = part ∧ x.number = n ∧ x.kind ≠ 0)

/-- The members of the window of a peer number; none: reason 1. -/
def State.peerWindow (s : State) (part n : Nat) : Option (List Peer) :=
  match s.peerEntry part n with
  | none => none
  | some e =>
    if e.kind = 1 then some [e]
    else
      let later := (List.range (e.k - 1)).filterMap fun i => s.peerEntry part (n + 1 + i)
      if later.length = e.k - 1 ∧ (later.all fun m => decide (m.kind = 1 ∧ m.length = e.length)) then some (e :: later) else none

/-- A piece of a remote access, within one line of the home device. -/
structure RemotePiece where
  device : Nat
  addr : Nat
  len : Nat
deriving DecidableEq, Repr

/-- The pieces of one stripe's part of an access. -/
def stripePieces (ms : List Peer) (off n : Nat) : List RemotePiece :=
  let k := ms.length
  match ms[off / 65536 % k]? with
  | none => []
  | some m =>
    (cutAt 128 4 ((m.base + off / 65536 / k * 65536 + off % 65536) % 2 ^ 64) n).map fun c => ⟨m.device, c.1, c.2⟩

/-- An access of `n` bytes at a window offset, or the reason of its fault (R209). -/
def State.remoteAccess (s : State) (part peer off n : Nat) : Except Nat (List RemotePiece) :=
  if 1024 ≤ peer then .error 1
  else
    match s.peerWindow part peer with
    | none => .error 1
    | some ms =>
      if ms.length * ((ms.head?.map (·.length)).getD 0) < off + n then .error 1
      else
        let ps := (cutAt 65536 3 off n).flatMap fun c => stripePieces ms c.1 c.2
        if s.route.isNone || ps.any fun p => decide (p.device ∈ s.deadDevices) || decide (p.device ∈ s.fencedAt) then .error 2
        else .ok ps

/-! ## Threads in the order of their peers (R158, R209) -/

/-- Puts a thread before the first one of a higher peer. -/
def putByPeer (f : Nat → Nat) (t : Nat) : List Nat → List Nat
  | [] => [t]
  | u :: r => if f u ≤ f t then u :: putByPeer f t r else t :: u :: r

/-- The threads by ascending peer, and ascending for one peer. -/
def byPeer (f : Nat → Nat) (ts : List Nat) : List Nat := ts.foldl (fun l t => putByPeer f t l) []

/-- A thread's access that has passed its checks. -/
structure RemoteTarget where
  thread : Nat
  peer : Nat
  off : Nat
  pieces : List RemotePiece
deriving DecidableEq, Repr

/-- Checks the threads of a remote instruction: alignment where it must be aligned, then R209. -/
def State.checkRemote (s : State) (q : Party) (n : Nat) (aligned : Bool) (addr peer : Nat → Nat) :
    List Nat → List RemoteTarget × List ThreadFault
  | [] => ([], [])
  | t :: r =>
    let (xs, fs) := s.checkRemote q n aligned addr peer r
    if aligned ∧ addr t % n ≠ 0 then (xs, ⟨t, .alignment, addr t, 0, false⟩ :: fs)
    else
      match s.remoteAccess ((s.partOf q).getD 0) (peer t) (addr t) n with
      | .error k => (xs, ⟨t, .remote, addr t, peer t % 1024 + k * 4096, false⟩ :: fs)
      | .ok ps => (⟨t, peer t, addr t, ps⟩ :: xs, fs)

/-- The lowest faulting thread is the one that the record describes, whatever the order of issue (R199). -/
def byThread (fs : List ThreadFault) : List ThreadFault :=
  fs.foldl (fun l f =>
    match l with
    | g :: r => if f.thread < g.thread then f :: g :: r else g :: (r ++ [f])
    | [] => [f]) []

/-! ## Requests -/

/-- A remote entry of the group names a byte of a piece; `unsent`: one that has not left. -/
def Party.remoteMeets (q : Party) (unsent : Bool) (p : RemotePiece) : Bool :=
  q.sq.any fun e =>
    (!unsent || e.req.isNone) &&
      match e.body with
      | .remoteStore _ d a _ => decide (d = p.device) && decide (a / 128 = p.addr / 128)
      | .remoteAtomic _ d a _ _ _ _ => decide (d = p.device) && decide (a / 128 = p.addr / 128)
      | _ => false

/-- Asks for a piece of a remote load: at DEVICE the whole line, from this module's S copy where the schedule chooses one
that it holds; at FABRIC, or where it acquires, the bytes alone at the home slice (`direct`; R156, R208, R317). -/
def State.askPiece (s : State) (q : Party) (direct : Bool) (p : RemotePiece) : State × RemoteReq :=
  let line := p.addr / 128
  let held := if direct || !s.choice.stale || q.remoteMeets false p then none
    else s.remoteCopies.find? fun c => decide (c.device = p.device ∧ c.line = line)
  match held with
  | some c => (s, ⟨p.device, 0, none, p.addr % 128, p.len, some c.bytes⟩)
  | none =>
    let n := s.nextSeq p.device
    if direct then (s.send p.device (.load p.addr p.len false), ⟨p.device, n, none, 0, p.len, none⟩)
    else (s.send p.device (.load (line * 128) 128 true), ⟨p.device, n, some line, p.addr % 128, p.len, none⟩)

def State.askPieces (s : State) (q : Party) (direct : Bool) : List RemotePiece → State × List RemoteReq
  | [] => (s, [])
  | p :: r =>
    let (s1, x) := s.askPiece q direct p
    let (s2, xs) := s1.askPieces q direct r
    (s2, x :: xs)

/-- Cuts a list of bytes as its pieces lie. -/
def cutRemote : List RemotePiece → List Byte → List (RemotePiece × List Byte)
  | [], _ => []
  | p :: r, bs => (p, bs.take p.len) :: cutRemote r (bs.drop p.len)

/-- The loads of the threads are sent. -/
def State.askAll (s : State) (q : Party) (op : Nat) (direct : Bool) (xs : List RemoteTarget) : State :=
  xs.foldl (fun s x =>
    let (s1, rs) := s.askPieces q direct x.pieces
    s1.addLoads [⟨op, x.thread, x.peer, x.off, [], [], none, rs⟩]) s

/-! ## RLD, RST, RATOM (R208) -/

/-- R208. -/
def execRld (w : LaneWord) (s : State) : Out :=
  let acq := decide (w.order = 1)
  let n := laneBytes w
  let m := regsOf n
  s.laneMem (.rld w) w ⟨[indexBlock w, ⟨w.vc.toNat, 1, 1⟩], [], [⟨w.vd.toNat, m, m⟩], maskReads w, none, .alu⟩ true acq waitsForNothing
    fun s r op ts =>
      let q := s.me
      let peer := fun t => (q.vreg w.vc.toNat t).toNat
      let (xs, fs) := s.checkRemote q n acq (laneAddr q r w (laneScale w)) peer (byPeer peer ts)
      if xs.any fun x => x.pieces.any (q.remoteMeets true) then .wait
      else .done (s.askAll q op (acq || decide (w.scope = 4)) xs) (byThread fs)

/-- R208. -/
def execRst (w : LaneWord) (s : State) : Out :=
  let rel := decide (w.order = 2)
  let n := laneBytes w
  let m := regsOf n
  s.laneMem (.rst w) w ⟨[⟨w.va.toNat, 2, 2⟩, ⟨w.vc.toNat, m, m⟩], [], [], maskReads w, none, .alu⟩ false false waitsForLoads
    fun s r op ts =>
      let q := s.me
      let peer := fun t => (q.vreg (w.va.toNat + 1) t).toNat
      let (xs, fs) := s.checkRemote q n rel (laneAddr q r w (laneScale w)) peer (byPeer peer ts)
      .done (xs.foldl (fun s x =>
        ((cutRemote x.pieces (laneData q w.vc.toNat x.thread n)).foldl (fun s c =>
          s.enqueue s.actor ⟨0, x.off, scopeOf w.scope.toNat, rel, false, .remoteStore x.peer c.1.device c.1.addr c.2, some op,
            maskOf 32 fun t => decide (t = x.thread), none, false, false, 0, false⟩) s)) s) (byThread fs)

/-- R208. -/
def execRatom (w : LaneWord) (s : State) : Out :=
  let n := atomBytes w
  let u := atomUse w .alu
  let own := if w.atomCas then ⟨w.va.toNat, 2, 2⟩ :: u.own.drop 1 else ⟨w.vc.toNat, 1, 1⟩ :: u.own
  s.laneMem (.ratom w) w { u with own := own } w.ret false waitsForLoads
    fun s r op ts =>
      let q := s.me
      let peer := fun t => (q.vreg (if w.atomCas then w.va.toNat + 1 else w.vc.toNat) t).toNat
      let (xs, fs) := s.checkRemote q n true (laneAddr q r w n) peer (byPeer peer ts)
      .done (xs.foldl (fun s x =>
        match x.pieces with
        | [] => s
        | p :: _ => s.enqueue s.actor ⟨0, x.off, scopeOf w.scope.toNat, false, false,
            .remoteAtomic x.peer p.device p.addr w.atomOp.toNat (dw (atomOperand q w x.thread)) (dw (atomCompare q w x.thread))
              (if w.ret then .vreg x.thread w.vd.toNat w.atom64 else .none), some op,
            maskOf 32 fun t => decide (t = x.thread), none, false, false, 0, false⟩) s) (byThread fs)

end Sys2Proof.Machine
end

