-- ==== Sys2Proof/Machine/LaneEvents.lean ====
section
/-!
DEFINITION. The steps that lane runs and store queues take between instructions: RUN_START (R12, R13, R47, R53),
LONG_LATENCY_COMPLETION (R19, R199, R200), FIFO_WAIT_END (R203), STORE_PERFORM (R148 to R150).
-/

namespace Sys2Proof.Machine

/-! ## RUN_START -/

/-- A run may follow: none of the group's is executing, nothing of it has failed or is to be issued again, no unpick
or patch waits (R12, R165, R200, R284, R300). -/
def State.runReady (s : State) (q : Party) : Bool :=
  q.run.isNone && !q.queue.isEmpty && decide (q.status = .running) && s.onCore q && q.unpicks.isEmpty && !s.patched q &&
    !(q.loads.any fun l => l.lost || (l.stale && !q.waitingPop l)) && !(q.sq.any SqEntry.failed)

/-- The wait mask of a group's head run, as its header gives it; a header that cannot be read holds no flag. -/
def State.headWait (s : State) (q : Party) : Nat :=
  match q.queue with
  | [] => 0
  | e :: _ =>
    match (s.laneWords q e.addr 3).2 with
    | .error _ => 0
    | .ok ws =>
      match decodeHeader (join96 ws) with
      | .error _ => 0
      | .ok h => h.wait.toNat

/-- A group asks its lane's arbiter for a run: its head run may start, or one that has stopped at a fault goes on (R12). -/
def State.wantsLane (s : State) (x : Party) : Bool :=
  (s.runReady x && x.flagsClear (s.headWait x)) || (x.paused && x.runGoes && s.mayFinish x)

/-- The lane's arbiter chooses the group (R12, R13): no run of its lane is executing, that of a stopping workgroup or of a
group parked for another unit included, and no other group that asks for the lane has a higher issue priority or has waited longer
at the same. -/
def State.laneFree (s : State) (q : Party) : Bool :=
  let others := s.parties.filter fun x => decide (x.id ≠ q.id ∧ x.core = q.core ∧ x.lane = q.lane) && !x.id.isSteward
  !(others.any fun x => x.runGoes && !x.paused && !s.swappedOut x.id) &&
    others.all fun x =>
      !s.wantsLane x ||
        decide (s.issuePriority x < s.issuePriority q) ||
        (decide (s.issuePriority x = s.issuePriority q) && decide (q.lastRunEnd ≤ x.lastRunEnd))

/-- A run goes on with its next instruction: one that has stopped at a fault has its lane again first, since the lane arbitrates
only between runs and may have taken another meanwhile (R12, R13). -/
def State.laneTurn (s : State) (q : Party) : Bool := q.runGoes && s.mayFinish q && (!q.paused || s.laneFree q)

/-- R12. `args.p` is the group whose head run starts: its header is fetched and decoded (R47, R53), the tags of the flags
it waits for are removed (R20), and its issue priority falls back (R222). -/
def execRunStart (s : State) : Out :=
  let q := s.party s.args.p
  .next (match q.queue with
  | [] => s
  | e :: rest =>
    if !s.runReady q || s.holds .lanes q.core then s
    else
      match s.laneWords q e.addr 3 with
      | (s1, .error (f, bad)) => if s.laneFree q && !q.midway then s1.laneFetchFault q.id f .header e.addr bad else s
      | (s1, .ok ws) =>
        match decodeHeader (join96 ws) with
        | .error _ =>
          if s.laneFree q && !q.midway then
            s1.fault q.id .illegal .header
              { addr := 0, addr2 := 0, replayable := false, unfinished := 0, laneAddr := some (dw e.addr) }
          else s
        | .ok h =>
          if !q.flagsClear h.wait.toNat || !s.laneFree q then s
          else
            let flag (f : BitVec 4) : Option Nat := if f = 15 then none else some f.toNat
            s1.updParty q.id fun q =>
              { q with
                queue := rest
                run := some ⟨e.addr, (e.addr + 12) % 2 ^ 64, h.length, e.snap, flag h.flagA, flag h.flagB, h.checkpoint, [], none, e.queuedAt⟩
                tags := q.tags.filter fun t => !h.wait.toNat.testBit t.2
                paused := false
                readySince := none
                aged := 0 })

/-- R222. `args.p` is the group: its head run is ready and has waited 20 microseconds more. The wait counts from the moment at
which the run is seen to be ready; while it is not, none passes. -/
def execIssuePriorityAging (s : State) : Out :=
  let q := s.party s.args.p
  let ready := s.runReady q && q.flagsClear (s.headWait q)
  .next (s.updParty q.id fun q =>
    match q.readySince with
    | none => if ready then { q with readySince := some s.clk } else q
    | some t =>
      if !ready then { q with readySince := none }
      else if t + Config.us20 * (q.aged + 1) ≤ s.clk ∧ q.aged < 7 then { q with aged := q.aged + 1 }
      else q)

/-! ## LONG_LATENCY_COMPLETION -/

/-- Scope and order of an operation's instruction. -/
def LaneOp.word (o : LaneOp) : Option LaneWord := Instr.loadWord o.instr

def LaneOp.scope (o : LaneOp) : Scope := ((o.word).map fun w => scopeOf w.scope.toNat).getD .group

/-- Changes the loads of a party that meet a condition. -/
def State.updLoads (s : State) (p : PartyId) (c : LaneAccess → Bool) (f : LaneAccess → LaneAccess) : State :=
  s.updParty p fun q => { q with loads := updAll c f q.loads }

/-- The load of an operation, a thread and an element. -/
def loadIs (op thread elem : Nat) (l : LaneAccess) : Bool := decide (l.op = op ∧ l.thread = thread ∧ l.elem = elem)

/-- A load that must be issued again is translated again; a check that it fails parks its group (R199, R300). -/
def State.issueAgain (s : State) (q : Party) (o : LaneOp) (l : LaneAccess) : State :=
  let me := loadIs l.op l.thread l.elem
  let bad (s : State) (c : FaultClass) (a2 : Nat) (rp : Bool) : State :=
    (s.updLoads q.id me fun l => { l with got := some [] }).fault q.id c (.laneLate o.id)
      { addr := dw l.va, addr2 := dw a2, replayable := rp, unfinished := maskOf 32 fun t => decide (t = l.thread),
        laneAddr := some (dw o.addr) }
  match o.instr, o.word with
  | .ldcl _, some w =>
    (match s.checkWindow q (laneBytes w) l.va false with
     | .error c => bad s c 0 false
     | .ok pl => s.updLoads q.id me fun l =>
         { l with got := some (if s.storeBad (laneBytes w) pl then [] else s.readPlace (laneBytes w) pl) })
  | .rld _, some w =>
    (match s.remoteAccess ((s.partOf q).getD 0) l.elem l.va (laneBytes w) with
     | .error k => bad s .remote (l.elem % 1024 + k * 4096) false
     | .ok ps =>
       let (s1, rs) := s.askPieces q (o.acquire || decide (w.scope = 4)) ps
       s1.updLoads q.id me fun l => { l with reqs := rs })
  | _, some w =>
    (match s.checkAccess q l.va (laneBytes w) .read (decide (w.order = 1)) false with
     | (s1, .fault c a2 rp) => bad s1 c a2 rp
     | (s1, .ok x) => s1.updLoads q.id me fun l => { l with pieces := x.pieces })
  | _, none => s

/-- Local loads of a group are performed in program order (R144, R145). -/
def Party.loadTurn (q : Party) (l : LaneAccess) : Bool :=
  (q.loads.takeWhile fun x => !loadIs l.op l.thread l.elem x).all fun x => x.got.isSome || x.pieces.isEmpty

/-- The value of a load that has arrived is taken: its registers, its part of the operation, and what a later fence
acquires for (R152). -/
def State.takeOne (s : State) (p : PartyId) (o : LaneOp) (l : LaneAccess) (bs : List Byte) : State :=
  (s.takeLoad p o.instr l.thread l.elem bs).updParty p fun q => Party.settleOps
    { q with
      loads := q.loads.filter fun x => !loadIs l.op l.thread l.elem x
      loaded := (lineVas l.va l.pieces).foldl (fun k x => addNew x k) q.loaded }

/-- A lane acquire whose threads all have their values begins its steps, once (R152, R198); a thread whose load has failed is to be
replayed and acquires then (R200). A drain that cannot be confirmed fails every thread's load (R153). -/
def State.laneAcquire (s : State) (p : PartyId) (o : LaneOp) : State :=
  let q := s.party p
  let ls := q.loads.filter fun l => decide (l.op = o.id) && !l.lost
  if !o.acquire || decide (o.unfinished ≠ 0) || ls.isEmpty || !(ls.all fun l => l.got.isSome) ||
      q.acqs.any (fun a => decide (a.fin = .lane o.id ∨ a.fin = .deadLane o.id)) then s
  else
    let lines := ls.flatMap fun l => lineVas l.va l.pieces
    let fin : AcquireEnd := if (s.deadDrain p o.scope lines).isSome then .deadLane o.id else .lane o.id
    ((s.updParty p fun q => { q with loaded := lines.foldl (fun k x => addNew x k) q.loaded }).beginAcquire p o.scope lines
      fin).settleAcquires p

/-- The bytes of a remote load whose answers are all in; none of them where one was refused. -/
def answered (rs : List RemoteReq) : Option (List Byte) :=
  if rs.isEmpty || !(rs.all fun r => r.answer.isSome) then none
  else if rs.any fun r => decide (r.answer = some []) then some []
  else some (rs.flatMap fun r => ((r.answer.getD []).drop r.off).take r.len)

/-- What the next step of a load is. -/
def State.advanceLoad (s : State) (q : Party) (o : LaneOp) (l : LaneAccess) : State :=
  let me := loadIs l.op l.thread l.elem
  let scope := o.scope
  match l.got with
  | some [] =>
    -- a failed one parks its group before the next run starts (R200)
    if q.run.isNone && q.mayPark then
      (match q.lateReady with
       | some x => s.lateFault q.id x
       | none => s)
    else s
  | some bs => if o.acquire then s.laneAcquire q.id o else s.takeOne q.id o l bs
  | none =>
    if l.stale then (if q.waitingPop l || !q.mayPark || !s.onCore q then s else s.issueAgain q o l)
    else if l.pieces.isEmpty then
      (match answered l.reqs with
       | none => s
       | some bs => s.updLoads q.id me fun l => { l with got := some bs })
    else
      match nextPiece l.pieces l.part.length with
      | none => s
      | some p =>
        if !q.loadTurn l || s.loadHolds q.core (s.partOf q) scope o.acquire p then s
        else
          let (s1, b, bad) := s.loadPiece q (s.partOf q) scope o.acquire (some o.id) p
          let bs := l.part ++ b
          s1.updLoads q.id me fun l =>
            { l with
              part := bs
              got := if bad then some [] else if (nextPiece l.pieces bs.length).isNone then some bs else none }

/-- R19. `args.p` is the group, `args.x` the operation, `args.y` the thread and `args.z` the element or peer of the load
that goes on: it is performed, or its value is taken. With no such load the operation has failed entries alone. -/
def execLongLatencyCompletion (s : State) : Out :=
  let q := s.party s.args.p
  .next (match q.ops.find? fun o => decide (o.id = s.args.x) with
  | none => s
  | some o =>
    match q.loads.find? (loadIs s.args.x s.args.y s.args.z) with
    | some l => s.advanceLoad q o l
    | none =>
      if q.run.isNone && q.mayPark then
        (match q.lateReady with
         | some x => s.lateFault q.id x
         | none => s)
      else s)

/-! ## FIFO_WAIT_END -/

/-- R203. `args.p` is the group, `args.x` the operation and `args.y` the thread whose pop waits: it takes the oldest
entry, and fails where the bank is no longer one that the instruction may reach (R202, R279). Lower threads of the operation
take theirs first. -/
def execFifoWaitEnd (s : State) : Out :=
  let q := s.party s.args.p
  let me := loadIs s.args.x s.args.y 0
  .next (match q.loads.find? me, (q.ops.find? fun o => decide (o.id = s.args.x)).bind LaneOp.word with
  | some l, some w =>
    let before := (q.loads.takeWhile fun x => !me x).any fun x => q.waitingPop x && decide (x.op = l.op)
    if !q.waitingPop l || before || !s.onCore q || s.holds .sram q.core then s
    else
      match s.fifoBank q l.va (laneBytes w) with
      | .error _ => s.updLoads q.id me fun l => { l with got := some [] }
      | .ok (cl, b) =>
        match (s.bank cl b).entries with
        | [] => s
        | e :: es =>
          (s.updBank cl b fun k => { k with entries := es }).updLoads q.id me fun l => { l with got := some e }
  | _, _ => s)

/-! ## STORE_PERFORM -/

/-- The bytes of a remote entry in the home device's memory. -/
def SqBody.far : SqBody → Option (Nat × Nat × Nat)
  | .remoteStore _ d x bs => some (d, x, bs.length)
  | .remoteAtomic _ d x op _ _ _ => some (d, x, atomSize (wideCode op))
  | _ => none

/-- Two entries name a common byte, or the same bank (R148, R203). -/
def SqEntry.meetsEntry (a b : SqEntry) : Bool :=
  let span (e : SqEntry) : Option (Nat × Nat) :=
    match e.body with
    | .store p _ => some (p.pa, p.len)
    | .atomic p _ _ _ _ => some (p.pa, p.len)
    | _ => none
  let bank (e : SqEntry) : Option (Nat × Nat) :=
    match e.body with
    | .fifoPush c k _ => some (c, k)
    | _ => none
  (match span a, span b with
   | some (x, n), some (y, m) => meets x n y m
   | _, _ => false) ||
  (match a.body.far, b.body.far with
   | some (d, x, n), some (d', y, m) => decide (d = d') && meets x n y m
   | _, _ => false) || (decide (bank a = bank b) && (bank a).isSome)

/-- An entry stands in program order before another (R145): both of scalar instructions or both of lane runs; a lane
entry whose run the scalar stream has waited for, and a scalar one; a scalar entry older than the LRUN that queued the run, and
a lane one. -/
def Party.before (q : Party) (a b : SqEntry) : Bool :=
  decide (a.id < b.id) &&
    match a.op, b.op with
    | none, some y => decide (a.id < q.queuedAt y)
    | some x, none => q.behind (some x)
    | _, _ => true

/-- Two entries of one lane instruction. -/
def SqEntry.sameOp (a b : SqEntry) : Bool := a.op.isSome && decide (a.op = b.op)

/-- A release or fence orders the first entry, which stands before the second in program order, before it (R148, R150): the
second releases, or a release stands between them, or the first is a fence, whose drains go before every later store. Threads'
stores of one release are not ordered by it (R198). -/
def Party.ordered (q : Party) (f e : SqEntry) : Bool :=
  !f.sameOp e && (e.release || decide (f.body = .fence) ||
    q.sq.any fun g => g.release && !g.failed && q.before f g && q.before g e && !f.sameOp g && !g.sameOp e)

/-- An entry may leave the queue (R148, R150). A failed one waits for the fault service and orders no other. -/
def Party.mayLeave (q : Party) (e : SqEntry) : Bool :=
  !e.held && e.req.isNone && q.sq.all fun f => f.failed || !q.before f e || (!f.meetsEntry e && !q.ordered f e)

/-- The steps of a release before its own store, once for the threads of a lane release (R150, R151, R198), and then `k`. While
a byte cannot drain the entry stays in its queue. -/
def State.afterSteps (s : State) (q : Party) (e : SqEntry) (k : State → State) : State :=
  if !e.release || e.stepped || (q.releasedAt e.op).isSome then k s
  else
    let isFence := decide (e.body = .fence)
    let s1 := s.releaseDrains q.core e.scope isFence
    if !s1.releaseReady q.core e.scope isFence then s1
    else if e.leavesRecord then k s1
    else
      k ((s1.bumpFor q.core e.scope).updParty q.id fun q =>
        { q.setReleased e.op (s1.core q.core).relSeq with
          sq := updAll (fun x => decide (x.id = e.id)) (fun x => { x with stepped := true }) q.sq })

/-- Room for the record that a DEVICE release is to leave, and then `k` (R151). -/
def State.withRoom (s : State) (q : Party) (e : SqEntry) (line : Nat) (k : State → State) : State :=
  if !e.leavesRecord then k s
  else
    let s1 := s.roomForLazy line q.core none
    if (s1.lazyFull line q.core).isSome then s1 else k s1

/-- A failed access of the scalar stream parks its group at the next instruction boundary (R171): one at which the stream has stalled
at its own instruction; another at the point that the stream has reached, its entry waiting for the fault service (log entry 11). -/
def State.raiseEntry (s : State) (p : PartyId) (e : SqEntry) : State :=
  let q := s.party p
  if !q.mayPark then s
  else if e.id ∈ q.stallOn then
    (s.updParty p fun q => { q.dropEntry e.id with pc := q.pc - 4 }).fault p .memoryError .scalar (FaultInfo.at_ e.va)
  else s.fault p .memoryError (.entry e.id) (FaultInfo.at_ e.va)

/-- An atomic that has failed is replayed: it is translated and checked again, as at its issue (R199, R200, R289). -/
def State.entryAgain (s : State) (q : Party) (e : SqEntry) (n : Nat) (body : Piece → SqBody) : State :=
  match s.checkAccess q e.va n .write true true with
  | (s1, .fault c a2 rp) =>
    if q.mayPark then
      (s1.failEntry q.id e.id).fault q.id c (match e.op with | some o => .laneLate o | none => .entry e.id)
        { addr := dw e.va, addr2 := dw a2, replayable := rp, unfinished := e.threads,
          laneAddr := e.op.bind fun o => (q.ops.find? fun x => decide (x.id = o)).map fun x => dw x.addr }
    else s
  | (s1, .ok x) =>
    let renew (y : SqEntry) : SqEntry :=
      { y with body := (x.pieces.head?.map body).getD y.body, space := (s1.unitOf q).space, stale := false }
    s1.updParty q.id fun q => { q with sq := updAll (fun y => decide (y.id = e.id)) renew q.sq }

/-- A drain that the group has issued before an entry is to update its maximum, with release: the entry waits for what that release
orders before later stores (R150, R311). A group that is being saved waits for no drain (R123): DESIGN CHOICE (log entry 62);
unsafe. -/
def State.maxBars (s : State) (q : Party) (e : SqEntry) : Bool :=
  let n := match e.op with
    | none => e.id
    | some o => q.queuedAt o
  s.onCore q && (s.core q.core).matrix.any fun m =>
    match m.body with
    | .accd _ d => decide (m.issuer = q.id ∧ m.id < n) && d.maxOn && !m.maxDone && !s.maxGoes q.core m d
    | _ => false

/-- A remote entry leaves in a packet. -/
def State.sendEntry (s : State) (q : Party) (e : SqEntry) (d : Nat) (body : PacketBody) : State :=
  s.afterSteps q e fun s =>
    let n := s.nextSeq d
    (s.send d body).updParty q.id fun q =>
      { q with sq := updAll (fun x => decide (x.id = e.id)) (fun x => { x with req := some n }) q.sq }

/-- A store is performed on its core's die, above its home slice, as `State.performStore` finds it. -/
def State.storesNear (s : State) (q : Party) (e : SqEntry) (p : Piece) : Bool :=
  let line := p.pa / 128
  let copy := s.ownsLine (dieOfCore q.core) line && !s.refusesDirty line && s.lineFree line
  match e.scope with
  | .group | .core => !s.refusesDirty line || decide ((line, q.core) ∈ s.dirtyHolders)
  | .cluster =>
    (match (cacheIdOf (s.partOf q) q.core p.cc).bind s.cache? with
     | some c => if c.policy = .writeBack then !s.refusesDirty line else copy
     | none => copy)
  | .device | .pdevice => !e.release && copy
  | .fabric => false

/-- An entry is not accepted at the level at which it would be performed (R326, R327). -/
def State.entryHolds (s : State) (q : Party) (e : SqEntry) : Bool :=
  s.holds .sram q.core ||
    match e.body with
    | .store p _ => !s.storesNear q e p && s.homeHolds (dieOfCore q.core) p.pa
    | .atomic p _ _ _ _ => s.homeHolds (dieOfCore q.core) p.pa
    | .fence | .fifoPush _ _ _ => false
    | .remoteStore _ _ _ _ | .remoteAtomic _ _ _ _ _ _ _ => s.holds .fabric q.core

/-- An entry is performed at its level (R146). One that has passed its checks is performed also where an ACCI has marked its line
since: R138 does not say that such a write is refused. DESIGN CHOICE (log entry 53); unsafe. -/
def State.performEntry (s : State) (q : Party) (e : SqEntry) : State :=
  match e.body with
  | .store at_ bs =>
    if s.refusedWrite (at_.pa / 128) then s
    else s.afterDirty q.core [at_] fun s => s.withRoom q e (at_.pa / 128) fun s =>
      s.afterSteps q e fun s => s.performStore q.id e at_ bs
  | .atomic at_ fn x c dest =>
    if e.stale then s.entryAgain q e at_.len fun p => .atomic p fn x c dest
    else if s.refusedWrite (at_.pa / 128) then s
    else if (List.range at_.len).any fun i => s.byteBad q.core (at_.pa + i) then
      if e.op.isSome then s.failEntry q.id e.id else (s.failEntry q.id e.id).raiseEntry q.id e
    else
      s.afterDirty q.core [at_] fun s => s.withRoom q e (at_.pa / 128) fun s =>
        s.afterSteps q e fun s => s.homeApply (.atomic at_.pa fn (decide (at_.len = 8)) x c) (.entry q.id e.id)
  | .fence => s.afterSteps q e fun s => s.entryDone q.id e.id 0 false
  | .fifoPush cl b bs =>
    let k := s.bank cl b
    if k.mode ≠ .fifo ∨ some k.owner ≠ s.partOf q ∨ k.entrySize ≠ bs.length then s.failEntry q.id e.id
    else if Config.bankBytes / bs.length ≤ k.entries.length then s
    else (s.updBank cl b fun k => { k with entries := k.entries ++ [bs] }).entryDone q.id e.id 0 false
  | .remoteStore _ d a bs => s.sendEntry q e d (.store a bs)
  | .remoteAtomic _ d a op x c _ => s.sendEntry q e d (.atomic a op x c)

/-- R148. `args.p` is the party and `args.x` the entry that leaves its store queue. -/
def execStorePerform (s : State) : Out :=
  let q := s.party s.args.p
  .next (match q.sq.find? fun e => decide (e.id = s.args.x) with
  | none => s
  | some e =>
    if e.failed then (if e.op.isNone then s.raiseEntry q.id e else s)
    else if q.mayLeave e && !s.maxBars q e && !s.entryHolds q e then (s.performEntry q e).settleAll
    else s)

end Sys2Proof.Machine
end

