-- ==== Sys2Proof/Machine/Reductions.lean ====
section
/-!
DEFINITION. The FRED family: reductions in the slots of a Reseau switch (R195 to R197), and the timeouts of a round.
-/

namespace Sys2Proof.Machine

/-! ## The descriptor word (R195) -/

structure FredDesc where
  round : Nat
  timeout : Nat
  operation : Nat
  count : Nat
  port : Nat
  slot : Nat
deriving DecidableEq, Repr

/-- Reads a descriptor word, or none where it raises class 0x01. -/
def FredDesc.ofWord (w : DWord) : Option FredDesc :=
  let v := w.toNat
  let d : FredDesc := ⟨bitsOf v 63 56, bitsOf v 55 40, bitsOf v 34 32, bitsOf v 22 16, bitsOf v 13 10, bitsOf v 9 0⟩
  if bitsOf v 39 35 = 0 ∧ bitsOf v 31 23 = 0 ∧ bitsOf v 15 14 = 0 ∧ d.timeout ≠ 0 ∧ d.operation < 6 ∧ 2 ≤ d.count ∧ d.count ≤ 64
  then some d else none

/-! ## Slots -/

def Slot.blank (port slot : Nat) : Slot where
  port := port
  slot := slot
  owner := none
  state := .idle
  round := 0
  operation := 0
  count := 0
  timeout := 0
  openedAt := 0
  deliveredAt := 0
  taken := []
  received := 0
  joiners := []
  getters := []
  result := 0
  nanSeen := false
  isPartial := false

def State.slotAt (s : State) (port slot : Nat) : Slot :=
  (s.slots.find? fun x => decide (x.port = port ∧ x.slot = slot)).getD (Slot.blank port slot)

def State.setSlot (s : State) (x : Slot) : State :=
  { s with slots := x :: s.slots.filter fun y => !(decide (y.port = x.port) && decide (y.slot = x.slot)) }

/-- A NaN contribution of a floating-point operation. -/
def fredNan (op : Nat) (v : DWord) : Bool := decide (op < 4) && (FType.f32.decode v.toNat).isNan

/-- Folds the contributions in their order of arrival (R196). -/
def fredResult (op : Nat) (vs : List DWord) : DWord :=
  let real := vs.filter fun v => !fredNan op v
  let fold (f : Nat → Nat → Nat) : List DWord → DWord
    | [] => dw FType.f32.canonicalNan
    | v :: r => dw (r.foldl (fun a x => f a x.toNat) v.toNat)
  match op with
  | 0 => fold fmax32 real
  | 1 => fold fmin32 real
  | 2 => (match real with
      | [] => dw FType.f32.canonicalNan
      | v :: r => dw (r.foldl (fun a x => famax32 a x.toNat) (famax32 v.toNat v.toNat)))
  | 3 => (match vs with
      | [] => 0
      | _ => if vs.any (fredNan 3) then dw FType.f32.canonicalNan else fold rne32Add vs)
  | 4 => vs.foldl (fun a x => a + x) 0
  | _ => vs.foldl (fun a x => if a.slt x then x else a) (dw (2 ^ 63))

/-- A round delivers its result (R196). -/
def Slot.deliver (x : Slot) (clk : Nat) (timedOut : Bool) : Slot :=
  { x with
    state := .delivered
    deliveredAt := clk
    result := fredResult x.operation x.taken
    nanSeen := decide (x.operation < 3) && x.taken.any (fredNan x.operation)
    isPartial := timedOut }

/-- A round closes: the slot returns to idle. -/
def Slot.close (x : Slot) : Slot :=
  { x with state := .idle, joiners := [], getters := [], taken := [], received := 0, nanSeen := false, isPartial := false }

/-- The status word (R197). -/
def Slot.status (x : Slot) (mismatch late : Bool) : DWord :=
  let st := match x.state with
    | .idle => 0 | .collecting => 1 | .delivered => 2
  let nan := decide (x.operation < 3) && x.taken.any (fredNan x.operation)
  dw (x.round * 2 ^ 24 + st * 2 ^ 16 + x.received * 2 ^ 8 + mismatch.toNat * 8 + late.toNat * 4 + x.isPartial.toNat * 2
    + nan.toNat)

def Slot.joined (x : Slot) (p : PartyId) : Bool := x.joiners.any fun j => decide (j.1 = p)

/-- The descriptor is that of the round. -/
def Slot.agrees (x : Slot) (d : FredDesc) : Bool :=
  decide (x.round = d.round ∧ x.timeout = d.timeout ∧ x.operation = d.operation ∧ x.count = d.count)

/-! ## Instructions (R197) -/

/-- The key of a slot in what a party has seen. -/
def FredDesc.key (d : FredDesc) : Nat := d.port * 1024 + d.slot

/-- A party has seen a status. -/
def State.seen (s : State) (d : FredDesc) (v : DWord) : State :=
  s.upd fun q => { q with frSeen := assocSet d.key v q.frSeen }

/-- The status that the switch answers: it is seen, and written to a register. -/
def State.fredStatus (s : State) (d : BitVec 6) (f : FredDesc) (v : DWord) : State := (s.seen f v).alu d v

/-- What every FRED instruction checks first: the word, the grant, and whether the port's switch can be reached. R195 puts port and
slot into bits [13:0] of `faultaddr2` and the reason 3 into [15:12]: at [13:12], where they overlap, the two are ORed. DESIGN CHOICE
(log entry 42); unsafe.
`k` goes on with the slot; an unreachable switch does nothing and says so. -/
def State.fred (s : State) (a : BitVec 6) (k : State → FredDesc → Option Slot → State) : State :=
  match FredDesc.ofWord (s.rd a) with
  | none => s.trap .illegal
  | some f =>
    let x := s.slotAt f.port f.slot
    if x.owner.isNone ∨ x.owner ≠ s.partOf s.me then
      s.fault s.actor .remote .scalar
        { addr := 0, addr2 := dw (f.key ||| 0x3000), replayable := false, unfinished := 0, laneAddr := none }
    else if (s.fabric.getD f.port FabricPort.blank).up then k s f (some x)
    else k s f none

/-- Status bit 4 with the slot as the party last saw it. -/
def State.unreachable (s : State) (d : BitVec 6) (f : FredDesc) : State :=
  s.fredStatus d f (lookupD f.key 0 s.me.frSeen ||| 16)

/-- Sub 0. -/
def execFrjoin (d a : BitVec 6) (s : State) : Out :=
  s.scalar [d] [a] fun s =>
    s.fred a fun s f x =>
      match x with
      | none => s.unreachable d f
      | some x =>
        match x.state with
        | .idle =>
          let y : Slot :=
            { x.close with
              state := .collecting
              round := f.round
              operation := f.operation
              count := f.count
              timeout := f.timeout
              openedAt := s.clk
              joiners := [(s.actor, false)] }
          (s.setSlot y).fredStatus d f (y.status false false)
        | .collecting =>
          if !x.agrees f || (!x.joined s.actor && decide (x.count ≤ x.joiners.length)) then
            s.fredStatus d f (x.status true false)
          else
            let y := { x with joiners := addNew (s.actor, false) x.joiners }
            (s.setSlot y).fredStatus d f (y.status false false)
        | .delivered => s.fredStatus d f (x.status (!x.agrees f) true)

/-- Sub 1. The contribution leaves for the switch; `sd` waits for its answer. -/
def execFrput (d a b : BitVec 6) (s : State) : Out :=
  s.scalar [d] [a, b] fun s =>
    s.fred a fun s f x =>
      match x with
      | none => s.unreachable d f
      | some _ =>
        (({ s with
            puts := s.puts ++ [⟨s.fresh, s.actor, s.rd a, s.rd b, d.toNat, s.clk⟩]
            fresh := s.fresh + 1 } : State).upd fun q =>
              { q with pending := if d = 0 then q.pending else q.pending ++ [(d.toNat, s.fresh)] }).adv

/-- A contribution arrives: the slot takes it, delivering with the last one, or answers why not. The contributions of a
round are in the order in which they arrive (R196). -/
def Slot.put (x : Slot) (f : FredDesc) (p : PartyId) (v : DWord) (clk : Nat) : Slot × DWord :=
  if x.state = .idle ∨ x.round ≠ f.round ∨ !x.joined p then (x, x.status true false)
  else if x.state = .delivered then (x, x.status false true)
  else
    let w := if x.operation < 4 then v &&& dw (2 ^ 32 - 1) else v
    let y := { x with taken := x.taken ++ [w], received := x.received + 1 }
    let z := if y.received = y.count then y.deliver clk false else y
    (z, z.status false false)

/-- The switch's answer to a contribution, or that it cannot be reached: the register takes the status word. -/
def State.answerPut (s : State) (c : FredPut) (f : FredDesc) (v : DWord) : State :=
  let s1 : State := { s with puts := s.puts.filter fun x => decide (x.id ≠ c.id) }
  let waits := (s.party c.p).pending.any fun x => decide (x = (c.dest, c.id))
  (if waits then s1.wrTo c.p c.dest v else s1).updParty c.p fun q =>
    { q with
      frSeen := assocSet f.key v q.frSeen
      pending := q.pending.filter fun x => decide (x ≠ (c.dest, c.id)) }

/-- A contribution reaches its switch (R196, R197), if the port is up. -/
def State.takePut (s : State) (id : Nat) : State :=
  match s.puts.find? fun c => decide (c.id = id) with
  | none => s
  | some c =>
    match FredDesc.ofWord c.word with
    | none => s
    | some f =>
      if !(s.fabric.getD f.port FabricPort.blank).up then s
      else
        let (y, v) := (s.slotAt f.port f.slot).put f c.p c.value s.clk
        (s.setSlot y).answerPut c f v

/-- A contribution that has had no answer for 1 ms is lost, and leaves the round to its timeout (R308). -/
def State.losePut (s : State) (id : Nat) : State :=
  match s.puts.find? fun c => decide (c.id = id) with
  | none => s
  | some c =>
    match FredDesc.ofWord c.word with
    | none => s
    | some f =>
      if s.clk < c.sentAt + Config.ms1 then s else s.answerPut c f (lookupD f.key 0 (s.party c.p).frSeen ||| 16)

/-- Sub 2. -/
def execFrget (d a : BitVec 6) (s : State) : Out :=
  s.scalar [d] [a] fun s =>
    s.fred a fun s f x =>
      match x with
      | none => (s.seen f (lookupD f.key 0 s.me.frSeen ||| 16)).alu d 0
      | some x =>
        if x.state = .idle ∨ x.round ≠ f.round ∨ !x.joined s.actor then (s.seen f (x.status true false)).alu d 0
        else if x.state = .collecting then s
        else
          let y := { x with getters := addNew s.actor x.getters }
          let z := if y.joiners.all fun j => decide (j.1 ∈ y.getters) then y.close else y
          ((s.setSlot z).seen f (y.status false false)).alu d x.result

/-- Sub 3. -/
def execFrstat (d a : BitVec 6) (s : State) : Out :=
  s.scalar [d] [a] fun s => s.fred a fun s f _ => s.alu d (lookupD f.key 0 s.me.frSeen)

/-! ## Timeouts (R196) -/

/-- `clk` counts in a microsecond. -/
def clkPerUs : Nat := 4000

/-- R196. `args.x` is the port and `args.y` the slot: its timeout has expired before the last contribution. -/
def execRoundTimeout (s : State) : Out :=
  let x := s.slotAt s.args.x s.args.y
  .next (if x.state = .collecting ∧ x.openedAt + x.timeout * clkPerUs ≤ s.clk then s.setSlot (x.deliver s.clk true) else s)

/-- R196. `args.x` is the port and `args.y` the slot: one timeout has passed since delivery. -/
def execSlotCloseTimeout (s : State) : Out :=
  let x := s.slotAt s.args.x s.args.y
  .next (if x.state = .delivered ∧ x.deliveredAt + x.timeout * clkPerUs ≤ s.clk then s.setSlot x.close else s)

end Sys2Proof.Machine
end

