-- ==== Sys2Proof/Machine/Records.lean ====
section
/-!
DEFINITION. Fault records on their way to their queues (R296 to R298), and errors that arise in storage (R302, R303).
-/

namespace Sys2Proof.Machine

/-! ## Delivery (R298) -/

/-- The 64 bytes of a record (R297). -/
def FaultRec.toBytes (r : FaultRec) : List Byte :=
  toLe 1 r.cls.code ++ toLe 1 r.flags.toNat ++ toLe 2 r.domain ++ toLe 4 r.unfinished.toNat ++ toLe 8 r.identity.toNat ++
    toLe 8 r.pc.toNat ++ toLe 8 r.laneAddr.toNat ++ toLe 8 r.addr.toNat ++ toLe 8 r.addr2.toNat ++ toLe 8 r.clk.toNat ++ toLe 8 0

/-- The queue that a record goes to: its address, and the partition whose wake it sends. -/
def State.queueOf (s : State) (r : PendingRec) : Nat × Option Nat :=
  match r.queue with
  | some n =>
    let a := (s.partition n).faultQueue
    if s.queueUsable a then (a, some n) else (s.kernelQueue, none)
  | none => (s.kernelQueue, none)

/-- The unit that raised a record: the core that its identity word names (R287), or the shuttle and the memory side for
an event that stops no context, copy or drain. -/
def PendingRec.unit (r : PendingRec) : Option Nat := if r.waits then some (bitsOf r.body.identity.toNat 14 7) else none

/-- The wake of a delivered record: it ends a HALT and loads the core's fault registers. -/
def State.wakeFor (s : State) (part : Option Nat) (r : PendingRec) : State :=
  let n := r.die * 4 + (part.getD 0) % 4
  (s.wakeSteward n).updParty (.steward n) fun q =>
    { q with
      faultinfo := r.body.identity ||| dw (r.body.cls.code * 2 ^ 56)
      faultaddr := r.body.addr
      faultaddr2 := r.body.addr2 }

/-- The three steps of a delivery: the record's bytes, the producer count, the wake. Each follows when the write before it has
been performed. -/
def State.deliver (s : State) (r : PendingRec) (a : Nat) (part : Option Nat) (cap prod : Nat) : State :=
  let put (s : State) (n at_ : Nat) (bs : List Byte) : State :=
    State.ask { s with records := updAll (fun x => decide (x.id = r.id)) (fun x => { x with stage := n }) s.records }
      ⟨0, [], .write (cellsFrom at_ bs), .record part⟩
  let s1 := if r.stage = 0 then put s 1 (a + 64 + 64 * (prod % cap)) r.body.toBytes else s
  if s1.waitsFor (.record part) then s1
  else
    let s2 := if r.stage ≤ 1 then put s1 2 (a + 8) (toLe 8 (prod + 1)) else s1
    if s2.waitsFor (.record part) then s2
    else State.wakeFor { s2 with records := s2.records.filter fun x => decide (x.id ≠ r.id) } part r

/-- A record must wait its turn: behind an earlier one of its unit, or for another delivery to its queue. -/
def State.behindRecord (s : State) (r : PendingRec) (part : Option Nat) : Bool :=
  decide (((s.records.find? fun x => decide (x.unit = r.unit)).map (·.id)) ≠ some r.id) ||
    s.records.any fun x => decide (x.stage ≠ 0 ∧ x.id ≠ r.id ∧ (s.queueOf x).2 = part)

/-- R298. `args.x` is the record. While its queue is full, a parked context's record waits, as does that of a stopped copy
or drain; another event record is dropped and counted. -/
def execFaultRecordDelivery (s : State) : Out :=
  .next (match s.records.find? fun r => decide (r.id = s.args.x) with
  | none => s
  | some r =>
    let (a, part) := s.queueOf r
    let cap := s.queueField a 0 4
    let prod := s.queueField a 8 8
    let full := decide (cap ≤ (prod + 2 ^ 64 - s.queueField a 16 8) % 2 ^ 64)
    if s.behindRecord r part || s.waitsFor (.record part) then s
    else if decide (r.stage ≠ 0) || !full then s.deliver r a part cap prod
    else if r.waits then s
    else
      State.ask { s with records := s.records.filter fun x => decide (x.id ≠ r.id) }
        ⟨0, [], .write (cellsFrom (a + 24) (toLe 4 (min (s.queueField a 24 4 + 1) (2 ^ 32 - 1)))), .record part⟩)

/-! ## Errors (R302, R303) -/

/-- A line or word that an error can strike, so that somebody may read it. -/
def State.struck (s : State) (e : ErrSite) : State :=
  let mark : State := { s with errors := addNew e s.errors }
  match e with
  | .mem pa => if pa < Config.dramBytes then mark else s
  | .clean core line =>
    -- a clean copy is dropped, and filled again from below at its next use
    { s.updCore core (fun c => { c with clean := c.clean.filter fun l => decide (l.line ≠ line) }) with
      caches := s.caches.map fun c =>
        if c.id.cluster = clusterOfCore core then
          { c with clean := c.clean.filter fun l => !meets (l.line * c.lineBytes) c.lineBytes (line * 128) 128 }
        else c }
  | .dieCopy die pa =>
    (match s.dieCopy? die (pa / 128) with
     | none => { s with remoteCopies := s.remoteCopies.filter fun c => !decide (c.die = die ∧ c.line = pa / 128) }
     | some c => if c.state = .shared ∨ c.state = .exclusive then s.dropCopy die (pa / 128) else mark)
  | .dirty core pa =>
    if ((s.core core).dirty.any fun d => decide (d.pa = pa)) ||
        (s.caches.any fun c => c.dirty.any fun d => decide (d.core = core ∧ d.pa = pa)) then mark else s
  -- what a set clear bit covers reads as zeros, and is cleared before the first write (R27)
  | .coreStore core off => if core < Config.computeCores ∧ off / 4096 ∈ (s.core core).blocks then mark else s
  | .scaleStore core x => if core < Config.computeCores ∧ x % Config.scaleColumns ∈ (s.core core).columns then mark else s
  | .bank cl b off => if cl < 32 ∧ b < 64 ∧ off < Config.bankBytes then mark else s
  | .sreg p n => if (s.party? p).isSome ∧ 0 < n ∧ n < 64 then mark else s
  | .vreg p n t => if (s.party? p).isSome ∧ n < (s.party p).vcount ∧ t < (s.party p).gw then mark else s
  | .shadow core part => if s.workgroups.any fun w => decide (w.core = core ∧ w.part = part) && w.shadowed then mark else s

/-- R302. `args.site` is where the error arises. Nothing marks the data: whoever reads the only valid copy meets it. -/
def execUncorrectableError (s : State) : Out := .next (s.struck s.args.site)

/-- R303. `args.x` names the bank or slice and `args.y` the row or way, which a spare replaces: its data is moved, and no
address or order changes. -/
def execRowRetirement (s : State) : Out := .next { s with retired := addNew (s.args.x, s.args.y) s.retired }

end Sys2Proof.Machine
end

