-- ==== Sys2Proof/Machine/Sys.lean ====
section
/-!
DEFINITION. The SYS family's control of banks, composed caches, text, cores and partitions: BANKCFG, VCSET, DARN, CORERST,
PSWAP (R278 to R281, R284, R290, R306).
-/

namespace Sys2Proof.Machine

/-- Whether all of a list of bytes are zero. -/
def allZero (bs : List Byte) : Bool := bs.all fun b => decide (b = 0)

/-- Reads a 64-byte record at an address aligned to 64 (R280, R284). -/
def State.readRecord (s : State) (va n : Nat) (k : State → List Byte → State) : State :=
  if va % 64 ≠ 0 then s.trapAt .alignment va else s.readObject va n .core k

/-- A reconfiguration waits until the TOPO tacks of the partitions concerned are broken (R187). -/
def State.afterTopos (s : State) (parts : List Nat) (k : State → State) : State :=
  let f (t : Tack) : Bool := parts.any fun n => topoOf n t
  let s1 := s.breakTacks f
  if s1.breakingAny f then s1 else k s1

/-! ## BANKCFG (R279) -/

def BankMode.ofCode : Nat → BankMode
  | 0 => .unassigned
  | 1 => .cache
  | 2 => .scratch
  | _ => .fifo

def BankMode.code : BankMode → Nat
  | .unassigned => 0
  | .cache => 1
  | .scratch => 2
  | .fifo => 3

/-- The control word of a bank. -/
def Bank.control (k : Bank) : Nat := k.entrySize * 2 ^ 16 + k.owner * 2 ^ 8 + k.mode.code

/-- A control word that R279 allows. -/
def controlOk (v : Nat) : Bool :=
  let n := bitsOf v 31 16
  decide (bitsOf v 63 32 = 0 ∧ bitsOf v 15 12 = 0 ∧ bitsOf v 7 2 = 0) &&
    (if v % 4 = 3 then decide (n = 4) || decide (n = 8) || decide (n = 16) || decide (40 ≤ n ∧ n ≤ 520 ∧ n % 8 = 0) else decide (n = 0))

/-- Steps 2 to 5 of R279: waiting pops fail, and the bank's bytes and entries are gone. -/
def State.setBank (s : State) (cl b v : Nat) : State :=
  let mine (q : Party) (l : LaneAccess) : Bool :=
    q.waitingPop l && decide (clusterOfCore q.core = cl ∧ (l.va - Config.bankBase) / Config.bankBytes = b)
  let s1 : State :=
    { s with
      parties := s.parties.map fun q => { q with loads := q.loads.map fun l => if mine q l then { l with got := some [] } else l }
      counted := s.counted.filter fun x =>
        match x.1 with
        | .bank c k _ => !(decide (c = cl) && decide (k = b))
        | _ => true
      errors := s.errors.filter fun e =>
        match e with
        | .bank c k _ => !(decide (c = cl) && decide (k = b))
        | _ => true }
  s1.updBank cl b fun _ =>
    { mode := BankMode.ofCode (v % 4), owner := bitsOf v 11 8, entrySize := bitsOf v 31 16, bytes := [], entries := [] }

/-- R279. -/
def execBankcfg (d a b : BitVec 6) (s : State) : Out :=
  s.stewardOnly (s.scalar [d] [a, b] fun s =>
    let x := (s.rd a).toNat
    let v := (s.rd b).toNat
    let cl := bitsOf x 10 6
    let n := x % 64
    let k := s.bank cl n
    let owner := bitsOf v 11 8
    if 2 ^ 11 ≤ x ∨ controlOk v = false then s.trap .illegal
    else if (s.caches.any fun c => decide (c.id.cluster = cl) && c.shares.any fun y => decide (y.1 = n)) &&
        (decide (k.mode ≠ BankMode.ofCode (v % 4)) || decide (k.owner ≠ owner)) then s.alu d inUse
    else if s.ladders.any fun l => decide (l.cluster = cl) && l.rungs.any fun r => r.banks.getLsbD n then s.alu d inUse
    else if !(s.partition owner).enabled then s.alu d noSuchObject
    else
      s.afterTopos (if k.mode = .unassigned then [owner] else [k.owner, owner]) fun s =>
        (s.setBank cl n v).alu d (dw k.control))

/-! ## VCSET (R280, R281) -/

/-- A cache definition record, or none where a field is out of range. Shares come as (bank, bytes). -/
def cacheOfBytes (bs : List Byte) : Option ComposedCache :=
  let f (n : Nat) : Nat := le ((bs.drop n).take 1)
  let map_ := le ((bs.drop 8).take 16)
  let share (b : Nat) : Nat := match map_ / 2 ^ (2 * b) % 4 with
    | 0 => 0 | 1 => 65536 | 2 => 131072 | _ => 262144
  let shares := ((List.range 64).map fun b => (b, share b)).filter fun x => decide (x.2 ≠ 0)
  let c := (shares.map (·.2)).sum
  let line := 64 * 2 ^ f 3
  let ways := f 4
  if 1 ≤ f 0 ∧ f 0 ≤ 15 ∧ f 1 ≤ 15 ∧ f 2 ≤ 31 ∧ f 3 ≤ 2 ∧ isPow2 ways ∧ ways ≤ 32 ∧ f 5 ≤ 2 ∧ allZero ((bs.drop 6).take 2) ∧
      allZero ((bs.drop 24).take 40) ∧ (c = 0 ∨ (isPow2 (c / (ways * line)) ∧ c % (ways * line) = 0)) then
    some
      { id := ⟨f 1, f 2, f 0⟩, lineBytes := line, ways := ways
        policy := if f 5 = 0 then .writeBack else if f 5 = 1 then .writeThrough else .readOnly
        shares := shares, fills := 0, clean := [], dirty := [] }
  else none

/-- Steps 3 to 5 of R281, once every dirty byte of the old configuration has reached L2; else the instruction is tried
again. -/
def State.installCache (s : State) (c : ComposedCache) (k : State → State) : State :=
  let s1 := s.drainCaches (fun i => decide (i = c.id)) (fun _ => true) none
  if s1.caches.any fun x => decide (x.id = c.id) && !x.dirty.isEmpty then s1
  else
    k { s1 with
        caches := (s1.caches.filter fun x => decide (x.id ≠ c.id)) ++ [c]
        cores := s1.cores.map fun k => { k with floors := k.floors.filter fun f => decide (f.1 ≠ c.id) } }

/-- R281. -/
def execVcset (d a : BitVec 6) (s : State) : Out :=
  s.stewardOnly (s.scalar [d] [a] fun s =>
    let va := (s.rd a).toNat
    s.readRecord va 64 fun s1 bs =>
      match cacheOfBytes bs with
      | none => s1.trapAt .illegal va
      | some c =>
        let held (b : Nat) : Nat :=
          ((s1.caches.filter fun x => decide (x.id ≠ c.id ∧ x.id.cluster = c.id.cluster)).map fun x => lookupD b 0 x.shares).sum
        if c.shares.any fun x =>
            let k := s1.bank c.id.cluster x.1
            decide (k.mode ≠ .cache) || decide (k.owner ≠ c.id.part) then s1.alu d conflict
        else if c.shares.any fun x => decide (Config.bankBytes < held x.1 + x.2) then s1.alu d inUse
        else s1.afterTopos [c.id.part] fun s => s.installCache c fun s => s.alu d 0)

/-! ## DARN (R284) -/

structure DarnDesc where
  target : Nat
  source : Nat
  length : Nat
  part : Nat
deriving DecidableEq, Repr

def DarnDesc.ofBytes (bs : List Byte) : Option DarnDesc :=
  let d : DarnDesc := ⟨le (bs.take 8), le ((bs.drop 8).take 8), le ((bs.drop 16).take 4), le ((bs.drop 20).take 1)⟩
  if d.target % 4 = 0 ∧ 4 ≤ d.length ∧ d.length ≤ 1048576 ∧ d.length % 4 = 0 ∧ d.part ≤ 15 ∧ allZero ((bs.drop 21).take 43)
  then some d else none

/-- Step 1 of R284: the groups concerned stop; a run of theirs first finishes. -/
def State.darnPark (s : State) (part target length : Nat) : State :=
  { s with parties := s.parties.map fun q =>
      if q.darned part target length ∧ q.status = .running then { q with status := .darned, readySince := none } else q }

/-- Steps 3 and 4 of R284, and the engine is free again. -/
def State.darnEnd (s : State) (part : Nat) : State :=
  { s with
    darning := none
    parties := s.parties.map fun q =>
      match q.id, q.status with
      | .group p _ _, .darned => if p = part then { q with status := .running, fetched := [] } else q
      | _, _ => q }

/-- Asks for the writes of text at the home slices of its frames, Dirty set first. -/
def State.writeText (s : State) (unit : Nat) (ps : List (Piece × List Byte)) : State :=
  ps.foldl (fun s x => s.ask ⟨unit, [x.1], .write (cellsFrom x.1.pa x.2), .service s.actor⟩) s

/-- Ends this steward core's patch, if one is in progress, before a fault. -/
def State.darnDrop (s : State) : State :=
  match s.darning with
  | some (p, n, _) => if p = s.actor then s.darnEnd n else s
  | none => s

/-- Steps 3 to 5 of R284 once the text has been written: every instruction-cache line is dropped, those of the range among them,
and the groups go on. -/
def State.darnFinish (s : State) (d : BitVec 6) : State :=
  if s.waitsFor (.service s.actor) then s
  else (({ s.darnDrop with text := [] } : State).upd fun q => { q with progress := 0 }).alu d 0

/-- The patch once its descriptor has been read. `progress`: the text has been asked to be written. -/
def State.darnStep (s : State) (d : BitVec 6) (x : DarnDesc) : State :=
  let q := s.me
  match s.checkAccess q x.source x.length .read false false with
  | (s1, .fault c a r) => s1.darnDrop.accessFault x.source c a r
  | (s1, .ok src) =>
    let u : UnitCtx := ⟨1024, (s1.partition x.part).spaceid, (s1.partition x.part).ptroot, false, false⟩
    match s1.xlate u x.target x.length .patch true with
    | (s2, .error (c, a)) =>
      s2.darnDrop.accessFault x.target c (if a = x.target then 0 else a) (decide (c = .pageAbsent))
    | (s2, .ok dst) =>
      let (s3, bs, bad) := s2.loadPieces q (s2.partOf q) .core false none src.pieces
      if bad then s3.darnDrop.accessFault x.source .memoryError 0 false
      else
        match s3.darning with
        | some (p, _) =>
          if p ≠ s3.actor then s3
          else
            let s4 := s3.darnPark x.part x.target x.length
            if s4.parties.any fun q => q.darned x.part x.target x.length && q.runGoes then s4
            else ((s4.writeText u.unit (cutBytes dst.pieces bs)).upd fun q => { q with progress := 1 }).darnFinish d
        | none =>
          ({ s3 with darning := some (s3.actor, x.part, x.target, x.length) } : State).darnPark x.part x.target x.length

/-- A patch whose command has stopped at a fault ends. -/
def State.darnFault (s : State) : State := if s.me.park.isSome then s.darnDrop else s

/-- R284. -/
def execDarn (d a : BitVec 6) (s : State) : Out :=
  s.stewardOnly (s.scalar [d] [a] fun s => State.darnFault (
    let va := (s.rd a).toNat
    if s.me.progress = 1 then s.darnFinish d
    else if va % 64 ≠ 0 then s.darnDrop.trapAt .alignment va
    else
      match s.checkAccess s.me va 64 .read false false with
      | (s1, .fault c e r) => s1.darnDrop.accessFault va c e r
      | (_, .ok _) =>
        s.readRecord va 64 fun s1 bs =>
          match DarnDesc.ofBytes bs with
          | none => s1.darnDrop.trapAt .illegal va
          | some x => if !(s1.partition x.part).enabled then s1.darnDrop.trapAt .illegal va else s1.darnStep d x))

/-! ## CORERST (R290, R304) -/

/-- The reset of a core is done once what it has drained has reached L2 (R153): acquires then need nothing of it, unless a hardware
failure has marked it. -/
def State.resetDone (s : State) (d : BitVec 6) (c : Nat) : State :=
  if s.drainsHeld c then s
  else
    let s1 : State :=
      { s.updCore c fun k => { k with resetting := false } with
        lazy := if (s.core c).failed then s.lazy else s.lazy.filter fun r => decide (r.core ≠ c) }
    (s1.upd fun q => { q with progress := 0 }).alu d 0

/-- R290. The core takes no work until its reset is done. One that a hardware failure has marked stays marked. -/
def execCorerst (d a : BitVec 6) (s : State) : Out :=
  s.stewardOnly (s.scalar [d] [a] fun s =>
    let c := (s.rd a).toNat
    if 128 ≤ c then s.trap .illegal
    else if s.me.progress = 0 then
      let was := (s.core c).failed
      (((s.failCore c 2).updCore c fun k => { k with failed := was, resetting := true }).upd fun q => { q with progress := 1 }).resetDone d c
    else s.resetDone d c)

/-! ## PSWAP (R290, R306) -/

/-- Bytes of the images of a partition's workgroups that meet a condition. -/
def State.imageBytes (s : State) (part : Nat) (f : Workgroup → Bool) : Nat :=
  ((s.workgroups.filter fun w => decide (w.part = part) && f w).map s.imageSize).sum

/-- A partition's pool has room for the images of it that stand there and for those that a condition selects. -/
def State.poolHolds (s : State) (part : Nat) (f : Workgroup → Bool) : Bool :=
  let n := s.imageBytes part f
  decide (n = 0) || decide (s.imageBytes part (fun w => f w || (decide (w.state = .saved) && !w.shadowed)) ≤ s.poolSize part)

/-- The partition that the shadows of a partition's cores hold, other than one. -/
def State.otherShadow (s : State) (part except : Nat) : Option Nat :=
  firstBelow 16 fun n => decide (n ≠ part ∧ n ≠ except) && (s.partition n).enabled && (s.partition n).inShadow &&
    decide ((s.partition n).cores &&& (s.partition part).cores ≠ 0)

/-- Step 1 of R306: every resident workgroup stops, but for critical sections. -/
def State.stopAll (s : State) (part : Nat) : State :=
  (s.workgroups.filter fun w => decide (w.part = part ∧ w.state = .resident) && !s.inCrit w).foldl State.stopWg s

/-- The workgroups of a partition whose images are in shadows. -/
def State.shadowsOf (s : State) (part : Nat) : List Workgroup := s.workgroups.filter fun w => decide (w.part = part) && w.shadowed

/-- Workgroups whose shadow holds an error are lost when it is read (R306). -/
def State.shadowErrors (s : State) (part : Nat) : State :=
  let ws := (s.shadowsOf part).filter fun w => decide (ErrSite.shadow w.core part ∈ s.errors)
  let s1 := ws.foldl (fun s w => (s.reportLost w 3).failWg w 0x10 true) s
  { s1 with errors := s1.errors.filter fun e =>
      match e with
      | .shadow _ n => decide (n ≠ part)
      | _ => true }

/-- The shadows of a partition are written to its save pool. What the pool has no room for stays in the shadows: R306 asks for the
room before it begins, and does not speak of an image that cannot be restored at once. DESIGN CHOICE (log entry 39); unsafe. -/
def State.shadowToPool (s : State) (part : Nat) : State :=
  let s1 := s.shadowErrors part
  let s2 := (s1.shadowsOf part).foldl (fun s w =>
    if s.poolHolds part (fun v => decide (v.id = w.id)) then s.writeImage w else s) s1
  s2.updPartition part fun x => { x with inShadow := !(s2.shadowsOf part).isEmpty }

/-- Restores workgroups while one comes first and fits. -/
def State.restoreMany (s : State) (part : Nat) : Nat → State
  | 0 => s
  | n + 1 => (s.restoreNext part).restoreMany part n

/-- Steps 2 to 5 of R306. What of b cannot be restored yet leaves the shadows for its pool. -/
def State.exchange (s : State) (pa : Nat) (pb : Option Nat) : State :=
  let s1 := (s.workgroups.filter fun w => decide (w.part = pa ∧ w.state = .stopped)).foldl (fun s w =>
    ((s.saveWg w).updWg w.part w.id fun w => { w with shadowed := true }).ackSaved w) s
  let s2 := match s1.otherShadow pa (pb.getD pa) with
    | some z => s1.shadowToPool z
    | none => s1
  let s3 := s2.updPartition pa fun x => { x with inShadow := true }
  match pb with
  | none => s3.shadowToPool pa
  | some n =>
    let s4 := (s3.shadowErrors n).updPartition n fun x => { x with swappedOut := false }
    (s4.restoreMany n (s4.workgroups.filter fun w => decide (w.part = n ∧ w.state = .saved)).length).shadowToPool n

/-- The pools that step 3 writes have room: that of another partition in the shadows, that of a where only a is saved, and that of b
for what of it cannot be restored at once. -/
def State.poolsReady (s : State) (pa : Nat) (pb : Option Nat) : Bool :=
  (match s.otherShadow pa (pb.getD pa) with
    | some z => s.poolHolds z (·.shadowed)
    | none => true) &&
    match pb with
    | none => s.poolHolds pa fun _ => true
    | some n => s.poolHolds n fun w => w.shadowed && !s.restorable w

/-- Writes of saved images of the partitions concerned wait. -/
def State.imagesWait (s : State) : Bool :=
  s.waitsAny fun x => match x with
    | .image _ _ => true
    | _ => false

/-- The cores of a partition have reached L2 with what they have drained. -/
def State.drained (s : State) (cs : List Nat) : Bool := !(cs.any fun c => s.dirtyLeft c (upTo none) || s.drainsHeld c)

/-- Step 6: every image has been written. -/
def State.swapDone (s : State) (d : BitVec 6) : State :=
  if s.imagesWait then s else (s.upd fun q => { q with progress := 0 }).alu d 0

/-- R306. The instruction waits until step 1 has ended and the cores of the departing partition have drained (R153), and then until
the images that step 3 writes have been written. `progress` 2: steps 2 to 5 have been taken. -/
def execPswap (d a b : BitVec 6) (s : State) : Out :=
  s.stewardOnly (s.scalar [d] [a, b] fun s =>
    let pa := (s.rd a).toNat
    let y := (s.rd b).toNat
    let pb := if y.testBit 8 then none else some (y % 16)
    let A := s.partition pa
    if 16 ≤ pa ∨ bitsOf y 63 9 ≠ 0 ∨ bitsOf y 7 4 ≠ 0 then s.trap .illegal
    else if !A.enabled || !((pb.map fun n => (s.partition n).enabled).getD true) then s.alu d noSuchObject
    else if !((pb.map fun n => decide ((s.partition n).cores = A.cores)).getD true) then s.alu d conflict
    else if s.me.progress = 0 ∧
        (A.swappedOut ∧ ((List.range 16).any fun n => decide (n ≠ pa) && (s.partition n).enabled && !(s.partition n).swappedOut &&
          decide ((s.partition n).cores &&& A.cores ≠ 0))) then s.alu d conflict
    else if s.me.progress = 0 ∧
        !s.poolsReady pa pb then s.alu d inUse
    else if s.me.progress = 2 then s.swapDone d
    else
      let s1 := ((s.updPartition pa fun x => { x with swappedOut := true }).upd fun q => { q with progress := 1 }).stopAll pa
      if s1.workgroups.any fun w => decide (w.part = pa ∧ (w.state = .resident ∨ w.state = .stopping ∨ w.state = .saving)) then s1
      else
        let cs := s1.coresOf pa
        let s2 := cs.foldl (fun s c => s.drainCore c none) s1
        if !s2.drained cs then s2
        else ((s2.exchange pa pb).upd fun q => { q with progress := 2 }).swapDone d)

end Sys2Proof.Machine
end

