-- ==== Sys2Proof/Machine/Ports.lean ====
section
/-!
DEFINITION. PORTCMD (R291): partition records (R269, R271, R305), peer entries (R207), reduction slots (R195), and the Ethernet ports
(R328 to R330).
-/

namespace Sys2Proof.Machine

/-! ## The command block (R291) -/

/-- Reads the command block that S[a] names: `k` goes on with its address and body. A command that has waited gets its
result. -/
def State.portcmd (s : State) (d a : BitVec 6) (code : Nat) (k : State → Nat → List Byte → State) : Out :=
  s.stewardOnly (s.scalar [d] [a] fun s =>
    let va := (s.rd a).toNat
    match s.me.heldResult with
    | some v => (s.upd fun q => { q with heldResult := none }).alu d v
    | none =>
      s.readRecord va 8 fun s1 h =>
        if le (h.take 2) ≠ code ∨ allZero (h.drop 4) = false then s1.trapAt .illegal va
        else s1.readObject va (8 + le ((h.drop 2).take 2)) .core fun s2 bs => k s2 va (bs.drop 8))

/-- A field of a body. -/
def bodyField (bs : List Byte) (off n : Nat) : Nat := le ((bs.drop off).take n)

/-! ## Code 1: partition records -/

/-- A partition record, by its number, or none where a field breaks R269. -/
def partitionOfBytes (bs : List Byte) : Option (Nat × Partition) :=
  let f := bodyField bs
  if bs.length = 64 ∧ f 0 1 < 16 ∧ f 1 1 < 2 ∧ f 2 2 ≠ 0 ∧ f 4 4 = 0 ∧ f 8 8 % 65536 = 0 ∧ f 8 8 < 2 ^ 48 ∧
      allZero ((bs.drop 48).take 16) then
    some (f 0 1,
      { Partition.blank with
        enabled := decide (f 1 1 = 1)
        spaceid := f 2 2
        ptroot := f 8 8
        cores := BitVec.ofNat 128 (f 16 16)
        root := f 32 8
        faultQueue := f 40 8 })
  else none

/-- A launch that has been accepted and has not ended. -/
def Launch.open_ (l : Launch) : Bool :=
  match l.state with
  | .waiting | .eligible | .running => true
  | _ => false

/-- Failed cores of a mask whose die has a spare left (R305). -/
def State.spareable (s : State) (mask : BitVec 128) : List Nat :=
  ((List.range 128).filter fun c => mask.getLsbD c && (s.core c).failed).foldl (fun l c =>
    if (l.filter fun x => decide (dieOfCore x = dieOfCore c)).length + s.sparesUsed.getD (dieOfCore c) 0 < 2 then l ++ [c] else l) []

/-- A spare core takes a failed core's index. -/
def State.useSpare (s : State) (c : Nat) : State :=
  { s.updCore c fun _ => Core.blank with sparesUsed := s.sparesUsed.modify (dieOfCore c) (· + 1) }

/-- Installs a record. Enabling empties the queues, starts the tickets again, and is the reset of the partition that ends its
tacks: R188 names that reset and no rule says what it is. DEDUCED (log entry 57). A fault queue that cannot be used is no error
here (R298). -/
def State.installPartition (s : State) (n : Nat) (r : Partition) : State :=
  let old := s.partition n
  let s1 := (s.spareable r.cores).foldl State.useSpare s
  if r.enabled && !old.enabled then
    State.settleWrites { s1.updPartition n fun _ => r with
      tacks := s1.tacks.map fun t => if t.part = n then { t with state := .free, watch := [], holders := [] } else t
      launches := s1.launches.filter fun l => decide (l.part ≠ n)
      regionValues := s1.regionValues.filter fun v => decide (v.part ≠ n) }
  else
    s1.updPartition n fun o =>
      { r with nextSeq := o.nextSeq, nextWg := o.nextWg, swappedOut := o.swappedOut, inShadow := o.inShadow }

/-- R269, R271. A partition that is swapped out holds no core (R306). -/
def execPartitionRecord (d a : BitVec 6) (s : State) : Out :=
  s.portcmd d a 1 fun s va bs =>
    match partitionOfBytes bs with
    | none => s.trapAt .illegal va
    | some (n, r) =>
      let old := s.partition n
      let other (f : Partition → Bool) : Bool := (List.range 16).any fun m => decide (m ≠ n) && (s.partition m).enabled && f (s.partition m)
      if other fun p => !p.swappedOut && decide (p.cores &&& r.cores ≠ 0) then s.alu d conflict
      else if other fun p => decide (p.spaceid = r.spaceid) then s.alu d conflict
      else if s.workgroups.any fun w => decide (w.part = n) && w.onCore && !r.cores.getLsbD w.core then s.alu d inUse
      else if old.enabled && !r.enabled && s.launches.any fun l => decide (l.part = n) && l.open_ then s.alu d inUse
      else
        let s1 (s : State) : State := ((s.installPartition n r).noteFirst n).alu d 0
        if old.enabled && (decide (old.cores ≠ r.cores) || !(s.spareable r.cores).isEmpty) then s.afterTopos [n] s1 else s1 s

/-! ## Code 2: peer entries (R207) -/

/-- One entry, or none where a field breaks R207. -/
def peerOfBytes (part n : Nat) (bs : List Byte) : Option Peer :=
  let f := bodyField bs
  if f 2 1 ≤ 2 ∧ f 4 4 = 0 ∧ f 16 8 % 65536 = 0 ∧ f 24 8 = 0 ∧ (if f 2 1 = 2 then 2 ≤ f 3 1 ∧ f 3 1 ≤ 16 else f 3 1 = 0) then
    some ⟨part, n, f 0 2, f 2 1, f 3 1, f 8 8, f 16 8⟩
  else none

/-- R291 code 2. -/
def execPeerEntries (d a : BitVec 6) (s : State) : Out :=
  s.portcmd d a 2 fun s va bs =>
    let f := bodyField bs
    let part := f 0 1
    let first := f 2 2
    let count := f 4 2
    let es := (List.range count).map fun i => peerOfBytes part (first + i) ((bs.drop (8 + 32 * i)).take 32)
    if 16 ≤ part ∨ f 1 1 ≠ 0 ∨ f 6 2 ≠ 0 ∨ count = 0 ∨ 1024 < count ∨ 1024 < first + count ∨ bs.length ≠ 8 + 32 * count ∨
        (es.any fun e => e.isNone) then s.trapAt .illegal va
    else
      ({ s with peers := es.filterMap id ++ s.peers.filter fun p =>
          !(decide (p.part = part) && decide (first ≤ p.number) && decide (p.number < first + count)) } : State).alu d 0

/-! ## Code 3: reduction slots (R195) -/

/-- Grants or revokes one slot; either ends a round that it holds. -/
def State.giveSlot (s : State) (port n : Nat) (owner : Option Nat) : State :=
  s.setSlot { Slot.blank port n with owner := owner }

/-- R291 code 3. -/
def execReductionSlots (d a : BitVec 6) (s : State) : Out :=
  s.portcmd d a 3 fun s va bs =>
    let f := bodyField bs
    let part := f 0 1
    let port := f 1 1
    let slots := (List.range (f 4 2)).map (f 2 2 + ·)
    if bs.length ≠ 8 ∨ 16 ≤ part ∨ 16 ≤ port ∨ 1024 < f 2 2 + f 4 2 ∨ 2 ≤ f 6 1 ∨ f 7 1 ≠ 0 then s.trapAt .illegal va
    else if slots.any fun n =>
        match (s.slotAt port n).owner with
        | some o => decide (o ≠ part)
        | none => false then s.alu d conflict
    else
      (slots.foldl (fun s n =>
        if f 6 1 = 1 then (if (s.slotAt port n).owner = some part then s else s.giveSlot port n (some part))
        else s.giveSlot port n none) s).alu d 0

/-! ## Ethernet: what a port does in memory (R162, R272, R329) -/

def State.etherPort (s : State) (n : Nat) : EtherPort := s.ether.getD n EtherPort.blank

def State.updEther (s : State) (n : Nat) (f : EtherPort → EtherPort) : State := { s with ether := s.ether.modify n f }

/-- A core of the die on which a port sits: die 0 for port 0, die 2 for port 1. -/
def portCore (port : Nat) : Nat := 64 * port

/-- The unit of a port's engine. -/
def portUnit (port : Nat) : Nat := 600 + port

/-- A port engine's translation under a spaceid: the root is that of the partition whose record names the space. Space
without such a partition has no table. -/
def State.portXlate (s : State) (port space va n : Nat) (k : Access) : State × Except FaultClass Xlat :=
  match s.partOfSpace space with
  | none => (s, .error .protection)
  | some part =>
    match s.xlate ⟨portUnit port, space, (s.partition part).ptroot, true, false⟩ va n k true with
    | (s1, .error (c, _)) => (s1, .error c)
    | (s1, .ok x) =>
      if k = .write && x.pieces.any fun p => s1.marked (p.pa / 128) then (s1, .error .accumStore) else (s1, .ok x)

/-- The lines of a buffer that the first bytes of it take: each is read or written on its own (R162). -/
def bufferLines (va n : Nat) : List (Nat × Nat) := cutAt 128 (n / 128 + 2) va n

/-- The home slice of a line's part of a buffer accepts no access (R326, R327). -/
def State.portHolds (s : State) (port space va n : Nat) : Bool :=
  match (s.portXlate port space va n .read).2 with
  | .ok x => x.pieces.any fun p => s.homeHolds (dieOfCore (portCore port)) p.pa
  | .error _ => false

/-- A port reads one line's part of a frame at its home slice. -/
def State.portRead (s : State) (port : Nat) (o : EtherOp) (va n : Nat) : State × Except FaultClass (List Byte) :=
  match s.portXlate port o.space va n .read with
  | (s1, .error c) => (s1, .error c)
  | (s1, .ok x) =>
    if x.pieces.any fun p => (List.range p.len).any fun i => s1.byteBad Config.allCores (p.pa + i) then (s1, .error .memoryError)
    else
      (x.pieces.foldl (fun a p =>
        let (s2, b) := a.1.homeRead p.pa p.len
        (s2, a.2 ++ b)) (s1, ([] : List Byte)) |> fun r => (r.1, .ok r.2))

/-- A port asks for writes at the home slices. -/
def State.portWrite (s : State) (port : Nat) (src : WriteSource) (ps : List (Piece × List Byte)) : State :=
  ps.foldl (fun s p => s.ask ⟨portUnit port, [p.1], .write (cellsFrom p.1.pa p.2), src⟩) s

/-- Writes of received frames of a port wait. -/
def State.portHeld (s : State) (port : Nat) : Bool :=
  s.waitsAny fun x =>
    match x with
    | .port n _ => decide (n = port)
    | _ => false

/-- An operation ends: its completion word is stored with a DEVICE release, which wakes its steward core. A completion address
that does not translate receives nothing. -/
def State.etherDone (s : State) (port : Nat) (o : EtherOp) (outcome cls len : Nat) : State :=
  let w := toLe 8 (len * 2 ^ 16 + cls * 2 ^ 8 + outcome)
  match s.portXlate port o.space o.completion 8 .write with
  | (s1, .ok x) => s1.portWrite port (.completion o.space o.issuer) (cutBytes x.pieces w)
  | (s1, .error _) => s1.wakeIssuer o.issuer

/-- The result of an up command reaches the steward core that waits for it. -/
def State.answerCommand (s : State) (c : Option (PartyId × Nat × Nat)) (v : DWord) : State :=
  match c with
  | none => s
  | some (p, _, id) => s.updParty p fun q =>
      if id ∈ q.stallOn then { q with stallOn := q.stallOn.filter fun x => decide (x ≠ id), heldResult := some v } else q

/-- The bytes of a frame from its first on, as far as they have been read. -/
def EtherOp.prefixRead (o : EtherOp) : Nat → Nat → List Byte
  | 0, _ => []
  | f + 1, k =>
    match o.parts.find? fun p => decide (p.1 = k) with
    | some p => p.2 ++ o.prefixRead f (k + 1)
    | none => []

/-- What has left of a transmit: the bytes read in order from the first. -/
def EtherOp.sentBytes (o : EtherOp) : List Byte := o.prefixRead o.parts.length 0

/-- A transmit that has begun on the line and does not go on is cut short, with a bad check sequence (R330). -/
def State.cutShort (s : State) (port : Nat) (o : EtherOp) : State :=
  if o.began then s.updEther port fun e => { e with sent := (o.sentBytes, false) :: e.sent } else s

/-- The bytes that an operation which does not complete has moved: sent on the line, or received into its buffer (R329). -/
def EtherOp.moved (o : EtherOp) : Nat :=
  if o.transmit then (if o.began then o.sentBytes.length else 0) else (o.parts.map fun p => p.2.length).sum

/-- Ends every queued operation with outcome 3. What an aborted receive has written stays (R330). Frames that wait for a buffer are
lost with the link. -/
def State.etherAbort (s : State) (port : Nat) : State :=
  (s.etherPort port).queue.foldl (fun s o => (s.cutShort port o).etherDone port o 3 0 o.moved)
    (s.updEther port fun e => { e with up := false, queue := [], waiting := [], pausing := [] })

/-! ## The boot status of step 4 (R332) -/

/-- The up command of a port has ended: 0 and 1 are the Ethernet ports, 2 to 17 the fabric ports. Step 4 of R332 ends with the last
of them, and the boot status then says whether an Ethernet port came up; after a failure it turns to ready with the first that
does. That every port is tried before the step has ended is DEDUCED (log entry 6). -/
def State.tried (s : State) (n : Nat) : State :=
  let tried := addNew n s.portsTried
  let up := s.ether.any (·.up)
  { s with
    portsTried := tried
    bootStatus :=
      if s.bootStatus = 0x03 ∧ (List.range 18).all (fun k => decide (k ∈ tried)) then (if up then 0x04 else 0xE4)
      else if s.bootStatus = 0xE4 ∧ up = true then 0x04
      else s.bootStatus }

/-! ## Code 4: Ethernet commands -/

/-- A body of code 4: port, space, priority, buffer, length, completion; none where a field breaks R329. -/
structure EtherBody where
  port : Nat
  space : Nat
  priority : Nat
  buffer : Nat
  length : Nat
  completion : Nat
deriving DecidableEq, Repr

def EtherBody.ofBytes (op : Nat) (bs : List Byte) : Option EtherBody :=
  let f := bodyField bs
  let b : EtherBody := ⟨f 0 1, f 2 2, f 4 1, f 8 8, f 16 4, f 24 8⟩
  let ok : Bool :=
    match op with
    | 2 => decide (b.priority ≤ 7 ∧ 64 ≤ b.length ∧ b.length ≤ 9216 ∧ b.completion % 8 = 0)
    | 3 => decide (b.priority = 0 ∧ b.length = 9216 ∧ b.completion % 8 = 0)
    | _ => decide (b.space = 0 ∧ b.priority = 0 ∧ b.buffer = 0 ∧ b.length = 0 ∧ b.completion = 0)
  if bs.length = 32 ∧ b.port ≤ 1 ∧ f 1 1 = op ∧ allZero ((bs.drop 5).take 3) ∧ f 20 4 = 0 ∧ ok then some b else none

def State.etherCmd (s : State) (d a : BitVec 6) (op : Nat) (k : State → EtherBody → State) : Out :=
  s.portcmd d a 4 fun s va bs =>
    match EtherBody.ofBytes op bs with
    | none => s.trapAt .illegal va
    | some b => k s b

/-- R329 op 0. The steward core waits for the link or the timeout. -/
def execEthernetUp (d a : BitVec 6) (s : State) : Out :=
  s.etherCmd d a 0 fun s b =>
    let e := s.etherPort b.port
    if e.up then s.alu d 0
    else if e.command.isSome then s.alu d inUse
    else
      (({ s with fresh := s.fresh + 1 } : State).updEther b.port fun e => { e with command := some (s.actor, s.clk, s.fresh) }).upd
        fun q => { q with stallOn := [s.fresh] }

/-- R330. An up command that waits for the link is answered, as when it does not come up: the spec does not say. DESIGN CHOICE (log
entry 58); unsafe. -/
def execEthernetDown (d a : BitVec 6) (s : State) : Out :=
  s.etherCmd d a 1 fun s b =>
    let e := s.etherPort b.port
    let s1 := ((s.etherAbort b.port).answerCommand e.command inUse).updEther b.port fun e => { e with command := none }
    (if e.command.isSome then s1.tried b.port else s1).alu d 0

/-- Queues an operation. -/
def State.etherQueue (s : State) (d : BitVec 6) (transmit : Bool) (b : EtherBody) : State :=
  if 1024 ≤ (s.etherPort b.port).queue.length then s.alu d inUse
  else
    (s.updEther b.port fun e =>
      { e with queue := e.queue ++ [⟨transmit, b.space, b.priority, b.buffer, b.length, b.completion, s.actor, false, [], []⟩] }).alu d 0

/-- R329 op 2. -/
def execEthernetTransmit (d a : BitVec 6) (s : State) : Out := s.etherCmd d a 2 fun s b => s.etherQueue d true b

/-! ## Flow control (R328) -/

/-- A field of a frame: its first byte is the highest. -/
def beField (bs : List Byte) (off n : Nat) : Nat := le ((bs.drop off).take n).reverse

/-- A priority flow control frame of IEEE 802.1Qbb: its destination, type and operation code, the priorities that it names and
their times in quanta of 512 bits, of 64 / 25 `clk` at 800 Gb/s. R328 names the standard, which gives this form. PRESUMED (log
entry 56); unsafe. -/
def pauseOf (bs : List Byte) : Option (List (Option Nat)) :=
  if beField bs 0 6 = 0x0180C2000001 ∧ beField bs 12 2 = 0x8808 ∧ beField bs 14 2 = 0x0101 then
    some ((List.range 8).map fun p => if (beField bs 16 2).testBit p then some (beField bs (18 + 2 * p) 2) else none)
  else none

/-- The frame with which a port pauses a priority of its partner for a time, or lets it go with 0. -/
def pauseFrame (port p quanta : Nat) : List Byte :=
  let be (n v : Nat) : List Byte := (toLe n v).reverse
  be 6 0x0180C2000001 ++ be 6 (Config.portAddress port).toNat ++ be 2 0x8808 ++ be 2 0x0101 ++ be 2 (2 ^ p) ++
    ((List.range 8).flatMap fun i => be 2 (if i = p then quanta else 0)) ++ List.replicate 30 0

/-- The priority of a frame: that of its 802.1Q tag, else 0 (log entry 56). -/
def framePriority (bs : List Byte) : Nat := if beField bs 12 2 = 0x8100 then beField bs 14 2 / 2 ^ 13 else 0

/-- A port sends a flow control frame: at a time of 0 the priority is let go. -/
def State.sendPause (s : State) (port p quanta : Nat) : State :=
  s.updEther port fun e =>
    { e with
      sent := (pauseFrame port p quanta, true) :: e.sent
      pausing := if quanta = 0 then e.pausing.filter fun x => decide (x ≠ p) else addNew p e.pausing }

/-- The first receive that has no frame. -/
def EtherPort.freeReceive (e : EtherPort) : Option Nat := e.queue.findIdx? fun o => !o.transmit && o.frame.isEmpty

/-- The oldest frame that waits takes a free buffer; with the last of its priority the priority is let go. -/
def State.takeWaiting (s : State) (port : Nat) : State :=
  let e := s.etherPort port
  match e.waiting, e.freeReceive with
  | f :: fs, some k =>
    let s1 := s.updEther port fun e => { e with waiting := fs, queue := e.queue.modify k fun o => { o with frame := f } }
    if fs.any fun g => decide (framePriority g = framePriority f) then s1 else s1.sendPause port (framePriority f) 0
  | _, _ => s

/-- R329 op 3. -/
def execPostReceiveBuffer (d a : BitVec 6) (s : State) : Out :=
  s.etherCmd d a 3 fun s b => (s.etherQueue d false b).takeWaiting b.port

/-! ## Ethernet events -/

/-- Changes an operation of a port's queue. -/
def State.updOp (s : State) (port k : Nat) (f : EtherOp → EtherOp) : State :=
  s.updEther port fun e => { e with queue := e.queue.modify k f }

/-- An operation leaves the queue and ends. -/
def State.endOp (s : State) (port k : Nat) (o : EtherOp) (outcome cls len : Nat) : State :=
  (s.updEther port fun e => { e with queue := e.queue.eraseIdx k }).etherDone port o outcome cls len

/-- A transmit may begin on the line: no other has begun, no earlier one of its priority waits, and the port's partner has not
paused the priority (R328). -/
def EtherPort.mayBegin (e : EtherPort) (k : Nat) (o : EtherOp) (clk : Nat) : Bool :=
  !(e.queue.any fun x => x.began) && !((e.queue.take k).any fun x => x.transmit && decide (x.priority = o.priority)) &&
    decide (e.paused.getD o.priority 0 ≤ clk)

/-- R329. `args.x` is the port and `args.y` a transmit's place in its queue. `args.flag`: its frame begins on the line; else
with `args.z` = n + 1 line n of its buffer is read, and with 0 the frame, which has begun and been read whole, has left. -/
def execEthernetTransmitDone (s : State) : Out :=
  let port := s.args.x
  let e := s.etherPort port
  let k := s.args.y
  .next (match e.queue[k]? with
  | none => s
  | some o =>
    let lines := bufferLines o.buffer o.length
    if !e.up || !o.transmit || s.holds .ethernet (portCore port) then s
    else if s.args.flag then (if e.mayBegin k o s.clk then s.updOp port k fun o => { o with began := true } else s)
    else if s.args.z = 0 then
      if o.began && decide (o.parts.length = lines.length) then
        (s.updEther port fun e => { e with sent := (o.sentBytes, true) :: e.sent }).endOp port k o 1 0 o.length
      else s
    else
      match lines[s.args.z - 1]? with
      | none => s
      | some (va, n) =>
        if (o.parts.any fun p => decide (p.1 = s.args.z - 1)) || s.portHolds port o.space va n then s
        else
          match s.portRead port o va n with
          | (s1, .error c) => (s1.cutShort port o).endOp port k o 2 c.code o.moved
          | (s1, .ok bs) => s1.updOp port k fun o => { o with parts := o.parts ++ [(s.args.z - 1, bs)] })

/-- The port's partner pauses priorities, or lets them go with a time of 0. -/
def EtherPort.pause (e : EtherPort) (ts : List (Option Nat)) (clk : Nat) : EtherPort :=
  { e with paused := e.paused.mapIdx fun p t =>
      match ts.getD p none with
      | some q => clk + (64 * q + 24) / 25
      | none => t }

/-- A frame arrives: priority flow control acts on the port; else the first receive that has none takes it. With no buffer it waits,
and the port pauses its priority (R328): how many frames a port holds the spec does not say, and the model loses none. DESIGN
CHOICE (log entry 56); unsafe. One with a wrong check sequence is dropped. -/
def State.frameArrives (s : State) (port : Nat) (bs : List Byte) (bad : Bool) : State :=
  let e := s.etherPort port
  match bad, pauseOf bs with
  | false, some ts => s.updEther port fun e => e.pause ts s.clk
  | _, _ =>
    match e.freeReceive with
    | none =>
      if bad then s
      else (s.updEther port fun e => { e with waiting := e.waiting ++ [bs] }).sendPause port (framePriority bs) 0xFFFF
    | some k =>
      if bad then
        (match e.queue[k]? with
         | some o => s.endOp port k o 4 0 0
         | none => s)
      else s.updOp port k fun o => { o with frame := bs }

/-- R329. `args.x` is the port. `args.bytes`, if not empty, is a frame that has arrived; `args.flag`: its check sequence is
wrong. Else `args.y` is a receive's place in the queue: with `args.z` = n + 1 line n of its frame is written, and with 0 its
completion word follows once every line has been and no write is held (R162). -/
def execEthernetFrameReceive (s : State) : Out :=
  let port := s.args.x
  let e := s.etherPort port
  let k := s.args.y
  .next (if !e.up || s.holds .ethernet (portCore port) then s
  else if !s.args.bytes.isEmpty then
    if s.args.bytes.length < 64 ∨ 9216 < s.args.bytes.length then s else s.frameArrives port s.args.bytes s.args.flag
  else
    match e.queue[k]? with
    | none => s
    | some o =>
      let lines := bufferLines o.buffer o.frame.length
      if o.transmit || o.frame.isEmpty then s
      else if s.args.z = 0 then
        if decide (o.parts.length = lines.length) && !s.portHeld port then s.endOp port k o 1 0 o.frame.length else s
      else
        match lines[s.args.z - 1]? with
        | none => s
        | some (va, n) =>
          if o.parts.any fun p => decide (p.1 = s.args.z - 1) then s
          else
            match s.portXlate port o.space va n .write with
            | (s1, .error c) => s1.endOp port k o 2 c.code o.moved
            | (s1, .ok x) =>
              let bs := (o.frame.drop (va - o.buffer)).take n
              (s1.portWrite port (.port port o.space) (cutBytes x.pieces bs)).updOp port k fun o =>
                { o with parts := o.parts ++ [(s.args.z - 1, bs)] })

/-- R330. `args.x` is the port. -/
def execEthernetLinkFailure (s : State) : Out :=
  .next (if (s.etherPort s.args.x).up then s.etherAbort s.args.x else s)

/-- R329. `args.x` is the port: an up command is done. -/
def execEthernetLinkUp (s : State) : Out :=
  let e := s.etherPort s.args.x
  .next (if e.command.isNone then s
  else ((s.answerCommand e.command 0).updEther s.args.x fun e => { e with up := true, command := none }).tried s.args.x)

/-- `clk` counts of 500 ms and 200 ms. -/
def ms500 : Nat := 500 * Config.ms1
def ms200 : Nat := 200 * Config.ms1

/-- R329. `args.x` is the port: its link has not come up within 500 ms. -/
def execEthernetUpTimeout (s : State) : Out :=
  let e := s.etherPort s.args.x
  .next (match e.command with
  | some (_, t, _) =>
    if t + ms500 ≤ s.clk then
      ((s.answerCommand e.command inUse).updEther s.args.x fun e => { e with command := none }).tried s.args.x
    else s
  | none => s)

end Sys2Proof.Machine
end

