-- ==== Sys2Proof/Machine/Fabric.lean ====
section
/-!
DEFINITION. Fabric ports and links (R307, R331) and packets (R156, R157, R208, R209, R308).
-/

namespace Sys2Proof.Machine

def State.fabricPort (s : State) (n : Nat) : FabricPort := s.fabric.getD n FabricPort.blank

def State.updFabric (s : State) (n : Nat) (f : FabricPort → FabricPort) : State := { s with fabric := s.fabric.modify n f }

/-! ## Code 5: fabric commands (R331) -/

/-- Port and link mask of a body of code 5, or none where a field breaks R331. -/
def fabricBody (op : Nat) (bs : List Byte) : Option (Nat × Nat) :=
  let f := bodyField bs
  if bs.length = 8 ∧ f 0 1 < 16 ∧ f 1 1 = op ∧ allZero ((bs.drop 3).take 5) ∧ (if op = 0 then f 2 1 < 16 else f 2 1 = 0) then
    some (f 0 1, f 2 1)
  else none

def State.fabricCmd (s : State) (d a : BitVec 6) (op : Nat) (k : State → Nat → Nat → State) : Out :=
  s.portcmd d a 5 fun s va bs =>
    match fabricBody op bs with
    | none => s.trapAt .illegal va
    | some (port, mask) => k s port mask

/-- R331 op 0. The steward core waits until a link has trained, or for the timeout. -/
def execFabricPortUp (d a : BitVec 6) (s : State) : Out :=
  s.fabricCmd d a 0 fun s port mask =>
    let f := s.fabricPort port
    let s1 := s.updFabric port fun f => { f with links := f.links.mapIdx fun i l => { l with enabled := mask.testBit i } }
    if f.command.isSome then s.alu d inUse
    else if f.up && (s1.fabricPort port).links.any fun l => l.enabled && l.up then s1.alu d 0
    else
      (({ s1 with fresh := s1.fresh + 1 } : State).updFabric port fun f => { f with command := some (s.actor, s.clk, s.fresh) }).upd
        fun q => { q with stallOn := [s.fresh] }

/-- The packets in the retry buffers of a port. -/
def FabricPort.unacked (f : FabricPort) : List Packet := f.links.flatMap fun l => l.retry.map (·.packet)

/-- R331 op 1. The retry buffers are emptied: what was not acknowledged is sent again over other ports (R308). A FRED instruction on a
slot of a port that is down sets UNREACHABLE (`State.fred`). An up command that waits for a link is answered, as when no link
trains: the spec does not say. DESIGN CHOICE (log entry 58); unsafe. -/
def execFabricPortDown (d a : BitVec 6) (s : State) : Out :=
  s.fabricCmd d a 1 fun s port _ =>
    let f := s.fabricPort port
    let s1 := (s.answerCommand f.command inUse).updFabric port fun _ => FabricPort.blank
    let s2 := f.unacked.foldl (fun s k => s.emit k.device k.seq k.body) s1
    (if f.command.isSome then s2.tried (2 + port) else s2).alu d 0

/-- The links of a port that are up, as a mask. -/
def FabricPort.linksUp (f : FabricPort) : Nat := (f.links.mapIdx fun i l => if l.up then 2 ^ i else 0).sum

/-- R331 op 2. -/
def execFabricPortQuery (d a : BitVec 6) (s : State) : Out :=
  s.fabricCmd d a 2 fun s port _ =>
    let f := s.fabricPort port
    s.alu d (dw (f.device.getD 0xFFFF * 2 ^ 32 + f.linksUp))

/-! ## Links (R307, R331) -/

/-- A link comes up. The routing weight of R307 has no value in the spec: every link of a port starts with the same, which one to
three survivors can share. DESIGN CHOICE (log entry 58); safe, since no rule makes a route depend on it. -/
def Link.raise (l : Link) : Link := { l with up := true, weight := 12 }

/-- R331. `args.x` is the port, `args.y` the link that has trained and `args.z` the device number that the switch
assigns. -/
def execFabricLinkTrained (s : State) : Out :=
  let port := s.args.x
  let f := s.fabricPort port
  .next (if !((f.links.getD s.args.y Link.blank).enabled) || decide (65535 ≤ s.args.z) then s
  else
    let other := (List.range 16).any fun n => decide (n ≠ port) && (s.fabricPort n).up && decide ((s.fabricPort n).device ≠ some s.args.z)
    if !f.up && f.command.isNone then s
    else if !f.up && other then
      -- the port stays down
      ((s.answerCommand f.command conflict).updFabric port fun f => { f with command := none }).tried (2 + port)
    else
      (((s.answerCommand f.command 0).updFabric port fun f =>
        { f with up := true, device := if f.up then f.device else some s.args.z, command := none }).updLink port s.args.y
          Link.raise).tried (2 + port))

/-- R331. `args.x` is the port: no link has trained within 200 ms. -/
def execFabricUpTimeout (s : State) : Out :=
  .next (match (s.fabricPort s.args.x).command with
  | some c =>
    if c.2.1 + ms200 ≤ s.clk then
      ((s.answerCommand (some c) inUse).updFabric s.args.x fun f => { f with command := none }).tried (2 + s.args.x)
    else s
  | none => s)

/-- Packets leave over links of a port in turn, each under its link's next number. -/
def State.spread (s : State) (port : Nat) (links : List Nat) (ks : List Packet) : State :=
  (ks.mapIdx fun i k => (i, k)).foldl (fun s x =>
    match links[x.1 % links.length]? with
    | none => s
    | some l => { s.updLink port l fun l => l.put x.2 with outbox := s.outbox ++ [x.2] }) s

/-- A link fails: its retry buffer moves to the port's surviving links, which send it again under their own numbers and share its
routing weight. A port with none is down. -/
def State.failLink (s : State) (port link : Nat) : State :=
  let lost := (s.fabricPort port).links.getD link Link.blank
  let s1 := s.updLink port link fun l => { Link.blank with enabled := l.enabled }
  let up := (List.range 4).filter fun k => ((s1.fabricPort port).links.getD k Link.blank).up
  match up with
  | [] => s1.updFabric port fun f => { f with up := false, device := none }
  | k :: r =>
    let share (l : Link) (n : Nat) : Link := { l with weight := l.weight + n }
    let s2 := r.foldl (fun s i => s.updLink port i fun l => share l (lost.weight / up.length)) s1
    (s2.updLink port k fun l => share l (lost.weight / up.length + lost.weight % up.length)).spread port up (lost.retry.map (·.packet))

/-- R307. `args.x` is the port and `args.y` the link, which has lost lock. -/
def execLinkFailure (s : State) : Out :=
  .next (if ((s.fabricPort s.args.x).links.getD s.args.y Link.blank).up then s.failLink s.args.x s.args.y else s)

/-- R307. `args.x` is the port, `args.y` the link and `args.z` a link sequence number. `args.flag`: the receiver has
acknowledged every flit up to it. Else it asks for a resend from it, and the flits from there on leave again; after sixteen
resends in a row that have failed the link does. -/
def execLinkResendRequest (s : State) : Out :=
  let l := (s.fabricPort s.args.x).links.getD s.args.y Link.blank
  .next (if !l.up then s
  else if s.args.flag then
    s.updLink s.args.x s.args.y fun l => { l with retry := l.retry.filter fun x => decide (s.args.z < x.seq), failedResends := 0 }
  else if 16 ≤ l.failedResends then s.failLink s.args.x s.args.y
  else
    { s.updLink s.args.x s.args.y fun l => { l with failedResends := l.failedResends + 1 } with
      outbox := s.outbox ++ (l.retry.filter fun x => decide (s.args.z ≤ x.seq)).map (·.packet) })

/-- R307. `args.x` is the port, `args.y` the link, `args.z` the flit's link sequence number; `args.flag`: its check has failed.
A flit that fails is discarded and a resend asked for; one that was accepted before is discarded. -/
def execFlitReceive (s : State) : Out :=
  .next (if !((s.fabricPort s.args.x).links.getD s.args.y Link.blank).up then s
  else s.updLink s.args.x s.args.y fun l =>
    if s.args.flag then { l with askedResend := true }
    else { l with accepted := addNew s.args.z l.accepted, askedResend := false })

/-! ## Packets for this module -/

/-- A request may be performed: memory of this module that exists, within one line, not of a fenced device (R157). -/
def State.servable (s : State) (device addr n : Nat) (k : Access) : Bool :=
  decide (device ∉ s.fenced) && s.physOk addr n k && decide (addr % 128 + n ≤ 128) && decide (0 < n) &&
    !(k = .write && s.marked (addr / 128)) && !((List.range n).any fun i => s.byteBad Config.allCores (addr + i))

/-- Answers to this module's loads. -/
def State.answerLoads (s : State) (device req : Nat) (bs : List Byte) : State :=
  { s with parties := s.parties.map fun q =>
      { q with loads := q.loads.map fun l =>
          { l with reqs := l.reqs.map fun r =>
              if r.device = device ∧ r.seq = req ∧ r.answer = none then { r with answer := some bs } else r } } }

/-- The line that a load of this module has asked a copy of, and the die whose core did. -/
def State.askedLine (s : State) (device req : Nat) : Option (Nat × Nat) :=
  s.parties.findSome? fun q => (q.loads.flatMap fun l => l.reqs).findSome? fun r =>
    if r.device = device ∧ r.seq = req ∧ r.answer = none then r.line.map fun l => (l, dieOfCore q.core) else none

/-- This module's S copy of a line of another device (R156), in the L2 of the die that asked for it. Where that is full the oldest
one goes. -/
def State.fillRemote (s : State) (device line die : Nat) (bs : List Byte) : State :=
  State.fitRemote { s with
    remoteCopies := (s.remoteCopies.filter fun c => !decide (c.device = device ∧ c.line = line)) ++ [⟨device, line, die, bs⟩] }

/-- The queue entry that a packet of this module carries. -/
def State.entryOfReq (s : State) (device req : Nat) : Option (PartyId × Nat) :=
  s.parties.findSome? fun q => q.sq.findSome? fun e =>
    match e.body with
    | .remoteStore _ d _ _ => if d = device ∧ e.req = some req ∧ e.held = false then some (q.id, e.id) else none
    | .remoteAtomic _ d _ _ _ _ _ => if d = device ∧ e.req = some req ∧ e.held = false then some (q.id, e.id) else none
    | _ => none

/-- A number that no translating unit has: packets name physical addresses. -/
def packetUnit : Nat := 2000

/-- The packets to a device that wait for an acknowledgement, but for one that has it. -/
def State.acknowledged (s : State) (device seq : Nat) : State :=
  { s with sent := s.sent.filter fun p => !(decide (p.device = device) && decide (p.seq = seq)) }

/-- What a packet does at its destination (R149, R156, R158). -/
def State.applyPacket (s : State) (device seq : Nat) : PacketBody → State
  | .load addr n shared =>
    if s.servable device addr n .read then
      let line := addr / 128
      -- a line of an accumulator region is read, and no S copy of it is kept (R138)
      if shared && !s.marked line then
        let s1 := s.recallAll line
        State.send { s1 with sharers := addNew (line, device) s1.sharers } device (.data seq (readBytes s1.mem addr n))
      else
        let (s1, bs) := s.homeRead addr n
        s1.send device (.data seq bs)
    else s.send device (.refusal seq)
  | .store addr bs =>
    if s.servable device addr bs.length .write then
      s.ask ⟨packetUnit, [], .write (cellsFrom addr bs), .packet device seq⟩
    else s.send device (.refusal seq)
  | .atomic addr op x c =>
    let n := atomSize (wideCode op)
    if s.servable device addr n .write && decide (addr % n = 0) then
      s.ask ⟨packetUnit, [], .atomic addr (laneAtomFn op) (wideCode op) x c, .packet device seq⟩
    else s.send device (.refusal seq)
  | .data req bs =>
    (match s.entryOfReq device req with
     | some (p, id) => s.entryDone p id (le bs) (decide (bs.length = 8))
     | none =>
       let s1 := match s.askedLine device req with
         | some (line, die) => s.fillRemote device line die bs
         | none => s
       s1.answerLoads device req bs)
  | .done req =>
    (match s.entryOfReq device req with
     | some (p, id) => s.entryDone p id 0 false
     | none => s)
  | .refusal req =>
    (match s.entryOfReq device req with
     | some (p, id) => s.failEntry p id
     | none => s.answerLoads device req [])
  | .invalidate _ line =>
    State.send { s with remoteCopies := s.remoteCopies.filter fun c => !decide (c.device = device ∧ c.line = line) } device
      (.done seq)
  | .ack n => s.acknowledged device n

/-- The line that a packet reads or writes here, and whether it reads. -/
def PacketBody.access : PacketBody → Option (Nat × Bool)
  | .load addr _ _ => some (addr / 128, true)
  | .store addr _ => some (addr / 128, false)
  | .atomic addr _ _ _ => some (addr / 128, false)
  | _ => none

/-- A packet is not accepted yet: the fabric or the home slice of its line holds back accesses (R326), or it reads a line that an earlier packet of its
channel is still to write (R158). -/
def State.packetWaits (s : State) (p : Packet) : Bool :=
  match PacketBody.access p.body with
  | none => false
  | some (line, reads) =>
    let mine (op : HomeOp) (src : WriteSource) : Bool := decide (op.line = line) &&
      match src with
      | .packet d _ => decide (d = p.device)
      | _ => false
    s.dieHolds .fabric (homeDie (line * 128)) || s.sliceHolds (line * 128) ||
      (reads && ((s.asks.any fun a => mine a.op a.source) || s.held.any fun h => mine h.op h.source))

def PacketBody.isAck : PacketBody → Bool
  | .ack _ => true
  | _ => false

/-- R308. `args.pkt` has arrived, in the order of its channel (R158); `args.flag`: it ends with an abort code, and is discarded.
A sequence number that was accepted before is discarded too. Either way an accepted number is acknowledged. A packet from a
device shows that it can be reached. -/
def execPacketReceive (s : State) : Out :=
  let p := s.args.pkt
  .next (if s.args.flag || s.route.isNone then s
  else if PacketBody.isAck p.body then s.applyPacket p.device p.seq p.body
  else if (p.device, p.seq) ∈ s.acceptedSeqs then s.emit p.device 0 (.ack p.seq)
  else if s.packetWaits p then s
  else
    let s1 : State :=
      { s with
        acceptedSeqs := s.acceptedSeqs ++ [(p.device, p.seq)]
        deadDevices := s.deadDevices.filter fun d => decide (d ≠ p.device) }
    ((s1.emit p.device 0 (.ack p.seq)).applyPacket p.device p.seq p.body).settleAll)

/-- R308. `args.x` is the device that has acknowledged packet `args.y`: it is kept no longer. `args.flag`: a switch has taken
contribution `args.x` to a reduction and answers it (R197). -/
def execPacketAcknowledge (s : State) : Out :=
  .next (if s.args.flag then s.takePut s.args.x else s.acknowledged s.args.x s.args.y)

/-- R308. `args.x` is the device and `args.y` the packet, not acknowledged for 20 microseconds. -/
def execPacketResendTimeout (s : State) : Out :=
  .next (match s.sent.find? fun p => decide (p.device = s.args.x ∧ p.seq = s.args.y) with
  | none => s
  | some p =>
    if s.clk < p.sentAt + Config.us20 then s
    else
      State.emit
        { s with sent := updAll (fun x => decide (x.device = p.device ∧ x.seq = p.seq)) (fun x => { x with sentAt := s.clk }) s.sent }
        p.device p.seq p.body)

/-- Every access of this module that waits on a device fails (R308). -/
def State.failDevice (s : State) (device : Nat) : State :=
  let far (e : SqEntry) : Bool :=
    match e.body with
    | .remoteStore _ d _ _ => decide (d = device)
    | .remoteAtomic _ d _ _ _ _ _ => decide (d = device)
    | _ => false
  { s with
    deadDevices := addNew device s.deadDevices
    sent := s.sent.filter fun p => decide (p.device ≠ device)
    parties := s.parties.map fun q =>
      { q with
        sq := q.sq.map fun e => if far e then { e with held := true, req := some (e.req.getD 0) } else e
        loads := q.loads.map fun l =>
          { l with reqs := l.reqs.map fun r => if r.device = device ∧ r.answer = none then { r with answer := some [] } else r } } }

/-- R308. `args.x` is the device: a packet to it has had no acknowledgement for 1 ms over any path. `args.flag`: `args.x` is a
contribution to a reduction that has had no answer (R197). -/
def execDestinationUnreachable (s : State) : Out :=
  .next (if s.args.flag then s.losePut s.args.x
  else if s.sent.any fun p => decide (p.device = s.args.x ∧ p.firstAt + Config.ms1 ≤ s.clk) then s.failDevice s.args.x else s)

end Sys2Proof.Machine
end

