-- ==== Sys2Proof/Machine/Measure.lean ====
section
/-!
DEFINITION. MEASURE (R292, R293) with SHAKE256.
-/

namespace Sys2Proof.Machine

/-! ## SHAKE256 -/

/-- The round constants of Keccak-f[1600]. -/
def keccakRc : List DWord :=
  [0x0000000000000001, 0x0000000000008082, 0x800000000000808A, 0x8000000080008000, 0x000000000000808B, 0x0000000080000001,
   0x8000000080008081, 0x8000000000008009, 0x000000000000008A, 0x0000000000000088, 0x0000000080008009, 0x000000008000000A] ++
  [0x000000008000808B, 0x800000000000008B, 0x8000000000008089, 0x8000000000008003, 0x8000000000008002, 0x8000000000000080,
   0x000000000000800A, 0x800000008000000A, 0x8000000080008081, 0x8000000000008080, 0x0000000080000001, 0x8000000080008008]

/-- The rotation of lane x + 5 y. -/
def keccakRot : List Nat :=
  [0, 1, 62, 28, 27, 36, 44, 6, 55, 20, 3, 10, 43, 25, 39, 41, 45, 15, 21, 8, 18, 2, 61, 56, 14]

/-- One round on the 25 lanes. -/
def keccakRound (a : List DWord) (rc : DWord) : List DWord :=
  let lane (l : List DWord) (i : Nat) : DWord := l.getD i 0
  let c := (List.range 5).map fun x => lane a x ^^^ lane a (x + 5) ^^^ lane a (x + 10) ^^^ lane a (x + 15) ^^^ lane a (x + 20)
  let d := (List.range 5).map fun x => lane c ((x + 4) % 5) ^^^ (lane c ((x + 1) % 5)).rotateLeft 1
  let b := (List.range 25).map fun i =>
    let x := (i % 5 + 3 * (i / 5)) % 5
    let j := x + 5 * (i % 5)
    (lane a j ^^^ lane d x).rotateLeft (keccakRot.getD j 0)
  (List.range 25).map fun i =>
    let y := i / 5 * 5
    let v := lane b i ^^^ (~~~(lane b ((i + 1) % 5 + y)) &&& lane b ((i + 2) % 5 + y))
    if i = 0 then v ^^^ rc else v

/-- Keccak-f[1600]. -/
def keccakF (a : List DWord) : List DWord := keccakRc.foldl keccakRound a

/-- A block of 136 bytes as lanes. -/
def keccakLanes (block : List Byte) : List DWord := (List.range 17).map fun i => dw (le ((block.drop (8 * i)).take 8))

/-- The padding of SHAKE256, which fills the last block of 136 bytes. -/
def shakePad (n : Nat) : List Byte := if n = 1 then [0x9F] else 0x1F :: (List.replicate (n - 2) 0 ++ [0x80])

/-- Absorbs blocks. -/
def keccakAbsorb : Nat → List Byte → List DWord → List DWord
  | 0, _, a => a
  | n + 1, m, a =>
    let b := keccakLanes m
    keccakAbsorb n (m.drop 136) (keccakF (a.mapIdx fun i x => x ^^^ b.getD i 0))

/-- The first 64 bytes of SHAKE256 of a message. -/
def shake256 (m : List Byte) : List Byte :=
  ((keccakAbsorb (m.length / 136 + 1) (m ++ shakePad (136 - m.length % 136)) (List.replicate 25 0)).take 8).flatMap fun l => toLe 8 l.toNat

/-! ## Writing an object -/

/-- Bytes written by a SYS instruction: asked for at the home slices of their lines, and performed before the next
instruction issues (R285). `progress`: they have been asked for. The core's own clean copies of the lines go. -/
def State.writeObject (s : State) (va : Nat) (bs : List Byte) (k : State → State) : State :=
  let q := s.me
  let src : WriteSource := .service q.id
  let go (s : State) : State := if s.waitsFor src then s else k (s.upd fun q => { q with progress := 0 })
  if q.progress = 1 then go s
  else if !q.sq.isEmpty then s
  else
    match s.checkAccess q va bs.length .write false true with
    | (s1, .fault c a r) => s1.accessFault va c a r
    | (s1, .ok x) =>
      go (((cutBytes x.pieces bs).foldl (fun s p =>
        (s.updCore q.core fun c => { c with clean := c.clean.filter fun l => decide (l.line ≠ p.1.pa / 128) }).ask
          ⟨q.core, [p.1], .write (cellsFrom p.1.pa p.2), src⟩) s1).upd fun q => { q with progress := 1 })

/-! ## MEASURE -/

def State.slotBytes (s : State) (n : Nat) : List Byte := s.slotsMeasured.getD n (List.replicate 64 0)

/-- A measurement slot takes 64 bytes in. -/
def State.extendSlot (s : State) (n : Nat) (bs : List Byte) : State :=
  { s with slotsMeasured := s.slotsMeasured.set n (shake256 (s.slotBytes n ++ bs)) }

/-- R292 mod 0. -/
def execMeasureExt (d a b : BitVec 6) (s : State) : Out :=
  s.stewardOnly (s.scalar [d] [a, b] fun s =>
    let n := (s.rd b).toNat
    if 8 ≤ n then s.trap .illegal
    else
      s.readRecord (s.rd a).toNat 64 fun s1 bs =>
        if s1.slotsClosed.getD n false then s1.alu d closed
        else (s1.extendSlot n bs).alu d 0)

/-- R292 mod 1. -/
def execMeasureRead (a b : BitVec 6) (s : State) : Out :=
  s.stewardOnly (s.scalar [] [a, b] fun s =>
    let n := (s.rd b).toNat
    let va := (s.rd a).toNat
    if 8 ≤ n then s.trap .illegal
    else if va % 64 ≠ 0 then s.trapAt .alignment va
    else s.writeObject va (s.slotBytes n) State.adv)

/-- R292 mod 2. -/
def execMeasureClose (b : BitVec 6) (s : State) : Out :=
  s.stewardOnly (s.scalar [] [b] fun s =>
    let n := (s.rd b).toNat
    if 8 ≤ n then s.trap .illegal
    else ({ s with slotsClosed := s.slotsClosed.set n true } : State).adv)

/-- The 768 bytes of a quote of report data (R293). -/
def State.quote (s : State) (core : Nat) (data : List Byte) : List Byte :=
  let signed := toLe 4 1 ++ toLe 4 Config.yrev ++ toLe 8 (s.clkOf core).toNat ++ data ++ (List.range 8).flatMap s.slotBytes
  signed ++ ((List.range 114).map fun i => Config.signature signed i) ++ List.replicate 62 0

/-- R292 mod 3, R293. -/
def execMeasureQuote (d a b : BitVec 6) (s : State) : Out :=
  s.stewardOnly (s.scalar [d] [a, b] fun s =>
    let va := (s.rd a).toNat
    if va % 64 ≠ 0 then s.trapAt .alignment va
    else if s.me.progress = 1 then s.writeObject va [] fun s => s.alu d 0
    else
      s.readRecord (s.rd b).toNat 64 fun s1 bs =>
        s1.writeObject va (s1.quote s1.me.core bs) fun s => s.alu d 0)

/-- R292 mod 4. -/
def execMeasureKey (a : BitVec 6) (s : State) : Out :=
  s.stewardOnly (s.scalar [] [a] fun s =>
    let va := (s.rd a).toNat
    if va % 64 ≠ 0 then s.trapAt .alignment va
    else s.writeObject va (((List.range 57).map fun i => Config.identityKey i) ++ List.replicate 7 0) State.adv)

end Sys2Proof.Machine
end

