-- ==== Sys2Proof/Machine/Power.lean ====
section
/-!
DEFINITION. Power, heat and reset (R309, R326, R327, R332), and an encoding that is not assigned (R5).
-/

namespace Sys2Proof.Machine

/-- The bytes of the ROM, which no reset and no loss of power changes. -/
def romCells (m : List Host.Cell) : List Host.Cell := m.filter fun c => within c.1 1 Config.romBase Config.romBytes

/-- The bytes of the pinned lines of a state's accumulator regions, which L2 alone holds (R136): a reset clears L2, and what DRAM
holds beneath is a free value. -/
def State.pinnedLost (s : State) : List Host.Cell :=
  (s.regions.flatMap (·.spans)).foldl (fun m p =>
    (List.range p.len).foldl (fun m i => cellSet m (p.pa + i) (Config.imageByte s.fresh (p.pa + i))) m) s.mem

/-- Module reset from a state: what is not reset by it stays (R309, R332). A line written at its home slice and not yet written back
to DRAM is in L2 alone, which the reset zeroes with no error; which lines those are no rule fixes, since DRAM's own values are seen
nowhere. The model keeps the home's values and their errors: DESIGN CHOICE (log entry 51); unsafe. -/
def State.resetModule (s : State) : State :=
  { State.reset with
    agenda := s.agenda
    turn := s.turn
    choice := s.choice
    fresh := s.fresh + 1
    powered := s.powered
    bootStatus := s.bootStatus
    tripReason := s.tripReason
    heldDies := s.heldDies
    heldBlocks := s.heldBlocks
    mem := s.pinnedLost.filter fun c => decide (c.1 < Config.dramBytes) || within c.1 1 Config.romBase Config.romBytes
    errors := s.errors.filter fun e =>
      match e with
      | .mem pa => !s.marked (pa / 128)
      | _ => false
    retired := s.retired
    sparesUsed := s.sparesUsed }

/-- A module without power: all that is not in ROM or flash is lost. -/
def State.dark (s : State) : State :=
  { State.reset with
    agenda := s.agenda
    turn := s.turn
    choice := s.choice
    fresh := s.fresh
    powered := false
    mem := romCells s.mem }

/-- The ROM's boot path (R294, R332 step 2): flash holds the length of the firmware image, the image and its signature. `refused`
says whether the signature fails: the ROM's public key is in no rule. Step 1 of R294 then extends slot 0 with the image's digest,
closes it and enters the firmware, which stands at an address that no rule gives. DESIGN CHOICE (log entry 5); unsafe for a claim
about where firmware runs. -/
def State.romBoot (s : State) (flash : List Byte) (at_ entry : Nat) (refused : Bool) : State :=
  let n := le (flash.take 4)
  let image := (flash.drop 4).take n
  if refused || decide (2 ^ 25 < n) || decide (flash.length < n + 118) then
    { s.updParty (.steward 0) fun q => { q with status := .ended } with bootStatus := 0xE2 }
  else
    let s1 := s.extendSlot 0 (shake256 image)
    { s1.updParty (.steward 0) fun q => { q with pc := dw entry } with
      mem := writeBytes s1.mem at_ image
      slotsClosed := s1.slotsClosed.set 0 true
      bootStatus := 0x02 }

/-- After its reset the ROM reads flash (R294): `bytes`, if there are any. -/
def State.bootFrom (s : State) (a : EventArgs) (refused : Bool) : State :=
  if a.bytes.isEmpty then s else s.romBoot a.bytes a.x a.y refused

/-- R309. `args.bytes`, if not empty, is what the ROM then reads from flash: it boots the image, which is put at `args.x` and
entered at `args.y`; `args.flag`: its signature is refused (R294). -/
def execModuleReset (s : State) : Out :=
  .next (if !s.powered then s else s.resetModule.bootFrom s.args s.args.flag)

/-- R332 steps 1 and 2. The input has reached 40 V. `args.flag`: a rail is out of tolerance, and the module stays in reset; else the
ROM reads flash as at a module reset, and `args.z` = 1 says that the image's signature is refused. -/
def execPowerOn (s : State) : Out :=
  .next (if s.powered then s
  else if s.args.flag then { s.dark with bootStatus := 0xE1 }
  else ({ s.dark with powered := true, bootStatus := 0x01 } : State).bootFrom s.args (decide (s.args.z = 1)))

/-- R332. Power is removed from the input: the registers of the management bus are cleared too. -/
def execPowerRemoval (s : State) : Out := .next { s.dark with bootStatus := 0, tripReason := 0 }

/-- R327. `args.x` is the die, which has reached 115 degrees: the module goes dark, and the bus keeps the reason. -/
def execThermalTrip (s : State) : Out :=
  .next (if s.powered ∧ s.args.x < 4 then
    { s.dark with bootStatus := s.bootStatus, tripReason := BitVec.ofNat 8 (s.args.x + 1) }
  else s)

/-- R327. `args.x` is the die, which has reached 105 degrees: its blocks hold back work. -/
def execThermalHold (s : State) : Out :=
  .next (if s.args.x < 4 then { s with heldDies := addNew s.args.x s.heldDies } else s)

/-- R327. `args.x` is the die, which has fallen below 100 degrees. -/
def execThermalHoldRelease (s : State) : Out :=
  .next { s with heldDies := s.heldDies.filter fun d => decide (d ≠ s.args.x) }

/-- R326. `args.block` reaches its ceiling and holds back work at its boundaries; `args.flag`: its draw has fallen. -/
def execPowerCeilingReached (s : State) : Out :=
  .next (if s.args.flag then { s with heldBlocks := s.heldBlocks.filter fun b => decide (b ≠ s.args.block) }
  else { s with heldBlocks := addNew s.args.block s.heldBlocks })

/-- A lane instruction without a meaning that an ERET has skipped: the run goes on behind its `args.x` bytes, and with
`args.y` = 0 it counts for the gaps of R17. -/
def State.skipLane (s : State) : State :=
  s.upd fun q =>
    match q.run with
    | none => q
    | some r =>
      let r1 : Run :=
        { r with
          pc := (r.pc + s.args.x) % 2 ^ 64
          left := r.left - 1
          producers := if s.args.y = 0 then r.producers.map fun p => { p with gap := p.gap + 1 } else r.producers
          replay := none }
      if r1.left = 0 then q.endRun r1 s.clk else { q with run := some r1 }

/-- R5. The word that the actor has fetched is assigned to no instruction: class 0x01. `args.flag`: it is a lane instruction of
the actor's run, of `args.x` bytes and with U bit `args.y`. -/
def execIllegalEncoding (s : State) : Out :=
  match s.args.flag, s.me.run with
  | true, some r => .next (if r.replay = some 0 then s.skipLane else s.laneFault .illegal r .laneIssue 0 0 0 false)
  | _, _ => .next (s.trap .illegal)

end Sys2Proof.Machine
end

