-- ==== Sys2Proof/Machine/Scalar.lean ====
section
/-!
DEFINITION. Scalar ALU, immediate and upper-immediate instructions (R90 to R94).
-/

namespace Sys2Proof.Machine

/-! ## Major 0x00 (R90) -/

def execAdd (d a b : BitVec 6) (s : State) : Out :=
  s.scalar2 d a b fun a b => a + b

def execSub (d a b : BitVec 6) (s : State) : Out :=
  s.scalar2 d a b fun a b => a - b

def execAnd (d a b : BitVec 6) (s : State) : Out :=
  s.scalar2 d a b fun a b => a &&& b

def execOr (d a b : BitVec 6) (s : State) : Out :=
  s.scalar2 d a b fun a b => a ||| b

def execXor (d a b : BitVec 6) (s : State) : Out :=
  s.scalar2 d a b fun a b => a ^^^ b

def execAndn (d a b : BitVec 6) (s : State) : Out :=
  s.scalar2 d a b fun a b => a &&& ~~~b

def execShl (d a b : BitVec 6) (s : State) : Out :=
  s.scalar2 d a b fun a b => a <<< (b.toNat % 64)

def execShr (d a b : BitVec 6) (s : State) : Out :=
  s.scalar2 d a b fun a b => a >>> (b.toNat % 64)

def execSar (d a b : BitVec 6) (s : State) : Out :=
  s.scalar2 d a b fun a b => a.sshiftRight (b.toNat % 64)

def execRol (d a b : BitVec 6) (s : State) : Out :=
  s.scalar2 d a b fun a b => a.rotateLeft (b.toNat % 64)

def execMul (d a b : BitVec 6) (s : State) : Out :=
  s.scalar2 d a b fun a b => a * b

def execMulh (d a b : BitVec 6) (s : State) : Out :=
  s.scalar2 d a b fun a b => BitVec.ofInt 64 (a.toInt * b.toInt / 2 ^ 64)

def execMulhu (d a b : BitVec 6) (s : State) : Out :=
  s.scalar2 d a b fun a b => dw (a.toNat * b.toNat / 2 ^ 64)

def execDiv (d a b : BitVec 6) (s : State) : Out :=
  s.scalar2 d a b fun a b => divSigned a b

def execDivu (d a b : BitVec 6) (s : State) : Out :=
  s.scalar2 d a b fun a b => if b = 0 then BitVec.allOnes 64 else dw (a.toNat / b.toNat)

def execRem (d a b : BitVec 6) (s : State) : Out :=
  s.scalar2 d a b fun a b => remSigned a b

def execRemu (d a b : BitVec 6) (s : State) : Out :=
  s.scalar2 d a b fun a b => if b = 0 then a else dw (a.toNat % b.toNat)

def execMin (d a b : BitVec 6) (s : State) : Out :=
  s.scalar2 d a b fun a b => if b.slt a then b else a

def execMax (d a b : BitVec 6) (s : State) : Out :=
  s.scalar2 d a b fun a b => if a.slt b then b else a

def execMinu (d a b : BitVec 6) (s : State) : Out :=
  s.scalar2 d a b fun a b => if b < a then b else a

def execMaxu (d a b : BitVec 6) (s : State) : Out :=
  s.scalar2 d a b fun a b => if a < b then b else a

def execSlt (d a b : BitVec 6) (s : State) : Out :=
  s.scalar2 d a b fun a b => ofBool (a.slt b)

def execSltu (d a b : BitVec 6) (s : State) : Out :=
  s.scalar2 d a b fun a b => ofBool (decide (a < b))

def execSeq (d a b : BitVec 6) (s : State) : Out :=
  s.scalar2 d a b fun a b => ofBool (decide (a = b))

def execAddw (d a b : BitVec 6) (s : State) : Out :=
  s.scalar2 d a b fun a b => sext32 (a + b)

def execSubw (d a b : BitVec 6) (s : State) : Out :=
  s.scalar2 d a b fun a b => sext32 (a - b)

def execMulw (d a b : BitVec 6) (s : State) : Out :=
  s.scalar2 d a b fun a b => sext32 (a * b)

def execClz (d a : BitVec 6) (s : State) : Out :=
  s.scalar1 d a fun a => dw (leadingZeros 64 a.toNat)

def execCtz (d a : BitVec 6) (s : State) : Out :=
  s.scalar1 d a fun a => dw (trailingZeros 64 a.toNat)

def execPopc (d a : BitVec 6) (s : State) : Out :=
  s.scalar1 d a fun a => dw (setBits 64 a.toNat)

def execBrev (d a : BitVec 6) (s : State) : Out :=
  s.scalar1 d a fun a => a.reverse

def execBswap (d a : BitVec 6) (s : State) : Out :=
  s.scalar1 d a fun a => dw (le (toLe 8 a.toNat).reverse)

/-! ## Majors 0x01 to 0x0B (R91) -/

def execAddi (d a : BitVec 6) (i : BitVec 14) (s : State) : Out :=
  let b : DWord := sext64 i
  s.scalar1 d a fun a => a + b

def execAndi (d a : BitVec 6) (i : BitVec 14) (s : State) : Out :=
  let b : DWord := sext64 i
  s.scalar1 d a fun a => a &&& b

def execOri (d a : BitVec 6) (i : BitVec 14) (s : State) : Out :=
  let b : DWord := sext64 i
  s.scalar1 d a fun a => a ||| b

def execXori (d a : BitVec 6) (i : BitVec 14) (s : State) : Out :=
  let b : DWord := sext64 i
  s.scalar1 d a fun a => a ^^^ b

def execSlti (d a : BitVec 6) (i : BitVec 14) (s : State) : Out :=
  let b : DWord := sext64 i
  s.scalar1 d a fun a => ofBool (a.slt b)

def execSltui (d a : BitVec 6) (i : BitVec 14) (s : State) : Out :=
  let b : DWord := sext64 i
  s.scalar1 d a fun a => ofBool (decide (a < b))

def execSeqi (d a : BitVec 6) (i : BitVec 14) (s : State) : Out :=
  let b : DWord := sext64 i
  s.scalar1 d a fun a => ofBool (decide (a = b))

def execMuli (d a : BitVec 6) (i : BitVec 14) (s : State) : Out :=
  let b : DWord := sext64 i
  s.scalar1 d a fun a => a * b

def execShli (d a n : BitVec 6) (s : State) : Out :=
  let n := n.toNat
  s.scalar1 d a fun a => a <<< n

def execShri (d a n : BitVec 6) (s : State) : Out :=
  let n := n.toNat
  s.scalar1 d a fun a => a >>> n

def execSari (d a n : BitVec 6) (s : State) : Out :=
  let n := n.toNat
  s.scalar1 d a fun a => a.sshiftRight n

/-! ## Majors 0x0C to 0x0E (R92 to R94) -/

/-- R92. -/
def execLui (d : BitVec 6) (i : BitVec 20) (s : State) : Out :=
  s.scalar [d] [] fun s => s.alu d (sext64 i <<< 14)

/-- R93. P is the address of the instruction. -/
def execAuipc (d : BitVec 6) (i : BitVec 20) (s : State) : Out :=
  s.scalar [d] [] fun s => s.alu d (s.me.pc + (sext64 i <<< 14))

/-- R94. Bits 53 to 34 take the immediate, bits 63 to 54 copy bit 53. -/
def execLhi (d : BitVec 6) (i : BitVec 20) (s : State) : Out :=
  s.scalar1 d d fun v => (i ++ v.extractLsb' 0 34 : BitVec 54).signExtend 64

end Sys2Proof.Machine
end

