-- ==== Sys2Proof/Machine/ScalarMem.lean ====
section
/-!
DEFINITION. Scalar memory instructions, majors 0x10 to 0x16 (R170 to R177).
-/

namespace Sys2Proof.Machine

/-- The address of format M plain (R170). -/
def State.plainAddr (s : State) (a : BitVec 6) (i : BitVec 11) : Nat := (s.rd a + sext64 i).toNat

/-- The address of format M ordered: the displacement counts access units (R170). -/
def State.orderedAddr (s : State) (a : BitVec 6) (z : BitVec 3) (i : BitVec 8) : Nat :=
  (s.rd a + sext64 i * dw (sizeBytes z.toNat)).toNat

def execLd (d a : BitVec 6) (z : BitVec 3) (i : BitVec 11) (s : State) : Out :=
  s.scalar [d] [a] fun s => s.scalarLoad d z.toNat (s.plainAddr a i) .core false

def execSt (d a : BitVec 6) (z : BitVec 3) (i : BitVec 11) (s : State) : Out :=
  s.scalar [] [d, a] fun s => s.scalarStore (s.rd d) z.toNat (s.plainAddr a i) .core false

def execLda (d a : BitVec 6) (z sc : BitVec 3) (i : BitVec 8) (s : State) : Out :=
  s.scalar [d] [a] fun s => s.scalarLoad d z.toNat (s.orderedAddr a z i) (scopeOf sc.toNat) true

def execStl (d a : BitVec 6) (z sc : BitVec 3) (i : BitVec 8) (s : State) : Out :=
  s.scalar [] [d, a] fun s => s.scalarStore (s.rd d) z.toNat (s.orderedAddr a z i) (scopeOf sc.toNat) true

/-! ## Atomics -/

def execAmowAdd (d a b : BitVec 6) (sc : BitVec 3) (ar : BitVec 1) (s : State) : Out :=
  s.amo .add false d a b sc (decide (ar = 1))

def execAmowAnd (d a b : BitVec 6) (sc : BitVec 3) (ar : BitVec 1) (s : State) : Out :=
  s.amo .and false d a b sc (decide (ar = 1))

def execAmowOr (d a b : BitVec 6) (sc : BitVec 3) (ar : BitVec 1) (s : State) : Out :=
  s.amo .or false d a b sc (decide (ar = 1))

def execAmowXor (d a b : BitVec 6) (sc : BitVec 3) (ar : BitVec 1) (s : State) : Out :=
  s.amo .xor false d a b sc (decide (ar = 1))

def execAmowMin (d a b : BitVec 6) (sc : BitVec 3) (ar : BitVec 1) (s : State) : Out :=
  s.amo .min false d a b sc (decide (ar = 1))

def execAmowMax (d a b : BitVec 6) (sc : BitVec 3) (ar : BitVec 1) (s : State) : Out :=
  s.amo .max false d a b sc (decide (ar = 1))

def execAmowMinu (d a b : BitVec 6) (sc : BitVec 3) (ar : BitVec 1) (s : State) : Out :=
  s.amo .minu false d a b sc (decide (ar = 1))

def execAmowMaxu (d a b : BitVec 6) (sc : BitVec 3) (ar : BitVec 1) (s : State) : Out :=
  s.amo .maxu false d a b sc (decide (ar = 1))

def execAmowXchg (d a b : BitVec 6) (sc : BitVec 3) (ar : BitVec 1) (s : State) : Out :=
  s.amo .xchg false d a b sc (decide (ar = 1))

def execAmowCas (d a b : BitVec 6) (sc : BitVec 3) (ar : BitVec 1) (s : State) : Out :=
  s.amo .cas false d a b sc (decide (ar = 1))

def execAmowFadd (d a b : BitVec 6) (sc : BitVec 3) (ar : BitVec 1) (s : State) : Out :=
  s.amo .fadd false d a b sc (decide (ar = 1))

def execAmowFmax32 (d a b : BitVec 6) (sc : BitVec 3) (ar : BitVec 1) (s : State) : Out :=
  s.amo .fmax false d a b sc (decide (ar = 1))

def execAmowFamax32 (d a b : BitVec 6) (sc : BitVec 3) (ar : BitVec 1) (s : State) : Out :=
  s.amo .famax false d a b sc (decide (ar = 1))

def execAmodAdd (d a b : BitVec 6) (sc : BitVec 3) (ar : BitVec 1) (s : State) : Out :=
  s.amo .add true d a b sc (decide (ar = 1))

def execAmodAnd (d a b : BitVec 6) (sc : BitVec 3) (ar : BitVec 1) (s : State) : Out :=
  s.amo .and true d a b sc (decide (ar = 1))

def execAmodOr (d a b : BitVec 6) (sc : BitVec 3) (ar : BitVec 1) (s : State) : Out :=
  s.amo .or true d a b sc (decide (ar = 1))

def execAmodXor (d a b : BitVec 6) (sc : BitVec 3) (ar : BitVec 1) (s : State) : Out :=
  s.amo .xor true d a b sc (decide (ar = 1))

def execAmodMin (d a b : BitVec 6) (sc : BitVec 3) (ar : BitVec 1) (s : State) : Out :=
  s.amo .min true d a b sc (decide (ar = 1))

def execAmodMax (d a b : BitVec 6) (sc : BitVec 3) (ar : BitVec 1) (s : State) : Out :=
  s.amo .max true d a b sc (decide (ar = 1))

def execAmodMinu (d a b : BitVec 6) (sc : BitVec 3) (ar : BitVec 1) (s : State) : Out :=
  s.amo .minu true d a b sc (decide (ar = 1))

def execAmodMaxu (d a b : BitVec 6) (sc : BitVec 3) (ar : BitVec 1) (s : State) : Out :=
  s.amo .maxu true d a b sc (decide (ar = 1))

def execAmodXchg (d a b : BitVec 6) (sc : BitVec 3) (ar : BitVec 1) (s : State) : Out :=
  s.amo .xchg true d a b sc (decide (ar = 1))

def execAmodCas (d a b : BitVec 6) (sc : BitVec 3) (ar : BitVec 1) (s : State) : Out :=
  s.amo .cas true d a b sc (decide (ar = 1))

/-! ## Fences -/

def execFenceAcq (sc : BitVec 3) (s : State) : Out := s.fenceAcq (scopeOf sc.toNat)

def execFenceRel (sc : BitVec 3) (s : State) : Out := s.fenceRel (scopeOf sc.toNat)

def execFenceFull (sc : BitVec 3) (s : State) : Out := s.fenceFull (scopeOf sc.toNat)

/-- R169. Words fetched ahead are fetched again; queued runs hold addresses only, and are fetched at their start. -/
def execIfence (s : State) : Out :=
  .next (s.upd fun q => { q with fetched := [] }).adv

/-- R160, R177. Later engine commands wait until the loads and the store-queue entries before it are performed. -/
def execFenceEng (s : State) : Out :=
  s.afterRuns fun s =>
    if s.me.loadsBehind then .next s
    else .next (({ s with fresh := s.fresh + 1 } : State).upd fun q => { q with engFence := some s.fresh }).adv

end Sys2Proof.Machine
end

