-- ==== Sys2Proof/Machine/Dispatch.lean ====
section
/-!
DEFINITION. `exec`: one arm for each constructor of `Instr`, each one call of its meaning.
-/

namespace Sys2Proof.Machine

def exec (i : Instr) (s : State) : Host.Outcome State Fault Refusal :=
  match i with
  | .add d a b => Sys2Proof.Machine.execAdd d a b s
  | .sub d a b => Sys2Proof.Machine.execSub d a b s
  | .and d a b => Sys2Proof.Machine.execAnd d a b s
  | .or d a b => Sys2Proof.Machine.execOr d a b s
  | .xor d a b => Sys2Proof.Machine.execXor d a b s
  | .andn d a b => Sys2Proof.Machine.execAndn d a b s
  | .shl d a b => Sys2Proof.Machine.execShl d a b s
  | .shr d a b => Sys2Proof.Machine.execShr d a b s
  | .sar d a b => Sys2Proof.Machine.execSar d a b s
  | .rol d a b => Sys2Proof.Machine.execRol d a b s
  | .mul d a b => Sys2Proof.Machine.execMul d a b s
  | .mulh d a b => Sys2Proof.Machine.execMulh d a b s
  | .mulhu d a b => Sys2Proof.Machine.execMulhu d a b s
  | .div d a b => Sys2Proof.Machine.execDiv d a b s
  | .divu d a b => Sys2Proof.Machine.execDivu d a b s
  | .rem d a b => Sys2Proof.Machine.execRem d a b s
  | .remu d a b => Sys2Proof.Machine.execRemu d a b s
  | .min d a b => Sys2Proof.Machine.execMin d a b s
  | .max d a b => Sys2Proof.Machine.execMax d a b s
  | .minu d a b => Sys2Proof.Machine.execMinu d a b s
  | .maxu d a b => Sys2Proof.Machine.execMaxu d a b s
  | .slt d a b => Sys2Proof.Machine.execSlt d a b s
  | .sltu d a b => Sys2Proof.Machine.execSltu d a b s
  | .seq d a b => Sys2Proof.Machine.execSeq d a b s
  | .clz d a => Sys2Proof.Machine.execClz d a s
  | .ctz d a => Sys2Proof.Machine.execCtz d a s
  | .popc d a => Sys2Proof.Machine.execPopc d a s
  | .brev d a => Sys2Proof.Machine.execBrev d a s
  | .bswap d a => Sys2Proof.Machine.execBswap d a s
  | .addw d a b => Sys2Proof.Machine.execAddw d a b s
  | .subw d a b => Sys2Proof.Machine.execSubw d a b s
  | .mulw d a b => Sys2Proof.Machine.execMulw d a b s
  | .addi d a imm => Sys2Proof.Machine.execAddi d a imm s
  | .andi d a imm => Sys2Proof.Machine.execAndi d a imm s
  | .ori d a imm => Sys2Proof.Machine.execOri d a imm s
  | .xori d a imm => Sys2Proof.Machine.execXori d a imm s
  | .shli d a n => Sys2Proof.Machine.execShli d a n s
  | .shri d a n => Sys2Proof.Machine.execShri d a n s
  | .sari d a n => Sys2Proof.Machine.execSari d a n s
  | .slti d a imm => Sys2Proof.Machine.execSlti d a imm s
  | .sltui d a imm => Sys2Proof.Machine.execSltui d a imm s
  | .seqi d a imm => Sys2Proof.Machine.execSeqi d a imm s
  | .muli d a imm => Sys2Proof.Machine.execMuli d a imm s
  | .lui d imm => Sys2Proof.Machine.execLui d imm s
  | .auipc d imm => Sys2Proof.Machine.execAuipc d imm s
  | .lhi d imm => Sys2Proof.Machine.execLhi d imm s
  | .ld d a z imm => Sys2Proof.Machine.execLd d a z imm s
  | .st d a z imm => Sys2Proof.Machine.execSt d a z imm s
  | .lda d a z sc imm => Sys2Proof.Machine.execLda d a z sc imm s
  | .stl d a z sc imm => Sys2Proof.Machine.execStl d a z sc imm s
  | .amowAdd d a b sc r => Sys2Proof.Machine.execAmowAdd d a b sc r s
  | .amowAnd d a b sc r => Sys2Proof.Machine.execAmowAnd d a b sc r s
  | .amowOr d a b sc r => Sys2Proof.Machine.execAmowOr d a b sc r s
  | .amowXor d a b sc r => Sys2Proof.Machine.execAmowXor d a b sc r s
  | .amowMin d a b sc r => Sys2Proof.Machine.execAmowMin d a b sc r s
  | .amowMax d a b sc r => Sys2Proof.Machine.execAmowMax d a b sc r s
  | .amowMinu d a b sc r => Sys2Proof.Machine.execAmowMinu d a b sc r s
  | .amowMaxu d a b sc r => Sys2Proof.Machine.execAmowMaxu d a b sc r s
  | .amowXchg d a b sc r => Sys2Proof.Machine.execAmowXchg d a b sc r s
  | .amowCas d a b sc r => Sys2Proof.Machine.execAmowCas d a b sc r s
  | .amowFadd d a b sc r => Sys2Proof.Machine.execAmowFadd d a b sc r s
  | .amowFmax32 d a b sc r => Sys2Proof.Machine.execAmowFmax32 d a b sc r s
  | .amowFamax32 d a b sc r => Sys2Proof.Machine.execAmowFamax32 d a b sc r s
  | .amodAdd d a b sc r => Sys2Proof.Machine.execAmodAdd d a b sc r s
  | .amodAnd d a b sc r => Sys2Proof.Machine.execAmodAnd d a b sc r s
  | .amodOr d a b sc r => Sys2Proof.Machine.execAmodOr d a b sc r s
  | .amodXor d a b sc r => Sys2Proof.Machine.execAmodXor d a b sc r s
  | .amodMin d a b sc r => Sys2Proof.Machine.execAmodMin d a b sc r s
  | .amodMax d a b sc r => Sys2Proof.Machine.execAmodMax d a b sc r s
  | .amodMinu d a b sc r => Sys2Proof.Machine.execAmodMinu d a b sc r s
  | .amodMaxu d a b sc r => Sys2Proof.Machine.execAmodMaxu d a b sc r s
  | .amodXchg d a b sc r => Sys2Proof.Machine.execAmodXchg d a b sc r s
  | .amodCas d a b sc r => Sys2Proof.Machine.execAmodCas d a b sc r s
  | .fenceAcq sc => Sys2Proof.Machine.execFenceAcq sc s
  | .fenceRel sc => Sys2Proof.Machine.execFenceRel sc s
  | .fenceFull sc => Sys2Proof.Machine.execFenceFull sc s
  | .ifence => Sys2Proof.Machine.execIfence s
  | .fenceEng => Sys2Proof.Machine.execFenceEng s
  | .br imm => Sys2Proof.Machine.execBr imm s
  | .call imm => Sys2Proof.Machine.execCall imm s
  | .bz a imm => Sys2Proof.Machine.execBz a imm s
  | .bnz a imm => Sys2Proof.Machine.execBnz a imm s
  | .beq a b imm => Sys2Proof.Machine.execBeq a b imm s
  | .bne a b imm => Sys2Proof.Machine.execBne a b imm s
  | .blt a b imm => Sys2Proof.Machine.execBlt a b imm s
  | .bge a b imm => Sys2Proof.Machine.execBge a b imm s
  | .bltu a b imm => Sys2Proof.Machine.execBltu a b imm s
  | .bgeu a b imm => Sys2Proof.Machine.execBgeu a b imm s
  | .jalr d a imm => Sys2Proof.Machine.execJalr d a imm s
  | .lrun a imm => Sys2Proof.Machine.execLrun a imm s
  | .lsync a => Sys2Proof.Machine.execLsync a s
  | .kmov d a => Sys2Proof.Machine.execKmov d a s
  | .kand d a b => Sys2Proof.Machine.execKand d a b s
  | .kor d a b => Sys2Proof.Machine.execKor d a b s
  | .kxor d a b => Sys2Proof.Machine.execKxor d a b s
  | .kandn d a b => Sys2Proof.Machine.execKandn d a b s
  | .knot d a => Sys2Proof.Machine.execKnot d a s
  | .kpopc d a => Sys2Proof.Machine.execKpopc d a s
  | .kffs d a => Sys2Proof.Machine.execKffs d a s
  | .ktos d a => Sys2Proof.Machine.execKtos d a s
  | .stok d a => Sys2Proof.Machine.execStok d a s
  | .divpush a b => Sys2Proof.Machine.execDivpush a b s
  | .divelse => Sys2Proof.Machine.execDivelse s
  | .divpop => Sys2Proof.Machine.execDivpop s
  | .kall d a => Sys2Proof.Machine.execKall d a s
  | .bkany k imm => Sys2Proof.Machine.execBkany k imm s
  | .bknone k imm => Sys2Proof.Machine.execBknone k imm s
  | .vread d n t => Sys2Proof.Machine.execVread d n t s
  | .sfmtW d a v => Sys2Proof.Machine.execSfmtW d a v s
  | .sfmtS d a v => Sys2Proof.Machine.execSfmtS d a v s
  | .sfmtC d a v => Sys2Proof.Machine.execSfmtC d a v s
  | .csrr d r => Sys2Proof.Machine.execCsrr d r s
  | .csrw d a r => Sys2Proof.Machine.execCsrw d a r s
  | .csrs d a r => Sys2Proof.Machine.execCsrs d a r s
  | .csrc d a r => Sys2Proof.Machine.execCsrc d a r s
  | .binit a b => Sys2Proof.Machine.execBinit a b s
  | .barrive d a b => Sys2Proof.Machine.execBarrive d a b s
  | .bexpect a b => Sys2Proof.Machine.execBexpect a b s
  | .bwait d a b => Sys2Proof.Machine.execBwait d a b s
  | .btest d a b => Sys2Proof.Machine.execBtest d a b s
  | .batch d => Sys2Proof.Machine.execBatch d s
  | .bbwaitReg a => Sys2Proof.Machine.execBbwaitReg a s
  | .bbwaitImm n => Sys2Proof.Machine.execBbwaitImm n s
  | .tcopy d a b => Sys2Proof.Machine.execTcopy d a b s
  | .tprefL2 a b => Sys2Proof.Machine.execTprefL2 a b s
  | .tprefCc a b => Sys2Proof.Machine.execTprefCc a b s
  | .tquery d a => Sys2Proof.Machine.execTquery d a s
  | .gang a => Sys2Proof.Machine.execGang a s
  | .planeA d a b => Sys2Proof.Machine.execPlaneA d a b s
  | .planeB d a b => Sys2Proof.Machine.execPlaneB d a b s
  | .scale a b => Sys2Proof.Machine.execScale a b s
  | .mma d a b => Sys2Proof.Machine.execMma d a b s
  | .acci a b => Sys2Proof.Machine.execAcci a b s
  | .accd a b => Sys2Proof.Machine.execAccd a b s
  | .tacknew d a => Sys2Proof.Machine.execTacknew d a s
  | .tackon d a b => Sys2Proof.Machine.execTackon d a b s
  | .tackoff a => Sys2Proof.Machine.execTackoff a s
  | .tackdrop d a => Sys2Proof.Machine.execTackdrop d a s
  | .tackq d a => Sys2Proof.Machine.execTackq d a s
  | .ladsub d a b => Sys2Proof.Machine.execLadsub d a b s
  | .ladesc a b => Sys2Proof.Machine.execLadesc a b s
  | .ladres a b => Sys2Proof.Machine.execLadres a b s
  | .cjoin d a => Sys2Proof.Machine.execCjoin d a s
  | .cleave => Sys2Proof.Machine.execCleave s
  | .cquery d => Sys2Proof.Machine.execCquery d s
  | .launch d a => Sys2Proof.Machine.execLaunch d a s
  | .exit => Sys2Proof.Machine.execExit s
  | .yield => Sys2Proof.Machine.execYield s
  | .phase => Sys2Proof.Machine.execPhase s
  | .criton => Sys2Proof.Machine.execCriton s
  | .critoff => Sys2Proof.Machine.execCritoff s
  | .lwait d a => Sys2Proof.Machine.execLwait d a s
  | .lwaitTest d a => Sys2Proof.Machine.execLwaitTest d a s
  | .frjoin d a => Sys2Proof.Machine.execFrjoin d a s
  | .frput d a b => Sys2Proof.Machine.execFrput d a b s
  | .frget d a => Sys2Proof.Machine.execFrget d a s
  | .frstat d a => Sys2Proof.Machine.execFrstat d a s
  | .trap a => Sys2Proof.Machine.execTrap a s
  | .eret d a b => Sys2Proof.Machine.execEret d a b s
  | .halt a => Sys2Proof.Machine.execHalt a s
  | .tlbinv a b => Sys2Proof.Machine.execTlbinv a b s
  | .bankcfg d a b => Sys2Proof.Machine.execBankcfg d a b s
  | .vcset d a => Sys2Proof.Machine.execVcset d a s
  | .darn d a => Sys2Proof.Machine.execDarn d a s
  | .corerst d a => Sys2Proof.Machine.execCorerst d a s
  | .pswap d a b => Sys2Proof.Machine.execPswap d a b s
  | .measureExt d a b => Sys2Proof.Machine.execMeasureExt d a b s
  | .measureRead a b => Sys2Proof.Machine.execMeasureRead a b s
  | .measureClose b => Sys2Proof.Machine.execMeasureClose b s
  | .measureQuote d a b => Sys2Proof.Machine.execMeasureQuote d a b s
  | .measureKey a => Sys2Proof.Machine.execMeasureKey a s
  | .partitionRecord d a => Sys2Proof.Machine.execPartitionRecord d a s
  | .peerEntries d a => Sys2Proof.Machine.execPeerEntries d a s
  | .reductionSlots d a => Sys2Proof.Machine.execReductionSlots d a s
  | .ethernetUp d a => Sys2Proof.Machine.execEthernetUp d a s
  | .ethernetDown d a => Sys2Proof.Machine.execEthernetDown d a s
  | .ethernetTransmit d a => Sys2Proof.Machine.execEthernetTransmit d a s
  | .postReceiveBuffer d a => Sys2Proof.Machine.execPostReceiveBuffer d a s
  | .fabricPortUp d a => Sys2Proof.Machine.execFabricPortUp d a s
  | .fabricPortDown d a => Sys2Proof.Machine.execFabricPortDown d a s
  | .fabricPortQuery d a => Sys2Proof.Machine.execFabricPortQuery d a s
  | .iadd w => Sys2Proof.Machine.execIadd w s
  | .isub w => Sys2Proof.Machine.execIsub w s
  | .imul w => Sys2Proof.Machine.execImul w s
  | .imulhi w => Sys2Proof.Machine.execImulhi w s
  | .imad w => Sys2Proof.Machine.execImad w s
  | .iand w => Sys2Proof.Machine.execIand w s
  | .ior w => Sys2Proof.Machine.execIor w s
  | .ixor w => Sys2Proof.Machine.execIxor w s
  | .inot w => Sys2Proof.Machine.execInot w s
  | .ishl w => Sys2Proof.Machine.execIshl w s
  | .ishr w => Sys2Proof.Machine.execIshr w s
  | .isar w => Sys2Proof.Machine.execIsar w s
  | .imin w => Sys2Proof.Machine.execImin w s
  | .imax w => Sys2Proof.Machine.execImax w s
  | .iabs w => Sys2Proof.Machine.execIabs w s
  | .ipopc w => Sys2Proof.Machine.execIpopc w s
  | .iclz w => Sys2Proof.Machine.execIclz w s
  | .ibfe w => Sys2Proof.Machine.execIbfe w s
  | .ibfi w => Sys2Proof.Machine.execIbfi w s
  | .isel w => Sys2Proof.Machine.execIsel w s
  | .imov w => Sys2Proof.Machine.execImov w s
  | .fadd w => Sys2Proof.Machine.execFadd w s
  | .fsub w => Sys2Proof.Machine.execFsub w s
  | .fmul w => Sys2Proof.Machine.execFmul w s
  | .ffma w => Sys2Proof.Machine.execFfma w s
  | .fmin w => Sys2Proof.Machine.execFmin w s
  | .fmax w => Sys2Proof.Machine.execFmax w s
  | .fabs w => Sys2Proof.Machine.execFabs w s
  | .fneg w => Sys2Proof.Machine.execFneg w s
  | .frint w => Sys2Proof.Machine.execFrint w s
  | .cvt w => Sys2Proof.Machine.execCvt w s
  | .qblk w => Sys2Proof.Machine.execQblk w s
  | .amax w => Sys2Proof.Machine.execAmax w s
  | .shfl w => Sys2Proof.Machine.execShfl w s
  | .shflr w => Sys2Proof.Machine.execShflr w s
  | .shflx w => Sys2Proof.Machine.execShflx w s
  | .bcast w => Sys2Proof.Machine.execBcast w s
  | .lstep w => Sys2Proof.Machine.execLstep w s
  | .scan w => Sys2Proof.Machine.execScan w s
  | .matchLanes w => Sys2Proof.Machine.execMatchLanes w s
  | .segred w => Sys2Proof.Machine.execSegred w s
  | .icmp w => Sys2Proof.Machine.execIcmp w s
  | .fcmp w => Sys2Proof.Machine.execFcmp w s
  | .laneLd w => Sys2Proof.Machine.execLaneLd w s
  | .laneSt w => Sys2Proof.Machine.execLaneSt w s
  | .lds w => Sys2Proof.Machine.execLds w s
  | .sts w => Sys2Proof.Machine.execSts w s
  | .ldcl w => Sys2Proof.Machine.execLdcl w s
  | .stcl w => Sys2Proof.Machine.execStcl w s
  | .fifopop w => Sys2Proof.Machine.execFifopop w s
  | .fifopush w => Sys2Proof.Machine.execFifopush w s
  | .ragld w => Sys2Proof.Machine.execRagld w s
  | .atom w => Sys2Proof.Machine.execAtom w s
  | .atomr w => Sys2Proof.Machine.execAtomr w s
  | .atoms w => Sys2Proof.Machine.execAtoms w s
  | .rld w => Sys2Proof.Machine.execRld w s
  | .rst w => Sys2Proof.Machine.execRst w s
  | .ratom w => Sys2Proof.Machine.execRatom w s
  | .rcp w => Sys2Proof.Machine.execRcp w s
  | .rsqrt w => Sys2Proof.Machine.execRsqrt w s
  | .sqrt w => Sys2Proof.Machine.execSqrt w s
  | .laneDiv w => Sys2Proof.Machine.execLaneDiv w s
  | .exp2 w => Sys2Proof.Machine.execExp2 w s
  | .log2 w => Sys2Proof.Machine.execLog2 w s
  | .sin w => Sys2Proof.Machine.execSin w s
  | .cos w => Sys2Proof.Machine.execCos w s
  | .tanh w => Sys2Proof.Machine.execTanh w s
  | .lnop w => Sys2Proof.Machine.execLnop w s
  | .lid w => Sys2Proof.Machine.execLid w s
  | .runStart => Sys2Proof.Machine.execRunStart s
  | .longLatencyCompletion => Sys2Proof.Machine.execLongLatencyCompletion s
  | .dirtyNotice => Sys2Proof.Machine.execDirtyNotice s
  | .storePerform => Sys2Proof.Machine.execStorePerform s
  | .dirtyByteDrain => Sys2Proof.Machine.execDirtyByteDrain s
  | .cleanCopyFill => Sys2Proof.Machine.execCleanCopyFill s
  | .cleanCopyDrop => Sys2Proof.Machine.execCleanCopyDrop s
  | .commandedDrain => Sys2Proof.Machine.execCommandedDrain s
  | .drainConfirmation => Sys2Proof.Machine.execDrainConfirmation s
  | .dieReadRequest => Sys2Proof.Machine.execDieReadRequest s
  | .dieWriteRequest => Sys2Proof.Machine.execDieWriteRequest s
  | .dieInvalidationAck => Sys2Proof.Machine.execDieInvalidationAck s
  | .dieCopyEviction => Sys2Proof.Machine.execDieCopyEviction s
  | .fabricInvalidationAck => Sys2Proof.Machine.execFabricInvalidationAck s
  | .deviceFenced => Sys2Proof.Machine.execDeviceFenced s
  | .copyElement => Sys2Proof.Machine.execCopyElement s
  | .copyComplete => Sys2Proof.Machine.execCopyComplete s
  | .matrixCommandStart => Sys2Proof.Machine.execMatrixCommandStart s
  | .planeComplete => Sys2Proof.Machine.execPlaneComplete s
  | .scaleComplete => Sys2Proof.Machine.execScaleComplete s
  | .mmaReservationGrant => Sys2Proof.Machine.execMmaReservationGrant s
  | .mmaComputeDone => Sys2Proof.Machine.execMmaComputeDone s
  | .lineContribution => Sys2Proof.Machine.execLineContribution s
  | .contributionRetry => Sys2Proof.Machine.execContributionRetry s
  | .accdStart => Sys2Proof.Machine.execAccdStart s
  | .accdRow => Sys2Proof.Machine.execAccdRow s
  | .accdFinish => Sys2Proof.Machine.execAccdFinish s
  | .batchComplete => Sys2Proof.Machine.execBatchComplete s
  | .holderAcknowledge => Sys2Proof.Machine.execHolderAcknowledge s
  | .workgroupPlacement => Sys2Proof.Machine.execWorkgroupPlacement s
  | .dispatchPriorityAging => Sys2Proof.Machine.execDispatchPriorityAging s
  | .savedPriorityAging => Sys2Proof.Machine.execSavedPriorityAging s
  | .launchBlocking => Sys2Proof.Machine.execLaunchBlocking s
  | .staggerExpiry => Sys2Proof.Machine.execStaggerExpiry s
  | .workgroupStop => Sys2Proof.Machine.execWorkgroupStop s
  | .workgroupSave => Sys2Proof.Machine.execWorkgroupSave s
  | .workgroupRestore => Sys2Proof.Machine.execWorkgroupRestore s
  | .launchComplete => Sys2Proof.Machine.execLaunchComplete s
  | .widePhaseComplete => Sys2Proof.Machine.execWidePhaseComplete s
  | .issuePriorityAging => Sys2Proof.Machine.execIssuePriorityAging s
  | .criticalSectionExpiry => Sys2Proof.Machine.execCriticalSectionExpiry s
  | .parkedSwapTimeout => Sys2Proof.Machine.execParkedSwapTimeout s
  | .ladderPack => Sys2Proof.Machine.execLadderPack s
  | .ladderRetire => Sys2Proof.Machine.execLadderRetire s
  | .fifoWaitEnd => Sys2Proof.Machine.execFifoWaitEnd s
  | .faultRecordDelivery => Sys2Proof.Machine.execFaultRecordDelivery s
  | .unitResponseTimeout => Sys2Proof.Machine.execUnitResponseTimeout s
  | .coreFailure => Sys2Proof.Machine.execCoreFailure s
  | .rowRetirement => Sys2Proof.Machine.execRowRetirement s
  | .flitReceive => Sys2Proof.Machine.execFlitReceive s
  | .linkFailure => Sys2Proof.Machine.execLinkFailure s
  | .packetReceive => Sys2Proof.Machine.execPacketReceive s
  | .packetAcknowledge => Sys2Proof.Machine.execPacketAcknowledge s
  | .packetResendTimeout => Sys2Proof.Machine.execPacketResendTimeout s
  | .destinationUnreachable => Sys2Proof.Machine.execDestinationUnreachable s
  | .roundTimeout => Sys2Proof.Machine.execRoundTimeout s
  | .slotCloseTimeout => Sys2Proof.Machine.execSlotCloseTimeout s
  | .haltTimeout => Sys2Proof.Machine.execHaltTimeout s
  | .haltWake => Sys2Proof.Machine.execHaltWake s
  | .ethernetFrameReceive => Sys2Proof.Machine.execEthernetFrameReceive s
  | .ethernetTransmitDone => Sys2Proof.Machine.execEthernetTransmitDone s
  | .ethernetLinkFailure => Sys2Proof.Machine.execEthernetLinkFailure s
  | .ethernetLinkUp => Sys2Proof.Machine.execEthernetLinkUp s
  | .ethernetUpTimeout => Sys2Proof.Machine.execEthernetUpTimeout s
  | .fabricLinkTrained => Sys2Proof.Machine.execFabricLinkTrained s
  | .fabricUpTimeout => Sys2Proof.Machine.execFabricUpTimeout s
  | .thermalHold => Sys2Proof.Machine.execThermalHold s
  | .thermalHoldRelease => Sys2Proof.Machine.execThermalHoldRelease s
  | .thermalTrip => Sys2Proof.Machine.execThermalTrip s
  | .powerOn => Sys2Proof.Machine.execPowerOn s
  | .moduleReset => Sys2Proof.Machine.execModuleReset s
  | .illegalEncoding => Sys2Proof.Machine.execIllegalEncoding s
  | .uncorrectableError => Sys2Proof.Machine.execUncorrectableError s
  | .fencedDeviceReadmission => Sys2Proof.Machine.execFencedDeviceReadmission s
  | .powerRemoval => Sys2Proof.Machine.execPowerRemoval s
  | .powerCeilingReached => Sys2Proof.Machine.execPowerCeilingReached s
  | .linkResendRequest => Sys2Proof.Machine.execLinkResendRequest s

end Sys2Proof.Machine
end

