-- ==== Sys2Proof/Machine/Schedule.lean ====
section
/-!
DEFINITION. The model's schedule (log 1): which agent moves next, what a move needs before `exec` acts, and the fetch
of what it runs. Every move is one that the spec permits at that point; the agenda chooses among them, and an empty
agenda takes them in turn.
-/

namespace Sys2Proof.Machine

/-! ## Scalar streams -/

/-- A party whose scalar stream may issue, but for its unit's choice (R165, R266, R284, R299, R300, R326). -/
def State.mayIssue (s : State) (q : Party) : Bool :=
  s.powered && s.streams q && (!s.patched q || q.midway) && !s.holds (if q.id.isSteward then .stewards else .scalarUnits) q.core &&
    q.yieldTo.all fun y => !s.streams (s.party y)

/-- Whether a scalar unit takes one stream before another: groups of issue priority 8 first (R222), then round-robin: the one that
issued less recently (DEDUCED of R13's words, log entry 1). -/
def Party.goesBefore (a b : Party) : Bool :=
  (a.crit.isSome && b.crit.isNone) || (decide (a.crit.isSome = b.crit.isSome) && decide (a.lastIssue < b.lastIssue))

/-- A party issues: it owes nobody a turn, and nobody waits for its turn (R266). -/
def State.issued (s : State) (p : PartyId) : State :=
  { s with
    actor := p
    args := { s.args with flag := false }
    parties := s.parties.map fun q =>
      { q with
        yieldTo := if q.id = p then [] else q.yieldTo.filter fun y => decide (y ≠ p)
        lastIssue := if q.id = p then s.clk else q.lastIssue } }

/-- A scalar stream that has stayed at its instruction would go on now: what it would do changes its group. -/
def State.wouldGo (s : State) (q : Party) : Bool :=
  match s.nextWord q with
  | (_, .error _) => true
  | (s1, .ok w) =>
    match exec (s1.decodeAt q w) (s1.issued q.id) with
    | .next t => decide (t.party q.id ≠ (s1.issued q.id).party q.id)
    | _ => true

/-- A party whose scalar stream issues next on its unit (R13, R222): of those that can go on, none goes before it. One that has stayed
at its instruction may try it again, and keeps others back only once it would go on. -/
def State.canIssue (s : State) (q : Party) : Bool :=
  s.mayIssue q && s.parties.all fun x =>
    decide (x.id = q.id ∨ x.core ≠ q.core ∨ x.unit ≠ q.unit) || !x.goesBefore q || !s.mayIssue x || (x.stalled && !s.wouldGo x)

/-- Prepares the scalar issue of a party: the fetch and decode of its next word (R169, R242). -/
def State.prepareIssue (s : State) (p : PartyId) : State × Option Instr :=
  let q := s.party p
  if s.canIssue q then
    match s.nextWord q with
    | (s1, .error e) => ((s1.issued p).fetchFault p e, none)
    | (s1, .ok w) => (s1.issued p, some (s1.decodeAt q w))
  else (s, none)

/-! ## Lane streams -/

/-- The words of the lane instruction at an address: three, or four where it carries a literal (R47, R48). -/
def State.laneText (s : State) (q : Party) (va : Nat) : State × Except (FetchFault × Nat) (BitVec 96 × Word) :=
  match s.laneWords q va 3 with
  | (s1, .error e) => (s1, .error e)
  | (s1, .ok ws) =>
    if laneIsLong (join96 ws) then
      match s1.laneWords q ((va + 12) % 2 ^ 64) 1 with
      | (s2, .error e) => (s2, .error e)
      | (s2, .ok l) => (s2, .ok (join96 ws, l.getD 0 0))
    else (s1, .ok (join96 ws, 0))

/-- Prepares the next instruction of a run: it is fetched and decoded when it is due (R245). One that cannot be fetched and
that an ERET has skipped counts as three words long. -/
def State.prepareLane (s : State) (p : PartyId) : State × Option Instr :=
  let q := s.party p
  match q.run with
  | none => (s, none)
  | some r =>
    if !(s.powered && s.laneTurn q) then (s, none)
    else
      -- a run that has stopped at a fault goes on
      let due (s : State) (bytes u : Nat) : State :=
        { s.updParty p (fun q => { q with paused := false }) with actor := p, args := { s.args with flag := true, x := bytes, y := u } }
      match s.laneText q r.pc with
      | (s1, .error (e, bad)) =>
        if r.replay = some 0 then (due s1 12 0, some .illegalEncoding) else (s1.laneFetchFault p e .laneIssue r.pc bad, none)
      | (s1, .ok (w, lit)) =>
        let s2 := due s1 (if laneIsLong w then 16 else 12) (w.getLsbD 83).toNat
        match decodeLane w lit with
        | .ok i => (s2, some i)
        | .error _ => (s2, some .illegalEncoding)

/-! ## Moves -/

/-- Only these happen to a module without power (R327, R332). -/
def Instr.whenDark : Instr → Bool
  | .powerOn => true
  | .powerRemoval => true
  | _ => false

/-- Prepares a move: the state in which an instruction acts, and the instruction. -/
def State.prepare (s : State) : Move → State × Option Instr
  | .issue p => s.prepareIssue p
  | .lane p => s.prepareLane p
  | .event i a => if s.powered || Instr.whenDark i then ({ s with args := a }, some i) else (s, none)
  | .tick n => (State.askAgain { s with clk := s.clk + (n - 1) }, none)
  | .choose c => ({ s with choice := c }, none)

/-- A lane instruction would park its group where it may not: a run that goes on beside a parked scalar stream does not take a
second fault (log 1), and a ladder instruction that the stream is in is wholly performed first (R240). It waits there. -/
def State.parksBadly (s t : State) (p : PartyId) : Bool :=
  decide ((t.party p).park ≠ (s.party p).park) && ((s.party p).park.isSome || (s.party p).midway)

/-- What a move leaves beside its instruction's effect. A scalar stream that has stayed at its instruction is noted, and has not had
its turn (R13). -/
def State.finishMove (s : State) (m : Move) (t : State) : State :=
  match m with
  | .lane p => if s.parksBadly t p then s else t
  | .issue p =>
    let old := s.party p
    if !s.canIssue old then t
    else t.updParty p fun q =>
      let stays := decide (q.pc = old.pc)
      { q with stalled := stays, lastIssue := if stays then old.lastIssue else q.lastIssue }
  | _ => t

/-- What the instruction of a move has done. -/
def State.finish (s : State) (m : Move) : Out → Out
  | .next t => .next (s.finishMove m t)
  | .fault f => .fault f
  | .refused r => .refused r

/-! ## The moves of an empty agenda -/

/-- An event with its arguments. -/
def evt (i : Instr) (x y z : Nat) (p : PartyId) : Move := .event i { EventArgs.blank with p := p, x := x, y := y, z := z }

/-- The moves of one party. -/
def State.partyMoves (s : State) (q : Party) : List Move :=
  let on (i : Instr) : Move := evt i 0 0 0 q.id
  (if s.canIssue q then [.issue q.id] else []) ++ (if q.runGoes then [.lane q.id] else []) ++
    (if s.runReady q then [on .runStart, on .issuePriorityAging] else []) ++
    (q.sq.map fun e => evt .storePerform e.id 0 0 q.id) ++
    (q.loads.flatMap fun l => [evt .longLatencyCompletion l.op l.thread l.elem q.id, evt .fifoWaitEnd l.op l.thread 0 q.id]) ++
    (q.ops.map fun o => evt .longLatencyCompletion o.id 0 0 q.id) ++
    (if q.unpicks.isEmpty then [] else [on .holderAcknowledge]) ++ (if q.park.isSome then [on .parkedSwapTimeout] else []) ++
    (if q.crit.isSome then [on .criticalSectionExpiry] else []) ++ (if q.batch = q.batchDone then [] else [on .batchComplete]) ++
    match q.status with
    | .halted _ _ _ => [on .haltWake, on .haltTimeout]
    | .romLoop => [on .haltWake]
    | _ => []

/-- The moves of a core's matrix queue. -/
def matrixMoves (core : Nat) (k : Core) : List Move :=
  let on (i : Instr) (x : Nat) : Move := evt i x 0 0 (.steward 0)
  if k.matrix.isEmpty then []
  else
    [on .matrixCommandStart core, on .planeComplete core, on .scaleComplete core, on .mmaComputeDone core, on .accdStart core,
      on .accdRow core, on .accdFinish core] ++ k.matrix.map fun m => on .mmaReservationGrant m.id

/-- The moves of the memory side. -/
def State.memoryMoves (s : State) : List Move :=
  let on (i : Instr) (x y : Nat) : Move := evt i x y 0 (.steward 0)
  ((List.range s.drains.length).flatMap fun n => [on .commandedDrain n 0, on .drainConfirmation n 0]) ++
    (s.dieRequests.flatMap fun r => on .dieWriteRequest r.die r.line :: r.waits.map fun d => on .dieInvalidationAck d r.line) ++
    (if s.asks.isEmpty then [] else [.tick 1]) ++
    (s.copies.flatMap fun c => [on .copyElement c.id c.next, on .copyComplete c.id 0]) ++
    (s.contributions.flatMap fun c => [on .lineContribution c.id 0, on .contributionRetry c.id 0]) ++
    (s.records.map fun r => on .faultRecordDelivery r.id 0)

/-- The moves of the shuttle. -/
def State.shuttleMoves (s : State) : List Move :=
  let on (i : Instr) (x y : Nat) : Move := evt i x y 0 (.steward 0)
  ((List.range 16).flatMap fun n =>
    if (s.partition n).enabled then [on .workgroupPlacement n 0, on .workgroupRestore n 0, on .ladderPack n 0] else []) ++
    (s.launches.flatMap fun l =>
      if l.over then []
      else
        [on .launchComplete l.part l.seq, on .widePhaseComplete l.part l.seq, on .dispatchPriorityAging l.part l.seq,
          on .launchBlocking l.part l.seq, on .staggerExpiry l.part l.seq]) ++
    (s.workgroups.flatMap fun w =>
      [on .workgroupStop w.part w.id, on .workgroupSave w.part w.id, on .savedPriorityAging w.part w.id]) ++
    (s.ladders.map fun l => on .ladderRetire l.part l.addr)

/-- The moves of an Ethernet port's queue: what each operation does next. -/
def State.etherMoves (s : State) (port : Nat) : List Move :=
  ((s.etherPort port).queue.mapIdx fun k o =>
    let i : Instr := if o.transmit then .ethernetTransmitDone else .ethernetFrameReceive
    (if o.transmit then [.event i { EventArgs.blank with x := port, y := k, flag := true }] else []) ++
      [evt i port k (o.parts.length + 1) (.steward 0), evt i port k 0 (.steward 0)]).flatten

/-- The moves of contributions on their way. -/
def State.putMoves (s : State) : List Move :=
  s.puts.flatMap fun c =>
    let a : EventArgs := { EventArgs.blank with x := c.id, flag := true }
    [.event .packetAcknowledge a, .event .destinationUnreachable a]

/-- The moves of the fabric and the ports. -/
def State.portMoves (s : State) : List Move :=
  let on (i : Instr) (x y : Nat) : Move := evt i x y 0 (.steward 0)
  (s.slots.flatMap fun x => [on .roundTimeout x.port x.slot, on .slotCloseTimeout x.port x.slot]) ++
    (s.sent.flatMap fun k => [on .packetResendTimeout k.device k.seq, on .destinationUnreachable k.device 0]) ++
    ((List.range 16).flatMap fun n => if (s.fabricPort n).command.isSome then [on .fabricUpTimeout n 0] else []) ++
    s.putMoves ++ (List.range 2).flatMap fun n =>
      s.etherMoves n ++ if (s.etherPort n).command.isSome then [on .ethernetUpTimeout n 0] else []

/-- Every move that the module itself may make next. -/
def State.ownMoves (s : State) : List Move :=
  (s.parties.flatMap fun q => s.partyMoves q) ++
    ((List.range Config.computeCores).flatMap fun k => matrixMoves k (s.core k)) ++ s.memoryMoves ++ s.shuttleMoves ++ s.portMoves

/-- The move of an empty agenda: the module's moves in turn, or time passes. -/
def State.defaultMove (s : State) : Move :=
  let ms := s.ownMoves
  (ms[s.turn % ms.length]?).getD (.tick 1)

/-- The next move, taken off the agenda. A module without power has none of its own. -/
def State.nextMove (s : State) : Option (Move × State) :=
  match s.agenda with
  | m :: r => some (m, { s with agenda := r, clk := s.clk + 1 })
  | [] => if s.powered then some (s.defaultMove, { s with turn := s.turn + 1, clk := s.clk + 1 }) else none

/-! ## Placing an instruction (log 5) -/

/-- A word where steward core 128 fetches next, which the schedule then lets issue. -/
def State.placeScalar (s : State) (w : Nat) : State :=
  let p : PartyId := .steward 0
  { s with
    mem := writeBytes s.mem (s.party p).pc.toNat (toLe 4 w)
    agenda := .issue p :: s.agenda }

/-- The group that runs a placed lane instruction: group 0 of workgroup 0 of partition 0, 32 threads, 64 registers. -/
def placedGroup (clk : Nat) : Party :=
  { Party.blank (.group 0 0 0) 0 with
    width := .native
    vcount := 64
    em := BitVec.allOnes 32
    spaceid := 1
    run := some ⟨0xFFF4, 0x10000, 1, List.replicate 16 0, some 0, some 1, none, [], none, 0⟩
    lastRunEnd := clk }

def placedWorkgroup : Workgroup where
  part := 0
  id := 0
  launch := 1
  rung := none
  rungOwn := none
  index := 0
  core := 0
  share := 0
  length := 0
  groups := [.group 0 0 0]
  state := .resident
  startedAt := 0
  savedAt := 0
  aged := 0
  retried := false
  sharing := none
  deferred := false
  displaced := false
  poolAt := 0
  shadowed := false
  imageErrors := []
  latch := []
  items := []
  image := []
  scaleImage := []
  savedMatrix := []

/-- A cached translation of core 0: the page at 0x10000 is frame 1, valid, executable, user, certified. -/
def placedPage : TlbEntry := ⟨0, 1, 0x10000, 0x10000, 0, 0x12019, false, [(1, true)]⟩

/-- A lane instruction placed as the next of a run of a resident group. -/
def State.placeLane (s : State) (bs : List Byte) : State :=
  { s with
    mem := writeBytes s.mem 0x10000 bs
    choice := { s.choice with stale := true }
    tlb := placedPage :: s.tlb
    parties := s.parties ++ [placedGroup s.clk]
    workgroups := placedWorkgroup :: s.workgroups
    partitions := s.partitions.modify 0 fun p => { p with enabled := true, spaceid := 1, cores := 1 }
    agenda := .lane (.group 0 0 0) :: s.agenda }

/-- Places an instruction where the next step fetches it. -/
def State.placeWord (s : State) (nbits w : Nat) : State :=
  if nbits ≤ 32 then s.placeScalar w else s.placeLane (toLe (if nbits ≤ 96 then 12 else 16) w)

end Sys2Proof.Machine
end

