-- ==== Sys2Proof/Machine/Step.lean ====
section
/-!
DEFINITION. One step: the next move of the schedule, taken by `exec`.
-/

namespace Sys2Proof.Machine

/-- One step of the machine. Time advances by one `clk`, or by what a tick move names. -/
def step (s : State) : Host.Outcome State Fault Refusal :=
  match s.nextMove with
  | none => .fault .noPower
  | some (m, s1) =>
    match s1.prepare m with
    | (s2, some i) => s1.finish m (exec i s2)
    | (s2, none) => s1.finish m (.next s2)

/-- Places an instruction where the next step fetches it, and has the schedule run it (log 5). -/
def State.withFetchWord (s : State) (nbits w : Nat) : State := s.placeWord nbits w

end Sys2Proof.Machine
end

