-- ==== Sys2Proof/Certificates/Slice0/Obligations.lean ====
section
/-!
DEFINITION. What is claimed of the machine: one `Obligations.<Name>` for each claim, and above each the words it is
said in.
-/

namespace Sys2Proof.Machine

/-! ## Words of the claims -/

/-- `exec` of an instruction answers a next state of which `P` holds. -/
def Gives (i : Instr) (s : State) (P : State → Prop) : Prop := ∃ t, exec i s = .next t ∧ P t

/-- The acting party exists, no register that the instruction names waits for an answer, and no source register holds
an uncorrected error: what the interlocks and R89 ask before a scalar instruction goes on. -/
structure Ready (s : State) (dests srcs : List (BitVec 6)) : Prop where
  here : (s.party? s.actor).isSome = true
  free : ∀ r ∈ dests ++ srcs, s.me.isPending r.toNat = false
  sound : ∀ r ∈ srcs, s.sregBad s.actor r.toNat = false

/-- FRAME. Scalar register `d` of the acting party takes `v` (s0 takes nothing, R22, R46), its program counter is `pc`,
the error that the register held is gone (R89); nothing else changes: no other register, flag or special register of
the party, no other party, no byte of memory, no other part of the machine. -/
structure WroteAt (s t : State) (d : BitVec 6) (v pc : DWord) : Prop where
  reg : ∀ r : Nat, t.me.sreg r = if r = d.toNat ∧ r ≠ 0 then v else s.me.sreg r
  pc : t.me.pc = pc
  mine : { t.me with sregs := s.me.sregs, pc := s.me.pc } = s.me
  others : ∀ p, p ≠ s.actor → t.party p = s.party p
  errors : ∀ e, e ∈ t.errors ↔ e ∈ s.errors ∧ e ≠ .sreg s.actor d.toNat
  bytes : ∀ a, cellGet t.mem a = cellGet s.mem a
  rest : { t with parties := s.parties, errors := s.errors } = s

/-- The same, going on to the next instruction. -/
def Wrote (s t : State) (d : BitVec 6) (v : DWord) : Prop := WroteAt s t d v (s.me.pc + 4)

/-- FRAME. The acting party is now `q`; no other party, no byte of memory and no other part of the machine changes. -/
structure Became (s t : State) (q : Party) : Prop where
  me : t.me = q
  others : ∀ p, p ≠ s.actor → t.party p = s.party p
  bytes : ∀ a, cellGet t.mem a = cellGet s.mem a
  rest : { t with parties := s.parties } = s

/-- FRAME. The acting party parks on a fault of class `cls` and its record waits for delivery; no register, no byte of
memory, no other party and nothing else of the machine changes (R171, R299), but that its wait, an acquire of its scalar stream and
a load of it that is part of the way through are abandoned (R21, R240; `Party.letGo`), and that a run that stops with it leaves its
lane (R12). A steward core keeps its fault registers but
where firmware has not written the kernel queue yet (R310). -/
structure Trapped (s t : State) (cls : FaultClass) : Prop where
  parked : t.me.status = .parked
  park : (t.me.park.map (·.cls)) = some cls
  mine :
    { t.me with
      status := s.me.status
      park := s.me.park
      paused := s.me.paused
      faultinfo := s.me.faultinfo
      faultaddr := s.me.faultaddr
      faultaddr2 := s.me.faultaddr2 } = s.me.letGo
  stops : t.me.paused = (s.me.paused || (s.me.run.isSome && ((t.me.park.map (·.unit.isLane)).getD false)))
  own : s.actor.isSteward = false ∨ s.queueSized s.kernelQueue = true →
    t.me.faultinfo = s.me.faultinfo ∧ t.me.faultaddr = s.me.faultaddr ∧ t.me.faultaddr2 = s.me.faultaddr2
  record : ∃ r, t.records = s.records ++ [⟨s.fresh, s.actor.queue, dieOfCore s.me.core, true, 0, r⟩] ∧ r.cls = cls ∧
    r.pc = s.me.pc ∧ r.identity = s.identity s.me
  others : ∀ p, p ≠ s.actor → t.party p = s.party p
  bytes : ∀ a, cellGet t.mem a = cellGet s.mem a
  rest : { t with parties := s.parties, records := s.records, fresh := s.fresh } = s

/-- A word that is no instruction: it is decoded to an error, and what a step then executes raises class 0x01 (R5). -/
def RaisesIllegal (w : Word) : Prop :=
  (∃ e, decodeScalar w = .error e) ∧
  ∀ s : State, (s.party? s.actor).isSome = true → s.args.flag = false → Gives .illegalEncoding s (Trapped s · .illegal)

end Sys2Proof.Machine

section

open Sys2Proof Sys2Proof.Machine

/-! ## Scalar computation (04_ref_compute.md) -/

/-- R90. Every ALU instruction, on every operand: its result, and that nothing else changes. Function codes 0x20 to
0xFF, and a used `sb` on the one-source forms, raise class 0x01. -/
def Obligations.AluRegister : Prop :=
  (∀ (s : State) (d a b : BitVec 6), Ready s [d] [a, b] →
    let x := s.rd a
    let y := s.rd b
    let sh := y.toNat % 64
    Gives (.add d a b) s (Wrote s · d (x + y)) ∧
    Gives (.sub d a b) s (Wrote s · d (x - y)) ∧
    Gives (.and d a b) s (Wrote s · d (x &&& y)) ∧
    Gives (.or d a b) s (Wrote s · d (x ||| y)) ∧
    Gives (.xor d a b) s (Wrote s · d (x ^^^ y)) ∧
    Gives (.andn d a b) s (Wrote s · d (x &&& ~~~y)) ∧
    Gives (.shl d a b) s (Wrote s · d (BitVec.ofNat 64 (x.toNat * 2 ^ sh))) ∧
    Gives (.shr d a b) s (Wrote s · d (BitVec.ofNat 64 (x.toNat / 2 ^ sh))) ∧
    Gives (.sar d a b) s (Wrote s · d (BitVec.ofInt 64 (x.toInt / 2 ^ sh))) ∧
    Gives (.rol d a b) s (Wrote s · d (x <<< sh ||| x >>> (64 - sh))) ∧
    Gives (.mul d a b) s (Wrote s · d (x * y)) ∧
    Gives (.mulh d a b) s (Wrote s · d (BitVec.ofInt 64 (x.toInt * y.toInt / 2 ^ 64))) ∧
    Gives (.mulhu d a b) s (Wrote s · d (BitVec.ofNat 64 (x.toNat * y.toNat / 2 ^ 64))) ∧
    Gives (.div d a b) s (Wrote s · d (if y = 0 then BitVec.allOnes 64 else BitVec.ofInt 64 (x.toInt.tdiv y.toInt))) ∧
    Gives (.divu d a b) s (Wrote s · d (if y = 0 then BitVec.allOnes 64 else BitVec.ofNat 64 (x.toNat / y.toNat))) ∧
    Gives (.rem d a b) s (Wrote s · d (if y = 0 then x else BitVec.ofInt 64 (x.toInt.tmod y.toInt))) ∧
    Gives (.remu d a b) s (Wrote s · d (if y = 0 then x else BitVec.ofNat 64 (x.toNat % y.toNat))) ∧
    Gives (.min d a b) s (Wrote s · d (if x.toInt ≤ y.toInt then x else y)) ∧
    Gives (.max d a b) s (Wrote s · d (if y.toInt ≤ x.toInt then x else y)) ∧
    Gives (.minu d a b) s (Wrote s · d (if x.toNat ≤ y.toNat then x else y)) ∧
    Gives (.maxu d a b) s (Wrote s · d (if y.toNat ≤ x.toNat then x else y)) ∧
    Gives (.slt d a b) s (Wrote s · d (if x.toInt < y.toInt then 1 else 0)) ∧
    Gives (.sltu d a b) s (Wrote s · d (if x.toNat < y.toNat then 1 else 0)) ∧
    Gives (.seq d a b) s (Wrote s · d (if x = y then 1 else 0)) ∧
    Gives (.addw d a b) s (Wrote s · d (((x + y).setWidth 32).signExtend 64)) ∧
    Gives (.subw d a b) s (Wrote s · d (((x - y).setWidth 32).signExtend 64)) ∧
    Gives (.mulw d a b) s (Wrote s · d (((x * y).setWidth 32).signExtend 64))) ∧
  (∀ (s : State) (d a : BitVec 6), Ready s [d] [a] →
    let x := s.rd a
    Gives (.clz d a) s (fun t => ∃ n : Nat, Wrote s t d (BitVec.ofNat 64 n) ∧ n ≤ 64 ∧ x.toNat < 2 ^ (64 - n) ∧
      (n < 64 → x.getLsbD (63 - n) = true)) ∧
    Gives (.ctz d a) s (fun t => ∃ n : Nat, Wrote s t d (BitVec.ofNat 64 n) ∧ n ≤ 64 ∧
      (∀ i, i < n → x.getLsbD i = false) ∧ (n < 64 → x.getLsbD n = true)) ∧
    Gives (.popc d a) s (Wrote s · d (BitVec.ofNat 64 ((List.range 64).countP fun i => x.getLsbD i))) ∧
    Gives (.brev d a) s (fun t => ∃ v : DWord, Wrote s t d v ∧ ∀ i, i < 64 → v.getLsbD i = x.getLsbD (63 - i)) ∧
    Gives (.bswap d a) s (fun t => ∃ v : DWord, Wrote s t d v ∧
      ∀ i, i < 8 → v.extractLsb' (8 * i) 8 = x.extractLsb' (8 * (7 - i)) 8)) ∧
  (∀ w : Word, fMajor w = 0 → (0x20 ≤ (fFn w).toNat ∨ (0x18 ≤ (fFn w).toNat ∧ (fFn w).toNat ≤ 0x1C ∧ fB w ≠ 0)) →
    RaisesIllegal w)

/-- R91. Every immediate instruction: its result, its frame; bits [13:6] of a shift that are not zero raise class 0x01.
R92, R93, R94. LUI, AUIPC and LHI: result and frame. -/
def Obligations.AluImmediate : Prop :=
  ((∀ (s : State) (d a : BitVec 6) (i : BitVec 14), Ready s [d] [a] →
    let x := s.rd a
    let y : DWord := i.signExtend 64
    Gives (.addi d a i) s (Wrote s · d (x + y)) ∧
    Gives (.andi d a i) s (Wrote s · d (x &&& y)) ∧
    Gives (.ori d a i) s (Wrote s · d (x ||| y)) ∧
    Gives (.xori d a i) s (Wrote s · d (x ^^^ y)) ∧
    Gives (.slti d a i) s (Wrote s · d (if x.toInt < i.toInt then 1 else 0)) ∧
    Gives (.sltui d a i) s (Wrote s · d (if x.toNat < y.toNat then 1 else 0)) ∧
    Gives (.seqi d a i) s (Wrote s · d (if x = y then 1 else 0)) ∧
    Gives (.muli d a i) s (Wrote s · d (x * y))) ∧
  (∀ (s : State) (d a n : BitVec 6), Ready s [d] [a] →
    let x := s.rd a
    Gives (.shli d a n) s (Wrote s · d (BitVec.ofNat 64 (x.toNat * 2 ^ n.toNat))) ∧
    Gives (.shri d a n) s (Wrote s · d (BitVec.ofNat 64 (x.toNat / 2 ^ n.toNat))) ∧
    Gives (.sari d a n) s (Wrote s · d (BitVec.ofInt 64 (x.toInt / 2 ^ n.toNat)))) ∧
  (∀ w : Word, 5 ≤ (fMajor w).toNat → (fMajor w).toNat ≤ 7 → (fImm14 w).toNat / 64 ≠ 0 →
    RaisesIllegal w)) ∧
  (∀ (s : State) (d : BitVec 6) (i : BitVec 20),
    (Ready s [d] [] →
      Gives (.lui d i) s (fun t => ∃ v : DWord, Wrote s t d v ∧ v.toInt = i.toInt * 2 ^ 14) ∧
      Gives (.auipc d i) s (Wrote s · d (s.me.pc + BitVec.ofInt 64 (i.toInt * 2 ^ 14)))) ∧
    (Ready s [d] [d] →
      Gives (.lhi d i) s (Wrote s · d
        ((BitVec.ofNat 54 (i.toNat * 2 ^ 34 + (s.rd d).toNat % 2 ^ 34)).signExtend 64))))

/-! ## Control (09_ref_control.md) -/

/-- R243. Where a branch continues: at P + 4 × its displacement where it is taken, at P + 4 where it is not; CALL writes
s63 first. Nothing else changes.
R244. JALR reads `S[sa]` before it writes the link, and continues at the target; a target that is no multiple of 4
raises class 0x04 with no effect. -/
def Obligations.Branches : Prop :=
  (∀ (s : State),
    let p := s.me.pc
    let far (taken : Prop) [Decidable taken] (disp : Int) : DWord :=
      if taken then p + BitVec.ofInt 64 (4 * disp) else p + 4
    let goes (i : Instr) (pc : DWord) : Prop := Gives i s fun t => Became s t { s.me with pc := pc }
    (Ready s [] [] → ∀ i : BitVec 26, goes (.br i) (p + BitVec.ofInt 64 (4 * i.toInt))) ∧
    (Ready s [63] [] → ∀ i : BitVec 26,
      Gives (.call i) s fun t => WroteAt s t 63 (p + 4) (p + BitVec.ofInt 64 (4 * i.toInt))) ∧
    (∀ (a : BitVec 6) (i : BitVec 20), Ready s [] [a] →
      goes (.bz a i) (far (s.rd a = 0) i.toInt) ∧ goes (.bnz a i) (far (s.rd a ≠ 0) i.toInt)) ∧
    (∀ (a b : BitVec 6) (i : BitVec 14), Ready s [] [a, b] →
      let x := s.rd a
      let y := s.rd b
      goes (.beq a b i) (far (x = y) i.toInt) ∧ goes (.bne a b i) (far (x ≠ y) i.toInt) ∧
      goes (.blt a b i) (far (x.toInt < y.toInt) i.toInt) ∧ goes (.bge a b i) (far (x.toInt ≥ y.toInt) i.toInt) ∧
      goes (.bltu a b i) (far (x.toNat < y.toNat) i.toInt) ∧ goes (.bgeu a b i) (far (x.toNat ≥ y.toNat) i.toInt))) ∧
  (∀ (s : State) (d a : BitVec 6) (i : BitVec 14), Ready s [d] [a] →
    let t := s.rd a + i.signExtend 64
    (t.toNat % 4 = 0 → Gives (.jalr d a i) s (WroteAt s · d (s.me.pc + 4) t)) ∧
    (t.toNat % 4 ≠ 0 → Gives (.jalr d a i) s (Trapped s · .alignment)))

namespace Sys2Proof.Machine

/-- The scalar stream of a group that has waited for its runs (R14): its later accesses follow theirs (R145). -/
def synced (s : State) : State := s.upd Party.sync

/-- The acting party is an existing group whose lane queue is empty. -/
def GroupIdle (s : State) : Prop := s.actor.isSteward = false ∧ s.me.laneIdle = true

/-- FRAME. Mask register `d` takes bits 0 to GW − 1 of `v`, and nothing else changes but the program counter. -/
structure WroteMask (s t : State) (d : BitVec 3) (v : Word) : Prop where
  mask : ∀ n : Nat, t.me.kreg n = if n = d.toNat then v &&& fullMask s.me.gw else s.me.kreg n
  pc : t.me.pc = s.me.pc + 4
  mine : { t.me with kregs := s.me.kregs, pc := s.me.pc } = s.me
  others : ∀ p, p ≠ s.actor → t.party p = s.party p
  bytes : ∀ a, cellGet t.mem a = cellGet s.mem a
  rest : { t with parties := s.parties } = s

end Sys2Proof.Machine

/-- R247. The MASK family's moves and logic, and its reads into scalar registers; k0 reads as ones.
R241, R34. It waits for the group's runs. Writing k0 raises class 0x01, and a steward core has no MASK family. -/
def Obligations.MaskRegisters : Prop :=
  (∀ q : Party, q.kreg 0 = fullMask q.gw) ∧
  (∀ (s : State) (d a b : BitVec 3) (r : BitVec 6), s.actor.isSteward = false → s.me.laneIdle = false →
    ∀ j ∈ ([.kmov d a, .kand d a b, .kor d a b, .kxor d a b, .kandn d a b, .knot d a, .kpopc r a, .kffs r a, .ktos r a, .kall r a, .stok d r,
      .divpush a r, .divelse, .divpop] : List Instr), Gives j s (· = s)) ∧
  (∀ (s : State), GroupIdle s →
    (∀ (d a b : BitVec 3), Ready s [] [] → d ≠ 0 →
      let x := s.me.kreg a.toNat
      let y := s.me.kreg b.toNat
      Gives (.kmov d a) s (WroteMask (synced s) · d x) ∧
      Gives (.kand d a b) s (WroteMask (synced s) · d (x &&& y)) ∧
      Gives (.kor d a b) s (WroteMask (synced s) · d (x ||| y)) ∧
      Gives (.kxor d a b) s (WroteMask (synced s) · d (x ^^^ y)) ∧
      Gives (.kandn d a b) s (WroteMask (synced s) · d (x &&& ~~~y)) ∧
      Gives (.knot d a) s (WroteMask (synced s) · d (~~~x))) ∧
    (∀ (d : BitVec 3) (a : BitVec 6), Ready s [] [a] → d ≠ 0 →
      Gives (.stok d a) s (WroteMask (synced s) · d ((s.rd a).setWidth 32))) ∧
    (∀ (d : BitVec 6) (a : BitVec 3), Ready s [d] [] →
      let x := s.me.kreg a.toNat
      Gives (.kpopc d a) s (Wrote (synced s) · d (BitVec.ofNat 64 ((List.range 32).countP fun i => x.getLsbD i))) ∧
      Gives (.kffs d a) s (fun t => ∃ v : DWord, Wrote (synced s) t d v ∧ (x = 0 → v = BitVec.allOnes 64) ∧
        (x ≠ 0 → x.getLsbD v.toNat = true ∧ ∀ i, i < v.toNat → x.getLsbD i = false)) ∧
      Gives (.ktos d a) s (Wrote (synced s) · d (x.setWidth 64)) ∧
      Gives (.kall d a) s (Wrote (synced s) · d (if s.me.em &&& x = s.me.em then 1 else 0)))) ∧
  (∀ (s : State) (a b : BitVec 3), Ready s [] [] →
    (GroupIdle s →
      Gives (.kmov 0 a) s (Trapped (synced s) · .illegal) ∧ Gives (.kand 0 a b) s (Trapped (synced s) · .illegal) ∧
      Gives (.kor 0 a b) s (Trapped (synced s) · .illegal) ∧ Gives (.kxor 0 a b) s (Trapped (synced s) · .illegal) ∧
      Gives (.kandn 0 a b) s (Trapped (synced s) · .illegal) ∧ Gives (.knot 0 a) s (Trapped (synced s) · .illegal)) ∧
    (s.actor.isSteward = true →
      ∀ (d : BitVec 3) (r : BitVec 6) (i : BitVec 20) (n : BitVec 8), ∀ j ∈ ([.kmov d a, .kand d a b, .kor d a b, .kxor d a b, .kandn d a b,
        .knot d a, .kpopc r a, .kffs r a, .ktos r a, .kall r a, .stok d r, .divpush a r, .divelse, .divpop, .bkany a i,
        .bknone a i, .vread r n r] : List Instr), Gives j s (Trapped s · .illegal)))

/-- R248, R249. The divergence stack, and the branches on masks, which wait for the group's runs. -/
def Obligations.Divergence : Prop :=
  (∀ (s : State) (k : BitVec 3) (i : BitVec 20), s.actor.isSteward = false → s.me.laneIdle = false →
    Gives (.bkany k i) s (· = s) ∧ Gives (.bknone k i) s (· = s)) ∧
  ∀ (s : State), GroupIdle s →
    let q := (synced s).me
    let becomes (i : Instr) (q' : Party) : Prop := Gives i s fun t => Became (synced s) t q'
    (∀ (a : BitVec 3) (b : BitVec 6), Ready s [] [b] →
      let join := s.rd b
      (join.toNat % 4 ≠ 0 → Gives (.divpush a b) s (Trapped (synced s) · .alignment)) ∧
      (join.toNat % 4 = 0 → q.divs.length = 16 → Gives (.divpush a b) s (Trapped (synced s) · .illegal)) ∧
      (join.toNat % 4 = 0 → q.divs.length ≠ 16 →
        becomes (.divpush a b)
          { q with divs := ⟨q.em, q.fmt, join⟩ :: q.divs, em := q.em &&& q.kreg a.toNat, pc := q.pc + 4 })) ∧
    (Ready s [] [] →
      (q.divs = [] → Gives .divelse s (Trapped (synced s) · .illegal) ∧ Gives .divpop s (Trapped (synced s) · .illegal)) ∧
      (∀ e r, q.divs = e :: r →
        becomes .divpop { q with em := e.em, fmt := e.fmt, divs := r, pc := q.pc + 4 } ∧
        (e.em &&& ~~~q.em ≠ 0 → becomes .divelse { q with em := e.em &&& ~~~q.em, fmt := e.fmt, pc := q.pc + 4 }) ∧
        (e.em &&& ~~~q.em = 0 → becomes .divelse { q with em := e.em, fmt := e.fmt, divs := r, pc := e.join })) ∧
      (∀ (k : BitVec 3) (i : BitVec 20),
        let hit := q.kreg k.toNat &&& q.em
        let far := q.pc + BitVec.ofInt 64 (4 * i.toInt)
        becomes (.bkany k i) { q with pc := if hit ≠ 0 then far else q.pc + 4 } ∧
        becomes (.bknone k i) { q with pc := if hit = 0 then far else q.pc + 4 }))

/-- R245, R246. A run is queued with its snapshot of s32 to s47 at lane address B + S[sa] + 4 × imm; LSYNC goes on
once the queue is empty and the named flags are clear, and their tags go. -/
def Obligations.RunsQueuedAndAwaited : Prop :=
  ∀ (s : State) (a : BitVec 6), s.actor.isSteward = false → Ready s [] [a] →
    (∀ i : BitVec 14,
      let off := s.rd a + BitVec.ofInt 64 (4 * i.toInt)
      let base := ((s.rcbOf s.actor).map (·.lanes)).getD 0
      (off.toNat % 4 ≠ 0 → Gives (.lrun a i) s (Trapped s · .alignment)) ∧
      (off.toNat % 4 = 0 → s.me.queued < 4 → (∀ n, n < 16 → s.me.isPending (32 + n) = false) →
        (∀ n, n < 16 → s.sregBad s.actor (32 + n) = false) →
        Gives (.lrun a i) s fun t => Became s t
          { s.me with
            queue := s.me.queue ++ [⟨(base + off.toNat) % 2 ^ 64, (List.range 16).map fun n => s.me.sreg (32 + n), s.fresh⟩]
            readySince := if s.me.queued = 0 then none else s.me.readySince
            pc := s.me.pc + 4 })) ∧
    (∀ m : Nat, m = (s.rd a).toNat →
      (4096 ≤ m → Gives (.lsync a) s (Trapped s · .illegal)) ∧
      (m < 4096 → s.me.laneIdle = true → (∀ o ∈ s.me.ops, ∀ f, o.flag = some f → m.testBit f = false) →
        Gives (.lsync a) s fun t => Became s t
          { s.me.sync with
            tags := s.me.tags.filter fun g => !m.testBit g.2
            pc := s.me.pc + 4 }))

/-- R250. VREAD: it waits for the group's runs; its three faults, in their order; the word that it reads, whatever EM and masks are. -/
def Obligations.VectorRead : Prop :=
  (∀ (s : State) (d : BitVec 6) (n : BitVec 8) (th : BitVec 6), s.actor.isSteward = false → s.me.laneIdle = false →
    Gives (.vread d n th) s (· = s)) ∧
  ∀ (s : State) (d : BitVec 6) (n : BitVec 8) (th : BitVec 6), GroupIdle s → Ready s [d] [] →
    let q := s.me
    let declared := th.toNat < q.gw ∧ n.toNat < q.vcount
    let tagged := ∃ g ∈ q.tags, g.1 = n.toNat
    let bad := ErrSite.vreg s.actor n.toNat th.toNat ∈ s.errors
    (¬declared → Gives (.vread d n th) s (Trapped (synced s) · .illegal)) ∧
    (declared → tagged → Gives (.vread d n th) s (Trapped (synced s) · .schedule)) ∧
    (declared → ¬tagged → bad → Gives (.vread d n th) s (Trapped (synced s) · .storeError)) ∧
    (declared → ¬tagged → ¬bad →
      Gives (.vread d n th) s (Wrote (synced s) · d ((q.vreg n.toNat th.toNat).setWidth 64)))

namespace Sys2Proof.Machine

/-- The numbers of R29. -/
def sysNumbers : List (Nat × SysReg) :=
  [(0x000, .yrev), (0x001, .dieid), (0x002, .coreid), (0x003, .gwid), (0x004, .grpid), (0x005, .wgid), (0x006, .partid),
    (0x007, .clk), (0x100, .faultinfo), (0x101, .faultaddr), (0x102, .faultaddr2), (0x110, .spaceid), (0x111, .ptroot),
    (0x112, .kfmap)]

/-- FRAME of SFMT and of a CSR write: the register `d` takes the old value, `f` changes the acting party beside it. -/
def WroteBeside (s t : State) (d : BitVec 6) (v : DWord) (f : Party → Party) : Prop := Wrote (s.upd f) t d v

/-- A type code that R25 lets FMT hold, with its rounding and no other bit. -/
def FmtValue (v : Word) : Prop := v.toNat < 1024 ∧ v.toNat / 16 % 16 < 4 ∧ v.toNat % 16 < 14

end Sys2Proof.Machine

/-- R252, R29. CSR reads every register of R29 under its number, and any other number raises class 0x01. The read-only ones give
the stepping, the die, the core, the width and place of a group (zeros on a steward core) and its partition; R272: on a steward
core `partid` is that of the enabled partition whose spaceid is loaded, 0 where there is none. R30. `clk` is within its skew of one
common count; how the skew splits between die and core is the model's (log 8). The steward's own are privileged; a write gives the old value and takes
the new one, unless a bit that must be zero is set, the register is read-only, or `kfmap` is locked. A new `spaceid` or
`ptroot` leaves no word fetched ahead.
R251, R25. SFMT's three operations, on an FMT value that R25 allows; another raises class 0x01. -/
def Obligations.SystemRegisters : Prop :=
  ((∀ p ∈ sysNumbers, SysReg.ofNumber p.1 = some p.2) ∧
    (∀ (s : State) (d a : BitVec 6) (n : BitVec 12), (∀ p ∈ sysNumbers, p.1 ≠ n.toNat) → Ready s [d] [a] →
      ∀ i ∈ ([.csrr d n, .csrw d a n, .csrs d a n, .csrc d a n] : List Instr), Gives i s (Trapped s · .illegal)) ∧
    (∀ (s : State) (d : BitVec 6), Ready s [d] [] →
      let reads (n : BitVec 12) (v : Nat) : Prop := Gives (.csrr d n) s (Wrote s · d (BitVec.ofNat 64 v))
      let core := s.me.core
      reads 0 0x598800B0 ∧ reads 2 core ∧ (core < 128 → reads 1 (core / 32)) ∧ (128 ≤ core → reads 1 ((core - 128) / 4)) ∧
      (∀ part wg i, s.actor = .group part wg i →
        reads 3 s.me.gw ∧ reads 4 i ∧ reads 6 part ∧ ∀ w, s.wg? part wg = some w → reads 5 w.index) ∧
      (∀ n, s.actor = .steward n →
        let names (p : Nat) : Prop := (s.partition p).enabled = true ∧ (s.partition p).spaceid = s.me.spaceid.toNat
        reads 3 0 ∧ reads 4 0 ∧ reads 5 0 ∧
        (∀ p, p < 16 → names p → (∀ m, m < p → ¬names m) → reads 6 p) ∧ ((∀ p, p < 16 → ¬names p) → reads 6 0))) ∧
    ∃ die core : Nat → Nat, (∀ n, die n ≤ 12 ∧ core n ≤ 2) ∧
      ∀ (s : State) (d : BitVec 6), Ready s [d] [] →
        Gives (.csrr d 7) s (Wrote s · d (BitVec.ofNat 64 (s.clk + core s.me.core + die (dieOfCore s.me.core))))) ∧
  (∀ (s : State) (d a : BitVec 6) (n : BitVec 12) (r : SysReg), SysReg.ofNumber n.toNat = some r →
    let old := s.readSys r
    let steward := r.readOnly = false
    (Ready s [d] [] → (r.readOnly = true ∨ s.actor.isSteward = true) → Gives (.csrr d n) s (Wrote s · d old)) ∧
    (Ready s [d] [] → steward → s.actor.isSteward = false → Gives (.csrr d n) s (Trapped s · .privilege)) ∧
    (Ready s [d] [a] →
      let x := s.rd a
      ∀ p ∈ ([(.csrw d a n, x), (.csrs d a n, old ||| x), (.csrc d a n, old &&& ~~~x)] : List (Instr × DWord)),
        (steward → s.actor.isSteward = false → Gives p.1 s (Trapped s · .privilege)) ∧
        (r.readOnly = true → Gives p.1 s (Trapped s · .illegal)) ∧
        (steward → s.actor.isSteward = true → r = .kfmap → s.kfmap.getLsbD 0 = true → Gives p.1 s (Trapped s · .privilege)) ∧
        (steward → s.actor.isSteward = true → ¬(r = .kfmap ∧ s.kfmap.getLsbD 0 = true) → p.2.toNat &&& r.zeroBits ≠ 0 →
          Gives p.1 s (Trapped s · .illegal)) ∧
        (steward → s.actor.isSteward = true → ¬(r = .kfmap ∧ s.kfmap.getLsbD 0 = true) → p.2.toNat &&& r.zeroBits = 0 →
          Gives p.1 s fun t => Wrote (s.writeSys r p.2) t d old ∧
            { s.writeSys r p.2 with parties := s.parties, kfmap := s.kfmap } = s ∧ (∀ q, q ≠ s.actor → (s.writeSys r p.2).party q = s.party q) ∧
            (let q := (s.writeSys r p.2).me
             (r = .spaceid ∨ r = .ptroot → q.fetched = []) ∧ (¬(r = .spaceid ∨ r = .ptroot) → q.fetched = s.me.fetched) ∧
             { q with
               faultinfo := s.me.faultinfo
               faultaddr := s.me.faultaddr
               faultaddr2 := s.me.faultaddr2
               spaceid := s.me.spaceid
               ptroot := s.me.ptroot
               fetched := s.me.fetched } = s.me) ∧
            ∀ r', (s.writeSys r p.2).readSys r' = if r' = r then p.2 else
              if r' = .partid then (s.writeSys r p.2).readSys .partid else s.readSys r'))) ∧
  (∀ (s : State) (d a : BitVec 6) (v : BitVec 10), s.me.laneIdle = true → Ready s [d] [a] →
    let x := (v ||| (s.rd a).setWidth 10).setWidth 32
    let old := s.me.fmt
    let writes (i : Instr) (new : Word) : Prop :=
      ((s.rd a).toNat < 1024 → FmtValue new →
        Gives i s fun t => WroteBeside (synced s) t d (old.setWidth 64) fun q => { q with fmt := new }) ∧
      (1024 ≤ (s.rd a).toNat ∨ ¬FmtValue new → Gives i s (Trapped (synced s) · .illegal))
    writes (.sfmtW d a v) x ∧ writes (.sfmtS d a v) (old ||| x) ∧ writes (.sfmtC d a v) (old &&& ~~~x))

/-! ## Scalar memory (07_ref_memory.md, 06_ordering.md) -/

namespace Sys2Proof.Machine

/-- FRAME. The acting party is now `q`, and `n` internal numbers have been taken; no other party, no byte of memory and
nothing else of the machine changes. -/
structure Entered (s t : State) (q : Party) (n : Nat) : Prop where
  me : t.me = q
  others : ∀ p, p ≠ s.actor → t.party p = s.party p
  bytes : ∀ a, cellGet t.mem a = cellGet s.mem a
  rest : { t with parties := s.parties, fresh := s.fresh } = s
  fresh : t.fresh = s.fresh + n

/-- Nothing of the party stands before a load, which is not part of the way through: no lane acquire (R152). -/
def LoadFree (s : State) : Prop := s.me.acquireBehind = false ∧ s.me.half = none

/-- Nothing stands before a store or an atomic: no lane acquire and no lane load without a value (R145, R152). -/
def StoreFree (s : State) : Prop := s.me.acquireBehind = false ∧ s.me.loadsBehind = false

/-- A load that has performed a piece remembers its line, for the acquire of a later fence (R152); `h`: the pieces still to be
performed, with the bytes so far. -/
def afterPiece (s : State) (va : Nat) (p : Piece) (h : Option (List Piece × List Byte)) : State :=
  s.upd fun q => { q with loaded := addNew (p.pa / 128, va) q.loaded, half := h }

/-- The atomics of R175 with their operation and width. -/
def atomicForms (d a b : BitVec 6) (sc : BitVec 3) (ar : BitVec 1) : List (Instr × AtomFn × Bool) :=
  [(.amowAdd d a b sc ar, .add, false), (.amowAnd d a b sc ar, .and, false), (.amowOr d a b sc ar, .or, false),
    (.amowXor d a b sc ar, .xor, false), (.amowMin d a b sc ar, .min, false), (.amowMax d a b sc ar, .max, false),
    (.amowMinu d a b sc ar, .minu, false), (.amowMaxu d a b sc ar, .maxu, false), (.amowXchg d a b sc ar, .xchg, false),
    (.amowFadd d a b sc ar, .fadd, false), (.amowFmax32 d a b sc ar, .fmax, false),
    (.amowFamax32 d a b sc ar, .famax, false), (.amodAdd d a b sc ar, .add, true), (.amodAnd d a b sc ar, .and, true),
    (.amodOr d a b sc ar, .or, true), (.amodXor d a b sc ar, .xor, true), (.amodMin d a b sc ar, .min, true),
    (.amodMax d a b sc ar, .max, true), (.amodMinu d a b sc ar, .minu, true), (.amodMaxu d a b sc ar, .maxu, true),
    (.amodXchg d a b sc ar, .xchg, true)]

/-- The two compare-and-swaps, which also read `S[sd]`. -/
def casForms (d a b : BitVec 6) (sc : BitVec 3) (ar : BitVec 1) : List (Instr × AtomFn × Bool) :=
  [(.amowCas d a b sc ar, .cas, false), (.amodCas d a b sc ar, .cas, true)]

/-- An atomic enters the store queue with its operation and operands; `d` waits for the old word, and with `ar` the
stream waits for the atomic. `s1` is what the checks of R171 left, `pc` the word. -/
def AtomicEntered (s s1 t : State) (d a b : BitVec 6) (sc : BitVec 3) (ar : BitVec 1) (fn : AtomFn) (wide : Bool)
    (pc : Piece) : Prop :=
  let q := s1.me
  let dest : AtomDest := if d = 0 then .none else .sreg d.toNat wide
  Entered s1 t
    { q with
      sq := q.sq ++ [⟨s1.fresh, (s.rd a).toNat, scopeOf sc.toNat, decide (ar = 1), decide (ar = 1),
        .atomic pc fn (s.rd b) (s.rd d) dest, none, 0, none, false, false, q.spaceid.toNat, false⟩]
      pending := if d = 0 then q.pending else q.pending ++ [(d.toNat, s1.fresh)]
      stallOn := if ar = 1 ∨ s1.ownTack q.id [pc] = true then q.stallOn ++ [s1.fresh] else q.stallOn
      pc := q.pc + 4 } 1

end Sys2Proof.Machine

/-- R170 to R174. A scalar load performs one piece of its access after the other, each once its levels accept it (R172, R326). The
last one gives the bytes, extended as the size code says: LD writes them, LDA acquires at its scope and then writes them. One with
pieces left keeps what it has read and goes on from there.
R146, R2. What a load reads where nothing nearer holds the bytes: memory's own, lowest address first. The core holds no
clean line and no dirty byte of the piece, no store waits in the queue, no die has a copy of a line, no cache is composed. -/
def Obligations.ScalarLoads : Prop :=
  (∀ (s : State) (d a : BitVec 6) (z : BitVec 3), Ready s [d] [a] → s.me.acquireBehind = false →
    let loads (i : Instr) (va : Nat) (scope : Scope) (acq : Bool) : Prop :=
      let performs (u : State) (got : List Byte) (p : Piece) (r : List Piece) : Prop :=
        u.loadHolds u.me.core (u.partOf u.me) scope acq p = false →
        ∀ (u1 : State) (bs : List Byte), u.loadPiece u.me (u.partOf u.me) scope acq none p = (u1, bs, false) →
          let v := loadExtend z.toNat (got ++ bs)
          let last := afterPiece u1 va p none
          (r = [] → acq = false → Gives i s (Wrote last · d v)) ∧
          (r = [] → acq = true →
            Gives i s (· = last.acquire last.actor scope [(p.pa / 128, va)] (.load d.toNat va z.toNat [p] v))) ∧
          (r ≠ [] → Gives i s (· = afterPiece u1 va p (some (r, got ++ bs))))
      (∀ (s1 : State) (p : Piece) (r : List Piece) (c rw : Bool), s.me.half = none →
        s.checkAccess s.me va (sizeBytes z.toNat) .read acq false = (s1, .ok ⟨p :: r, c, rw⟩) → s.me.atomicPending (p :: r) = false →
        performs s1 [] p r) ∧
      (∀ (p : Piece) (r : List Piece) (got : List Byte), s.me.half = some (p :: r, got) → performs s got p r)
    (∀ i : BitVec 11, loads (.ld d a z i) (s.rd a + i.signExtend 64).toNat .core false) ∧
    (∀ (sc : BitVec 3) (i : BitVec 8),
      loads (.lda d a z sc i) (s.rd a + i.signExtend 64 * BitVec.ofNat 64 (sizeBytes z.toNat)).toNat (scopeOf sc.toNat) true)) ∧
  (∀ (s : State) (q : Party) (part : Option Nat) (scope : Scope) (acq : Bool) (op : Option Nat) (p : Piece),
    s.dieCopies = [] → s.caches = [] → q.sq = [] → (s.core q.core).clean = [] → (s.core q.core).dirty = [] →
    homeDie p.pa = dieOfCore q.core → p.pa % 128 + p.len ≤ 128 →
    (∀ a, a / 128 = p.pa / 128 → (p.pa ≤ a ∧ a < p.pa + p.len) ∨ s.marked (p.pa / 128) = true → ErrSite.mem a ∉ s.errors) →
    s.loadPiece q part scope acq op p = (s, readBytes s.mem p.pa p.len, false))

/-- R172 to R174. ST and STL put the stored bytes into the store queue, one entry for each line they meet, at the address
that the instruction names; no byte of memory changes before an entry is performed. R166. The stream then waits for each
entry whose bytes lie in a range of the party's own tack. -/
def Obligations.ScalarStores : Prop :=
  ∀ (s s1 : State) (d a : BitVec 6) (z : BitVec 3) (x : Xlat), Ready s [] [d, a] → StoreFree s →
    let entries (va : Nat) (scope : Scope) (rel : Bool) (t : State) : Prop :=
      ∃ es : List SqEntry,
        t.me =
          { s1.me with
            sq := s1.me.sq ++ es
            stallOn := s1.me.stallOn ++ ((es.filter fun e =>
              match e.body with
              | .store p _ => s1.ownTack s.actor [p]
              | _ => false).map (·.id))
            pc := s1.me.pc + 4 } ∧
        es.map (·.id) = (List.range x.pieces.length).map (s1.fresh + ·) ∧
        (es.map fun e => e.body) =
          ((cutBytes x.pieces (toLe (sizeBytes z.toNat) (s.rd d).toNat)).map fun c => SqBody.store c.1 c.2) ∧
        (∀ e ∈ es, e.scope = scope ∧ e.release = rel ∧ e.acquire = false ∧ e.op = none ∧ e.held = false ∧
          e.space = s1.me.spaceid.toNat) ∧
        (es.head?.map (·.va) = if x.pieces = [] then none else some va) ∧
        (∀ p, p ≠ s.actor → t.party p = s1.party p) ∧ (∀ b, cellGet t.mem b = cellGet s1.mem b) ∧
        { t with parties := s1.parties, fresh := s1.fresh } = s1
    (∀ i : BitVec 11,
      let va := (s.rd a + i.signExtend 64).toNat
      s.checkAccess s.me va (sizeBytes z.toNat) .write false true = (s1, .ok x) →
      Gives (.st d a z i) s (entries va .core false)) ∧
    (∀ (sc : BitVec 3) (i : BitVec 8),
      let va := (s.rd a + i.signExtend 64 * BitVec.ofNat 64 (sizeBytes z.toNat)).toNat
      s.checkAccess s.me va (sizeBytes z.toNat) .write true true = (s1, .ok x) →
      Gives (.stl d a z sc i) s (entries va (scopeOf sc.toNat) true))

/-- R175, R176. Every scalar atomic enters the store queue as its operation; its register waits for the old word. -/
def Obligations.ScalarAtomics : Prop :=
  ∀ (s s1 : State) (d a b : BitVec 6) (sc : BitVec 3) (ar : BitVec 1) (pc : Piece), StoreFree s →
    (∀ i, i < pc.len → s1.byteBad s.me.core (pc.pa + i) = false) →
    let word (wide : Bool) : Prop :=
      ∃ c r, s.checkAccess s.me (s.rd a).toNat (if wide then 8 else 4) .write true true = (s1, .ok ⟨[pc], c, r⟩) ∧
        pc.len = if wide then 8 else 4
    (Ready s [d] [a, b] → ∀ f ∈ atomicForms d a b sc ar, word f.2.2 →
      Gives f.1 s fun t => AtomicEntered s s1 t d a b sc ar f.2.1 f.2.2 pc) ∧
    (Ready s [d] [a, b, d] → ∀ f ∈ casForms d a b sc ar, word f.2.2 →
      Gives f.1 s fun t => AtomicEntered s s1 t d a b sc ar f.2.1 f.2.2 pc)

/-- R171. A failed check of a scalar access raises its class with the address, and the access has no effect. An ordered
access or an atomic that is not aligned raises class 0x04. -/
def Obligations.AccessFaults : Prop :=
  ∀ (s s1 : State) (d a b : BitVec 6) (z sc : BitVec 3) (ar : BitVec 1) (i : BitVec 11) (j : BitVec 8) (c : FaultClass) (a2 : Nat)
      (rp : Bool),
    let va := (s.rd a + i.signExtend 64).toNat
    let vo := (s.rd a + j.signExtend 64 * BitVec.ofNat 64 (sizeBytes z.toNat)).toNat
    let n := sizeBytes z.toNat
    let faults (at_ : Nat) (t : State) : Prop := Trapped s1 t c ∧ (t.records.getLast?.map fun r => r.body.addr.toNat) = some (at_ % 2 ^ 64)
    (Ready s [d] [a] → LoadFree s →
      (s.checkAccess s.me va n .read false false = (s1, .fault c a2 rp) → Gives (.ld d a z i) s (faults va)) ∧
      (s.checkAccess s.me vo n .read true false = (s1, .fault c a2 rp) → Gives (.lda d a z sc j) s (faults vo)) ∧
      (vo % n ≠ 0 → Gives (.lda d a z sc j) s (Trapped s · .alignment))) ∧
    (Ready s [] [d, a] → StoreFree s →
      (s.checkAccess s.me va n .write false true = (s1, .fault c a2 rp) → Gives (.st d a z i) s (faults va)) ∧
      (s.checkAccess s.me vo n .write true true = (s1, .fault c a2 rp) → Gives (.stl d a z sc j) s (faults vo)) ∧
      (vo % n ≠ 0 → Gives (.stl d a z sc j) s (Trapped s · .alignment))) ∧
    (Ready s [d] [a, b, d] → StoreFree s → ∀ f ∈ atomicForms d a b sc ar ++ casForms d a b sc ar,
      ((s.rd a).toNat % (if f.2.2 then 8 else 4) ≠ 0 → Gives f.1 s (Trapped s · .alignment)))

/-- R177, R169, R160. The fences: an acquire for the earlier loads; a release entry of the store queue; both at once;
the words fetched ahead dropped; later engine commands held to a mark. The fence that is both drains what its scope names,
stays where it is while a byte cannot leave, then raises the release sequence and acquires.
R152, R146. An acquire that has no drain to command completes at once: the register takes the value, the stream goes
on, and from CLUSTER up the core's clean lines are gone. -/
def Obligations.Fences : Prop :=
  (∀ (s : State) (sc : BitVec 3), (s.party? s.actor).isSome = true →
    (Gives .ifence s fun t => Became s t { s.me with fetched := [], pc := s.me.pc + 4 }) ∧
    (s.me.laneIdle = true →
      let s1 := synced s
      (s1.me.loads = [] → s1.me.acquireBehind = false →
        Gives (.fenceAcq sc) s fun t => t = s1.acquire s1.actor (scopeOf sc.toNat) s1.me.loaded .next) ∧
      (s1.me.loadsBehind = false →
        (Gives (.fenceRel sc) s fun t => Entered s1 t
          { s1.me with
            sq := s1.me.sq ++ [⟨s1.fresh, 0, scopeOf sc.toNat, true, false, .fence, none, 0, none, false, false, s1.me.spaceid.toNat, false⟩]
            pc := s1.me.pc + 4 } 1) ∧
        (Gives .fenceEng s fun t => Entered s1 t { s1.me with engFence := some s1.fresh, pc := s1.me.pc + 4 } 1)) ∧
      (s1.me.settled = true →
        let core := s1.me.core
        let acquires (s : State) : State := (s.bumpFor core (scopeOf sc.toNat)).acquire s.actor (scopeOf sc.toNat) s.me.loaded .next
        let drained := s1.releaseDrains core (scopeOf sc.toNat) true
        (s1.dirtyLeft core (upTo none) = false → Gives (.fenceFull sc) s (· = acquires s1)) ∧
        (drained.releaseReady core (scopeOf sc.toNat) true = true → Gives (.fenceFull sc) s (· = acquires drained)) ∧
        (drained.releaseReady core (scopeOf sc.toNat) true = false → Gives (.fenceFull sc) s (· = drained))))) ∧
  (∀ (s : State) (scope : Scope) (lines : List (Nat × Nat)) (d va z : Nat) (ps : List Piece) (v : DWord),
    (s.party? s.actor).isSome = true → s.me.acqs = [] → scope ≠ .pdevice → s.me.core < s.cores.length →
    (∀ l ∈ lines, s.drainsFor s.actor s.me.core scope l.1 = []) → (∀ c ∈ s.drains, c.acquirer ≠ s.actor) →
    let t := s.acquire s.actor scope lines (.load d va z ps v)
    (∀ r, t.me.sreg r = if r = d ∧ r ≠ 0 then v else s.me.sreg r) ∧ t.me.pc = s.me.pc + 4 ∧ t.me.acqs = [] ∧
      (∀ p, p ≠ s.actor → t.party p = s.party p) ∧ (∀ a, cellGet t.mem a = cellGet s.mem a) ∧
      (scope = .cluster ∨ scope = .device ∨ scope = .fabric → (t.core s.me.core).clean = []) ∧
      (scope = .group ∨ scope = .core → t.cores = s.cores))

/-! ## Barriers and batches (08_progress.md, 09_ref_control.md) -/

/-- R225, R224. A barrier initialised without a named count, for `e` arrivals, completes its phase at the `e`th and at no
earlier one, and then expects `e` again; bytes awaited hold the phase open. Its 16 bytes give the object back.
R225, R302. An event on an object in core store is one indivisible step: afterwards the object is the new one, and
every other byte of the store and of memory is as before. R255. Of the parties only those change that block on a phase that
the object has left: each observes the new one, unless it has already observed one. -/
def Obligations.BarrierPhases : Prop :=
  ((∀ (e : Nat) (o : Nat) (b0 : BarrierObj), 1 ≤ e →
    let arrive (r : Except FaultClass BarrierObj) (_ : Nat) : Except FaultClass BarrierObj := r.bind fun b => b.apply (.arrive 0)
    ∀ k, k ≤ e → (List.range k).foldl arrive (b0.apply (.init e false o)) =
      .ok (if k = e then ⟨1, 0, e, e, false, false, o⟩ else ⟨0, 0, e, e - k, false, false, o⟩)) ∧
  (∀ (b : BarrierObj) (n : Nat), b.named = false → b.waiting = 0 → b.remaining = 1 → 1 ≤ n → n < 2 ^ 23 →
    ∃ b1 b2, b.apply (.expect n) = .ok b1 ∧ b1.apply (.arrive 0) = .ok b2 ∧ b2.phase = b.phase ∧
      ∃ b3, b2.apply (.land n) = .ok b3 ∧ b3.phase = (b.phase + 1) % 256 ∧ b3.remaining = b.expected) ∧
  (∀ b : BarrierObj, b.phase < 256 → -8388608 ≤ b.waiting → b.waiting ≤ 8388607 → b.expected < 65536 → b.remaining < 65536 →
    b.owner < 2 ^ 32 → BarrierObj.ofBytes b.toBytes = b)) ∧
  (∀ (s t : State) (core off : Nat) (ev : BarrierEvent), core < s.cores.length →
    s.barrierEvent (.store core off) ev = .ok t →
    ∃ b, (s.barrierAt (.store core off)).apply ev = .ok b ∧
      readBytes (t.core core).store off 16 = b.toBytes ∧
      (∀ o, o < off ∨ off + 16 ≤ o → cellGet (t.core core).store o = cellGet (s.core core).store o) ∧
      (∀ c, c ≠ core → t.core c = s.core c) ∧ (∀ a, cellGet t.mem a = cellGet s.mem a) ∧
      ∀ p, { t.party p with waitsOn := (s.party p).waitsOn } = s.party p ∧
        ((s.party p).waitsOn = none → (t.party p).waitsOn = none) ∧
        ∀ w, (s.party p).waitsOn = some w →
          let sees := w.place = .store core off ∧ w.seen = none ∧ w.phase ≠ b.phase
          (sees → ∃ dev, (t.party p).waitsOn = some { w with seen := some (b.phase, dev) }) ∧
          (¬sees → (t.party p).waitsOn = some w))

/-- R254, R226. The BAR family on a group, at an object that its barrier word names: each event is applied to the object,
an arrival after the release of the object's scope; BARRIVE gives the phase it arrived at; BWAIT and BTEST compare the
phase, and a wait returns the phase that it has observed.
R253, R254, R225. What is refused changes nothing: a control word with a bit that is not named; then the four checks of the
barrier word, in their order; then BEXPECT's operand, or a pending count that would leave the signed range, class 0x0A, and an
arrival that the object refuses, class 0x09. R302. An object with an uncorrected error is read by none of them.
R227, R228. BATCH closes the group's batch and gives its number, unless 128 closed batches are incomplete; BBWAIT
compares by distance: 0 is no closed batch, above 128 it has long completed, an incomplete one waits. -/
def Obligations.BarrierInstructions : Prop :=
  (∀ (s : State) (d a b : BitVec 6), s.actor.isSteward = false → Ready s [d] [a, b] →
    let v := (s.rd b).toNat
    let word := (s.rd a).toNat
    let off := word % 2 ^ 25
    let named : List (Instr × Prop) := [(.binit a b, v < 2 ^ 17), (.barrive d a b, v < 65536), (.bexpect a b, True),
      (.bwait d a b, v < 256), (.btest d a b, v < 256)]
    let refused (cls : FaultClass) : Prop := ∀ p ∈ named, p.2 → Gives p.1 s (Trapped s · cls)
    (∀ p ∈ named, ¬p.2 → Gives p.1 s (Trapped s · .illegal)) ∧
    (2 ^ 26 ≤ word → refused .illegal) ∧
    (word < 2 ^ 26 → off % 16 ≠ 0 → refused .alignment) ∧
    (word < 2 ^ 25 → off % 16 = 0 → s.inShare s.actor off 16 = false → refused .protection) ∧
    (∀ w, s.wgOf s.actor = some w → 2 ^ 25 ≤ word → word < 2 ^ 26 → off % 16 = 0 → s.windowPlace w off 16 = none →
      refused .cluster) ∧
    (∀ pl, s.barrierPlace s.actor (s.rd a) = .ok pl →
      (word < 2 ^ 25 → ∃ w, s.wgOf s.actor = some w ∧ pl = .store w.core off) ∧
      (s.storeBad 16 pl = true → s.me.settled = true →
        (-8388608 ≤ (s.rd b).toInt → (s.rd b).toInt ≤ 8388607 → Gives (.bexpect a b) s (Trapped s · pl.errClass)) ∧
        (v < 65536 → Gives (.barrive d a b) s (Trapped s · pl.errClass)) ∧
        (v < 256 → Gives (.bwait d a b) s (Trapped s · pl.errClass) ∧ Gives (.btest d a b) s (Trapped s · pl.errClass))))) ∧
  (∀ (s : State) (d a b : BitVec 6) (pl : Place), s.actor.isSteward = false → s.barrierPlace s.actor (s.rd a) = .ok pl →
    s.storeBad 16 pl = false →
    let v := (s.rd b).toNat
    (Ready s [] [a, b] →
      (∀ s1, v < 2 ^ 17 → s.barrierEvent pl (.init (v % 65536) (decide (v / 65536 = 1)) s.ownerOf) = .ok s1 →
        Gives (.binit a b) s fun t => t = s1.adv) ∧
      (∀ s1, -8388608 ≤ (s.rd b).toInt → (s.rd b).toInt ≤ 8388607 → s.barrierEvent pl (.expect (s.rd b).toInt) = .ok s1 →
        Gives (.bexpect a b) s fun t => t = s1.adv) ∧
      ((s.rd b).toInt < -8388608 ∨ 8388607 < (s.rd b).toInt ∨ (s.barrierAt pl).waiting + (s.rd b).toInt < -8388608 ∨
        8388607 < (s.barrierAt pl).waiting + (s.rd b).toInt → Gives (.bexpect a b) s (Trapped s · .barrierOverflow))) ∧
    (Ready s [d] [a, b] →
      (∀ s1, v < 65536 → s.me.settled = true → s.barrierEvent pl (.arrive v) = .ok s1 →
        let drained := s.releaseDrains s.me.core pl.scope true
        let released := drained.bumpFor s.me.core pl.scope
        (drained.releaseReady s.me.core pl.scope true = false → Gives (.barrive d a b) s (· = drained)) ∧
        ∀ s2, drained.releaseReady s.me.core pl.scope true = true → released.barrierEvent pl (.arrive v) = .ok s2 →
          Gives (.barrive d a b) s fun t => t = s2.alu d (BitVec.ofNat 64 (released.barrierAt pl).phase)) ∧
      (∀ c, v < 65536 → s.me.settled = true → s.barrierEvent pl (.arrive v) = .error c →
        c = .barrierCount ∧ Gives (.barrive d a b) s (Trapped s · c)) ∧
      (let ph := (s.barrierAt pl).phase
       let back (scope : Scope) (n : Nat) (t : State) : Prop :=
         t = (s.upd fun q => { q with waitsOn := none }).acquire s.actor scope [] (.load d.toNat 0 3 [] (BitVec.ofNat 64 n))
       (∀ n dev, v < 256 → s.me.waitsOn = some ⟨pl, v, some (n, dev)⟩ →
         Gives (.bwait d a b) s (back (if dev then .device else pl.scope) n)) ∧
       (v < 256 → (∀ x, s.me.waitsOn ≠ some ⟨pl, v, some x⟩) →
         (ph = v → Gives (.bwait d a b) s fun t => Became s t { s.me with waitsOn := some ⟨pl, v, none⟩ }) ∧
         (ph ≠ v → Gives (.bwait d a b) s (back (s.waitScope pl v) ph))) ∧
       (v < 256 → ph = v → Gives (.btest d a b) s (Wrote s · d 0)) ∧
       (v < 256 → ph ≠ v →
         (Gives (.btest d a b) s fun t => t = s.acquire s.actor (s.waitScope pl v) [] (.load d.toNat 0 3 [] 1)))))) ∧
  (∀ (s : State), s.actor.isSteward = false →
    (∀ d : BitVec 6, Ready s [d] [] →
      (s.me.openBatches < 128 →
        Gives (.batch d) s fun t => WroteBeside s t d (BitVec.ofNat 64 s.me.batch) fun q => { q with batch := (q.batch + 1) % 256 }) ∧
      (128 ≤ s.me.openBatches → Gives (.batch d) s (· = s))) ∧
    (let waits (i : Instr) (n : Nat) : Prop :=
        let k := (s.me.batch + 256 - n) % 256
        (k = 0 → Gives i s (Trapped s · .illegal)) ∧
        (128 < k → Gives i s fun t => Became s t { s.me with pc := s.me.pc + 4 }) ∧
        (1 ≤ k → k ≤ 128 → k ≤ s.me.openBatches → Gives i s (· = s)) ∧
        (1 ≤ k → k ≤ 128 → s.me.openBatches < k → Gives i s fun t => t = s.acquire s.actor .device [] .next)
     (∀ a : BitVec 6, Ready s [] [a] →
       (256 ≤ (s.rd a).toNat → Gives (.bbwaitReg a) s (Trapped s · .illegal)) ∧
       ((s.rd a).toNat < 256 → waits (.bbwaitReg a) (s.rd a).toNat)) ∧
     (∀ n : BitVec 8, Ready s [] [] → waits (.bbwaitImm n) n.toNat)))

/-! ## Copies (07_ref_memory.md) -/

/-- R178 to R183. A group's TCOPY whose descriptor stands in its share, passes every check and finds room: the copy takes
the lowest free slot of its core and the fields of its descriptor, `S[sd]` takes the tag, which the group remembers; no
byte of memory moves yet, and nothing else of the group changes.
R178, R180. A descriptor that is not aligned, or lies outside the share, and every failed check of R180: the class
is raised and no copy begins. A steward core's descriptor lies in global memory and is aligned as well.
R185, R186. TPREF is a hint that changes nothing but the program counter. TQUERY of a tag that the workgroup did not
issue is 0 with no acquire; of a copy under way 1, of a stopped or saved one 2 with its next element above; of one that is
done 0, with an acquire at DEVICE. -/
def Obligations.CopyIssued : Prop :=
  ((∀ (s : State) (d a b : BitVec 6) (n slot : Nat) (c : CopyDesc) (pl : Option Place) (w : Workgroup), Ready s [d] [a, b] →
    s.actor.isSteward = false → s.me.engHeld = false → s.me.acquireBehind = false →
    let off := (s.rd a).toNat
    let at_ : Place := .store s.me.core off
    off % 64 = 0 → s.inShare s.actor off 32 = true → s.storeBad 32 at_ = false →
    descDims (s.readPlace 32 at_) = some n → s.inShare s.actor off (32 + 24 * n) = true →
    s.storeBad (32 + 24 * n) at_ = false → CopyDesc.ofBytes (s.readPlace (32 + 24 * n) at_) n = some c →
    s.copyChecks s.me c (s.rd b) = .ok pl →
    (s.copies.filter fun x => decide (x.core = s.me.core) && !x.saved).length < 512 → s.lockEntries s.me.core + 2 ≤ 1024 →
    s.wgOf s.actor = some w → s.budgetOk w.key (·.budget) s.copiesUnder 1 = true →
    slot < 512 → (∀ x ∈ s.copies, x.core = s.me.core → x.saved = false → x.slot ≠ slot) →
    (∀ k, k < slot → ∃ x ∈ s.copies, x.core = s.me.core ∧ x.slot = k ∧ x.saved = false) →
    Gives (.tcopy d a b) s fun t => ∃ x : Copy, t.copies = s.copies ++ [x] ∧
      x.core = s.me.core ∧ x.slot = slot ∧ x.tagSlot = slot ∧ x.owner = s.actor ∧ x.batch = s.me.batch ∧ x.src = c.src ∧
      x.dst = c.dst ∧ x.elem = c.elem ∧ x.dims = c.dims ∧ x.srcSpace = c.srcSpace ∧ x.dstSpace = c.dstSpace ∧
      x.zero = c.zero ∧ x.barrier = pl ∧ x.next = 0 ∧ x.done = [] ∧ x.stopped = none ∧ x.saved = false ∧
      (∀ r, t.me.sreg r = if r = d.toNat ∧ r ≠ 0 then BitVec.ofNat 64 (x.generation * 512 + slot) else s.me.sreg r) ∧
      t.me.copyTags = s.me.copyTags ++ [x.generation * 512 + slot] ∧ t.me.pc = s.me.pc + 4 ∧
      { t.me with sregs := s.me.sregs, copyTags := s.me.copyTags, pc := s.me.pc } = s.me ∧
      (∀ p, p ≠ s.actor → t.party p = s.party p) ∧ (∀ m, cellGet t.mem m = cellGet s.mem m)) ∧
  (∀ (s : State) (d a b : BitVec 6), Ready s [d] [a, b] → s.me.engHeld = false → s.me.acquireBehind = false →
    let off := (s.rd a).toNat
    let at_ : Place := .store s.me.core off
    (off % 64 ≠ 0 → Gives (.tcopy d a b) s (Trapped s · .alignment)) ∧
    (s.actor.isSteward = false → off % 64 = 0 → s.inShare s.actor off 32 = false →
      Gives (.tcopy d a b) s (Trapped s · .protection)) ∧
    (∀ n c k, s.actor.isSteward = false → off % 64 = 0 → s.inShare s.actor off 32 = true → s.storeBad 32 at_ = false →
      descDims (s.readPlace 32 at_) = some n → s.inShare s.actor off (32 + 24 * n) = true →
      s.storeBad (32 + 24 * n) at_ = false → CopyDesc.ofBytes (s.readPlace (32 + 24 * n) at_) n = some c →
      s.copyChecks s.me c (s.rd b) = .error k → Gives (.tcopy d a b) s (Trapped s · k)))) ∧
  (∀ (s : State),
    (∀ a b : BitVec 6, Ready s [] [a, b] →
      (Gives (.tprefL2 a b) s fun t => Became s t { s.me with pc := s.me.pc + 4 }) ∧
      (Gives (.tprefCc a b) s fun t => Became s t { s.me with pc := s.me.pc + 4 })) ∧
    (∀ d a : BitVec 6, Ready s [d] [a] →
      let tag := (s.rd a).toNat
      let mine (c : Copy) : Prop := c.generation * 512 + c.tagSlot = tag ∧
        match s.actor with
        | .group p w _ => c.steward = false ∧ c.part = p ∧ c.wg = w
        | .steward _ => c.owner = s.actor
      (tag ∉ s.tagsOf s.me → Gives (.tquery d a) s (Wrote s · d 0)) ∧
      (tag ∈ s.tagsOf s.me → (∀ c ∈ s.copies, ¬mine c) →
        Gives (.tquery d a) s fun t => t = s.acquire s.actor .device [] (.load d.toNat 0 3 [] 0)) ∧
      (tag ∈ s.tagsOf s.me → ∀ c ∈ s.copies, mine c → (∀ c' ∈ s.copies, mine c' → c' = c) →
        (c.stopped = none → c.saved = false → Gives (.tquery d a) s (Wrote s · d 1)) ∧
        (c.stopped.isSome = true ∨ c.saved = true → Gives (.tquery d a) s (Wrote s · d (BitVec.ofNat 64 (c.next * 4 + 2)))))))

/-! ## Matrix commands at issue (05_ref_matrix.md) -/

namespace Sys2Proof.Machine

/-- A MAT instruction of a group may go on: it is ready, and no FENCE.ENG and no lane acquire holds it. -/
structure MatReady (s : State) (w : Workgroup) (srcs : List (BitVec 6)) : Prop where
  ready : Ready s [] srcs
  group : s.actor.isSteward = false
  free : s.me.engHeld = false ∧ s.me.acquireBehind = false
  work : s.wgOf s.actor = some w
  core : s.me.core < s.cores.length

/-- FRAME. The command `c` stands last in the matrix queue of the acting party's core, and the party is now `q`: nothing
else of the core, no other core, no other party and no byte of memory changes. -/
structure Queued (s t : State) (c : MatCmd) (q : Party) : Prop where
  queue : (t.core s.me.core).matrix = (s.core s.me.core).matrix ++ [c]
  core : { t.core s.me.core with matrix := (s.core s.me.core).matrix } = s.core s.me.core
  cores : ∀ k, k ≠ s.me.core → t.core k = s.core k
  me : t.me = q
  others : ∀ p, p ≠ s.actor → t.party p = s.party p
  bytes : ∀ a, cellGet t.mem a = cellGet s.mem a
  rest : { t with parties := s.parties, cores := s.cores, fresh := s.fresh, regions := s.regions } = s

/-- The queue of the acting party's core has room (R119). -/
def QueueRoom (s : State) : Prop := (s.core s.me.core).matrix.length < 16

end Sys2Proof.Machine

/-- R127 to R131. PLANE.A, PLANE.B and SCALE whose operands are legal enter the queue with those operands and the
ranges they read and write; a range outside the share raises class 0x06, a set reserved bit class 0x01. -/
def Obligations.PlanesQueued : Prop :=
  ∀ (s : State) (w : Workgroup) (d a b : BitVec 6),
    let dst := (s.rd d).toNat
    let src := (s.rd a).toNat
    let v := (s.rd b).toNat
    let next : Party := { s.me with pc := s.me.pc + 4 }
    (MatReady s w [d, a, b] →
      let ty := v / 2 ^ 9 % 16
      let p := v / 2 ^ 6 % 8 + 1
      let nb := v % 64 + 1
      let stride := v / 2 ^ 13 % 2 ^ 20
      let halves := planeHalves ty
      ∀ f ∈ ([(false, .planeA d a b), (true, .planeB d a b)] : List (Bool × Instr)),
        let reads := [(src, ((if f.1 then nb * 32 else 128) - 1) * stride + if f.1 then 128 * halves / 2 else nb * 32 * halves / 2)]
        let writes := [(dst, nb * planeBlock p)]
        let legal := v < 2 ^ 33 ∧ ty < 9 ∧ nb ≤ 32
        let aligned := src % max 1 (halves / 2) = 0 ∧ stride % max 1 (halves / 2) = 0 ∧ dst % 32 = 0
        let inside := ∀ r ∈ reads ++ writes, within r.1 r.2 w.share w.length = true
        (¬legal → Gives f.2 s (Trapped s · .illegal)) ∧
        (legal → ¬aligned → Gives f.2 s (Trapped s · .alignment)) ∧
        (legal → aligned → ¬inside → Gives f.2 s (Trapped s · .protection)) ∧
        (legal → aligned → inside → (∀ r ∈ reads, s.copyDest s.me.core r = false) → QueueRoom s →
          Gives f.2 s (Queued s · (s.me.command w s.fresh (.plane f.1 dst src stride ty p nb) reads writes) next))) ∧
    (MatReady s w [a, b] →
      let stride := v / 2 ^ 18 % 2 ^ 20
      let n := v / 2 ^ 9 % 2 ^ 9 + 1
      let c0 := v % 512
      let reads := [(src, 127 * stride + n)]
      (2 ^ 38 ≤ v → Gives (.scale a b) s (Trapped s · .illegal)) ∧
      (v < 2 ^ 38 → w.window.2 < c0 + n → Gives (.scale a b) s (Trapped s · .protection)) ∧
      (v < 2 ^ 38 → c0 + n ≤ w.window.2 → within src (127 * stride + n) w.share w.length = true →
        (∀ r ∈ reads, s.copyDest s.me.core r = false) → QueueRoom s →
        Gives (.scale a b) s (Queued s · (s.me.command w s.fresh (.scale src stride n (w.window.1 + c0)) reads []) next)))

/-- R132, R133, R125. The checks of an MMA at issue, each with its class: the first that fails, in the order of R132, raises its
class. R120. A source that a copy on its way writes is checked after them (class 0x0E); that R132's last check counts the index of
an MMA that a drain still holds back is the model's (log 53). An MMA of a group with an empty gang register that passes them enters
the queue with the fields of its operand and shape words, asks its region for a reservation unless a drain holds the region, and its
stream waits for the grant; a joint MMA goes to the rendezvous latch. -/
def Obligations.MmaQueued : Prop :=
  ∀ (s : State) (w : Workgroup) (d a b : BitVec 6), MatReady s w [d, a, b] →
    let base := (s.rd d).toNat
    let v := (s.rd a).toNat
    let h := (s.rd b).toNat
    let aBase := v % 2 ^ 21
    let bBase := v / 2 ^ 21 % 2 ^ 21
    let ca := v / 2 ^ 42 % 512
    let cb := v / 2 ^ 51 % 512
    let blocks := h % 64 + 1
    let pA := h / 2 ^ 6 % 8 + 1
    let pB := h / 2 ^ 9 % 8 + 1
    let scope := h / 2 ^ 12 % 8
    let ord : Prop := h / 2 ^ 15 % 2 = 1
    let idx := h / 2 ^ 16 % 64
    let reads := [(aBase, blocks * (512 * (pA + 1) + 160)), (bBase, blocks * (512 * (pB + 1) + 160))]
    let region := s.region? w.part base
    let checks : List (Prop × FaultClass) :=
      [(v < 2 ^ 60 ∧ h < 2 ^ 22, .illegal), (blocks ≤ 32, .illegal), (scope = 1 ∨ scope = 3, .illegal), (ord ∨ idx = 0, .illegal),
        (ca + blocks ≤ w.window.2 ∧ cb + blocks ≤ w.window.2, .protection), (aBase % 32 = 0 ∧ bBase % 32 = 0, .alignment),
        (∀ r ∈ reads, within r.1 r.2 w.share w.length = true, .protection), (base % 128 = 0, .alignment),
        (region ≠ none, .accumStore),
        (∀ r, region = some r → (r.declared = true → ord) ∧ (r.declared = false → (ord ↔ r.ordered = true)), .accumStore),
        (∀ r, region = some r → ord →
          idx < r.n ∧ (r.ordered = true → idx ∉ r.reserved ∧ s.waitingIndex w.part base idx = false), .accumStore),
        (∀ r ∈ reads, s.copyDest s.me.core r = false, .rangeLock)]
    let index : Option Nat := if h / 2 ^ 15 % 2 = 1 then some idx else none
    let device := decide (scope = 3)
    (∀ l c r, checks = l ++ c :: r → (∀ x ∈ l, x.1) → ¬c.1 → Gives (.mma d a b) s (Trapped s · c.2)) ∧
    ((∀ x ∈ checks, x.1) →
      (s.me.gang = [] → QueueRoom s →
        let cmd : MatCmd :=
          { s.me.command w s.fresh (.mma base ca cb aBase bBase blocks pA pB device index) reads [] with
            members := [(s.actor, s.me.batch)]
            named := BitVec.ofNat 64 base }
        Gives (.mma d a b) s fun t =>
          Queued s t cmd { s.me with pc := s.me.pc + 4, stallOn := [s.fresh] } ∧
          t.regions = s.regions.map fun r =>
            if (r.part = w.part ∧ r.base = base) ∧ region.map (·.draining) = some false then
              { r with
                asking := r.asking ++ [s.fresh]
                reserved := if r.ordered then r.reserved ++ index.toList else r.reserved }
            else r) ∧
      (s.me.gang ≠ [] →
        Gives (.mma d a b) s fun t => t = s.mmaJoint w ⟨base, ca, cb, aBase, bBase, blocks, pA, pB, device, index⟩ d a b))

/-- R136, R137, R139, R120. ACCI marks the region that it names, with its mode and count, after its checks; where no core
holds dirty bytes of its lines and nothing holds them back, the region is there at once, zeroed if it is to be. ACCD enters
the queue with the fields of its descriptor, unless a copy on its way writes that, and its region is in a drain from then on.
R124. GANG takes its members, which rise strictly, lie in the workgroup and name the group itself, and the count of
joint MMAs starts again; a count of 0 empties the register. -/
def Obligations.AccumulatorCommands : Prop :=
  (∀ (s : State) (w : Workgroup) (a b : BitVec 6), MatReady s w [a, b] →
    let base := (s.rd a).toNat
    let v := (s.rd b).toNat
    (let legal := v < 2 ^ 9 ∧ v % 128 ≤ 64 ∧ (v / 2 ^ 8 % 2 = 1 → v % 128 ≠ 0)
     (¬legal → Gives (.acci a b) s (Trapped s · .illegal)) ∧
     (legal → base % 128 ≠ 0 → Gives (.acci a b) s (Trapped s · .alignment)) ∧
     (∀ s1 x, legal → base % 128 = 0 → s.acciPages s.me base = (s1, .ok x) → s1.budgetOk w.key (·.quota) s1.linesUnder 512 = true →
       (∀ l ∈ pieceLines x.pieces, s1.marked l = false) →
       Gives (.acci a b) s fun t => ∃ r : Region,
         t = s1.afterDirty (s1.unitOf s.me).unit x.pieces (fun s => s.markRegion r (decide (v / 2 ^ 7 % 2 = 1)) State.adv) ∧
         (s1.leavesDirty x.pieces = true → s1.dieCopies = [] →
           (∀ l ∈ pieceLines x.pieces, s1.lineFree l = true ∧ ∀ h ∈ s1.dirtyHolders, h.1 ≠ l) →
           t.regions = s1.regions ++ [r] ∧ t.me.pc = s1.me.pc + 4 ∧
           ∀ m, cellGet t.mem m = if v / 2 ^ 7 % 2 = 1 ∧ m / 128 ∈ pieceLines x.pieces then 0 else cellGet s1.mem m) ∧
         r.part = w.part ∧ r.launch = w.launch ∧ r.base = base ∧ r.spans = x.pieces ∧ r.n = v % 128 ∧
         r.declared = decide (v / 2 ^ 8 % 2 = 1) ∧ (r.declared = false → r.ordered = decide (v % 128 ≠ 0)) ∧ r.outstanding = [] ∧
         r.draining = false)) ∧
    (let at_ : Place := .store w.core v
     (v % 64 ≠ 0 → Gives (.accd a b) s (Trapped s · .alignment)) ∧
     (v % 64 = 0 → within v 64 w.share w.length = false → Gives (.accd a b) s (Trapped s · .protection)) ∧
     (∀ c, v % 64 = 0 → within v 64 w.share w.length = true → s.storeBad 64 at_ = false →
       AccdDesc.ofBytes (s.readPlace 64 at_) = some c →
       let aligned := c.dst % accdSize c.format = 0 ∧ c.stride % accdSize c.format = 0 ∧ c.maxWord % 4 = 0
       (¬aligned → Gives (.accd a b) s (Trapped s · .alignment)) ∧
       (aligned → s.region? w.part base = none → Gives (.accd a b) s (Trapped s · .accumStore)) ∧
       ∀ r, aligned → s.region? w.part base = some r →
         (s.copyDest w.core (v, 64) = true → Gives (.accd a b) s (Trapped s · .rangeLock)) ∧
         (s.copyDest w.core (v, 64) = false → ¬(QueueRoom s ∧ s.lockEntries s.me.core + c.globals.length ≤ 1024) →
           Gives (.accd a b) s (· = s)) ∧
         (s.copyDest w.core (v, 64) = false → QueueRoom s → s.lockEntries s.me.core + c.globals.length ≤ 1024 →
           Gives (.accd a b) s fun t =>
             Queued s t
               { s.me.command w s.fresh (.accd base c) [] [] with
                 globals := c.globals
                 named := BitVec.ofNat 64 base
                 row := c.first } { s.me with pc := s.me.pc + 4 } ∧
             t.regions = s.regions.map fun r => if r.part = w.part ∧ r.base = base then { r with draining := true } else r)))) ∧
  (∀ (s : State) (w : Workgroup) (a : BitVec 6), MatReady s w [a] →
    let v := (s.rd a).toNat
    let n := v % 8
    let ms := (List.range n).map fun m => v / 2 ^ (5 * m + 3) % 32
    let legal := n ≠ 1 ∧ n ≠ 7 ∧ v / 2 ^ (5 * n + 3) = 0
    let names := n = 0 ∨ (ms.Pairwise (· < ·) ∧ groupIndex s.actor ∈ ms ∧ ∀ m ∈ ms, m < w.groups.length)
    let inLatch := ∃ e ∈ w.latch, e.member = groupIndex s.actor
    (¬legal → Gives (.gang a) s (Trapped s · .illegal)) ∧
    (legal → ¬names → Gives (.gang a) s (Trapped s · .gang)) ∧
    (legal → names → inLatch → Gives (.gang a) s (Trapped s · .gang)) ∧
    (legal → names → ¬inLatch →
      Gives (.gang a) s fun t => Became s t { s.me with gang := ms, joint := 0, pc := s.me.pc + 4 }))

/-! ## Steps of the engines (05_ref_matrix.md, 07_ref_memory.md, 03_arithmetic.md) -/

namespace Sys2Proof.Machine

/-- The bytes that a PLANE writes for its operands (R77, R128): `nb` blocks of planes of the elements that its source
holds. -/
def planeImage (store : Cells 8) (sideB : Bool) (src stride ty p nb : Nat) : List Byte :=
  let at_ (r col : Nat) : FVal := planeElem ty (planeBits store (src + r * stride) (col * planeHalves ty) ty)
  (List.range nb).flatMap fun b => planeBytes p ((List.range 128).map fun i => planeRow p ((List.range 32).map fun k =>
    if sideB then at_ (32 * b + k) i else at_ i (32 * b + k)))

/-- Nothing holds a write of a core back at its home slice, and nothing is newer there than memory: no tack, no other device,
no held write, no copy of a die, no dirty byte of the core. -/
structure Plain (s : State) (core : Nat) : Prop where
  tacks : s.tacks = []
  sharers : s.sharers = []
  held : s.held = []
  copies : s.dieCopies = []
  caches : s.caches = []
  dirty : (s.core core).dirty = []

/-- Pieces of memory that lie in their lines and apart from each other. -/
def Apart (ps : List Piece) : Prop :=
  (∀ p ∈ ps, p.pa % 128 + p.len ≤ 128) ∧ ps.Pairwise fun x y => x.pa + x.len ≤ y.pa ∨ y.pa + y.len ≤ x.pa

/-- An address outside every piece. -/
def Outside (ps : List Piece) (a : Nat) : Prop := ∀ p ∈ ps, a < p.pa ∨ p.pa + p.len ≤ a

/-- The last record reports a fault of class `cls` at two addresses, that a replay ends. -/
def Reports (t : State) (cls : FaultClass) (addr addr2 : DWord) : Prop :=
  ∃ r, t.records.getLast? = some r ∧ r.body.cls = cls ∧ r.body.addr = addr ∧ r.body.addr2 = addr2 ∧ r.body.flags.getLsbD 0 = true

/-- R141. The number that stands for accumulator value `j` of a row in the output, and the scale byte of its block `b`. -/
def rowNumber (d : AccdDesc) (ws : List Nat) (j : Nat) : Nat :=
  let block (t : FType) : Nat := (quantBlock t (((ws.drop (j / 32 * 32)).take 32).map FType.f32.decode)).2.getD (j % 32) 0
  let rounded (t : FType) : Nat := t.encode (Rnd.ofCode d.rounding) d.saturate (FType.f32.decode (ws.getD j 0))
  match d.format with
  | 0 => ws.getD j 0
  | 1 => rounded .bf16
  | 2 => rounded .f16
  | 3 => block .e4m3
  | _ => block .picot8

def rowScale (d : AccdDesc) (ws : List Nat) (b : Nat) : Nat :=
  (quantBlock (if d.format = 3 then .e4m3 else .picot8) (((ws.drop (32 * b)).take 32).map FType.f32.decode)).1

/-- A command has left the queue of a core, or stands there changed; parties and memory are untouched. -/
structure QueueOnly (s t : State) (core : Nat) (queue : List MatCmd) : Prop where
  queue : (t.core core).matrix = queue
  parties : t.parties = s.parties
  bytes : ∀ a, cellGet t.mem a = cellGet s.mem a

end Sys2Proof.Machine

/-- R119, R128, R131. The head of a matrix queue starts; a PLANE that completes leaves its planes in the core's store,
a SCALE its bytes in the scale store; each leaves the queue, and nothing in memory or in a party changes.
R122, R140. A command that cannot be carried out, for an uncorrected error or an index that no MMA reserved, parks its group
at its next boundary, with a record that calls it replayable. A drain waits for the drains of its region that entered before it. -/
def Obligations.MatrixQueueSteps : Prop :=
  ∀ (s : State) (core : Nat) (c : MatCmd), core < s.cores.length → s.args.x = core →
    let q := (s.core core).matrix
    let gone := q.filter fun m => decide (m.id ≠ c.id)
    let set (st : MatStage) := q.map fun m => if m.id = c.id then { m with stage := st } else m
    let boundary := (s.party c.issuer).mayPark = true ∧ ∀ m ∈ c.members, (s.party m.1).midway = false
    (s.executing? core = none → nextMat q [] = some c → c.stage = .waiting → s.granted c = true → s.drainWaits core c = false →
      s.holds .bobbin core = false →
      Gives .matrixCommandStart s fun t => QueueOnly s t core (set .started)) ∧
    (s.executing? core = some c → (∀ o, ErrSite.coreStore core o ∉ s.errors) →
      (∀ sideB dst src stride ty p nb, c.body = .plane sideB dst src stride ty p nb →
        Gives .planeComplete s fun t => QueueOnly s t core gone ∧
          (t.core core).store = writeBytes (s.core core).store dst (planeImage (s.core core).store sideB src stride ty p nb) ∧
          (t.core core).scale = (s.core core).scale) ∧
      (∀ src stride n first, c.body = .scale src stride n first → first + n ≤ 512 →
        Gives .scaleComplete s fun t => QueueOnly s t core gone ∧ (t.core core).store = (s.core core).store ∧
          ∀ r k, r < 128 → k < n → cellGet (t.core core).scale (r * 512 + first + k) =
            cellGet (s.core core).store (src + r * stride + k))) ∧
    (s.executing? core = some c → ∀ src stride n first o, c.body = .scale src stride n first →
      s.badByte core ((List.range 128).map fun r => (src + r * stride, n)) = some o → (s.party? c.issuer).isSome = true →
      (boundary → Gives .scaleComplete s fun t => Reports t .storeError (BitVec.ofNat 64 o) c.pc ∧ (t.party c.issuer).status = .parked ∧
        (∀ a, cellGet t.mem a = cellGet s.mem a)) ∧
      (¬boundary → Gives .scaleComplete s (· = s))) ∧
    (s.executing? core = some c → ∀ base d, c.body = .accd base d → c.stage = .started →
      (s.region? c.part base ≠ none → s.drainBefore c.part base c.id = true → Gives .accdStart s (· = s)) ∧
      (∀ r, s.region? c.part base = some r → s.drainBefore c.part base c.id = false → r.outstanding = [] → r.asking = [] → r.missing = 0 →
        Gives .accdStart s fun t => QueueOnly s t core (set .rows)) ∧
      (∀ r, s.region? c.part base = some r → r.missing = 0 → r.outstanding ≠ [] → Gives .accdStart s (· = s)) ∧
      (∀ r, s.region? c.part base = some r → s.drainBefore c.part base c.id = false → r.outstanding = [] → r.asking = [] → r.missing ≠ 0 →
        (s.party? c.issuer).isSome = true → boundary →
        Gives .accdStart s fun t => Reports t .accumStore c.named (BitVec.ofNat 64 r.missing) ∧
          (t.party c.issuer).status = .parked))

/-- R133, R134. The region home counts an MMA that asks as outstanding, and its streams go on; the array then sends 512
contributions, line 4i + b the words 32b to 32b + 31 of row i of the tile, and its command leaves the queue. -/
def Obligations.MmaSteps : Prop :=
  ∀ (s : State) (core : Nat) (c : MatCmd) (base ca cb aBase bBase blocks pA pB : Nat) (dev : Bool) (index : Option Nat),
    core < 128 → core < s.cores.length → c.body = .mma base ca cb aBase bBase blocks pA pB dev index →
    (∀ r, s.args.x = c.id → c ∈ (s.core core).matrix → (∀ k, k < 128 → ∀ m ∈ (s.core k).matrix, m.id = c.id → k = core ∧ m = c) →
      c.stage = .waiting → s.region? c.part base = some r → c.id ∈ r.asking →
      Gives .mmaReservationGrant s fun t =>
        t.region? c.part base = some { r with
          asking := r.asking.filter fun i => decide (i ≠ c.id)
          outstanding := r.outstanding ++ [c.id] } ∧
        (∀ m ∈ c.members, (t.party m.1).stallOn = (s.party m.1).stallOn.filter fun i => decide (i ≠ c.id)) ∧
        (∀ p, (∀ m ∈ c.members, m.1 ≠ p) → t.party p = s.party p) ∧ t.mem = s.mem) ∧
    (s.args.x = core → s.args.flag = false → s.executing? core = some c →
      let w0 := ((s.wg? c.part c.wg).map (·.window.1)).getD 0
      let m : MmaOperands := ⟨base, w0 + ca, w0 + cb, aBase, bBase, blocks, pA, pB, dev, index⟩
      (s.core core).residuesAgree m = true → s.badByte core c.reads = none → (∀ o, ErrSite.scaleStore core o ∉ s.errors) →
      Gives .mmaComputeDone s fun t =>
        (∃ cs : List Contribution, t.contributions = s.contributions ++ cs ∧ cs.length = 512 ∧
          ∀ i b, i < 128 → b < 4 → ∃ x ∈ cs, x.line = 4 * i + b ∧ x.mma = c.id ∧ x.base = base ∧ x.part = c.part ∧
            x.index = index ∧ x.vals = (((s.core core).tileRow m i).drop (32 * b)).take 32) ∧
        (t.core core).matrix = (s.core core).matrix.filter (fun m => decide (m.id ≠ c.id)) ∧
        t.mmas = s.mmas ++ [⟨c.id, core, c.reads, c.part, base, c.members, dev, index, List.range 512⟩] ∧
        t.parties = s.parties ∧ t.mem = s.mem)

/-- R81, R83, R134. A contribution to a line of an unordered region is added word by word, rounded to nearest even, and to
no other byte of memory; in ordered mode one whose turn has not come is held or, where the slice has no room, returned to
its core, which sends it again. R304. Where that core has gone out of service it is lost. -/
def Obligations.Contributions : Prop :=
  (∀ (s : State) (c : Contribution) (r : Region) (pa : Nat), s.contributions.find? (fun x => decide (x.id = s.args.x) && !x.returned) = some c →
    s.region? c.part c.base = some r → c.vals.length = 32 → spanAt r.spans (128 * c.line) = some pa → s.dieCopies = [] →
    (if c.core = Config.allCores then s.sliceHolds pa else s.homeHolds (dieOfCore c.core) pa) = false → (∀ x ∈ s.regions, x.leaving = false) →
    (∀ e ∈ s.errors, ∀ x, e = .mem x → x / 128 ≠ pa / 128) →
    (r.ordered = false ∨ c.index = none ∨ (c.index = some (r.awaits c.line) ∧ ∀ e ∈ r.early, e.1 ≠ c.line) →
      Gives .lineContribution s fun t =>
        (∀ i, i < 32 → le (readBytes t.mem (pa + 4 * i) 4) =
          rne32Add (le (readBytes s.mem (pa + 4 * i) 4)) (c.vals.getD i 0).toNat % 2 ^ 32) ∧
        (∀ a, a < pa ∨ pa + 128 ≤ a → cellGet t.mem a = cellGet s.mem a) ∧
        t.contributions = s.contributions.filter fun x => decide (x.id ≠ c.id)) ∧
    (∀ k, r.ordered = true → c.index = some k → k ≠ r.awaits c.line →
      (s.args.flag = true → c.core ≠ Config.allCores → Gives .lineContribution s fun t => t.mem = s.mem ∧ t.regions = s.regions ∧
        ∀ x ∈ t.contributions, x.id = c.id → x.returned = true) ∧
      (s.args.flag = true → c.core = Config.allCores → Gives .lineContribution s fun t => t.mem = s.mem ∧
        t.contributions = s.contributions.filter fun x => decide (x.id ≠ c.id)) ∧
      (s.args.flag = false → Gives .lineContribution s fun t => t.mem = s.mem ∧
        t.region? c.part c.base = some { r with early := r.early ++ [(c.line, k, c.mma, c.vals)] } ∧
        t.contributions = s.contributions.filter fun x => decide (x.id ≠ c.id)))) ∧
  (∀ s : State, Gives .contributionRetry s fun t => t.mem = s.mem ∧ t.parties = s.parties ∧
    t.contributions = s.contributions.map fun x => if x.id = s.args.x then { x with returned := false } else x)

/-- R140, R141, R142. A drain reads row after row of its region and writes it, converted as its descriptor says, at its
translated destinations; with zero set the row's four lines are +0.0 afterwards, and no other byte of memory changes.
R311. Once every row is performed the maximum word takes the FAMAX of itself and the rows; at DEVICE and FABRIC scope not
before; a DEVICE update leaves its record. After that the command leaves the queue, and its region is ordinary memory, or open
for a new round: no drain, no index reserved but by the MMAs that it had refused, which ask again. -/
def Obligations.DrainSteps : Prop :=
  ∀ (s : State) (core : Nat) (c : MatCmd) (base : Nat) (d : AccdDesc), core < s.cores.length → s.args.x = core →
    s.executing? core = some c → c.body = .accd base d → c.stage = .rows → c.ready = [] →
    let isDrain (m : MatCmd) : Prop := m.part = c.part ∧ ∃ d', m.body = .accd base d'
    let total := d.first + d.rows
    let waits := ∃ h ∈ s.held, (∃ p w, h.source = .accd core c.id p w) ∨ ∃ p w l, h.source = .accdMax core c.id p w l
    (∀ r s1 s2 ps qs, c.row < total → s.region? c.part base = some r → (∀ p ∈ r.spans, p.pa % 128 = 0 ∧ p.len % 128 = 0) →
      (∀ x, ErrSite.mem x ∉ s.errors) → d.format ≤ 4 →
      let ws := r.rowWords s.mem c.row
      let size := accdSize d.format
      let k := c.row - d.first
      s.drainPieces core c ((d.dst + k * d.stride) % 2 ^ 64) (128 * size) = (s1, .ok ps) →
      s1.drainPieces core c ((d.scaleDst + 4 * k) % 2 ^ 64) (if 3 ≤ d.format then 4 else 0) = (s2, .ok qs) →
      Plain s2 core → Apart (ps ++ qs) → (∀ x ∈ r.spans, ∀ p ∈ ps ++ qs, x.pa + x.len ≤ p.pa ∨ p.pa + p.len ≤ x.pa) →
      s2.leavesDirty (ps ++ qs) = true → s2.drainHolds core (r.rowPieces c.row ++ (ps ++ qs)) = false →
      Gives .accdRow s fun t =>
        (t.core core).matrix = (s2.core core).matrix.map (fun m => if m.id = c.id then
          { m with row := c.row + 1, maxSoFar := BitVec.ofNat 32 (ws.foldl famax32 m.maxSoFar.toNat) } else m) ∧
        (∀ j e a, j < 128 → e < size → spanAt ps (j * size + e) = some a →
          cellGet t.mem a = BitVec.ofNat 8 (rowNumber d ws j / 2 ^ (8 * e))) ∧
        (∀ b a, b < 4 → spanAt qs b = some a → cellGet t.mem a = BitVec.ofNat 8 (rowScale d ws b)) ∧
        (∀ a, Outside (ps ++ qs) a →
          let cleared := d.zero = true ∧ ∃ b pa, b < 4 ∧ spanAt r.spans (512 * c.row + 128 * b) = some pa ∧ pa ≤ a ∧ a < pa + 128
          (cleared → cellGet t.mem a = 0) ∧ (¬cleared → cellGet t.mem a = cellGet s2.mem a))) ∧
    (d.maxOn = true → c.maxDone = false → 3 ≤ d.maxScope → c.row < total ∨ waits → Gives .accdFinish s (· = s)) ∧
    (∀ r s1 p, d.maxOn = true → c.maxDone = false → 1 ≤ d.maxScope → d.maxScope ≤ 4 → total ≤ c.row → ¬waits →
      (s.party c.issuer).doneBefore c.id = true → s.region? c.part base = some r →
      s.drainPieces core c d.maxWord 4 = (s1, .ok [p]) → core < s1.cores.length → Plain s1 core → s1.leavesDirty [p] = true →
      (∀ i, i < 4 → s1.byteBad core (p.pa + i) = false) → s1.drainHolds core [p] = false →
      (s1.lazy.filter fun x => decide (x.line = p.pa / 128 ∧ x.core ≠ core)).length < 4 →
      Gives .accdFinish s fun t =>
        le (readBytes t.mem p.pa 4) = famax32 (le (readBytes s1.mem p.pa 4)) c.maxSoFar.toNat % 2 ^ 32 ∧
        (∀ a, a < p.pa ∨ p.pa + 4 ≤ a → cellGet t.mem a = cellGet s1.mem a) ∧
        (t.core core).relSeq = (if d.maxScope = 1 then (s1.core core).relSeq else ((s1.core core).relSeq + 1) % 2 ^ 64) ∧
        (d.maxScope = 3 → ⟨p.pa / 128, core, (s1.core core).relSeq⟩ ∈ t.lazy) ∧ (d.maxScope ≠ 3 → t.lazy = s1.lazy) ∧
        ∀ m ∈ (t.core core).matrix, m.id = c.id → m.maxDone = true) ∧
    (total ≤ c.row → (d.maxOn = false ∨ c.maxDone = true) → ¬waits →
      Gives .accdFinish s fun t =>
        (t.core core).matrix = (s.core core).matrix.filter (fun m => decide (m.id ≠ c.id)) ∧ t.mem = s.mem ∧ t.parties = s.parties ∧
        (d.release = true → t.region? c.part base = none) ∧
        (d.release = false → ∀ r, s.region? c.part base = some r → (∀ x ∈ s.regions, x.leaving = false) → ∃ r', t.region? c.part base = some r' ∧ r'.base = r.base ∧
          r'.spans = r.spans ∧ r'.n = r.n ∧ r'.ordered = r.ordered ∧ r'.outstanding = r.outstanding ∧ r'.dropped = [] ∧ r'.await = [] ∧
          r'.early = [] ∧
          ((∀ i, ∀ m ∈ (s.core i).matrix, isDrain m → i = core ∧ m.id = c.id) →
            (∀ w ∈ s.workgroups, ∀ m ∈ w.savedMatrix, ¬isDrain m) →
            let refused (m : MatCmd) (x : Option Nat) : Prop := (∃ k ∈ t.cores, m ∈ k.matrix) ∧ m.part = c.part ∧ m.stage = .waiting ∧
              m.id ∉ r.outstanding ∧ m.id ∉ r.asking ∧ ∃ ca cb aB bB n pA pB dev, m.body = .mma base ca cb aB bB n pA pB dev x
            r'.draining = false ∧ (∀ i, i ∈ r'.asking ↔ ∃ m x, refused m x ∧ m.id = i) ∧
            ∀ k, k ∈ r'.reserved ↔ r.ordered = true ∧ ∃ m, refused m (some k))))

/-- R160, R181, R225, R227. The next element of a copy, once it is pinned (translated, checked and read), is performed whole and
counted once: between core-store ranges its bytes stand at its destination; one to memory goes to its home slice. R182. One that
fails stops the copy, and nothing of it is performed. A copy whose elements are all performed is gone, and a batch without work
completes. -/
def Obligations.CopySteps : Prop :=
  (∀ (s : State) (c : Copy) (i : Nat), s.args.x = c.id → s.args.y = i →
    s.copies.find? (fun x => decide (x.id = c.id)) = some c → c.stopped = none → c.saved = false → c.next = i → i < c.count →
    i ∉ c.done → (∀ h ∈ s.held, h.source ≠ .copy c.id i) → s.holds .sram c.core = false →
    (∀ s1 k a, s.copyPin c i = (s1, .error (some (k, a))) → k = .pageAbsent ∨ (s1.party c.owner).mayPark = true →
      (s1.party? c.owner).isSome = true → s1.copies = s.copies →
      Gives .copyElement s fun t => t.mem = s1.mem ∧ t.cores = s1.cores ∧ Reports t k (BitVec.ofNat 64 a) c.pc ∧
        ((t.party c.owner).status = if k = .pageAbsent then (s1.party c.owner).status else .parked) ∧
        ∃ c', t.copies.find? (fun x => decide (x.id = c.id)) = some c' ∧ c'.stopped = some k ∧ c'.next = i) ∧
    (∀ s1 ds bs, s.copyPin c i = (s1, .ok (ds, bs)) → s1.copyOverflows c i = false →
      (∀ p ∈ ds, s1.refusedWrite (p.pa / 128) = false) →
      let pinned : State := { s1 with copies := s1.copies.map fun x =>
        if x.id = c.id then { x with pins := (i, ds, bs) :: x.pins.filter fun p => decide (p.1 ≠ i) } else x }
      Gives .copyElement s fun t => t = pinned.copyWrite c i bs ds ∧
        (∀ p, c.dstSpace = 0 → c.barrier = none → ds = [p] → Plain s1 c.core → s1.leavesDirty ds = true →
          s1.copies.find? (fun x => decide (x.id = c.id)) = some c →
          (∀ a, cellGet t.mem a = if p.pa ≤ a ∧ a < p.pa + bs.length then bs.getD (a - p.pa) 0 else cellGet s1.mem a) ∧
          ∃ c', t.copies.find? (fun x => decide (x.id = c.id)) = some c' ∧ i < c'.next) ∧
        (c.srcSpace = 1 → c.dstSpace = 1 → c.barrier = none → c.zero = false → c.core < s.cores.length → (∀ p ∈ c.pins, p.1 ≠ i) →
          let src := sideAddr 1 c.src c.srcDims i
          let dst := sideAddr 1 c.dst c.dstDims i
          readBytes (t.core c.core).store dst c.elem = readBytes (s.core c.core).store src c.elem ∧
          (∀ o, o < dst ∨ dst + c.elem ≤ o → cellGet (t.core c.core).store o = cellGet (s.core c.core).store o) ∧
          t.mem = s.mem ∧ t.parties = s.parties ∧
          ∃ c', t.copies.find? (fun x => decide (x.id = c.id)) = some c' ∧ i < c'.next))) ∧
  (∀ (s : State) (c : Copy), s.args.x = c.id → c ∈ s.copies → c.count ≤ c.next → c.saved = false → c.stopped = none →
    Gives .copyComplete s fun t => c ∉ t.copies ∧ (∀ x ∈ s.copies, x.id ≠ c.id → x ∈ t.copies) ∧ t.mem = s.mem ∧
      t.parties = s.parties) ∧
  (∀ (s : State) (p : PartyId), s.args.p = p → (s.party? p).isSome = true → (s.party p).batchDone ≠ (s.party p).batch →
    s.batchBusy p (s.party p).batchDone = false →
    Gives .batchComplete s fun t => t.party p = { s.party p with batchDone := ((s.party p).batchDone + 1) % 256 } ∧
      (∀ r, r ≠ p → t.party r = s.party r) ∧ t.mem = s.mem)

/-! ## Tacks, sharing groups, reductions (07_ref_memory.md) -/

/-- R187, R188. TACKNEW reads its descriptor and registers the tack it describes, or answers why it does not: 2^64 − 1 less
0 for no free tack, 1 for a line that does not exist, 2 for another value, 3 for an accumulator line. A registered tack is
live, holds its watch, and its handle is its generation and index.
R189, R190. TACKON makes the group a holder with its landing point and acquires; TACKOFF ends it; TACKDROP frees a
tack that nobody holds; TACKQ tells its state, whether the group holds it, and how many do. -/
def Obligations.TackRegistered : Prop :=
  ((∀ (s s1 s2 : State) (d a : BitVec 6) (x : Xlat) (bs : List Byte), Ready s [d] [a] → LoadFree s →
    let va := (s.rd a).toNat
    (va % 32 ≠ 0 → Gives (.tacknew d a) s (Trapped s · .alignment)) ∧
    (va % 32 = 0 → s.checkAccess s.me va 32 .read false false = (s1, .ok x) → s.me.atomicPending x.pieces = false →
      (∀ p ∈ x.pieces, s1.loadHolds s.me.core (s1.partOf s.me) .core false p = false) →
      s1.loadPieces s.me (s1.partOf s.me) .core false none x.pieces = (s2, bs, false) →
      ∀ t, TackDesc.ofBytes bs = some t → Gives (.tacknew d a) s (· = s2.register d t))) ∧
  (∀ (s s1 : State) (d : BitVec 6) (t : TackDesc) (x : Xlat),
    (if t.length = 0 then (s, .ok ⟨[], true, true⟩) else s.xlate (s.unitOf s.me) t.base t.length .watch false) = (s1, .ok x) →
    (s1.freeTack = none → s.register d t = s1.alu d (BitVec.allOnes 64)) ∧
    (∀ i, s1.freeTack = some i →
      let exist := ∀ p ∈ x.pieces, lineExists (p.pa / 128) = true
      let undirtied := ∀ p ∈ x.pieces, ∀ h ∈ s1.dirtyHolders, h.1 ≠ p.pa / 128
      (¬exist → s.register d t = s1.alu d (BitVec.allOnes 64 - 1)) ∧
      (exist → (∃ p ∈ x.pieces, s1.marked (p.pa / 128) = true) →
        s.register d t = s1.alu d (BitVec.allOnes 64 - 3)) ∧
      (∀ p, exist → x.pieces = [p] → s1.marked (p.pa / 128) = false → undirtied → t.kind = .val → s1.dieCopies = [] →
        (∀ k, k < p.len → s1.byteBad s.me.core (p.pa + k) = false) → le (readBytes s1.mem p.pa p.len) ≠ t.value →
        ∃ u : State, s.register d t = u.alu d (BitVec.allOnes 64 - 2) ∧ u.tacks = s1.tacks) ∧
      (exist → (∀ p ∈ x.pieces, s1.marked (p.pa / 128) = false) → undirtied → t.kind ≠ .val →
        ∃ (k : Tack) (u : State), s.register d t = u.alu d (BitVec.ofNat 64 (k.generation * 4096 + i)) ∧
          u.tacks.head? = some k ∧ k.index = i ∧ k.state = .live ∧ k.kind = t.kind ∧ k.watch = x.pieces ∧ k.base = t.base ∧
          k.length = t.length ∧ k.holders = [])))) ∧
  (∀ (s : State),
    (∀ d a b : BitVec 6, Ready s [d] [a, b] →
      let h := s.tackOf s.me (s.rd a)
      let others (t : Tack) : List TackHolder := t.holders.filter fun x => decide (x.p ≠ s.actor)
      ((s.rd b).toNat % 4 ≠ 0 → Gives (.tackon d a b) s (Trapped s · .alignment)) ∧
      ((s.rd b).toNat % 4 = 0 →
        (h = none → Gives (.tackon d a b) s (Wrote s · d (BitVec.allOnes 64 - 4))) ∧
        (∀ t, h = some t → t.state ≠ .live → Gives (.tackon d a b) s (Wrote s · d (BitVec.allOnes 64 - 5))) ∧
        (∀ t, h = some t → t.state = .live → t.holder? s.actor = false →
          4 ≤ (s.tacks.filter fun x => x.holder? s.actor).length → Gives (.tackon d a b) s (Wrote s · d (BitVec.allOnes 64 - 6))) ∧
        (∀ t, h = some t → t.state = .live →
          (t.holder? s.actor = true ∨ (s.tacks.filter fun x => x.holder? s.actor).length < 4) →
          Gives (.tackon d a b) s fun u => u = (s.updTack t.index fun t =>
            { t with holders := others t ++ [⟨s.actor, s.rd b⟩] }).acquire s.actor .device [] (.load d.toNat 0 3 [] 0)))) ∧
    (∀ a : BitVec 6, Ready s [] [a] →
      Gives (.tackoff a) s fun u =>
        u.me = { s.me with pc := s.me.pc + 4 } ∧ (∀ p, p ≠ s.actor → u.party p = s.party p) ∧
        { u with tacks := s.tacks, parties := s.parties } = s ∧
        ∀ t, s.tackOf s.me (s.rd a) = some t → ∀ x ∈ u.tacks, x.index = t.index → x.holder? s.actor = false) ∧
    (∀ d a : BitVec 6, Ready s [d] [a] →
      let h := s.tackOf s.me (s.rd a)
      (h = none → Gives (.tackdrop d a) s (Wrote s · d (BitVec.allOnes 64 - 4)) ∧ Gives (.tackq d a) s (Wrote s · d 0)) ∧
      (∀ t, h = some t →
        (t.holders ≠ [] → Gives (.tackdrop d a) s (Wrote s · d (BitVec.allOnes 64 - 7))) ∧
        (t.holders = [] → Gives (.tackdrop d a) s fun u =>
          Wrote (s.updTack t.index fun t => { t with state := .free, watch := [] }) u d 0) ∧
        (let st : Nat := match t.state with
           | .free => 0 | .live => 1 | .breaking => 2 | .broken => 3
         let held := (s.held.filter fun w => s.breaks w.op w.source t).length
         Gives (.tackq d a) s (Wrote s · d (BitVec.ofNat 64
           (min held 65535 * 65536 + min t.holders.length 255 * 256 + (if t.holder? s.actor then 4 else 0) + st)))))))

/-- R191, R192, R193. CJOIN takes the lowest free member of a sharing group of its cluster; CLEAVE ends the membership;
CQUERY reports group, member and who is mapped. -/
def Obligations.SharingGroups : Prop :=
  ∀ (s : State) (w : Workgroup), s.actor.isSteward = false → s.wgOf s.actor = some w →
    let share (x : Option (Nat × Nat × Nat)) : State := s.updWg w.part w.id fun w => { w with sharing := x }
    (∀ d a : BitVec 6, Ready s [d] [a] →
      let g := (s.rd a).toNat
      let cl := clusterOfCore w.core
      (16 ≤ g → Gives (.cjoin d a) s (Trapped s · .illegal)) ∧
      (g < 16 → ∀ c h m, w.sharing = some (c, h, m) →
        (h = g → Gives (.cjoin d a) s (Wrote s · d (BitVec.ofNat 64 m))) ∧ (h ≠ g → Gives (.cjoin d a) s (Trapped s · .cluster))) ∧
      (g < 16 → w.sharing = none →
        (∀ m, m < 4 → s.memberMapped w.part cl g m = false → (∀ k, k < m → s.memberMapped w.part cl g k = true) →
          Gives (.cjoin d a) s fun t => Wrote (share (some (cl, g, m))) t d (BitVec.ofNat 64 m)) ∧
        ((∀ m, m < 4 → s.memberMapped w.part cl g m = true) → Gives (.cjoin d a) s (Wrote s · d (BitVec.allOnes 64))))) ∧
    (Ready s [] [] → Gives .cleave s fun t => Became (share none) t { s.me with pc := s.me.pc + 4 }) ∧
    (∀ d : BitVec 6, Ready s [d] [] →
      (w.sharing = none → Gives (.cquery d) s (Wrote s · d 0)) ∧
      (∀ cl g m, w.sharing = some (cl, g, m) →
        let bit (i : Nat) : Nat := if s.memberMapped w.part cl g i then 2 ^ i else 0
        Gives (.cquery d) s (Wrote s · d (BitVec.ofNat 64 (g * 256 + 64 + m * 16 + (bit 0 + bit 1 + bit 2 + bit 3))))))

namespace Sys2Proof.Machine

/-- A FRED instruction reaches slot `x` of its switch: the word is well formed, the partition is the slot's owner, and the
port is up (R197). -/
structure FredReach (s : State) (a : BitVec 6) (f : FredDesc) : Prop where
  word : FredDesc.ofWord (s.rd a) = some f
  owner : (s.slotAt f.port f.slot).owner.isSome = true ∧ (s.slotAt f.port f.slot).owner = s.partOf s.me
  port : (s.fabric.getD f.port FabricPort.blank).up = true

/-- R197. The status word of slot `x` with its flags. -/
structure StatusWord (v : DWord) (x : Slot) (unreachable mismatch late : Bool) : Prop where
  round : v.toNat / 2 ^ 24 = x.round
  state : v.toNat / 2 ^ 16 % 256 = match x.state with
    | .idle => 0
    | .collecting => 1
    | .delivered => 2
  received : v.toNat / 2 ^ 8 % 256 = x.received
  unreachable : v.getLsbD 4 = unreachable
  mismatch : v.getLsbD 3 = mismatch
  late : v.getLsbD 2 = late
  timedOut : v.getLsbD 1 = x.isPartial
  nan : v.getLsbD 0 = true ↔ x.operation < 3 ∧ ∃ y ∈ x.taken, (FType.f32.decode y.toNat).isNan = true
  rest : v.toNat / 2 ^ 5 % 8 = 0

/-- The widths of the status word's fields hold a slot's numbers. -/
def SlotFits (x : Slot) : Prop := x.round < 256 ∧ x.received < 128

/-- The slot is now `y`; the party remembers the status `v` and register `d` holds `r`. -/
def SlotIs (s t : State) (f : FredDesc) (y : Slot) (v : DWord) (d : BitVec 6) (r : DWord) : Prop :=
  t.slotAt f.port f.slot = y ∧ t.me.sreg d.toNat = (if d = 0 then 0 else r) ∧ lookupD f.key 0 t.me.frSeen = v ∧
    t.me.pc = s.me.pc + 4 ∧ (∀ n, n ≠ d.toNat → t.me.sreg n = s.me.sreg n) ∧ (∀ p, p ≠ s.actor → t.party p = s.party p) ∧
    (∀ p k, (p, k) ≠ (f.port, f.slot) → t.slotAt p k = s.slotAt p k) ∧ t.mem = s.mem

/-- The switch has answered the contribution `c` with `v`: its slot is `y`, the register that waits has the word, the party has
seen it, and the contribution is on its way no longer. -/
def PutAnswered (s t : State) (c : FredPut) (f : FredDesc) (y : Slot) (v : DWord) : Prop :=
  t.slotAt f.port f.slot = y ∧ c ∉ t.puts ∧ lookupD f.key 0 (t.party c.p).frSeen = v ∧ (c.dest, c.id) ∉ (t.party c.p).pending ∧
    (∀ n, (t.party c.p).sreg n = if n = c.dest ∧ n ≠ 0 ∧ (c.dest, c.id) ∈ (s.party c.p).pending then v else (s.party c.p).sreg n) ∧
    (∀ p, p ≠ c.p → t.party p = s.party p) ∧ (∀ p k, (p, k) ≠ (f.port, f.slot) → t.slotAt p k = s.slotAt p k) ∧ t.mem = s.mem

end Sys2Proof.Machine

/-- R195, R196, R197. FRJOIN opens an idle slot's round or joins one that collects; FRPUT sends a contribution, for whose
answer its register waits, and the last to arrive delivers the fold; FRGET takes the result and the last reader closes the
round; FRSTAT answers what was last seen. A join that the round does not agree with or has no room for, and a contribution
or a read by a party that has not joined, is a mismatch; one for a delivered round is late; with its port down nothing is
done and the answer says so. A malformed word raises class 0x01, and a slot of another owner class 0x11.
R196. The fold of each operation. A round whose timeout expires delivers the fold of what has come, marked partial; a
delivered round closes after one more timeout. Before its time neither event does anything.
R308. A contribution without an answer for 1 ms is lost. -/
def Obligations.FabricReductions : Prop :=
  (∀ (s : State) (d a b : BitVec 6) (f : FredDesc), Ready s [d] [a, b] →
    let x := s.slotAt f.port f.slot
    let last := lookupD f.key 0 s.me.frSeen
    let all : List Instr := [.frjoin d a, .frput d a b, .frget d a, .frstat d a]
    (FredDesc.ofWord (s.rd a) = none → ∀ i ∈ all, Gives i s (Trapped s · .illegal)) ∧
    (FredDesc.ofWord (s.rd a) = some f → x.owner ≠ s.partOf s.me → ∀ i ∈ all, Gives i s (Trapped s · .remote)) ∧
    (FredDesc.ofWord (s.rd a) = some f → x.owner.isSome = true → x.owner = s.partOf s.me →
      Gives (.frstat d a) s (Wrote s · d last) ∧
      ((s.fabric.getD f.port FabricPort.blank).up = false → last.getLsbD 4 = false →
        (∀ i ∈ ([.frjoin d a, .frput d a b] : List Instr), Gives i s fun t => SlotIs s t f x (last + 16) d (last + 16) ∧ t.puts = s.puts) ∧
        Gives (.frget d a) s fun t => SlotIs s t f x (last + 16) d 0)) ∧
    (FredReach s a f → x.port = f.port → x.slot = f.slot →
      Gives (.frput d a b) s (fun t => Became
        { s with
          puts := s.puts ++ [⟨s.fresh, s.actor, s.rd a, s.rd b, d.toNat, s.clk⟩]
          fresh := s.fresh + 1 } t
        { s.me with
          pending := if d = 0 then s.me.pending else s.me.pending ++ [(d.toNat, s.fresh)]
          pc := s.me.pc + 4 }) ∧
      (x.state = .idle → Gives (.frjoin d a) s fun t => ∃ y v, SlotIs s t f y v d v ∧ StatusWord v y false false false ∧
        y.state = .collecting ∧ y.round = f.round ∧ y.operation = f.operation ∧ y.count = f.count ∧ y.timeout = f.timeout ∧
        y.openedAt = s.clk ∧ y.joiners = [(s.actor, false)] ∧ y.taken = [] ∧ y.received = 0 ∧ y.owner = x.owner) ∧
      (SlotFits x → x.state = .collecting →
        let joins := x.agrees f = true ∧ (x.joined s.actor = true ∨ x.joiners.length < x.count)
        (joins → Gives (.frjoin d a) s fun t => ∃ v, SlotIs s t f { x with joiners := addNew (s.actor, false) x.joiners } v d v ∧
          StatusWord v x false false false) ∧
        (¬joins → Gives (.frjoin d a) s fun t => ∃ v, SlotIs s t f x v d v ∧ StatusWord v x false true false)) ∧
      (SlotFits x → x.state = .delivered → Gives (.frjoin d a) s fun t => ∃ v, SlotIs s t f x v d v ∧
        StatusWord v x false (!x.agrees f) true) ∧
      (let joined := x.state ≠ .idle ∧ x.round = f.round ∧ x.joined s.actor = true
       (SlotFits x → ¬joined → Gives (.frget d a) s fun t => ∃ v, SlotIs s t f x v d 0 ∧ StatusWord v x false true false) ∧
       (joined → x.state = .collecting → Gives (.frget d a) s (· = s)) ∧
       (joined → x.state = .delivered → Gives (.frget d a) s fun t => ∃ y v, SlotIs s t f y v d x.result ∧
          ((∀ j ∈ x.joiners, j.1 = s.actor ∨ j.1 ∈ x.getters) → y.state = .idle) ∧
          ((∃ j ∈ x.joiners, j.1 ≠ s.actor ∧ j.1 ∉ x.getters) → y = { x with getters := addNew s.actor x.getters }))))) ∧
  (∀ (s : State) (c : FredPut) (f : FredDesc), s.args.flag = true → s.args.x = c.id → c ∈ s.puts →
    (∀ k ∈ s.puts, k.id = c.id → k = c) → FredDesc.ofWord c.word = some f → (s.party? c.p).isSome = true →
    let x := s.slotAt f.port f.slot
    let w := if x.operation < 4 then c.value &&& 0xFFFFFFFF else c.value
    let y := { x with taken := x.taken ++ [w], received := x.received + 1 }
    let joined := x.state ≠ .idle ∧ x.round = f.round ∧ x.joined c.p = true
    ((s.fabric.getD f.port FabricPort.blank).up = true → x.port = f.port → x.slot = f.slot → x.round < 256 → x.received < 127 →
      (joined → x.state = .collecting → x.received + 1 ≠ x.count → Gives .packetAcknowledge s fun t =>
        ∃ v, PutAnswered s t c f y v ∧ StatusWord v y false false false) ∧
      (joined → x.state = .collecting → x.received + 1 = x.count → Gives .packetAcknowledge s fun t =>
        ∃ z v, PutAnswered s t c f z v ∧ StatusWord v z false false false ∧ z.state = .delivered ∧ z.deliveredAt = s.clk ∧
          z.result = fredResult x.operation (x.taken ++ [w]) ∧ z.taken = y.taken ∧ z.received = y.received ∧ z.isPartial = false) ∧
      (joined → x.state = .delivered → Gives .packetAcknowledge s fun t =>
        ∃ v, PutAnswered s t c f x v ∧ StatusWord v x false false true) ∧
      (¬joined → Gives .packetAcknowledge s fun t => ∃ v, PutAnswered s t c f x v ∧ StatusWord v x false true false)) ∧
    (s.clk < c.sentAt + 4000000 → Gives .destinationUnreachable s (· = s)) ∧
    (c.sentAt + 4000000 ≤ s.clk → Gives .destinationUnreachable s fun t =>
      PutAnswered s t c f x (lookupD f.key 0 (s.party c.p).frSeen ||| 16))) ∧
  (let nan (v : DWord) : Prop := (FType.f32.decode v.toNat).isNan = true
   let none : DWord := BitVec.ofNat 64 FType.f32.canonicalNan
   (∀ vs : List DWord, (∀ v ∈ vs, nan v) → ∀ op, op < 3 → fredResult op vs = none) ∧
   (∀ (vs : List DWord) (v : DWord) (r : List DWord), vs.filter (fun v => !(FType.f32.decode v.toNat).isNan) = v :: r →
     fredResult 0 vs = BitVec.ofNat 64 (r.foldl (fun a x => fmax32 a x.toNat) v.toNat) ∧
     fredResult 1 vs = BitVec.ofNat 64 (r.foldl (fun a x => fmin32 a x.toNat) v.toNat) ∧
     fredResult 2 vs = BitVec.ofNat 64 (r.foldl (fun a x => famax32 a x.toNat) (famax32 v.toNat v.toNat))) ∧
   fredResult 3 [] = 0 ∧ (∀ vs : List DWord, (∃ v ∈ vs, nan v) → fredResult 3 vs = none) ∧
   (∀ (v : DWord) (r : List DWord), (∀ x ∈ v :: r, ¬nan x) →
     fredResult 3 (v :: r) = BitVec.ofNat 64 (r.foldl (fun a x => rne32Add a x.toNat) v.toNat)) ∧
   (∀ vs : List DWord, (fredResult 4 vs).toNat = (vs.map (·.toNat)).sum % 2 ^ 64 ∧ (fredResult 5 []).toInt = -2 ^ 63 ∧
     (vs ≠ [] → fredResult 5 vs ∈ vs) ∧ ∀ v ∈ vs, v.toInt ≤ (fredResult 5 vs).toInt)) ∧
  (∀ (s : State), let x := s.slotAt s.args.x s.args.y
    x.port = s.args.x → x.slot = s.args.y →
    (x.state = .collecting → x.openedAt + x.timeout * 4000 ≤ s.clk →
      Gives .roundTimeout s fun t => ∃ y, t.slotAt s.args.x s.args.y = y ∧ y.state = .delivered ∧ y.isPartial = true ∧
        y.result = fredResult x.operation x.taken ∧ { t with slots := s.slots } = s) ∧
    (x.state = .delivered → x.deliveredAt + x.timeout * 4000 ≤ s.clk →
      Gives .slotCloseTimeout s fun t => ∃ y, t.slotAt s.args.x s.args.y = y ∧ y.state = .idle ∧ y.joiners = [] ∧ y.owner = x.owner ∧
        { t with slots := s.slots } = s) ∧
    (s.clk < x.openedAt + x.timeout * 4000 → Gives .roundTimeout s (· = s)) ∧
    (s.clk < x.deliveredAt + x.timeout * 4000 → Gives .slotCloseTimeout s (· = s)))


/-! ## Work (08_progress.md, 09_ref_control.md) -/

namespace Sys2Proof.Machine

/-- Nothing waits at a home slice, each of which accepts accesses, and nothing is newer anywhere than memory there: no tack, no sharing
device, no held write, no write asked for again, no copy of a die. -/
structure HomesFree (s : State) : Prop where
  tacks : s.tacks = []
  sharers : s.sharers = []
  held : s.held = []
  asks : s.asks = []
  copies : s.dieCopies = []
  accept : ∀ pa, s.sliceHolds pa = false

/-- R215. The status word of a launch in a state. -/
def statusBytes (l : Launch) (code : Nat) : List Byte :=
  toLe 8 (min l.failures (2 ^ 32 - 1) * 2 ^ 32 + l.firstReason * 2 ^ 24 + code)

/-- The launch after the word of a state has been asked for. -/
def noted (l : Launch) (code : Nat) : Launch := { l with statusWritten := code }

/-- R215, R221. What the shuttle's write of a status word does: none where the status address is 0; a failed translation leaves an
event record of the launch's domain and no write; else the eight bytes at the address hold the word and no other byte changes. -/
def StatusWritten (s : State) (part seq : Nat) (l : Launch) (code : Nat) (t : State) : Prop :=
  let s1 := s.updLaunch part seq (noted · code)
  let u := s1.xlate (s1.shuttleUnit part) l.rcb.statusAddr 8 .write true
  (l.rcb.statusAddr = 0 → t = s1) ∧
  (l.rcb.statusAddr ≠ 0 → (∀ c a, u.2 = .error (c, a) → ∃ r, t.records = u.1.records ++ [r] ∧ r.body.cls = c ∧ r.queue = some part ∧
      r.body.addr = BitVec.ofNat 64 l.rcb.statusAddr ∧ r.body.domain = ((u.1.launch? part seq).map (·.domain)).getD 0 ∧
      r.body.flags.getLsbD 1 = true ∧ t.mem = u.1.mem) ∧
    (∀ x p, u.2 = .ok x → x.pieces = [p] → HomesFree u.1 → u.1.marked (p.pa / 128) = false →
      u.1.leavesDirty x.pieces = true →
      readBytes t.mem p.pa 8 = statusBytes l code ∧ ∀ a, a < p.pa ∨ p.pa + 8 ≤ a → cellGet t.mem a = cellGet u.1.mem a))

end Sys2Proof.Machine

/-- R262, R263, R213 to R216. LAUNCH, after the runs: an address that is no multiple of 256 raises class 0x04, a partition that
the issuer does not have class 0x17. Where the control block and its chain read (`s2`), a ticket that was not issued raises
class 0x01 and a full queue waits; else the launch is accepted: its ticket in `sd`, the next sequence number, effective values
from its chain, eligible where the ticket it waits on has completed, never to run where that ended in 4 or 5; its status word is 0 or 1, and 5 after it where it is not to run. The launches that wait on the
ticket which then leaves the window of the last 65536 are eligible. Its release keeps it where it is while a dirty byte cannot
drain.
R264, R215. LWAIT goes on when its launch has ended, LWAIT.TEST at once, each with the launch's state; a state from 3 up
comes with an acquire at DEVICE. A ticket that was never issued in the partition raises class 0x01. -/
def Obligations.LaunchAccepted : Prop :=
  ((∀ (s : State) (d a : BitVec 6), s.me.laneIdle = true → Ready s [d] [a] →
    let s0 := synced s
    let va := (s.rd a).toNat
    let drained := s0.releaseDrains s.me.core .device true
    let released := drained.bumpFor s.me.core .device
    (va % 256 ≠ 0 → Gives (.launch d a) s (Trapped s0 · .alignment)) ∧
    (va % 256 = 0 → s0.me.settled = false → Gives (.launch d a) s (· = s0)) ∧
    (va % 256 = 0 → s0.me.settled = true → s.partOf s.me = none → Gives (.launch d a) s (Trapped s0 · .privilege)) ∧
    (va % 256 = 0 → s0.me.settled = true → (s.partOf s.me).isSome = true → drained.releaseReady s.me.core .device true = false →
      Gives (.launch d a) s (· = drained)) ∧
    (va % 256 = 0 → s0.me.settled = true → drained.releaseReady s.me.core .device true = true →
      ∀ part, s.partOf s.me = some part → ∀ (s2 : State) (r : Rcb) (chain : List ChainNode),
      (∀ k : State → Rcb → List ChainNode → State, released.readLaunch part va k = k s2 r chain) →
      let q := r.after % 2 ^ 60
      let issued := r.after = 0 ∨ (r.after / 2 ^ 60 = part ∧ q ≠ 0 ∧ q < (s2.partition part).nextSeq)
      (¬issued → Gives (.launch d a) s (· = s2.trapAt .illegal va)) ∧
      (issued → 4096 ≤ s2.incomplete part → Gives (.launch d a) s (· = released)) ∧
      (issued → s2.incomplete part < 4096 → Gives (.launch d a) s (· = s2.accept d part r chain)))) ∧
  (∀ (s : State) (d : BitVec 6) (part : Nat) (r : Rcb) (chain : List ChainNode), (s.party? s.actor).isSome = true →
    part < s.partitions.length → s.launch? part (s.partition part).nextSeq = none →
    let seq := (s.partition part).nextSeq
    let old := part * 2 ^ 60 + (seq - 65536)
    let nodes := r :: chain.map (·.rcb)
    let ended := if r.after = 0 then 3 else s.ticketState part (r.after % 2 ^ 60)
    let never := ended = 4 ∨ ended = 5
    let code := if ended = 3 then 0 else 1
    let t := s.accept d part r chain
    (65536 < seq → r.after ≠ old ∧ ∀ l ∈ s.launches, l.part = part → l.state = .waiting → l.rcb.after ≠ old) →
    (∃ (l : Launch) (u u1 u2 : State), l.part = part ∧ l.seq = seq ∧ l.rcb = r ∧ l.chain = chain.map (·.addr) ∧
      l.priority = effPriority nodes ∧ l.domain = effDomain nodes ∧ l.nextIndex = 0 ∧ l.failures = 0 ∧ l.firstReason = 0 ∧
      l.state = (if ended = 3 then .eligible else .waiting) ∧ u.launch? part seq = some l ∧ (u.partition part).nextSeq = seq + 1 ∧
      u.parties = s.parties ∧ u.mem = s.mem ∧ u.records = s.records ∧ u.tacks = s.tacks ∧ u.held = s.held ∧ u.asks = s.asks ∧
      u1 = u.writeStatus part seq code ∧ StatusWritten u part seq l code u1 ∧
      u2 = (if never then (u1.updLaunch part seq fun l => { l with state := .notRun }).writeStatus part seq 5 else u1) ∧
      t = (u2.dropRegions.noteFirst part).alu d (BitVec.ofNat 64 (part * 2 ^ 60 + seq))) ∧
    (r.statusAddr = 0 →
      (∀ n, t.me.sreg n = if n = d.toNat ∧ n ≠ 0 then BitVec.ofNat 64 (part * 2 ^ 60 + seq) else s.me.sreg n) ∧
      t.me.pc = s.me.pc + 4 ∧ (t.partition part).nextSeq = seq + 1 ∧
      (∃ l ∈ t.launches, l.part = part ∧ l.seq = seq ∧ l.rcb = r ∧ l.chain = chain.map (·.addr) ∧ l.priority = effPriority nodes ∧
        l.domain = effDomain nodes ∧ l.nextIndex = 0 ∧
        l.state = if ended = 3 then .eligible else if never then .notRun else .waiting) ∧
      (∀ p, p ≠ s.actor → t.party p = s.party p) ∧ t.mem = s.mem)) ∧
  (∀ (s : State) (d : BitVec 6) (part : Nat) (r : Rcb) (chain : List ChainNode) (l : Launch) (n : Nat),
    let seq := (s.partition part).nextSeq
    65536 < seq → s.launch? part seq = none → (∀ x ∈ s.launches, x.rcb.statusAddr = 0) → r.statusAddr = 0 →
    s.launch? part n = some l → l.state = .waiting → l.rcb.after = part * 2 ^ 60 + (seq - 65536) →
    ((s.accept d part r chain).launch? part n).map (·.state) = some .eligible) ∧
  (∀ (s : State) (part seq code : Nat) (l : Launch), s.launch? part seq = some l →
    StatusWritten s part seq l code (s.writeStatus part seq code))) ∧
  (∀ (s : State) (d a : BitVec 6) (part : Nat), Ready s [d] [a] → s.partOf s.me = some part →
    let q := (s.rd a).toNat % 2 ^ 60
    let issued := (s.rd a).toNat / 2 ^ 60 = part ∧ q ≠ 0 ∧ q < (s.partition part).nextSeq
    let st := s.ticketState part q
    let acquired : State := s.acquire s.actor .device [] (.load d.toNat 0 3 [] (BitVec.ofNat 64 st))
    (¬issued → Gives (.lwait d a) s (Trapped s · .illegal) ∧ Gives (.lwaitTest d a) s (Trapped s · .illegal)) ∧
    (issued → st < 3 → Gives (.lwait d a) s (· = s) ∧ Gives (.lwaitTest d a) s (Wrote s · d (BitVec.ofNat 64 st))) ∧
    (issued → 3 ≤ st → Gives (.lwait d a) s (· = acquired) ∧ Gives (.lwaitTest d a) s (· = acquired)) ∧
    ((s.partition part).nextSeq ≤ q + 65536 → ∀ l, s.launch? part q = some l → st = match l.state with
      | .eligible => 0 | .waiting => 1 | .running => 2 | .complete => 3 | .failed => 4 | .notRun => 5))

namespace Sys2Proof.Machine

/-- The group has ended: it leaves its critical section, its gang and the tacks it held; the rest stands. -/
structure GroupEnded (s t : State) : Prop where
  me : t.me = { s.me with status := .ended, crit := none, gang := [], yieldTo := [] }
  others : ∀ p, p ≠ s.actor → t.party p = s.party p
  tacks : t.tacks = s.tacks.map fun k => { k with holders := k.holders.filter fun h => decide (h.p ≠ s.actor) }
  rest : { t with parties := s.parties, tacks := s.tacks } = s

/-- No pre-emption of the party's workgroup waits for the end of a critical section. -/
def NotDeferred (s : State) (p : PartyId) : Prop := ∀ w, s.wgOf p = some w → w.deferred = false

/-- R238, R239. A pre-emption that a critical section defers can begin once party `p` has left its own. -/
def Deferred (s : State) (p : PartyId) (w : Workgroup) : Prop :=
  s.wgOf p = some w ∧ w.deferred = true ∧ w.state = .resident ∧ s.imageSize w ≤ s.poolFree w.part ∧
    ∀ g ∈ w.groups, g ≠ p → (s.party g).crit = none

/-- That pre-emption has begun. -/
def Begun (t : State) (w : Workgroup) : Prop := t.wg? w.part w.id = some { w with state := .stopping, deferred := false }

/-- R222. None of the groups of a workgroup that is being stopped is ready from then on. -/
def stopping (w : Workgroup) (q : Party) : Party := if q.id ∈ w.groups then { q with readySince := none } else q

/-- The pre-emption of `w` has begun in `t`: the acting party was to become `q`, and its groups are ready no longer. -/
def BegunBy (s t : State) (w : Workgroup) (q : Party) : Prop :=
  Begun t w ∧ t.me = stopping w q ∧ (∀ p, p ≠ s.actor → t.party p = stopping w (s.party p)) ∧ t.mem = s.mem

end Sys2Proof.Machine

/-- R266, R230, R267, R238, R268, R239, R34. YIELD lets the other ready streams of its scalar unit go first; PHASE ends its critical
section, releases at DEVICE and stops; CRITON and CRITOFF begin and end a critical section, which expires after 50 microseconds
with a record of class 0x18. The end of a section begins the pre-emption that it deferred. A steward core has none of them but
YIELD.
R265, R33, R237. EXIT waits until the group has nothing outstanding. A rung group's unsettled items raise class 0x01 and
are named; else the group ends, and with its last group the workgroup leaves its core and its share reads as zeros. -/
def Obligations.GroupControl : Prop :=
  (∀ (s : State), (s.party? s.actor).isSome = true →
    (s.actor.isSteward = true →
      Gives .yield s (fun t => Became s t { s.me with pc := s.me.pc + 4 }) ∧ Gives .phase s (Trapped s · .illegal) ∧
      Gives .criton s (Trapped s · .illegal) ∧ Gives .critoff s (Trapped s · .illegal) ∧ Gives .exit s (Trapped s · .illegal)) ∧
    (s.actor.isSteward = false →
      (Gives .yield s fun t => ∃ ys, Became s t { s.me with yieldTo := ys, pc := s.me.pc + 4 } ∧
        ∀ p, p ∈ ys ↔ ∃ r ∈ s.parties, r.id = p ∧ p ≠ s.actor ∧ r.core = s.me.core ∧ r.lane / 8 = s.me.lane / 8 ∧ s.streams r = true) ∧
      (s.critAllowed s.actor = false → Gives .criton s (Trapped s · .privilege)) ∧
      (s.critAllowed s.actor = true →
        Gives .criton s fun t => Became s t { s.me with crit := some (s.me.crit.getD s.clk), pc := s.me.pc + 4 }) ∧
      (NotDeferred s s.actor → Gives .critoff s fun t => Became s t { s.me with crit := none, pc := s.me.pc + 4 }) ∧
      (∀ w, Deferred s s.actor w → Gives .critoff s fun t => BegunBy s t w { s.me with crit := none, pc := s.me.pc + 4 }) ∧
      (∀ w, s.wgOf s.actor = some w →
        let s1 := if s.me.crit.isSome then s.endCrit s.actor else s
        let drained := s1.releaseDrains s.me.core .device true
        let past := (s.me.laneIdle && s.me.settled && s.batchesDone s.me) = true
        (w.rung.isSome = true → Gives .phase s (Trapped s · .illegal)) ∧
        (w.rung = none → (s.me.crit = none ∨ NotDeferred s s.actor) → Became s s1 { s.me with crit := none }) ∧
        (w.rung = none → s.me.crit.isSome = true → Deferred s s.actor w → BegunBy s s1 w { s.me with crit := none }) ∧
        (w.rung = none → ¬past → Gives .phase s (· = s1)) ∧
        (w.rung = none → past → drained.releaseReady s.me.core .device true = false → Gives .phase s (· = drained)) ∧
        (w.rung = none → past → drained.releaseReady s.me.core .device true = true →
          let u := drained.bumpFor s.me.core .device
          Gives .phase s fun t => t.me = { u.me with status := .phase, pc := u.me.pc + 4 } ∧ t.mem = u.mem ∧
            t.cores = u.cores ∧ ∀ p, p ≠ s.actor → t.party p = u.party p))) ∧
    (let q := s.party s.args.p
     (s.party? s.args.p).isSome = true →
     (∀ n, q.crit = some n → n + 200000 ≤ s.clk → Gives .criticalSectionExpiry s fun t =>
       t.mem = s.mem ∧ (∃ r, t.records = s.records ++ [r] ∧ r.body.cls = .critExpired ∧ r.queue = s.args.p.queue) ∧
       (NotDeferred s s.args.p → t.workgroups = s.workgroups ∧ t.party s.args.p = { q with crit := none } ∧
         ∀ p, p ≠ s.args.p → t.party p = s.party p) ∧
       ∀ w, Deferred s s.args.p w → Begun t w ∧ t.party s.args.p = stopping w { q with crit := none } ∧
         ∀ p, p ≠ s.args.p → t.party p = stopping w (s.party p)) ∧
     (∀ n, q.crit = some n → s.clk < n + 200000 → Gives .criticalSectionExpiry s (· = s)) ∧
     (q.crit = none → Gives .criticalSectionExpiry s (· = s)))) ∧
  (∀ (s : State) (w : Workgroup), s.actor.isSteward = false → (s.party? s.actor).isSome = true → s.wgOf s.actor = some w →
    (s.finished s.me = false → Gives .exit s (· = s)) ∧
    (s.finished s.me = true →
      (w.rung.isSome = true → w.unsettled s.me.em ≠ 0 → Gives .exit s fun t => Trapped s t .illegal ∧
        (t.records.getLast?.map fun r => r.body.unfinished) = some (w.unsettled s.me.em)) ∧
      ((w.rung = none ∨ w.unsettled s.me.em = 0) → w.awaits (groupIndex s.actor) = none →
        ((∃ g ∈ w.groups, g ≠ s.actor ∧ (s.party g).status ≠ .ended) →
          (w.deferred = false → Gives .exit s (GroupEnded s)) ∧
          (Deferred s s.actor w → Gives .exit s fun t =>
            BegunBy s t w { s.me with status := .ended, crit := none, gang := [], yieldTo := [] })) ∧
        ((∀ g ∈ w.groups, g ≠ s.actor → (s.party g).status = .ended) → s.actor ∈ w.groups → w.state = .resident → w.core < s.cores.length →
          Gives .exit s fun t => t.wg? w.part w.id = none ∧ (∀ g ∈ w.groups, t.party? g = none) ∧
            (∀ p, p ∉ w.groups → t.party p = s.party p) ∧ t.mem = s.mem ∧
            (∀ o, w.share ≤ o → o < w.share + w.length → cellGet (t.core w.core).store o = 0)))))

namespace Sys2Proof.Machine

/-- No core holds a dirty byte, no composed cache is installed: a drain has nothing to do. -/
def Drained (s : State) : Prop := s.caches = [] ∧ ∀ c, (s.core c).dirty = []

/-- One launch of the table is now `m`, but for the moment since when it has been first in the order; another launch has changed in
that at most, and nothing else has. -/
def LaunchNow (s t : State) (part seq : Nat) (m : Launch) : Prop :=
  (∃ f, t.launch? part seq = some { m with firstSince := f }) ∧
  (∀ p n l, ¬(p = part ∧ n = seq) → s.launch? p n = some l → ∃ f, t.launch? p n = some { l with firstSince := f } ∧
    (p ≠ part → f = l.firstSince)) ∧
  { t with launches := s.launches } = s

end Sys2Proof.Machine

/-- R217, R218, R222, R323. Ageing: after 20 microseconds an eligible launch whose first workgroup has not started, a saved
workgroup and a ready run rise by one, to 7 at most; a launch that has been first for 100 microseconds blocks; a stagger runs
out. Before its time no such event does anything; a run's time counts while it is ready. -/
def Obligations.Ageing : Prop :=
  ∀ (s : State),
    (∀ l, s.launch? s.args.x s.args.y = some l →
      (Gives .dispatchPriorityAging s fun t => LaunchNow s t s.args.x s.args.y
        { l with aged := if l.state = .eligible ∧ l.nextIndex = 0 ∧ l.eligibleAt + 80000 * (l.aged + 1) ≤ s.clk ∧
            l.priority + l.aged < 7 then l.aged + 1 else l.aged }) ∧
      (Gives .launchBlocking s fun t => LaunchNow s t s.args.x s.args.y
        { l with blocking := l.blocking || (l.firstSince.map fun n => decide (n + 400000 ≤ s.clk)).getD false }) ∧
      (Gives .staggerExpiry s fun t => LaunchNow s t s.args.x s.args.y
        { l with lastStart := l.lastStart.filter fun n => decide (s.clk < n + l.rcb.stagger) })) ∧
    (∀ w, s.wg? s.args.x s.args.y = some w →
      Gives .savedPriorityAging s fun t => { t with workgroups := s.workgroups } = s ∧
        t.wg? s.args.x s.args.y = some (if w.state = .saved ∧ w.savedAt + 80000 * (w.aged + 1) ≤ s.clk ∧ s.priorityOf w + w.aged < 7
          then { w with aged := w.aged + 1 } else w)) ∧
    (∀ q, s.party? s.args.p = some q →
      let ready := s.runReady q = true ∧ q.flagsClear (s.headWait q) = true
      Gives .issuePriorityAging s fun t => { t with parties := s.parties } = s ∧ (∀ p, p ≠ s.args.p → t.party p = s.party p) ∧
        (q.readySince = none → ready → t.party s.args.p = { q with readySince := some s.clk }) ∧
        (∀ n, q.readySince = some n → ready → t.party s.args.p =
          if n + 80000 * (q.aged + 1) ≤ s.clk ∧ q.aged < 7 then { q with aged := q.aged + 1 } else q) ∧
        (¬ready → t.party s.args.p = { q with readySince := none }))

/-- R26, R33, R217, R218, R215, R272. A launch that comes first and fits starts its next workgroup at the spot found: its groups
begin at the entry point with the registers that R26 gives, an acquire at DEVICE and the partition's space and root; with the
first its status becomes 2. -/
def Obligations.WorkgroupStarts : Prop :=
  ∀ (s : State), s.makeRoom s.args.x (fun _ _ _ => false) = s →
    (s.placeable s.args.x = none → Gives .workgroupPlacement s (· = s)) ∧
    (∀ (q : Nat) (x : Spot) (l : Launch), s.placeable s.args.x = some (.launch q, x) → s.launch? s.args.x q = some l →
      x.lanes.length = l.rcb.groups →
      let id := s.freeWg s.args.x
      let index := l.retry.headD l.nextIndex
      s.wg? s.args.x id = none → (∀ i, s.party? (.group s.args.x id i) = none) →
      let started (u : State) : Prop :=
        (∃ w, u.wg? s.args.x id = some w ∧ w.launch = q ∧ w.rung = none ∧ w.index = index ∧ w.core = x.core ∧ w.share = x.share ∧
          w.length = l.rcb.store ∧ w.state = .resident ∧ w.groups = (List.range l.rcb.groups).map fun i => .group s.args.x id i) ∧
        (∀ i, i < l.rcb.groups → ∃ g, u.party? (.group s.args.x id i) = some g ∧ g.core = x.core ∧ some g.lane = x.lanes[i]? ∧
          g.gw = l.rcb.gw ∧ g.vcount = l.rcb.vregs ∧ g.pc = BitVec.ofNat 64 l.rcb.entry ∧ g.em = fullMask l.rcb.gw ∧ g.fmt = 6 ∧
          g.status = .running ∧ g.divs = [] ∧ g.spaceid = BitVec.ofNat 64 (s.partition s.args.x).spaceid ∧
          g.ptroot = BitVec.ofNat 64 (s.partition s.args.x).ptroot ∧
          (∀ n, g.sreg n = if n = 1 then BitVec.ofNat 64 l.rcb.args else if n = 2 then BitVec.ofNat 64 index else
            if n = 3 then BitVec.ofNat 64 i else if n = 4 then BitVec.ofNat 64 x.share else 0) ∧
          (∀ n k, k < l.rcb.gw → g.vreg n k = if n = 0 then BitVec.ofNat 32 k else 0)) ∧
        (∀ p, (∀ i, p ≠ .group s.args.x id i) → u.party p = s.party p) ∧ u.mem = s.mem ∧
        (x.core < s.cores.length → (u.core x.core).clean = []) ∧
        ∃ m, u.launch? s.args.x q = some m ∧ m.state = .running ∧ m.lastStart = some s.clk ∧ m.rcb = l.rcb ∧
          m.nextIndex = if l.retry = [] then l.nextIndex + 1 else l.nextIndex
      Gives .workgroupPlacement s fun t =>
        (∃ u, started u ∧ t = (if l.state = .running then u else u.writeStatus s.args.x q 2).noteFirst s.args.x) ∧
        (l.rcb.statusAddr = 0 → started t))

namespace Sys2Proof.Machine

/-- R221, R225. What the arrival on a launch's completion barrier does: none without one; a failed translation, and an arrival that
the object refuses, leave an event record of the launch's domain and no byte changed; else the object has taken one arrival of
the count 1. -/
def ArrivalMade (s : State) (part seq : Nat) (l : Launch) (t : State) : Prop :=
  let u := s.xlate (s.shuttleUnit part) l.rcb.barrier 16 .write true
  let told (r : PendingRec) (c : FaultClass) : Prop := t.records = u.1.records ++ [r] ∧ r.body.cls = c ∧ r.queue = some part ∧
    r.body.addr = BitVec.ofNat 64 l.rcb.barrier ∧ r.body.domain = ((u.1.launch? part seq).map (·.domain)).getD 0 ∧
    r.body.flags.getLsbD 1 = true ∧ t.mem = u.1.mem
  (l.rcb.barrier = 0 → t = s) ∧
  (l.rcb.barrier ≠ 0 → (∀ c a, u.2 = .error (c, a) → ∃ r, told r c) ∧
    (∀ x p, u.2 = .ok x → x.pieces = [p] → HomesFree u.1 → u.1.marked (p.pa / 128) = false → u.1.leavesDirty x.pieces = true →
      (∀ i, i < 16 → u.1.lineBad (p.pa + i) = false) →
      let b := BarrierObj.ofBytes (readBytes u.1.mem p.pa 16)
      (∀ b', b.apply (.arrive 1) = .ok b' → readBytes t.mem p.pa 16 = b'.toBytes ∧ t.records = u.1.records ∧
        ∀ a, a < p.pa ∨ p.pa + 16 ≤ a → cellGet t.mem a = cellGet u.1.mem a) ∧
      (∀ c m, b.apply (.arrive 1) = .error c → u.1.launch? part seq = some m → m.rcb.barrier = l.rcb.barrier → ∃ r, told r c)))

end Sys2Proof.Machine

/-- R221, R215, R216, R225, R230, R231. A launch whose workgroups have all ended completes in the steps of R221: its partition's
cores drain, its status word says 3 or 4, its completion barrier takes one arrival, and the launches that wait on its ticket
become eligible or never run; a step whose write a home slice holds back is waited for. A wide phase completes when every group
has arrived, and its workgroups go on in index order with an acquire at DEVICE. -/
def Obligations.LaunchesEnd : Prop :=
  ∀ (s : State) (l : Launch), s.launch? s.args.x s.args.y = some l →
    let part := s.args.x
    let seq := s.args.y
    let code := if l.failures = 0 then 3 else 4
    let cs := s.coresOf part
    let drained := cs.foldl (fun s c => s.releaseDrains c .device true) s
    let ready := ∀ c ∈ cs, drained.releaseReady c .device true = true
    let arrived (u : State) : State :=
      (if l.rcb.barrier = 0 then u else u.shuttleWrite part seq l.rcb.barrier 16 fun pa => .barrier pa 1 1 0).updLaunch part seq (noted · 7)
    let ended (u : State) : State :=
      (((u.updLaunch part seq fun l => { l with state := if code = 3 then .complete else .failed }).ticketEnded part seq code).dropRegions).noteFirst
        part
    let arrives (u t : State) : Prop := (u.shuttleHeld part seq = true → t = u) ∧
      (u.shuttleHeld part seq = false → ((arrived u).shuttleHeld part seq = true → t = arrived u) ∧
        ((arrived u).shuttleHeld part seq = false → t = ended (arrived u)))
    let past := l.over = false ∧ l.rcb.total ≤ l.ended
    (l.over = true ∨ l.ended < l.rcb.total → Gives .launchComplete s (· = s)) ∧
    (past → l.statusWritten < 6 → ¬ready → drained.launch? part seq = some l → Gives .launchComplete s (· = drained)) ∧
    (past → l.statusWritten < 6 → ready → drained.launch? part seq = some l →
      let u := cs.foldl (fun s c => s.bumpFor c .device) drained
      u.launch? part seq = some l ∧ StatusWritten u part seq l code (u.writeStatus part seq code) ∧
      Gives .launchComplete s (arrives ((u.writeStatus part seq code).updLaunch part seq (noted · 6)))) ∧
    (past → l.statusWritten = 6 → Gives .launchComplete s (arrives s)) ∧
    (past → l.statusWritten = 7 → (s.shuttleHeld part seq = true → Gives .launchComplete s (· = s)) ∧
      (s.shuttleHeld part seq = false → Gives .launchComplete s (· = ended s))) ∧
    (∀ u : State, ∃ u1, ArrivalMade u part seq l u1 ∧ arrived u = u1.updLaunch part seq (noted · 7)) ∧
    (l.state = .running → l.rcb.total ≤ l.ended → l.rcb.barrier = 0 → (∀ m ∈ s.launches, m.rcb.statusAddr = 0) → Drained s → s.held = [] →
      s.asks = [] → (∀ m ∈ s.launches, ∀ n ∈ s.launches, m.part = n.part → m.seq = n.seq → m = n) →
      Gives .launchComplete s fun t => t.mem = s.mem ∧ t.parties = s.parties ∧
        (∃ m, t.launch? s.args.x s.args.y = some m ∧ m.state = if l.failures = 0 then .complete else .failed) ∧
        ∀ w ∈ s.launches, w.waitsOn s.args.x s.args.y = true → ∃ m, t.launch? w.part w.seq = some m ∧
          m.state = if l.failures = 0 then .eligible else .notRun) ∧
    (l.resume = [] → (l.unplaced = true ∨ ∃ w ∈ s.wgsOf s.args.x s.args.y, s.arrived w = false) →
      Gives .widePhaseComplete s (· = s)) ∧
    (∀ w ∈ s.wgsOf s.args.x s.args.y, w.state = .resident → s.staggered l.lastStart l.rcb.stagger = true →
      (∀ v ∈ s.wgsOf s.args.x s.args.y, v.index = w.index → v = w) →
      (l.resume.head? = some w.index ∨ (l.resume = [] ∧ l.unplaced = false ∧ (∀ v ∈ s.wgsOf s.args.x s.args.y, s.arrived v = true) ∧
        (∃ g ∈ w.groups, (s.party g).status = .phase) ∧
        ∀ v ∈ s.wgsOf s.args.x s.args.y, (∃ g ∈ v.groups, (s.party g).status = .phase) → w.index ≤ v.index)) →
      Gives .widePhaseComplete s fun t =>
        (∀ g ∈ w.groups, (s.party g).status = .phase → t.party g = { s.party g with status := .running }) ∧
        (∀ g, g ∉ w.groups ∨ (s.party g).status ≠ .phase → t.party g = s.party g) ∧ t.mem = s.mem ∧
        (w.core < s.cores.length → (t.core w.core).clean = []) ∧
        ∃ m, t.launch? s.args.x s.args.y = some m ∧ m.lastStart = some s.clk)

namespace Sys2Proof.Machine

/-- A party whose blocked wait follows its barrier object. -/
def movedWait (f : Place → Place) (q : Party) : Party :=
  { q with waitsOn := q.waitsOn.map fun x => { x with place := f x.place } }

end Sys2Proof.Machine

/-- R300, R301, R322, R299, R165, R272. A workgroup that is being stopped stops when its groups, commands and copies stand and the
core holds no dirty byte; its save writes an image to the frames of the save pool, no other byte of memory, and once no write of the
image waits at a home slice takes its share of the core, which reads as zeros then; its restore puts the bytes back at the same offsets, on the core that was found. The bytes of
the image are free values (log entry 39). A group parked for 50 microseconds has its workgroup stopped. A holder that has reached its stopping point
acknowledges and loses its queued runs; it lands as its tack is broken, with the address at which its stream stopped (that a group
stopped in PHASE stopped at the PHASE is R240's), or after the LADRES that it is in. -/
def Obligations.StopSaveRestore : Prop :=
  (∀ (s : State) (w : Workgroup), s.wg? s.args.x s.args.y = some w →
    let ready := w.state = .stopping ∧ (w.groups.all fun g => (s.party g).canStop) = true ∧ s.mustFinish w = false ∧
      (s.copies.any fun c => w.owns c && !s.copyCanonical c) = false
    let drained := s.drainCore w.core none
    let size := s.imageSize w
    let place := min (s.poolPlace w.part size) (s.queueField (s.partition w.part).faultQueue 40 8 - size)
    let base := s.queueField (s.partition w.part).faultQueue 32 8 + place
    (¬ready → Gives .workgroupStop s (· = s)) ∧
    (ready → drained.dirtyLeft w.core (upTo none) = true → Gives .workgroupStop s (· = drained)) ∧
    (ready → Drained s → Gives .workgroupStop s fun t => t.wg? s.args.x s.args.y = some { w with state := .stopped } ∧
      (∀ g ∈ w.groups, t.party g = (s.party g).recordReplays) ∧ (∀ g, g ∉ w.groups → t.party g = s.party g) ∧ t.mem = s.mem) ∧
    (let saved (t : State) : Prop :=
       (∀ p, (∀ l n b, (s.party p).status ≠ .halted l n b) → t.party p = movedWait (Place.toImage w) (s.party p)) ∧
       (∀ o, w.share ≤ o → o < w.share + w.length → cellGet (t.core w.core).store o = 0) ∧
       ∃ v, t.wg? s.args.x s.args.y = some v ∧ v.state = .saved ∧ v.savedAt = s.clk ∧
         ∀ o, w.share ≤ o → o < w.share + w.length → cellGet v.image o = cellGet (s.core w.core).store o
     let waiting := s.waitsFor (.image w.part w.id) = true
     (w.state ≠ .stopped → w.state ≠ .saving → Gives .workgroupSave s (· = s)) ∧
     (w.state = .stopped → (s.partition w.part).swappedOut = true → Gives .workgroupSave s (· = s)) ∧
     (w.state = .saving → waiting → Gives .workgroupSave s (· = s)) ∧
     (w.state = .saving → w.core < s.cores.length → HomesFree s → (∀ g ∈ w.groups, (s.party g).unpicks = []) →
       Gives .workgroupSave s fun t => saved t ∧ t.mem = s.mem) ∧
     (w.state = .stopped → (s.partition w.part).swappedOut = false → w.core < s.cores.length → HomesFree s →
       (∀ g ∈ w.groups, (s.party g).unpicks = []) →
       Gives .workgroupSave s fun t => saved t ∧ (∀ a, a < base ∨ base + size ≤ a → cellGet t.mem a = cellGet s.mem a) ∧
         (t.wg? s.args.x s.args.y).map (·.poolAt) = some place))) ∧
  (∀ (s : State) (id : Nat) (w : Workgroup) (x : Spot), s.makeRoom s.args.x (fun _ _ _ => false) = s →
    s.placeable s.args.x = some (.saved id, x) → s.wg? s.args.x id = some w → w.part = s.args.x → w.id = id → x.share = w.share →
    x.core < s.cores.length → cellsWf w.image = true → (∀ o, cellGet w.image o ≠ 0 → w.share ≤ o ∧ o < w.share + w.length) →
    (∀ o, w.share ≤ o → o < w.share + w.length → cellGet (s.core x.core).store o = 0) →
    w.groups.Nodup → w.groups.length = x.lanes.length → (∀ g ∈ w.groups, (s.party? g).isSome = true) →
    (∀ l, s.launch? w.part w.launch = some l → l.resume = []) → s.darning = none →
    Gives .workgroupRestore s fun t =>
      (∃ v, t.wg? s.args.x id = some v ∧ v.state = .resident ∧ v.core = x.core ∧ v.share = w.share ∧ v.groups = w.groups ∧ v.image = []) ∧
      (∀ o, w.share ≤ o → o < w.share + w.length → cellGet (t.core x.core).store o = cellGet w.image o) ∧
      (∀ (i : Nat) g n, w.groups[i]? = some g → x.lanes[i]? = some n → t.party g = { movedWait (Place.fromImage w x.core) (s.party g) with
        core := x.core
        lane := n
        readySince := none
        spaceid := BitVec.ofNat 64 (s.partition w.part).spaceid
        ptroot := BitVec.ofNat 64 (s.partition w.part).ptroot }) ∧
      (t.core x.core).clean = [] ∧
      (∀ g, g ∉ w.groups → t.party g = movedWait (Place.fromImage w x.core) (s.party g)) ∧ t.mem = s.mem) ∧
  (∀ (s : State) (k : Park) (w : Workgroup), (s.party s.args.p).park = some k → (s.party? s.args.p).isSome = true →
    s.wgOf s.args.p = some w → s.wg? w.part w.id = some w →
    let due := k.since + 200000 ≤ s.clk ∨ s.swapAtOnce w.part = true
    (¬due → Gives .parkedSwapTimeout s (· = s)) ∧
    (due → w.state = .resident → s.inCrit w = false → s.imageSize w ≤ s.poolFree w.part →
      Gives .parkedSwapTimeout s fun t => Begun t w ∧ (∀ p, t.party p = stopping w (s.party p)) ∧
        { t with workgroups := s.workgroups, parties := s.parties } = s) ∧
    (due → w.state = .resident → s.inCrit w = true → s.imageSize w ≤ s.poolFree w.part →
      Gives .parkedSwapTimeout s fun t => t.wg? w.part w.id = some { w with deferred := true } ∧ { t with workgroups := s.workgroups } = s) ∧
    (w.state ≠ .resident ∨ s.poolFree w.part < s.imageSize w → Gives .parkedSwapTimeout s (· = s))) ∧
  (∀ (s : State) (q : Party), s.party? s.args.p = some q →
    (q.unpicks = [] ∨ s.canAcknowledge q = false → Gives .holderAcknowledge s (· = s)) ∧
    (q.unpicks ≠ [] → s.canAcknowledge q = true → Gives .holderAcknowledge s fun t => t = (s.updParty s.args.p fun q =>
      { q with queue := [], unpicks := q.unpicks.map fun u => { u with acked := true } }).settleWrites) ∧
    (q.unpicks ≠ [] → s.canAcknowledge q = true → s.held = [] →
      (∀ k ∈ s.tacks, k.state = .breaking → ∃ h ∈ k.holders, h.p ≠ q.id ∧ ∃ u ∈ (s.party h.p).unpicks, u.tack = k.index ∧ u.acked = false) →
      Gives .holderAcknowledge s fun t => t.party q.id = { q with queue := [], unpicks := q.unpicks.map fun u => { u with acked := true } } ∧
        (∀ p, p ≠ q.id → t.party p = s.party p) ∧ { t with parties := s.parties } = s) ∧
    (∀ k h, q.unpicks ≠ [] → s.canAcknowledge q = true → s.tacks = [k] → k.state = .breaking → k.holders = [h] → h.p = q.id →
      (∀ u ∈ q.unpicks, u.tack = k.index) →
      (∀ n cells, q.midway = true → s.held = [⟨.write cells, .entry q.id n⟩] → Gives .holderAcknowledge s fun t =>
        (t.party q.id).queue = [] ∧ (t.party q.id).unpicks = [] ∧ (t.party q.id).landings = q.landings ++ [h.landing] ∧
        (t.party q.id).pc = q.pc ∧ (t.party q.id).status = q.status ∧ t.tacks = [{ k with state := .broken, watch := [], holders := [] }]) ∧
      (q.midway = false → s.held = [] → Gives .holderAcknowledge s fun t => (t.party q.id).pc = h.landing ∧
        (t.party q.id).sreg 61 = (if q.status = .phase then q.pc - 4 else q.pc) ∧
        (t.party q.id).sreg 60 = (match q.checkpoint with
          | some c => BitVec.ofNat 64 c
          | none => BitVec.allOnes 64) ∧
        (t.party q.id).queue = [] ∧ (t.party q.id).unpicks = [] ∧ (t.party q.id).status = .running ∧
        (∀ p, p ≠ q.id → t.party p = s.party p) ∧ t.mem = s.mem ∧
        t.tacks = [{ k with state := .broken, watch := [], holders := [] }])))

namespace Sys2Proof.Machine

/-- Rung `k` of a ladder is now `r`. -/
def RungIs (t : State) (part addr k : Nat) (P : Ladder → Rung → Prop) : Prop :=
  ∃ l r, t.ladder? part addr = some l ∧ l.rungs[k]? = some r ∧ P l r

end Sys2Proof.Machine

/-- R258 to R260, R232. LADSUB: its alignment faults; a ladder that is not active is read, checked and activated, and waits where its cluster has eight; each item
of the block becomes the newest entry of rung 0, and after the last `sd` takes the index after it. A full queue makes it wait. -/
def Obligations.LadderSubmission : Prop :=
  ∀ (s : State) (d a b : BitVec 6) (part : Nat), Ready s [d] [a, b] → s.partOf s.me = some part →
    let addr := (s.rd a).toNat
    let block := (s.rd b).toNat
    ((∀ x, s.me.ladsub = some x → x.entered = false) →
      (addr % 256 ≠ 0 ∨ block % 8 ≠ 0 → Gives (.ladsub d a b) s (Trapped s · .alignment)) ∧
      (addr % 256 = 0 → block % 8 = 0 → ∀ (s1 : State) (hd : List Byte),
        (∀ k : State → List Byte → State, s.blockBytes block 8 k = k s1 hd) →
        let first := fieldAt hd 0 4
        let n := fieldAt hd 4 4
        let x : Submission := ⟨d.toNat, first, n, addr, block, true⟩
        let begun (u : State) : State := (u.upd fun q => { q with ladsub := some x, progress := 0, blocked := false }).submitNext part x
        (n = 0 ∨ 1024 < n ∨ 2 ^ 32 < first + n → Gives (.ladsub d a b) s (· = s1.trapAt .illegal block)) ∧
        (1 ≤ n → n ≤ 1024 → first + n ≤ 2 ^ 32 →
          (∀ l (s2 : State) bs, s1.ladder? part addr = some l →
            (∀ k : State → List Byte → State, s1.blockBytes block (8 + n * ((l.rungs.head?.map (·.frame)).getD 0)) k = k s2 bs) →
            (s2.me.nearCluster l.cluster = true → Gives (.ladsub d a b) s (· = begun s2)) ∧
            (s2.me.nearCluster l.cluster = false → Gives (.ladsub d a b) s (· = s2.trap .cluster))) ∧
          (∀ (s2 s3 s4 : State) bs cs rs, s1.ladder? part addr = none →
            (∀ k : State → List Byte → State, s1.readObject addr 256 .device k = k s2 bs) →
            let l := LadderDesc.ofBytes bs
            (∀ k : State → List Byte → State, s2.blockBytes block (8 + n * ((l.rungs.head?.map (·.frame)).getD 0)) k = k s3 cs) →
            (s3.me.nearCluster l.cluster = false → Gives (.ladsub d a b) s (· = s3.trap .cluster)) ∧
            (s3.me.nearCluster l.cluster = true → s3.ladderOk part bs = false → Gives (.ladsub d a b) s (· = s3.trapAt .illegal addr)) ∧
            (s3.me.nearCluster l.cluster = true → s3.ladderOk part bs = true →
              (∀ k : State → List (Rung × List ChainNode) → State, s3.readRungs part k l.rungs [] = k s4 rs) →
              let full := 8 ≤ (s4.ladders.filter fun a => decide (a.cluster = l.cluster)).length
              (¬full → Gives (.ladsub d a b) s (· = begun (s4.activate part addr l rs))) ∧
              (full → Gives (.ladsub d a b) s (· = s4.upd fun q =>
                { q with ladsub := some { x with entered := false }, progress := 0, blocked := true }))))))) ∧
    (∀ (x : Submission) (l : Ladder) (r : Rung) (bs : List Byte), s.me.ladsub = some x → x.entered = true → x.dest < 64 →
      s.ladder? part x.ladder = some l → l.rungs[0]? = some r →
      (r.capacity ≤ r.queue.length → Gives (.ladsub d a b) s fun t => Became s t { s.me with blocked := true }) ∧
      (r.queue.length < r.capacity → (∀ k : State → List Byte → State, s.blockBytes (x.block + 8 + s.me.progress * r.frame) r.frame k = k s bs) →
        Gives (.ladsub d a b) s fun t =>
          (RungIs t part x.ladder 0 fun m y => m.submitted = l.submitted + 1 ∧ y.queue = r.queue ++ [(x.first + s.me.progress, bs, s.clk, 0)]) ∧
          (∀ p, p ≠ s.actor → t.party p = s.party p) ∧ t.mem = s.mem ∧
          (s.me.progress + 1 < x.count → t.me = { s.me with progress := s.me.progress + 1, blocked := false }) ∧
          (x.count ≤ s.me.progress + 1 → t.me.ladsub = none ∧ t.me.pc = s.me.pc + 4 ∧
            ∀ n, t.me.sreg n = if n = x.dest ∧ n ≠ 0 then BitVec.ofNat 64 ((x.first + x.count) % 2 ^ 32) else s.me.sreg n)))

namespace Sys2Proof.Machine

/-- The last record names the threads of `ts` as unfinished, and the address. -/
def Names (t : State) (ts : List Nat) (addr : Nat) : Prop :=
  (t.records.getLast?.map fun r => (r.body.unfinished, r.body.addr)) =
    some (maskOf 32 fun i => decide (i ∈ ts), BitVec.ofNat 64 addr)

/-- The acting party's ladder instruction has the items `its` still to act on. -/
def withItems (s : State) (its : Option (List (Nat × List Byte))) : State := s.upd fun q => { q with ladItems := its }

/-- The acting party after the last thread of a ladder instruction: a landing that this has put off takes place now. -/
def pastLadder (s : State) : Party :=
  Party.landAll { s.me with progress := 0, blocked := false, ladItems := none, pc := s.me.pc + 4 }

/-- A ladder instruction faults: its group parks, or lands where a broken tack has waited for the instruction. -/
def LadderTrapped (s t : State) (cls : FaultClass) : Prop :=
  (s.me.landings = [] → Trapped s t cls) ∧
  (∀ l, s.me.landings.getLast? = some l → t.me.status = .running ∧ t.me.pc = l ∧ t.me.landings = [] ∧
    (∃ r, t.records = s.records ++ [r] ∧ r.body.cls = cls) ∧ (∀ p, p ≠ s.actor → t.party p = s.party p) ∧ t.mem = s.mem)

end Sys2Proof.Machine

/-- R261, R235 to R237. LADESC and LADRES check every selected thread and read its source bytes at issue: threads that the group may
not name, or whose items cannot rise, raise class 0x01, a LADESC at the top rung whatever it selects, sources outside the share 0x06, under a range lock 0x08 and with an
uncorrected error 0x10, the record naming the failing threads. LADESC then raises the items in ascending order, one entry of the
next rung each, and waits while that rung is full; LADRES stores each thread's slot and then subtracts its bytes from the
completion barrier; a slot that cannot be stored stops every thread still to be settled.
R234, R259. A ready pack that comes first starts: one item for each thread, oldest first, its frame in the share at s4 + i × F_k,
its index in v1, the ladder in s5 and the rung in s6. A ladder with every item settled or failed and no group resident is
retired. -/
def Obligations.LadderItems : Prop :=
  (∀ (s : State) (a : BitVec 3) (b : BitVec 6) (w : Workgroup) (l : Ladder) (k : Nat), GroupIdle s → Ready s [] [b] →
    s.wgOf s.actor = some w → s.wg? w.part w.id = some w → s.ladderOf w = some (l, k) → s.ladder? w.part l.addr = some l →
    let s0 := synced s
    let none0 := withItems s0 none
    let place (n t : Nat) : Nat := ((s.rd b).toNat + t * n) % 2 ^ 64
    let bytes (n t : Nat) : List Byte := s0.readPlace n (.store s.me.core (place n t))
    let dead (ts : List Nat) : List Nat := ts.filter fun t => w.badThread s.me.em t
    let outside (n : Nat) (ts : List Nat) : List Nat := ts.filter fun t => !s0.inShare s.actor (place n t) n
    let locked (n : Nat) (ts : List Nat) : List Nat := ts.filter fun t => s0.lockHit s.me.core 1 (place n t) n false
    let broken (n : Nat) (ts : List Nat) : List Nat := ts.filter fun t => s0.storeBad n (.store s.me.core (place n t))
    let refuses (i : Instr) (n : Nat) (ts : List Nat) : Prop :=
      (dead ts ≠ [] → Gives i s fun t => LadderTrapped none0 t .illegal ∧ Names t (dead ts) 0) ∧
      (dead ts = [] → outside n ts ≠ [] → Gives i s fun t => LadderTrapped none0 t .protection ∧
        Names t (outside n ts) (place n ((outside n ts).headD 0))) ∧
      (dead ts = [] → outside n ts = [] → locked n ts ≠ [] → Gives i s fun t => LadderTrapped none0 t .rangeLock ∧
        Names t (locked n ts) (place n ((locked n ts).headD 0))) ∧
      (dead ts = [] → outside n ts = [] → locked n ts = [] → broken n ts ≠ [] → Gives i s fun t => LadderTrapped none0 t .storeError ∧
        Names t (broken n ts) (place n ((broken n ts).headD 0)))
    let acts (n : Nat) (ts : List Nat) (goes : State → List (Nat × List Byte) → Prop) : Prop :=
      let read := ts.map fun t => (t, bytes n t)
      (s0.me.ladItems = none → dead ts = [] → outside n ts = [] → locked n ts = [] → broken n ts = [] → goes (withItems s0 (some read)) read) ∧
      ∀ its, s0.me.ladItems = some its → goes s0 its
    (let ts := (s0.selected a).drop s.me.progress
     (l.rungs[k + 1]? = none → s0.me.ladItems = none → Gives (.ladesc a b) s fun t => LadderTrapped none0 t .illegal ∧ Names t ts 0) ∧
     (∀ r, l.rungs[k + 1]? = some r → (s0.me.ladItems = none → refuses (.ladesc a b) r.frame ts) ∧
       acts r.frame ts fun u its =>
         (its = [] → Gives (.ladesc a b) s fun t => Became u t (pastLadder u)) ∧
         (∀ t bs rest, its = (t, bs) :: rest →
           (r.capacity ≤ r.queue.length → Gives (.ladesc a b) s fun v => Became u v { u.me with blocked := true }) ∧
           (r.queue.length < r.capacity → Gives (.ladesc a b) s fun v =>
             (RungIs v w.part l.addr (k + 1) fun _ y => y.queue = r.queue ++ [(w.itemIndex t, bs, s.clk, 0)]) ∧
             (∃ y, v.wg? w.part w.id = some y ∧
               y.items = w.items.map fun i => if i.thread = t then { i with state := .escalated } else i) ∧
             (rest ≠ [] → v.me = { u.me with progress := u.me.progress + 1, blocked := false, ladItems := some rest }) ∧
             (rest = [] → v.me = pastLadder u) ∧
             (∀ p, p ≠ s.actor → v.party p = s.party p) ∧ v.mem = s.mem)))) ∧
    (s0.me.acquireBehind = false → s0.me.loadsBehind = false →
     let ts := (s0.selected a).drop (s.me.progress / 2)
     let pl : Place := .bank l.cluster ((l.barrier - Config.bankBase) / Config.bankBytes) ((l.barrier - Config.bankBase) % Config.bankBytes)
     (s0.me.ladItems = none → refuses (.ladres a b) l.slotSize ts) ∧
     acts l.slotSize ts fun u its =>
       (its = [] → Gives (.ladres a b) s fun t => Became u t (pastLadder u)) ∧
       (∀ t bs rest, its = (t, bs) :: rest →
         let va := (l.slotBase + w.itemIndex t * l.slotSize) % 2 ^ 64
         let past := inPending ((u.barrierAt pl).waiting - l.slotSize) = false
         let waits := (u.me.sq.any fun e => e.op.isNone) = true
         (s.me.progress % 2 = 0 → past → Gives (.ladres a b) s fun v =>
           LadderTrapped (withItems u none) v .barrierOverflow ∧ Names v [t] l.barrier) ∧
         (s.me.progress % 2 = 0 → ¬past → ∀ s1 c x r, u.checkAccess u.me va l.slotSize .write false true = (s1, .fault c x r) →
           (s1.party? s1.actor).isSome = true →
           Gives (.ladres a b) s fun v => LadderTrapped (withItems s1 none) v c ∧ Names v (its.map (·.1)) (if x = 0 then va else x)) ∧
         (s.me.progress % 2 = 0 → ¬past → ∀ s1 x, u.checkAccess u.me va l.slotSize .write false true = (s1, .ok x) →
           Gives (.ladres a b) s fun v => v = (s1.enqueueStore s1.actor va .device false none 0 (cutBytes x.pieces bs)).upd
             fun q => { q with progress := q.progress + 1 }) ∧
         (s.me.progress % 2 = 1 → waits → Gives (.ladres a b) s (· = u)) ∧
         (s.me.progress % 2 = 1 → ¬waits → ∀ c, u.barrierEvent pl (.land l.slotSize) = .error c →
           Gives (.ladres a b) s fun v => LadderTrapped (withItems u none) v c ∧ Names v [t] l.barrier) ∧
         (s.me.progress % 2 = 1 → ¬waits → ∀ s1, u.barrierEvent pl (.land l.slotSize) = .ok s1 →
           Gives (.ladres a b) s fun v => v.mem = s1.mem ∧ (∀ p, p ≠ s.actor → v.party p = s1.party p) ∧
             (∃ y, v.wg? w.part w.id = some y ∧
               y.items = w.items.map fun i => if i.thread = t then { i with state := .settled } else i) ∧
             (∃ m, v.ladder? w.part l.addr = some m ∧ m.settled = l.settled + 1) ∧
             (rest ≠ [] → v.me = { s1.me with progress := s1.me.progress + 1, blocked := false, ladItems := some rest }) ∧
             (rest = [] → v.me = pastLadder s1))))) ∧
  ((∀ (s : State) (addr k : Nat) (x : Spot) (l : Ladder) (r : Rung), s.makeRoom s.args.x s.stalledLadesc = s →
    s.placeable s.args.x = some (.pack addr k, x) → s.ladder? s.args.x addr = some l → l.rungs[k]? = some r → r.rcb.groups = 1 →
    x.lanes.length = 1 →
    let id := s.freeWg s.args.x
    let es := (s.seenEntries r).take r.rcb.gw
    x.core < s.cores.length → (∀ e ∈ es, e.2.1.length = r.frame) →
    s.wg? s.args.x id = none → s.party? (.group s.args.x id 0) = none →
    Gives .ladderPack s fun t =>
      (∃ w, t.wg? s.args.x id = some w ∧ w.rung = some (addr, k) ∧ w.index = r.packs ∧ w.core = x.core ∧
        w.items.map (fun i => (i.thread, i.index, i.frame)) = es.mapIdx fun i e => (i, e.1, e.2.1)) ∧
      (∃ g, t.party? (.group s.args.x id 0) = some g ∧ g.pc = BitVec.ofNat 64 r.rcb.entry ∧ g.em = fullMask es.length ∧
        g.sreg 4 = BitVec.ofNat 64 x.share ∧ g.sreg 5 = BitVec.ofNat 64 addr ∧ g.sreg 6 = BitVec.ofNat 64 k ∧
        ∀ (i : Nat) e, es[i]? = some e → g.vreg 1 i = BitVec.ofNat 32 e.1) ∧
      (∀ (i : Nat) e, es[i]? = some e → readBytes (t.core x.core).store (x.share + i * r.frame) r.frame = e.2.1) ∧
      (∀ o, o < x.share ∨ x.share + es.length * r.frame ≤ o → cellGet (t.core x.core).store o = cellGet (s.core x.core).store o) ∧
      (RungIs t s.args.x addr k fun _ y => y.queue = r.queue.drop es.length ∧ y.packs = r.packs + 1 ∧ y.lastStart = some s.clk) ∧
      t.mem = s.mem) ∧
  (∀ (s : State) (l : Ladder), s.ladder? s.args.x s.args.y = some l →
    let left := (∃ w ∈ s.workgroups, w.part = s.args.x ∧ w.rungOwn = none ∧ w.state ≠ .saved ∧ ∃ k, w.rung = some (l.addr, k)) ∨
      ∃ q ∈ s.parties, s.partOf q = some s.args.x ∧ ∃ y, q.ladsub = some y ∧ y.ladder = l.addr
    let done := l.submitted = l.settled + l.failedItems ∧ (∀ r ∈ l.rungs, r.queue = []) ∧ ¬left
    (¬done → Gives .ladderRetire s (· = s)) ∧
    (done → Gives .ladderRetire s fun t => t.ladder? s.args.x s.args.y = none ∧ t.mem = s.mem ∧ t.parties = s.parties ∧
      ∀ a ∈ s.ladders, ¬(a.part = s.args.x ∧ a.addr = s.args.y) → a ∈ t.ladders)))


/-! ## The SYS family (10_isolation.md, 11_recovery.md) -/

/-- R34, R44, R286, R288, R289, R332. A steward's instruction in a group raises class 0x17. TRAP raises class 0x14 with its
operand. HALT stops a steward core at a watched line; something that wakes it, or 1 ms, ends the halt, and a core in the ROM
loop goes to the address in its start word; when the last of them has left it, the boot status changes (log entry 6). TLBINV
releases at DEVICE, drops the translations that it covers with every fetched word, and waits while one is in use. -/
def Obligations.SystemControl : Prop :=
  (∀ (s : State) (d a b : BitVec 6), (s.party? s.actor).isSome = true → s.actor.isSteward = false →
    ∀ i ∈ ([.eret d a b, .halt a, .tlbinv a b, .bankcfg d a b, .vcset d a, .darn d a, .corerst d a, .pswap d a b] ++
      [.measureExt d a b, .measureRead a b, .measureClose b, .measureQuote d a b, .measureKey a] ++
      [.partitionRecord d a, .peerEntries d a, .reductionSlots d a, .ethernetUp d a, .ethernetDown d a, .ethernetTransmit d a] ++
      [.postReceiveBuffer d a, .fabricPortUp d a, .fabricPortDown d a, .fabricPortQuery d a] : List Instr),
      Gives i s (Trapped s · .privilege)) ∧
  (∀ (s : State) (a : BitVec 6), Ready s [] [a] → Gives (.trap a) s fun t => Trapped s t .trap ∧
    (t.records.getLast?.map fun r => r.body.addr) = some (s.rd a)) ∧
  (∀ (s : State) (a : BitVec 6) (s1 : State), s.actor.isSteward = true → Ready s [] [a] →
    (∀ c a2 r, s.checkAccess s.me (s.rd a).toNat 8 .read true false = (s1, .fault c a2 r) → (s1.party? s1.actor).isSome = true →
      Gives (.halt a) s (Trapped s1 · c)) ∧
    (∀ x p, s.checkAccess s.me (s.rd a).toNat 8 .read true false = (s1, .ok x) → x.pieces.head? = some p → (s1.party? s1.actor).isSome = true →
      Gives (.halt a) s fun t => Became s1 t { s1.me with status := .halted (p.pa / 128) s.clk false, pc := s1.me.pc + 4 })) ∧
  (∀ (s : State) (n : Nat) (q : Party), s.args.p = .steward n → s.party? (.steward n) = some q →
    (∀ bs, s.homeRead (Config.startWords + 8 * n) 8 = (s, bs) →
      (s.args.flag = false → Gives .haltWake s fun t =>
        { t with parties := s.parties, bootStatus := s.bootStatus } = s ∧ (∀ p, p ≠ s.args.p → t.party p = s.party p) ∧
        ((∃ l m, q.status = .halted l m true) → t.party s.args.p = { q with status := .running }) ∧
        (q.status = .romLoop → t.party s.args.p =
          if le bs = 0 then q else { q with status := .running, pc := BitVec.ofNat 64 (le bs) }) ∧
        ((∀ l m, q.status ≠ .halted l m true) → q.status ≠ .romLoop → t.party s.args.p = q) ∧
        t.bootStatus = if s.bootStatus = 0x02 ∧ s.kfmap.getLsbD 0 = true ∧ (t.parties.all fun x => decide (x.status ≠ .romLoop)) = true
          then 0x03 else s.bootStatus) ∧
      (s.args.flag = true → Gives .haltWake s (· = if s.bootStatus = 0x02 then { s with bootStatus := 0xE3 } else s))) ∧
    (Gives .haltTimeout s fun t => { t with parties := s.parties } = s ∧ (∀ p, p ≠ s.args.p → t.party p = s.party p) ∧
      (∀ l m w, q.status = .halted l m w → t.party s.args.p = if m + 4000000 ≤ s.clk then { q with status := .running } else q) ∧
      ((∀ l m w, q.status ≠ .halted l m w) → t.party s.args.p = q))) ∧
  (∀ (s : State) (a b : BitVec 6), s.actor.isSteward = true → Ready s [] [a, b] →
    let v := (s.rd b).toNat
    let va := (s.rd a).toNat
    let sp := v / 65536 % 65536
    let zero := v / 2 ^ 32 = 0 ∧ v % 65536 < 4
    let dropped (e : TlbEntry) : Prop :=
      if v % 4 = 0 then (e.space = sp ∨ e.leaf.getLsbD 6 = true) ∧ e.base ≤ va ∧ va < e.base + e.size
      else if v % 4 = 1 then e.space = sp ∧ e.leaf.getLsbD 6 = false
      else if v % 4 = 2 then e.space = sp ∨ e.leaf.getLsbD 6 = true
      else True
    (¬zero → Gives (.tlbinv a b) s (Trapped s · .illegal)) ∧
    (zero → s.me.settled = false → Gives (.tlbinv a b) s (· = s)) ∧
    (zero → s.me.settled = true → s.me.progress = 0 →
      let drained := s.releaseDrains s.me.core .device true
      drained.releaseReady s.me.core .device true = false → Gives (.tlbinv a b) s (· = drained)) ∧
    (zero → s.me.settled = true → s.tacks = [] → s.held = [] → s.asks = [] → Drained s → (∀ q ∈ s.parties, q.sq = [] ∧ q.loads = [] ∧ q.half = none) →
      (∀ c ∈ s.copies, c.pins = []) → (∀ c ∈ s.cores, ∀ m ∈ c.matrix, m.ready = []) →
      Gives (.tlbinv a b) s fun t => t.me = { s.me with pc := s.me.pc + 4, progress := 0, shooting := [] } ∧
        (∀ p, p ≠ s.actor → t.party p = s.party p) ∧ t.mem = s.mem ∧ t.text = [] ∧ ∀ e, e ∈ t.tlb ↔ e ∈ s.tlb ∧ ¬dropped e) ∧
    (zero → v % 4 = 3 → s.me.settled = true → s.tacks = [] → s.held = [] → s.me.progress ≠ 0 →
      (∃ q ∈ s.parties, (s.unitOf q).physical = false ∧ ∃ l ∈ q.loads, l.got = none ∧ l.pieces ≠ []) →
      Gives (.tlbinv a b) s (· = { s with tlb := [], text := [] })))

/-- R287. ERET resumes the group or steward core that an identity word names: 0 replays what faulted, 1 passes over it, 2
goes on at another address with the lane queue empty, 3 ends the workgroup; a scalar access that failed after issue is issued again by
0 and dropped by 1; a word that names no group to act on is read as
naming a steward core (log entry 27); the value 2^64 − 1 where nothing there has
stopped. A malformed word raises class 0x01. -/
def Obligations.FaultReturn : Prop :=
  ∀ (s : State) (d a b : BitVec 6), s.actor.isSteward = true → Ready s [d] [a, b] →
    let v := (s.rd a).toNat
    let mode := (s.rd b).toNat % 4
    let pc := s.rd b &&& ~~~(3 : DWord)
    let ok := bitsOf v 63 56 = 0 ∧ v % 128 = 0
    let p := groupOfIdentity v
    let answers (s1 t : State) : Prop := (∀ n, t.me.sreg n = if n = d.toNat then 0 else s1.me.sreg n) ∧ t.me.pc = s.me.pc + 4
    let pages (r : PartyId) : List Copy := s.stoppedCopies r fun c => decide (c = .pageAbsent)
    let resumed (r : PartyId) (t : State) : Prop :=
      t.copies = s.copies.map fun c => if c.owner = r ∧ c.stopped = some .pageAbsent then { c with stopped := none } else c
    (¬ok → Gives (.eret d a b) s (Trapped s · .illegal)) ∧
    (ok → stewardOfIdentity v = none →
      (s.party? p = none ∨ s.wgOf p = none → Gives (.eret d a b) s (Wrote s · d (BitVec.allOnes 64))) ∧
      (∀ q w, s.party? p = some q → s.wgOf p = some w → q.park = none → pages p = [] →
        s.stoppedCmds p (fun c => decide (c = .pageAbsent)) = [] → Gives (.eret d a b) s (Wrote s · d (BitVec.allOnes 64)))) ∧
    (ok → ∀ q w, s.party? p = some q → s.wgOf p = some w →
      (∀ k, q.park = some k → s.stoppedCopies p (fun _ => true) = [] → s.stoppedCmds p (fun _ => true) = [] →
        (∀ e, mode = 0 → k.unit = .entry e → Gives (.eret d a b) s fun t => answers s t ∧ t.mem = s.mem ∧
          t.party p = { q with
            status := .running
            park := none
            sq := q.sq.map fun x => if x.id = e then { x with held := false, req := none, stale := true } else x }) ∧
        (∀ e, mode = 1 → k.unit = .entry e → Gives (.eret d a b) s fun t => answers s t ∧ t.mem = s.mem ∧
          t.party p = { q with
            status := .running
            park := none
            sq := q.sq.filter fun x => decide (x.id ≠ e)
            pending := q.pending.filter fun x => decide (x.2 ≠ e)
            stallOn := q.stallOn.filter fun x => decide (x ≠ e) }) ∧
        (mode = 0 → (∀ o, k.unit ≠ .laneLate o ∧ k.unit ≠ .entry o) → Gives (.eret d a b) s fun t => answers s t ∧ t.mem = s.mem ∧
          t.party p = { q with status := .running, park := none }) ∧
        (mode = 1 → k.unit = .scalar → Gives (.eret d a b) s fun t => answers s t ∧ t.mem = s.mem ∧
          t.party p = { q with
            status := .running, park := none, pc := q.pc + 4, progress := 0, ladsub := none, ladItems := none, blocked := false
            waitsOn := none }) ∧
        (mode = 1 → k.unit = .header → Gives (.eret d a b) s fun t => answers s t ∧ t.mem = s.mem ∧
          t.party p = { q with status := .running, park := none, queue := q.queue.drop 1 }) ∧
        (mode = 1 → k.unit = .laneIssue → Gives (.eret d a b) s fun t => answers s t ∧ t.mem = s.mem ∧
          t.party p = { q with status := .running, park := none, run := q.run.map fun r => { r with replay := some 0 } }) ∧
        (mode = 2 → Gives (.eret d a b) s fun t => answers s t ∧ t.mem = s.mem ∧ (t.party p).pc = pc ∧ (t.party p).queue = [] ∧
          (t.party p).status = .running ∧ (t.party p).park = none ∧ (t.party p).sregs = q.sregs ∧ (t.party p).vregs = q.vregs) ∧
        (mode = 3 → Gives (.eret d a b) s (· = (s.failWg w k.cls.code false).alu d 0))) ∧
      (q.park = none → pages p ≠ [] → mode = 0 → Gives (.eret d a b) s fun t => answers s t ∧ t.mem = s.mem ∧ t.party p = q ∧
        resumed p t)) ∧
    (ok → ∀ r q, s.eretGroup p mode pc = none → stewardOfIdentity v = some r → s.party? r = some q → r ≠ s.actor →
      (q.park = none → pages r = [] ∨ 2 ≤ mode → Gives (.eret d a b) s (Wrote s · d (BitVec.allOnes 64))) ∧
      (q.park ≠ none → mode = 3 → Gives (.eret d a b) s (Wrote s · d (BitVec.allOnes 64))) ∧
      (q.park = none → pages r ≠ [] → mode = 0 → Gives (.eret d a b) s fun t => answers s t ∧ t.mem = s.mem ∧ t.party r = q ∧ resumed r t) ∧
      (∀ k, q.park = some k → k.unit = .scalar →
        (mode = 0 → Gives (.eret d a b) s fun t => answers s t ∧ t.party r = { q with status := .running, park := none }) ∧
        (mode = 1 → Gives (.eret d a b) s fun t => answers s t ∧ (t.party r).pc = q.pc + 4 ∧ (t.party r).status = .running) ∧
        (mode = 2 → Gives (.eret d a b) s fun t => answers s t ∧ (t.party r).pc = pc ∧ (t.party r).status = .running)))

/-- R279 to R281, R284, R290, R306, R285. BANKCFG gives a bank its mode, owner and entry size, empty, and answers the old
control word; VCSET installs a cache; CORERST takes a core out of service, and is done once what the core has drained has reached L2; PSWAP takes a partition out and another in; DARN
patches text. Each answers 2^64 − 1, − 2 or − 3 where the object does not exist, conflicts or is in use, with no effect. -/
def Obligations.Reconfiguration : Prop :=
  ∀ (s : State) (d a b : BitVec 6), s.actor.isSteward = true → Ready s [d] [a, b] →
    let x := (s.rd a).toNat
    let v := (s.rd b).toNat
    let none_ : DWord := BitVec.allOnes 64
    (let k := s.bank (x / 64 % 32) (x % 64)
     let used := s.caches.any fun c => decide (c.id.cluster = x / 64 % 32) && c.shares.any fun y => decide (y.1 = x % 64)
     let laddered := s.ladders.any fun l => decide (l.cluster = x / 64 % 32) && l.rungs.any fun r => r.banks.getLsbD (x % 64)
     let owner := v / 256 % 16
     let same := k.mode = BankMode.ofCode (v % 4) ∧ k.owner = owner
     (2048 ≤ x ∨ controlOk v = false → Gives (.bankcfg d a b) s (Trapped s · .illegal)) ∧
     (x < 2048 → controlOk v = true → (used = true ∧ ¬same) ∨ laddered = true →
       Gives (.bankcfg d a b) s (Wrote s · d (none_ - 2))) ∧
     (x < 2048 → controlOk v = true → used = false ∨ same → laddered = false → (s.partition owner).enabled = false →
       Gives (.bankcfg d a b) s (Wrote s · d none_)) ∧
     (x < 2048 → controlOk v = true → used = false ∨ same → laddered = false → (s.partition owner).enabled = true → s.tacks = [] →
       s.held = [] → s.banks.length = 2048 → (∀ q ∈ s.parties, q.loads = []) → (∀ y ∈ s.counted, ∀ c m o, y.1 ≠ .bank c m o) →
       (∀ e ∈ s.errors, ∀ c m o, e ≠ .bank c m o) →
       Gives (.bankcfg d a b) s fun t =>
         Wrote (s.updBank (x / 64 % 32) (x % 64) fun _ => ⟨BankMode.ofCode (v % 4), owner, v / 65536 % 65536, [], []⟩) t d
           (BitVec.ofNat 64 (k.entrySize * 65536 + k.owner * 256 + k.mode.code)) ∧
         t.bank (x / 64 % 32) (x % 64) = ⟨BankMode.ofCode (v % 4), owner, v / 65536 % 65536, [], []⟩)) ∧
    (∀ (s1 : State) (bs : List Byte), (∀ k : State → List Byte → State, s.readRecord x 64 k = k s1 bs) → (s1.party? s1.actor).isSome = true →
      (cacheOfBytes bs = none → Gives (.vcset d a) s (Trapped s1 · .illegal)) ∧
      (∀ c, cacheOfBytes bs = some c →
        let wrong := ∃ y ∈ c.shares, (s1.bank c.id.cluster y.1).mode ≠ .cache ∨ (s1.bank c.id.cluster y.1).owner ≠ c.id.part
        let held (n : Nat) : Nat :=
          ((s1.caches.filter fun x => decide (x.id ≠ c.id ∧ x.id.cluster = c.id.cluster)).map fun x => lookupD n 0 x.shares).sum
        (wrong → Gives (.vcset d a) s (Wrote s1 · d (none_ - 1))) ∧
        (¬wrong → (∃ y ∈ c.shares, 262144 < held y.1 + y.2) → Gives (.vcset d a) s (Wrote s1 · d (none_ - 2))) ∧
        (¬wrong → (∀ y ∈ c.shares, held y.1 + y.2 ≤ 262144) → s1.tacks = [] → s1.held = [] →
          (∀ y ∈ s1.caches, y.id = c.id → y.dirty = []) →
          Gives (.vcset d a) s fun t => t.caches = (s1.caches.filter fun y => decide (y.id ≠ c.id)) ++ [c] ∧
            (∀ n, (t.core n).floor c.id = 0) ∧ t.me.sreg d.toNat = 0 ∧ t.me.pc = s1.me.pc + 4 ∧
            (∀ p, p ≠ s1.actor → t.party p = s1.party p) ∧ t.mem = s1.mem))) ∧
    (∀ (s1 s2 : State) (bs : List Byte) y0, s.me.park = none → s.me.progress ≠ 1 → s.checkAccess s.me x 64 .read false false = (s2, .ok y0) →
      (∀ k : State → List Byte → State, s.readRecord x 64 k = k s1 bs) →
      ((s1.party? s1.actor).isSome = true → s1.darning = none →
        (DarnDesc.ofBytes bs = none → Gives (.darn d a) s (Trapped s1 · .illegal)) ∧
        (∀ y, DarnDesc.ofBytes bs = some y → (s1.partition y.part).enabled = false → Gives (.darn d a) s (Trapped s1 · .illegal))) ∧
      (∀ y, DarnDesc.ofBytes bs = some y → (s1.partition y.part).enabled = true → Gives (.darn d a) s fun t =>
        let u := s1.darnStep d y
        (u.me.park = none → t = u) ∧ (u.me.park ≠ none → t = u.darnDrop))) ∧
    (∀ (s s1 s2 s3 : State) y src dst bs, s.checkAccess s.me y.source y.length .read false false = (s1, .ok src) →
      s1.xlate ⟨1024, (s1.partition y.part).spaceid, (s1.partition y.part).ptroot, false, false⟩ y.target y.length .patch true =
        (s2, .ok dst) →
      s2.loadPieces s.me (s2.partOf s.me) .core false none src.pieces = (s3, bs, false) →
      (s3.darning = none → s.darnStep d y =
        ({ s3 with darning := some (s3.actor, y.part, y.target, y.length) } : State).darnPark y.part y.target y.length) ∧
      (∀ p z, s3.darning = some (p, z) → p ≠ s3.actor → s.darnStep d y = s3) ∧
      (∀ z, s3.darning = some (s3.actor, z) →
        let s4 := s3.darnPark y.part y.target y.length
        let s5 := (s4.writeText 1024 (cutBytes dst.pieces bs)).upd fun q => { q with progress := 1 }
        ((∃ q ∈ s4.parties, q.darned y.part y.target y.length = true ∧ q.runGoes = true) → s.darnStep d y = s4) ∧
        ((∀ q ∈ s4.parties, q.darned y.part y.target y.length = true → q.runGoes = false) → s.darnStep d y = s5.darnFinish d ∧
          ∀ p, Plain s4 s4.me.core → s4.asks = [] → (s4.party? s4.actor).isSome = true → dst.pieces = [p] → bs ≠ [] → bs.length = p.len →
            s4.leavesDirty [p] = true → (∀ a, s4.sliceHolds a = false) →
            ∀ o, cellGet s5.mem o = if p.pa ≤ o ∧ o < p.pa + p.len then bs.getD (o - p.pa) 0 else cellGet s4.mem o))) ∧
    (s.me.park = none → s.me.progress = 1 → s.waitsFor (.service s.actor) = true → Gives (.darn d a) s (· = s)) ∧
    (s.me.park = none → s.me.progress = 1 → s.waitsFor (.service s.actor) = false → ∀ n z, s.darning = some (s.actor, n, z) →
      Gives (.darn d a) s fun t => t.me = { s.me with sregs := t.me.sregs, pc := s.me.pc + 4, progress := 0 } ∧ t.me.sreg d.toNat = 0 ∧
        t.darning = none ∧ t.text = [] ∧ t.mem = s.mem ∧
        (∀ w i, (s.party (.group n w i)).status = .darned →
          t.party (.group n w i) = { s.party (.group n w i) with status := .running, fetched := [] }) ∧
        ∀ p, p ≠ s.actor → (s.party p).status ≠ .darned → t.party p = s.party p) ∧
    (128 ≤ x → Gives (.corerst d a) s (Trapped s · .illegal)) ∧
    (let lazyLeft := if (s.core x).failed = true then s.lazy else s.lazy.filter fun r => decide (r.core ≠ x)
     (x < 128 → s.me.progress = 0 → (s.workgroups.all fun w => decide (w.core ≠ x)) = true → Drained s → s.held = [] → s.asks = [] →
       x < s.cores.length →
       Gives (.corerst d a) s fun t => t.core x = { Core.blank with failed := (s.core x).failed } ∧ t.me.sreg d.toNat = 0 ∧
         t.me.pc = s.me.pc + 4 ∧ t.lazy = lazyLeft ∧ (∀ p, p ≠ s.actor → t.party p = s.party p) ∧ t.mem = s.mem ∧
         t.workgroups = s.workgroups) ∧
     (x < 128 → s.me.progress ≠ 0 → s.drainsHeld x = true → Gives (.corerst d a) s (· = s)) ∧
     (x < 128 → s.me.progress ≠ 0 → s.drainsHeld x = false → x < s.cores.length →
       Gives (.corerst d a) s fun t => t.core x = { s.core x with resetting := false } ∧ t.me.sreg d.toNat = 0 ∧ t.me.progress = 0 ∧
         t.me.pc = s.me.pc + 4 ∧ t.lazy = lazyLeft ∧ (∀ p, p ≠ s.actor → t.party p = s.party p) ∧ t.mem = s.mem)) ∧
    (let n := v % 16
     let out := v / 256 % 2 = 1
     let A := s.partition x
     (16 ≤ x ∨ 512 ≤ v ∨ v / 16 % 16 ≠ 0 → Gives (.pswap d a b) s (Trapped s · .illegal)) ∧
     (x < 16 → v < 512 → v / 16 % 16 = 0 → A.enabled = false ∨ (¬out ∧ (s.partition n).enabled = false) →
       Gives (.pswap d a b) s (Wrote s · d none_)) ∧
     (x < 16 → v < 512 → v / 16 % 16 = 0 → A.enabled = true → ¬out → (s.partition n).enabled = true → (s.partition n).cores ≠ A.cores →
       Gives (.pswap d a b) s (Wrote s · d (none_ - 1))) ∧
     (x < 16 → v < 512 → v / 16 % 16 = 0 → A.enabled = true → out → s.me.progress = 0 → A.swappedOut = false → x < s.partitions.length →
       (∀ m, m < 16 → m ≠ x → (s.partition m).inShadow = false) → (∀ w ∈ s.workgroups, w.part ≠ x) → Drained s →
       s.held = [] → s.asks = [] →
       Gives (.pswap d a b) s fun t => t.me.sreg d.toNat = 0 ∧ t.me.pc = s.me.pc + 4 ∧ t.mem = s.mem ∧
         t.partition x = { A with swappedOut := true, inShadow := false } ∧ (∀ p, p ≠ s.actor → t.party p = s.party p)))

/-- R292, R293. MEASURE: EXTEND folds 64 bytes into a slot that is open, READ, QUOTE and KEY write their bytes to memory, CLOSE
closes a slot; a slot from 8 up raises class 0x01, an address that is no multiple of 64 class 0x04. A quote holds its version,
YREV, `clk`, the report data and the eight slots before its signature. What is written is performed before the next instruction. -/
def Obligations.Measurement : Prop :=
  ∀ (s : State) (d a b : BitVec 6), s.actor.isSteward = true → Ready s [d] [a, b] →
    let n := (s.rd b).toNat
    let va := (s.rd a).toNat
    (8 ≤ n → Gives (.measureExt d a b) s (Trapped s · .illegal) ∧ Gives (.measureRead a b) s (Trapped s · .illegal) ∧
      Gives (.measureClose b) s (Trapped s · .illegal)) ∧
    (n < 8 → Gives (.measureClose b) s fun t => Became { s with slotsClosed := s.slotsClosed.set n true } t { s.me with pc := s.me.pc + 4 }) ∧
    (n < 8 → ∀ (s1 : State) (bs : List Byte), (∀ k : State → List Byte → State, s.readRecord va 64 k = k s1 bs) → (s1.party? s1.actor).isSome = true →
      (s1.slotsClosed.getD n false = true → Gives (.measureExt d a b) s (Wrote s1 · d (BitVec.allOnes 64 - 3))) ∧
      (s1.slotsClosed.getD n false = false → Gives (.measureExt d a b) s fun t =>
        Wrote { s1 with slotsMeasured := s1.slotsMeasured.set n (shake256 (s1.slotBytes n ++ bs)) } t d 0)) ∧
    (va % 64 ≠ 0 → (n < 8 → Gives (.measureRead a b) s (Trapped s · .alignment)) ∧ Gives (.measureQuote d a b) s (Trapped s · .alignment) ∧
      Gives (.measureKey a) s (Trapped s · .alignment)) ∧
    (va % 64 = 0 → n < 8 → ∀ s1 : State, (∀ k : State → State, s.writeObject va (s.slotBytes n) k = k s1) → (s1.party? s1.actor).isSome = true →
      Gives (.measureRead a b) s fun t => Became s1 t { s1.me with pc := s1.me.pc + 4 }) ∧
    (va % 64 = 0 → ∀ s1 : State,
      (∀ k : State → State, s.writeObject va (((List.range 57).map fun i => Config.identityKey i) ++ List.replicate 7 0) k = k s1) →
      (s1.party? s1.actor).isSome = true → Gives (.measureKey a) s fun t => Became s1 t { s1.me with pc := s1.me.pc + 4 }) ∧
    (∀ (s1 : State) (w : Nat) (bs : List Byte) (x : Xlat) (p : Piece), s.me.progress = 0 → s.me.sq = [] →
      s.checkAccess s.me w bs.length .write false true = (s1, .ok x) → x.pieces = [p] → bs ≠ [] → bs.length = p.len →
      Plain s1 s.me.core → s1.asks = [] → (∀ a, s1.sliceHolds a = false) → s1.leavesDirty [p] = true → s1.actor = s.actor → (s1.party? s1.actor).isSome = true →
      (s1.core s.me.core).dirty = [] → s1.me.core = s.me.core →
      ∃ t, (∀ k : State → State, s.writeObject w bs k = k t) ∧
        ∀ o, cellGet t.mem o = if p.pa ≤ o ∧ o < p.pa + p.len then bs.getD (o - p.pa) 0 else cellGet s1.mem o) ∧
    (s.me.progress = 1 → va % 64 = 0 → s.waitsFor (.service s.actor) = true →
      (n < 8 → Gives (.measureRead a b) s (· = s)) ∧ Gives (.measureKey a) s (· = s) ∧ Gives (.measureQuote d a b) s (· = s)) ∧
    (s.me.progress ≠ 1 → va % 64 = 0 → ∀ (s1 s2 : State) (bs : List Byte), (∀ k : State → List Byte → State, s.readRecord n 64 k = k s1 bs) → bs.length = 64 →
      (∀ m, (s1.slotBytes m).length = 64) →
      let q := s1.quote s1.me.core bs
      (∀ k : State → State, s1.writeObject va q k = k s2) → (s2.party? s2.actor).isSome = true →
      (Gives (.measureQuote d a b) s (Wrote s2 · d 0)) ∧ q.length = 768 ∧
      le (q.take 4) = 1 ∧ le ((q.drop 4).take 4) = Config.yrev % 2 ^ 32 ∧ le ((q.drop 8).take 8) = (s1.clkOf s1.me.core).toNat ∧
      (q.drop 16).take 64 = bs ∧ ∀ m, m < 8 → (q.drop (80 + 64 * m)).take 64 = s1.slotBytes m)

/-! ## Ports and the fabric (10_isolation.md, 18_attach_power.md) -/

namespace Sys2Proof.Machine

/-- The command block of a PORTCMD has been read in `s1`, and its body is `bs` (R291). -/
structure Commanded (s : State) (d a : BitVec 6) (code : Nat) (s1 : State) (bs : List Byte) : Prop where
  read : ∀ k : State → Nat → List Byte → State, s.portcmd d a code k = .next (k s1 (s.rd a).toNat bs)
  here : (s1.party? s1.actor).isSome = true

/-- The steward core that waits for the up command `c`, and for nothing else, has its result. -/
def Answered (s t : State) (c : Option (PartyId × Nat × Nat)) (v : DWord) : Prop :=
  ∀ p n id, c = some (p, n, id) → (s.party p).stallOn = [id] → (s.party? p).isSome = true →
    t.party p = { s.party p with stallOn := [], heldResult := some v }

/-- R332. Step 4 has tried port `n`: 0 and 1 are the Ethernet ports, 2 to 17 the fabric ports. The boot status tells with the last of
them whether an Ethernet port came up, and turns to ready with the first that does later. -/
def Tried (s t : State) (n : Nat) : Prop :=
  t.portsTried = addNew n s.portsTried ∧
  t.bootStatus =
    let up := t.ether.any (·.up)
    if s.bootStatus = 0x03 ∧ (List.range 18).all (fun k => decide (k ∈ t.portsTried)) = true then (if up then 0x04 else 0xE4)
    else if s.bootStatus = 0xE4 ∧ up = true then 0x04
    else s.bootStatus

/-- No port has been tried by a command. -/
def Untried (s t : State) : Prop := t.portsTried = s.portsTried ∧ t.bootStatus = s.bootStatus

end Sys2Proof.Machine

/-- R291, R269, R271, R207, R195. PORTCMD codes 1 to 3: a malformed block raises class 0x01; a record, entries or slots are
installed, or a status says why not, with no effect. A partition that is enabled begins with no launch, and its tacks are free
(log entry 57). That a swapped-out partition's cores clash with no other's is the model's (log entry 39); so is that a record
of an enabled partition keeps its counts (log entry 44), and that an up command is answered by a down (log entry 58).
R291, R328 to R331. PORTCMD codes 4 and 5: an Ethernet port is brought up, taken down, given a frame to send or a buffer
to fill; a fabric port is brought up, taken down, asked for its device and links. A fabric port that is taken down is blank; what
its links had not seen acknowledged leaves over another port where one is up, and a FRED instruction that reaches a slot of it sets
UNREACHABLE. A buffer is given to the frame that has waited for it, whose priority is let go if it was the last of it (log entry
56). -/
def Obligations.PortCommands : Prop :=
  (∀ (s s1 : State) (d a : BitVec 6) (bs : List Byte),
    let conflict : DWord := BitVec.allOnes 64 - 1
    let inUse : DWord := BitVec.allOnes 64 - 2
    let f (off n : Nat) : Nat := le ((bs.drop off).take n)
    (Commanded s d a 1 s1 bs →
      (partitionOfBytes bs = none → Gives (.partitionRecord d a) s (Trapped s1 · .illegal)) ∧
      (∀ n r, partitionOfBytes bs = some (n, r) →
        let old := s1.partition n
        let other (m : Nat) : Prop := m < 16 ∧ m ≠ n ∧ (s1.partition m).enabled = true
        let clash := (∃ m, other m ∧ (s1.partition m).swappedOut = false ∧ (s1.partition m).cores &&& r.cores ≠ 0) ∨
          ∃ m, other m ∧ (s1.partition m).spaceid = r.spaceid
        let used := (∃ w ∈ s1.workgroups, w.part = n ∧ w.state ≠ .saved ∧ r.cores.getLsbD w.core = false) ∨
          (old.enabled = true ∧ r.enabled = false ∧ ∃ l ∈ s1.launches, l.part = n ∧ l.over = false)
        (clash → Gives (.partitionRecord d a) s (Wrote s1 · d conflict)) ∧
        (¬clash → used → Gives (.partitionRecord d a) s (Wrote s1 · d inUse)) ∧
        (¬clash → ¬used → old.enabled = false → r.enabled = true → n < s1.partitions.length → s1.spareable r.cores = [] →
          s1.held = [] → (∀ k ∈ s1.tacks, k.state ≠ .breaking) →
          Gives (.partitionRecord d a) s fun t => t.partition n = r ∧ (∀ k ∈ t.tacks, k.part = n → k.state = .free) ∧
            (∀ k, k.part ≠ n → (k ∈ t.tacks ↔ k ∈ s1.tacks)) ∧ (∀ m, m ≠ n → t.partition m = s1.partition m) ∧
            (∀ l ∈ t.launches, l.part ≠ n) ∧ t.me.sreg d.toNat = 0 ∧ t.me.pc = s1.me.pc + 4 ∧ t.mem = s1.mem) ∧
        (¬clash → ¬used → (old.enabled = true ∧ old.cores = r.cores) ∨ (old.enabled = false ∧ r.enabled = false) → n < s1.partitions.length → s1.spareable r.cores = [] →
          Gives (.partitionRecord d a) s fun t => t.partition n =
            { r with nextSeq := old.nextSeq, nextWg := old.nextWg, swappedOut := old.swappedOut, inShadow := old.inShadow } ∧
            (∀ m, m ≠ n → t.partition m = s1.partition m) ∧ t.me.sreg d.toNat = 0 ∧ t.me.pc = s1.me.pc + 4 ∧ t.mem = s1.mem))) ∧
    (Commanded s d a 2 s1 bs →
      let es := (List.range (f 4 2)).map fun i => peerOfBytes (f 0 1) (f 2 2 + i) ((bs.drop (8 + 32 * i)).take 32)
      let ok := f 0 1 < 16 ∧ f 1 1 = 0 ∧ f 6 2 = 0 ∧ 1 ≤ f 4 2 ∧ f 4 2 ≤ 1024 ∧ f 2 2 + f 4 2 ≤ 1024 ∧ bs.length = 8 + 32 * f 4 2 ∧
        ∀ e ∈ es, e.isSome = true
      (¬ok → Gives (.peerEntries d a) s (Trapped s1 · .illegal)) ∧
      (ok → Gives (.peerEntries d a) s fun t => ∃ ps, Wrote { s1 with peers := ps } t d 0 ∧
        (∀ e ∈ es, ∀ p, e = some p → p ∈ ps) ∧
        ∀ p, (p.part ≠ f 0 1 ∨ p.number < f 2 2 ∨ f 2 2 + f 4 2 ≤ p.number) → (p ∈ ps ↔ p ∈ s1.peers))) ∧
    (Commanded s d a 3 s1 bs →
      let ok := bs.length = 8 ∧ f 0 1 < 16 ∧ f 1 1 < 16 ∧ f 2 2 + f 4 2 ≤ 1024 ∧ f 6 1 < 2 ∧ f 7 1 = 0
      let mine (n : Nat) : Prop := f 2 2 ≤ n ∧ n < f 2 2 + f 4 2
      let foreign := ∃ n, mine n ∧ ∃ o, (s1.slotAt (f 1 1) n).owner = some o ∧ o ≠ f 0 1
      (¬ok → Gives (.reductionSlots d a) s (Trapped s1 · .illegal)) ∧
      (ok → foreign → Gives (.reductionSlots d a) s (Wrote s1 · d conflict)) ∧
      (ok → ¬foreign → Gives (.reductionSlots d a) s fun t =>
        (∀ n, mine n → (t.slotAt (f 1 1) n).owner = if f 6 1 = 1 then some (f 0 1) else none) ∧
        (∀ p n, p ≠ f 1 1 ∨ ¬mine n → t.slotAt p n = s1.slotAt p n) ∧
        t.me.sreg d.toNat = 0 ∧ t.me.pc = s1.me.pc + 4 ∧ t.mem = s1.mem))) ∧
  (∀ (s s1 : State) (d a : BitVec 6) (bs : List Byte),
    let inUse : DWord := BitVec.allOnes 64 - 2
    let waits (u t : State) : Prop := t.me.stallOn = [s1.fresh] ∧ t.me.pc = s1.me.pc ∧ t.mem = u.mem ∧
      ∀ p, p ≠ s1.actor → t.party p = u.party p
    (s.actor.isSteward = true → Ready s [d] [a] → ∀ v, s.me.heldResult = some v → ∀ i ∈ ([.ethernetUp d a, .fabricPortUp d a] : List Instr),
      Gives i s fun t => WroteBeside s t d v fun q => { q with heldResult := none }) ∧
    (Commanded s d a 4 s1 bs →
      (∀ j ∈ ([(0, .ethernetUp d a), (1, .ethernetDown d a), (2, .ethernetTransmit d a), (3, .postReceiveBuffer d a)] : List (Nat × Instr)),
        EtherBody.ofBytes j.1 bs = none → Gives j.2 s (Trapped s1 · .illegal)) ∧
      (∀ b, EtherBody.ofBytes 0 bs = some b → b.port < s1.ether.length →
        let e := s1.etherPort b.port
        (e.up = true → Gives (.ethernetUp d a) s (Wrote s1 · d 0)) ∧
        (e.up = false → e.command.isSome = true → Gives (.ethernetUp d a) s (Wrote s1 · d inUse)) ∧
        (e.up = false → e.command = none → Gives (.ethernetUp d a) s fun t => waits s1 t ∧
          t.etherPort b.port = { e with command := some (s1.actor, s1.clk, s1.fresh) })) ∧
      (∀ b, EtherBody.ofBytes 1 bs = some b → b.port < s1.ether.length → (s1.etherPort b.port).queue = [] →
        let c := (s1.etherPort b.port).command
        (∀ x, c = some x → x.1 ≠ s1.actor) →
        Gives (.ethernetDown d a) s fun t =>
          t.etherPort b.port = { s1.etherPort b.port with up := false, command := none, waiting := [], pausing := [] } ∧
          Answered s1 t c inUse ∧ (c.isSome = true → Tried s1 t b.port) ∧ (c = none → Untried s1 t) ∧
          t.me.sreg d.toNat = 0 ∧ t.me.pc = s1.me.pc + 4 ∧ t.mem = s1.mem) ∧
      (∀ j ∈ ([(2, true, .ethernetTransmit d a), (3, false, .postReceiveBuffer d a)] : List (Nat × Bool × Instr)), ∀ b,
        EtherBody.ofBytes j.1 bs = some b → b.port < s1.ether.length →
        let e := s1.etherPort b.port
        (1024 ≤ e.queue.length → Gives j.2.2 s (Wrote s1 · d inUse)) ∧
        let op (f : List Byte) : EtherOp := ⟨j.2.1, b.space, b.priority, b.buffer, b.length, b.completion, s1.actor, false, f, []⟩
        (e.queue.length < 1024 → j.2.1 = true ∨ e.waiting = [] → Gives j.2.2 s fun t =>
          t.etherPort b.port = { e with queue := e.queue ++ [op []] } ∧
          t.me.sreg d.toNat = 0 ∧ t.me.pc = s1.me.pc + 4 ∧ t.mem = s1.mem) ∧
        (∀ f fs, e.queue.length < 1024 → j.2.1 = false → e.waiting = f :: fs → (∀ y ∈ e.queue, y.transmit = true ∨ y.frame ≠ []) →
          let last := ∀ g ∈ fs, framePriority g ≠ framePriority f
          Gives j.2.2 s fun t => t.me.sreg d.toNat = 0 ∧ t.me.pc = s1.me.pc + 4 ∧ t.mem = s1.mem ∧
            (¬last → t.etherPort b.port = { e with queue := e.queue ++ [op f], waiting := fs }) ∧
            (last → t.etherPort b.port =
              { e with
                queue := e.queue ++ [op f]
                waiting := fs
                sent := (pauseFrame b.port (framePriority f) 0, true) :: e.sent
                pausing := e.pausing.filter fun x => decide (x ≠ framePriority f) })))) ∧
    (Commanded s d a 5 s1 bs →
      (∀ j ∈ ([(0, .fabricPortUp d a), (1, .fabricPortDown d a), (2, .fabricPortQuery d a)] : List (Nat × Instr)),
        fabricBody j.1 bs = none → Gives j.2 s (Trapped s1 · .illegal)) ∧
      (∀ port mask, fabricBody 0 bs = some (port, mask) → port < s1.fabric.length →
        let g := s1.fabricPort port
        let links := g.links.mapIdx fun i l => { l with enabled := mask.testBit i }
        (g.command.isSome = true → Gives (.fabricPortUp d a) s (Wrote s1 · d inUse)) ∧
        (g.command = none → g.up = true → (∃ l ∈ links, l.enabled = true ∧ l.up = true) → Gives (.fabricPortUp d a) s fun t =>
          t.fabricPort port = { g with links := links } ∧ t.me.sreg d.toNat = 0 ∧ t.me.pc = s1.me.pc + 4 ∧ t.mem = s1.mem) ∧
        (g.command = none → (g.up = false ∨ ∀ l ∈ links, l.enabled = false ∨ l.up = false) → Gives (.fabricPortUp d a) s fun t =>
          waits s1 t ∧ t.fabricPort port = { g with links := links, command := some (s1.actor, s1.clk, s1.fresh) })) ∧
      (∀ port mask, fabricBody 1 bs = some (port, mask) → port < s1.fabric.length →
        let g := s1.fabricPort port
        (∀ x, g.command = some x → x.1 ≠ s1.actor) →
        Gives (.fabricPortDown d a) s fun t => t.fabricPort port = FabricPort.blank ∧ Answered s1 t g.command inUse ∧
          (g.command.isSome = true → Tried s1 t (2 + port)) ∧ (g.command = none → Untried s1 t) ∧
          ((∃ n k, n < 16 ∧ n ≠ port ∧ (s1.fabricPort n).up = true ∧ (∀ m, m < n → m ≠ port → (s1.fabricPort m).up = false) ∧ k < 4 ∧
              ((s1.fabricPort n).links.getD k Link.blank).up = true) →
            ∀ l ∈ g.links, ∀ f ∈ l.retry, f.packet ∈ t.outbox) ∧
          (∀ (d' a' b' : BitVec 6) (f : FredDesc), Ready t [d'] [a', b'] → FredDesc.ofWord (t.rd a') = some f → f.port = port →
            (t.slotAt f.port f.slot).owner.isSome = true → (t.slotAt f.port f.slot).owner = t.partOf t.me →
            ∀ i ∈ ([.frjoin d' a', .frput d' a' b', .frget d' a'] : List Instr),
              Gives i t fun u => (lookupD f.key 0 u.me.frSeen).getLsbD 4 = true) ∧
          t.me.sreg d.toNat = 0 ∧ t.me.pc = s1.me.pc + 4 ∧ t.mem = s1.mem) ∧
      (∀ port mask, fabricBody 2 bs = some (port, mask) →
        let g := s1.fabricPort port
        Gives (.fabricPortQuery d a) s (Wrote s1 · d
          (BitVec.ofNat 64 (g.device.getD 0xFFFF * 2 ^ 32 + (g.links.mapIdx fun i l => if l.up then 2 ^ i else 0).sum))))))

/-- R162, R326, R328 to R332. What happens at ports: a link comes up or is lost, an up command runs out of time, and the boot status
tells of the last of them (log entry 6); a frame begins, not one of a paused priority, is read line by line and leaves; a frame
arrives for the first buffer that waits, or pauses priorities, or waits for a buffer while the port pauses its priority (log entry
56), is written line by line and completes. Every operation ends in a completion word with the bytes that it has moved, and one
that began and is aborted leaves its frame cut short. -/
def Obligations.PortEvents : Prop :=
  (∀ (s s1 : State) (x outcome cls len : Nat) (o : EtherOp),
    (∀ c, s.portXlate x o.space o.completion 8 .write = (s1, .error c) → s.etherDone x o outcome cls len = s1.wakeIssuer o.issuer) ∧
    (∀ y p, s.portXlate x o.space o.completion 8 .write = (s1, .ok y) → y.pieces = [p] → p.len = 8 → HomesFree s1 →
      s1.leavesDirty [p] = true →
      let t := s.etherDone x o outcome cls len
      readBytes t.mem p.pa 8 = toLe 8 (len * 2 ^ 16 + cls * 2 ^ 8 + outcome) ∧
        ∀ a, a < p.pa ∨ p.pa + 8 ≤ a → cellGet t.mem a = cellGet s1.mem a) ∧
    (∀ bss : List (List Byte), o.parts = bss.mapIdx (fun i b => (i, b)) → o.sentBytes = bss.flatten)) ∧
  ∀ (s : State),
    let x := s.args.x
    let k := s.args.y
    let e := s.etherPort x
    let g := s.fabricPort x
    let cut (u : State) (o : EtherOp) : State := if o.began then u.updEther x fun e => { e with sent := (o.sentBytes, false) :: e.sent } else u
    let ends (u : State) (o : EtherOp) (outcome cls len : Nat) : State :=
      (u.updEther x fun e => { e with queue := e.queue.eraseIdx k }).etherDone x o outcome cls len
    let moved (o : EtherOp) : Nat :=
      if o.transmit then (if o.began then o.sentBytes.length else 0) else (o.parts.map fun p => p.2.length).sum
    (x < s.ether.length → e.command.isSome = true → Gives .ethernetLinkUp s fun t =>
      t.etherPort x = { e with up := true, command := none } ∧ t.mem = s.mem ∧ Tried s t x ∧ Answered s t e.command 0) ∧
    (e.command = none → Gives .ethernetLinkUp s (· = s) ∧ Gives .ethernetUpTimeout s (· = s)) ∧
    (∀ c, x < s.ether.length → e.command = some c →
      (c.2.1 + 2000000000 ≤ s.clk → Gives .ethernetUpTimeout s fun t => t.etherPort x = { e with command := none } ∧ t.mem = s.mem ∧
        Tried s t x ∧ Answered s t e.command (BitVec.allOnes 64 - 2)) ∧
      (s.clk < c.2.1 + 2000000000 → Gives .ethernetUpTimeout s (· = s))) ∧
    (e.up = false → Gives .ethernetLinkFailure s (· = s)) ∧
    (e.up = true → Gives .ethernetLinkFailure s
      (· = e.queue.foldl (fun u o => (cut u o).etherDone x o 3 0 (moved o))
        (s.updEther x fun e => { e with up := false, queue := [], waiting := [], pausing := [] }))) ∧
    (e.up = true → x < s.ether.length → Gives .ethernetLinkFailure s fun t => (t.etherPort x).up = false ∧ (t.etherPort x).queue = [] ∧
      (e.queue = [] → t.mem = s.mem ∧ t.parties = s.parties)) ∧
    (∀ o, e.queue[k]? = some o → e.up = true → o.transmit = true → s.holds .ethernet (64 * x) = false → x < s.ether.length →
      let lines := bufferLines o.buffer o.length
      let free := (∀ y ∈ e.queue, y.began = false) ∧ (∀ y ∈ e.queue.take k, y.transmit = true → y.priority ≠ o.priority) ∧
        e.paused.getD o.priority 0 ≤ s.clk
      (s.args.flag = true → free → Gives .ethernetTransmitDone s fun t => { t with ether := s.ether } = s ∧
        t.etherPort x = { e with queue := e.queue.modify k fun y => { y with began := true } }) ∧
      (s.args.flag = true → ¬free → Gives .ethernetTransmitDone s (· = s)) ∧
      (∀ n va len, s.args.flag = false → s.args.z = n + 1 → lines[n]? = some (va, len) → (∀ y ∈ o.parts, y.1 ≠ n) →
        s.portHolds x o.space va len = false →
        (∀ s1 bs, s.portRead x o va len = (s1, .ok bs) → Gives .ethernetTransmitDone s fun t => { t with ether := s1.ether } = s1 ∧
          (t.etherPort x).queue = (s1.etherPort x).queue.modify k fun y => { y with parts := y.parts ++ [(n, bs)] }) ∧
        (∀ s1 c, s.portRead x o va len = (s1, .error c) → Gives .ethernetTransmitDone s (· = ends (cut s1 o) o 2 c.code (moved o)))) ∧
      (s.args.flag = false → s.args.z = 0 → o.began = true → o.parts.length = lines.length → Gives .ethernetTransmitDone s
        (· = ends (s.updEther x fun e => { e with sent := (o.sentBytes, true) :: e.sent }) o 1 0 o.length)) ∧
      (s.args.flag = false → s.args.z = 0 → o.began = false ∨ o.parts.length ≠ lines.length → Gives .ethernetTransmitDone s (· = s))) ∧
    (e.up = true → s.holds .ethernet (64 * x) = false → 64 ≤ s.args.bytes.length → s.args.bytes.length ≤ 9216 → x < s.ether.length →
      (∀ ts, s.args.flag = false → pauseOf s.args.bytes = some ts → Gives .ethernetFrameReceive s fun t => { t with ether := s.ether } = s ∧
        ∀ n, n < e.paused.length → (t.etherPort x).paused.getD n 0 = match ts.getD n none with
          | some q => s.clk + (64 * q + 24) / 25
          | none => e.paused.getD n 0) ∧
      (∀ o, s.args.flag = true ∨ pauseOf s.args.bytes = none → e.queue[k]? = some o → o.transmit = false → o.frame = [] →
        (∀ y ∈ e.queue.take k, y.transmit = true ∨ y.frame ≠ []) →
        (s.args.flag = true → Gives .ethernetFrameReceive s (· = ends s o 4 0 0)) ∧
        (s.args.flag = false → Gives .ethernetFrameReceive s fun t => { t with ether := s.ether } = s ∧
          t.etherPort x = { e with queue := e.queue.modify k fun y => { y with frame := s.args.bytes } })) ∧
      ((∀ y ∈ e.queue, y.transmit = true ∨ y.frame ≠ []) →
        let p := framePriority s.args.bytes
        (s.args.flag = true → Gives .ethernetFrameReceive s (· = s)) ∧
        (s.args.flag = false → pauseOf s.args.bytes = none → Gives .ethernetFrameReceive s fun t => { t with ether := s.ether } = s ∧
          ∃ f, pauseOf f = some ((List.range 8).map fun i => if i = p then some 0xFFFF else none) ∧ f.length = 64 ∧
            t.etherPort x =
              { e with waiting := e.waiting ++ [s.args.bytes], sent := (f, true) :: e.sent, pausing := addNew p e.pausing }))) ∧
    (∀ o, e.queue[k]? = some o → e.up = true → o.transmit = false → o.frame ≠ [] → s.holds .ethernet (64 * x) = false → s.args.bytes = [] →
      let lines := bufferLines o.buffer o.frame.length
      (∀ n va len, s.args.z = n + 1 → lines[n]? = some (va, len) → (∀ y ∈ o.parts, y.1 ≠ n) →
        (∀ s1 c, s.portXlate x o.space va len .write = (s1, .error c) → Gives .ethernetFrameReceive s (· = ends s1 o 2 c.code (moved o))) ∧
        (∀ s1 y, s.portXlate x o.space va len .write = (s1, .ok y) →
          let bs := (o.frame.drop (va - o.buffer)).take len
          Gives .ethernetFrameReceive s fun t =>
            t = (s1.portWrite x (.port x o.space) (cutBytes y.pieces bs)).updEther x (fun e =>
              { e with queue := e.queue.modify k fun y => { y with parts := y.parts ++ [(n, bs)] } }) ∧
            ∀ p, y.pieces = [p] → p.len = bs.length → bs ≠ [] → HomesFree s1 → s1.leavesDirty [p] = true →
              ∀ a, cellGet t.mem a = if p.pa ≤ a ∧ a < p.pa + p.len then bs.getD (a - p.pa) 0 else cellGet s1.mem a)) ∧
      (s.args.z = 0 → o.parts.length = lines.length → s.portHeld x = false → Gives .ethernetFrameReceive s (· = ends s o 1 0 o.frame.length)) ∧
      (s.args.z = 0 → o.parts.length ≠ lines.length ∨ s.portHeld x = true → Gives .ethernetFrameReceive s (· = s))) ∧
    (let others := ∃ n, n < 16 ∧ n ≠ x ∧ (s.fabricPort n).up = true ∧ (s.fabricPort n).device ≠ some s.args.z
     let trained := (g.links.getD s.args.y Link.blank).enabled = true ∧ s.args.z < 65535
     (¬trained → Gives .fabricLinkTrained s (· = s)) ∧
     (trained → g.up = false → g.command = none → Gives .fabricLinkTrained s (· = s)) ∧
     (trained → x < s.fabric.length → s.args.y < g.links.length → g.up = true ∨ (g.command.isSome = true ∧ ¬others) →
       Gives .fabricLinkTrained s fun t => (t.fabricPort x).up = true ∧ ((t.fabricPort x).links.getD s.args.y Link.blank).up = true ∧
         (t.fabricPort x).device = (if g.up then g.device else some s.args.z) ∧ (t.fabricPort x).command = none ∧ t.mem = s.mem ∧
         Tried s t (2 + x) ∧ Answered s t g.command 0) ∧
     (trained → x < s.fabric.length → g.up = false → g.command.isSome = true → others → Gives .fabricLinkTrained s fun t =>
       t.fabricPort x = { g with command := none } ∧ t.mem = s.mem ∧ Tried s t (2 + x) ∧ Answered s t g.command (BitVec.allOnes 64 - 1))) ∧
    (∀ c, x < s.fabric.length → g.command = some c →
      (c.2.1 + 800000000 ≤ s.clk → Gives .fabricUpTimeout s fun t => t.fabricPort x = { g with command := none } ∧ t.mem = s.mem ∧
        Tried s t (2 + x) ∧ Answered s t g.command (BitVec.allOnes 64 - 2)) ∧
      (s.clk < c.2.1 + 800000000 → Gives .fabricUpTimeout s (· = s)))

/-- R307, R308, R158. Links and packets: a flit that fails its check is asked for again, and one that comes twice counts once; what
a resend is asked of leaves again, and after sixteen failed resends a link ends, whose buffer and routing weight the port's other
links share; a packet is acknowledged as it is accepted and again when it comes twice, kept by its sender until it is
acknowledged, sent again after 20 microseconds, and its device given up after 1 ms. A store is applied at its home, and what
cannot be served is refused. -/
def Obligations.LinksAndPackets : Prop :=
  (∀ (s : State),
    let x := s.args.x
    let link (t : State) : Link := (t.fabricPort x).links.getD s.args.y Link.blank
    let here := x < s.fabric.length ∧ s.args.y < (s.fabricPort x).links.length
    let weights (t : State) : Nat := ((t.fabricPort x).links.map (·.weight)).sum
    let failed (t : State) : Prop := { t with fabric := s.fabric, outbox := s.outbox } = s ∧ (link t).up = false ∧
      ((∀ n, n < 4 → n ≠ s.args.y → ((s.fabricPort x).links.getD n Link.blank).up = false) → (t.fabricPort x).up = false) ∧
      ((∃ n, n < 4 ∧ n ≠ s.args.y ∧ ((s.fabricPort x).links.getD n Link.blank).up = true) → weights t = weights s ∧
        ∀ f ∈ (link s).retry, f.packet ∈ t.outbox ∧ ∃ n, n ≠ s.args.y ∧
          ∃ h ∈ ((t.fabricPort x).links.getD n Link.blank).retry, h.packet = f.packet)
    ((link s).up = false → Gives .flitReceive s (· = s) ∧ Gives .linkFailure s (· = s) ∧ Gives .linkResendRequest s (· = s)) ∧
    ((link s).up = true → here →
      (s.args.flag = true → Gives .flitReceive s fun t => link t = { link s with askedResend := true } ∧ { t with fabric := s.fabric } = s) ∧
      (s.args.flag = false → Gives .flitReceive s fun t => { t with fabric := s.fabric } = s ∧
        link t = { link s with accepted := if s.args.z ∈ (link s).accepted then (link s).accepted else (link s).accepted ++ [s.args.z], askedResend := false }) ∧
      (s.args.flag = true → Gives .linkResendRequest s fun t => { t with fabric := s.fabric } = s ∧
        link t = { link s with retry := (link s).retry.filter fun f => decide (s.args.z < f.seq), failedResends := 0 }) ∧
      (s.args.flag = false → (link s).failedResends < 16 → Gives .linkResendRequest s fun t =>
        { t with fabric := s.fabric, outbox := s.outbox } = s ∧ link t = { link s with failedResends := (link s).failedResends + 1 } ∧
        t.outbox = s.outbox ++ ((link s).retry.filter fun f => decide (s.args.z ≤ f.seq)).map (·.packet)) ∧
      (s.args.flag = false → 16 ≤ (link s).failedResends → Gives .linkResendRequest s failed) ∧
      Gives .linkFailure s failed) ∧
    (s.args.flag = false → Gives .packetAcknowledge s fun t => { t with sent := s.sent } = s ∧
      ∀ p, p ∈ t.sent ↔ p ∈ s.sent ∧ ¬(p.device = x ∧ p.seq = s.args.y)) ∧
    (∀ p, s.sent.find? (fun p => decide (p.device = x ∧ p.seq = s.args.y)) = some p →
      (s.clk < p.sentAt + 80000 → Gives .packetResendTimeout s (· = s)) ∧
      (p.sentAt + 80000 ≤ s.clk → Gives .packetResendTimeout s fun t => t.parties = s.parties ∧ t.mem = s.mem ∧
        (s.route.isSome = true → ⟨x, s.args.y, p.body⟩ ∈ t.outbox) ∧
        ∃ q ∈ t.sent, q.device = x ∧ q.seq = s.args.y ∧ q.body = p.body ∧ q.sentAt = s.clk)) ∧
    (s.args.flag = false → (∀ p ∈ s.sent, p.device = x → s.clk < p.firstAt + 4000000) → Gives .destinationUnreachable s (· = s)) ∧
    (s.args.flag = false → (∃ p ∈ s.sent, p.device = x ∧ p.firstAt + 4000000 ≤ s.clk) → Gives .destinationUnreachable s fun t =>
      x ∈ t.deadDevices ∧ (∀ p ∈ t.sent, p.device ≠ x) ∧ t.mem = s.mem ∧
      ∀ q ∈ t.parties, ∀ l ∈ q.loads, ∀ r ∈ l.reqs, r.device = x → r.answer ≠ none) ∧
    (let k := s.args.pkt
     let fresh := (k.device, k.seq) ∉ s.acceptedSeqs
     let isAck := ∃ n, k.body = .ack n
     (s.args.flag = true ∨ s.route = none → Gives .packetReceive s (· = s)) ∧
     (s.args.flag = false → s.route.isSome = true →
       (∀ n, k.body = .ack n → Gives .packetReceive s fun t => { t with sent := s.sent } = s ∧
         ∀ p, p ∈ t.sent ↔ p ∈ s.sent ∧ ¬(p.device = k.device ∧ p.seq = n)) ∧
       (¬isAck → ¬fresh → Gives .packetReceive s fun t => { t with fabric := s.fabric, outbox := s.outbox } = s ∧
         t.outbox = s.outbox ++ [⟨k.device, 0, .ack k.seq⟩]) ∧
       (¬isAck → fresh → s.packetWaits k = true → Gives .packetReceive s (· = s)) ∧
       (¬isAck → fresh → s.packetWaits k = false → HomesFree s → (∀ x ∈ s.parties, x.acqs = []) →
         let n := lookupD k.device 0 s.nextSeqs
         let answers (t : State) (b : PacketBody) : Prop := ⟨k.device, n, b, s.clk, s.clk⟩ ∈ t.sent ∧ (k.device, k.seq) ∈ t.acceptedSeqs ∧
           k.device ∉ t.deadDevices ∧ ⟨k.device, 0, .ack k.seq⟩ ∈ t.outbox
         (∀ a m sh, k.body = .load a m sh → s.servable k.device a m .read = true → Gives .packetReceive s fun t =>
           answers t (.data k.seq (readBytes s.mem a m)) ∧ t.mem = s.mem ∧ t.parties = s.parties ∧
           (sh = true → s.marked (a / 128) = false → (a / 128, k.device) ∈ t.sharers)) ∧
         (∀ a bs, k.body = .store a bs → s.servable k.device a bs.length .write = true → Gives .packetReceive s fun t =>
           answers t (.done k.seq) ∧
           ∀ o, cellGet t.mem o = if a ≤ o ∧ o < a + bs.length then bs.getD (o - a) 0 else cellGet s.mem o) ∧
         (∀ a op x c, k.body = .atomic a op x c →
           let w := atomSize (wideCode op)
           let fn := laneAtomFn op
           s.servable k.device a w .write = true → a % w = 0 → Gives .packetReceive s fun t =>
             answers t (.data k.seq (readBytes s.mem a w)) ∧
             readBytes t.mem a w = toLe w (atomNew fn (8 * w) (le (readBytes s.mem a w)) (atomArg fn (8 * w) x.toNat) (c.toNat % 2 ^ (8 * w))) ∧
             ∀ o, o < a ∨ a + w ≤ o → cellGet t.mem o = cellGet s.mem o) ∧
         (∀ a bs, k.body = .store a bs → s.servable k.device a bs.length .write = false → Gives .packetReceive s fun t =>
           answers t (.refusal k.seq) ∧ t.mem = s.mem) ∧
         (∀ d line, k.body = .invalidate d line → Gives .packetReceive s fun t => answers t (.done k.seq) ∧ t.mem = s.mem ∧
           ∀ y ∈ t.remoteCopies, ¬(y.device = k.device ∧ y.line = line))))))

/-! ## Lane instructions (04_ref_compute.md, 07_ref_memory.md) -/

namespace Sys2Proof.Machine

/-- The acting group executes run `r`, at an instruction that is issued for the first time. -/
structure Running (s : State) (r : Run) : Prop where
  here : (s.party? s.actor).isSome = true
  run : s.me.run = some r
  first : r.replay = none

/-- Thread `k` is active for an instruction (00_scope.md). -/
def Acts (s : State) (r : Run) (w : LaneWord) (k : Nat) : Prop :=
  k < s.me.gw ∧ (s.me.activeMask r w.mask).getLsbD k = true

/-- The checks at issue of a lane computation pass: registers declared and aligned (R23, R51, R85), no overlap in part (R49),
no tag (R20), no short gap (R17), no error in a source that counts (R89). -/
structure LanePasses (s : State) (r : Run) (w : LaneWord) (u : LaneUse) (deps : Nat → List (Nat × List Block)) : Prop where
  regs : u.regsOk s.me.vcount = true
  overlap : u.overlaps = false
  tags : u.tagged s.me.tags = false
  gap : u.gapShort r (decide (s.me.gw = 16)) (decide (w.u = 1)) = false
  sound : s.badThreads s.me u deps (if w.u = 1 then [0] else threadsOf s.me.gw (s.me.activeMask r w.mask)) = 0

/-- FRAME. The run has gone on past an instruction that produces `new`, or has ended after its last; nothing of the machine
but lane registers `vregs` and mask registers `kregs` of the group, and the errors of words written, has changed. -/
structure LaneStepped (s t : State) (r : Run) (w : LaneWord) (new : List Producer) : Prop where
  run : t.me.run = if r.left ≤ 1 then none else some
    { r with
      pc := (r.pc + if w.bsel = 3 then 16 else 12) % 2 ^ 64
      left := r.left - 1
      producers := (if w.u = 0 then r.producers.map fun p => { p with gap := p.gap + 1 } else r.producers) ++ new
      replay := none }
  passed : t.me.checkpoint = if r.left ≤ 1 ∧ r.checkpoint ≠ none then r.checkpoint else s.me.checkpoint
  mine :
    { t.me with
      vregs := s.me.vregs
      kregs := s.me.kregs
      run := s.me.run
      checkpoint := s.me.checkpoint
      lastRunEnd := s.me.lastRunEnd
      readySince := s.me.readySince } = s.me
  others : ∀ p, p ≠ s.actor → t.party p = s.party p
  bytes : ∀ a, cellGet t.mem a = cellGet s.mem a
  rest : { t with parties := s.parties, errors := s.errors } = s

/-- Registers and masks used by a per-thread instruction of one type, on operands a, b and c as it reads them. -/
def unitUse (w : LaneWord) (ty : LTy) (x : Reads) (kind : ProducerKind) : LaneUse :=
  ⟨operandBlocks w ty x.a x.b x.c, [], [⟨w.vd.toNat, (w.cnt.toNat + 1) * ty.regs, ty.regs⟩], maskReads w, none, kind⟩

/-- The thread whose operands decide the result of thread `k`: its own, or thread 0's in the U form (R15). -/
def source (w : LaneWord) (k : Nat) : Nat := if w.u = 1 then 0 else k

/-- In every pass `i` each active thread `k` has the unit `val i k` in its destination, of type `dst`; every other register
stays (R87). -/
structure UnitsAre (s t : State) (r : Run) (w : LaneWord) (dst : LTy) (val : Nat → Nat → Nat) : Prop where
  units : ∀ i k, i ≤ w.cnt.toNat → Acts s r w k → k < 32 →
    t.me.regUnit dst.wide (w.vd.toNat + i * dst.regs) k = val i k % 2 ^ (32 * dst.regs)
  others : ∀ n k, k < 32 → (¬Acts s r w k ∨ n < w.vd.toNat ∨ w.vd.toNat + (w.cnt.toNat + 1) * dst.regs ≤ n) →
    t.me.vreg n k = s.me.vreg n k
  masks : t.me.kregs = s.me.kregs

/-- The same, element by element: `g` gives each element from those of operands a, b and c. -/
def ElementsAre (s t : State) (r : Run) (w : LaneWord) (ty : LTy) (g : Nat → Nat → Nat → Nat) : Prop :=
  ∃ val, UnitsAre s t r w ty val ∧ ∀ i k e, i ≤ w.cnt.toNat → Acts s r w k → e < ty.count →
    ty.elem (val i k) e = g (ty.elem (s.me.regUnit ty.wide (w.va.toNat + i * ty.regs) (source w k)) e)
      (ty.elem (s.me.operandB r w ty i (source w k)) e)
      (ty.elem (s.me.regUnit ty.wide (w.vc.toNat + i * ty.regs) (source w k)) e)

/-- Registers `first` to `first + count` − 1 of the active threads may have changed; every other register of every thread, and
every mask, stays (R87). -/
structure OnlyUnits (s t : State) (r : Run) (w : LaneWord) (first count : Nat) : Prop where
  others : ∀ n k, k < 32 → (¬Acts s r w k ∨ n < first ∨ first + count ≤ n) → t.me.vreg n k = s.me.vreg n k
  masks : t.me.kregs = s.me.kregs

/-- A lane computation of one type with its operands, where its type is legal and its checks pass: it answers a next state
in which the run has gone on and `P` holds. -/
def LaneGives (i : Instr) (s : State) (r : Run) (w : LaneWord) (u : LaneUse) (deps : Nat → List (Nat × List Block)) (P : State → Prop) : Prop :=
  LanePasses s r w u deps → Gives i s fun t => LaneStepped s t r w (u.produces (decide (w.u = 1))) ∧ P t

end Sys2Proof.Machine

/-- R95 to R98, R15, R85, R87. The integer lane instructions: each element of each active thread's destination, in every
pass, and that nothing else changes. Numbers are those of the type's width `W`, signed where the type is. -/
def Obligations.LaneIntegers : Prop :=
  ∀ (s : State) (r : Run) (w : LaneWord) (ty : LTy), Running s r → laneType w s.me.fmt = some ty →
    let W := ty.width
    let n (a : Nat) : BitVec W := BitVec.ofNat W a
    let int (a : Nat) : Int := if ty.signed then (n a).toInt else (n a).toNat
    let two (i : Instr) (g : Nat → Nat → Nat) : Prop := LaneGives i s r w (unitUse w ty ⟨true, true, false⟩ .alu) (fun _ => [])
      fun t => ElementsAre s t r w ty fun a b _ => g a b
    let three (i : Instr) (g : Nat → Nat → Nat → Nat) : Prop :=
      LaneGives i s r w (unitUse w ty ⟨true, true, true⟩ .alu) (fun _ => []) fun t => ElementsAre s t r w ty g
    let one (i : Instr) (g : Nat → Nat) : Prop := LaneGives i s r w (unitUse w ty ⟨true, false, false⟩ .alu) (fun _ => [])
      fun t => ElementsAre s t r w ty fun a _ _ => g a
    (ty.setA = true →
      two (.iadd w) (fun a b => (n a + n b).toNat) ∧ two (.isub w) (fun a b => (n a - n b).toNat) ∧
      two (.imul w) (fun a b => (n a * n b).toNat) ∧ three (.imad w) (fun a b c => (n a * n b + n c).toNat) ∧
      two (.iand w) (fun a b => (n a &&& n b).toNat) ∧ two (.ior w) (fun a b => (n a ||| n b).toNat) ∧
      two (.ixor w) (fun a b => (n a ^^^ n b).toNat) ∧ one (.inot w) (fun a => (~~~n a).toNat) ∧
      two (.ishl w) (fun a b => (n a <<< (b % W)).toNat) ∧ two (.ishr w) (fun a b => (n a >>> (b % W)).toNat) ∧
      two (.isar w) (fun a b => ((n a).sshiftRight (b % W)).toNat) ∧
      two (.imin w) (fun a b => if int b < int a then b else a) ∧ two (.imax w) (fun a b => if int a < int b then b else a) ∧
      (LaneGives (.imov w) s r w (unitUse w ty ⟨false, true, false⟩ .alu) (fun _ => []) fun t => ElementsAre s t r w ty fun _ b _ => b) ∧
      (let sel := w.imm32.toNat % 8
       let u := { unitUse w ty ⟨true, true, false⟩ .alu with masks := maskReads w ++ if sel = 0 then [] else [sel] }
       LaneGives (.isel w) s r w u (fun _ => []) fun t => UnitsAre s t r w ty fun i k =>
         if (s.me.kreg sel).getLsbD (source w k) then s.me.regUnit ty.wide (w.va.toNat + i * ty.regs) (source w k)
         else s.me.operandB r w ty i (source w k))) ∧
    (ty.setP = true →
      two (.imulhi w) (fun a b => (BitVec.ofInt W (int a * int b / 2 ^ W)).toNat) ∧
      one (.ipopc w) (fun a => (List.range W).countP fun i => (n a).getLsbD i) ∧
      (LaneGives (.iclz w) s r w (unitUse w ty ⟨true, false, false⟩ .alu) (fun _ => []) fun t => ∃ z : Nat → Nat,
        ElementsAre s t r w ty (fun a _ _ => z a) ∧ ∀ a, a < 2 ^ W → z a ≤ W ∧ a < 2 ^ (W - z a) ∧ (z a < W → 2 ^ (W - 1 - z a) ≤ a))) ∧
    (ty.setS = true → one (.iabs w) (fun a => (BitVec.ofInt W ((n a).toInt.natAbs : Int)).toNat)) ∧
    (ty.setW = true →
      let pos (b : Nat) : Nat := b % 32
      let len (b : Nat) : Nat := min (min (b / 256 % 64) 32) (32 - pos b)
      let field (a b : Nat) : Nat := a / 2 ^ pos b % 2 ^ len b
      two (.ibfe w) (fun a b => if ty = .s32 ∧ len b ≠ 0 then (BitVec.ofInt 32 (BitVec.ofNat (len b) (field a b)).toInt).toNat else field a b) ∧
      three (.ibfi w) (fun a b c => c % 2 ^ pos b + a % 2 ^ len b * 2 ^ pos b + c / 2 ^ (pos b + len b) * 2 ^ (pos b + len b)))

/-- R99 to R103, R116, R71, R72. The floating lane instructions: each element is the exact result of its operands, flushed
where FMT says so, rounded once by the instruction's mode; the special functions round theirs. CVT converts the elements that
its position selects and keeps the rest of its destination. -/
def Obligations.LaneFloats : Prop :=
  ∀ (s : State) (r : Run) (w : LaneWord) (ty : LTy), Running s r → laneType w s.me.fmt = some ty →
    (∀ ft, ty.setF = true → ty.float? = some ft →
      let flush (x : Nat) : Nat := if ft = .f32 then flushF32 (s.me.fmt.getLsbD 9) x else x
      let v (x : Nat) : FVal := ft.decode (flush x)
      let rnd := laneRnd w s.me.fmt
      let out (y : FVal) : Nat := flush (ft.encode rnd false y) % 2 ^ ty.width
      let op (x : Reads) (kind : ProducerKind) (i : Instr) (g : FVal → FVal → FVal → FVal) : Prop :=
        LaneGives i s r w (unitUse w ty x kind) (fun _ => []) fun t => ElementsAre s t r w ty fun a b c => out (g (v a) (v b) (v c))
      let two := op ⟨true, true, false⟩ .alu
      let one := op ⟨true, false, false⟩ .alu
      let special := op ⟨true, false, false⟩ .special
      two (.fadd w) (fun a b _ => a.add rnd b) ∧ two (.fsub w) (fun a b _ => a.add rnd b.neg) ∧ two (.fmul w) (fun a b _ => a.mul b) ∧
      op ⟨true, true, true⟩ .alu (.ffma w) (fun a b c => (a.mul b).add rnd c) ∧ two (.fmin w) (fun a b _ => a.min b) ∧
      two (.fmax w) (fun a b _ => a.max b) ∧ one (.fabs w) (fun a _ _ => a.abs) ∧ one (.fneg w) (fun a _ _ => a.neg) ∧
      one (.frint w) (fun a _ _ => a.rint rnd) ∧
      (ty = .f32 → special (.rcp w) (fun a _ _ => a.rcp) ∧ special (.rsqrt w) (fun a _ _ => a.rsqrt) ∧
        special (.sqrt w) (fun a _ _ => a.sqrt) ∧ op ⟨true, true, false⟩ .special (.laneDiv w) (fun a b _ => a.div b) ∧
        special (.exp2 w) (fun a _ _ => a.exp2) ∧ special (.log2 w) (fun a _ _ => a.log2) ∧ special (.sin w) (fun a _ _ => a.sin) ∧
        special (.cos w) (fun a _ _ => a.cos) ∧ special (.tanh w) (fun a _ _ => a.tanh))) ∧
    (∀ dst, LTy.ofCode (w.imm32.toNat % 16) = some dst →
      let pos := w.imm32.toNat / 32 % 4
      let narrows := ty.count < dst.count
      let cx := s.me.laneCtx w ty
      let sat := w.imm32.getLsbD 4 || cx.sat
      let into : Block := ⟨w.vd.toNat, (w.cnt.toNat + 1) * dst.regs, dst.regs⟩
      let u : LaneUse := ⟨⟨w.va.toNat, (w.cnt.toNat + 1) * ty.regs, ty.regs⟩ :: if narrows then [into] else [], [], [into], maskReads w, none, .alu⟩
      pos < (if narrows then dst.count / ty.count else ty.count / dst.count) →
      LaneGives (.cvt w) s r w u (fun _ => []) fun t => ∃ val, UnitsAre s t r w dst val ∧
        ∀ i k e, i ≤ w.cnt.toNat → Acts s r w k → e < dst.count →
          let a := s.me.regUnit ty.wide (w.va.toNat + i * ty.regs) (source w k)
          let old := s.me.regUnit dst.wide (w.vd.toNat + i * dst.regs) (source w k)
          (¬narrows → dst.elem (val i k) e = cx.convert dst sat (ty.elem a (pos * dst.count + e)) % 2 ^ dst.width) ∧
          (narrows → pos * ty.count ≤ e → e < pos * ty.count + ty.count →
            dst.elem (val i k) e = cx.convert dst sat (ty.elem a (e - pos * ty.count)) % 2 ^ dst.width) ∧
          (narrows → (e < pos * ty.count ∨ pos * ty.count + ty.count ≤ e) → dst.elem (val i k) e = dst.elem old e))

/-- R104 to R115, R117, R118. The lane instructions across threads, the compares, LNOP and LID: sources are read before
any destination is written, inactive threads keep their registers. LID of `clk` moves time on to its last thread's issue (R30). -/
def Obligations.LaneCrossings : Prop :=
  (∀ (s : State) (r : Run) (w : LaneWord), Running s r →
    (LaneGives (.lnop w) s r w ⟨[], [], [], [], none, .alu⟩ (fun _ => []) fun t => t.me.vregs = s.me.vregs ∧ t.me.kregs = s.me.kregs) ∧
    (let u : LaneUse := ⟨[], [], [⟨w.vd.toNat, 1, 1⟩], maskReads w, none, .alu⟩
     let clocked := w.imm32.toNat % 16 = 6 ∧ w.u = 0
     let named (t : State) : Prop := (∀ k, Acts s r w k → k < 32 →
         (t.me.vreg w.vd.toNat k).toNat = s.identityValue s.me (w.imm32.toNat % 16) (source w k) % 2 ^ 32) ∧
       OnlyUnits s t r w w.vd.toNat 1
     (¬clocked → LaneGives (.lid w) s r w u (fun _ => []) named) ∧
     (clocked → LanePasses s r w u (fun _ => []) → Gives (.lid w) s fun t => t.clk = s.clk + (s.me.gw - 1) ∧
       LaneStepped s { t with clk := s.clk } r w (u.produces false) ∧ named t))) ∧
  ∀ (s : State) (r : Run) (w : LaneWord) (ty : LTy), Running s r → laneType w s.me.fmt = some ty →
    let q := s.me
    let act := q.activeMask r w.mask
    let ts := threadsOf q.gw act
    let cx := q.laneCtx w ty
    let code := w.imm32.toNat % 16
    let unit (k : Nat) : Nat := q.regUnit ty.wide w.va.toNat k
    let reading (n : Nat) : Nat → List (Nat × List Block) := fun _ => readAll [⟨w.va.toNat, n, n⟩] ts
    let moves (i : Instr) (src : Nat → Nat → Nat) : Prop :=
      LaneGives i s r w
        ⟨operandBlocks w ty false true false, operandBlocks w ty true false false,
          [⟨w.vd.toNat, (w.cnt.toNat + 1) * ty.regs, ty.regs⟩], maskReads w, none, .alu⟩
        (fun k => (List.range (w.cnt.toNat + 1)).map fun j =>
          (src k (q.operandB r w ty j k), [⟨w.va.toNat + j * ty.regs, ty.regs, ty.regs⟩]))
        fun t => UnitsAre s t r w ty fun j k =>
          q.regUnit ty.wide (w.va.toNat + j * ty.regs) (src (source w k) (q.operandB r w ty j (source w k)))
    let reduces (i : Instr) (keys : List Block) (deps : Nat → List (Nat × List Block)) (val : Nat → Nat) : Prop :=
      LaneGives i s r w (reduceUse w keys ty) deps fun t =>
        (∀ k, Acts s r w k → t.me.regUnit ty.wide w.vd.toNat k = val k % 2 ^ (32 * ty.regs)) ∧
        OnlyUnits s t r w w.vd.toNat ty.regs
    (ty.moves = true → moves (.shfl w) (fun _ b => b % q.gw) ∧ moves (.shflr w) (fun k b => (k + q.gw / 2 ^ (b % 8)) % q.gw) ∧
      moves (.shflx w) (fun k b => (k ^^^ (b % q.gw)) % q.gw) ∧ moves (.bcast w) (fun _ b => b % q.gw)) ∧
    (reduceLegal w ty = true →
      reduces (.lstep w) [] (reading ty.regs) (fun _ => (foldTree (cx.comb code) (ilog2 q.gw)
        ((List.range q.gw).map fun k => if act.getLsbD k then some (cx.input (unit k)) else none)).getD 0) ∧
      reduces (.scan w) [] (fun k => readAll [unitA w ty] (ts.filter fun j => decide (j ≤ k)))
        (fun k => ((foldScan (cx.comb code) none ((ts.filter fun j => decide (j ≤ k)).map fun j => cx.input (unit j))).getLast?).getD 0) ∧
      LaneGives (.segred w) s r w (reduceUse w [⟨w.vc.toNat, 1, 1⟩] ty)
        (segmentDeps w ty [] ((q.segmentsOf w act fun _ => 0).map fun g => g.map (·.2.1))) fun t =>
        (∀ g ∈ segments (ts.map fun k => ((q.vreg w.vc.toNat k).toNat, k, cx.input (unit k))), ∀ x ∈ g,
          t.me.regUnit ty.wide w.vd.toNat x.2.1 =
            ((foldScan (cx.comb code) none (g.map (·.2.2))).getLast?).getD 0 % 2 ^ (32 * ty.regs)) ∧
        OnlyUnits s t r w w.vd.toNat ty.regs) ∧
    (ty.setA = true →
      LaneGives (.matchLanes w) s r w ⟨[], [⟨w.va.toNat, ty.regs, ty.regs⟩], [⟨w.vd.toNat, 1, 1⟩], maskReads w, none, .alu⟩
        (reading ty.regs) fun t => (∀ k j, Acts s r w k → j < 32 → ((t.me.vreg w.vd.toNat k).getLsbD j = true ↔ Acts s r w j ∧ unit j = unit k)) ∧
          OnlyUnits s t r w w.vd.toNat 1) ∧
    (ty = .f32 → LaneGives (.amax w) s r w ⟨[], [⟨w.va.toNat, 1, 1⟩], [⟨w.vd.toNat, 1, 1⟩], maskReads w, none, .alu⟩ (reading 1)
      fun t => (∀ k, Acts s r w k → k < 32 → (t.me.vreg w.vd.toNat k).toNat = amaxFold (q.fmt.getLsbD 9) (ts.map unit) % 2 ^ 32) ∧
        OnlyUnits s t r w w.vd.toNat 1) ∧
    (ty = .e4m3x4 ∨ ty = .e5m2x4 ∨ ty = .p8x4 → q.gw = 32 →
      LaneGives (.qblk w) s r w ⟨[], [⟨w.va.toNat, 1, 1⟩], [⟨w.vd.toNat, 2, 1⟩], maskReads w, none, .alu⟩ (reading 1) fun t =>
        OnlyUnits s t r w w.vd.toNat 2 ∧ ∀ ft, ty.float? = some ft →
        let b := quantBlock ft ((List.range 32).map fun k =>
          if act.getLsbD k then FType.f32.decode (flushF32 (q.fmt.getLsbD 9) (q.vreg w.va.toNat k).toNat) else .num false 0 0)
        ∀ k, Acts s r w k → (t.me.vreg (w.vd.toNat + 1) k).toNat = b.1 % 2 ^ 32 ∧
          (t.me.vreg w.vd.toNat k).toNat = le (((b.2.drop (k / 4 * 4)).take 4).map fun c => BitVec.ofNat 8 c) % 2 ^ 32) ∧
    (let m := w.vd.toNat % 8
     let e := w.imm32.toNat / 16 % 4
     let u : LaneUse := ⟨operandBlocks w ty true true false, [], [], maskReads w, some m, .alu⟩
     let x (k : Nat) : Nat := ty.elem (q.regUnit ty.wide w.va.toNat k) e
     let y (k : Nat) : Nat := ty.elem (q.operandB r w ty 0 k) e
     let sets (i : Instr) (cond : Nat → Bool) : Prop := LaneGives i s r w u (fun _ => []) fun t =>
       (∀ j, t.me.kreg j = if j = m ∧ m ≠ 0 then maskOf q.gw (fun k => act.getLsbD k && cond k) &&& fullMask q.gw else q.kreg j) ∧
       t.me.vregs = q.vregs
     e < ty.count →
     (ty.setA = true → sets (.icmp w) fun k => intCond code (ty.int (x k)) (ty.int (y k))) ∧
     (∀ ft, ty.setF = true → ty.float? = some ft →
       sets (.fcmp w) fun k => fpCond code (cx.read ft (x k)) (cx.read ft (y k))))

/-- R21, R23, R49, R17, R20, R89. The faults of a lane computation, in their order: a type that the instruction does not
have or a register that is not declared, class 0x01; an overlap in part, 0x02; a tag or a short gap, 0x03; an error in a
source, 0x10. Each stops the run at the instruction, with no register written. -/
def Obligations.LaneFaults : Prop :=
  (∀ (s : State) (r : Run) (w : LaneWord), Running s r → laneType w s.me.fmt = none →
    ∀ i ∈ [Instr.iadd w, .imad w, .isel w, .imov w, .icmp w, .fadd w, .ffma w, .fcmp w, .cvt w, .sqrt w, .laneDiv w, .shfl w, .bcast w,
      .lstep w, .scan w, .segred w, .matchLanes w, .amax w, .qblk w], Gives i s (Trapped s · .illegal)) ∧
  ∀ (s : State) (r : Run) (w : LaneWord) (ty : LTy), Running s r → laneType w s.me.fmt = some ty →
    let ab := unitUse w ty ⟨true, true, false⟩
    let abc := unitUse w ty ⟨true, true, true⟩
    let a := unitUse w ty ⟨true, false, false⟩
    let f := decide (ty = .f32)
    ∀ p ∈ ([(.iadd w, ty.setA, ab .alu), (.isub w, ty.setA, ab .alu), (.imul w, ty.setA, ab .alu), (.imulhi w, ty.setP, ab .alu),
        (.imad w, ty.setA, abc .alu), (.iand w, ty.setA, ab .alu), (.ior w, ty.setA, ab .alu), (.ixor w, ty.setA, ab .alu),
        (.inot w, ty.setA, a .alu), (.ishl w, ty.setA, ab .alu), (.ishr w, ty.setA, ab .alu), (.isar w, ty.setA, ab .alu)] ++
      [(.imin w, ty.setA, ab .alu), (.imax w, ty.setA, ab .alu), (.iabs w, ty.setS, a .alu), (.ipopc w, ty.setP, a .alu),
        (.iclz w, ty.setP, a .alu), (.ibfe w, ty.setW, ab .alu), (.ibfi w, ty.setW, abc .alu)] ++
      [(.fadd w, ty.setF, ab .alu), (.fsub w, ty.setF, ab .alu), (.fmul w, ty.setF, ab .alu), (.ffma w, ty.setF, abc .alu),
        (.fmin w, ty.setF, ab .alu), (.fmax w, ty.setF, ab .alu), (.fabs w, ty.setF, a .alu), (.fneg w, ty.setF, a .alu)] ++
      [(.rcp w, f, a .special), (.rsqrt w, f, a .special), (.sqrt w, f, a .special), (.laneDiv w, f, ab .special),
        (.exp2 w, f, a .special), (.log2 w, f, a .special), (.sin w, f, a .special)] : List (Instr × Bool × LaneUse)),
      let u := p.2.2
      let ok := p.2.1 = true ∧ u.regsOk s.me.vcount = true
      let early := u.tagged s.me.tags = true ∨ u.gapShort r (decide (s.me.gw = 16)) (decide (w.u = 1)) = true
      let bad := s.badThreads s.me u (fun _ => []) (if w.u = 1 then [0] else threadsOf s.me.gw (s.me.activeMask r w.mask))
      (¬ok → Gives p.1 s (Trapped s · .illegal)) ∧
      (ok → u.overlaps = true → Gives p.1 s (Trapped s · .overlap)) ∧
      (ok → u.overlaps = false → early → Gives p.1 s (Trapped s · .schedule)) ∧
      (ok → u.overlaps = false → ¬early → bad ≠ 0 → Gives p.1 s fun t => Trapped s t .storeError ∧
        (t.records.getLast?.map fun x => (x.body.unfinished, x.body.laneAddr)) = some (bad, BitVec.ofNat 64 r.pc))

/-! ## Lane memory (07_ref_memory.md) -/

namespace Sys2Proof.Machine

/-- The checks at issue of a lane memory instruction pass, and it need not wait (R17 to R20, R23, R53, R89, R148, R152). -/
structure LaneMemPasses (s : State) (r : Run) (w : LaneWord) (u : LaneUse) (long : Bool) (waits : State → Party → Option State) : Prop where
  regs : u.regsOk s.me.vcount = true
  overlap : u.overlaps = false
  flag : s.me.flagBad r w long = false
  tags : u.tagged s.me.tags = false
  gap : u.gapShort r (decide (s.me.gw = 16)) false = false
  sound : s.badThreads s.me u (fun _ => []) (threadsOf s.me.gw (s.me.activeMask r w.mask)) = 0
  free : (s.me.ops.any fun o => o.acquire) = false ∧ waits s s.me = none

/-- The active threads, in ascending order. -/
def activeThreads (s : State) (r : Run) (w : LaneWord) : List Nat := threadsOf s.me.gw (s.me.activeMask r w.mask)

/-- The operation has been entered: it is counted by its flag, and what it will load is tagged (R18 to R20). -/
def opened (s : State) (i : Instr) (r : Run) (w : LaneWord) (u : LaneUse) (long acq : Bool) : State :=
  ({ s with fresh := s.fresh + 1 } : State).upd fun q =>
    { q with
      ops := q.ops ++ [⟨s.fresh, i, r.pc, r.flagOf w, 0, acq && !(activeThreads s r w).isEmpty, false, r.queuedAt, none⟩]
      tags := if long then q.tags ++ (u.writes.flatMap fun b =>
                (List.range b.count).map fun i => (b.first + i, (r.flagOf w).getD 0)) else q.tags }

/-- The accesses of every thread have been made in `s2`; the run has gone on in `t`, and memory is as `s2` has it. -/
def LaneEnds (s s2 t : State) (r : Run) (w : LaneWord) (new : List Producer) : Prop :=
  t = (s2.upd fun q => q.finishOp s.fresh).laneDone w new ∧ t.mem = s2.mem ∧ (∀ p, p ≠ s2.actor → t.party p = s2.party p) ∧
    (s2.me.run = some r → (s2.party? s2.actor).isSome = true → t.me.run = if r.left ≤ 1 then none else some
      { r with
        pc := (r.pc + if w.bsel = 3 then 16 else 12) % 2 ^ 64
        left := r.left - 1
        producers := (if w.u = 0 then r.producers.map fun p => { p with gap := p.gap + 1 } else r.producers) ++ new
        replay := none })

/-- Some threads' accesses have failed their checks: the group parks on the first one's class, the record names them all, and
the run waits at the instruction with them to be done again (R199). -/
def LaneParks (s2 t : State) (f : ThreadFault) (fs : List ThreadFault) : Prop :=
  let mask := faultMask (f :: fs)
  (s2.party? s2.actor).isSome = true → t.me.status = .parked ∧ (t.me.park.map (·.cls)) = some f.cls ∧
    t.me.run = s2.me.run.map (fun r => { r with replay := some mask }) ∧ t.mem = s2.mem ∧
    (t.records.getLast?.map fun x => (x.body.cls, x.body.unfinished, x.body.addr)) = some (f.cls, mask, BitVec.ofNat 64 f.addr)

/-- An uncorrected error in core store fails the instruction as a whole: the group parks on the first thread's class, the record
names the threads whose bytes are bad, no thread's access is made, and the run waits to issue all of it again (R89). -/
def LaneFails (s t : State) (f : ThreadFault) (fs : List ThreadFault) : Prop :=
  t.me.status = .parked ∧ (t.me.park.map (·.cls)) = some f.cls ∧ t.me.run = s.me.run ∧ t.me.vregs = s.me.vregs ∧
    t.me.ops = s.me.ops ∧ t.mem = s.mem ∧ t.cores = s.cores ∧
    (t.records.getLast?.map fun x => (x.body.cls, x.body.unfinished, x.body.addr)) =
      some (f.cls, faultMask (f :: fs), BitVec.ofNat 64 f.addr)

end Sys2Proof.Machine

/-- R198 to R202, R204, R205, R206. Lane loads, stores and atomics on global memory: every thread's access is checked, in
ascending order. A load of each thread waits for its value under the instruction's flag; a store enters the queue, one entry
for each line that it meets; an atomic enters it with its operation. Threads that fail park the group and keep the rest. -/
def Obligations.LaneGlobal : Prop :=
  ∀ (s : State) (r : Run) (w : LaneWord), Running s r →
    let ts := activeThreads s r w
    let n := laneBytes w
    let one (t : Nat) : Word := maskOf 32 fun k => decide (k = t)
    (let u := loadUse w .alu
     let acq := decide (w.order = 1)
     let o := opened s (.laneLd w) r w u true acq
     let check := o.checkGlobal o.me n .read acq false (laneAddr o.me r w (laneScale w)) ts
     let s2 := check.1.addLoads (check.2.1.map fun x => ⟨s.fresh, x.thread, 0, x.addr, x.pieces, [], none, []⟩)
     LaneMemPasses s r w u true waitsForNothing → (∀ x ∈ check.2.1, o.me.atomicPending x.pieces = false) →
       (check.2.2 = [] → Gives (.laneLd w) s fun t => LaneEnds s s2 t r w []) ∧
       (∀ f fs, check.2.2 = f :: fs → Gives (.laneLd w) s fun t => LaneParks s2 t f fs)) ∧
    (let u : LaneUse := ⟨[⟨w.va.toNat, 2, 2⟩], [], [⟨w.vd.toNat, w.cnt.toNat + 1, 1⟩], maskReads w, none, .alu⟩
     let o := opened s (.ragld w) r w u true false
     let check := o.checkRows o.me w (laneAddr o.me r w (laneScale w)) ts
     LaneMemPasses s r w u true waitsForNothing → (∀ x ∈ check.2.1, o.me.atomicPending x.2.pieces = false) → check.2.2 = [] →
       (check.1.party? check.1.actor).isSome = true →
       Gives (.ragld w) s fun t => ∃ s2, LaneEnds s s2 t r w [] ∧ s2.mem = check.1.mem ∧
         s2.me.loads = check.1.me.loads ++ check.2.1.map (fun x => ⟨s.fresh, x.2.thread, x.1, x.2.addr, x.2.pieces, [], none, []⟩) ∧
         (∀ k ∈ ts, ∀ e, e ≤ w.cnt.toNat → raggedLength o.me w k ≤ e → s2.me.vreg (w.vd.toNat + e) k = 0)) ∧
    (let u := storeUse w
     let rel := decide (w.order = 2)
     let o := opened s (.laneSt w) r w u false false
     let check := o.checkGlobal o.me n .write rel true (laneAddr o.me r w (laneScale w)) ts
     let s2 := check.2.1.foldl (fun u x => u.enqueueStore u.actor x.addr (scopeOf w.scope.toNat) rel (some s.fresh) (one x.thread)
       (cutBytes x.pieces (laneData o.me w.vc.toNat x.thread n))) check.1
     LaneMemPasses s r w u false waitsForLoads →
       (check.2.2 = [] → Gives (.laneSt w) s fun t => LaneEnds s s2 t r w (u.produces false)) ∧
       (∀ f fs, check.2.2 = f :: fs → Gives (.laneSt w) s fun t => LaneParks s2 t f fs)) ∧
    (let u := atomUse w .alu
     let o := opened s (.atom w) r w u true false
     let check := o.checkGlobal o.me (atomBytes w) .write true true (laneAddr o.me r w (atomBytes w)) ts
     let s2 := check.2.1.foldl (fun u x =>
       match x.pieces with
       | [p] => u.enqueue u.actor ⟨0, x.addr, scopeOf w.scope.toNat, false, false,
           .atomic p (laneAtomFn w.atomOp.toNat) (dw (atomOperand o.me w x.thread)) (dw (atomCompare o.me w x.thread))
             (.vreg x.thread w.vd.toNat w.atom64), some s.fresh, one x.thread, none, false, false, 0, false⟩
       | _ => u) check.1
     LaneMemPasses s r w u true waitsForLoads →
       (check.2.2 = [] → Gives (.atom w) s fun t => LaneEnds s s2 t r w []) ∧
       (∀ f fs, check.2.2 = f :: fs → Gives (.atom w) s fun t => LaneParks s2 t f fs)) ∧
    (let u := atomUse w .alu
     let code := w.atomOp.toNat
     let o := opened s (.atomr w) r w u false false
     let check := o.checkGlobal o.me (atomBytes w) .write true true (laneAddr o.me r w (atomBytes w)) ts
     let put (u : State) (x : LaneTarget) (fn : AtomFn) (v c : Nat) (who : List Nat) : State :=
       match x.pieces with
       | [p] => u.enqueue u.actor ⟨0, x.addr, scopeOf w.scope.toNat, false, false, .atomic p fn (dw v) (dw c) .none, some s.fresh,
           maskOf 32 fun t => decide (t ∈ who), none, false, false, 0, false⟩
       | _ => u
     LaneMemPasses s r w u false waitsForLoads → check.2.2 = [] →
       (code ≤ 4 → Gives (.atomr w) s fun t => LaneEnds s ((byWord check.2.1).foldl (fun v g =>
         put v g.1 (mergeOperands code (g.2.map fun k => atomOperand o.me w k)).1
           (mergeOperands code (g.2.map fun k => atomOperand o.me w k)).2 0 g.2) check.1) t r w (u.produces false)) ∧
       (5 ≤ code → Gives (.atomr w) s fun t => LaneEnds s (check.2.1.foldl (fun v x =>
         put v x (laneAtomFn code) (atomOperand o.me w x.thread) (atomCompare o.me w x.thread) [x.thread]) check.1) t r w (u.produces false)))

/-- R199, R201 to R203, R205, R31, R32. Lane accesses to core store, the cluster window and FIFO banks: performed as they
issue, thread by thread; a thread that fails a check parks the group, and an uncorrected error in core store fails the
instruction before any thread's access is made (R89). LDS writes what the store holds, STS and ATOMS change
only the bytes that their threads name. -/
def Obligations.LaneStorage : Prop :=
  ∀ (s : State) (r : Run) (w : LaneWord), Running s r →
    let ts := activeThreads s r w
    let n := laneBytes w
    (let u := loadUse w .load
     let o := opened s (.lds w) r w u false false
     let check := checkPlaces (fun a => o.checkStore o.me n a false) (laneAddr o.me r w (laneScale w)) ts
     LaneMemPasses s r w u false waitsForNothing →
       (∀ f fs, o.storeErrors n check.1 = f :: fs → Gives (.lds w) s fun t => LaneFails s t f fs) ∧
       (o.storeErrors n check.1 = [] → check.2 = [] → Gives (.lds w) s fun t =>
         LaneEnds s (check.1.foldl (fun v x => v.takeLoad v.actor (.lds w) x.thread 0 (v.readPlace n x.place)) o) t r w (u.produces false) ∧
         ∀ x ∈ check.1, ∀ (j : Nat) v, (laneValues w.sext (o.readPlace n x.place))[j]? = some v →
           t.me.vreg (w.vd.toNat + j) x.thread = v)) ∧
    (let u := storeUse w
     let o := opened s (.sts w) r w u false false
     let check := checkPlaces (fun a => o.checkStore o.me n a true) (laneAddr o.me r w (laneScale w)) ts
     LaneMemPasses s r w u false (if w.order = 2 then waitsForAll else waitsForLoads) →
       (check.2 = [] → Gives (.sts w) s fun t =>
         LaneEnds s (check.1.foldl (fun v x => v.writePlace (laneData o.me w.vc.toNat x.thread n) x.place) o) t r w (u.produces false) ∧
         ∀ a, (∀ x ∈ check.1, a < x.addr ∨ x.addr + n ≤ a) →
           cellGet (t.core s.me.core).store a = cellGet (s.core s.me.core).store a) ∧
       (∀ f fs, check.2 = f :: fs → Gives (.sts w) s fun t => LaneParks
         (check.1.foldl (fun v x => v.writePlace (laneData o.me w.vc.toNat x.thread n) x.place) o) t f fs)) ∧
    (let u := loadUse w .alu
     let o := opened s (.ldcl w) r w u true (decide (w.order = 1))
     let check := checkPlaces (fun a => o.checkWindow o.me n a false) (laneAddr o.me r w (laneScale w)) ts
     let own := (o.storeErrors n check.1).filter fun f => check.1.any fun x => decide (x.thread = f.thread ∧ x.place.errClass = .storeError)
     LaneMemPasses s r w u true waitsForNothing →
       (∀ f fs, own = f :: fs → Gives (.ldcl w) s fun t => LaneFails s t f fs) ∧
       (own = [] → check.2 = [] → Gives (.ldcl w) s fun t => LaneEnds s (o.addLoads (check.1.map fun x =>
         ⟨s.fresh, x.thread, 0, x.addr, [], [], some (if o.storeBad n x.place then [] else o.readPlace n x.place), []⟩)) t r w [])) ∧
    (let u := storeUse w
     let rel := decide (w.order = 2)
     let scope := scopeOf w.scope.toNat
     let o := opened s (.stcl w) r w u false false
     let check := checkPlaces (fun a => o.checkWindow o.me n a true) (laneAddr o.me r w (laneScale w)) ts
     LaneMemPasses s r w u false (if rel then waitsForDrains scope else waitsForLoads) → check.2 = [] →
       Gives (.stcl w) s fun t => LaneEnds s (check.1.foldl (fun v x => v.writePlace (laneData o.me w.vc.toNat x.thread n) x.place)
         (if rel && !check.1.isEmpty then (o.releaseDrains o.me.core scope true).bumpFor o.me.core scope else o)) t r w
         (u.produces false)) ∧
    (let m := regsOf n
     let off := (r.snap.getD (w.vb.toNat % 16) 0).toNat
     let u : LaneUse := ⟨[], [], [⟨w.vd.toNat, m, m⟩, ⟨w.vc.toNat, 1, 1⟩], maskReads w, none, .alu⟩
     let o := opened s (.fifopop w) r w u true false
     LaneMemPasses s r w u true waitsForNothing →
       (∀ b, o.fifoBank o.me off n = .ok b → Gives (.fifopop w) s fun t =>
         LaneEnds s (o.popEach b.1 b.2 s.fresh off (w.imm32.getLsbD 12) ts) t r w []) ∧
       (∀ c k ks, o.fifoBank o.me off n = .error c → ts = k :: ks → Gives (.fifopop w) s fun t =>
         LaneParks o t ⟨k, c, off, 0, false⟩ (ks.map fun j => ⟨j, c, off, 0, false⟩))) ∧
    (let m := regsOf n
     let off := (r.snap.getD (w.vb.toNat % 16) 0).toNat
     let u : LaneUse := ⟨[⟨w.vc.toNat, m, m⟩], [], [], maskReads w, none, .alu⟩
     let o := opened s (.fifopush w) r w u false false
     LaneMemPasses s r w u false waitsForLoads → ∀ b, o.fifoBank o.me off n = .ok b → Gives (.fifopush w) s fun t =>
       LaneEnds s (ts.foldl (fun v k => v.enqueue v.actor ⟨0, off, .cluster, false, false,
         .fifoPush b.1 b.2 (laneData o.me w.vc.toNat k n), some s.fresh, maskOf 32 fun j => decide (j = k), none, false, false, 0, false⟩) o) t r w (u.produces false)) ∧
    (let u := atomUse w (if w.ret then .load else .alu)
     let k := atomBytes w
     let o := opened s (.atoms w) r w u false false
     let check := checkPlaces (fun a => o.checkStore o.me k a true) (laneAddr o.me r w k) ts
     LaneMemPasses s r w u false waitsForLoads →
      (∀ f fs, o.storeErrors k check.1 = f :: fs → Gives (.atoms w) s fun t => LaneFails s t f fs) ∧
      (o.storeErrors k check.1 = [] → check.2 = [] → Gives (.atoms w) s fun t =>
       LaneEnds s (check.1.foldl (fun v x =>
         let old := le (v.readPlace k x.place)
         let v1 := v.writePlace (toLe k (atomNew (laneAtomFn w.atomOp.toNat) (8 * k) old (atomOperand o.me w x.thread)
           (atomCompare o.me w x.thread))) x.place
         if w.ret then v1.writeUnits v1.actor w.atom64 w.vd.toNat [(x.thread, old)] else v1) o) t r w (u.produces false) ∧
       ∀ a, (∀ x ∈ check.1, a < x.addr ∨ x.addr + k ≤ a) → cellGet (t.core s.me.core).store a = cellGet (s.core s.me.core).store a))

/-- R158, R207 to R209. Remote lane accesses: each thread's access goes through the peer table to the device that its peer
names, in the order of their peers; a peer without a window, or one that cannot be reached, fails its thread with class 0x11. -/
def Obligations.LaneRemote : Prop :=
  ∀ (s : State) (r : Run) (w : LaneWord), Running s r →
    let ts := activeThreads s r w
    let n := laneBytes w
    let m := regsOf n
    let one (t : Nat) : Word := maskOf 32 fun k => decide (k = t)
    (let acq := decide (w.order = 1)
     let u : LaneUse := ⟨[indexBlock w, ⟨w.vc.toNat, 1, 1⟩], [], [⟨w.vd.toNat, m, m⟩], maskReads w, none, .alu⟩
     let o := opened s (.rld w) r w u true acq
     let peer := fun t => (o.me.vreg w.vc.toNat t).toNat
     let check := o.checkRemote o.me n acq (laneAddr o.me r w (laneScale w)) peer (byPeer peer ts)
     LaneMemPasses s r w u true waitsForNothing → (∀ x ∈ check.1, ∀ p ∈ x.pieces, o.me.remoteMeets true p = false) →
       (check.2 = [] → Gives (.rld w) s fun t => LaneEnds s (o.askAll o.me s.fresh (acq || decide (w.scope = 4)) check.1) t r w []) ∧
       (∀ f fs, byThread check.2 = f :: fs → Gives (.rld w) s fun t =>
         LaneParks (o.askAll o.me s.fresh (acq || decide (w.scope = 4)) check.1) t f fs)) ∧
    (let rel := decide (w.order = 2)
     let u : LaneUse := ⟨[⟨w.va.toNat, 2, 2⟩, ⟨w.vc.toNat, m, m⟩], [], [], maskReads w, none, .alu⟩
     let o := opened s (.rst w) r w u false false
     let peer := fun t => (o.me.vreg (w.va.toNat + 1) t).toNat
     let check := o.checkRemote o.me n rel (laneAddr o.me r w (laneScale w)) peer (byPeer peer ts)
     LaneMemPasses s r w u false waitsForLoads → check.2 = [] → Gives (.rst w) s fun t =>
       LaneEnds s (check.1.foldl (fun v x =>
         (cutRemote x.pieces (laneData o.me w.vc.toNat x.thread n)).foldl (fun v c =>
           v.enqueue v.actor ⟨0, x.off, scopeOf w.scope.toNat, rel, false, .remoteStore x.peer c.1.device c.1.addr c.2, some s.fresh,
             one x.thread, none, false, false, 0, false⟩) v) o) t r w (u.produces false)) ∧
    (let u := { atomUse w .alu with
       own := if w.atomCas then ⟨w.va.toNat, 2, 2⟩ :: (atomUse w .alu).own.drop 1 else ⟨w.vc.toNat, 1, 1⟩ :: (atomUse w .alu).own }
     let o := opened s (.ratom w) r w u w.ret false
     let peer := fun t => (o.me.vreg (if w.atomCas then w.va.toNat + 1 else w.vc.toNat) t).toNat
     let check := o.checkRemote o.me (atomBytes w) true (laneAddr o.me r w (atomBytes w)) peer (byPeer peer ts)
     LaneMemPasses s r w u w.ret waitsForLoads → check.2 = [] → Gives (.ratom w) s fun t =>
       LaneEnds s (check.1.foldl (fun v x =>
         match x.pieces with
         | [] => v
         | p :: _ => v.enqueue v.actor ⟨0, x.off, scopeOf w.scope.toNat, false, false,
             .remoteAtomic x.peer p.device p.addr w.atomOp.toNat (dw (atomOperand o.me w x.thread)) (dw (atomCompare o.me w x.thread))
               (if w.ret then .vreg x.thread w.vd.toNat w.atom64 else .none), some s.fresh, one x.thread, none, false, false, 0, false⟩) o) t r w
         (if w.ret then [] else u.produces false))

/-! ## Steps of runs, caches, records and power -/

/-- R12, R13, R20, R47, R53. The head run of a group that may start, on a free lane, starts with what its header says; a
header that is none raises class 0x01, once the scalar stream is in no ladder instruction (R240). Nothing starts before. -/
def Obligations.RunStarts : Prop :=
  ∀ (s : State) (q : Party) (e : QEntry) (rest : List QEntry), s.party? s.args.p = some q → q.queue = e :: rest →
    (s.runReady q = false ∨ s.holds .lanes q.core = true → Gives .runStart s (· = s)) ∧
    (s.runReady q = true → s.holds .lanes q.core = false → ∀ (s1 : State) ws, s.laneWords q e.addr 3 = (s1, .ok ws) →
      (∀ x, decodeHeader (join96 ws) = .error x → s.laneFree q = false ∨ q.midway = true → Gives .runStart s (· = s)) ∧
      (∀ x, decodeHeader (join96 ws) = .error x → s.laneFree q = true → q.midway = false → s1.party? s.args.p = some q → Gives .runStart s fun t =>
        (t.party s.args.p).status = .parked ∧ ((t.party s.args.p).park.map (·.cls)) = some .illegal ∧
        (t.records.getLast?.map fun x => x.body.laneAddr) = some (BitVec.ofNat 64 e.addr) ∧ t.mem = s1.mem) ∧
      (∀ h, decodeHeader (join96 ws) = .ok h →
        (q.flagsClear h.wait.toNat = false ∨ s.laneFree q = false → Gives .runStart s (· = s)) ∧
        (q.flagsClear h.wait.toNat = true → s.laneFree q = true → s1.party? s.args.p = some q → Gives .runStart s fun t =>
          t.party s.args.p =
            { q with
              queue := rest
              run := some ⟨e.addr, (e.addr + 12) % 2 ^ 64, h.length, e.snap, if h.flagA = 15 then none else some h.flagA.toNat,
                if h.flagB = 15 then none else some h.flagB.toNat, h.checkpoint, [], none, e.queuedAt⟩
              tags := q.tags.filter fun t => !h.wait.toNat.testBit t.2
              paused := false
              readySince := none
              aged := 0 } ∧
          (∀ p, p ≠ s.args.p → t.party p = s1.party p) ∧ t.mem = s1.mem)))

namespace Sys2Proof.Machine

/-- The value of an address among a core's own dirty bytes of its L1. -/
def dirtyAt (c : Core) (a : Nat) : Option Byte := (c.dirty.find? fun d => decide (d.pa = a)).map (·.val)

/-- Entry `e` of party `q` may be performed now, and has not failed; it neither releases nor acquires, and nobody waits on an acquire
or to ask for a write. -/
structure Performs (s : State) (q : Party) (e : SqEntry) : Prop where
  entry : q.sq.find? (fun x => decide (x.id = s.args.x)) = some e
  turn : q.mayLeave e = true
  free : s.entryHolds q e = false ∧ s.maxBars q e = false
  sound : e.failed = false ∧ e.stale = false
  plain : e.release = false ∧ e.acquire = false
  quiet : s.asks = [] ∧ ∀ x ∈ s.parties, x.acqs = []

/-- An entry has been performed: it has left its queue; no other party has changed, but that a write wakes who halts on its line. -/
structure Performed (s t : State) (q : Party) (e : SqEntry) : Prop where
  left : (t.party q.id).sq = q.sq.filter fun x => decide (x.id ≠ e.id)
  others : ∀ p, p ≠ q.id → (∀ l n w, (s.party p).status ≠ .halted l n w) → t.party p = s.party p

/-- A store of `bs` at a piece is performed at its home: those bytes of memory change and no other, whatever dirty bytes of them
the core held, which have drained before it (R146). -/
def StoredAtHome (s t : State) (core : Nat) (p : Piece) (bs : List Byte) : Prop :=
  (∀ a, cellGet t.mem a = if p.pa ≤ a ∧ a < p.pa + bs.length then bs.getD (a - p.pa) 0 else cellGet s.mem a) ∧
    ∀ a, p.pa ≤ a → a < p.pa + bs.length → dirtyAt (t.core core) a = none ∧ t.cacheDirty core a = none

/-- A store of `bs` at a piece merges into the core's dirty bytes: those and no others; memory and the other cores stay (R147). -/
def MergedAtCore (s t : State) (core : Nat) (p : Piece) (bs : List Byte) : Prop :=
  t.mem = s.mem ∧ (∀ a, dirtyAt (t.core core) a = if p.pa ≤ a ∧ a < p.pa + bs.length then bs[a - p.pa]? else dirtyAt (s.core core) a) ∧
    (∀ c, c ≠ core → t.core c = s.core c) ∧ (p.pa / 128, core) ∈ t.dirtyHolders

/-- The old word of an atomic in its destination: a scalar register, a word of it sign-extended (R175), or one or two lane
registers of a thread (R205). -/
def OldIn (q : Party) (d : AtomDest) (wide : Bool) (old : Nat) : Prop :=
  match d with
  | .none => True
  | .sreg n w => n ≠ 0 → q.sreg n = if w then BitVec.ofNat 64 old else (BitVec.ofNat 32 old).signExtend 64
  | .vreg k n _ => q.vreg n k = BitVec.ofNat 32 old ∧ (wide = true → q.vreg (n + 1) k = BitVec.ofNat 32 (old / 2 ^ 32))

end Sys2Proof.Machine

/-- R19, R148 to R150, R172, R199, R200, R202, R203. A lane load is performed in its turn, piece by piece, and its value taken: its
registers, and its operation, whose flag count falls, when nothing else of it is left; one that acquires waits for the drains that
its lines command, and only for the threads whose loads have not failed. A load that has failed parks its group between runs. A pop
that waits takes the oldest entry of its bank, and fails where the bank is no longer one it may reach. -/
def Obligations.LongAccesses : Prop :=
  ∀ (s : State) (q : Party), s.party? s.args.p = some q →
    let mine := loadIs s.args.x s.args.y s.args.z
    (∀ o l, q.ops.find? (fun o => decide (o.id = s.args.x)) = some o → q.loads.find? mine = some l →
      (∀ (s1 : State) p b bad, l.got = none → l.stale = false → nextPiece l.pieces l.part.length = some p → q.loadTurn l = true →
        s.loadHolds q.core (s.partOf q) o.scope o.acquire p = false →
        s.loadPiece q (s.partOf q) o.scope o.acquire (some o.id) p = (s1, b, bad) → (s1.party? s.args.p).isSome = true →
        Gives .longLatencyCompletion s fun t => { t with parties := s1.parties } = s1 ∧ (∀ p, p ≠ s.args.p → t.party p = s1.party p) ∧
          let all := nextPiece l.pieces (l.part ++ b).length = none
          t.party s.args.p = { s1.party s.args.p with
            loads := (s1.party s.args.p).loads.map fun y =>
              if mine y then { y with part := l.part ++ b, got := if bad then some [] else if all then some (l.part ++ b) else none }
              else y }) ∧
      (∀ p, l.got = none → l.stale = false → nextPiece l.pieces l.part.length = some p →
        q.loadTurn l = false ∨ s.loadHolds q.core (s.partOf q) o.scope o.acquire p = true → Gives .longLatencyCompletion s (· = s)) ∧
      (l.got = none → l.stale = true → (q.waitingPop l = true ∨ q.mayPark = false ∨ s.onCore q = false →
          Gives .longLatencyCompletion s (· = s)) ∧
        (q.waitingPop l = false → q.mayPark = true → s.onCore q = true → Gives .longLatencyCompletion s (· = s.issueAgain q o l))) ∧
      (∀ b bs w, l.got = some (b :: bs) → o.acquire = false → o.word = some w → Gives .longLatencyCompletion s fun t =>
        t = s.takeOne q.id o l (b :: bs) ∧ (t.party q.id).loads = q.loads.filter (fun x => !mine x) ∧ t.mem = s.mem ∧
        (∀ p, p ≠ q.id → t.party p = s.party p) ∧
        ((∀ x ∈ q.loads, x.op = o.id → mine x = true) → (∀ e ∈ q.sq, e.op ≠ some o.id) → o.unfinished = 0 →
          o ∉ (t.party q.id).ops) ∧
        (o.instr ≠ .fifopop w → ∀ (j : Nat) v, (laneValues w.sext (b :: bs))[j]? = some v →
          (t.party q.id).vreg (w.vd.toNat + (if o.instr = .ragld w then l.elem else 0) + j) l.thread = v)) ∧
      (∀ b bs, l.got = some (b :: bs) → o.acquire = true →
        let ls := q.loads.filter fun l => decide (l.op = o.id ∧ l.got ≠ some [])
        let lines := ls.flatMap fun l => lineVas l.va l.pieces
        let ds := lines.flatMap fun l => s.drainsFor q.id q.core o.scope l.1
        (o.unfinished ≠ 0 ∨ (∃ x ∈ ls, x.got = none) → Gives .longLatencyCompletion s (· = s)) ∧
        (o.unfinished = 0 → (∀ x ∈ ls, ∃ v vs, x.got = some (v :: vs)) → q.acqs = [] → (∀ d ∈ ds, (s.core d.core).failed = false) →
          (ds ≠ [] → Gives .longLatencyCompletion s fun t => t.drains = s.drains ++ ds ∧ t.mem = s.mem ∧
            (t.party q.id).acqs = [⟨o.scope, .lane o.id⟩] ∧ (t.party q.id).vregs = q.vregs ∧ (t.party q.id).loads = q.loads) ∧
          (∀ w, ds = [] → ls = [l] → (∀ d ∈ s.drains, d.acquirer ≠ q.id) → o.scope ≠ .pdevice → o.instr = .laneLd w →
            Gives .longLatencyCompletion s fun t => t.mem = s.mem ∧ (t.party q.id).loads = q.loads.filter (fun x => decide (x ≠ l)) ∧
              (∀ (j : Nat) v, (laneValues w.sext (b :: bs))[j]? = some v → (t.party q.id).vreg (w.vd.toNat + j) l.thread = v) ∧
              (o.scope = .cluster ∨ o.scope = .device ∨ o.scope = .fabric → q.core < s.cores.length → (t.core q.core).clean = [])))) ∧
      (l.got = some [] → q.run.isSome = true ∨ q.mayPark = false ∨ q.lateReady = none → Gives .longLatencyCompletion s (· = s)) ∧
      (∀ x, l.got = some [] → q.run = none → q.mayPark = true → q.lateReady = some x → Gives .longLatencyCompletion s fun t =>
        (t.party s.args.p).status = .parked ∧ ((t.party s.args.p).park.map (·.cls)) = some (Instr.lateClass x.instr) ∧ t.mem = s.mem)) ∧
    (∀ o l w, q.ops.find? (fun o => decide (o.id = s.args.x)) = some o → o.word = some w →
      q.loads.find? (loadIs s.args.x s.args.y 0) = some l → q.waitingPop l = true →
      ((q.loads.takeWhile fun x => !loadIs s.args.x s.args.y 0 x).any fun x => q.waitingPop x && decide (x.op = l.op)) = false →
      s.onCore q = true → s.holds .sram q.core = false →
      let gets (v : List Byte) : Party := { q with
        loads := q.loads.map fun y => if loadIs s.args.x s.args.y 0 y then { y with got := some v } else y }
      (∀ c, s.fifoBank q l.va (laneBytes w) = .error c → Gives .fifoWaitEnd s fun t => t.party s.args.p = gets [] ∧
        (∀ p, p ≠ s.args.p → t.party p = s.party p) ∧ { t with parties := s.parties } = s) ∧
      (∀ cl b, s.fifoBank q l.va (laneBytes w) = .ok (cl, b) →
        ((s.bank cl b).entries = [] → Gives .fifoWaitEnd s (· = s)) ∧
        (∀ e es, (s.bank cl b).entries = e :: es → cl * 64 + b < s.banks.length → Gives .fifoWaitEnd s fun t =>
          t.bank cl b = { s.bank cl b with entries := es } ∧ t.mem = s.mem ∧ (∀ p, p ≠ s.args.p → t.party p = s.party p) ∧
          t.party s.args.p = gets e)))

/-- R146 to R150, R158, R171, R175, R203, R205. An entry that may leave the store queue is performed at its level. A store at GROUP or
CORE scope changes the core's dirty bytes; one from DEVICE up, or at CLUSTER scope with no composed cache, the bytes at its home
and no other byte of memory. An atomic puts its new word at its home and its old word into its destination; one whose word
holds an uncorrected error fails, and parks a group whose scalar stream issued it once that stands at an instruction boundary: where
the stream waits for it, with that instruction's address (the entry of another waits for the fault service: log 11). A push enters
its bank; a remote access leaves in a packet. -/
def Obligations.StoresPerformed : Prop :=
  ∀ (s : State) (q : Party) (e : SqEntry), s.party? s.args.p = some q → q.sq.find? (fun e => decide (e.id = s.args.x)) = some e →
    (e.failed = true → e.op.isSome = true ∨ q.mayPark = false → Gives .storePerform s (· = s)) ∧
    (e.failed = true → e.op = none → q.mayPark = true → Gives .storePerform s fun t => (t.party q.id).status = .parked ∧
      ((t.party q.id).park.map (·.cls)) = some .memoryError ∧ t.mem = s.mem ∧ (t.party q.id).sregs = q.sregs ∧
      (e.id ∈ q.stallOn → (t.party q.id).pc = q.pc - 4 ∧ ∀ x ∈ (t.party q.id).sq, x.id ≠ e.id) ∧
      (e.id ∉ q.stallOn → (t.party q.id).pc = q.pc ∧ ∃ x ∈ (t.party q.id).sq, x.id = e.id)) ∧
    (e.failed = false → q.mayLeave e = false ∨ s.maxBars q e = true ∨ s.entryHolds q e = true → Gives .storePerform s (· = s)) ∧
    (e.failed = false → q.mayLeave e = true → s.maxBars q e = false → s.entryHolds q e = false →
      Gives .storePerform s (· = (s.performEntry q e).settleAll)) ∧
    (∀ p bs, e.body = .store p bs → Performs s q e → s.leavesDirty [p] = true → p.pa % 128 + bs.length ≤ 128 → bs ≠ [] →
      (e.scope = .group ∨ e.scope = .core → s.refusesDirty (p.pa / 128) = false → (s.core q.core).mergeReady (p.pa / 128) = true →
        q.core < s.cores.length → Gives .storePerform s fun t => Performed s t q e ∧ MergedAtCore s t q.core p bs) ∧
      (e.scope = .device ∨ e.scope = .pdevice ∨ e.scope = .fabric ∨
          (e.scope = .cluster ∧ (cacheIdOf (s.partOf q) q.core p.cc).bind s.cache? = none) → HomesFree s →
        Gives .storePerform s fun t => Performed s t q e ∧ StoredAtHome s t q.core p bs)) ∧
    (∀ p fn x c d, e.body = .atomic p fn x c d → Performs s q e → HomesFree s → s.leavesDirty [p] = true →
      let wide := decide (p.len = 8)
      let n := atomSize wide
      let old := le (readBytes s.mem p.pa n)
      p.pa % 128 + n ≤ 128 → n = p.len →
      ((∀ i, i < n → s.byteBad q.core (p.pa + i) = false ∧ dirtyAt (s.core q.core) (p.pa + i) = none ∧
          s.cacheDirty q.core (p.pa + i) = none) →
        Gives .storePerform s fun t => Performed s t q e ∧ OldIn (t.party q.id) d wide old ∧
          readBytes t.mem p.pa n = toLe n (atomNew fn (8 * n) old (atomArg fn (8 * n) x.toNat) (c.toNat % 2 ^ (8 * n))) ∧
          ∀ a, a < p.pa ∨ p.pa + n ≤ a → cellGet t.mem a = cellGet s.mem a) ∧
      (∀ i, i < n → s.byteBad q.core (p.pa + i) = true → e.op = none → q.mayPark = true → Gives .storePerform s fun t =>
        (t.party q.id).status = .parked ∧ ((t.party q.id).park.map (·.cls)) = some .memoryError ∧ t.mem = s.mem ∧
        (t.party q.id).sregs = q.sregs)) ∧
    (∀ cl b bs, e.body = .fifoPush cl b bs → Performs s q e → (s.bank cl b).mode = .fifo → some (s.bank cl b).owner = s.partOf q →
      (s.bank cl b).entrySize = bs.length → (s.bank cl b).entries.length < Config.bankBytes / bs.length → cl * 64 + b < s.banks.length →
      Gives .storePerform s fun t => Performed s t q e ∧ t.mem = s.mem ∧
        t.bank cl b = { s.bank cl b with entries := (s.bank cl b).entries ++ [bs] }) ∧
    (∀ peer d a bs, e.body = .remoteStore peer d a bs → Performs s q e → Gives .storePerform s fun t =>
      t.sent = s.sent ++ [⟨d, s.nextSeq d, .store a bs, s.clk, s.clk⟩] ∧ t.mem = s.mem ∧
      (t.party q.id).sq = q.sq.map fun x => if x.id = e.id then { x with req := some (s.nextSeq d) } else x)

/-- R147, R151, R152, R154 to R157, R314 to R317. Steps of the caches and directories: dirty notices, drains, fills and drops
of clean copies, commanded drains and their confirmation, copies across dies and devices. One that may not happen does
nothing. -/
def Obligations.CoherenceSteps : Prop :=
  ∀ (s : State),
    let x := s.args.x
    let y := s.args.y
    let here (pa : Nat) : Bool := if s.args.flag then decide (pa / 128 = y / 128) else decide (pa = y)
    let waits := s.parties.any fun q => decide (q.core = x) && q.sq.any fun e =>
      match e.body with
      | .store a _ => decide (a.pa / 128 = y ∧ (e.scope = .group ∨ e.scope = .core))
      | _ => false
    (waits = true → s.refusesDirty y = false → Gives .dirtyNotice s fun t => (y, x) ∈ t.dirtyHolders ∧
      (∀ h ∈ s.dirtyHolders, h ∈ t.dirtyHolders) ∧ { t with dirtyHolders := s.dirtyHolders } = s) ∧
    (waits = false ∨ s.refusesDirty y = true → Gives .dirtyNotice s (· = s)) ∧
    (s.holds .sram x = true → Gives .dirtyByteDrain s (· = s)) ∧
    (s.args.level = .l1 → s.holds .sram x = false → Gives .dirtyByteDrain s (· = s.drainL1 x fun d => here d.pa)) ∧
    (∀ d, s.args.level = .l1 → s.args.flag = false → s.holds .sram x = false → HomesFree s → s.caches = [] → (s.core x).dirty.filter (fun d => decide (d.pa = y)) = [d] →
      .dirty x y ∉ s.errors → homeDie (y / 128 * 128) = dieOfCore x → x < s.cores.length → Gives .dirtyByteDrain s fun t =>
        (∀ a, cellGet t.mem a = if a = y then d.val else cellGet s.mem a) ∧ dirtyAt (t.core x) y = none ∧
        (∀ a, a ≠ y → dirtyAt (t.core x) a = dirtyAt (s.core x) a) ∧ ⟨y / 128, x, d.stamp⟩ ∈ t.lastWriters) ∧
    (∀ id, s.args.level = .composed id → s.holds .sram x = false → Gives .dirtyByteDrain s
      (· = s.drainCaches (fun i => decide (i = id)) (fun d => decide (d.core = x) && here d.pa) none)) ∧
    (let part := s.partOfCore x
     let may := lineExists y = true ∧ s.marked y = false ∧ x < Config.allCores
     let mayL1 := may ∧ s.loadHolds x part .core false ⟨y * 128, 128, s.args.z, none⟩ = false ∧
       ∀ i, i < 128 → s.loadBad x part .core false s.args.z (y * 128 + i) = false
     let mayCache (die : Nat) := may ∧ s.dieHolds .sram die = false ∧
       (s.homeHolds die (y * 128) = true → (s.dieCopy? die y).isSome = true) ∧ ∀ i, i < 128 → s.l2Bad die (y * 128 + i) = false
     (s.args.level = .l1 → ¬mayL1 → Gives .cleanCopyFill s (· = s)) ∧
     (∀ id, s.args.level = .composed id → ¬mayCache (id.cluster / 8) → Gives .cleanCopyFill s (· = s)) ∧
     (mayL1 → s.args.level = .l1 → s.caches = [] → s.dieCopies = [] → homeDie (y * 128) = dieOfCore x → x < s.cores.length →
       Core.l1Room { s.core x with clean := (s.core x).clean.filter fun l => decide (l.line ≠ y) } y = true →
       Gives .cleanCopyFill s fun t => t.mem = s.mem ∧ t.parties = s.parties ∧
         (t.core x).clean = (s.core x).clean.filter (fun l => decide (l.line ≠ y)) ++
           [⟨y, (s.core x).overlay (y * 128) (readBytes s.mem (y * 128) 128)⟩]) ∧
     (∀ id, mayCache (id.cluster / 8) → s.args.level = .composed id → Gives .cleanCopyFill s (· = s.fillCache id (id.cluster / 8) (y * 128)))) ∧
    (s.args.level = .l1 → Gives .cleanCopyDrop s fun t => (∀ l ∈ (t.core x).clean, l.line ≠ y) ∧ { t with cores := s.cores } = s) ∧
    (∀ id, s.args.level = .composed id → Gives .cleanCopyDrop s fun t => { t with caches := s.caches } = s) ∧
    (∀ d, s.drains[x]? = some d →
      (d.drained = true ∨ s.holds .sram d.core = true → Gives .commandedDrain s (· = s)) ∧
      (d.drained = false → s.holds .sram d.core = false →
        let s1 := s.drainCore d.core d.stamp
        (s1.dirtyLeft d.core (upTo d.stamp) = true → Gives .commandedDrain s (· = s1)) ∧
        (s1.dirtyLeft d.core (upTo d.stamp) = false → Gives .commandedDrain s fun t => { t with drains := s1.drains } = s1 ∧
          t.drains = s1.drains.map fun e => if e = d then { e with drained := true } else e)) ∧
      (d.drained = false ∨ s.drainsHeld d.core = true → Gives .drainConfirmation s (· = s)) ∧
      (d.drained = true → s.drainsHeld d.core = false → (s.party d.acquirer).acqs = [] → Gives .drainConfirmation s fun t => t.drains = s.drains.eraseIdx x ∧
        t.mem = s.mem ∧ ∀ r, r ∈ t.lazy ↔ r ∈ s.lazy ∧ ¬(r.line = d.line ∧ r.core = d.core ∧ ∀ n, d.stamp = some n → r.seq ≤ n))) ∧
    (s.drains[x]? = none → Gives .commandedDrain s (· = s) ∧ Gives .drainConfirmation s (· = s)) ∧
    (let may := x < 4 ∧ homeDie (y * 128) ≠ x ∧ lineExists y = true ∧ s.homeHolds x (y * 128) = false
     (¬may ∨ s.marked y = true → Gives .dieReadRequest s (· = s)) ∧
     (may → s.marked y = false → Gives .dieReadRequest s (· = s.dieRead x y s.args.flag)) ∧
     (may → s.marked y = false → s.dieCopies = [] → Gives .dieReadRequest s fun t => t.mem = s.mem ∧ t.parties = s.parties ∧
       t.dieCopies = [⟨x, y, if s.refusesDirty y = true ∨ s.shared y = true then .shared else .exclusive, readBytes s.mem (y * 128) 128⟩]) ∧
     (∀ c, may → s.marked y = false → s.dieCopies = [c] → c.line = y → c.die ≠ x → c.state = .modified ∨ c.state = .owned → s.copyBad c = false →
       c.bytes.length = 128 → Gives .dieReadRequest s fun t => ⟨x, y, .shared, c.bytes⟩ ∈ t.dieCopies ∧
         (s.args.flag = true → t.mem = s.mem ∧ { c with state := .owned } ∈ t.dieCopies) ∧
         (s.args.flag = false → readBytes t.mem (y * 128) 128 = c.bytes ∧ { c with state := .shared } ∈ t.dieCopies)) ∧
     (¬may ∨ s.refusesDirty y = true → Gives .dieWriteRequest s (· = s)) ∧
     (may → s.refusesDirty y = false →
       ((∃ r ∈ s.dieRequests, r.die = x ∧ r.line = y) → Gives .dieWriteRequest s (· = s.grantDies)) ∧
       (s.dieRequests = [] → (∀ c ∈ s.holders y, c.die = x) → s.lineFree y = true → Gives .dieWriteRequest s fun t =>
         t = s.dieOwn x y ∧ (∃ c ∈ t.dieCopies, c.die = x ∧ c.line = y ∧ c.state = .modified) ∧
         ∀ c ∈ t.dieCopies, c.line = y → c.die = x ∧ c.state = .modified) ∧
       (s.dieRequests = [] → (∀ c ∈ s.holders y, c.die = x) → s.lineFree y = false → Gives .dieWriteRequest s fun t =>
         (∃ r ∈ t.dieRequests, r.die = x ∧ r.line = y) ∧ t.dieCopies = s.dieCopies ∧ t.mem = s.mem ∧
         ∀ h ∈ s.sharers, h.1 = y → ∃ k ∈ t.sent, k.device = h.2 ∧ k.body = .invalidate h.2 y) ∧
       ((∀ r ∈ s.dieRequests, ¬(r.die = x ∧ r.line = y) ∧ r.waits ≠ []) → (∃ c ∈ s.holders y, c.die ≠ x) →
         Gives .dieWriteRequest s fun t => { t with dieRequests := s.dieRequests } = s ∧
           ∃ r ∈ t.dieRequests, r.die = x ∧ r.line = y ∧ ∀ c ∈ s.holders y, c.die ≠ x → c.die ∈ r.waits))) ∧
    ((∀ r ∈ s.dieRequests, r.line = y → x ∉ r.waits) → Gives .dieInvalidationAck s (· = s)) ∧
    (let forwards := (((s.dieCopy? x y).map DieCopy.isDirty).getD false && !s.refusesDirty y) = true
     ((∃ r ∈ s.dieRequests, r.line = y ∧ x ∈ r.waits) → ¬forwards → (∀ r ∈ s.dieRequests, ∃ d ∈ r.waits, ¬(r.line = y ∧ d = x)) →
       Gives .dieInvalidationAck s fun t => (∀ c ∈ t.dieCopies, ¬(c.die = x ∧ c.line = y)) ∧ ∀ r ∈ t.dieRequests, r.line = y → x ∉ r.waits) ∧
     (forwards → (∃ r ∈ s.dieRequests, r.line = y ∧ x ∈ r.waits ∧ ∃ d ∈ r.waits, d ≠ x) → Gives .dieInvalidationAck s
       (· = s.askSharers y))) ∧
    (Gives .dieCopyEviction s fun t => (∀ c ∈ t.dieCopies, ¬(c.die = x ∧ c.line = y)) ∧
      ((∀ c ∈ s.dieCopies, c.die = x → c.line = y → c.state = .shared ∨ c.state = .exclusive) →
        t.mem = s.mem ∧ t.parties = s.parties)) ∧
    (s.held = [] → s.tacks = [] → (∀ r ∈ s.dieRequests, r.waits ≠ []) → Gives .fabricInvalidationAck s fun t => t.mem = s.mem ∧ t.parties = s.parties ∧
      ∀ p, p ∈ t.sharers ↔ p ∈ s.sharers ∧ p ≠ (y, x)) ∧
    (s.args.flag = true → Gives .deviceFenced s fun t => x ∈ t.fencedAt ∧ { t with fencedAt := s.fencedAt } = s) ∧
    (s.args.flag = false → s.held = [] → s.tacks = [] → (∀ r ∈ s.dieRequests, r.waits ≠ []) → Gives .deviceFenced s fun t => x ∈ t.fenced ∧
      (∀ p ∈ t.sharers, p.2 ≠ x) ∧ t.mem = s.mem ∧ t.parties = s.parties) ∧
    (s.args.flag = true → Gives .fencedDeviceReadmission s fun t => x ∉ t.fencedAt ∧ (∀ c, c ∈ t.remoteCopies ↔ c ∈ s.remoteCopies ∧ c.device ≠ x) ∧
      { t with fencedAt := s.fencedAt, remoteCopies := s.remoteCopies } = s) ∧
    (s.args.flag = false → Gives .fencedDeviceReadmission s fun t => x ∉ t.fenced ∧ { t with fenced := s.fenced } = s)

/-- R5, R296 to R298, R302 to R304. A record goes to its queue in its unit's order, waits or is counted where the queue is full;
delivered, it wakes the steward core of the partition, which then holds the fault in its registers. An uncorrected error is noted
where it strikes, but not in what a clear bit of a store covers, which reads as zeros (R27); a row is replaced; a core that fails is
taken out of service, its lazy-release records left (R153); an encoding that is assigned to nothing raises class 0x01, and that of
a lane instruction whose replay mask is 0 is passed over as the skip of R287 is (the model's reading: log 12). -/
def Obligations.FaultsAndErrors : Prop :=
  (∀ (s : State) (r : PendingRec), s.records.find? (fun r => decide (r.id = s.args.x)) = some r →
    let a := (s.queueOf r).1
    let part := (s.queueOf r).2
    let cap := s.queueField a 0 4
    let prod := s.queueField a 8 8
    let full := cap ≤ (prod + 2 ^ 64 - s.queueField a 16 8) % 2 ^ 64
    let rest := s.records.filter fun x => decide (x.id ≠ r.id)
    let turn := ((s.records.find? fun x => decide (x.unit = r.unit)).map (·.id)) = some r.id ∧
      ∀ x ∈ s.records, x.stage ≠ 0 → x.id ≠ r.id → (s.queueOf x).2 ≠ part
    let steward : PartyId := .steward (r.die * 4 + part.getD 0 % 4)
    (¬turn → Gives .faultRecordDelivery s (· = s)) ∧
    (turn → r.stage = 0 → full → r.waits = true → Gives .faultRecordDelivery s (· = s)) ∧
    (HomesFree s → turn → r.stage = 0 →
      (full → r.waits = false → Gives .faultRecordDelivery s fun t => t.records = rest ∧
        (∀ p, (∀ l n w, (s.party p).status ≠ .halted l n w) → t.party p = s.party p) ∧ (∀ b, b < a + 24 ∨ a + 28 ≤ b → cellGet t.mem b = cellGet s.mem b) ∧
        le (readBytes t.mem (a + 24) 4) = min (s.queueField a 24 4 + 1) (2 ^ 32 - 1)) ∧
      (¬full → Gives .faultRecordDelivery s fun t => t.records = rest ∧
        readBytes t.mem (a + 64 + 64 * (prod % cap)) 64 = r.body.toBytes ∧
        le (readBytes t.mem (a + 8) 8) = (prod + 1) % 2 ^ 64 ∧
        (∀ b, (b < a + 8 ∨ a + 16 ≤ b) → (b < a + 64 + 64 * (prod % cap) ∨ a + 128 + 64 * (prod % cap) ≤ b) →
          cellGet t.mem b = cellGet s.mem b) ∧
        (∀ p, p ≠ steward → (∀ l n w, (s.party p).status ≠ .halted l n w) → t.party p = s.party p) ∧
        ((s.party? steward).isSome = true →
          (t.party steward).faultinfo = r.body.identity ||| BitVec.ofNat 64 (r.body.cls.code * 2 ^ 56) ∧
          (t.party steward).faultaddr = r.body.addr ∧ (t.party steward).faultaddr2 = r.body.addr2 ∧
          (t.party steward).pc = (s.party steward).pc ∧
          (t.party steward).status = match (s.party steward).status with
            | .halted l n _ => .halted l n true
            | x => x)))) ∧
  (∀ (s : State), Gives .rowRetirement s fun t => (s.args.x, s.args.y) ∈ t.retired ∧ { t with retired := s.retired } = s) ∧
  (∀ (s : State),
    (∀ pa, s.args.site = .mem pa → pa < Config.dramBytes → Gives .uncorrectableError s fun t =>
      .mem pa ∈ t.errors ∧ { t with errors := s.errors } = s) ∧
    (∀ p n, s.args.site = .sreg p n → (s.party? p).isSome = true → 0 < n → n < 64 → Gives .uncorrectableError s fun t =>
      .sreg p n ∈ t.errors ∧ { t with errors := s.errors } = s) ∧
    (∀ c o, s.args.site = .coreStore c o → c < 128 → (o / 4096 ∈ (s.core c).blocks → Gives .uncorrectableError s fun t =>
      .coreStore c o ∈ t.errors ∧ { t with errors := s.errors } = s) ∧
      (o / 4096 ∉ (s.core c).blocks → Gives .uncorrectableError s (· = s))) ∧
    (∀ c o, s.args.site = .scaleStore c o → c < 128 → (o % Config.scaleColumns ∈ (s.core c).columns → Gives .uncorrectableError s fun t =>
      .scaleStore c o ∈ t.errors ∧ { t with errors := s.errors } = s) ∧
      (o % Config.scaleColumns ∉ (s.core c).columns → Gives .uncorrectableError s (· = s))) ∧
    (∀ c l, s.args.site = .clean c l → Gives .uncorrectableError s fun t => t.errors = s.errors ∧ (∀ k ∈ (t.core c).clean, k.line ≠ l))) ∧
  (∀ (s : State), s.args.x < 128 → s.args.x < s.cores.length →
    ∀ i ∈ ([.coreFailure, .unitResponseTimeout] : List Instr),
      ((s.core s.args.x).failed = true → Gives i s (· = s)) ∧
      ((s.core s.args.x).failed = false → (∀ w ∈ s.workgroups, w.core ≠ s.args.x) → (s.core s.args.x).dirty = [] → s.caches = [] →
        s.drains = [] → (∀ k ∈ s.contributions, k.core ≠ s.args.x) → (∀ r ∈ s.regions, r.leaving = false) → Gives i s fun t => t.core s.args.x = { Core.blank with failed := true } ∧ t.workgroups = s.workgroups ∧
          t.parties = s.parties ∧ t.mem = s.mem ∧ t.lazy = s.lazy ∧ (∀ h ∈ t.dirtyHolders, h.2 ≠ s.args.x))) ∧
  (∀ (s : State) (r : Run), (s.party? s.actor).isSome = true →
    (s.args.flag = false → Gives .illegalEncoding s (Trapped s · .illegal)) ∧
    (s.args.flag = true → Running s r → Gives .illegalEncoding s fun t => Trapped s t .illegal ∧
      (t.records.getLast?.map fun x => x.body.laneAddr) = some (BitVec.ofNat 64 r.pc)) ∧
    (s.args.flag = true → s.me.run = some r → r.replay = some 0 → 1 < r.left → Gives .illegalEncoding s fun t =>
      (t.me.run.map fun x => (x.pc, x.left, x.replay)) = some ((r.pc + s.args.x) % 2 ^ 64, r.left - 1, none) ∧ t.me.vregs = s.me.vregs ∧
      t.mem = s.mem ∧ ∀ p, p ≠ s.actor → t.party p = s.party p))

/-- R294, R309, R310, R326, R327, R332. Power, heat and reset: module reset leaves DRAM, but for the lines that an accumulator region
pinned, and the management bus, and resets the rest; where firmware stands in flash the ROM, after a reset as after power-on, measures
it into slot 0, closes the slot and enters it, or halts with a status that says that its signature fails (where the image goes is the model's, log 5);
a loss of power leaves the ROM alone; a hot die holds its blocks back until it has cooled, and one at 115 degrees ends it all. -/
def Obligations.PowerAndReset : Prop :=
  ∀ (s : State),
    let rom (a : Nat) : Prop := Config.romBase ≤ a ∧ a < Config.romBase + Config.romBytes
    let pinned (a : Nat) : Prop := ∃ r ∈ s.regions, ∃ p ∈ r.spans, p.pa ≤ a ∧ a < p.pa + p.len
    let image := (s.args.bytes.drop 4).take (le (s.args.bytes.take 4))
    let refused (signature : Prop) : Prop :=
      signature ∨ 2 ^ 25 < le (s.args.bytes.take 4) ∨ s.args.bytes.length < le (s.args.bytes.take 4) + 118
    let halted (t : State) : Prop := t.powered = true ∧ t.bootStatus = 0xE2 ∧ (t.party (.steward 0)).status = .ended ∧
      t.slotsClosed = List.replicate 8 false
    let entered (t : State) : Prop := t.powered = true ∧ t.bootStatus = 0x02 ∧
      (t.party (.steward 0)).pc = BitVec.ofNat 64 s.args.y ∧ (t.party (.steward 0)).status = .running ∧
      readBytes t.mem s.args.x image.length = image ∧ t.slotsClosed = true :: List.replicate 7 false ∧
      t.slotsMeasured[0]? = some (shake256 (List.replicate 64 0 ++ shake256 image))
    let afresh (t : State) : Prop := t.agenda = s.agenda ∧ t.powered = true ∧ t.cores = State.reset.cores ∧
      t.partitions = State.reset.partitions ∧ t.launches = [] ∧ t.workgroups = [] ∧ t.tacks = [] ∧ t.held = [] ∧ t.regions = [] ∧ t.kfmap = 0 ∧
      t.clk = 0 ∧ t.dieCopies = [] ∧ t.retired = s.retired
    let dark (t : State) : Prop := t.agenda = s.agenda ∧ t.powered = false ∧ t.parties = State.reset.parties ∧ t.cores = State.reset.cores ∧
      t.launches = [] ∧ t.workgroups = [] ∧ t.tacks = [] ∧ t.kfmap = 0 ∧
      ∀ a, (rom a → cellGet t.mem a = cellGet s.mem a) ∧ (¬rom a → cellGet t.mem a = 0)
    (s.powered = true → s.args.bytes = [] → Gives .moduleReset s fun t => afresh t ∧ t.parties = State.reset.parties ∧
      t.bootStatus = s.bootStatus ∧ ∀ a, (a < Config.dramBytes ∨ rom a → ¬pinned a → cellGet t.mem a = cellGet s.mem a) ∧
        (Config.dramBytes ≤ a → ¬rom a → cellGet t.mem a = 0)) ∧
    (s.powered = true → s.args.bytes ≠ [] → refused (s.args.flag = true) → Gives .moduleReset s fun t => afresh t ∧ halted t) ∧
    (s.powered = true → s.args.bytes ≠ [] → ¬refused (s.args.flag = true) → Gives .moduleReset s fun t => afresh t ∧ entered t) ∧
    (s.powered = false → Gives .moduleReset s (· = s)) ∧
    (s.powered = true → Gives .powerOn s (· = s)) ∧
    (s.powered = false → s.args.flag = false → s.args.bytes ≠ [] → refused (s.args.z = 1) → Gives .powerOn s halted) ∧
    (s.powered = false → s.args.flag = false → s.args.bytes ≠ [] → ¬refused (s.args.z = 1) → Gives .powerOn s entered) ∧
    (s.powered = false → s.args.flag = false → s.args.bytes = [] → Gives .powerOn s fun t => dark { t with powered := false } ∧ t.powered = true ∧ t.bootStatus = 0x01) ∧
    (s.powered = false → s.args.flag = true → Gives .powerOn s fun t => dark t ∧ t.bootStatus = 0xE1) ∧
    (Gives .powerRemoval s fun t => dark t ∧ t.bootStatus = 0 ∧ t.tripReason = 0) ∧
    (s.powered = true → s.args.x < 4 → Gives .thermalTrip s fun t => dark t ∧ t.bootStatus = s.bootStatus ∧
      t.tripReason = BitVec.ofNat 8 (s.args.x + 1)) ∧
    (s.powered = false ∨ 4 ≤ s.args.x → Gives .thermalTrip s (· = s)) ∧
    (s.args.x < 4 → Gives .thermalHold s fun t => s.args.x ∈ t.heldDies ∧ { t with heldDies := s.heldDies } = s) ∧
    (4 ≤ s.args.x → Gives .thermalHold s (· = s)) ∧
    (Gives .thermalHoldRelease s fun t => s.args.x ∉ t.heldDies ∧ { t with heldDies := s.heldDies } = s) ∧
    (s.args.flag = false → Gives .powerCeilingReached s fun t => s.args.block ∈ t.heldBlocks ∧ { t with heldBlocks := s.heldBlocks } = s) ∧
    (s.args.flag = true → Gives .powerCeilingReached s fun t => s.args.block ∉ t.heldBlocks ∧ { t with heldBlocks := s.heldBlocks } = s)

/-! ## The whole machine -/

namespace Sys2Proof

/-- The instruction that a word of this one decodes to: itself, and the first row where rows share PORTCMD's word (R291). -/
def Instr.firstOfWord (i : Instr) : Instr :=
  match i with
  | .peerEntries d a => .partitionRecord d a
  | .reductionSlots d a => .partitionRecord d a
  | .ethernetUp d a => .partitionRecord d a
  | .ethernetDown d a => .partitionRecord d a
  | .ethernetTransmit d a => .partitionRecord d a
  | .postReceiveBuffer d a => .partitionRecord d a
  | .fabricPortUp d a => .partitionRecord d a
  | .fabricPortDown d a => .partitionRecord d a
  | .fabricPortQuery d a => .partitionRecord d a
  | i => i

end Sys2Proof

/-- R36, R48, R169, R242, R245. A step runs what it decodes. The next move of the agenda says who moves: a scalar stream that
may issue runs the instruction of its next word, which for a steward core under physical addresses is the four bytes at its
program counter (R310), and it is noted whether the stream has stayed at it and so has not had its turn (R13); a run whose turn it is
on its lane goes on with its next lane instruction, which waits where it would fault beside a parked scalar stream; an agent of the
device takes its step. The agenda and the counters around it are the model's own (log 1). -/
def Obligations.StepRunsDecoded : Prop :=
  ∀ (s : State) (rest : List Move),
    let s1 : State := { s with agenda := rest, clk := s.clk + 1 }
    let goes (p : PartyId) (o : Host.Outcome State Fault Refusal) : Prop :=
      (∀ t, o = .next t → step s = .next (t.updParty p fun q =>
        let stays := decide (q.pc = (s1.party p).pc)
        { q with stalled := stays, lastIssue := if stays then (s1.party p).lastIssue else q.lastIssue })) ∧
      ((∀ t, o ≠ .next t) → step s = o)
    (∀ p q s2 w, s.agenda = .issue p :: rest → s1.party p = q → s1.canIssue q = true → s1.nextWord q = (s2, .ok w) →
      (∀ i, decodeScalar w = .ok i → (∀ d a, i ≠ .partitionRecord d a) → goes p (exec i (s2.issued p))) ∧
      (∀ d a, decodeScalar w = .ok (.partitionRecord d a) → goes p (exec (s2.pickCommand q d a) (s2.issued p))) ∧
      (∀ e, decodeScalar w = .error e → goes p (exec .illegalEncoding (s2.issued p)))) ∧
    (∀ p n q, s.agenda = .issue p :: rest → p = .steward n → s1.party p = q → s1.canIssue q = true → q.ptroot = 0 → q.fetched = [] →
      q.pc.toNat % 4 = 0 → q.pc.toNat + 4 ≤ Config.dramBytes → s.choice.stale = false → s.choice.ahead = false → s.errors = [] → s.dieCopies = [] →
      homeDie q.pc.toNat = dieOfCore q.core →
      ∀ i, decodeScalar (wd (le (readBytes s.mem q.pc.toNat 4))) = .ok i → (∀ d a, i ≠ .partitionRecord d a) →
        goes p (exec i (s1.issued p))) ∧
    (∀ p, s.agenda = .issue p :: rest → s1.canIssue (s1.party p) = false → step s = .next s1) ∧
    (∀ p q r s2 w lit i, s.agenda = .lane p :: rest → s1.party p = q → q.run = some r → s.powered = true → q.runGoes = true →
      s1.mayFinish q = true → (q.paused = true → s1.laneFree q = true) → s1.laneText q r.pc = (s2, .ok (w, lit)) →
      decodeLane w lit = .ok i →
      let s3 : State :=
        { s2.updParty p (fun q => { q with paused := false }) with
          actor := p
          args := { s2.args with flag := true, x := if laneIsLong w then 16 else 12, y := (w.getLsbD 83).toNat } }
      ∀ t, exec i s3 = .next t →
        ((q.park = none ∧ q.midway = false) ∨ (t.party p).park = q.park → step s = .next t) ∧
        (q.park ≠ none ∨ q.midway = true → (t.party p).park ≠ q.park → step s = .next s1)) ∧
    (∀ p q, s.agenda = .lane p :: rest → s1.party p = q → q.run.isSome = true → s1.laneTurn q = false → step s = .next s1) ∧
    (∀ i a, s.agenda = .event i a :: rest →
      (s.powered = true → step s = exec i { s1 with args := a }) ∧
      (s.powered = false → i ≠ .powerOn → i ≠ .powerRemoval → step s = .next s1)) ∧
    (∀ n, s.agenda = .tick n :: rest → step s = .next (State.askAgain { s1 with clk := s.clk + 1 + (n - 1) })) ∧
    (∀ c, s.agenda = .choose c :: rest → step s = .next { s1 with choice := c }) ∧
    (s.agenda = [] → s.powered = true → step s = step { s with agenda := [s.defaultMove], turn := s.turn + 1 }) ∧
    (s.agenda = [] → s.powered = false → step s = .fault .noPower)

/-- Words that the spec assembles in its worked programs decode to the instructions that it prints beside them
(02_encoding.md, 12_prog_gemm.md, 13_prog_tack.md, 14_prog_coherence.md). -/
def Obligations.WordsDecode : Prop :=
  decodeScalar 0x0461BFFF = .ok (.addi 6 6 (BitVec.ofInt 14 (-1))) ∧
  decodeScalar 0x02104000 = .ok (.add 33 1 0) ∧
  decodeScalar 0x30900031 = .ok (.lui 9 49) ∧
  decodeScalar 0x4081D808 = .ok (.ld 8 7 3 8) ∧
  decodeScalar 0x4C705320 = .ok (.stl 7 1 2 3 32) ∧
  decodeScalar 0x54B1CC97 = .ok (.amodCas 11 7 12 3 1) ∧
  decodeScalar 0x58000012 = .ok (.fenceRel 2) ∧
  decodeScalar 0x6CA0000E = .ok (.bnz 10 14) ∧
  decodeScalar 0x90034000 = .ok (.lrun 13 0) ∧
  decodeScalar 0xA521E000 = .ok (.vread 18 30 0) ∧
  decodeScalar 0xB0000168 = .ok (.bbwaitImm 1) ∧
  decodeScalar 0xB9455630 = .ok (.mma 20 21 22) ∧
  decodeScalar 0xBCA1C910 = .ok (.tackon 10 7 9) ∧
  decodeScalar 0xC8000010 = .ok .exit ∧
  decodeScalar 0xFC000000 = .error .reservedMajor ∧
  decodeHeader 0xF0003F0C0C00000000000000#96 = .ok ⟨0, 3, 15, 1, some 12⟩ ∧
  decodeLane 0x000009080800000000000000#96 0 = .ok (.iadd ⟨0, 0, 9, 8, 8, 0, 0, 0, 0, 0, 0, 0, 0⟩)

/-- R36, R48. Decoding undoes encoding: the words of every well-formed instruction that has words, each operand at every
value that the encoding admits, decode to that instruction. The rows that share PORTCMD's word decode to the first of them,
and the command block tells them apart (R291). -/
def Obligations.RoundTrips : Prop :=
  ∀ i : Instr, i.wf = true → encode i ≠ [] → decodeWords (encode i) = .ok (Instr.firstOfWord i)

/-- The memory keeps its canonical form (keys rising, no zero listed), so that equal memories are equal lists: in every step,
whatever moves and whatever it does. The form is the model's (log 3). -/
def Obligations.StepKeepsMemoryCanonical : Prop :=
  ∀ (s t : State), Memory.wf s.mem = true → step s = .next t → Memory.wf t.mem = true

/-- R309, R310. What module reset leaves: every register of every steward core as the table has it, core 128 in the ROM and the
others in its loop, nothing resident, no partition, no composed cache, no tack, no record, the ports down, and memory with
nothing listed, in its canonical form. -/
def Obligations.ResetState : Prop :=
  let s := State.reset
  s.clk = 0 ∧ s.powered = true ∧ s.kfmap = 0 ∧ s.mem = [] ∧ Memory.wf s.mem = true ∧ s.errors = [] ∧
  s.parties.length = 16 ∧ s.workgroups = [] ∧ s.launches = [] ∧ s.ladders = [] ∧ s.regions = [] ∧ s.copies = [] ∧
  s.tacks = [] ∧ s.held = [] ∧ s.lazy = [] ∧ s.dieCopies = [] ∧ s.filter = [] ∧ s.dirtyHolders = [] ∧ s.caches = [] ∧
  s.records = [] ∧ s.peers = [] ∧ s.slots = [] ∧
  (∀ n, n < 16 → (s.party? (.steward n)).isSome = true ∧ (s.party (.steward n)).core = 128 + n ∧
    (s.party (.steward n)).pc = 0xFF0000000000 ∧ (s.party (.steward n)).fmt = 6 ∧ (s.party (.steward n)).em = 0 ∧
    (s.party (.steward n)).spaceid = 0 ∧ (s.party (.steward n)).ptroot = 0 ∧ (s.party (.steward n)).faultinfo = 0 ∧
    (s.party (.steward n)).faultaddr = 0 ∧ (s.party (.steward n)).faultaddr2 = 0 ∧
    (∀ r, (s.party (.steward n)).sreg r = 0) ∧ (s.party (.steward n)).status = (if n = 0 then .running else .romLoop)) ∧
  (∀ n, (s.partition n).enabled = false) ∧ (∀ c b, (s.bank c b).mode = .unassigned) ∧ (∀ c, s.core c = Core.blank) ∧
  (∀ n, (s.fabricPort n).up = false ∧ (s.etherPort n).up = false) ∧ s.slotsClosed = List.replicate 8 false
end
end

