-- ==== Sys2Proof/Laws/Cells.lean ====
section
/-! SUPPORT. Storage: a read after a write, and every write keeps the canonical form. -/

namespace Sys2Proof.Machine

theorem cellGet_cons {w : Nat} (a : Nat) (x : BitVec w) (r : Cells w) (j : Nat) :
    cellGet ((a, x) :: r) j = if j = a then x else cellGet r j := by
  by_cases h : a = j
  · simp [cellGet, h]
  · simp [cellGet, h, Ne.symm h]

theorem cellGet_cellPut {w : Nat} (m : Cells w) (k j : Nat) (v : BitVec w) :
    cellGet (cellPut m k v) j = if j = k then v else cellGet m j := by
  induction m with
  | nil => exact cellGet_cons k v [] j
  | cons c r ih =>
    obtain ⟨a, x⟩ := c
    unfold cellPut
    split
    · exact cellGet_cons k v _ j
    · split
      · subst_vars
        rw [cellGet_cons, cellGet_cons]
        split <;> rfl
      · rename_i h1 h2
        rw [cellGet_cons, cellGet_cons, ih]
        split
        · subst_vars; rw [if_neg (Ne.symm h2)]
        · rfl

theorem cellGet_unlist {w : Nat} (m : Cells w) (k j : Nat) :
    cellGet (m.filter fun c => decide (c.1 ≠ k)) j = if j = k then 0 else cellGet m j := by
  induction m with
  | nil => simp [cellGet]
  | cons c r ih =>
    obtain ⟨a, x⟩ := c
    by_cases h : a = k
    · subst h
      by_cases hj : j = a <;> simp_all [cellGet, eq_comm]
    · by_cases hj : a = j
      · subst hj; simp [cellGet, h]
      · simp_all [cellGet]

/-- A read after a write: the value at the key written, and every other key as before. -/
@[simp] theorem cellGet_cellSet {w : Nat} (m : Cells w) (k j : Nat) (v : BitVec w) :
    cellGet (cellSet m k v) j = if j = k then v else cellGet m j := by
  unfold cellSet
  split
  · subst_vars; exact cellGet_unlist m k j
  · exact cellGet_cellPut m k j v

theorem cellsAbove_mem {w : Nat} {k : Nat} {m : Cells w} :
    cellsAbove k m = true ↔ ∀ c ∈ m, k < c.1 := by
  induction m with
  | nil => simp [cellsAbove]
  | cons c r ih => obtain ⟨a, x⟩ := c; simp [cellsAbove, ih]

/-- The canonical form, said of the list: keys strictly rising and no zero listed. -/
theorem cellsWf_iff {w : Nat} {m : Cells w} :
    cellsWf m = true ↔ m.Pairwise (fun c d => c.1 < d.1) ∧ ∀ c ∈ m, c.2 ≠ 0 := by
  induction m with
  | nil => simp [cellsWf]
  | cons c r ih =>
    obtain ⟨a, x⟩ := c
    simp [cellsWf, cellsAbove_mem, ih, List.pairwise_cons]
    tauto

/-- Dropping entries keeps the canonical form. -/
theorem cellsWf_filter {w : Nat} {m : Cells w} (p : Nat × BitVec w → Bool) (h : cellsWf m = true) :
    cellsWf (m.filter p) = true := by
  rw [cellsWf_iff] at h ⊢
  exact ⟨h.1.filter _, fun c hc => h.2 c (List.mem_of_mem_filter hc)⟩

theorem mem_cellPut {w : Nat} {m : Cells w} {k : Nat} {v : BitVec w} {c : Nat × BitVec w}
    (h : c ∈ cellPut m k v) : c = (k, v) ∨ c ∈ m := by
  induction m with
  | nil => simpa [cellPut] using h
  | cons d r ih =>
    obtain ⟨a, x⟩ := d
    unfold cellPut at h
    split at h
    · simpa using h
    · split at h <;> simp only [List.mem_cons] at h ⊢
      · tauto
      · rcases h with h | h
        · tauto
        · have := ih h; tauto

theorem cellsWf_cellPut {w : Nat} {m : Cells w} {k : Nat} {v : BitVec w} (hv : v ≠ 0) (h : cellsWf m = true) :
    cellsWf (cellPut m k v) = true := by
  induction m with
  | nil => simpa [cellPut, cellsWf, cellsAbove] using hv
  | cons c r ih =>
    obtain ⟨a, x⟩ := c
    simp only [cellsWf, Bool.and_eq_true, decide_eq_true_eq] at h
    obtain ⟨⟨hx, ha⟩, hr⟩ := h
    rw [cellsAbove_mem] at ha
    unfold cellPut
    split
    · rename_i hk
      simp only [cellsWf, Bool.and_eq_true, decide_eq_true_eq, cellsAbove_mem]
      refine ⟨⟨hv, ?_⟩, ⟨hx, ha⟩, hr⟩
      intro c hc
      rcases List.mem_cons.1 hc with rfl | hc
      · exact hk
      · exact hk.trans (ha c hc)
    · split
      · subst_vars
        simp only [cellsWf, Bool.and_eq_true, decide_eq_true_eq, cellsAbove_mem]
        exact ⟨⟨hv, ha⟩, hr⟩
      · simp only [cellsWf, Bool.and_eq_true, decide_eq_true_eq, cellsAbove_mem]
        refine ⟨⟨hx, ?_⟩, ih hr⟩
        intro c hc
        rcases mem_cellPut hc with rfl | hc
        · simp only; omega
        · exact ha c hc

/-- Writing a key keeps the canonical form. -/
theorem cellsWf_cellSet {w : Nat} {m : Cells w} (k : Nat) (v : BitVec w) (h : cellsWf m = true) :
    cellsWf (cellSet m k v) = true := by
  unfold cellSet
  split
  · exact cellsWf_filter _ h
  · exact cellsWf_cellPut ‹_› h

/-- Writing bytes keeps the canonical form. -/
theorem cellsWf_writeBytes {m : Cells 8} (a : Nat) (bs : List Byte) (h : cellsWf m = true) :
    cellsWf (writeBytes m a bs) = true := by
  induction bs generalizing m a with
  | nil => exact h
  | cons b r ih => exact ih _ (cellsWf_cellSet a b h)

theorem cellsWf_cellClear {w : Nat} {m : Cells w} (lo n : Nat) (h : cellsWf m = true) :
    cellsWf (cellClear m lo n) = true := cellsWf_filter _ h

/-- A byte outside the bytes written reads as before. -/
theorem cellGet_writeBytes_outside (m : Cells 8) (a : Nat) (bs : List Byte) (j : Nat)
    (h : j < a ∨ a + bs.length ≤ j) : cellGet (writeBytes m a bs) j = cellGet m j := by
  induction bs generalizing m a with
  | nil => rfl
  | cons b r ih =>
    simp only [List.length_cons] at h
    rw [writeBytes, ih _ _ (by omega), cellGet_cellSet, if_neg (by omega)]

/-- A byte written reads back. -/
theorem cellGet_writeBytes_inside (m : Cells 8) (a : Nat) (bs : List Byte) (i : Nat) (h : i < bs.length) :
    cellGet (writeBytes m a bs) (a + i) = bs[i] := by
  induction bs generalizing m a i with
  | nil => simp at h
  | cons b r ih =>
    cases i with
    | zero => rw [writeBytes, cellGet_writeBytes_outside _ _ _ _ (by omega)]; simp
    | succ i =>
      have := ih (cellSet m a b) (a + 1) i (by simpa using h)
      rw [writeBytes, show a + (i + 1) = a + 1 + i by omega, this]
      rfl

end Sys2Proof.Machine
end

