-- ==== Sys2Proof/Laws/State.lean ====
section
/-!
SUPPORT. What each update of `State` leaves alone, field by field: no later proof unfolds a record update.
-/

namespace Sys2Proof.Machine

/-! ## `State.updParty` -/

@[simp] theorem State.updParty_agenda (s : State) (p : PartyId) (f : Party → Party) : (s.updParty p f).agenda = s.agenda := rfl
@[simp] theorem State.updParty_actor (s : State) (p : PartyId) (f : Party → Party) : (s.updParty p f).actor = s.actor := rfl
@[simp] theorem State.updParty_args (s : State) (p : PartyId) (f : Party → Party) : (s.updParty p f).args = s.args := rfl
@[simp] theorem State.updParty_turn (s : State) (p : PartyId) (f : Party → Party) : (s.updParty p f).turn = s.turn := rfl
@[simp] theorem State.updParty_choice (s : State) (p : PartyId) (f : Party → Party) : (s.updParty p f).choice = s.choice := rfl
@[simp] theorem State.updParty_fresh (s : State) (p : PartyId) (f : Party → Party) : (s.updParty p f).fresh = s.fresh := rfl
@[simp] theorem State.updParty_clk (s : State) (p : PartyId) (f : Party → Party) : (s.updParty p f).clk = s.clk := rfl
@[simp] theorem State.updParty_powered (s : State) (p : PartyId) (f : Party → Party) : (s.updParty p f).powered = s.powered := rfl
@[simp] theorem State.updParty_bootStatus (s : State) (p : PartyId) (f : Party → Party) : (s.updParty p f).bootStatus = s.bootStatus := rfl
@[simp] theorem State.updParty_tripReason (s : State) (p : PartyId) (f : Party → Party) : (s.updParty p f).tripReason = s.tripReason := rfl
@[simp] theorem State.updParty_heldDies (s : State) (p : PartyId) (f : Party → Party) : (s.updParty p f).heldDies = s.heldDies := rfl
@[simp] theorem State.updParty_heldBlocks (s : State) (p : PartyId) (f : Party → Party) : (s.updParty p f).heldBlocks = s.heldBlocks := rfl
@[simp] theorem State.updParty_cores (s : State) (p : PartyId) (f : Party → Party) : (s.updParty p f).cores = s.cores := rfl
@[simp] theorem State.updParty_mem (s : State) (p : PartyId) (f : Party → Party) : (s.updParty p f).mem = s.mem := rfl
@[simp] theorem State.updParty_dieCopies (s : State) (p : PartyId) (f : Party → Party) : (s.updParty p f).dieCopies = s.dieCopies := rfl
@[simp] theorem State.updParty_filter (s : State) (p : PartyId) (f : Party → Party) : (s.updParty p f).filter = s.filter := rfl
@[simp] theorem State.updParty_dieRequests (s : State) (p : PartyId) (f : Party → Party) : (s.updParty p f).dieRequests = s.dieRequests := rfl
@[simp] theorem State.updParty_lazy (s : State) (p : PartyId) (f : Party → Party) : (s.updParty p f).lazy = s.lazy := rfl
@[simp] theorem State.updParty_dirtyHolders (s : State) (p : PartyId) (f : Party → Party) : (s.updParty p f).dirtyHolders = s.dirtyHolders := rfl
@[simp] theorem State.updParty_lastWriters (s : State) (p : PartyId) (f : Party → Party) : (s.updParty p f).lastWriters = s.lastWriters := rfl
@[simp] theorem State.updParty_drains (s : State) (p : PartyId) (f : Party → Party) : (s.updParty p f).drains = s.drains := rfl
@[simp] theorem State.updParty_held (s : State) (p : PartyId) (f : Party → Party) : (s.updParty p f).held = s.held := rfl
@[simp] theorem State.updParty_asks (s : State) (p : PartyId) (f : Party → Party) : (s.updParty p f).asks = s.asks := rfl
@[simp] theorem State.updParty_caches (s : State) (p : PartyId) (f : Party → Party) : (s.updParty p f).caches = s.caches := rfl
@[simp] theorem State.updParty_banks (s : State) (p : PartyId) (f : Party → Party) : (s.updParty p f).banks = s.banks := rfl
@[simp] theorem State.updParty_counted (s : State) (p : PartyId) (f : Party → Party) : (s.updParty p f).counted = s.counted := rfl
@[simp] theorem State.updParty_tlb (s : State) (p : PartyId) (f : Party → Party) : (s.updParty p f).tlb = s.tlb := rfl
@[simp] theorem State.updParty_text (s : State) (p : PartyId) (f : Party → Party) : (s.updParty p f).text = s.text := rfl
@[simp] theorem State.updParty_kfmap (s : State) (p : PartyId) (f : Party → Party) : (s.updParty p f).kfmap = s.kfmap := rfl
@[simp] theorem State.updParty_errors (s : State) (p : PartyId) (f : Party → Party) : (s.updParty p f).errors = s.errors := rfl
@[simp] theorem State.updParty_retired (s : State) (p : PartyId) (f : Party → Party) : (s.updParty p f).retired = s.retired := rfl
@[simp] theorem State.updParty_sparesUsed (s : State) (p : PartyId) (f : Party → Party) : (s.updParty p f).sparesUsed = s.sparesUsed := rfl
@[simp] theorem State.updParty_copies (s : State) (p : PartyId) (f : Party → Party) : (s.updParty p f).copies = s.copies := rfl
@[simp] theorem State.updParty_regions (s : State) (p : PartyId) (f : Party → Party) : (s.updParty p f).regions = s.regions := rfl
@[simp] theorem State.updParty_mmas (s : State) (p : PartyId) (f : Party → Party) : (s.updParty p f).mmas = s.mmas := rfl
@[simp] theorem State.updParty_contributions (s : State) (p : PartyId) (f : Party → Party) : (s.updParty p f).contributions = s.contributions := rfl
@[simp] theorem State.updParty_tacks (s : State) (p : PartyId) (f : Party → Party) : (s.updParty p f).tacks = s.tacks := rfl
@[simp] theorem State.updParty_partitions (s : State) (p : PartyId) (f : Party → Party) : (s.updParty p f).partitions = s.partitions := rfl
@[simp] theorem State.updParty_regionValues (s : State) (p : PartyId) (f : Party → Party) : (s.updParty p f).regionValues = s.regionValues := rfl
@[simp] theorem State.updParty_launches (s : State) (p : PartyId) (f : Party → Party) : (s.updParty p f).launches = s.launches := rfl
@[simp] theorem State.updParty_workgroups (s : State) (p : PartyId) (f : Party → Party) : (s.updParty p f).workgroups = s.workgroups := rfl
@[simp] theorem State.updParty_ladders (s : State) (p : PartyId) (f : Party → Party) : (s.updParty p f).ladders = s.ladders := rfl
@[simp] theorem State.updParty_darning (s : State) (p : PartyId) (f : Party → Party) : (s.updParty p f).darning = s.darning := rfl
@[simp] theorem State.updParty_records (s : State) (p : PartyId) (f : Party → Party) : (s.updParty p f).records = s.records := rfl
@[simp] theorem State.updParty_peers (s : State) (p : PartyId) (f : Party → Party) : (s.updParty p f).peers = s.peers := rfl
@[simp] theorem State.updParty_slots (s : State) (p : PartyId) (f : Party → Party) : (s.updParty p f).slots = s.slots := rfl
@[simp] theorem State.updParty_puts (s : State) (p : PartyId) (f : Party → Party) : (s.updParty p f).puts = s.puts := rfl
@[simp] theorem State.updParty_fabric (s : State) (p : PartyId) (f : Party → Party) : (s.updParty p f).fabric = s.fabric := rfl
@[simp] theorem State.updParty_sent (s : State) (p : PartyId) (f : Party → Party) : (s.updParty p f).sent = s.sent := rfl
@[simp] theorem State.updParty_nextSeqs (s : State) (p : PartyId) (f : Party → Party) : (s.updParty p f).nextSeqs = s.nextSeqs := rfl
@[simp] theorem State.updParty_acceptedSeqs (s : State) (p : PartyId) (f : Party → Party) : (s.updParty p f).acceptedSeqs = s.acceptedSeqs := rfl
@[simp] theorem State.updParty_deadDevices (s : State) (p : PartyId) (f : Party → Party) : (s.updParty p f).deadDevices = s.deadDevices := rfl
@[simp] theorem State.updParty_fenced (s : State) (p : PartyId) (f : Party → Party) : (s.updParty p f).fenced = s.fenced := rfl
@[simp] theorem State.updParty_fencedAt (s : State) (p : PartyId) (f : Party → Party) : (s.updParty p f).fencedAt = s.fencedAt := rfl
@[simp] theorem State.updParty_remoteCopies (s : State) (p : PartyId) (f : Party → Party) : (s.updParty p f).remoteCopies = s.remoteCopies := rfl
@[simp] theorem State.updParty_sharers (s : State) (p : PartyId) (f : Party → Party) : (s.updParty p f).sharers = s.sharers := rfl
@[simp] theorem State.updParty_ether (s : State) (p : PartyId) (f : Party → Party) : (s.updParty p f).ether = s.ether := rfl
@[simp] theorem State.updParty_portsTried (s : State) (p : PartyId) (f : Party → Party) : (s.updParty p f).portsTried = s.portsTried := rfl
@[simp] theorem State.updParty_outbox (s : State) (p : PartyId) (f : Party → Party) : (s.updParty p f).outbox = s.outbox := rfl
@[simp] theorem State.updParty_slotsMeasured (s : State) (p : PartyId) (f : Party → Party) : (s.updParty p f).slotsMeasured = s.slotsMeasured := rfl
@[simp] theorem State.updParty_slotsClosed (s : State) (p : PartyId) (f : Party → Party) : (s.updParty p f).slotsClosed = s.slotsClosed := rfl

/-! ## `State.updCore` -/

@[simp] theorem State.updCore_agenda (s : State) (c : Nat) (f : Core → Core) : (s.updCore c f).agenda = s.agenda := rfl
@[simp] theorem State.updCore_actor (s : State) (c : Nat) (f : Core → Core) : (s.updCore c f).actor = s.actor := rfl
@[simp] theorem State.updCore_args (s : State) (c : Nat) (f : Core → Core) : (s.updCore c f).args = s.args := rfl
@[simp] theorem State.updCore_turn (s : State) (c : Nat) (f : Core → Core) : (s.updCore c f).turn = s.turn := rfl
@[simp] theorem State.updCore_choice (s : State) (c : Nat) (f : Core → Core) : (s.updCore c f).choice = s.choice := rfl
@[simp] theorem State.updCore_fresh (s : State) (c : Nat) (f : Core → Core) : (s.updCore c f).fresh = s.fresh := rfl
@[simp] theorem State.updCore_clk (s : State) (c : Nat) (f : Core → Core) : (s.updCore c f).clk = s.clk := rfl
@[simp] theorem State.updCore_powered (s : State) (c : Nat) (f : Core → Core) : (s.updCore c f).powered = s.powered := rfl
@[simp] theorem State.updCore_bootStatus (s : State) (c : Nat) (f : Core → Core) : (s.updCore c f).bootStatus = s.bootStatus := rfl
@[simp] theorem State.updCore_tripReason (s : State) (c : Nat) (f : Core → Core) : (s.updCore c f).tripReason = s.tripReason := rfl
@[simp] theorem State.updCore_heldDies (s : State) (c : Nat) (f : Core → Core) : (s.updCore c f).heldDies = s.heldDies := rfl
@[simp] theorem State.updCore_heldBlocks (s : State) (c : Nat) (f : Core → Core) : (s.updCore c f).heldBlocks = s.heldBlocks := rfl
@[simp] theorem State.updCore_parties (s : State) (c : Nat) (f : Core → Core) : (s.updCore c f).parties = s.parties := rfl
@[simp] theorem State.updCore_mem (s : State) (c : Nat) (f : Core → Core) : (s.updCore c f).mem = s.mem := rfl
@[simp] theorem State.updCore_dieCopies (s : State) (c : Nat) (f : Core → Core) : (s.updCore c f).dieCopies = s.dieCopies := rfl
@[simp] theorem State.updCore_filter (s : State) (c : Nat) (f : Core → Core) : (s.updCore c f).filter = s.filter := rfl
@[simp] theorem State.updCore_dieRequests (s : State) (c : Nat) (f : Core → Core) : (s.updCore c f).dieRequests = s.dieRequests := rfl
@[simp] theorem State.updCore_lazy (s : State) (c : Nat) (f : Core → Core) : (s.updCore c f).lazy = s.lazy := rfl
@[simp] theorem State.updCore_dirtyHolders (s : State) (c : Nat) (f : Core → Core) : (s.updCore c f).dirtyHolders = s.dirtyHolders := rfl
@[simp] theorem State.updCore_lastWriters (s : State) (c : Nat) (f : Core → Core) : (s.updCore c f).lastWriters = s.lastWriters := rfl
@[simp] theorem State.updCore_drains (s : State) (c : Nat) (f : Core → Core) : (s.updCore c f).drains = s.drains := rfl
@[simp] theorem State.updCore_held (s : State) (c : Nat) (f : Core → Core) : (s.updCore c f).held = s.held := rfl
@[simp] theorem State.updCore_asks (s : State) (c : Nat) (f : Core → Core) : (s.updCore c f).asks = s.asks := rfl
@[simp] theorem State.updCore_caches (s : State) (c : Nat) (f : Core → Core) : (s.updCore c f).caches = s.caches := rfl
@[simp] theorem State.updCore_banks (s : State) (c : Nat) (f : Core → Core) : (s.updCore c f).banks = s.banks := rfl
@[simp] theorem State.updCore_counted (s : State) (c : Nat) (f : Core → Core) : (s.updCore c f).counted = s.counted := rfl
@[simp] theorem State.updCore_tlb (s : State) (c : Nat) (f : Core → Core) : (s.updCore c f).tlb = s.tlb := rfl
@[simp] theorem State.updCore_text (s : State) (c : Nat) (f : Core → Core) : (s.updCore c f).text = s.text := rfl
@[simp] theorem State.updCore_kfmap (s : State) (c : Nat) (f : Core → Core) : (s.updCore c f).kfmap = s.kfmap := rfl
@[simp] theorem State.updCore_errors (s : State) (c : Nat) (f : Core → Core) : (s.updCore c f).errors = s.errors := rfl
@[simp] theorem State.updCore_retired (s : State) (c : Nat) (f : Core → Core) : (s.updCore c f).retired = s.retired := rfl
@[simp] theorem State.updCore_sparesUsed (s : State) (c : Nat) (f : Core → Core) : (s.updCore c f).sparesUsed = s.sparesUsed := rfl
@[simp] theorem State.updCore_copies (s : State) (c : Nat) (f : Core → Core) : (s.updCore c f).copies = s.copies := rfl
@[simp] theorem State.updCore_regions (s : State) (c : Nat) (f : Core → Core) : (s.updCore c f).regions = s.regions := rfl
@[simp] theorem State.updCore_mmas (s : State) (c : Nat) (f : Core → Core) : (s.updCore c f).mmas = s.mmas := rfl
@[simp] theorem State.updCore_contributions (s : State) (c : Nat) (f : Core → Core) : (s.updCore c f).contributions = s.contributions := rfl
@[simp] theorem State.updCore_tacks (s : State) (c : Nat) (f : Core → Core) : (s.updCore c f).tacks = s.tacks := rfl
@[simp] theorem State.updCore_partitions (s : State) (c : Nat) (f : Core → Core) : (s.updCore c f).partitions = s.partitions := rfl
@[simp] theorem State.updCore_regionValues (s : State) (c : Nat) (f : Core → Core) : (s.updCore c f).regionValues = s.regionValues := rfl
@[simp] theorem State.updCore_launches (s : State) (c : Nat) (f : Core → Core) : (s.updCore c f).launches = s.launches := rfl
@[simp] theorem State.updCore_workgroups (s : State) (c : Nat) (f : Core → Core) : (s.updCore c f).workgroups = s.workgroups := rfl
@[simp] theorem State.updCore_ladders (s : State) (c : Nat) (f : Core → Core) : (s.updCore c f).ladders = s.ladders := rfl
@[simp] theorem State.updCore_darning (s : State) (c : Nat) (f : Core → Core) : (s.updCore c f).darning = s.darning := rfl
@[simp] theorem State.updCore_records (s : State) (c : Nat) (f : Core → Core) : (s.updCore c f).records = s.records := rfl
@[simp] theorem State.updCore_peers (s : State) (c : Nat) (f : Core → Core) : (s.updCore c f).peers = s.peers := rfl
@[simp] theorem State.updCore_slots (s : State) (c : Nat) (f : Core → Core) : (s.updCore c f).slots = s.slots := rfl
@[simp] theorem State.updCore_puts (s : State) (c : Nat) (f : Core → Core) : (s.updCore c f).puts = s.puts := rfl
@[simp] theorem State.updCore_fabric (s : State) (c : Nat) (f : Core → Core) : (s.updCore c f).fabric = s.fabric := rfl
@[simp] theorem State.updCore_sent (s : State) (c : Nat) (f : Core → Core) : (s.updCore c f).sent = s.sent := rfl
@[simp] theorem State.updCore_nextSeqs (s : State) (c : Nat) (f : Core → Core) : (s.updCore c f).nextSeqs = s.nextSeqs := rfl
@[simp] theorem State.updCore_acceptedSeqs (s : State) (c : Nat) (f : Core → Core) : (s.updCore c f).acceptedSeqs = s.acceptedSeqs := rfl
@[simp] theorem State.updCore_deadDevices (s : State) (c : Nat) (f : Core → Core) : (s.updCore c f).deadDevices = s.deadDevices := rfl
@[simp] theorem State.updCore_fenced (s : State) (c : Nat) (f : Core → Core) : (s.updCore c f).fenced = s.fenced := rfl
@[simp] theorem State.updCore_fencedAt (s : State) (c : Nat) (f : Core → Core) : (s.updCore c f).fencedAt = s.fencedAt := rfl
@[simp] theorem State.updCore_remoteCopies (s : State) (c : Nat) (f : Core → Core) : (s.updCore c f).remoteCopies = s.remoteCopies := rfl
@[simp] theorem State.updCore_sharers (s : State) (c : Nat) (f : Core → Core) : (s.updCore c f).sharers = s.sharers := rfl
@[simp] theorem State.updCore_ether (s : State) (c : Nat) (f : Core → Core) : (s.updCore c f).ether = s.ether := rfl
@[simp] theorem State.updCore_portsTried (s : State) (c : Nat) (f : Core → Core) : (s.updCore c f).portsTried = s.portsTried := rfl
@[simp] theorem State.updCore_outbox (s : State) (c : Nat) (f : Core → Core) : (s.updCore c f).outbox = s.outbox := rfl
@[simp] theorem State.updCore_slotsMeasured (s : State) (c : Nat) (f : Core → Core) : (s.updCore c f).slotsMeasured = s.slotsMeasured := rfl
@[simp] theorem State.updCore_slotsClosed (s : State) (c : Nat) (f : Core → Core) : (s.updCore c f).slotsClosed = s.slotsClosed := rfl

/-! ## `State.updWg` -/

@[simp] theorem State.updWg_agenda (s : State) (p w : Nat) (f : Workgroup → Workgroup) : (s.updWg p w f).agenda = s.agenda := rfl
@[simp] theorem State.updWg_actor (s : State) (p w : Nat) (f : Workgroup → Workgroup) : (s.updWg p w f).actor = s.actor := rfl
@[simp] theorem State.updWg_args (s : State) (p w : Nat) (f : Workgroup → Workgroup) : (s.updWg p w f).args = s.args := rfl
@[simp] theorem State.updWg_turn (s : State) (p w : Nat) (f : Workgroup → Workgroup) : (s.updWg p w f).turn = s.turn := rfl
@[simp] theorem State.updWg_choice (s : State) (p w : Nat) (f : Workgroup → Workgroup) : (s.updWg p w f).choice = s.choice := rfl
@[simp] theorem State.updWg_fresh (s : State) (p w : Nat) (f : Workgroup → Workgroup) : (s.updWg p w f).fresh = s.fresh := rfl
@[simp] theorem State.updWg_clk (s : State) (p w : Nat) (f : Workgroup → Workgroup) : (s.updWg p w f).clk = s.clk := rfl
@[simp] theorem State.updWg_powered (s : State) (p w : Nat) (f : Workgroup → Workgroup) : (s.updWg p w f).powered = s.powered := rfl
@[simp] theorem State.updWg_bootStatus (s : State) (p w : Nat) (f : Workgroup → Workgroup) : (s.updWg p w f).bootStatus = s.bootStatus := rfl
@[simp] theorem State.updWg_tripReason (s : State) (p w : Nat) (f : Workgroup → Workgroup) : (s.updWg p w f).tripReason = s.tripReason := rfl
@[simp] theorem State.updWg_heldDies (s : State) (p w : Nat) (f : Workgroup → Workgroup) : (s.updWg p w f).heldDies = s.heldDies := rfl
@[simp] theorem State.updWg_heldBlocks (s : State) (p w : Nat) (f : Workgroup → Workgroup) : (s.updWg p w f).heldBlocks = s.heldBlocks := rfl
@[simp] theorem State.updWg_parties (s : State) (p w : Nat) (f : Workgroup → Workgroup) : (s.updWg p w f).parties = s.parties := rfl
@[simp] theorem State.updWg_cores (s : State) (p w : Nat) (f : Workgroup → Workgroup) : (s.updWg p w f).cores = s.cores := rfl
@[simp] theorem State.updWg_mem (s : State) (p w : Nat) (f : Workgroup → Workgroup) : (s.updWg p w f).mem = s.mem := rfl
@[simp] theorem State.updWg_dieCopies (s : State) (p w : Nat) (f : Workgroup → Workgroup) : (s.updWg p w f).dieCopies = s.dieCopies := rfl
@[simp] theorem State.updWg_filter (s : State) (p w : Nat) (f : Workgroup → Workgroup) : (s.updWg p w f).filter = s.filter := rfl
@[simp] theorem State.updWg_dieRequests (s : State) (p w : Nat) (f : Workgroup → Workgroup) : (s.updWg p w f).dieRequests = s.dieRequests := rfl
@[simp] theorem State.updWg_lazy (s : State) (p w : Nat) (f : Workgroup → Workgroup) : (s.updWg p w f).lazy = s.lazy := rfl
@[simp] theorem State.updWg_dirtyHolders (s : State) (p w : Nat) (f : Workgroup → Workgroup) : (s.updWg p w f).dirtyHolders = s.dirtyHolders := rfl
@[simp] theorem State.updWg_lastWriters (s : State) (p w : Nat) (f : Workgroup → Workgroup) : (s.updWg p w f).lastWriters = s.lastWriters := rfl
@[simp] theorem State.updWg_drains (s : State) (p w : Nat) (f : Workgroup → Workgroup) : (s.updWg p w f).drains = s.drains := rfl
@[simp] theorem State.updWg_held (s : State) (p w : Nat) (f : Workgroup → Workgroup) : (s.updWg p w f).held = s.held := rfl
@[simp] theorem State.updWg_asks (s : State) (p w : Nat) (f : Workgroup → Workgroup) : (s.updWg p w f).asks = s.asks := rfl
@[simp] theorem State.updWg_caches (s : State) (p w : Nat) (f : Workgroup → Workgroup) : (s.updWg p w f).caches = s.caches := rfl
@[simp] theorem State.updWg_banks (s : State) (p w : Nat) (f : Workgroup → Workgroup) : (s.updWg p w f).banks = s.banks := rfl
@[simp] theorem State.updWg_counted (s : State) (p w : Nat) (f : Workgroup → Workgroup) : (s.updWg p w f).counted = s.counted := rfl
@[simp] theorem State.updWg_tlb (s : State) (p w : Nat) (f : Workgroup → Workgroup) : (s.updWg p w f).tlb = s.tlb := rfl
@[simp] theorem State.updWg_text (s : State) (p w : Nat) (f : Workgroup → Workgroup) : (s.updWg p w f).text = s.text := rfl
@[simp] theorem State.updWg_kfmap (s : State) (p w : Nat) (f : Workgroup → Workgroup) : (s.updWg p w f).kfmap = s.kfmap := rfl
@[simp] theorem State.updWg_errors (s : State) (p w : Nat) (f : Workgroup → Workgroup) : (s.updWg p w f).errors = s.errors := rfl
@[simp] theorem State.updWg_retired (s : State) (p w : Nat) (f : Workgroup → Workgroup) : (s.updWg p w f).retired = s.retired := rfl
@[simp] theorem State.updWg_sparesUsed (s : State) (p w : Nat) (f : Workgroup → Workgroup) : (s.updWg p w f).sparesUsed = s.sparesUsed := rfl
@[simp] theorem State.updWg_copies (s : State) (p w : Nat) (f : Workgroup → Workgroup) : (s.updWg p w f).copies = s.copies := rfl
@[simp] theorem State.updWg_regions (s : State) (p w : Nat) (f : Workgroup → Workgroup) : (s.updWg p w f).regions = s.regions := rfl
@[simp] theorem State.updWg_mmas (s : State) (p w : Nat) (f : Workgroup → Workgroup) : (s.updWg p w f).mmas = s.mmas := rfl
@[simp] theorem State.updWg_contributions (s : State) (p w : Nat) (f : Workgroup → Workgroup) : (s.updWg p w f).contributions = s.contributions := rfl
@[simp] theorem State.updWg_tacks (s : State) (p w : Nat) (f : Workgroup → Workgroup) : (s.updWg p w f).tacks = s.tacks := rfl
@[simp] theorem State.updWg_partitions (s : State) (p w : Nat) (f : Workgroup → Workgroup) : (s.updWg p w f).partitions = s.partitions := rfl
@[simp] theorem State.updWg_regionValues (s : State) (p w : Nat) (f : Workgroup → Workgroup) : (s.updWg p w f).regionValues = s.regionValues := rfl
@[simp] theorem State.updWg_launches (s : State) (p w : Nat) (f : Workgroup → Workgroup) : (s.updWg p w f).launches = s.launches := rfl
@[simp] theorem State.updWg_ladders (s : State) (p w : Nat) (f : Workgroup → Workgroup) : (s.updWg p w f).ladders = s.ladders := rfl
@[simp] theorem State.updWg_darning (s : State) (p w : Nat) (f : Workgroup → Workgroup) : (s.updWg p w f).darning = s.darning := rfl
@[simp] theorem State.updWg_records (s : State) (p w : Nat) (f : Workgroup → Workgroup) : (s.updWg p w f).records = s.records := rfl
@[simp] theorem State.updWg_peers (s : State) (p w : Nat) (f : Workgroup → Workgroup) : (s.updWg p w f).peers = s.peers := rfl
@[simp] theorem State.updWg_slots (s : State) (p w : Nat) (f : Workgroup → Workgroup) : (s.updWg p w f).slots = s.slots := rfl
@[simp] theorem State.updWg_puts (s : State) (p w : Nat) (f : Workgroup → Workgroup) : (s.updWg p w f).puts = s.puts := rfl
@[simp] theorem State.updWg_fabric (s : State) (p w : Nat) (f : Workgroup → Workgroup) : (s.updWg p w f).fabric = s.fabric := rfl
@[simp] theorem State.updWg_sent (s : State) (p w : Nat) (f : Workgroup → Workgroup) : (s.updWg p w f).sent = s.sent := rfl
@[simp] theorem State.updWg_nextSeqs (s : State) (p w : Nat) (f : Workgroup → Workgroup) : (s.updWg p w f).nextSeqs = s.nextSeqs := rfl
@[simp] theorem State.updWg_acceptedSeqs (s : State) (p w : Nat) (f : Workgroup → Workgroup) : (s.updWg p w f).acceptedSeqs = s.acceptedSeqs := rfl
@[simp] theorem State.updWg_deadDevices (s : State) (p w : Nat) (f : Workgroup → Workgroup) : (s.updWg p w f).deadDevices = s.deadDevices := rfl
@[simp] theorem State.updWg_fenced (s : State) (p w : Nat) (f : Workgroup → Workgroup) : (s.updWg p w f).fenced = s.fenced := rfl
@[simp] theorem State.updWg_fencedAt (s : State) (p w : Nat) (f : Workgroup → Workgroup) : (s.updWg p w f).fencedAt = s.fencedAt := rfl
@[simp] theorem State.updWg_remoteCopies (s : State) (p w : Nat) (f : Workgroup → Workgroup) : (s.updWg p w f).remoteCopies = s.remoteCopies := rfl
@[simp] theorem State.updWg_sharers (s : State) (p w : Nat) (f : Workgroup → Workgroup) : (s.updWg p w f).sharers = s.sharers := rfl
@[simp] theorem State.updWg_ether (s : State) (p w : Nat) (f : Workgroup → Workgroup) : (s.updWg p w f).ether = s.ether := rfl
@[simp] theorem State.updWg_portsTried (s : State) (p w : Nat) (f : Workgroup → Workgroup) : (s.updWg p w f).portsTried = s.portsTried := rfl
@[simp] theorem State.updWg_outbox (s : State) (p w : Nat) (f : Workgroup → Workgroup) : (s.updWg p w f).outbox = s.outbox := rfl
@[simp] theorem State.updWg_slotsMeasured (s : State) (p w : Nat) (f : Workgroup → Workgroup) : (s.updWg p w f).slotsMeasured = s.slotsMeasured := rfl
@[simp] theorem State.updWg_slotsClosed (s : State) (p w : Nat) (f : Workgroup → Workgroup) : (s.updWg p w f).slotsClosed = s.slotsClosed := rfl

/-! ## `State.updPartition` -/

@[simp] theorem State.updPartition_agenda (s : State) (n : Nat) (f : Partition → Partition) : (s.updPartition n f).agenda = s.agenda := rfl
@[simp] theorem State.updPartition_actor (s : State) (n : Nat) (f : Partition → Partition) : (s.updPartition n f).actor = s.actor := rfl
@[simp] theorem State.updPartition_args (s : State) (n : Nat) (f : Partition → Partition) : (s.updPartition n f).args = s.args := rfl
@[simp] theorem State.updPartition_turn (s : State) (n : Nat) (f : Partition → Partition) : (s.updPartition n f).turn = s.turn := rfl
@[simp] theorem State.updPartition_choice (s : State) (n : Nat) (f : Partition → Partition) : (s.updPartition n f).choice = s.choice := rfl
@[simp] theorem State.updPartition_fresh (s : State) (n : Nat) (f : Partition → Partition) : (s.updPartition n f).fresh = s.fresh := rfl
@[simp] theorem State.updPartition_clk (s : State) (n : Nat) (f : Partition → Partition) : (s.updPartition n f).clk = s.clk := rfl
@[simp] theorem State.updPartition_powered (s : State) (n : Nat) (f : Partition → Partition) : (s.updPartition n f).powered = s.powered := rfl
@[simp] theorem State.updPartition_bootStatus (s : State) (n : Nat) (f : Partition → Partition) : (s.updPartition n f).bootStatus = s.bootStatus := rfl
@[simp] theorem State.updPartition_tripReason (s : State) (n : Nat) (f : Partition → Partition) : (s.updPartition n f).tripReason = s.tripReason := rfl
@[simp] theorem State.updPartition_heldDies (s : State) (n : Nat) (f : Partition → Partition) : (s.updPartition n f).heldDies = s.heldDies := rfl
@[simp] theorem State.updPartition_heldBlocks (s : State) (n : Nat) (f : Partition → Partition) : (s.updPartition n f).heldBlocks = s.heldBlocks := rfl
@[simp] theorem State.updPartition_parties (s : State) (n : Nat) (f : Partition → Partition) : (s.updPartition n f).parties = s.parties := rfl
@[simp] theorem State.updPartition_cores (s : State) (n : Nat) (f : Partition → Partition) : (s.updPartition n f).cores = s.cores := rfl
@[simp] theorem State.updPartition_mem (s : State) (n : Nat) (f : Partition → Partition) : (s.updPartition n f).mem = s.mem := rfl
@[simp] theorem State.updPartition_dieCopies (s : State) (n : Nat) (f : Partition → Partition) : (s.updPartition n f).dieCopies = s.dieCopies := rfl
@[simp] theorem State.updPartition_filter (s : State) (n : Nat) (f : Partition → Partition) : (s.updPartition n f).filter = s.filter := rfl
@[simp] theorem State.updPartition_dieRequests (s : State) (n : Nat) (f : Partition → Partition) : (s.updPartition n f).dieRequests = s.dieRequests := rfl
@[simp] theorem State.updPartition_lazy (s : State) (n : Nat) (f : Partition → Partition) : (s.updPartition n f).lazy = s.lazy := rfl
@[simp] theorem State.updPartition_dirtyHolders (s : State) (n : Nat) (f : Partition → Partition) : (s.updPartition n f).dirtyHolders = s.dirtyHolders := rfl
@[simp] theorem State.updPartition_lastWriters (s : State) (n : Nat) (f : Partition → Partition) : (s.updPartition n f).lastWriters = s.lastWriters := rfl
@[simp] theorem State.updPartition_drains (s : State) (n : Nat) (f : Partition → Partition) : (s.updPartition n f).drains = s.drains := rfl
@[simp] theorem State.updPartition_held (s : State) (n : Nat) (f : Partition → Partition) : (s.updPartition n f).held = s.held := rfl
@[simp] theorem State.updPartition_asks (s : State) (n : Nat) (f : Partition → Partition) : (s.updPartition n f).asks = s.asks := rfl
@[simp] theorem State.updPartition_caches (s : State) (n : Nat) (f : Partition → Partition) : (s.updPartition n f).caches = s.caches := rfl
@[simp] theorem State.updPartition_banks (s : State) (n : Nat) (f : Partition → Partition) : (s.updPartition n f).banks = s.banks := rfl
@[simp] theorem State.updPartition_counted (s : State) (n : Nat) (f : Partition → Partition) : (s.updPartition n f).counted = s.counted := rfl
@[simp] theorem State.updPartition_tlb (s : State) (n : Nat) (f : Partition → Partition) : (s.updPartition n f).tlb = s.tlb := rfl
@[simp] theorem State.updPartition_text (s : State) (n : Nat) (f : Partition → Partition) : (s.updPartition n f).text = s.text := rfl
@[simp] theorem State.updPartition_kfmap (s : State) (n : Nat) (f : Partition → Partition) : (s.updPartition n f).kfmap = s.kfmap := rfl
@[simp] theorem State.updPartition_errors (s : State) (n : Nat) (f : Partition → Partition) : (s.updPartition n f).errors = s.errors := rfl
@[simp] theorem State.updPartition_retired (s : State) (n : Nat) (f : Partition → Partition) : (s.updPartition n f).retired = s.retired := rfl
@[simp] theorem State.updPartition_sparesUsed (s : State) (n : Nat) (f : Partition → Partition) : (s.updPartition n f).sparesUsed = s.sparesUsed := rfl
@[simp] theorem State.updPartition_copies (s : State) (n : Nat) (f : Partition → Partition) : (s.updPartition n f).copies = s.copies := rfl
@[simp] theorem State.updPartition_regions (s : State) (n : Nat) (f : Partition → Partition) : (s.updPartition n f).regions = s.regions := rfl
@[simp] theorem State.updPartition_mmas (s : State) (n : Nat) (f : Partition → Partition) : (s.updPartition n f).mmas = s.mmas := rfl
@[simp] theorem State.updPartition_contributions (s : State) (n : Nat) (f : Partition → Partition) : (s.updPartition n f).contributions = s.contributions := rfl
@[simp] theorem State.updPartition_tacks (s : State) (n : Nat) (f : Partition → Partition) : (s.updPartition n f).tacks = s.tacks := rfl
@[simp] theorem State.updPartition_regionValues (s : State) (n : Nat) (f : Partition → Partition) : (s.updPartition n f).regionValues = s.regionValues := rfl
@[simp] theorem State.updPartition_launches (s : State) (n : Nat) (f : Partition → Partition) : (s.updPartition n f).launches = s.launches := rfl
@[simp] theorem State.updPartition_workgroups (s : State) (n : Nat) (f : Partition → Partition) : (s.updPartition n f).workgroups = s.workgroups := rfl
@[simp] theorem State.updPartition_ladders (s : State) (n : Nat) (f : Partition → Partition) : (s.updPartition n f).ladders = s.ladders := rfl
@[simp] theorem State.updPartition_darning (s : State) (n : Nat) (f : Partition → Partition) : (s.updPartition n f).darning = s.darning := rfl
@[simp] theorem State.updPartition_records (s : State) (n : Nat) (f : Partition → Partition) : (s.updPartition n f).records = s.records := rfl
@[simp] theorem State.updPartition_peers (s : State) (n : Nat) (f : Partition → Partition) : (s.updPartition n f).peers = s.peers := rfl
@[simp] theorem State.updPartition_slots (s : State) (n : Nat) (f : Partition → Partition) : (s.updPartition n f).slots = s.slots := rfl
@[simp] theorem State.updPartition_puts (s : State) (n : Nat) (f : Partition → Partition) : (s.updPartition n f).puts = s.puts := rfl
@[simp] theorem State.updPartition_fabric (s : State) (n : Nat) (f : Partition → Partition) : (s.updPartition n f).fabric = s.fabric := rfl
@[simp] theorem State.updPartition_sent (s : State) (n : Nat) (f : Partition → Partition) : (s.updPartition n f).sent = s.sent := rfl
@[simp] theorem State.updPartition_nextSeqs (s : State) (n : Nat) (f : Partition → Partition) : (s.updPartition n f).nextSeqs = s.nextSeqs := rfl
@[simp] theorem State.updPartition_acceptedSeqs (s : State) (n : Nat) (f : Partition → Partition) : (s.updPartition n f).acceptedSeqs = s.acceptedSeqs := rfl
@[simp] theorem State.updPartition_deadDevices (s : State) (n : Nat) (f : Partition → Partition) : (s.updPartition n f).deadDevices = s.deadDevices := rfl
@[simp] theorem State.updPartition_fenced (s : State) (n : Nat) (f : Partition → Partition) : (s.updPartition n f).fenced = s.fenced := rfl
@[simp] theorem State.updPartition_fencedAt (s : State) (n : Nat) (f : Partition → Partition) : (s.updPartition n f).fencedAt = s.fencedAt := rfl
@[simp] theorem State.updPartition_remoteCopies (s : State) (n : Nat) (f : Partition → Partition) : (s.updPartition n f).remoteCopies = s.remoteCopies := rfl
@[simp] theorem State.updPartition_sharers (s : State) (n : Nat) (f : Partition → Partition) : (s.updPartition n f).sharers = s.sharers := rfl
@[simp] theorem State.updPartition_ether (s : State) (n : Nat) (f : Partition → Partition) : (s.updPartition n f).ether = s.ether := rfl
@[simp] theorem State.updPartition_portsTried (s : State) (n : Nat) (f : Partition → Partition) : (s.updPartition n f).portsTried = s.portsTried := rfl
@[simp] theorem State.updPartition_outbox (s : State) (n : Nat) (f : Partition → Partition) : (s.updPartition n f).outbox = s.outbox := rfl
@[simp] theorem State.updPartition_slotsMeasured (s : State) (n : Nat) (f : Partition → Partition) : (s.updPartition n f).slotsMeasured = s.slotsMeasured := rfl
@[simp] theorem State.updPartition_slotsClosed (s : State) (n : Nat) (f : Partition → Partition) : (s.updPartition n f).slotsClosed = s.slotsClosed := rfl

/-! ## `State.updLaunch` -/

@[simp] theorem State.updLaunch_agenda (s : State) (p n : Nat) (f : Launch → Launch) : (s.updLaunch p n f).agenda = s.agenda := rfl
@[simp] theorem State.updLaunch_actor (s : State) (p n : Nat) (f : Launch → Launch) : (s.updLaunch p n f).actor = s.actor := rfl
@[simp] theorem State.updLaunch_args (s : State) (p n : Nat) (f : Launch → Launch) : (s.updLaunch p n f).args = s.args := rfl
@[simp] theorem State.updLaunch_turn (s : State) (p n : Nat) (f : Launch → Launch) : (s.updLaunch p n f).turn = s.turn := rfl
@[simp] theorem State.updLaunch_choice (s : State) (p n : Nat) (f : Launch → Launch) : (s.updLaunch p n f).choice = s.choice := rfl
@[simp] theorem State.updLaunch_fresh (s : State) (p n : Nat) (f : Launch → Launch) : (s.updLaunch p n f).fresh = s.fresh := rfl
@[simp] theorem State.updLaunch_clk (s : State) (p n : Nat) (f : Launch → Launch) : (s.updLaunch p n f).clk = s.clk := rfl
@[simp] theorem State.updLaunch_powered (s : State) (p n : Nat) (f : Launch → Launch) : (s.updLaunch p n f).powered = s.powered := rfl
@[simp] theorem State.updLaunch_bootStatus (s : State) (p n : Nat) (f : Launch → Launch) : (s.updLaunch p n f).bootStatus = s.bootStatus := rfl
@[simp] theorem State.updLaunch_tripReason (s : State) (p n : Nat) (f : Launch → Launch) : (s.updLaunch p n f).tripReason = s.tripReason := rfl
@[simp] theorem State.updLaunch_heldDies (s : State) (p n : Nat) (f : Launch → Launch) : (s.updLaunch p n f).heldDies = s.heldDies := rfl
@[simp] theorem State.updLaunch_heldBlocks (s : State) (p n : Nat) (f : Launch → Launch) : (s.updLaunch p n f).heldBlocks = s.heldBlocks := rfl
@[simp] theorem State.updLaunch_parties (s : State) (p n : Nat) (f : Launch → Launch) : (s.updLaunch p n f).parties = s.parties := rfl
@[simp] theorem State.updLaunch_cores (s : State) (p n : Nat) (f : Launch → Launch) : (s.updLaunch p n f).cores = s.cores := rfl
@[simp] theorem State.updLaunch_mem (s : State) (p n : Nat) (f : Launch → Launch) : (s.updLaunch p n f).mem = s.mem := rfl
@[simp] theorem State.updLaunch_dieCopies (s : State) (p n : Nat) (f : Launch → Launch) : (s.updLaunch p n f).dieCopies = s.dieCopies := rfl
@[simp] theorem State.updLaunch_filter (s : State) (p n : Nat) (f : Launch → Launch) : (s.updLaunch p n f).filter = s.filter := rfl
@[simp] theorem State.updLaunch_dieRequests (s : State) (p n : Nat) (f : Launch → Launch) : (s.updLaunch p n f).dieRequests = s.dieRequests := rfl
@[simp] theorem State.updLaunch_lazy (s : State) (p n : Nat) (f : Launch → Launch) : (s.updLaunch p n f).lazy = s.lazy := rfl
@[simp] theorem State.updLaunch_dirtyHolders (s : State) (p n : Nat) (f : Launch → Launch) : (s.updLaunch p n f).dirtyHolders = s.dirtyHolders := rfl
@[simp] theorem State.updLaunch_lastWriters (s : State) (p n : Nat) (f : Launch → Launch) : (s.updLaunch p n f).lastWriters = s.lastWriters := rfl
@[simp] theorem State.updLaunch_drains (s : State) (p n : Nat) (f : Launch → Launch) : (s.updLaunch p n f).drains = s.drains := rfl
@[simp] theorem State.updLaunch_held (s : State) (p n : Nat) (f : Launch → Launch) : (s.updLaunch p n f).held = s.held := rfl
@[simp] theorem State.updLaunch_asks (s : State) (p n : Nat) (f : Launch → Launch) : (s.updLaunch p n f).asks = s.asks := rfl
@[simp] theorem State.updLaunch_caches (s : State) (p n : Nat) (f : Launch → Launch) : (s.updLaunch p n f).caches = s.caches := rfl
@[simp] theorem State.updLaunch_banks (s : State) (p n : Nat) (f : Launch → Launch) : (s.updLaunch p n f).banks = s.banks := rfl
@[simp] theorem State.updLaunch_counted (s : State) (p n : Nat) (f : Launch → Launch) : (s.updLaunch p n f).counted = s.counted := rfl
@[simp] theorem State.updLaunch_tlb (s : State) (p n : Nat) (f : Launch → Launch) : (s.updLaunch p n f).tlb = s.tlb := rfl
@[simp] theorem State.updLaunch_text (s : State) (p n : Nat) (f : Launch → Launch) : (s.updLaunch p n f).text = s.text := rfl
@[simp] theorem State.updLaunch_kfmap (s : State) (p n : Nat) (f : Launch → Launch) : (s.updLaunch p n f).kfmap = s.kfmap := rfl
@[simp] theorem State.updLaunch_errors (s : State) (p n : Nat) (f : Launch → Launch) : (s.updLaunch p n f).errors = s.errors := rfl
@[simp] theorem State.updLaunch_retired (s : State) (p n : Nat) (f : Launch → Launch) : (s.updLaunch p n f).retired = s.retired := rfl
@[simp] theorem State.updLaunch_sparesUsed (s : State) (p n : Nat) (f : Launch → Launch) : (s.updLaunch p n f).sparesUsed = s.sparesUsed := rfl
@[simp] theorem State.updLaunch_copies (s : State) (p n : Nat) (f : Launch → Launch) : (s.updLaunch p n f).copies = s.copies := rfl
@[simp] theorem State.updLaunch_regions (s : State) (p n : Nat) (f : Launch → Launch) : (s.updLaunch p n f).regions = s.regions := rfl
@[simp] theorem State.updLaunch_mmas (s : State) (p n : Nat) (f : Launch → Launch) : (s.updLaunch p n f).mmas = s.mmas := rfl
@[simp] theorem State.updLaunch_contributions (s : State) (p n : Nat) (f : Launch → Launch) : (s.updLaunch p n f).contributions = s.contributions := rfl
@[simp] theorem State.updLaunch_tacks (s : State) (p n : Nat) (f : Launch → Launch) : (s.updLaunch p n f).tacks = s.tacks := rfl
@[simp] theorem State.updLaunch_partitions (s : State) (p n : Nat) (f : Launch → Launch) : (s.updLaunch p n f).partitions = s.partitions := rfl
@[simp] theorem State.updLaunch_regionValues (s : State) (p n : Nat) (f : Launch → Launch) : (s.updLaunch p n f).regionValues = s.regionValues := rfl
@[simp] theorem State.updLaunch_workgroups (s : State) (p n : Nat) (f : Launch → Launch) : (s.updLaunch p n f).workgroups = s.workgroups := rfl
@[simp] theorem State.updLaunch_ladders (s : State) (p n : Nat) (f : Launch → Launch) : (s.updLaunch p n f).ladders = s.ladders := rfl
@[simp] theorem State.updLaunch_darning (s : State) (p n : Nat) (f : Launch → Launch) : (s.updLaunch p n f).darning = s.darning := rfl
@[simp] theorem State.updLaunch_records (s : State) (p n : Nat) (f : Launch → Launch) : (s.updLaunch p n f).records = s.records := rfl
@[simp] theorem State.updLaunch_peers (s : State) (p n : Nat) (f : Launch → Launch) : (s.updLaunch p n f).peers = s.peers := rfl
@[simp] theorem State.updLaunch_slots (s : State) (p n : Nat) (f : Launch → Launch) : (s.updLaunch p n f).slots = s.slots := rfl
@[simp] theorem State.updLaunch_puts (s : State) (p n : Nat) (f : Launch → Launch) : (s.updLaunch p n f).puts = s.puts := rfl
@[simp] theorem State.updLaunch_fabric (s : State) (p n : Nat) (f : Launch → Launch) : (s.updLaunch p n f).fabric = s.fabric := rfl
@[simp] theorem State.updLaunch_sent (s : State) (p n : Nat) (f : Launch → Launch) : (s.updLaunch p n f).sent = s.sent := rfl
@[simp] theorem State.updLaunch_nextSeqs (s : State) (p n : Nat) (f : Launch → Launch) : (s.updLaunch p n f).nextSeqs = s.nextSeqs := rfl
@[simp] theorem State.updLaunch_acceptedSeqs (s : State) (p n : Nat) (f : Launch → Launch) : (s.updLaunch p n f).acceptedSeqs = s.acceptedSeqs := rfl
@[simp] theorem State.updLaunch_deadDevices (s : State) (p n : Nat) (f : Launch → Launch) : (s.updLaunch p n f).deadDevices = s.deadDevices := rfl
@[simp] theorem State.updLaunch_fenced (s : State) (p n : Nat) (f : Launch → Launch) : (s.updLaunch p n f).fenced = s.fenced := rfl
@[simp] theorem State.updLaunch_fencedAt (s : State) (p n : Nat) (f : Launch → Launch) : (s.updLaunch p n f).fencedAt = s.fencedAt := rfl
@[simp] theorem State.updLaunch_remoteCopies (s : State) (p n : Nat) (f : Launch → Launch) : (s.updLaunch p n f).remoteCopies = s.remoteCopies := rfl
@[simp] theorem State.updLaunch_sharers (s : State) (p n : Nat) (f : Launch → Launch) : (s.updLaunch p n f).sharers = s.sharers := rfl
@[simp] theorem State.updLaunch_ether (s : State) (p n : Nat) (f : Launch → Launch) : (s.updLaunch p n f).ether = s.ether := rfl
@[simp] theorem State.updLaunch_portsTried (s : State) (p n : Nat) (f : Launch → Launch) : (s.updLaunch p n f).portsTried = s.portsTried := rfl
@[simp] theorem State.updLaunch_outbox (s : State) (p n : Nat) (f : Launch → Launch) : (s.updLaunch p n f).outbox = s.outbox := rfl
@[simp] theorem State.updLaunch_slotsMeasured (s : State) (p n : Nat) (f : Launch → Launch) : (s.updLaunch p n f).slotsMeasured = s.slotsMeasured := rfl
@[simp] theorem State.updLaunch_slotsClosed (s : State) (p n : Nat) (f : Launch → Launch) : (s.updLaunch p n f).slotsClosed = s.slotsClosed := rfl

/-! ## `State.post` -/

@[simp] theorem State.post_agenda (s : State) (q : Option Nat) (d : Nat) (b : Bool) (r : FaultRec) : (s.post q d b r).agenda = s.agenda := rfl
@[simp] theorem State.post_actor (s : State) (q : Option Nat) (d : Nat) (b : Bool) (r : FaultRec) : (s.post q d b r).actor = s.actor := rfl
@[simp] theorem State.post_args (s : State) (q : Option Nat) (d : Nat) (b : Bool) (r : FaultRec) : (s.post q d b r).args = s.args := rfl
@[simp] theorem State.post_turn (s : State) (q : Option Nat) (d : Nat) (b : Bool) (r : FaultRec) : (s.post q d b r).turn = s.turn := rfl
@[simp] theorem State.post_choice (s : State) (q : Option Nat) (d : Nat) (b : Bool) (r : FaultRec) : (s.post q d b r).choice = s.choice := rfl
@[simp] theorem State.post_clk (s : State) (q : Option Nat) (d : Nat) (b : Bool) (r : FaultRec) : (s.post q d b r).clk = s.clk := rfl
@[simp] theorem State.post_powered (s : State) (q : Option Nat) (d : Nat) (b : Bool) (r : FaultRec) : (s.post q d b r).powered = s.powered := rfl
@[simp] theorem State.post_bootStatus (s : State) (q : Option Nat) (d : Nat) (b : Bool) (r : FaultRec) : (s.post q d b r).bootStatus = s.bootStatus := rfl
@[simp] theorem State.post_tripReason (s : State) (q : Option Nat) (d : Nat) (b : Bool) (r : FaultRec) : (s.post q d b r).tripReason = s.tripReason := rfl
@[simp] theorem State.post_heldDies (s : State) (q : Option Nat) (d : Nat) (b : Bool) (r : FaultRec) : (s.post q d b r).heldDies = s.heldDies := rfl
@[simp] theorem State.post_heldBlocks (s : State) (q : Option Nat) (d : Nat) (b : Bool) (r : FaultRec) : (s.post q d b r).heldBlocks = s.heldBlocks := rfl
@[simp] theorem State.post_parties (s : State) (q : Option Nat) (d : Nat) (b : Bool) (r : FaultRec) : (s.post q d b r).parties = s.parties := rfl
@[simp] theorem State.post_cores (s : State) (q : Option Nat) (d : Nat) (b : Bool) (r : FaultRec) : (s.post q d b r).cores = s.cores := rfl
@[simp] theorem State.post_mem (s : State) (q : Option Nat) (d : Nat) (b : Bool) (r : FaultRec) : (s.post q d b r).mem = s.mem := rfl
@[simp] theorem State.post_dieCopies (s : State) (q : Option Nat) (d : Nat) (b : Bool) (r : FaultRec) : (s.post q d b r).dieCopies = s.dieCopies := rfl
@[simp] theorem State.post_filter (s : State) (q : Option Nat) (d : Nat) (b : Bool) (r : FaultRec) : (s.post q d b r).filter = s.filter := rfl
@[simp] theorem State.post_dieRequests (s : State) (q : Option Nat) (d : Nat) (b : Bool) (r : FaultRec) : (s.post q d b r).dieRequests = s.dieRequests := rfl
@[simp] theorem State.post_lazy (s : State) (q : Option Nat) (d : Nat) (b : Bool) (r : FaultRec) : (s.post q d b r).lazy = s.lazy := rfl
@[simp] theorem State.post_dirtyHolders (s : State) (q : Option Nat) (d : Nat) (b : Bool) (r : FaultRec) : (s.post q d b r).dirtyHolders = s.dirtyHolders := rfl
@[simp] theorem State.post_lastWriters (s : State) (q : Option Nat) (d : Nat) (b : Bool) (r : FaultRec) : (s.post q d b r).lastWriters = s.lastWriters := rfl
@[simp] theorem State.post_drains (s : State) (q : Option Nat) (d : Nat) (b : Bool) (r : FaultRec) : (s.post q d b r).drains = s.drains := rfl
@[simp] theorem State.post_held (s : State) (q : Option Nat) (d : Nat) (b : Bool) (r : FaultRec) : (s.post q d b r).held = s.held := rfl
@[simp] theorem State.post_asks (s : State) (q : Option Nat) (d : Nat) (b : Bool) (r : FaultRec) : (s.post q d b r).asks = s.asks := rfl
@[simp] theorem State.post_caches (s : State) (q : Option Nat) (d : Nat) (b : Bool) (r : FaultRec) : (s.post q d b r).caches = s.caches := rfl
@[simp] theorem State.post_banks (s : State) (q : Option Nat) (d : Nat) (b : Bool) (r : FaultRec) : (s.post q d b r).banks = s.banks := rfl
@[simp] theorem State.post_counted (s : State) (q : Option Nat) (d : Nat) (b : Bool) (r : FaultRec) : (s.post q d b r).counted = s.counted := rfl
@[simp] theorem State.post_tlb (s : State) (q : Option Nat) (d : Nat) (b : Bool) (r : FaultRec) : (s.post q d b r).tlb = s.tlb := rfl
@[simp] theorem State.post_text (s : State) (q : Option Nat) (d : Nat) (b : Bool) (r : FaultRec) : (s.post q d b r).text = s.text := rfl
@[simp] theorem State.post_kfmap (s : State) (q : Option Nat) (d : Nat) (b : Bool) (r : FaultRec) : (s.post q d b r).kfmap = s.kfmap := rfl
@[simp] theorem State.post_errors (s : State) (q : Option Nat) (d : Nat) (b : Bool) (r : FaultRec) : (s.post q d b r).errors = s.errors := rfl
@[simp] theorem State.post_retired (s : State) (q : Option Nat) (d : Nat) (b : Bool) (r : FaultRec) : (s.post q d b r).retired = s.retired := rfl
@[simp] theorem State.post_sparesUsed (s : State) (q : Option Nat) (d : Nat) (b : Bool) (r : FaultRec) : (s.post q d b r).sparesUsed = s.sparesUsed := rfl
@[simp] theorem State.post_copies (s : State) (q : Option Nat) (d : Nat) (b : Bool) (r : FaultRec) : (s.post q d b r).copies = s.copies := rfl
@[simp] theorem State.post_regions (s : State) (q : Option Nat) (d : Nat) (b : Bool) (r : FaultRec) : (s.post q d b r).regions = s.regions := rfl
@[simp] theorem State.post_mmas (s : State) (q : Option Nat) (d : Nat) (b : Bool) (r : FaultRec) : (s.post q d b r).mmas = s.mmas := rfl
@[simp] theorem State.post_contributions (s : State) (q : Option Nat) (d : Nat) (b : Bool) (r : FaultRec) : (s.post q d b r).contributions = s.contributions := rfl
@[simp] theorem State.post_tacks (s : State) (q : Option Nat) (d : Nat) (b : Bool) (r : FaultRec) : (s.post q d b r).tacks = s.tacks := rfl
@[simp] theorem State.post_partitions (s : State) (q : Option Nat) (d : Nat) (b : Bool) (r : FaultRec) : (s.post q d b r).partitions = s.partitions := rfl
@[simp] theorem State.post_regionValues (s : State) (q : Option Nat) (d : Nat) (b : Bool) (r : FaultRec) : (s.post q d b r).regionValues = s.regionValues := rfl
@[simp] theorem State.post_launches (s : State) (q : Option Nat) (d : Nat) (b : Bool) (r : FaultRec) : (s.post q d b r).launches = s.launches := rfl
@[simp] theorem State.post_workgroups (s : State) (q : Option Nat) (d : Nat) (b : Bool) (r : FaultRec) : (s.post q d b r).workgroups = s.workgroups := rfl
@[simp] theorem State.post_ladders (s : State) (q : Option Nat) (d : Nat) (b : Bool) (r : FaultRec) : (s.post q d b r).ladders = s.ladders := rfl
@[simp] theorem State.post_darning (s : State) (q : Option Nat) (d : Nat) (b : Bool) (r : FaultRec) : (s.post q d b r).darning = s.darning := rfl
@[simp] theorem State.post_peers (s : State) (q : Option Nat) (d : Nat) (b : Bool) (r : FaultRec) : (s.post q d b r).peers = s.peers := rfl
@[simp] theorem State.post_slots (s : State) (q : Option Nat) (d : Nat) (b : Bool) (r : FaultRec) : (s.post q d b r).slots = s.slots := rfl
@[simp] theorem State.post_puts (s : State) (q : Option Nat) (d : Nat) (b : Bool) (r : FaultRec) : (s.post q d b r).puts = s.puts := rfl
@[simp] theorem State.post_fabric (s : State) (q : Option Nat) (d : Nat) (b : Bool) (r : FaultRec) : (s.post q d b r).fabric = s.fabric := rfl
@[simp] theorem State.post_sent (s : State) (q : Option Nat) (d : Nat) (b : Bool) (r : FaultRec) : (s.post q d b r).sent = s.sent := rfl
@[simp] theorem State.post_nextSeqs (s : State) (q : Option Nat) (d : Nat) (b : Bool) (r : FaultRec) : (s.post q d b r).nextSeqs = s.nextSeqs := rfl
@[simp] theorem State.post_acceptedSeqs (s : State) (q : Option Nat) (d : Nat) (b : Bool) (r : FaultRec) : (s.post q d b r).acceptedSeqs = s.acceptedSeqs := rfl
@[simp] theorem State.post_deadDevices (s : State) (q : Option Nat) (d : Nat) (b : Bool) (r : FaultRec) : (s.post q d b r).deadDevices = s.deadDevices := rfl
@[simp] theorem State.post_fenced (s : State) (q : Option Nat) (d : Nat) (b : Bool) (r : FaultRec) : (s.post q d b r).fenced = s.fenced := rfl
@[simp] theorem State.post_fencedAt (s : State) (q : Option Nat) (d : Nat) (b : Bool) (r : FaultRec) : (s.post q d b r).fencedAt = s.fencedAt := rfl
@[simp] theorem State.post_remoteCopies (s : State) (q : Option Nat) (d : Nat) (b : Bool) (r : FaultRec) : (s.post q d b r).remoteCopies = s.remoteCopies := rfl
@[simp] theorem State.post_sharers (s : State) (q : Option Nat) (d : Nat) (b : Bool) (r : FaultRec) : (s.post q d b r).sharers = s.sharers := rfl
@[simp] theorem State.post_ether (s : State) (q : Option Nat) (d : Nat) (b : Bool) (r : FaultRec) : (s.post q d b r).ether = s.ether := rfl
@[simp] theorem State.post_portsTried (s : State) (q : Option Nat) (d : Nat) (b : Bool) (r : FaultRec) : (s.post q d b r).portsTried = s.portsTried := rfl
@[simp] theorem State.post_outbox (s : State) (q : Option Nat) (d : Nat) (b : Bool) (r : FaultRec) : (s.post q d b r).outbox = s.outbox := rfl
@[simp] theorem State.post_slotsMeasured (s : State) (q : Option Nat) (d : Nat) (b : Bool) (r : FaultRec) : (s.post q d b r).slotsMeasured = s.slotsMeasured := rfl
@[simp] theorem State.post_slotsClosed (s : State) (q : Option Nat) (d : Nat) (b : Bool) (r : FaultRec) : (s.post q d b r).slotsClosed = s.slotsClosed := rfl

/-! ## `State.wrTo` -/

@[simp] theorem State.wrTo_agenda (s : State) (p : PartyId) (n : Nat) (v : DWord) : (s.wrTo p n v).agenda = s.agenda := rfl
@[simp] theorem State.wrTo_actor (s : State) (p : PartyId) (n : Nat) (v : DWord) : (s.wrTo p n v).actor = s.actor := rfl
@[simp] theorem State.wrTo_args (s : State) (p : PartyId) (n : Nat) (v : DWord) : (s.wrTo p n v).args = s.args := rfl
@[simp] theorem State.wrTo_turn (s : State) (p : PartyId) (n : Nat) (v : DWord) : (s.wrTo p n v).turn = s.turn := rfl
@[simp] theorem State.wrTo_choice (s : State) (p : PartyId) (n : Nat) (v : DWord) : (s.wrTo p n v).choice = s.choice := rfl
@[simp] theorem State.wrTo_fresh (s : State) (p : PartyId) (n : Nat) (v : DWord) : (s.wrTo p n v).fresh = s.fresh := rfl
@[simp] theorem State.wrTo_clk (s : State) (p : PartyId) (n : Nat) (v : DWord) : (s.wrTo p n v).clk = s.clk := rfl
@[simp] theorem State.wrTo_powered (s : State) (p : PartyId) (n : Nat) (v : DWord) : (s.wrTo p n v).powered = s.powered := rfl
@[simp] theorem State.wrTo_bootStatus (s : State) (p : PartyId) (n : Nat) (v : DWord) : (s.wrTo p n v).bootStatus = s.bootStatus := rfl
@[simp] theorem State.wrTo_tripReason (s : State) (p : PartyId) (n : Nat) (v : DWord) : (s.wrTo p n v).tripReason = s.tripReason := rfl
@[simp] theorem State.wrTo_heldDies (s : State) (p : PartyId) (n : Nat) (v : DWord) : (s.wrTo p n v).heldDies = s.heldDies := rfl
@[simp] theorem State.wrTo_heldBlocks (s : State) (p : PartyId) (n : Nat) (v : DWord) : (s.wrTo p n v).heldBlocks = s.heldBlocks := rfl
@[simp] theorem State.wrTo_cores (s : State) (p : PartyId) (n : Nat) (v : DWord) : (s.wrTo p n v).cores = s.cores := rfl
@[simp] theorem State.wrTo_mem (s : State) (p : PartyId) (n : Nat) (v : DWord) : (s.wrTo p n v).mem = s.mem := rfl
@[simp] theorem State.wrTo_dieCopies (s : State) (p : PartyId) (n : Nat) (v : DWord) : (s.wrTo p n v).dieCopies = s.dieCopies := rfl
@[simp] theorem State.wrTo_filter (s : State) (p : PartyId) (n : Nat) (v : DWord) : (s.wrTo p n v).filter = s.filter := rfl
@[simp] theorem State.wrTo_dieRequests (s : State) (p : PartyId) (n : Nat) (v : DWord) : (s.wrTo p n v).dieRequests = s.dieRequests := rfl
@[simp] theorem State.wrTo_lazy (s : State) (p : PartyId) (n : Nat) (v : DWord) : (s.wrTo p n v).lazy = s.lazy := rfl
@[simp] theorem State.wrTo_dirtyHolders (s : State) (p : PartyId) (n : Nat) (v : DWord) : (s.wrTo p n v).dirtyHolders = s.dirtyHolders := rfl
@[simp] theorem State.wrTo_lastWriters (s : State) (p : PartyId) (n : Nat) (v : DWord) : (s.wrTo p n v).lastWriters = s.lastWriters := rfl
@[simp] theorem State.wrTo_drains (s : State) (p : PartyId) (n : Nat) (v : DWord) : (s.wrTo p n v).drains = s.drains := rfl
@[simp] theorem State.wrTo_held (s : State) (p : PartyId) (n : Nat) (v : DWord) : (s.wrTo p n v).held = s.held := rfl
@[simp] theorem State.wrTo_asks (s : State) (p : PartyId) (n : Nat) (v : DWord) : (s.wrTo p n v).asks = s.asks := rfl
@[simp] theorem State.wrTo_caches (s : State) (p : PartyId) (n : Nat) (v : DWord) : (s.wrTo p n v).caches = s.caches := rfl
@[simp] theorem State.wrTo_banks (s : State) (p : PartyId) (n : Nat) (v : DWord) : (s.wrTo p n v).banks = s.banks := rfl
@[simp] theorem State.wrTo_counted (s : State) (p : PartyId) (n : Nat) (v : DWord) : (s.wrTo p n v).counted = s.counted := rfl
@[simp] theorem State.wrTo_tlb (s : State) (p : PartyId) (n : Nat) (v : DWord) : (s.wrTo p n v).tlb = s.tlb := rfl
@[simp] theorem State.wrTo_text (s : State) (p : PartyId) (n : Nat) (v : DWord) : (s.wrTo p n v).text = s.text := rfl
@[simp] theorem State.wrTo_kfmap (s : State) (p : PartyId) (n : Nat) (v : DWord) : (s.wrTo p n v).kfmap = s.kfmap := rfl
@[simp] theorem State.wrTo_retired (s : State) (p : PartyId) (n : Nat) (v : DWord) : (s.wrTo p n v).retired = s.retired := rfl
@[simp] theorem State.wrTo_sparesUsed (s : State) (p : PartyId) (n : Nat) (v : DWord) : (s.wrTo p n v).sparesUsed = s.sparesUsed := rfl
@[simp] theorem State.wrTo_copies (s : State) (p : PartyId) (n : Nat) (v : DWord) : (s.wrTo p n v).copies = s.copies := rfl
@[simp] theorem State.wrTo_regions (s : State) (p : PartyId) (n : Nat) (v : DWord) : (s.wrTo p n v).regions = s.regions := rfl
@[simp] theorem State.wrTo_mmas (s : State) (p : PartyId) (n : Nat) (v : DWord) : (s.wrTo p n v).mmas = s.mmas := rfl
@[simp] theorem State.wrTo_contributions (s : State) (p : PartyId) (n : Nat) (v : DWord) : (s.wrTo p n v).contributions = s.contributions := rfl
@[simp] theorem State.wrTo_tacks (s : State) (p : PartyId) (n : Nat) (v : DWord) : (s.wrTo p n v).tacks = s.tacks := rfl
@[simp] theorem State.wrTo_partitions (s : State) (p : PartyId) (n : Nat) (v : DWord) : (s.wrTo p n v).partitions = s.partitions := rfl
@[simp] theorem State.wrTo_regionValues (s : State) (p : PartyId) (n : Nat) (v : DWord) : (s.wrTo p n v).regionValues = s.regionValues := rfl
@[simp] theorem State.wrTo_launches (s : State) (p : PartyId) (n : Nat) (v : DWord) : (s.wrTo p n v).launches = s.launches := rfl
@[simp] theorem State.wrTo_workgroups (s : State) (p : PartyId) (n : Nat) (v : DWord) : (s.wrTo p n v).workgroups = s.workgroups := rfl
@[simp] theorem State.wrTo_ladders (s : State) (p : PartyId) (n : Nat) (v : DWord) : (s.wrTo p n v).ladders = s.ladders := rfl
@[simp] theorem State.wrTo_darning (s : State) (p : PartyId) (n : Nat) (v : DWord) : (s.wrTo p n v).darning = s.darning := rfl
@[simp] theorem State.wrTo_records (s : State) (p : PartyId) (n : Nat) (v : DWord) : (s.wrTo p n v).records = s.records := rfl
@[simp] theorem State.wrTo_peers (s : State) (p : PartyId) (n : Nat) (v : DWord) : (s.wrTo p n v).peers = s.peers := rfl
@[simp] theorem State.wrTo_slots (s : State) (p : PartyId) (n : Nat) (v : DWord) : (s.wrTo p n v).slots = s.slots := rfl
@[simp] theorem State.wrTo_puts (s : State) (p : PartyId) (n : Nat) (v : DWord) : (s.wrTo p n v).puts = s.puts := rfl
@[simp] theorem State.wrTo_fabric (s : State) (p : PartyId) (n : Nat) (v : DWord) : (s.wrTo p n v).fabric = s.fabric := rfl
@[simp] theorem State.wrTo_sent (s : State) (p : PartyId) (n : Nat) (v : DWord) : (s.wrTo p n v).sent = s.sent := rfl
@[simp] theorem State.wrTo_nextSeqs (s : State) (p : PartyId) (n : Nat) (v : DWord) : (s.wrTo p n v).nextSeqs = s.nextSeqs := rfl
@[simp] theorem State.wrTo_acceptedSeqs (s : State) (p : PartyId) (n : Nat) (v : DWord) : (s.wrTo p n v).acceptedSeqs = s.acceptedSeqs := rfl
@[simp] theorem State.wrTo_deadDevices (s : State) (p : PartyId) (n : Nat) (v : DWord) : (s.wrTo p n v).deadDevices = s.deadDevices := rfl
@[simp] theorem State.wrTo_fenced (s : State) (p : PartyId) (n : Nat) (v : DWord) : (s.wrTo p n v).fenced = s.fenced := rfl
@[simp] theorem State.wrTo_fencedAt (s : State) (p : PartyId) (n : Nat) (v : DWord) : (s.wrTo p n v).fencedAt = s.fencedAt := rfl
@[simp] theorem State.wrTo_remoteCopies (s : State) (p : PartyId) (n : Nat) (v : DWord) : (s.wrTo p n v).remoteCopies = s.remoteCopies := rfl
@[simp] theorem State.wrTo_sharers (s : State) (p : PartyId) (n : Nat) (v : DWord) : (s.wrTo p n v).sharers = s.sharers := rfl
@[simp] theorem State.wrTo_ether (s : State) (p : PartyId) (n : Nat) (v : DWord) : (s.wrTo p n v).ether = s.ether := rfl
@[simp] theorem State.wrTo_portsTried (s : State) (p : PartyId) (n : Nat) (v : DWord) : (s.wrTo p n v).portsTried = s.portsTried := rfl
@[simp] theorem State.wrTo_outbox (s : State) (p : PartyId) (n : Nat) (v : DWord) : (s.wrTo p n v).outbox = s.outbox := rfl
@[simp] theorem State.wrTo_slotsMeasured (s : State) (p : PartyId) (n : Nat) (v : DWord) : (s.wrTo p n v).slotsMeasured = s.slotsMeasured := rfl
@[simp] theorem State.wrTo_slotsClosed (s : State) (p : PartyId) (n : Nat) (v : DWord) : (s.wrTo p n v).slotsClosed = s.slotsClosed := rfl

/-! ## `State.wrV` -/

@[simp] theorem State.wrV_agenda (s : State) (p : PartyId) (n t : Nat) (v : Word) : (s.wrV p n t v).agenda = s.agenda := rfl
@[simp] theorem State.wrV_actor (s : State) (p : PartyId) (n t : Nat) (v : Word) : (s.wrV p n t v).actor = s.actor := rfl
@[simp] theorem State.wrV_args (s : State) (p : PartyId) (n t : Nat) (v : Word) : (s.wrV p n t v).args = s.args := rfl
@[simp] theorem State.wrV_turn (s : State) (p : PartyId) (n t : Nat) (v : Word) : (s.wrV p n t v).turn = s.turn := rfl
@[simp] theorem State.wrV_choice (s : State) (p : PartyId) (n t : Nat) (v : Word) : (s.wrV p n t v).choice = s.choice := rfl
@[simp] theorem State.wrV_fresh (s : State) (p : PartyId) (n t : Nat) (v : Word) : (s.wrV p n t v).fresh = s.fresh := rfl
@[simp] theorem State.wrV_clk (s : State) (p : PartyId) (n t : Nat) (v : Word) : (s.wrV p n t v).clk = s.clk := rfl
@[simp] theorem State.wrV_powered (s : State) (p : PartyId) (n t : Nat) (v : Word) : (s.wrV p n t v).powered = s.powered := rfl
@[simp] theorem State.wrV_bootStatus (s : State) (p : PartyId) (n t : Nat) (v : Word) : (s.wrV p n t v).bootStatus = s.bootStatus := rfl
@[simp] theorem State.wrV_tripReason (s : State) (p : PartyId) (n t : Nat) (v : Word) : (s.wrV p n t v).tripReason = s.tripReason := rfl
@[simp] theorem State.wrV_heldDies (s : State) (p : PartyId) (n t : Nat) (v : Word) : (s.wrV p n t v).heldDies = s.heldDies := rfl
@[simp] theorem State.wrV_heldBlocks (s : State) (p : PartyId) (n t : Nat) (v : Word) : (s.wrV p n t v).heldBlocks = s.heldBlocks := rfl
@[simp] theorem State.wrV_cores (s : State) (p : PartyId) (n t : Nat) (v : Word) : (s.wrV p n t v).cores = s.cores := rfl
@[simp] theorem State.wrV_mem (s : State) (p : PartyId) (n t : Nat) (v : Word) : (s.wrV p n t v).mem = s.mem := rfl
@[simp] theorem State.wrV_dieCopies (s : State) (p : PartyId) (n t : Nat) (v : Word) : (s.wrV p n t v).dieCopies = s.dieCopies := rfl
@[simp] theorem State.wrV_filter (s : State) (p : PartyId) (n t : Nat) (v : Word) : (s.wrV p n t v).filter = s.filter := rfl
@[simp] theorem State.wrV_dieRequests (s : State) (p : PartyId) (n t : Nat) (v : Word) : (s.wrV p n t v).dieRequests = s.dieRequests := rfl
@[simp] theorem State.wrV_lazy (s : State) (p : PartyId) (n t : Nat) (v : Word) : (s.wrV p n t v).lazy = s.lazy := rfl
@[simp] theorem State.wrV_dirtyHolders (s : State) (p : PartyId) (n t : Nat) (v : Word) : (s.wrV p n t v).dirtyHolders = s.dirtyHolders := rfl
@[simp] theorem State.wrV_lastWriters (s : State) (p : PartyId) (n t : Nat) (v : Word) : (s.wrV p n t v).lastWriters = s.lastWriters := rfl
@[simp] theorem State.wrV_drains (s : State) (p : PartyId) (n t : Nat) (v : Word) : (s.wrV p n t v).drains = s.drains := rfl
@[simp] theorem State.wrV_held (s : State) (p : PartyId) (n t : Nat) (v : Word) : (s.wrV p n t v).held = s.held := rfl
@[simp] theorem State.wrV_asks (s : State) (p : PartyId) (n t : Nat) (v : Word) : (s.wrV p n t v).asks = s.asks := rfl
@[simp] theorem State.wrV_caches (s : State) (p : PartyId) (n t : Nat) (v : Word) : (s.wrV p n t v).caches = s.caches := rfl
@[simp] theorem State.wrV_banks (s : State) (p : PartyId) (n t : Nat) (v : Word) : (s.wrV p n t v).banks = s.banks := rfl
@[simp] theorem State.wrV_counted (s : State) (p : PartyId) (n t : Nat) (v : Word) : (s.wrV p n t v).counted = s.counted := rfl
@[simp] theorem State.wrV_tlb (s : State) (p : PartyId) (n t : Nat) (v : Word) : (s.wrV p n t v).tlb = s.tlb := rfl
@[simp] theorem State.wrV_text (s : State) (p : PartyId) (n t : Nat) (v : Word) : (s.wrV p n t v).text = s.text := rfl
@[simp] theorem State.wrV_kfmap (s : State) (p : PartyId) (n t : Nat) (v : Word) : (s.wrV p n t v).kfmap = s.kfmap := rfl
@[simp] theorem State.wrV_retired (s : State) (p : PartyId) (n t : Nat) (v : Word) : (s.wrV p n t v).retired = s.retired := rfl
@[simp] theorem State.wrV_sparesUsed (s : State) (p : PartyId) (n t : Nat) (v : Word) : (s.wrV p n t v).sparesUsed = s.sparesUsed := rfl
@[simp] theorem State.wrV_copies (s : State) (p : PartyId) (n t : Nat) (v : Word) : (s.wrV p n t v).copies = s.copies := rfl
@[simp] theorem State.wrV_regions (s : State) (p : PartyId) (n t : Nat) (v : Word) : (s.wrV p n t v).regions = s.regions := rfl
@[simp] theorem State.wrV_mmas (s : State) (p : PartyId) (n t : Nat) (v : Word) : (s.wrV p n t v).mmas = s.mmas := rfl
@[simp] theorem State.wrV_contributions (s : State) (p : PartyId) (n t : Nat) (v : Word) : (s.wrV p n t v).contributions = s.contributions := rfl
@[simp] theorem State.wrV_tacks (s : State) (p : PartyId) (n t : Nat) (v : Word) : (s.wrV p n t v).tacks = s.tacks := rfl
@[simp] theorem State.wrV_partitions (s : State) (p : PartyId) (n t : Nat) (v : Word) : (s.wrV p n t v).partitions = s.partitions := rfl
@[simp] theorem State.wrV_regionValues (s : State) (p : PartyId) (n t : Nat) (v : Word) : (s.wrV p n t v).regionValues = s.regionValues := rfl
@[simp] theorem State.wrV_launches (s : State) (p : PartyId) (n t : Nat) (v : Word) : (s.wrV p n t v).launches = s.launches := rfl
@[simp] theorem State.wrV_workgroups (s : State) (p : PartyId) (n t : Nat) (v : Word) : (s.wrV p n t v).workgroups = s.workgroups := rfl
@[simp] theorem State.wrV_ladders (s : State) (p : PartyId) (n t : Nat) (v : Word) : (s.wrV p n t v).ladders = s.ladders := rfl
@[simp] theorem State.wrV_darning (s : State) (p : PartyId) (n t : Nat) (v : Word) : (s.wrV p n t v).darning = s.darning := rfl
@[simp] theorem State.wrV_records (s : State) (p : PartyId) (n t : Nat) (v : Word) : (s.wrV p n t v).records = s.records := rfl
@[simp] theorem State.wrV_peers (s : State) (p : PartyId) (n t : Nat) (v : Word) : (s.wrV p n t v).peers = s.peers := rfl
@[simp] theorem State.wrV_slots (s : State) (p : PartyId) (n t : Nat) (v : Word) : (s.wrV p n t v).slots = s.slots := rfl
@[simp] theorem State.wrV_puts (s : State) (p : PartyId) (n t : Nat) (v : Word) : (s.wrV p n t v).puts = s.puts := rfl
@[simp] theorem State.wrV_fabric (s : State) (p : PartyId) (n t : Nat) (v : Word) : (s.wrV p n t v).fabric = s.fabric := rfl
@[simp] theorem State.wrV_sent (s : State) (p : PartyId) (n t : Nat) (v : Word) : (s.wrV p n t v).sent = s.sent := rfl
@[simp] theorem State.wrV_nextSeqs (s : State) (p : PartyId) (n t : Nat) (v : Word) : (s.wrV p n t v).nextSeqs = s.nextSeqs := rfl
@[simp] theorem State.wrV_acceptedSeqs (s : State) (p : PartyId) (n t : Nat) (v : Word) : (s.wrV p n t v).acceptedSeqs = s.acceptedSeqs := rfl
@[simp] theorem State.wrV_deadDevices (s : State) (p : PartyId) (n t : Nat) (v : Word) : (s.wrV p n t v).deadDevices = s.deadDevices := rfl
@[simp] theorem State.wrV_fenced (s : State) (p : PartyId) (n t : Nat) (v : Word) : (s.wrV p n t v).fenced = s.fenced := rfl
@[simp] theorem State.wrV_fencedAt (s : State) (p : PartyId) (n t : Nat) (v : Word) : (s.wrV p n t v).fencedAt = s.fencedAt := rfl
@[simp] theorem State.wrV_remoteCopies (s : State) (p : PartyId) (n t : Nat) (v : Word) : (s.wrV p n t v).remoteCopies = s.remoteCopies := rfl
@[simp] theorem State.wrV_sharers (s : State) (p : PartyId) (n t : Nat) (v : Word) : (s.wrV p n t v).sharers = s.sharers := rfl
@[simp] theorem State.wrV_ether (s : State) (p : PartyId) (n t : Nat) (v : Word) : (s.wrV p n t v).ether = s.ether := rfl
@[simp] theorem State.wrV_portsTried (s : State) (p : PartyId) (n t : Nat) (v : Word) : (s.wrV p n t v).portsTried = s.portsTried := rfl
@[simp] theorem State.wrV_outbox (s : State) (p : PartyId) (n t : Nat) (v : Word) : (s.wrV p n t v).outbox = s.outbox := rfl
@[simp] theorem State.wrV_slotsMeasured (s : State) (p : PartyId) (n t : Nat) (v : Word) : (s.wrV p n t v).slotsMeasured = s.slotsMeasured := rfl
@[simp] theorem State.wrV_slotsClosed (s : State) (p : PartyId) (n t : Nat) (v : Word) : (s.wrV p n t v).slotsClosed = s.slotsClosed := rfl

/-! ## `State.fault` -/

@[simp] theorem State.fault_agenda (s : State) (p : PartyId) (c : FaultClass) (u : FaultUnit) (i : FaultInfo) : (s.fault p c u i).agenda = s.agenda := rfl
@[simp] theorem State.fault_actor (s : State) (p : PartyId) (c : FaultClass) (u : FaultUnit) (i : FaultInfo) : (s.fault p c u i).actor = s.actor := rfl
@[simp] theorem State.fault_args (s : State) (p : PartyId) (c : FaultClass) (u : FaultUnit) (i : FaultInfo) : (s.fault p c u i).args = s.args := rfl
@[simp] theorem State.fault_turn (s : State) (p : PartyId) (c : FaultClass) (u : FaultUnit) (i : FaultInfo) : (s.fault p c u i).turn = s.turn := rfl
@[simp] theorem State.fault_choice (s : State) (p : PartyId) (c : FaultClass) (u : FaultUnit) (i : FaultInfo) : (s.fault p c u i).choice = s.choice := rfl
@[simp] theorem State.fault_clk (s : State) (p : PartyId) (c : FaultClass) (u : FaultUnit) (i : FaultInfo) : (s.fault p c u i).clk = s.clk := rfl
@[simp] theorem State.fault_powered (s : State) (p : PartyId) (c : FaultClass) (u : FaultUnit) (i : FaultInfo) : (s.fault p c u i).powered = s.powered := rfl
@[simp] theorem State.fault_bootStatus (s : State) (p : PartyId) (c : FaultClass) (u : FaultUnit) (i : FaultInfo) : (s.fault p c u i).bootStatus = s.bootStatus := rfl
@[simp] theorem State.fault_tripReason (s : State) (p : PartyId) (c : FaultClass) (u : FaultUnit) (i : FaultInfo) : (s.fault p c u i).tripReason = s.tripReason := rfl
@[simp] theorem State.fault_heldDies (s : State) (p : PartyId) (c : FaultClass) (u : FaultUnit) (i : FaultInfo) : (s.fault p c u i).heldDies = s.heldDies := rfl
@[simp] theorem State.fault_heldBlocks (s : State) (p : PartyId) (c : FaultClass) (u : FaultUnit) (i : FaultInfo) : (s.fault p c u i).heldBlocks = s.heldBlocks := rfl
@[simp] theorem State.fault_cores (s : State) (p : PartyId) (c : FaultClass) (u : FaultUnit) (i : FaultInfo) : (s.fault p c u i).cores = s.cores := rfl
@[simp] theorem State.fault_mem (s : State) (p : PartyId) (c : FaultClass) (u : FaultUnit) (i : FaultInfo) : (s.fault p c u i).mem = s.mem := rfl
@[simp] theorem State.fault_dieCopies (s : State) (p : PartyId) (c : FaultClass) (u : FaultUnit) (i : FaultInfo) : (s.fault p c u i).dieCopies = s.dieCopies := rfl
@[simp] theorem State.fault_filter (s : State) (p : PartyId) (c : FaultClass) (u : FaultUnit) (i : FaultInfo) : (s.fault p c u i).filter = s.filter := rfl
@[simp] theorem State.fault_dieRequests (s : State) (p : PartyId) (c : FaultClass) (u : FaultUnit) (i : FaultInfo) : (s.fault p c u i).dieRequests = s.dieRequests := rfl
@[simp] theorem State.fault_lazy (s : State) (p : PartyId) (c : FaultClass) (u : FaultUnit) (i : FaultInfo) : (s.fault p c u i).lazy = s.lazy := rfl
@[simp] theorem State.fault_dirtyHolders (s : State) (p : PartyId) (c : FaultClass) (u : FaultUnit) (i : FaultInfo) : (s.fault p c u i).dirtyHolders = s.dirtyHolders := rfl
@[simp] theorem State.fault_lastWriters (s : State) (p : PartyId) (c : FaultClass) (u : FaultUnit) (i : FaultInfo) : (s.fault p c u i).lastWriters = s.lastWriters := rfl
@[simp] theorem State.fault_drains (s : State) (p : PartyId) (c : FaultClass) (u : FaultUnit) (i : FaultInfo) : (s.fault p c u i).drains = s.drains := rfl
@[simp] theorem State.fault_held (s : State) (p : PartyId) (c : FaultClass) (u : FaultUnit) (i : FaultInfo) : (s.fault p c u i).held = s.held := rfl
@[simp] theorem State.fault_asks (s : State) (p : PartyId) (c : FaultClass) (u : FaultUnit) (i : FaultInfo) : (s.fault p c u i).asks = s.asks := rfl
@[simp] theorem State.fault_caches (s : State) (p : PartyId) (c : FaultClass) (u : FaultUnit) (i : FaultInfo) : (s.fault p c u i).caches = s.caches := rfl
@[simp] theorem State.fault_banks (s : State) (p : PartyId) (c : FaultClass) (u : FaultUnit) (i : FaultInfo) : (s.fault p c u i).banks = s.banks := rfl
@[simp] theorem State.fault_counted (s : State) (p : PartyId) (c : FaultClass) (u : FaultUnit) (i : FaultInfo) : (s.fault p c u i).counted = s.counted := rfl
@[simp] theorem State.fault_tlb (s : State) (p : PartyId) (c : FaultClass) (u : FaultUnit) (i : FaultInfo) : (s.fault p c u i).tlb = s.tlb := rfl
@[simp] theorem State.fault_text (s : State) (p : PartyId) (c : FaultClass) (u : FaultUnit) (i : FaultInfo) : (s.fault p c u i).text = s.text := rfl
@[simp] theorem State.fault_kfmap (s : State) (p : PartyId) (c : FaultClass) (u : FaultUnit) (i : FaultInfo) : (s.fault p c u i).kfmap = s.kfmap := rfl
@[simp] theorem State.fault_errors (s : State) (p : PartyId) (c : FaultClass) (u : FaultUnit) (i : FaultInfo) : (s.fault p c u i).errors = s.errors := rfl
@[simp] theorem State.fault_retired (s : State) (p : PartyId) (c : FaultClass) (u : FaultUnit) (i : FaultInfo) : (s.fault p c u i).retired = s.retired := rfl
@[simp] theorem State.fault_sparesUsed (s : State) (p : PartyId) (c : FaultClass) (u : FaultUnit) (i : FaultInfo) : (s.fault p c u i).sparesUsed = s.sparesUsed := rfl
@[simp] theorem State.fault_copies (s : State) (p : PartyId) (c : FaultClass) (u : FaultUnit) (i : FaultInfo) : (s.fault p c u i).copies = s.copies := rfl
@[simp] theorem State.fault_regions (s : State) (p : PartyId) (c : FaultClass) (u : FaultUnit) (i : FaultInfo) : (s.fault p c u i).regions = s.regions := rfl
@[simp] theorem State.fault_mmas (s : State) (p : PartyId) (c : FaultClass) (u : FaultUnit) (i : FaultInfo) : (s.fault p c u i).mmas = s.mmas := rfl
@[simp] theorem State.fault_contributions (s : State) (p : PartyId) (c : FaultClass) (u : FaultUnit) (i : FaultInfo) : (s.fault p c u i).contributions = s.contributions := rfl
@[simp] theorem State.fault_tacks (s : State) (p : PartyId) (c : FaultClass) (u : FaultUnit) (i : FaultInfo) : (s.fault p c u i).tacks = s.tacks := rfl
@[simp] theorem State.fault_partitions (s : State) (p : PartyId) (c : FaultClass) (u : FaultUnit) (i : FaultInfo) : (s.fault p c u i).partitions = s.partitions := rfl
@[simp] theorem State.fault_regionValues (s : State) (p : PartyId) (c : FaultClass) (u : FaultUnit) (i : FaultInfo) : (s.fault p c u i).regionValues = s.regionValues := rfl
@[simp] theorem State.fault_launches (s : State) (p : PartyId) (c : FaultClass) (u : FaultUnit) (i : FaultInfo) : (s.fault p c u i).launches = s.launches := rfl
@[simp] theorem State.fault_workgroups (s : State) (p : PartyId) (c : FaultClass) (u : FaultUnit) (i : FaultInfo) : (s.fault p c u i).workgroups = s.workgroups := rfl
@[simp] theorem State.fault_ladders (s : State) (p : PartyId) (c : FaultClass) (u : FaultUnit) (i : FaultInfo) : (s.fault p c u i).ladders = s.ladders := rfl
@[simp] theorem State.fault_darning (s : State) (p : PartyId) (c : FaultClass) (u : FaultUnit) (i : FaultInfo) : (s.fault p c u i).darning = s.darning := rfl
@[simp] theorem State.fault_peers (s : State) (p : PartyId) (c : FaultClass) (u : FaultUnit) (i : FaultInfo) : (s.fault p c u i).peers = s.peers := rfl
@[simp] theorem State.fault_slots (s : State) (p : PartyId) (c : FaultClass) (u : FaultUnit) (i : FaultInfo) : (s.fault p c u i).slots = s.slots := rfl
@[simp] theorem State.fault_puts (s : State) (p : PartyId) (c : FaultClass) (u : FaultUnit) (i : FaultInfo) : (s.fault p c u i).puts = s.puts := rfl
@[simp] theorem State.fault_fabric (s : State) (p : PartyId) (c : FaultClass) (u : FaultUnit) (i : FaultInfo) : (s.fault p c u i).fabric = s.fabric := rfl
@[simp] theorem State.fault_sent (s : State) (p : PartyId) (c : FaultClass) (u : FaultUnit) (i : FaultInfo) : (s.fault p c u i).sent = s.sent := rfl
@[simp] theorem State.fault_nextSeqs (s : State) (p : PartyId) (c : FaultClass) (u : FaultUnit) (i : FaultInfo) : (s.fault p c u i).nextSeqs = s.nextSeqs := rfl
@[simp] theorem State.fault_acceptedSeqs (s : State) (p : PartyId) (c : FaultClass) (u : FaultUnit) (i : FaultInfo) : (s.fault p c u i).acceptedSeqs = s.acceptedSeqs := rfl
@[simp] theorem State.fault_deadDevices (s : State) (p : PartyId) (c : FaultClass) (u : FaultUnit) (i : FaultInfo) : (s.fault p c u i).deadDevices = s.deadDevices := rfl
@[simp] theorem State.fault_fenced (s : State) (p : PartyId) (c : FaultClass) (u : FaultUnit) (i : FaultInfo) : (s.fault p c u i).fenced = s.fenced := rfl
@[simp] theorem State.fault_fencedAt (s : State) (p : PartyId) (c : FaultClass) (u : FaultUnit) (i : FaultInfo) : (s.fault p c u i).fencedAt = s.fencedAt := rfl
@[simp] theorem State.fault_remoteCopies (s : State) (p : PartyId) (c : FaultClass) (u : FaultUnit) (i : FaultInfo) : (s.fault p c u i).remoteCopies = s.remoteCopies := rfl
@[simp] theorem State.fault_sharers (s : State) (p : PartyId) (c : FaultClass) (u : FaultUnit) (i : FaultInfo) : (s.fault p c u i).sharers = s.sharers := rfl
@[simp] theorem State.fault_ether (s : State) (p : PartyId) (c : FaultClass) (u : FaultUnit) (i : FaultInfo) : (s.fault p c u i).ether = s.ether := rfl
@[simp] theorem State.fault_portsTried (s : State) (p : PartyId) (c : FaultClass) (u : FaultUnit) (i : FaultInfo) : (s.fault p c u i).portsTried = s.portsTried := rfl
@[simp] theorem State.fault_outbox (s : State) (p : PartyId) (c : FaultClass) (u : FaultUnit) (i : FaultInfo) : (s.fault p c u i).outbox = s.outbox := rfl
@[simp] theorem State.fault_slotsMeasured (s : State) (p : PartyId) (c : FaultClass) (u : FaultUnit) (i : FaultInfo) : (s.fault p c u i).slotsMeasured = s.slotsMeasured := rfl
@[simp] theorem State.fault_slotsClosed (s : State) (p : PartyId) (c : FaultClass) (u : FaultUnit) (i : FaultInfo) : (s.fault p c u i).slotsClosed = s.slotsClosed := rfl

end Sys2Proof.Machine
end

