-- ==== Sys2Proof/Laws/Parties.lean ====
section
/-!
SUPPORT. Parties and their registers: what an update of one party leaves of it and of the others, and what the shared
scalar operations leave.
-/

namespace Sys2Proof.Machine

/-! ## One party is updated -/

/-- An update keeps who a party is. -/
def KeepsId (f : Party → Party) : Prop := ∀ q, (f q).id = q.id

theorem party?_id {s : State} {p : PartyId} {q : Party} (h : s.party? p = some q) : q.id = p := by
  have := List.find?_some h
  simpa using this

theorem State.party?_updParty (s : State) (p q : PartyId) (f : Party → Party) (hf : KeepsId f) :
    (s.updParty p f).party? q = (s.party? q).map fun x => if q = p then f x else x := by
  unfold State.party? State.updParty
  simp only
  induction s.parties with
  | nil => rfl
  | cons x r ih =>
    simp only [List.map_cons, List.find?_cons]
    have hid : (if x.id = p then f x else x).id = x.id := by split <;> simp [hf x]
    rw [hid]
    by_cases hx : x.id = q
    · subst hx; simp
    · simp [hx, ih]

theorem State.party_updParty_self (s : State) (p : PartyId) (f : Party → Party) (hf : KeepsId f)
    (h : (s.party? p).isSome) : (s.updParty p f).party p = f (s.party p) := by
  obtain ⟨q, hq⟩ := Option.isSome_iff_exists.1 h
  simp [State.party, State.party?_updParty _ _ _ _ hf, hq]

theorem State.party_updParty_other (s : State) (p q : PartyId) (f : Party → Party) (hf : KeepsId f) (h : q ≠ p) :
    (s.updParty p f).party q = s.party q := by
  simp only [State.party, State.party?_updParty _ _ _ _ hf, if_neg h]
  cases s.party? q <;> rfl

theorem State.party_id (s : State) (p : PartyId) : (s.party p).id = p := by
  unfold State.party
  cases h : s.party? p with
  | none => rfl
  | some q => exact party?_id h

/-- Changing errors, or the supply of numbers, changes no party. -/
theorem State.party_congr {s t : State} (h : s.parties = t.parties) (p : PartyId) : s.party p = t.party p := by
  unfold State.party State.party?
  rw [h]

theorem State.party?_congr {s t : State} (h : s.parties = t.parties) (p : PartyId) : s.party? p = t.party? p := by
  unfold State.party?
  rw [h]

/-! ## Registers of a party -/

@[simp] theorem Party.sreg_zero (q : Party) : q.sreg 0 = 0 := rfl

@[simp] theorem Party.sreg_setSreg (q : Party) (n m : Nat) (v : DWord) :
    (q.setSreg n v).sreg m = if m = n ∧ n ≠ 0 then v else q.sreg m := by
  unfold Party.setSreg Party.sreg
  by_cases hn : n = 0
  · simp [hn]
  · by_cases hm : m = 0
    · simp [hm, Ne.symm hn]
    · simp [hn, hm]

@[simp] theorem Party.setSreg_id (q : Party) (n : Nat) (v : DWord) : (q.setSreg n v).id = q.id := by
  unfold Party.setSreg; split <;> rfl

@[simp] theorem Party.setSreg_pc (q : Party) (n : Nat) (v : DWord) : (q.setSreg n v).pc = q.pc := by
  unfold Party.setSreg; split <;> rfl

/-- Nothing but the scalar registers changes. -/
theorem Party.setSreg_frame (q : Party) (n : Nat) (v : DWord) :
    { q.setSreg n v with sregs := q.sregs } = q := by
  unfold Party.setSreg; split <;> rfl

@[simp] theorem Party.vreg_setVreg (q : Party) (n t m u : Nat) (v : Word) :
    (q.setVreg n t v).vreg m u = if m * 32 + u = n * 32 + t then v else q.vreg m u := by
  simp [Party.vreg, Party.setVreg]

@[simp] theorem Party.setVreg_id (q : Party) (n t : Nat) (v : Word) : (q.setVreg n t v).id = q.id := rfl

@[simp] theorem Party.setKreg_id (q : Party) (n : Nat) (v : Word) : (q.setKreg n v).id = q.id := by
  unfold Party.setKreg; split <;> rfl

@[simp] theorem Party.kreg_zero (q : Party) : q.kreg 0 = fullMask q.gw := rfl

/-- R23: k0 stays all ones, and what lies at and above GW reads zero. -/
theorem Party.kreg_setKreg (q : Party) (n m : Nat) (v : Word) :
    (q.setKreg n v).kreg m = if m = n ∧ n ≠ 0 then v &&& fullMask q.gw else q.kreg m := by
  unfold Party.setKreg Party.kreg
  by_cases hn : n = 0
  · simp [hn]
  · by_cases hm : m = 0
    · simp [hm, hn, Ne.symm hn, Party.gw]
    · simp [hn, hm]

/-! ## The end of a scalar instruction -/

/-- The acting party exists. -/
def State.here (s : State) : Prop := (s.party? s.actor).isSome = true

theorem State.here_wr {s : State} (h : s.here) (d : BitVec 6) (v : DWord) : (s.wr d v).here := by
  have hf : KeepsId fun q => q.setSreg d.toNat v := fun q => Party.setSreg_id q _ _
  have e : (s.wr d v).party? s.actor = (s.updParty s.actor fun q => q.setSreg d.toNat v).party? s.actor := rfl
  show ((s.wr d v).party? s.actor).isSome = true
  rw [e, State.party?_updParty _ _ _ _ hf]
  simpa [State.here] using h

theorem State.me_wr {s : State} (h : s.here) (d : BitVec 6) (v : DWord) : (s.wr d v).me = s.me.setSreg d.toNat v :=
  State.party_updParty_self s s.actor (fun q => q.setSreg d.toNat v) (fun q => Party.setSreg_id q _ _) h

theorem State.me_upd {s : State} (h : s.here) (f : Party → Party) (hf : KeepsId f) : (s.upd f).me = f s.me :=
  State.party_updParty_self s s.actor f hf h

theorem State.party_upd_other (s : State) (f : Party → Party) (hf : KeepsId f) {q : PartyId} (hq : q ≠ s.actor) :
    (s.upd f).party q = s.party q := State.party_updParty_other s s.actor q f hf hq

theorem State.me_adv {s : State} (h : s.here) : s.adv.me = { s.me with pc := s.me.pc + 4 } :=
  State.me_upd h _ fun _ => rfl

/-- The end of most scalar instructions: the destination, and the program counter. -/
theorem State.me_alu {s : State} (h : s.here) (d : BitVec 6) (v : DWord) :
    (s.alu d v).me = { s.me.setSreg d.toNat v with pc := s.me.pc + 4 } := by
  rw [State.alu, State.me_adv (State.here_wr h d v), State.me_wr h, Party.setSreg_pc]

theorem State.party_alu_other (s : State) (d : BitVec 6) (v : DWord) {q : PartyId} (hq : q ≠ s.actor) :
    (s.alu d v).party q = s.party q := by
  have h1 : (s.wr d v).party q = s.party q :=
    State.party_updParty_other s s.actor q (fun x => x.setSreg d.toNat v) (fun x => Party.setSreg_id x _ _) hq
  rw [State.alu, State.adv, State.party_upd_other (s.wr d v) (fun p => { p with pc := p.pc + 4 }) (fun _ => rfl) hq, h1]

theorem State.alu_frame (s : State) (d : BitVec 6) (v : DWord) :
    { s.alu d v with parties := s.parties, errors := s.errors } = s := rfl

theorem State.alu_errors (s : State) (d : BitVec 6) (v : DWord) :
    (s.alu d v).errors = s.errors.filter fun e => decide (e ≠ .sreg s.actor d.toNat) := rfl

end Sys2Proof.Machine
end

