-- ==== Sys2Proof/Laws/Claims.lean ====
section
/-!
SUPPORT. The shared operations said in the words of the claims: what a scalar instruction that is ready does, what taking
a fault leaves, what waiting for the runs leaves.
-/

namespace Sys2Proof.Machine

/-- A ready scalar instruction goes on. -/
theorem scalar_ready {s : State} {ds ss : List (BitVec 6)} (h : Ready s ds ss) (k : State → State) :
    s.scalar ds ss k = .next (k s) := by
  have h1 : ((ds ++ ss).any fun r => s.me.isPending r.toNat) = false := by
    rw [List.any_eq_false]; intro r hr; simp [h.free r hr]
  have h2 : (ss.any fun r => s.sregBad s.actor r.toNat) = false := by
    rw [List.any_eq_false]; intro r hr; simp [h.sound r hr]
  simp [State.scalar, h1, h2]

theorem wrote_alu {s : State} (h : s.here) (d : BitVec 6) (v : DWord) : Wrote s (s.alu d v) d v where
  reg r := by
    rw [State.me_alu h]
    show (s.me.setSreg d.toNat v).sreg r = _
    rw [Party.sreg_setSreg]
    congr 1; simp; omega
  pc := by rw [State.me_alu h]
  mine := by rw [State.me_alu h]; unfold Party.setSreg; split <;> rfl
  others p hp := State.party_alu_other s d v hp
  errors e := by simp [State.alu_errors]
  bytes _ := rfl
  rest := rfl

/-- A scalar instruction whose effect is one register. -/
theorem gives_alu {s : State} {ds ss : List (BitVec 6)} (h : Ready s ds ss) {i : Instr} {d : BitVec 6} {v : DWord}
    (k : State → State) (e : exec i s = s.scalar ds ss k) (hk : k s = s.alu d v) : Gives i s (Wrote s · d v) :=
  ⟨_, e.trans (scalar_ready h _), hk ▸ wrote_alu h.here d v⟩

theorem became_upd {s : State} (h : s.here) (f : Party → Party) (hf : KeepsId f) : Became s (s.upd f) (f s.me) where
  me := State.me_upd h f hf
  others _ hp := State.party_upd_other s f hf hp
  bytes _ := rfl
  rest := rfl

/-! ## Taking a fault -/

theorem keepRecord_keepsId (s : State) (c : FaultClass) (u : FaultUnit) (i : FaultInfo) (k : Nat) :
    KeepsId fun x => (x.parkOn c u k).keepRecord s c i := by
  intro q
  simp only [Party.keepRecord]
  split <;> rfl

theorem me_fault {s : State} (h : s.here) (c : FaultClass) (u : FaultUnit) (i : FaultInfo) :
    (s.fault s.actor c u i).me = (s.me.parkOn c u s.clk).keepRecord s c i :=
  State.party_updParty_self s s.actor _ (keepRecord_keepsId s c u i s.clk) h

/-- Taking a fault parks the acting party and leaves its registers and everything else. -/
theorem trapped_fault {s : State} (h : s.here) (c : FaultClass) (u : FaultUnit) (i : FaultInfo) :
    Trapped s (s.fault s.actor c u i) c := by
  have hme := me_fault h c u i
  refine ⟨?_, ?_, ?_, ?_, fun hk => ?_, ⟨s.record s.me c i false, rfl, rfl, rfl, rfl⟩, fun p hp => ?_, fun _ => rfl, rfl⟩
  iterate 4
    rw [hme]
    unfold Party.keepRecord
    split <;> rfl
  · have hid : (s.me.parkOn c u s.clk).id = s.actor := State.party_id s s.actor
    have hn : ((s.me.parkOn c u s.clk).id.isSteward && !s.queueSized s.kernelQueue) = false := by
      rw [hid]; obtain hk | hk := hk <;> simp [hk]
    rw [hme]; unfold Party.keepRecord; rw [hn]; exact ⟨rfl, rfl, rfl⟩
  · exact State.party_updParty_other s s.actor p _ (keepRecord_keepsId s c u i s.clk) hp

theorem trapped_trap {s : State} (h : s.here) (c : FaultClass) : Trapped s (s.trap c) c := trapped_fault h c _ _

/-! ## After the runs -/

theorem sync_keepsId : KeepsId Party.sync := fun _ => rfl

theorem here_upd {s : State} (h : s.here) (f : Party → Party) (hf : KeepsId f) : (s.upd f).here := by
  show ((s.updParty s.actor f).party? s.actor).isSome = true
  rw [State.party?_updParty _ _ _ _ hf]
  simpa [State.here] using h

theorem here_synced {s : State} (h : s.here) : (synced s).here := here_upd h _ sync_keepsId

theorem me_synced {s : State} (h : s.here) : (synced s).me = s.me.sync := State.me_upd h _ sync_keepsId

theorem rd_synced {s : State} (h : s.here) (a : BitVec 6) : (synced s).rd a = s.rd a := by
  unfold State.rd
  rw [me_synced h]; rfl

theorem rdK_synced {s : State} (h : s.here) (a : BitVec 3) : (synced s).rdK a = s.me.kreg a.toNat := by
  unfold State.rdK
  rw [me_synced h]; rfl

theorem ready_synced {s : State} {ds ss : List (BitVec 6)} (h : Ready s ds ss) : Ready (synced s) ds ss where
  here := here_synced h.here
  free r hr := by
    have := h.free r hr
    rw [me_synced h.here]; exact this
  sound r hr := h.sound r hr

/-- A ready MASK instruction of an idle group goes on. -/
theorem maskOp_ready {s : State} {ds ss : List (BitVec 6)} (hg : GroupIdle s) (h : Ready s ds ss) (k : State → State) :
    s.maskOp ds ss k = .next (k (synced s)) := by
  simp only [State.maskOp, State.laneOnly, State.afterRuns, hg.1, hg.2]
  exact scalar_ready (ready_synced h) k

theorem wroteMask_wrK {s : State} (h : s.here) (d : BitVec 3) (hd : d ≠ 0) (v : Word) : WroteMask s (s.wrK d v) d v := by
  have hf : KeepsId fun q => q.setKreg d.toNat v := fun q => Party.setKreg_id q _ _
  have e : s.wrK d v = (s.upd fun q => q.setKreg d.toNat v).adv := if_neg hd
  have hm : (s.wrK d v).me = { s.me.setKreg d.toNat v with pc := (s.me.setKreg d.toNat v).pc + 4 } := by
    rw [e, State.me_adv (here_upd h _ hf), State.me_upd h _ hf]
  have hd' : d.toNat ≠ 0 := fun h0 => hd (BitVec.eq_of_toNat_eq h0)
  rw [e] at hm ⊢
  refine ⟨fun n => ?_, ?_, ?_, ?_, fun _ => rfl, rfl⟩
  · rw [hm]
    show (s.me.setKreg d.toNat v).kreg n = _
    rw [Party.kreg_setKreg]; simp [hd']
  · rw [hm]; unfold Party.setKreg; split <;> rfl
  · rw [hm]; unfold Party.setKreg; split <;> rfl
  · intro p hp
    have h1 := State.party_upd_other s (fun q => q.setKreg d.toNat v) hf hp
    exact (State.party_upd_other (s.upd fun q => q.setKreg d.toNat v) (fun p => { p with pc := p.pc + 4 })
      (fun _ => rfl) hp).trans h1

end Sys2Proof.Machine
end

