-- ==== Sys2Proof/Laws/Encoding.lean ====
section
/-! SUPPORT. Fields of concatenated words: each field of an encoding format reads back (R36, R48). -/

set_option linter.unusedSimpArgs false

namespace Sys2Proof

theorem extract_append_high {m n : Nat} (x : BitVec m) (y : BitVec n) (s k : Nat) (h : n ≤ s) :
    (x ++ y).extractLsb' s k = x.extractLsb' (s - n) k := by
  ext i hi
  simp [BitVec.getLsbD_append, show ¬ (s + i < n) by omega, show s + i - n = s - n + i by omega]

theorem extract_append_low {m n : Nat} (x : BitVec m) (y : BitVec n) (s k : Nat) (h : s + k ≤ n) :
    (x ++ y).extractLsb' s k = y.extractLsb' s k := by
  ext i hi
  simp [BitVec.getLsbD_append, show s + i < n by omega]

theorem extract_whole {n : Nat} (x : BitVec n) : x.extractLsb' 0 n = x := by
  ext i hi; simp

theorem extract_mid {n : Nat} (x : BitVec n) (s k a b : Nat) (h : a + b ≤ k) :
    (x.extractLsb' s k).extractLsb' a b = x.extractLsb' (s + a) b := by
  ext i hi
  simp [show a + i < k by omega, Nat.add_assoc]

theorem encA_m (m d a b : BitVec 6) (f : BitVec 8) : fMajor (encA m d a b f) = m := by
  show BitVec.extractLsb' 26 6 (m ++ d ++ a ++ b ++ f : BitVec (6 + 6 + 6 + 6 + 8)) = m
  simp (disch := decide) only [extract_append_high, extract_append_low, extract_whole, Nat.reduceSub]

theorem encA_d (m d a b : BitVec 6) (f : BitVec 8) : fD (encA m d a b f) = d := by
  show BitVec.extractLsb' 20 6 (m ++ d ++ a ++ b ++ f : BitVec (6 + 6 + 6 + 6 + 8)) = d
  simp (disch := decide) only [extract_append_high, extract_append_low, extract_whole, Nat.reduceSub]

theorem encA_a (m d a b : BitVec 6) (f : BitVec 8) : fA (encA m d a b f) = a := by
  show BitVec.extractLsb' 14 6 (m ++ d ++ a ++ b ++ f : BitVec (6 + 6 + 6 + 6 + 8)) = a
  simp (disch := decide) only [extract_append_high, extract_append_low, extract_whole, Nat.reduceSub]

theorem encA_b (m d a b : BitVec 6) (f : BitVec 8) : fB (encA m d a b f) = b := by
  show BitVec.extractLsb' 8 6 (m ++ d ++ a ++ b ++ f : BitVec (6 + 6 + 6 + 6 + 8)) = b
  simp (disch := decide) only [extract_append_high, extract_append_low, extract_whole, Nat.reduceSub]

theorem encA_f (m d a b : BitVec 6) (f : BitVec 8) : fFn (encA m d a b f) = f := by
  show BitVec.extractLsb' 0 8 (m ++ d ++ a ++ b ++ f : BitVec (6 + 6 + 6 + 6 + 8)) = f
  simp (disch := decide) only [extract_append_high, extract_append_low, extract_whole, Nat.reduceSub]

theorem encX_m (m d a b : BitVec 6) (x y : BitVec 4) : fMajor (encX m d a b x y) = m := by
  show BitVec.extractLsb' 26 6 (m ++ d ++ a ++ b ++ x ++ y : BitVec (6 + 6 + 6 + 6 + 4 + 4)) = m
  simp (disch := decide) only [extract_append_high, extract_append_low, extract_whole, Nat.reduceSub]

theorem encX_d (m d a b : BitVec 6) (x y : BitVec 4) : fD (encX m d a b x y) = d := by
  show BitVec.extractLsb' 20 6 (m ++ d ++ a ++ b ++ x ++ y : BitVec (6 + 6 + 6 + 6 + 4 + 4)) = d
  simp (disch := decide) only [extract_append_high, extract_append_low, extract_whole, Nat.reduceSub]

theorem encX_a (m d a b : BitVec 6) (x y : BitVec 4) : fA (encX m d a b x y) = a := by
  show BitVec.extractLsb' 14 6 (m ++ d ++ a ++ b ++ x ++ y : BitVec (6 + 6 + 6 + 6 + 4 + 4)) = a
  simp (disch := decide) only [extract_append_high, extract_append_low, extract_whole, Nat.reduceSub]

theorem encX_b (m d a b : BitVec 6) (x y : BitVec 4) : fB (encX m d a b x y) = b := by
  show BitVec.extractLsb' 8 6 (m ++ d ++ a ++ b ++ x ++ y : BitVec (6 + 6 + 6 + 6 + 4 + 4)) = b
  simp (disch := decide) only [extract_append_high, extract_append_low, extract_whole, Nat.reduceSub]

theorem encX_x (m d a b : BitVec 6) (x y : BitVec 4) : fSub (encX m d a b x y) = x := by
  show BitVec.extractLsb' 4 4 (m ++ d ++ a ++ b ++ x ++ y : BitVec (6 + 6 + 6 + 6 + 4 + 4)) = x
  simp (disch := decide) only [extract_append_high, extract_append_low, extract_whole, Nat.reduceSub]

theorem encX_y (m d a b : BitVec 6) (x y : BitVec 4) : fMod (encX m d a b x y) = y := by
  show BitVec.extractLsb' 0 4 (m ++ d ++ a ++ b ++ x ++ y : BitVec (6 + 6 + 6 + 6 + 4 + 4)) = y
  simp (disch := decide) only [extract_append_high, extract_append_low, extract_whole, Nat.reduceSub]

theorem encI_m (m d a : BitVec 6) (i : BitVec 14) : fMajor (encI m d a i) = m := by
  show BitVec.extractLsb' 26 6 (m ++ d ++ a ++ i : BitVec (6 + 6 + 6 + 14)) = m
  simp (disch := decide) only [extract_append_high, extract_append_low, extract_whole, Nat.reduceSub]

theorem encI_d (m d a : BitVec 6) (i : BitVec 14) : fD (encI m d a i) = d := by
  show BitVec.extractLsb' 20 6 (m ++ d ++ a ++ i : BitVec (6 + 6 + 6 + 14)) = d
  simp (disch := decide) only [extract_append_high, extract_append_low, extract_whole, Nat.reduceSub]

theorem encI_a (m d a : BitVec 6) (i : BitVec 14) : fA (encI m d a i) = a := by
  show BitVec.extractLsb' 14 6 (m ++ d ++ a ++ i : BitVec (6 + 6 + 6 + 14)) = a
  simp (disch := decide) only [extract_append_high, extract_append_low, extract_whole, Nat.reduceSub]

theorem encI_i (m d a : BitVec 6) (i : BitVec 14) : fImm14 (encI m d a i) = i := by
  show BitVec.extractLsb' 0 14 (m ++ d ++ a ++ i : BitVec (6 + 6 + 6 + 14)) = i
  simp (disch := decide) only [extract_append_high, extract_append_low, extract_whole, Nat.reduceSub]

theorem encU_m (m d : BitVec 6) (i : BitVec 20) : fMajor (encU m d i) = m := by
  show BitVec.extractLsb' 26 6 (m ++ d ++ i : BitVec (6 + 6 + 20)) = m
  simp (disch := decide) only [extract_append_high, extract_append_low, extract_whole, Nat.reduceSub]

theorem encU_d (m d : BitVec 6) (i : BitVec 20) : fD (encU m d i) = d := by
  show BitVec.extractLsb' 20 6 (m ++ d ++ i : BitVec (6 + 6 + 20)) = d
  simp (disch := decide) only [extract_append_high, extract_append_low, extract_whole, Nat.reduceSub]

theorem encU_i (m d : BitVec 6) (i : BitVec 20) : fImm20 (encU m d i) = i := by
  show BitVec.extractLsb' 0 20 (m ++ d ++ i : BitVec (6 + 6 + 20)) = i
  simp (disch := decide) only [extract_append_high, extract_append_low, extract_whole, Nat.reduceSub]

theorem memPlain_m (m d a : BitVec 6) (z : BitVec 3) (i : BitVec 11) : fMajor (m ++ d ++ a ++ z ++ i : Word) = m := by
  show BitVec.extractLsb' 26 6 (m ++ d ++ a ++ z ++ i : BitVec (6 + 6 + 6 + 3 + 11)) = m
  simp (disch := decide) only [extract_append_high, extract_append_low, extract_whole, Nat.reduceSub]

theorem memPlain_d (m d a : BitVec 6) (z : BitVec 3) (i : BitVec 11) : fD (m ++ d ++ a ++ z ++ i : Word) = d := by
  show BitVec.extractLsb' 20 6 (m ++ d ++ a ++ z ++ i : BitVec (6 + 6 + 6 + 3 + 11)) = d
  simp (disch := decide) only [extract_append_high, extract_append_low, extract_whole, Nat.reduceSub]

theorem memPlain_a (m d a : BitVec 6) (z : BitVec 3) (i : BitVec 11) : fA (m ++ d ++ a ++ z ++ i : Word) = a := by
  show BitVec.extractLsb' 14 6 (m ++ d ++ a ++ z ++ i : BitVec (6 + 6 + 6 + 3 + 11)) = a
  simp (disch := decide) only [extract_append_high, extract_append_low, extract_whole, Nat.reduceSub]

theorem memPlain_z (m d a : BitVec 6) (z : BitVec 3) (i : BitVec 11) : fSize (m ++ d ++ a ++ z ++ i : Word) = z := by
  show BitVec.extractLsb' 11 3 (m ++ d ++ a ++ z ++ i : BitVec (6 + 6 + 6 + 3 + 11)) = z
  simp (disch := decide) only [extract_append_high, extract_append_low, extract_whole, Nat.reduceSub]

theorem memPlain_i (m d a : BitVec 6) (z : BitVec 3) (i : BitVec 11) : (m ++ d ++ a ++ z ++ i : Word).extractLsb' 0 11 = i := by
  show BitVec.extractLsb' 0 11 (m ++ d ++ a ++ z ++ i : BitVec (6 + 6 + 6 + 3 + 11)) = i
  simp (disch := decide) only [extract_append_high, extract_append_low, extract_whole, Nat.reduceSub]

theorem memOrdered_m (m d a : BitVec 6) (z s : BitVec 3) (i : BitVec 8) : fMajor (m ++ d ++ a ++ z ++ s ++ i : Word) = m := by
  show BitVec.extractLsb' 26 6 (m ++ d ++ a ++ z ++ s ++ i : BitVec (6 + 6 + 6 + 3 + 3 + 8)) = m
  simp (disch := decide) only [extract_append_high, extract_append_low, extract_whole, Nat.reduceSub]

theorem memOrdered_d (m d a : BitVec 6) (z s : BitVec 3) (i : BitVec 8) : fD (m ++ d ++ a ++ z ++ s ++ i : Word) = d := by
  show BitVec.extractLsb' 20 6 (m ++ d ++ a ++ z ++ s ++ i : BitVec (6 + 6 + 6 + 3 + 3 + 8)) = d
  simp (disch := decide) only [extract_append_high, extract_append_low, extract_whole, Nat.reduceSub]

theorem memOrdered_a (m d a : BitVec 6) (z s : BitVec 3) (i : BitVec 8) : fA (m ++ d ++ a ++ z ++ s ++ i : Word) = a := by
  show BitVec.extractLsb' 14 6 (m ++ d ++ a ++ z ++ s ++ i : BitVec (6 + 6 + 6 + 3 + 3 + 8)) = a
  simp (disch := decide) only [extract_append_high, extract_append_low, extract_whole, Nat.reduceSub]

theorem memOrdered_z (m d a : BitVec 6) (z s : BitVec 3) (i : BitVec 8) : fSize (m ++ d ++ a ++ z ++ s ++ i : Word) = z := by
  show BitVec.extractLsb' 11 3 (m ++ d ++ a ++ z ++ s ++ i : BitVec (6 + 6 + 6 + 3 + 3 + 8)) = z
  simp (disch := decide) only [extract_append_high, extract_append_low, extract_whole, Nat.reduceSub]

theorem memOrdered_s (m d a : BitVec 6) (z s : BitVec 3) (i : BitVec 8) : (m ++ d ++ a ++ z ++ s ++ i : Word).extractLsb' 8 3 = s := by
  show BitVec.extractLsb' 8 3 (m ++ d ++ a ++ z ++ s ++ i : BitVec (6 + 6 + 6 + 3 + 3 + 8)) = s
  simp (disch := decide) only [extract_append_high, extract_append_low, extract_whole, Nat.reduceSub]

theorem memOrdered_i (m d a : BitVec 6) (z s : BitVec 3) (i : BitVec 8) : (m ++ d ++ a ++ z ++ s ++ i : Word).extractLsb' 0 8 = i := by
  show BitVec.extractLsb' 0 8 (m ++ d ++ a ++ z ++ s ++ i : BitVec (6 + 6 + 6 + 3 + 3 + 8)) = i
  simp (disch := decide) only [extract_append_high, extract_append_low, extract_whole, Nat.reduceSub]

theorem jump_m (m : BitVec 6) (i : BitVec 26) : fMajor (m ++ i : Word) = m := by
  show BitVec.extractLsb' 26 6 (m ++ i : BitVec (6 + 26)) = m
  simp (disch := decide) only [extract_append_high, extract_append_low, extract_whole, Nat.reduceSub]

theorem jump_i (m : BitVec 6) (i : BitVec 26) : fImm26 (m ++ i : Word) = i := by
  show BitVec.extractLsb' 0 26 (m ++ i : BitVec (6 + 26)) = i
  simp (disch := decide) only [extract_append_high, extract_append_low, extract_whole, Nat.reduceSub]

theorem vreadWord_m (m d : BitVec 6) (n : BitVec 8) (t z : BitVec 6) : fMajor (m ++ d ++ n ++ t ++ z : Word) = m := by
  show BitVec.extractLsb' 26 6 (m ++ d ++ n ++ t ++ z : BitVec (6 + 6 + 8 + 6 + 6)) = m
  simp (disch := decide) only [extract_append_high, extract_append_low, extract_whole, Nat.reduceSub]

theorem vreadWord_d (m d : BitVec 6) (n : BitVec 8) (t z : BitVec 6) : fD (m ++ d ++ n ++ t ++ z : Word) = d := by
  show BitVec.extractLsb' 20 6 (m ++ d ++ n ++ t ++ z : BitVec (6 + 6 + 8 + 6 + 6)) = d
  simp (disch := decide) only [extract_append_high, extract_append_low, extract_whole, Nat.reduceSub]

theorem vreadWord_n (m d : BitVec 6) (n : BitVec 8) (t z : BitVec 6) : (m ++ d ++ n ++ t ++ z : Word).extractLsb' 12 8 = n := by
  show BitVec.extractLsb' 12 8 (m ++ d ++ n ++ t ++ z : BitVec (6 + 6 + 8 + 6 + 6)) = n
  simp (disch := decide) only [extract_append_high, extract_append_low, extract_whole, Nat.reduceSub]

theorem vreadWord_t (m d : BitVec 6) (n : BitVec 8) (t z : BitVec 6) : (m ++ d ++ n ++ t ++ z : Word).extractLsb' 6 6 = t := by
  show BitVec.extractLsb' 6 6 (m ++ d ++ n ++ t ++ z : BitVec (6 + 6 + 8 + 6 + 6)) = t
  simp (disch := decide) only [extract_append_high, extract_append_low, extract_whole, Nat.reduceSub]

theorem vreadWord_z (m d : BitVec 6) (n : BitVec 8) (t z : BitVec 6) : (m ++ d ++ n ++ t ++ z : Word).extractLsb' 0 6 = z := by
  show BitVec.extractLsb' 0 6 (m ++ d ++ n ++ t ++ z : BitVec (6 + 6 + 8 + 6 + 6)) = z
  simp (disch := decide) only [extract_append_high, extract_append_low, extract_whole, Nat.reduceSub]

theorem bbwaitWord_m (m : BitVec 6) (z : BitVec 10) (n : BitVec 8) (x y : BitVec 4) : fMajor (m ++ z ++ n ++ x ++ y : Word) = m := by
  show BitVec.extractLsb' 26 6 (m ++ z ++ n ++ x ++ y : BitVec (6 + 10 + 8 + 4 + 4)) = m
  simp (disch := decide) only [extract_append_high, extract_append_low, extract_whole, Nat.reduceSub]

theorem bbwaitWord_z (m : BitVec 6) (z : BitVec 10) (n : BitVec 8) (x y : BitVec 4) : (m ++ z ++ n ++ x ++ y : Word).extractLsb' 16 10 = z := by
  show BitVec.extractLsb' 16 10 (m ++ z ++ n ++ x ++ y : BitVec (6 + 10 + 8 + 4 + 4)) = z
  simp (disch := decide) only [extract_append_high, extract_append_low, extract_whole, Nat.reduceSub]

theorem bbwaitWord_n (m : BitVec 6) (z : BitVec 10) (n : BitVec 8) (x y : BitVec 4) : (m ++ z ++ n ++ x ++ y : Word).extractLsb' 8 8 = n := by
  show BitVec.extractLsb' 8 8 (m ++ z ++ n ++ x ++ y : BitVec (6 + 10 + 8 + 4 + 4)) = n
  simp (disch := decide) only [extract_append_high, extract_append_low, extract_whole, Nat.reduceSub]

theorem bbwaitWord_x (m : BitVec 6) (z : BitVec 10) (n : BitVec 8) (x y : BitVec 4) : fSub (m ++ z ++ n ++ x ++ y : Word) = x := by
  show BitVec.extractLsb' 4 4 (m ++ z ++ n ++ x ++ y : BitVec (6 + 10 + 8 + 4 + 4)) = x
  simp (disch := decide) only [extract_append_high, extract_append_low, extract_whole, Nat.reduceSub]

theorem bbwaitWord_y (m : BitVec 6) (z : BitVec 10) (n : BitVec 8) (x y : BitVec 4) : fMod (m ++ z ++ n ++ x ++ y : Word) = y := by
  show BitVec.extractLsb' 0 4 (m ++ z ++ n ++ x ++ y : BitVec (6 + 10 + 8 + 4 + 4)) = y
  simp (disch := decide) only [extract_append_high, extract_append_low, extract_whole, Nat.reduceSub]

/-! Fields within fields. -/

theorem fKd_eq (w : Word) : fKd w = (fD w).extractLsb' 0 3 := (extract_mid w 20 6 0 3 (by decide)).symm
theorem fKa_eq (w : Word) : fKa w = (fA w).extractLsb' 0 3 := (extract_mid w 14 6 0 3 (by decide)).symm
theorem fKb_eq (w : Word) : fKb w = (fB w).extractLsb' 0 3 := (extract_mid w 8 6 0 3 (by decide)).symm
theorem hiD_eq (w : Word) : hiD w = ((fD w).extractLsb' 3 3 == 0) := by
  rw [hiD, fD, extract_mid w 20 6 3 3 (by decide)]
theorem hiA_eq (w : Word) : hiA w = ((fA w).extractLsb' 3 3 == 0) := by
  rw [hiA, fA, extract_mid w 14 6 3 3 (by decide)]
theorem hiB_eq (w : Word) : hiB w = ((fB w).extractLsb' 3 3 == 0) := by
  rw [hiB, fB, extract_mid w 8 6 3 3 (by decide)]
theorem fSub_eq (w : Word) : fSub w = (fFn w).extractLsb' 4 4 := (extract_mid w 0 8 4 4 (by decide)).symm
theorem fAmoScope_eq (w : Word) : fAmoScope w = (fFn w).extractLsb' 1 3 := (extract_mid w 0 8 1 3 (by decide)).symm
theorem fAr_eq (w : Word) : fAr w = (fFn w).extractLsb' 0 1 := (extract_mid w 0 8 0 1 (by decide)).symm

theorem encI_low (m d a : BitVec 6) (i : BitVec 14) (s k : Nat) (h : s + k ≤ 14) :
    (encI m d a i).extractLsb' s k = i.extractLsb' s k := extract_append_low _ i s k h

theorem shift_zero (m d a n : BitVec 6) : (encI m d a (0#8 ++ n)).extractLsb' 6 8 = 0 := by
  rw [encI_low _ _ _ _ _ _ (by decide)]
  show BitVec.extractLsb' 6 8 (0#8 ++ n : BitVec (8 + 6)) = 0
  simp (disch := decide) only [extract_append_high, extract_whole, Nat.reduceSub]
  rfl
theorem shift_count (m d a n : BitVec 6) : (encI m d a (0#8 ++ n)).extractLsb' 0 6 = n := by
  rw [encI_low _ _ _ _ _ _ (by decide)]
  show BitVec.extractLsb' 0 6 (0#8 ++ n : BitVec (8 + 6)) = n
  simp (disch := decide) only [extract_append_low, extract_whole]
theorem fmt_op (m d a : BitVec 6) (o z : BitVec 2) (v : BitVec 10) : (encI m d a (o ++ z ++ v)).extractLsb' 12 2 = o := by
  rw [encI_low _ _ _ _ _ _ (by decide)]
  show BitVec.extractLsb' 12 2 (o ++ z ++ v : BitVec (2 + 2 + 10)) = o
  simp (disch := decide) only [extract_append_high, extract_whole, Nat.reduceSub]
theorem fmt_zero (m d a : BitVec 6) (o z : BitVec 2) (v : BitVec 10) : (encI m d a (o ++ z ++ v)).extractLsb' 10 2 = z := by
  rw [encI_low _ _ _ _ _ _ (by decide)]
  show BitVec.extractLsb' 10 2 (o ++ z ++ v : BitVec (2 + 2 + 10)) = z
  simp (disch := decide) only [extract_append_high, extract_append_low, extract_whole, Nat.reduceSub]

theorem fmt_bits (m d a : BitVec 6) (o z : BitVec 2) (v : BitVec 10) : (encI m d a (o ++ z ++ v)).extractLsb' 0 10 = v := by
  rw [encI_low _ _ _ _ _ _ (by decide)]
  show BitVec.extractLsb' 0 10 (o ++ z ++ v : BitVec (2 + 2 + 10)) = v
  simp (disch := decide) only [extract_append_low, extract_whole]
theorem csr_op (m d a : BitVec 6) (o : BitVec 2) (r : BitVec 12) : (encI m d a (o ++ r)).extractLsb' 12 2 = o := by
  rw [encI_low _ _ _ _ _ _ (by decide)]
  show BitVec.extractLsb' 12 2 (o ++ r : BitVec (2 + 12)) = o
  simp (disch := decide) only [extract_append_high, extract_whole, Nat.reduceSub]
theorem csr_reg (m d a : BitVec 6) (o : BitVec 2) (r : BitVec 12) : (encI m d a (o ++ r)).extractLsb' 0 12 = r := by
  rw [encI_low _ _ _ _ _ _ (by decide)]
  show BitVec.extractLsb' 0 12 (o ++ r : BitVec (2 + 12)) = r
  simp (disch := decide) only [extract_append_low, extract_whole]
theorem fence_scope (m d a b : BitVec 6) (x : BitVec 4) (s : BitVec 3) :
    (encX m d a b x (0#1 ++ s)).extractLsb' 0 3 = s := by
  show BitVec.extractLsb' 0 3 (m ++ d ++ a ++ b ++ x ++ (0#1 ++ s : BitVec (1 + 3)) : BitVec (6 + 6 + 6 + 6 + 4 + (1 + 3))) = s
  simp (disch := decide) only [extract_append_low, extract_whole]
theorem fence_zero (m d a b : BitVec 6) (x : BitVec 4) (s : BitVec 3) :
    (encX m d a b x (0#1 ++ s)).getLsbD 3 = false := by
  show BitVec.getLsbD (m ++ d ++ a ++ b ++ x ++ (0#1 ++ s : BitVec (1 + 3)) : BitVec (6 + 6 + 6 + 6 + 4 + (1 + 3))) 3 = false
  rw [BitVec.getLsbD_append, if_pos (by decide), BitVec.getLsbD_append, if_neg (by decide)]
  decide
theorem low3 (k : BitVec 3) : (0#3 ++ k : BitVec 6).extractLsb' 0 3 = k := by
  show BitVec.extractLsb' 0 3 (0#3 ++ k : BitVec (3 + 3)) = k
  simp (disch := decide) only [extract_append_low, extract_whole]
theorem high3 (k : BitVec 3) : (0#3 ++ k : BitVec 6).extractLsb' 3 3 = 0#3 := by
  show BitVec.extractLsb' 3 3 (0#3 ++ k : BitVec (3 + 3)) = 0#3
  simp (disch := decide) only [extract_append_high, extract_whole, Nat.reduceSub]
theorem amoFn_op (o : BitVec 4) (s : BitVec 3) (r : BitVec 1) : (o ++ s ++ r : BitVec 8).extractLsb' 4 4 = o := by
  show BitVec.extractLsb' 4 4 (o ++ s ++ r : BitVec (4 + 3 + 1)) = o
  simp (disch := decide) only [extract_append_high, extract_whole, Nat.reduceSub]
theorem amoFn_scope (o : BitVec 4) (s : BitVec 3) (r : BitVec 1) : (o ++ s ++ r : BitVec 8).extractLsb' 1 3 = s := by
  show BitVec.extractLsb' 1 3 (o ++ s ++ r : BitVec (4 + 3 + 1)) = s
  simp (disch := decide) only [extract_append_low, extract_append_high, extract_whole, Nat.reduceSub]
theorem amoFn_ar (o : BitVec 4) (s : BitVec 3) (r : BitVec 1) : (o ++ s ++ r : BitVec 8).extractLsb' 0 1 = r := by
  show BitVec.extractLsb' 0 1 (o ++ s ++ r : BitVec (4 + 3 + 1)) = r
  simp (disch := decide) only [extract_append_low, extract_whole]

/-! ## Majors (R40) -/

theorem major_00 {w : Word} (h : fMajor w = 0x00) : decodeMajor w = decodeAlu w := by
  unfold decodeMajor; rw [h]; rfl

theorem major_01 {w : Word} (h : fMajor w = 0x01) : decodeMajor w = .ok (.addi (fD w) (fA w) (fImm14 w)) := by
  unfold decodeMajor; rw [h]; rfl

theorem major_02 {w : Word} (h : fMajor w = 0x02) : decodeMajor w = .ok (.andi (fD w) (fA w) (fImm14 w)) := by
  unfold decodeMajor; rw [h]; rfl

theorem major_03 {w : Word} (h : fMajor w = 0x03) : decodeMajor w = .ok (.ori (fD w) (fA w) (fImm14 w)) := by
  unfold decodeMajor; rw [h]; rfl

theorem major_04 {w : Word} (h : fMajor w = 0x04) : decodeMajor w = .ok (.xori (fD w) (fA w) (fImm14 w)) := by
  unfold decodeMajor; rw [h]; rfl

theorem major_05 {w : Word} (h : fMajor w = 0x05) : decodeMajor w = zeroOr (w.extractLsb' 6 8 == 0) (.shli (fD w) (fA w) (w.extractLsb' 0 6)) := by
  unfold decodeMajor; rw [h]; rfl

theorem major_06 {w : Word} (h : fMajor w = 0x06) : decodeMajor w = zeroOr (w.extractLsb' 6 8 == 0) (.shri (fD w) (fA w) (w.extractLsb' 0 6)) := by
  unfold decodeMajor; rw [h]; rfl

theorem major_07 {w : Word} (h : fMajor w = 0x07) : decodeMajor w = zeroOr (w.extractLsb' 6 8 == 0) (.sari (fD w) (fA w) (w.extractLsb' 0 6)) := by
  unfold decodeMajor; rw [h]; rfl

theorem major_08 {w : Word} (h : fMajor w = 0x08) : decodeMajor w = .ok (.slti (fD w) (fA w) (fImm14 w)) := by
  unfold decodeMajor; rw [h]; rfl

theorem major_09 {w : Word} (h : fMajor w = 0x09) : decodeMajor w = .ok (.sltui (fD w) (fA w) (fImm14 w)) := by
  unfold decodeMajor; rw [h]; rfl

theorem major_0a {w : Word} (h : fMajor w = 0x0A) : decodeMajor w = .ok (.seqi (fD w) (fA w) (fImm14 w)) := by
  unfold decodeMajor; rw [h]; rfl

theorem major_0b {w : Word} (h : fMajor w = 0x0B) : decodeMajor w = .ok (.muli (fD w) (fA w) (fImm14 w)) := by
  unfold decodeMajor; rw [h]; rfl

theorem major_0c {w : Word} (h : fMajor w = 0x0C) : decodeMajor w = .ok (.lui (fD w) (fImm20 w)) := by
  unfold decodeMajor; rw [h]; rfl

theorem major_0d {w : Word} (h : fMajor w = 0x0D) : decodeMajor w = .ok (.auipc (fD w) (fImm20 w)) := by
  unfold decodeMajor; rw [h]; rfl

theorem major_0e {w : Word} (h : fMajor w = 0x0E) : decodeMajor w = .ok (.lhi (fD w) (fImm20 w)) := by
  unfold decodeMajor; rw [h]; rfl

theorem major_10 {w : Word} (h : fMajor w = 0x10) : decodeMajor w = .ok (.ld (fD w) (fA w) (fSize w) (w.extractLsb' 0 11)) := by
  unfold decodeMajor; rw [h]; rfl

theorem major_11 {w : Word} (h : fMajor w = 0x11) : decodeMajor w = .ok (.st (fD w) (fA w) (fSize w) (w.extractLsb' 0 11)) := by
  unfold decodeMajor; rw [h]; rfl

theorem major_12 {w : Word} (h : fMajor w = 0x12) : decodeMajor w = .ok (.lda (fD w) (fA w) (fSize w) (w.extractLsb' 8 3) (w.extractLsb' 0 8)) := by
  unfold decodeMajor; rw [h]; rfl

theorem major_13 {w : Word} (h : fMajor w = 0x13) : decodeMajor w = .ok (.stl (fD w) (fA w) (fSize w) (w.extractLsb' 8 3) (w.extractLsb' 0 8)) := by
  unfold decodeMajor; rw [h]; rfl

theorem major_14 {w : Word} (h : fMajor w = 0x14) : decodeMajor w = decodeAmow w := by
  unfold decodeMajor; rw [h]; rfl

theorem major_15 {w : Word} (h : fMajor w = 0x15) : decodeMajor w = decodeAmod w := by
  unfold decodeMajor; rw [h]; rfl

theorem major_16 {w : Word} (h : fMajor w = 0x16) : decodeMajor w = decodeFence w := by
  unfold decodeMajor; rw [h]; rfl

theorem major_18 {w : Word} (h : fMajor w = 0x18) : decodeMajor w = .ok (.br (fImm26 w)) := by
  unfold decodeMajor; rw [h]; rfl

theorem major_19 {w : Word} (h : fMajor w = 0x19) : decodeMajor w = .ok (.call (fImm26 w)) := by
  unfold decodeMajor; rw [h]; rfl

theorem major_1a {w : Word} (h : fMajor w = 0x1A) : decodeMajor w = .ok (.bz (fD w) (fImm20 w)) := by
  unfold decodeMajor; rw [h]; rfl

theorem major_1b {w : Word} (h : fMajor w = 0x1B) : decodeMajor w = .ok (.bnz (fD w) (fImm20 w)) := by
  unfold decodeMajor; rw [h]; rfl

theorem major_1c {w : Word} (h : fMajor w = 0x1C) : decodeMajor w = .ok (.beq (fD w) (fA w) (fImm14 w)) := by
  unfold decodeMajor; rw [h]; rfl

theorem major_1d {w : Word} (h : fMajor w = 0x1D) : decodeMajor w = .ok (.bne (fD w) (fA w) (fImm14 w)) := by
  unfold decodeMajor; rw [h]; rfl

theorem major_1e {w : Word} (h : fMajor w = 0x1E) : decodeMajor w = .ok (.blt (fD w) (fA w) (fImm14 w)) := by
  unfold decodeMajor; rw [h]; rfl

theorem major_1f {w : Word} (h : fMajor w = 0x1F) : decodeMajor w = .ok (.bge (fD w) (fA w) (fImm14 w)) := by
  unfold decodeMajor; rw [h]; rfl

theorem major_20 {w : Word} (h : fMajor w = 0x20) : decodeMajor w = .ok (.bltu (fD w) (fA w) (fImm14 w)) := by
  unfold decodeMajor; rw [h]; rfl

theorem major_21 {w : Word} (h : fMajor w = 0x21) : decodeMajor w = .ok (.bgeu (fD w) (fA w) (fImm14 w)) := by
  unfold decodeMajor; rw [h]; rfl

theorem major_22 {w : Word} (h : fMajor w = 0x22) : decodeMajor w = .ok (.jalr (fD w) (fA w) (fImm14 w)) := by
  unfold decodeMajor; rw [h]; rfl

theorem major_24 {w : Word} (h : fMajor w = 0x24) : decodeMajor w = zeroOr (fD w == 0) (.lrun (fA w) (fImm14 w)) := by
  unfold decodeMajor; rw [h]; rfl

theorem major_25 {w : Word} (h : fMajor w = 0x25) : decodeMajor w = (if fSub w = 0 then zeroOr (fD w == 0 && fB w == 0 && fMod w == 0) (.lsync (fA w)) else .error .reservedSub) := by
  unfold decodeMajor; rw [h]; rfl

theorem major_26 {w : Word} (h : fMajor w = 0x26) : decodeMajor w = decodeMask w := by
  unfold decodeMajor; rw [h]; rfl

theorem major_27 {w : Word} (h : fMajor w = 0x27) : decodeMajor w = zeroOr (hiD w) (.bkany (fKd w) (fImm20 w)) := by
  unfold decodeMajor; rw [h]; rfl

theorem major_28 {w : Word} (h : fMajor w = 0x28) : decodeMajor w = zeroOr (hiD w) (.bknone (fKd w) (fImm20 w)) := by
  unfold decodeMajor; rw [h]; rfl

theorem major_29 {w : Word} (h : fMajor w = 0x29) : decodeMajor w = zeroOr (w.extractLsb' 0 6 == 0) (.vread (fD w) (w.extractLsb' 12 8) (w.extractLsb' 6 6)) := by
  unfold decodeMajor; rw [h]; rfl

theorem major_2a {w : Word} (h : fMajor w = 0x2A) : decodeMajor w = decodeSfmt w := by
  unfold decodeMajor; rw [h]; rfl

theorem major_2b {w : Word} (h : fMajor w = 0x2B) : decodeMajor w = decodeCsr w := by
  unfold decodeMajor; rw [h]; rfl

theorem major_2c {w : Word} (h : fMajor w = 0x2C) : decodeMajor w = decodeBar w := by
  unfold decodeMajor; rw [h]; rfl

theorem major_2d {w : Word} (h : fMajor w = 0x2D) : decodeMajor w = decodeCopy w := by
  unfold decodeMajor; rw [h]; rfl

theorem major_2e {w : Word} (h : fMajor w = 0x2E) : decodeMajor w = decodeMat w := by
  unfold decodeMajor; rw [h]; rfl

theorem major_2f {w : Word} (h : fMajor w = 0x2F) : decodeMajor w = decodeTack w := by
  unfold decodeMajor; rw [h]; rfl

theorem major_30 {w : Word} (h : fMajor w = 0x30) : decodeMajor w = decodeLad w := by
  unfold decodeMajor; rw [h]; rfl

theorem major_31 {w : Word} (h : fMajor w = 0x31) : decodeMajor w = decodeClu w := by
  unfold decodeMajor; rw [h]; rfl

theorem major_32 {w : Word} (h : fMajor w = 0x32) : decodeMajor w = decodeWork w := by
  unfold decodeMajor; rw [h]; rfl

theorem major_33 {w : Word} (h : fMajor w = 0x33) : decodeMajor w = decodeFred w := by
  unfold decodeMajor; rw [h]; rfl

theorem major_34 {w : Word} (h : fMajor w = 0x34) : decodeMajor w = decodeSys w := by
  unfold decodeMajor; rw [h]; rfl

theorem checkWf_ok {i : Instr} (h : i.wf = true) : checkWf (.ok i) = .ok i := by simp [checkWf, h]

/-! ## Lane instructions (R48) -/

theorem lane_join (b : BitVec 96) : b.extractLsb' 64 32 ++ b.extractLsb' 32 32 ++ b.extractLsb' 0 32 = b := by
  apply BitVec.eq_of_getLsbD_eq
  intro i hi
  simp only [BitVec.getLsbD_append, BitVec.getLsbD_extractLsb']
  by_cases h1 : i < 32
  · simp [h1]
  · by_cases h2 : i - 32 < 32
    · simp [h1, h2, show 32 + (i - 32) = i by omega]
    · simp [h1, h2, show i - 32 - 32 < 32 by omega, show 64 + (i - 32 - 32) = i by omega]

section
variable (cls : BitVec 4) (op : BitVec 8) (w : LaneWord)

theorem laneBits_cls : (laneBits cls op w).extractLsb' 92 4 = cls := by
  show BitVec.extractLsb' 92 4 (cls ++ op ++ w.u ++ w.mask ++ w.vd ++ w.va ++ w.vb ++ w.vc ++ w.bsel ++ w.cf ++ w.ty ++ w.rnd ++ w.cnt ++
    w.imm32 : BitVec (4 + 8 + 1 + 3 + 8 + 8 + 8 + 8 + 2 + 2 + 4 + 4 + 4 + 32)) = cls
  simp (disch := decide) only [extract_append_high, extract_append_low, extract_whole, Nat.reduceSub]

theorem laneBits_op : (laneBits cls op w).extractLsb' 84 8 = op := by
  show BitVec.extractLsb' 84 8 (cls ++ op ++ w.u ++ w.mask ++ w.vd ++ w.va ++ w.vb ++ w.vc ++ w.bsel ++ w.cf ++ w.ty ++ w.rnd ++ w.cnt ++
    w.imm32 : BitVec (4 + 8 + 1 + 3 + 8 + 8 + 8 + 8 + 2 + 2 + 4 + 4 + 4 + 32)) = op
  simp (disch := decide) only [extract_append_high, extract_append_low, extract_whole, Nat.reduceSub]

theorem laneBits_bsel : (laneBits cls op w).extractLsb' 46 2 = w.bsel := by
  show BitVec.extractLsb' 46 2 (cls ++ op ++ w.u ++ w.mask ++ w.vd ++ w.va ++ w.vb ++ w.vc ++ w.bsel ++ w.cf ++ w.ty ++ w.rnd ++ w.cnt ++
    w.imm32 : BitVec (4 + 8 + 1 + 3 + 8 + 8 + 8 + 8 + 2 + 2 + 4 + 4 + 4 + 32)) = w.bsel
  simp (disch := decide) only [extract_append_high, extract_append_low, extract_whole, Nat.reduceSub]

theorem laneFields_laneBits (l : Word) : laneFields (laneBits cls op w) l = { w with lit := l } := by
  show laneFields (cls ++ op ++ w.u ++ w.mask ++ w.vd ++ w.va ++ w.vb ++ w.vc ++ w.bsel ++ w.cf ++ w.ty ++ w.rnd ++ w.cnt ++
    w.imm32 : BitVec (4 + 8 + 1 + 3 + 8 + 8 + 8 + 8 + 2 + 2 + 4 + 4 + 4 + 32)) l = _
  unfold laneFields
  simp (disch := decide) only [extract_append_high, extract_append_low, extract_whole, Nat.reduceSub]
end

/-- The words of a lane instruction decode to it: every field, and the fourth word where `bsel` says that it is there. -/

theorem decodeWords_lane (cls : BitVec 4) (op : BitVec 8) (w : LaneWord) (i : Instr) (hi : laneOp cls.toNat op.toNat w = some i)
    (hl : w.bsel = 3 ∨ w.lit = 0) (h : i.wf = true) : decodeWords (encodeLaneWord cls op w) = .ok i := by
  have hlong : laneIsLong (laneBits cls op w) = (w.bsel == 3) := by rw [laneIsLong, laneBits_bsel]
  have key : ∀ l, (w.bsel = 3 → l = w.lit) → decodeLane (laneBits cls op w) l = .ok i := by
    intro l h3
    have el : (if laneIsLong (laneBits cls op w) then l else 0) = w.lit := by
      rw [hlong]
      by_cases hc : w.bsel = 3
      · simp [hc, h3 hc]
      · rw [if_neg (by simpa using hc), hl.resolve_left hc]
    have e : laneFields (laneBits cls op w) (if laneIsLong (laneBits cls op w) then l else 0) = w := by
      rw [el, laneFields_laneBits]
    rw [decodeLane, laneBits_cls, laneBits_op, e, hi]
    simp [checkWf, h]
  unfold encodeLaneWord
  by_cases hb : w.bsel = 3
  · simp only [hb, beq_self_eq_true, if_true, List.cons_append, List.nil_append]
    change (if laneIsLong (_ ++ _ ++ _) = true then decodeLane (_ ++ _ ++ _) _ else _) = _
    rw [lane_join, hlong, hb]
    exact key _ fun _ => rfl
  · have hb' : (w.bsel == 3) = false := by simpa using hb
    simp only [hb', Bool.false_eq_true, if_false, List.append_nil]
    change (if laneIsLong (_ ++ _ ++ _) = true then _ else decodeLane (_ ++ _ ++ _) 0) = _
    rw [lane_join, hlong, hb']
    exact key 0 fun h => absurd h hb

theorem lit_bOk {w : LaneWord} (h : w.bOk = true) : w.bsel = 3 ∨ w.lit = 0 := by
  unfold LaneWord.bOk at h
  split at h
  all_goals first | (right; simp_all; done) | skip
  rename_i h0 h1 h2
  left
  apply BitVec.eq_of_toNat_eq
  have hb := w.bsel.isLt
  have n0 : w.bsel.toNat ≠ 0 := h0
  have n1 : w.bsel.toNat ≠ 1 := h1
  have n2 : w.bsel.toNat ≠ 2 := h2
  show w.bsel.toNat = 3
  omega

theorem lit_noB {w : LaneWord} (h : w.noB = true) : w.bsel = 3 ∨ w.lit = 0 := by
  simp [LaneWord.noB] at h; exact .inr h.2

theorem lit_memOk {w : LaneWord} (h : w.memOk = true) : w.bsel = 3 ∨ w.lit = 0 := by
  simp [LaneWord.memOk] at h; exact .inr h.1.1.1.1.2

end Sys2Proof
end

