-- ==== Sys2Proof/Laws/Memory.lean ====
section
/-! SUPPORT. The memory of the machine: what a write at a home slice does to it, and that every change of it keeps the canonical form. -/

namespace Sys2Proof.Machine

/-- Setting cells one after another keeps the form. -/
theorem cellsWf_foldl_cellSet {w : Nat} (cs : List (Nat × BitVec w)) :
    ∀ m : Cells w, cellsWf m = true → cellsWf (cs.foldl (fun m c => cellSet m c.1 c.2) m) = true := by
  induction cs with
  | nil => exact fun _ h => h
  | cons c r ih => exact fun m h => ih _ (cellsWf_cellSet c.1 c.2 h)

/-- A key that no cell names reads as before. -/
theorem cellGet_foldl_cellSet {w : Nat} (cs : List (Nat × BitVec w)) (a : Nat) :
    ∀ m : Cells w, (∀ c ∈ cs, c.1 ≠ a) → cellGet (cs.foldl (fun m c => cellSet m c.1 c.2) m) a = cellGet m a := by
  induction cs with
  | nil => exact fun _ _ => rfl
  | cons c r ih =>
    intro m h
    rw [List.foldl_cons, ih _ fun d hd => h d (List.mem_cons_of_mem _ hd), cellGet_cellSet, if_neg (Ne.symm (h c List.mem_cons_self))]

/-- A write at a home slice keeps the form. -/
theorem writeMem_wf {s : State} (cs : List Host.Cell) (h : Memory.wf s.mem = true) : Memory.wf (s.writeMem cs).mem = true := by
  unfold State.writeMem
  split
  · exact h
  · exact cellsWf_foldl_cellSet _ _ h

/-- A write at a home slice changes no byte that it does not name. -/
theorem writeMem_get {s : State} (cs : List Host.Cell) (a : Nat) (h : ∀ c ∈ cs, c.1 ≠ a) :
    cellGet (w := 8) (s.writeMem cs).mem a = cellGet s.mem a := by
  unfold State.writeMem
  split
  · rfl
  · exact cellGet_foldl_cellSet _ a s.mem h

/-- What is left of the memory without power keeps the form. -/
theorem romCells_wf {m : List Host.Cell} (h : Memory.wf m = true) : Memory.wf (romCells m) = true := cellsWf_filter _ h

theorem homeNow_wf {s : State} (op : HomeOp) (h : Memory.wf (s.invalidate op.line none).mem = true) :
    Memory.wf (s.homeNow op).1.mem = true := writeMem_wf _ h

/-- The lines that a reset loses take free values, which keep the form. -/
theorem pinnedLost_wf {s : State} (h : Memory.wf s.mem = true) : Memory.wf s.pinnedLost = true := by
  unfold State.pinnedLost
  refine List.foldlRecOn (motive := fun m => Memory.wf m = true) _ _ h fun m hm p _ => ?_
  exact List.foldlRecOn (motive := fun m => Memory.wf m = true) _ _ hm fun m hm i _ => cellsWf_cellSet _ _ hm

/-- Module reset keeps the form. -/
theorem resetModule_wf {s : State} (h : Memory.wf s.mem = true) : Memory.wf s.resetModule.mem = true :=
  cellsWf_filter _ (pinnedLost_wf h)

/-- The ROM's boot keeps the form. -/
theorem romBoot_wf {s : State} (flash : List Byte) (at_ entry : Nat) (refused : Bool) (h : Memory.wf s.mem = true) :
    Memory.wf (s.romBoot flash at_ entry refused).mem = true := by
  unfold State.romBoot
  dsimp only
  split
  · exact h
  · exact cellsWf_writeBytes _ _ h

theorem reset_mem_wf : Memory.wf State.reset.mem = true := rfl

end Sys2Proof.Machine
end

