-- ==== Sys2Proof/Laws/PerInstr.lean ====
section
/-!
SUPPORT. The family Encoding, instruction by instruction: the words of a well-formed instruction decode to it (R36, R48). A step of
the device's own agents has no words.
-/

set_option linter.unusedSimpArgs false

namespace Sys2Proof.Laws.Encoding

/-- What the family says of an instruction. -/
def Statement (i : Instr) : Prop := i.wf = true → encode i ≠ [] → decodeWords (encode i) = .ok (Instr.firstOfWord i)

theorem add (d a b) : Statement (.add d a b) := fun h _ => by
  show checkWf (decodeMajor (encA 0 d a b 0)) = _
  rw [major_00 (encA_m ..)]
  unfold decodeAlu
  simp only [encA_d, encA_a, encA_b, encA_f]
  exact checkWf_ok h

theorem sub (d a b) : Statement (.sub d a b) := fun h _ => by
  show checkWf (decodeMajor (encA 0 d a b 1)) = _
  rw [major_00 (encA_m ..)]
  unfold decodeAlu
  simp only [encA_d, encA_a, encA_b, encA_f]
  exact checkWf_ok h

theorem and (d a b) : Statement (.and d a b) := fun h _ => by
  show checkWf (decodeMajor (encA 0 d a b 2)) = _
  rw [major_00 (encA_m ..)]
  unfold decodeAlu
  simp only [encA_d, encA_a, encA_b, encA_f]
  exact checkWf_ok h

theorem or (d a b) : Statement (.or d a b) := fun h _ => by
  show checkWf (decodeMajor (encA 0 d a b 3)) = _
  rw [major_00 (encA_m ..)]
  unfold decodeAlu
  simp only [encA_d, encA_a, encA_b, encA_f]
  exact checkWf_ok h

theorem xor (d a b) : Statement (.xor d a b) := fun h _ => by
  show checkWf (decodeMajor (encA 0 d a b 4)) = _
  rw [major_00 (encA_m ..)]
  unfold decodeAlu
  simp only [encA_d, encA_a, encA_b, encA_f]
  exact checkWf_ok h

theorem andn (d a b) : Statement (.andn d a b) := fun h _ => by
  show checkWf (decodeMajor (encA 0 d a b 5)) = _
  rw [major_00 (encA_m ..)]
  unfold decodeAlu
  simp only [encA_d, encA_a, encA_b, encA_f]
  exact checkWf_ok h

theorem shl (d a b) : Statement (.shl d a b) := fun h _ => by
  show checkWf (decodeMajor (encA 0 d a b 6)) = _
  rw [major_00 (encA_m ..)]
  unfold decodeAlu
  simp only [encA_d, encA_a, encA_b, encA_f]
  exact checkWf_ok h

theorem shr (d a b) : Statement (.shr d a b) := fun h _ => by
  show checkWf (decodeMajor (encA 0 d a b 7)) = _
  rw [major_00 (encA_m ..)]
  unfold decodeAlu
  simp only [encA_d, encA_a, encA_b, encA_f]
  exact checkWf_ok h

theorem sar (d a b) : Statement (.sar d a b) := fun h _ => by
  show checkWf (decodeMajor (encA 0 d a b 8)) = _
  rw [major_00 (encA_m ..)]
  unfold decodeAlu
  simp only [encA_d, encA_a, encA_b, encA_f]
  exact checkWf_ok h

theorem rol (d a b) : Statement (.rol d a b) := fun h _ => by
  show checkWf (decodeMajor (encA 0 d a b 9)) = _
  rw [major_00 (encA_m ..)]
  unfold decodeAlu
  simp only [encA_d, encA_a, encA_b, encA_f]
  exact checkWf_ok h

theorem mul (d a b) : Statement (.mul d a b) := fun h _ => by
  show checkWf (decodeMajor (encA 0 d a b 10)) = _
  rw [major_00 (encA_m ..)]
  unfold decodeAlu
  simp only [encA_d, encA_a, encA_b, encA_f]
  exact checkWf_ok h

theorem mulh (d a b) : Statement (.mulh d a b) := fun h _ => by
  show checkWf (decodeMajor (encA 0 d a b 11)) = _
  rw [major_00 (encA_m ..)]
  unfold decodeAlu
  simp only [encA_d, encA_a, encA_b, encA_f]
  exact checkWf_ok h

theorem mulhu (d a b) : Statement (.mulhu d a b) := fun h _ => by
  show checkWf (decodeMajor (encA 0 d a b 12)) = _
  rw [major_00 (encA_m ..)]
  unfold decodeAlu
  simp only [encA_d, encA_a, encA_b, encA_f]
  exact checkWf_ok h

theorem div (d a b) : Statement (.div d a b) := fun h _ => by
  show checkWf (decodeMajor (encA 0 d a b 13)) = _
  rw [major_00 (encA_m ..)]
  unfold decodeAlu
  simp only [encA_d, encA_a, encA_b, encA_f]
  exact checkWf_ok h

theorem divu (d a b) : Statement (.divu d a b) := fun h _ => by
  show checkWf (decodeMajor (encA 0 d a b 14)) = _
  rw [major_00 (encA_m ..)]
  unfold decodeAlu
  simp only [encA_d, encA_a, encA_b, encA_f]
  exact checkWf_ok h

theorem rem (d a b) : Statement (.rem d a b) := fun h _ => by
  show checkWf (decodeMajor (encA 0 d a b 15)) = _
  rw [major_00 (encA_m ..)]
  unfold decodeAlu
  simp only [encA_d, encA_a, encA_b, encA_f]
  exact checkWf_ok h

theorem remu (d a b) : Statement (.remu d a b) := fun h _ => by
  show checkWf (decodeMajor (encA 0 d a b 16)) = _
  rw [major_00 (encA_m ..)]
  unfold decodeAlu
  simp only [encA_d, encA_a, encA_b, encA_f]
  exact checkWf_ok h

theorem min (d a b) : Statement (.min d a b) := fun h _ => by
  show checkWf (decodeMajor (encA 0 d a b 17)) = _
  rw [major_00 (encA_m ..)]
  unfold decodeAlu
  simp only [encA_d, encA_a, encA_b, encA_f]
  exact checkWf_ok h

theorem max (d a b) : Statement (.max d a b) := fun h _ => by
  show checkWf (decodeMajor (encA 0 d a b 18)) = _
  rw [major_00 (encA_m ..)]
  unfold decodeAlu
  simp only [encA_d, encA_a, encA_b, encA_f]
  exact checkWf_ok h

theorem minu (d a b) : Statement (.minu d a b) := fun h _ => by
  show checkWf (decodeMajor (encA 0 d a b 19)) = _
  rw [major_00 (encA_m ..)]
  unfold decodeAlu
  simp only [encA_d, encA_a, encA_b, encA_f]
  exact checkWf_ok h

theorem maxu (d a b) : Statement (.maxu d a b) := fun h _ => by
  show checkWf (decodeMajor (encA 0 d a b 20)) = _
  rw [major_00 (encA_m ..)]
  unfold decodeAlu
  simp only [encA_d, encA_a, encA_b, encA_f]
  exact checkWf_ok h

theorem slt (d a b) : Statement (.slt d a b) := fun h _ => by
  show checkWf (decodeMajor (encA 0 d a b 21)) = _
  rw [major_00 (encA_m ..)]
  unfold decodeAlu
  simp only [encA_d, encA_a, encA_b, encA_f]
  exact checkWf_ok h

theorem sltu (d a b) : Statement (.sltu d a b) := fun h _ => by
  show checkWf (decodeMajor (encA 0 d a b 22)) = _
  rw [major_00 (encA_m ..)]
  unfold decodeAlu
  simp only [encA_d, encA_a, encA_b, encA_f]
  exact checkWf_ok h

theorem seq (d a b) : Statement (.seq d a b) := fun h _ => by
  show checkWf (decodeMajor (encA 0 d a b 23)) = _
  rw [major_00 (encA_m ..)]
  unfold decodeAlu
  simp only [encA_d, encA_a, encA_b, encA_f]
  exact checkWf_ok h

theorem clz (d a) : Statement (.clz d a) := fun h _ => by
  show checkWf (decodeMajor (encA 0 d a 0 24)) = _
  rw [major_00 (encA_m ..)]
  unfold decodeAlu
  simp only [encA_d, encA_a, encA_b, encA_f]
  exact checkWf_ok h

theorem ctz (d a) : Statement (.ctz d a) := fun h _ => by
  show checkWf (decodeMajor (encA 0 d a 0 25)) = _
  rw [major_00 (encA_m ..)]
  unfold decodeAlu
  simp only [encA_d, encA_a, encA_b, encA_f]
  exact checkWf_ok h

theorem popc (d a) : Statement (.popc d a) := fun h _ => by
  show checkWf (decodeMajor (encA 0 d a 0 26)) = _
  rw [major_00 (encA_m ..)]
  unfold decodeAlu
  simp only [encA_d, encA_a, encA_b, encA_f]
  exact checkWf_ok h

theorem brev (d a) : Statement (.brev d a) := fun h _ => by
  show checkWf (decodeMajor (encA 0 d a 0 27)) = _
  rw [major_00 (encA_m ..)]
  unfold decodeAlu
  simp only [encA_d, encA_a, encA_b, encA_f]
  exact checkWf_ok h

theorem bswap (d a) : Statement (.bswap d a) := fun h _ => by
  show checkWf (decodeMajor (encA 0 d a 0 28)) = _
  rw [major_00 (encA_m ..)]
  unfold decodeAlu
  simp only [encA_d, encA_a, encA_b, encA_f]
  exact checkWf_ok h

theorem addw (d a b) : Statement (.addw d a b) := fun h _ => by
  show checkWf (decodeMajor (encA 0 d a b 29)) = _
  rw [major_00 (encA_m ..)]
  unfold decodeAlu
  simp only [encA_d, encA_a, encA_b, encA_f]
  exact checkWf_ok h

theorem subw (d a b) : Statement (.subw d a b) := fun h _ => by
  show checkWf (decodeMajor (encA 0 d a b 30)) = _
  rw [major_00 (encA_m ..)]
  unfold decodeAlu
  simp only [encA_d, encA_a, encA_b, encA_f]
  exact checkWf_ok h

theorem mulw (d a b) : Statement (.mulw d a b) := fun h _ => by
  show checkWf (decodeMajor (encA 0 d a b 31)) = _
  rw [major_00 (encA_m ..)]
  unfold decodeAlu
  simp only [encA_d, encA_a, encA_b, encA_f]
  exact checkWf_ok h

theorem addi (d a i) : Statement (.addi d a i) := fun h _ => by
  show checkWf (decodeMajor (encI 1 d a i)) = _
  rw [major_01 (encI_m ..)]
  simp only [encI_d, encI_a, encI_i]
  exact checkWf_ok h

theorem andi (d a i) : Statement (.andi d a i) := fun h _ => by
  show checkWf (decodeMajor (encI 2 d a i)) = _
  rw [major_02 (encI_m ..)]
  simp only [encI_d, encI_a, encI_i]
  exact checkWf_ok h

theorem ori (d a i) : Statement (.ori d a i) := fun h _ => by
  show checkWf (decodeMajor (encI 3 d a i)) = _
  rw [major_03 (encI_m ..)]
  simp only [encI_d, encI_a, encI_i]
  exact checkWf_ok h

theorem xori (d a i) : Statement (.xori d a i) := fun h _ => by
  show checkWf (decodeMajor (encI 4 d a i)) = _
  rw [major_04 (encI_m ..)]
  simp only [encI_d, encI_a, encI_i]
  exact checkWf_ok h

theorem slti (d a i) : Statement (.slti d a i) := fun h _ => by
  show checkWf (decodeMajor (encI 8 d a i)) = _
  rw [major_08 (encI_m ..)]
  simp only [encI_d, encI_a, encI_i]
  exact checkWf_ok h

theorem sltui (d a i) : Statement (.sltui d a i) := fun h _ => by
  show checkWf (decodeMajor (encI 9 d a i)) = _
  rw [major_09 (encI_m ..)]
  simp only [encI_d, encI_a, encI_i]
  exact checkWf_ok h

theorem seqi (d a i) : Statement (.seqi d a i) := fun h _ => by
  show checkWf (decodeMajor (encI 10 d a i)) = _
  rw [major_0a (encI_m ..)]
  simp only [encI_d, encI_a, encI_i]
  exact checkWf_ok h

theorem muli (d a i) : Statement (.muli d a i) := fun h _ => by
  show checkWf (decodeMajor (encI 11 d a i)) = _
  rw [major_0b (encI_m ..)]
  simp only [encI_d, encI_a, encI_i]
  exact checkWf_ok h

theorem shli (d a n) : Statement (.shli d a n) := fun h _ => by
  show checkWf (decodeMajor (encI 5 d a (0#8 ++ n))) = _
  rw [major_05 (encI_m ..)]
  simp only [encI_d, encI_a, encI_i, shift_zero, shift_count]
  exact checkWf_ok h

theorem shri (d a n) : Statement (.shri d a n) := fun h _ => by
  show checkWf (decodeMajor (encI 6 d a (0#8 ++ n))) = _
  rw [major_06 (encI_m ..)]
  simp only [encI_d, encI_a, encI_i, shift_zero, shift_count]
  exact checkWf_ok h

theorem sari (d a n) : Statement (.sari d a n) := fun h _ => by
  show checkWf (decodeMajor (encI 7 d a (0#8 ++ n))) = _
  rw [major_07 (encI_m ..)]
  simp only [encI_d, encI_a, encI_i, shift_zero, shift_count]
  exact checkWf_ok h

theorem lui (d i) : Statement (.lui d i) := fun h _ => by
  show checkWf (decodeMajor (encU 12 d i)) = _
  rw [major_0c (encU_m ..)]
  simp only [encU_d, encU_i]
  exact checkWf_ok h

theorem auipc (d i) : Statement (.auipc d i) := fun h _ => by
  show checkWf (decodeMajor (encU 13 d i)) = _
  rw [major_0d (encU_m ..)]
  simp only [encU_d, encU_i]
  exact checkWf_ok h

theorem lhi (d i) : Statement (.lhi d i) := fun h _ => by
  show checkWf (decodeMajor (encU 14 d i)) = _
  rw [major_0e (encU_m ..)]
  simp only [encU_d, encU_i]
  exact checkWf_ok h

theorem ld (d a z i) : Statement (.ld d a z i) := fun h _ => by
  show checkWf (decodeMajor ((16 : BitVec 6) ++ d ++ a ++ z ++ i : BitVec 32)) = _
  rw [major_10 (memPlain_m ..)]
  simp only [memPlain_d, memPlain_a, memPlain_z, memPlain_i]
  exact checkWf_ok h

theorem st (d a z i) : Statement (.st d a z i) := fun h _ => by
  show checkWf (decodeMajor ((17 : BitVec 6) ++ d ++ a ++ z ++ i : BitVec 32)) = _
  rw [major_11 (memPlain_m ..)]
  simp only [memPlain_d, memPlain_a, memPlain_z, memPlain_i]
  exact checkWf_ok h

theorem lda (d a z s i) : Statement (.lda d a z s i) := fun h _ => by
  show checkWf (decodeMajor ((18 : BitVec 6) ++ d ++ a ++ z ++ s ++ i : BitVec 32)) = _
  rw [major_12 (memOrdered_m ..)]
  simp only [memOrdered_d, memOrdered_a, memOrdered_z, memOrdered_s, memOrdered_i]
  exact checkWf_ok h

theorem stl (d a z s i) : Statement (.stl d a z s i) := fun h _ => by
  show checkWf (decodeMajor ((19 : BitVec 6) ++ d ++ a ++ z ++ s ++ i : BitVec 32)) = _
  rw [major_13 (memOrdered_m ..)]
  simp only [memOrdered_d, memOrdered_a, memOrdered_z, memOrdered_s, memOrdered_i]
  exact checkWf_ok h

theorem amowAdd (d a b s r) : Statement (.amowAdd d a b s r) := fun h _ => by
  show checkWf (decodeMajor (encA 20 d a b (0#4 ++ s ++ r))) = _
  rw [major_14 (encA_m ..)]
  unfold decodeAmow
  simp only [encA_d, encA_a, encA_b, encA_f, fSub_eq, fAmoScope_eq, fAr_eq, amoFn_op, amoFn_scope, amoFn_ar]
  exact checkWf_ok h

theorem amowAnd (d a b s r) : Statement (.amowAnd d a b s r) := fun h _ => by
  show checkWf (decodeMajor (encA 20 d a b (1#4 ++ s ++ r))) = _
  rw [major_14 (encA_m ..)]
  unfold decodeAmow
  simp only [encA_d, encA_a, encA_b, encA_f, fSub_eq, fAmoScope_eq, fAr_eq, amoFn_op, amoFn_scope, amoFn_ar]
  exact checkWf_ok h

theorem amowOr (d a b s r) : Statement (.amowOr d a b s r) := fun h _ => by
  show checkWf (decodeMajor (encA 20 d a b (2#4 ++ s ++ r))) = _
  rw [major_14 (encA_m ..)]
  unfold decodeAmow
  simp only [encA_d, encA_a, encA_b, encA_f, fSub_eq, fAmoScope_eq, fAr_eq, amoFn_op, amoFn_scope, amoFn_ar]
  exact checkWf_ok h

theorem amowXor (d a b s r) : Statement (.amowXor d a b s r) := fun h _ => by
  show checkWf (decodeMajor (encA 20 d a b (3#4 ++ s ++ r))) = _
  rw [major_14 (encA_m ..)]
  unfold decodeAmow
  simp only [encA_d, encA_a, encA_b, encA_f, fSub_eq, fAmoScope_eq, fAr_eq, amoFn_op, amoFn_scope, amoFn_ar]
  exact checkWf_ok h

theorem amowMin (d a b s r) : Statement (.amowMin d a b s r) := fun h _ => by
  show checkWf (decodeMajor (encA 20 d a b (4#4 ++ s ++ r))) = _
  rw [major_14 (encA_m ..)]
  unfold decodeAmow
  simp only [encA_d, encA_a, encA_b, encA_f, fSub_eq, fAmoScope_eq, fAr_eq, amoFn_op, amoFn_scope, amoFn_ar]
  exact checkWf_ok h

theorem amowMax (d a b s r) : Statement (.amowMax d a b s r) := fun h _ => by
  show checkWf (decodeMajor (encA 20 d a b (5#4 ++ s ++ r))) = _
  rw [major_14 (encA_m ..)]
  unfold decodeAmow
  simp only [encA_d, encA_a, encA_b, encA_f, fSub_eq, fAmoScope_eq, fAr_eq, amoFn_op, amoFn_scope, amoFn_ar]
  exact checkWf_ok h

theorem amowMinu (d a b s r) : Statement (.amowMinu d a b s r) := fun h _ => by
  show checkWf (decodeMajor (encA 20 d a b (6#4 ++ s ++ r))) = _
  rw [major_14 (encA_m ..)]
  unfold decodeAmow
  simp only [encA_d, encA_a, encA_b, encA_f, fSub_eq, fAmoScope_eq, fAr_eq, amoFn_op, amoFn_scope, amoFn_ar]
  exact checkWf_ok h

theorem amowMaxu (d a b s r) : Statement (.amowMaxu d a b s r) := fun h _ => by
  show checkWf (decodeMajor (encA 20 d a b (7#4 ++ s ++ r))) = _
  rw [major_14 (encA_m ..)]
  unfold decodeAmow
  simp only [encA_d, encA_a, encA_b, encA_f, fSub_eq, fAmoScope_eq, fAr_eq, amoFn_op, amoFn_scope, amoFn_ar]
  exact checkWf_ok h

theorem amowXchg (d a b s r) : Statement (.amowXchg d a b s r) := fun h _ => by
  show checkWf (decodeMajor (encA 20 d a b (8#4 ++ s ++ r))) = _
  rw [major_14 (encA_m ..)]
  unfold decodeAmow
  simp only [encA_d, encA_a, encA_b, encA_f, fSub_eq, fAmoScope_eq, fAr_eq, amoFn_op, amoFn_scope, amoFn_ar]
  exact checkWf_ok h

theorem amowCas (d a b s r) : Statement (.amowCas d a b s r) := fun h _ => by
  show checkWf (decodeMajor (encA 20 d a b (9#4 ++ s ++ r))) = _
  rw [major_14 (encA_m ..)]
  unfold decodeAmow
  simp only [encA_d, encA_a, encA_b, encA_f, fSub_eq, fAmoScope_eq, fAr_eq, amoFn_op, amoFn_scope, amoFn_ar]
  exact checkWf_ok h

theorem amowFadd (d a b s r) : Statement (.amowFadd d a b s r) := fun h _ => by
  show checkWf (decodeMajor (encA 20 d a b (10#4 ++ s ++ r))) = _
  rw [major_14 (encA_m ..)]
  unfold decodeAmow
  simp only [encA_d, encA_a, encA_b, encA_f, fSub_eq, fAmoScope_eq, fAr_eq, amoFn_op, amoFn_scope, amoFn_ar]
  exact checkWf_ok h

theorem amowFmax32 (d a b s r) : Statement (.amowFmax32 d a b s r) := fun h _ => by
  show checkWf (decodeMajor (encA 20 d a b (11#4 ++ s ++ r))) = _
  rw [major_14 (encA_m ..)]
  unfold decodeAmow
  simp only [encA_d, encA_a, encA_b, encA_f, fSub_eq, fAmoScope_eq, fAr_eq, amoFn_op, amoFn_scope, amoFn_ar]
  exact checkWf_ok h

theorem amowFamax32 (d a b s r) : Statement (.amowFamax32 d a b s r) := fun h _ => by
  show checkWf (decodeMajor (encA 20 d a b (12#4 ++ s ++ r))) = _
  rw [major_14 (encA_m ..)]
  unfold decodeAmow
  simp only [encA_d, encA_a, encA_b, encA_f, fSub_eq, fAmoScope_eq, fAr_eq, amoFn_op, amoFn_scope, amoFn_ar]
  exact checkWf_ok h

theorem amodAdd (d a b s r) : Statement (.amodAdd d a b s r) := fun h _ => by
  show checkWf (decodeMajor (encA 21 d a b (0#4 ++ s ++ r))) = _
  rw [major_15 (encA_m ..)]
  unfold decodeAmod
  simp only [encA_d, encA_a, encA_b, encA_f, fSub_eq, fAmoScope_eq, fAr_eq, amoFn_op, amoFn_scope, amoFn_ar]
  exact checkWf_ok h

theorem amodAnd (d a b s r) : Statement (.amodAnd d a b s r) := fun h _ => by
  show checkWf (decodeMajor (encA 21 d a b (1#4 ++ s ++ r))) = _
  rw [major_15 (encA_m ..)]
  unfold decodeAmod
  simp only [encA_d, encA_a, encA_b, encA_f, fSub_eq, fAmoScope_eq, fAr_eq, amoFn_op, amoFn_scope, amoFn_ar]
  exact checkWf_ok h

theorem amodOr (d a b s r) : Statement (.amodOr d a b s r) := fun h _ => by
  show checkWf (decodeMajor (encA 21 d a b (2#4 ++ s ++ r))) = _
  rw [major_15 (encA_m ..)]
  unfold decodeAmod
  simp only [encA_d, encA_a, encA_b, encA_f, fSub_eq, fAmoScope_eq, fAr_eq, amoFn_op, amoFn_scope, amoFn_ar]
  exact checkWf_ok h

theorem amodXor (d a b s r) : Statement (.amodXor d a b s r) := fun h _ => by
  show checkWf (decodeMajor (encA 21 d a b (3#4 ++ s ++ r))) = _
  rw [major_15 (encA_m ..)]
  unfold decodeAmod
  simp only [encA_d, encA_a, encA_b, encA_f, fSub_eq, fAmoScope_eq, fAr_eq, amoFn_op, amoFn_scope, amoFn_ar]
  exact checkWf_ok h

theorem amodMin (d a b s r) : Statement (.amodMin d a b s r) := fun h _ => by
  show checkWf (decodeMajor (encA 21 d a b (4#4 ++ s ++ r))) = _
  rw [major_15 (encA_m ..)]
  unfold decodeAmod
  simp only [encA_d, encA_a, encA_b, encA_f, fSub_eq, fAmoScope_eq, fAr_eq, amoFn_op, amoFn_scope, amoFn_ar]
  exact checkWf_ok h

theorem amodMax (d a b s r) : Statement (.amodMax d a b s r) := fun h _ => by
  show checkWf (decodeMajor (encA 21 d a b (5#4 ++ s ++ r))) = _
  rw [major_15 (encA_m ..)]
  unfold decodeAmod
  simp only [encA_d, encA_a, encA_b, encA_f, fSub_eq, fAmoScope_eq, fAr_eq, amoFn_op, amoFn_scope, amoFn_ar]
  exact checkWf_ok h

theorem amodMinu (d a b s r) : Statement (.amodMinu d a b s r) := fun h _ => by
  show checkWf (decodeMajor (encA 21 d a b (6#4 ++ s ++ r))) = _
  rw [major_15 (encA_m ..)]
  unfold decodeAmod
  simp only [encA_d, encA_a, encA_b, encA_f, fSub_eq, fAmoScope_eq, fAr_eq, amoFn_op, amoFn_scope, amoFn_ar]
  exact checkWf_ok h

theorem amodMaxu (d a b s r) : Statement (.amodMaxu d a b s r) := fun h _ => by
  show checkWf (decodeMajor (encA 21 d a b (7#4 ++ s ++ r))) = _
  rw [major_15 (encA_m ..)]
  unfold decodeAmod
  simp only [encA_d, encA_a, encA_b, encA_f, fSub_eq, fAmoScope_eq, fAr_eq, amoFn_op, amoFn_scope, amoFn_ar]
  exact checkWf_ok h

theorem amodXchg (d a b s r) : Statement (.amodXchg d a b s r) := fun h _ => by
  show checkWf (decodeMajor (encA 21 d a b (8#4 ++ s ++ r))) = _
  rw [major_15 (encA_m ..)]
  unfold decodeAmod
  simp only [encA_d, encA_a, encA_b, encA_f, fSub_eq, fAmoScope_eq, fAr_eq, amoFn_op, amoFn_scope, amoFn_ar]
  exact checkWf_ok h

theorem amodCas (d a b s r) : Statement (.amodCas d a b s r) := fun h _ => by
  show checkWf (decodeMajor (encA 21 d a b (9#4 ++ s ++ r))) = _
  rw [major_15 (encA_m ..)]
  unfold decodeAmod
  simp only [encA_d, encA_a, encA_b, encA_f, fSub_eq, fAmoScope_eq, fAr_eq, amoFn_op, amoFn_scope, amoFn_ar]
  exact checkWf_ok h

theorem fenceAcq (s) : Statement (.fenceAcq s) := fun h _ => by
  show checkWf (decodeMajor (encX 0x16 0 0 0 0 (0#1 ++ s))) = _
  rw [major_16 (encX_m ..)]
  unfold decodeFence
  simp only [encX_d, encX_a, encX_b, encX_x, encX_y, noRegs, fence_scope, fence_zero]
  exact checkWf_ok h

theorem fenceRel (s) : Statement (.fenceRel s) := fun h _ => by
  show checkWf (decodeMajor (encX 0x16 0 0 0 1 (0#1 ++ s))) = _
  rw [major_16 (encX_m ..)]
  unfold decodeFence
  simp only [encX_d, encX_a, encX_b, encX_x, encX_y, noRegs, fence_scope, fence_zero]
  exact checkWf_ok h

theorem fenceFull (s) : Statement (.fenceFull s) := fun h _ => by
  show checkWf (decodeMajor (encX 0x16 0 0 0 2 (0#1 ++ s))) = _
  rw [major_16 (encX_m ..)]
  unfold decodeFence
  simp only [encX_d, encX_a, encX_b, encX_x, encX_y, noRegs, fence_scope, fence_zero]
  exact checkWf_ok h

theorem ifence : Statement .ifence := fun h _ => by
  show checkWf (decodeMajor (encX 0x16 0 0 0 3 0)) = _
  rw [major_16 (encX_m ..)]
  unfold decodeFence
  simp only [encX_d, encX_a, encX_b, encX_x, encX_y, noRegs, fence_scope, fence_zero]
  exact checkWf_ok h

theorem fenceEng : Statement .fenceEng := fun h _ => by
  show checkWf (decodeMajor (encX 0x16 0 0 0 4 0)) = _
  rw [major_16 (encX_m ..)]
  unfold decodeFence
  simp only [encX_d, encX_a, encX_b, encX_x, encX_y, noRegs, fence_scope, fence_zero]
  exact checkWf_ok h

theorem br (i) : Statement (.br i) := fun h _ => by
  show checkWf (decodeMajor ((24 : BitVec 6) ++ i : BitVec 32)) = _
  rw [major_18 (jump_m ..)]
  simp only [jump_i]
  exact checkWf_ok h

theorem call (i) : Statement (.call i) := fun h _ => by
  show checkWf (decodeMajor ((25 : BitVec 6) ++ i : BitVec 32)) = _
  rw [major_19 (jump_m ..)]
  simp only [jump_i]
  exact checkWf_ok h

theorem bz (a i) : Statement (.bz a i) := fun h _ => by
  show checkWf (decodeMajor (encU 26 a i)) = _
  rw [major_1a (encU_m ..)]
  simp only [encU_d, encU_i]
  exact checkWf_ok h

theorem bnz (a i) : Statement (.bnz a i) := fun h _ => by
  show checkWf (decodeMajor (encU 27 a i)) = _
  rw [major_1b (encU_m ..)]
  simp only [encU_d, encU_i]
  exact checkWf_ok h

theorem beq (a b i) : Statement (.beq a b i) := fun h _ => by
  show checkWf (decodeMajor (encI 28 a b i)) = _
  rw [major_1c (encI_m ..)]
  simp only [encI_d, encI_a, encI_i]
  exact checkWf_ok h

theorem bne (a b i) : Statement (.bne a b i) := fun h _ => by
  show checkWf (decodeMajor (encI 29 a b i)) = _
  rw [major_1d (encI_m ..)]
  simp only [encI_d, encI_a, encI_i]
  exact checkWf_ok h

theorem blt (a b i) : Statement (.blt a b i) := fun h _ => by
  show checkWf (decodeMajor (encI 30 a b i)) = _
  rw [major_1e (encI_m ..)]
  simp only [encI_d, encI_a, encI_i]
  exact checkWf_ok h

theorem bge (a b i) : Statement (.bge a b i) := fun h _ => by
  show checkWf (decodeMajor (encI 31 a b i)) = _
  rw [major_1f (encI_m ..)]
  simp only [encI_d, encI_a, encI_i]
  exact checkWf_ok h

theorem bltu (a b i) : Statement (.bltu a b i) := fun h _ => by
  show checkWf (decodeMajor (encI 32 a b i)) = _
  rw [major_20 (encI_m ..)]
  simp only [encI_d, encI_a, encI_i]
  exact checkWf_ok h

theorem bgeu (a b i) : Statement (.bgeu a b i) := fun h _ => by
  show checkWf (decodeMajor (encI 33 a b i)) = _
  rw [major_21 (encI_m ..)]
  simp only [encI_d, encI_a, encI_i]
  exact checkWf_ok h

theorem jalr (d a i) : Statement (.jalr d a i) := fun h _ => by
  show checkWf (decodeMajor (encI 0x22 d a i)) = _
  rw [major_22 (encI_m ..)]
  simp only [encI_d, encI_a, encI_i]
  exact checkWf_ok h

theorem lrun (a i) : Statement (.lrun a i) := fun h _ => by
  show checkWf (decodeMajor (encI 0x24 0 a i)) = _
  rw [major_24 (encI_m ..)]
  simp only [encI_d, encI_a, encI_i]
  exact checkWf_ok h

theorem lsync (a) : Statement (.lsync a) := fun h _ => by
  show checkWf (decodeMajor (encX 0x25 0 a 0 0 0)) = _
  rw [major_25 (encX_m ..)]
  simp only [encX_d, encX_a, encX_b, encX_x, encX_y]
  exact checkWf_ok h

theorem kmov (d a) : Statement (.kmov d a) := fun h _ => by
  show checkWf (decodeMajor (encA 0x26 (0#3 ++ d) (0#3 ++ a) 0 0)) = _
  rw [major_26 (encA_m ..)]
  unfold decodeMask
  simp only [encA_d, encA_a, encA_b, encA_f, fKd_eq, fKa_eq, fKb_eq, hiD_eq, hiA_eq, hiB_eq, low3, high3]
  exact checkWf_ok h

theorem kand (d a b) : Statement (.kand d a b) := fun h _ => by
  show checkWf (decodeMajor (encA 0x26 (0#3 ++ d) (0#3 ++ a) (0#3 ++ b) 1)) = _
  rw [major_26 (encA_m ..)]
  unfold decodeMask
  simp only [encA_d, encA_a, encA_b, encA_f, fKd_eq, fKa_eq, fKb_eq, hiD_eq, hiA_eq, hiB_eq, low3, high3]
  exact checkWf_ok h

theorem kor (d a b) : Statement (.kor d a b) := fun h _ => by
  show checkWf (decodeMajor (encA 0x26 (0#3 ++ d) (0#3 ++ a) (0#3 ++ b) 2)) = _
  rw [major_26 (encA_m ..)]
  unfold decodeMask
  simp only [encA_d, encA_a, encA_b, encA_f, fKd_eq, fKa_eq, fKb_eq, hiD_eq, hiA_eq, hiB_eq, low3, high3]
  exact checkWf_ok h

theorem kxor (d a b) : Statement (.kxor d a b) := fun h _ => by
  show checkWf (decodeMajor (encA 0x26 (0#3 ++ d) (0#3 ++ a) (0#3 ++ b) 3)) = _
  rw [major_26 (encA_m ..)]
  unfold decodeMask
  simp only [encA_d, encA_a, encA_b, encA_f, fKd_eq, fKa_eq, fKb_eq, hiD_eq, hiA_eq, hiB_eq, low3, high3]
  exact checkWf_ok h

theorem kandn (d a b) : Statement (.kandn d a b) := fun h _ => by
  show checkWf (decodeMajor (encA 0x26 (0#3 ++ d) (0#3 ++ a) (0#3 ++ b) 4)) = _
  rw [major_26 (encA_m ..)]
  unfold decodeMask
  simp only [encA_d, encA_a, encA_b, encA_f, fKd_eq, fKa_eq, fKb_eq, hiD_eq, hiA_eq, hiB_eq, low3, high3]
  exact checkWf_ok h

theorem knot (d a) : Statement (.knot d a) := fun h _ => by
  show checkWf (decodeMajor (encA 0x26 (0#3 ++ d) (0#3 ++ a) 0 5)) = _
  rw [major_26 (encA_m ..)]
  unfold decodeMask
  simp only [encA_d, encA_a, encA_b, encA_f, fKd_eq, fKa_eq, fKb_eq, hiD_eq, hiA_eq, hiB_eq, low3, high3]
  exact checkWf_ok h

theorem kpopc (d a) : Statement (.kpopc d a) := fun h _ => by
  show checkWf (decodeMajor (encA 0x26 d (0#3 ++ a) 0 6)) = _
  rw [major_26 (encA_m ..)]
  unfold decodeMask
  simp only [encA_d, encA_a, encA_b, encA_f, fKd_eq, fKa_eq, fKb_eq, hiD_eq, hiA_eq, hiB_eq, low3, high3]
  exact checkWf_ok h

theorem kffs (d a) : Statement (.kffs d a) := fun h _ => by
  show checkWf (decodeMajor (encA 0x26 d (0#3 ++ a) 0 7)) = _
  rw [major_26 (encA_m ..)]
  unfold decodeMask
  simp only [encA_d, encA_a, encA_b, encA_f, fKd_eq, fKa_eq, fKb_eq, hiD_eq, hiA_eq, hiB_eq, low3, high3]
  exact checkWf_ok h

theorem ktos (d a) : Statement (.ktos d a) := fun h _ => by
  show checkWf (decodeMajor (encA 0x26 d (0#3 ++ a) 0 8)) = _
  rw [major_26 (encA_m ..)]
  unfold decodeMask
  simp only [encA_d, encA_a, encA_b, encA_f, fKd_eq, fKa_eq, fKb_eq, hiD_eq, hiA_eq, hiB_eq, low3, high3]
  exact checkWf_ok h

theorem stok (d a) : Statement (.stok d a) := fun h _ => by
  show checkWf (decodeMajor (encA 0x26 (0#3 ++ d) a 0 9)) = _
  rw [major_26 (encA_m ..)]
  unfold decodeMask
  simp only [encA_d, encA_a, encA_b, encA_f, fKd_eq, fKa_eq, fKb_eq, hiD_eq, hiA_eq, hiB_eq, low3, high3]
  exact checkWf_ok h

theorem divpush (a b) : Statement (.divpush a b) := fun h _ => by
  show checkWf (decodeMajor (encA 0x26 0 (0#3 ++ a) b 10)) = _
  rw [major_26 (encA_m ..)]
  unfold decodeMask
  simp only [encA_d, encA_a, encA_b, encA_f, fKd_eq, fKa_eq, fKb_eq, hiD_eq, hiA_eq, hiB_eq, low3, high3]
  exact checkWf_ok h

theorem divelse : Statement .divelse := fun h _ => by
  show checkWf (decodeMajor (encA 0x26 0 0 0 11)) = _
  rw [major_26 (encA_m ..)]
  unfold decodeMask
  simp only [encA_d, encA_a, encA_b, encA_f, fKd_eq, fKa_eq, fKb_eq, hiD_eq, hiA_eq, hiB_eq, low3, high3, noRegs]
  exact checkWf_ok h

theorem divpop : Statement .divpop := fun h _ => by
  show checkWf (decodeMajor (encA 0x26 0 0 0 12)) = _
  rw [major_26 (encA_m ..)]
  unfold decodeMask
  simp only [encA_d, encA_a, encA_b, encA_f, fKd_eq, fKa_eq, fKb_eq, hiD_eq, hiA_eq, hiB_eq, low3, high3, noRegs]
  exact checkWf_ok h

theorem kall (d a) : Statement (.kall d a) := fun h _ => by
  show checkWf (decodeMajor (encA 0x26 d (0#3 ++ a) 0 13)) = _
  rw [major_26 (encA_m ..)]
  unfold decodeMask
  simp only [encA_d, encA_a, encA_b, encA_f, fKd_eq, fKa_eq, fKb_eq, hiD_eq, hiA_eq, hiB_eq, low3, high3]
  exact checkWf_ok h

theorem bkany (k i) : Statement (.bkany k i) := fun h _ => by
  show checkWf (decodeMajor (encU 0x27 (0#3 ++ k) i)) = _
  rw [major_27 (encU_m ..)]
  simp only [encU_d, encU_i, fKd_eq, fKa_eq, fKb_eq, hiD_eq, hiA_eq, hiB_eq, low3, high3]
  exact checkWf_ok h

theorem bknone (k i) : Statement (.bknone k i) := fun h _ => by
  show checkWf (decodeMajor (encU 0x28 (0#3 ++ k) i)) = _
  rw [major_28 (encU_m ..)]
  simp only [encU_d, encU_i, fKd_eq, fKa_eq, fKb_eq, hiD_eq, hiA_eq, hiB_eq, low3, high3]
  exact checkWf_ok h

theorem vread (d n t) : Statement (.vread d n t) := fun h _ => by
  show checkWf (decodeMajor ((0x29 : BitVec 6) ++ d ++ n ++ t ++ 0#6 : BitVec 32)) = _
  rw [major_29 (vreadWord_m ..)]
  simp only [vreadWord_d, vreadWord_n, vreadWord_t, vreadWord_z]
  exact checkWf_ok h

theorem sfmtW (d a v) : Statement (.sfmtW d a v) := fun h _ => by
  show checkWf (decodeMajor (encI 0x2A d a (0#2 ++ 0#2 ++ v))) = _
  rw [major_2a (encI_m ..)]
  unfold decodeSfmt
  simp only [encI_d, encI_a, encI_i, fmt_op, fmt_zero, fmt_bits]
  exact checkWf_ok h

theorem sfmtS (d a v) : Statement (.sfmtS d a v) := fun h _ => by
  show checkWf (decodeMajor (encI 0x2A d a (1#2 ++ 0#2 ++ v))) = _
  rw [major_2a (encI_m ..)]
  unfold decodeSfmt
  simp only [encI_d, encI_a, encI_i, fmt_op, fmt_zero, fmt_bits]
  exact checkWf_ok h

theorem sfmtC (d a v) : Statement (.sfmtC d a v) := fun h _ => by
  show checkWf (decodeMajor (encI 0x2A d a (2#2 ++ 0#2 ++ v))) = _
  rw [major_2a (encI_m ..)]
  unfold decodeSfmt
  simp only [encI_d, encI_a, encI_i, fmt_op, fmt_zero, fmt_bits]
  exact checkWf_ok h

theorem csrr (d r) : Statement (.csrr d r) := fun h _ => by
  show checkWf (decodeMajor (encI 0x2B d 0 (0#2 ++ r))) = _
  rw [major_2b (encI_m ..)]
  unfold decodeCsr
  simp only [encI_d, encI_a, encI_i, csr_op, csr_reg]
  exact checkWf_ok h

theorem csrw (d a r) : Statement (.csrw d a r) := fun h _ => by
  show checkWf (decodeMajor (encI 0x2B d a (1#2 ++ r))) = _
  rw [major_2b (encI_m ..)]
  unfold decodeCsr
  simp only [encI_d, encI_a, encI_i, csr_op, csr_reg]
  exact checkWf_ok h

theorem csrs (d a r) : Statement (.csrs d a r) := fun h _ => by
  show checkWf (decodeMajor (encI 0x2B d a (2#2 ++ r))) = _
  rw [major_2b (encI_m ..)]
  unfold decodeCsr
  simp only [encI_d, encI_a, encI_i, csr_op, csr_reg]
  exact checkWf_ok h

theorem csrc (d a r) : Statement (.csrc d a r) := fun h _ => by
  show checkWf (decodeMajor (encI 0x2B d a (3#2 ++ r))) = _
  rw [major_2b (encI_m ..)]
  unfold decodeCsr
  simp only [encI_d, encI_a, encI_i, csr_op, csr_reg]
  exact checkWf_ok h

theorem binit (a b) : Statement (.binit a b) := fun h _ => by
  show checkWf (decodeMajor (encX 0x2c 0 a b 0 0)) = _
  rw [major_2c (encX_m ..)]
  unfold decodeBar
  simp only [encX_d, encX_a, encX_b, encX_x, encX_y]
  exact checkWf_ok h

theorem barrive (d a b) : Statement (.barrive d a b) := fun h _ => by
  show checkWf (decodeMajor (encX 0x2c d a b 1 0)) = _
  rw [major_2c (encX_m ..)]
  unfold decodeBar
  simp only [encX_d, encX_a, encX_b, encX_x, encX_y]
  exact checkWf_ok h

theorem bexpect (a b) : Statement (.bexpect a b) := fun h _ => by
  show checkWf (decodeMajor (encX 0x2c 0 a b 2 0)) = _
  rw [major_2c (encX_m ..)]
  unfold decodeBar
  simp only [encX_d, encX_a, encX_b, encX_x, encX_y]
  exact checkWf_ok h

theorem bwait (d a b) : Statement (.bwait d a b) := fun h _ => by
  show checkWf (decodeMajor (encX 0x2c d a b 3 0)) = _
  rw [major_2c (encX_m ..)]
  unfold decodeBar
  simp only [encX_d, encX_a, encX_b, encX_x, encX_y]
  exact checkWf_ok h

theorem btest (d a b) : Statement (.btest d a b) := fun h _ => by
  show checkWf (decodeMajor (encX 0x2c d a b 4 0)) = _
  rw [major_2c (encX_m ..)]
  unfold decodeBar
  simp only [encX_d, encX_a, encX_b, encX_x, encX_y]
  exact checkWf_ok h

theorem batch (d) : Statement (.batch d) := fun h _ => by
  show checkWf (decodeMajor (encX 0x2c d 0 0 5 0)) = _
  rw [major_2c (encX_m ..)]
  unfold decodeBar
  simp only [encX_d, encX_a, encX_b, encX_x, encX_y]
  exact checkWf_ok h

theorem bbwaitReg (a) : Statement (.bbwaitReg a) := fun h _ => by
  show checkWf (decodeMajor (encX 0x2c 0 a 0 6 0)) = _
  rw [major_2c (encX_m ..)]
  unfold decodeBar
  simp only [encX_d, encX_a, encX_b, encX_x, encX_y]
  exact checkWf_ok h

theorem bbwaitImm (n) : Statement (.bbwaitImm n) := fun h _ => by
  show checkWf (decodeMajor ((0x2C : BitVec 6) ++ 0#10 ++ n ++ 6#4 ++ 8#4 : BitVec 32)) = _
  rw [major_2c (bbwaitWord_m ..)]
  unfold decodeBar
  simp only [bbwaitWord_z, bbwaitWord_n, bbwaitWord_x, bbwaitWord_y]
  exact checkWf_ok h

theorem tcopy (d a b) : Statement (.tcopy d a b) := fun h _ => by
  show checkWf (decodeMajor (encX 0x2d d a b 0 0)) = _
  rw [major_2d (encX_m ..)]
  unfold decodeCopy
  simp only [encX_d, encX_a, encX_b, encX_x, encX_y]
  exact checkWf_ok h

theorem tprefL2 (a b) : Statement (.tprefL2 a b) := fun h _ => by
  show checkWf (decodeMajor (encX 0x2d 0 a b 1 0)) = _
  rw [major_2d (encX_m ..)]
  unfold decodeCopy
  simp only [encX_d, encX_a, encX_b, encX_x, encX_y]
  exact checkWf_ok h

theorem tprefCc (a b) : Statement (.tprefCc a b) := fun h _ => by
  show checkWf (decodeMajor (encX 0x2d 0 a b 1 1)) = _
  rw [major_2d (encX_m ..)]
  unfold decodeCopy
  simp only [encX_d, encX_a, encX_b, encX_x, encX_y]
  exact checkWf_ok h

theorem tquery (d a) : Statement (.tquery d a) := fun h _ => by
  show checkWf (decodeMajor (encX 0x2d d a 0 2 0)) = _
  rw [major_2d (encX_m ..)]
  unfold decodeCopy
  simp only [encX_d, encX_a, encX_b, encX_x, encX_y]
  exact checkWf_ok h

theorem gang (a) : Statement (.gang a) := fun h _ => by
  show checkWf (decodeMajor (encX 0x2e 0 a 0 0 0)) = _
  rw [major_2e (encX_m ..)]
  unfold decodeMat
  simp only [encX_d, encX_a, encX_b, encX_x, encX_y]
  exact checkWf_ok h

theorem planeA (d a b) : Statement (.planeA d a b) := fun h _ => by
  show checkWf (decodeMajor (encX 0x2e d a b 1 0)) = _
  rw [major_2e (encX_m ..)]
  unfold decodeMat
  simp only [encX_d, encX_a, encX_b, encX_x, encX_y]
  exact checkWf_ok h

theorem planeB (d a b) : Statement (.planeB d a b) := fun h _ => by
  show checkWf (decodeMajor (encX 0x2e d a b 1 1)) = _
  rw [major_2e (encX_m ..)]
  unfold decodeMat
  simp only [encX_d, encX_a, encX_b, encX_x, encX_y]
  exact checkWf_ok h

theorem scale (a b) : Statement (.scale a b) := fun h _ => by
  show checkWf (decodeMajor (encX 0x2e 0 a b 2 0)) = _
  rw [major_2e (encX_m ..)]
  unfold decodeMat
  simp only [encX_d, encX_a, encX_b, encX_x, encX_y]
  exact checkWf_ok h

theorem mma (d a b) : Statement (.mma d a b) := fun h _ => by
  show checkWf (decodeMajor (encX 0x2e d a b 3 0)) = _
  rw [major_2e (encX_m ..)]
  unfold decodeMat
  simp only [encX_d, encX_a, encX_b, encX_x, encX_y]
  exact checkWf_ok h

theorem acci (a b) : Statement (.acci a b) := fun h _ => by
  show checkWf (decodeMajor (encX 0x2e 0 a b 4 0)) = _
  rw [major_2e (encX_m ..)]
  unfold decodeMat
  simp only [encX_d, encX_a, encX_b, encX_x, encX_y]
  exact checkWf_ok h

theorem accd (a b) : Statement (.accd a b) := fun h _ => by
  show checkWf (decodeMajor (encX 0x2e 0 a b 5 0)) = _
  rw [major_2e (encX_m ..)]
  unfold decodeMat
  simp only [encX_d, encX_a, encX_b, encX_x, encX_y]
  exact checkWf_ok h

theorem tacknew (d a) : Statement (.tacknew d a) := fun h _ => by
  show checkWf (decodeMajor (encX 0x2f d a 0 0 0)) = _
  rw [major_2f (encX_m ..)]
  unfold decodeTack
  simp only [encX_d, encX_a, encX_b, encX_x, encX_y]
  exact checkWf_ok h

theorem tackon (d a b) : Statement (.tackon d a b) := fun h _ => by
  show checkWf (decodeMajor (encX 0x2f d a b 1 0)) = _
  rw [major_2f (encX_m ..)]
  unfold decodeTack
  simp only [encX_d, encX_a, encX_b, encX_x, encX_y]
  exact checkWf_ok h

theorem tackoff (a) : Statement (.tackoff a) := fun h _ => by
  show checkWf (decodeMajor (encX 0x2f 0 a 0 2 0)) = _
  rw [major_2f (encX_m ..)]
  unfold decodeTack
  simp only [encX_d, encX_a, encX_b, encX_x, encX_y]
  exact checkWf_ok h

theorem tackdrop (d a) : Statement (.tackdrop d a) := fun h _ => by
  show checkWf (decodeMajor (encX 0x2f d a 0 3 0)) = _
  rw [major_2f (encX_m ..)]
  unfold decodeTack
  simp only [encX_d, encX_a, encX_b, encX_x, encX_y]
  exact checkWf_ok h

theorem tackq (d a) : Statement (.tackq d a) := fun h _ => by
  show checkWf (decodeMajor (encX 0x2f d a 0 4 0)) = _
  rw [major_2f (encX_m ..)]
  unfold decodeTack
  simp only [encX_d, encX_a, encX_b, encX_x, encX_y]
  exact checkWf_ok h

theorem ladsub (d a b) : Statement (.ladsub d a b) := fun h _ => by
  show checkWf (decodeMajor (encX 0x30 d a b 0 0)) = _
  rw [major_30 (encX_m ..)]
  unfold decodeLad
  simp only [encX_d, encX_a, encX_b, encX_x, encX_y, fKd_eq, fKa_eq, fKb_eq, hiD_eq, hiA_eq, hiB_eq, low3, high3]
  exact checkWf_ok h

theorem ladesc (a b) : Statement (.ladesc a b) := fun h _ => by
  show checkWf (decodeMajor (encX 0x30 0 (0#3 ++ a) b 1 0)) = _
  rw [major_30 (encX_m ..)]
  unfold decodeLad
  simp only [encX_d, encX_a, encX_b, encX_x, encX_y, fKd_eq, fKa_eq, fKb_eq, hiD_eq, hiA_eq, hiB_eq, low3, high3]
  exact checkWf_ok h

theorem ladres (a b) : Statement (.ladres a b) := fun h _ => by
  show checkWf (decodeMajor (encX 0x30 0 (0#3 ++ a) b 2 0)) = _
  rw [major_30 (encX_m ..)]
  unfold decodeLad
  simp only [encX_d, encX_a, encX_b, encX_x, encX_y, fKd_eq, fKa_eq, fKb_eq, hiD_eq, hiA_eq, hiB_eq, low3, high3]
  exact checkWf_ok h

theorem cjoin (d a) : Statement (.cjoin d a) := fun h _ => by
  show checkWf (decodeMajor (encX 0x31 d a 0 0 0)) = _
  rw [major_31 (encX_m ..)]
  unfold decodeClu
  simp only [encX_d, encX_a, encX_b, encX_x, encX_y]
  exact checkWf_ok h

theorem cleave : Statement .cleave := fun h _ => by
  show checkWf (decodeMajor (encX 0x31 0 0 0 1 0)) = _
  rw [major_31 (encX_m ..)]
  unfold decodeClu
  simp only [encX_d, encX_a, encX_b, encX_x, encX_y]
  exact checkWf_ok h

theorem cquery (d) : Statement (.cquery d) := fun h _ => by
  show checkWf (decodeMajor (encX 0x31 d 0 0 2 0)) = _
  rw [major_31 (encX_m ..)]
  unfold decodeClu
  simp only [encX_d, encX_a, encX_b, encX_x, encX_y]
  exact checkWf_ok h

theorem launch (d a) : Statement (.launch d a) := fun h _ => by
  show checkWf (decodeMajor (encX 0x32 d a 0 0 0)) = _
  rw [major_32 (encX_m ..)]
  unfold decodeWork
  simp only [encX_d, encX_a, encX_b, encX_x, encX_y]
  exact checkWf_ok h

theorem exit : Statement .exit := fun h _ => by
  show checkWf (decodeMajor (encX 0x32 0 0 0 1 0)) = _
  rw [major_32 (encX_m ..)]
  unfold decodeWork
  simp only [encX_d, encX_a, encX_b, encX_x, encX_y]
  exact checkWf_ok h

theorem yield : Statement .yield := fun h _ => by
  show checkWf (decodeMajor (encX 0x32 0 0 0 2 0)) = _
  rw [major_32 (encX_m ..)]
  unfold decodeWork
  simp only [encX_d, encX_a, encX_b, encX_x, encX_y]
  exact checkWf_ok h

theorem phase : Statement .phase := fun h _ => by
  show checkWf (decodeMajor (encX 0x32 0 0 0 3 0)) = _
  rw [major_32 (encX_m ..)]
  unfold decodeWork
  simp only [encX_d, encX_a, encX_b, encX_x, encX_y]
  exact checkWf_ok h

theorem criton : Statement .criton := fun h _ => by
  show checkWf (decodeMajor (encX 0x32 0 0 0 4 0)) = _
  rw [major_32 (encX_m ..)]
  unfold decodeWork
  simp only [encX_d, encX_a, encX_b, encX_x, encX_y]
  exact checkWf_ok h

theorem critoff : Statement .critoff := fun h _ => by
  show checkWf (decodeMajor (encX 0x32 0 0 0 5 0)) = _
  rw [major_32 (encX_m ..)]
  unfold decodeWork
  simp only [encX_d, encX_a, encX_b, encX_x, encX_y]
  exact checkWf_ok h

theorem lwait (d a) : Statement (.lwait d a) := fun h _ => by
  show checkWf (decodeMajor (encX 0x32 d a 0 6 0)) = _
  rw [major_32 (encX_m ..)]
  unfold decodeWork
  simp only [encX_d, encX_a, encX_b, encX_x, encX_y]
  exact checkWf_ok h

theorem lwaitTest (d a) : Statement (.lwaitTest d a) := fun h _ => by
  show checkWf (decodeMajor (encX 0x32 d a 0 6 1)) = _
  rw [major_32 (encX_m ..)]
  unfold decodeWork
  simp only [encX_d, encX_a, encX_b, encX_x, encX_y]
  exact checkWf_ok h

theorem frjoin (d a) : Statement (.frjoin d a) := fun h _ => by
  show checkWf (decodeMajor (encX 0x33 d a 0 0 0)) = _
  rw [major_33 (encX_m ..)]
  unfold decodeFred
  simp only [encX_d, encX_a, encX_b, encX_x, encX_y]
  exact checkWf_ok h

theorem frput (d a b) : Statement (.frput d a b) := fun h _ => by
  show checkWf (decodeMajor (encX 0x33 d a b 1 0)) = _
  rw [major_33 (encX_m ..)]
  unfold decodeFred
  simp only [encX_d, encX_a, encX_b, encX_x, encX_y]
  exact checkWf_ok h

theorem frget (d a) : Statement (.frget d a) := fun h _ => by
  show checkWf (decodeMajor (encX 0x33 d a 0 2 0)) = _
  rw [major_33 (encX_m ..)]
  unfold decodeFred
  simp only [encX_d, encX_a, encX_b, encX_x, encX_y]
  exact checkWf_ok h

theorem frstat (d a) : Statement (.frstat d a) := fun h _ => by
  show checkWf (decodeMajor (encX 0x33 d a 0 3 0)) = _
  rw [major_33 (encX_m ..)]
  unfold decodeFred
  simp only [encX_d, encX_a, encX_b, encX_x, encX_y]
  exact checkWf_ok h

theorem trap (a) : Statement (.trap a) := fun h _ => by
  show checkWf (decodeMajor (encX 0x34 0 a 0 0 0)) = _
  rw [major_34 (encX_m ..)]
  unfold decodeSys
  simp only [encX_d, encX_a, encX_b, encX_x, encX_y]
  exact checkWf_ok h

theorem eret (d a b) : Statement (.eret d a b) := fun h _ => by
  show checkWf (decodeMajor (encX 0x34 d a b 1 0)) = _
  rw [major_34 (encX_m ..)]
  unfold decodeSys
  simp only [encX_d, encX_a, encX_b, encX_x, encX_y]
  exact checkWf_ok h

theorem halt (a) : Statement (.halt a) := fun h _ => by
  show checkWf (decodeMajor (encX 0x34 0 a 0 2 0)) = _
  rw [major_34 (encX_m ..)]
  unfold decodeSys
  simp only [encX_d, encX_a, encX_b, encX_x, encX_y]
  exact checkWf_ok h

theorem tlbinv (a b) : Statement (.tlbinv a b) := fun h _ => by
  show checkWf (decodeMajor (encX 0x34 0 a b 3 0)) = _
  rw [major_34 (encX_m ..)]
  unfold decodeSys
  simp only [encX_d, encX_a, encX_b, encX_x, encX_y]
  exact checkWf_ok h

theorem bankcfg (d a b) : Statement (.bankcfg d a b) := fun h _ => by
  show checkWf (decodeMajor (encX 0x34 d a b 4 0)) = _
  rw [major_34 (encX_m ..)]
  unfold decodeSys
  simp only [encX_d, encX_a, encX_b, encX_x, encX_y]
  exact checkWf_ok h

theorem vcset (d a) : Statement (.vcset d a) := fun h _ => by
  show checkWf (decodeMajor (encX 0x34 d a 0 5 0)) = _
  rw [major_34 (encX_m ..)]
  unfold decodeSys
  simp only [encX_d, encX_a, encX_b, encX_x, encX_y]
  exact checkWf_ok h

theorem darn (d a) : Statement (.darn d a) := fun h _ => by
  show checkWf (decodeMajor (encX 0x34 d a 0 6 0)) = _
  rw [major_34 (encX_m ..)]
  unfold decodeSys
  simp only [encX_d, encX_a, encX_b, encX_x, encX_y]
  exact checkWf_ok h

theorem corerst (d a) : Statement (.corerst d a) := fun h _ => by
  show checkWf (decodeMajor (encX 0x34 d a 0 7 0)) = _
  rw [major_34 (encX_m ..)]
  unfold decodeSys
  simp only [encX_d, encX_a, encX_b, encX_x, encX_y]
  exact checkWf_ok h

theorem pswap (d a b) : Statement (.pswap d a b) := fun h _ => by
  show checkWf (decodeMajor (encX 0x34 d a b 8 0)) = _
  rw [major_34 (encX_m ..)]
  unfold decodeSys
  simp only [encX_d, encX_a, encX_b, encX_x, encX_y]
  exact checkWf_ok h

theorem measureExt (d a b) : Statement (.measureExt d a b) := fun h _ => by
  show checkWf (decodeMajor (encX 0x34 d a b 9 0)) = _
  rw [major_34 (encX_m ..)]
  unfold decodeSys
  simp only [encX_d, encX_a, encX_b, encX_x, encX_y]
  exact checkWf_ok h

theorem measureRead (a b) : Statement (.measureRead a b) := fun h _ => by
  show checkWf (decodeMajor (encX 0x34 0 a b 9 1)) = _
  rw [major_34 (encX_m ..)]
  unfold decodeSys
  simp only [encX_d, encX_a, encX_b, encX_x, encX_y]
  exact checkWf_ok h

theorem measureClose (b) : Statement (.measureClose b) := fun h _ => by
  show checkWf (decodeMajor (encX 0x34 0 0 b 9 2)) = _
  rw [major_34 (encX_m ..)]
  unfold decodeSys
  simp only [encX_d, encX_a, encX_b, encX_x, encX_y]
  exact checkWf_ok h

theorem measureQuote (d a b) : Statement (.measureQuote d a b) := fun h _ => by
  show checkWf (decodeMajor (encX 0x34 d a b 9 3)) = _
  rw [major_34 (encX_m ..)]
  unfold decodeSys
  simp only [encX_d, encX_a, encX_b, encX_x, encX_y]
  exact checkWf_ok h

theorem measureKey (a) : Statement (.measureKey a) := fun h _ => by
  show checkWf (decodeMajor (encX 0x34 0 a 0 9 4)) = _
  rw [major_34 (encX_m ..)]
  unfold decodeSys
  simp only [encX_d, encX_a, encX_b, encX_x, encX_y]
  exact checkWf_ok h

theorem partitionRecord (d a) : Statement (.partitionRecord d a) := fun h _ => by
  show checkWf (decodeMajor (encX 0x34 d a 0 10 0)) = _
  rw [major_34 (encX_m ..)]
  unfold decodeSys
  simp only [encX_d, encX_a, encX_b, encX_x, encX_y]
  exact checkWf_ok h

theorem peerEntries (d a) : Statement (.peerEntries d a) := fun h _ => by
  show checkWf (decodeMajor (encX 0x34 d a 0 10 0)) = _
  rw [major_34 (encX_m ..)]
  unfold decodeSys
  simp only [encX_d, encX_a, encX_b, encX_x, encX_y]
  exact checkWf_ok h

theorem reductionSlots (d a) : Statement (.reductionSlots d a) := fun h _ => by
  show checkWf (decodeMajor (encX 0x34 d a 0 10 0)) = _
  rw [major_34 (encX_m ..)]
  unfold decodeSys
  simp only [encX_d, encX_a, encX_b, encX_x, encX_y]
  exact checkWf_ok h

theorem ethernetUp (d a) : Statement (.ethernetUp d a) := fun h _ => by
  show checkWf (decodeMajor (encX 0x34 d a 0 10 0)) = _
  rw [major_34 (encX_m ..)]
  unfold decodeSys
  simp only [encX_d, encX_a, encX_b, encX_x, encX_y]
  exact checkWf_ok h

theorem ethernetDown (d a) : Statement (.ethernetDown d a) := fun h _ => by
  show checkWf (decodeMajor (encX 0x34 d a 0 10 0)) = _
  rw [major_34 (encX_m ..)]
  unfold decodeSys
  simp only [encX_d, encX_a, encX_b, encX_x, encX_y]
  exact checkWf_ok h

theorem ethernetTransmit (d a) : Statement (.ethernetTransmit d a) := fun h _ => by
  show checkWf (decodeMajor (encX 0x34 d a 0 10 0)) = _
  rw [major_34 (encX_m ..)]
  unfold decodeSys
  simp only [encX_d, encX_a, encX_b, encX_x, encX_y]
  exact checkWf_ok h

theorem postReceiveBuffer (d a) : Statement (.postReceiveBuffer d a) := fun h _ => by
  show checkWf (decodeMajor (encX 0x34 d a 0 10 0)) = _
  rw [major_34 (encX_m ..)]
  unfold decodeSys
  simp only [encX_d, encX_a, encX_b, encX_x, encX_y]
  exact checkWf_ok h

theorem fabricPortUp (d a) : Statement (.fabricPortUp d a) := fun h _ => by
  show checkWf (decodeMajor (encX 0x34 d a 0 10 0)) = _
  rw [major_34 (encX_m ..)]
  unfold decodeSys
  simp only [encX_d, encX_a, encX_b, encX_x, encX_y]
  exact checkWf_ok h

theorem fabricPortDown (d a) : Statement (.fabricPortDown d a) := fun h _ => by
  show checkWf (decodeMajor (encX 0x34 d a 0 10 0)) = _
  rw [major_34 (encX_m ..)]
  unfold decodeSys
  simp only [encX_d, encX_a, encX_b, encX_x, encX_y]
  exact checkWf_ok h

theorem fabricPortQuery (d a) : Statement (.fabricPortQuery d a) := fun h _ => by
  show checkWf (decodeMajor (encX 0x34 d a 0 10 0)) = _
  rw [major_34 (encX_m ..)]
  unfold decodeSys
  simp only [encX_d, encX_a, encX_b, encX_x, encX_y]
  exact checkWf_ok h

theorem runStart : Statement .runStart := fun _ h => absurd rfl h
theorem longLatencyCompletion : Statement .longLatencyCompletion := fun _ h => absurd rfl h
theorem dirtyNotice : Statement .dirtyNotice := fun _ h => absurd rfl h
theorem storePerform : Statement .storePerform := fun _ h => absurd rfl h
theorem dirtyByteDrain : Statement .dirtyByteDrain := fun _ h => absurd rfl h
theorem cleanCopyFill : Statement .cleanCopyFill := fun _ h => absurd rfl h
theorem cleanCopyDrop : Statement .cleanCopyDrop := fun _ h => absurd rfl h
theorem commandedDrain : Statement .commandedDrain := fun _ h => absurd rfl h
theorem drainConfirmation : Statement .drainConfirmation := fun _ h => absurd rfl h
theorem dieReadRequest : Statement .dieReadRequest := fun _ h => absurd rfl h
theorem dieWriteRequest : Statement .dieWriteRequest := fun _ h => absurd rfl h
theorem dieInvalidationAck : Statement .dieInvalidationAck := fun _ h => absurd rfl h
theorem dieCopyEviction : Statement .dieCopyEviction := fun _ h => absurd rfl h
theorem fabricInvalidationAck : Statement .fabricInvalidationAck := fun _ h => absurd rfl h
theorem deviceFenced : Statement .deviceFenced := fun _ h => absurd rfl h
theorem copyElement : Statement .copyElement := fun _ h => absurd rfl h
theorem copyComplete : Statement .copyComplete := fun _ h => absurd rfl h
theorem matrixCommandStart : Statement .matrixCommandStart := fun _ h => absurd rfl h
theorem planeComplete : Statement .planeComplete := fun _ h => absurd rfl h
theorem scaleComplete : Statement .scaleComplete := fun _ h => absurd rfl h
theorem mmaReservationGrant : Statement .mmaReservationGrant := fun _ h => absurd rfl h
theorem mmaComputeDone : Statement .mmaComputeDone := fun _ h => absurd rfl h
theorem lineContribution : Statement .lineContribution := fun _ h => absurd rfl h
theorem contributionRetry : Statement .contributionRetry := fun _ h => absurd rfl h
theorem accdStart : Statement .accdStart := fun _ h => absurd rfl h
theorem accdRow : Statement .accdRow := fun _ h => absurd rfl h
theorem accdFinish : Statement .accdFinish := fun _ h => absurd rfl h
theorem batchComplete : Statement .batchComplete := fun _ h => absurd rfl h
theorem holderAcknowledge : Statement .holderAcknowledge := fun _ h => absurd rfl h
theorem workgroupPlacement : Statement .workgroupPlacement := fun _ h => absurd rfl h
theorem dispatchPriorityAging : Statement .dispatchPriorityAging := fun _ h => absurd rfl h
theorem savedPriorityAging : Statement .savedPriorityAging := fun _ h => absurd rfl h
theorem launchBlocking : Statement .launchBlocking := fun _ h => absurd rfl h
theorem staggerExpiry : Statement .staggerExpiry := fun _ h => absurd rfl h
theorem workgroupStop : Statement .workgroupStop := fun _ h => absurd rfl h
theorem workgroupSave : Statement .workgroupSave := fun _ h => absurd rfl h
theorem workgroupRestore : Statement .workgroupRestore := fun _ h => absurd rfl h
theorem launchComplete : Statement .launchComplete := fun _ h => absurd rfl h
theorem widePhaseComplete : Statement .widePhaseComplete := fun _ h => absurd rfl h
theorem issuePriorityAging : Statement .issuePriorityAging := fun _ h => absurd rfl h
theorem criticalSectionExpiry : Statement .criticalSectionExpiry := fun _ h => absurd rfl h
theorem parkedSwapTimeout : Statement .parkedSwapTimeout := fun _ h => absurd rfl h
theorem ladderPack : Statement .ladderPack := fun _ h => absurd rfl h
theorem ladderRetire : Statement .ladderRetire := fun _ h => absurd rfl h
theorem fifoWaitEnd : Statement .fifoWaitEnd := fun _ h => absurd rfl h
theorem faultRecordDelivery : Statement .faultRecordDelivery := fun _ h => absurd rfl h
theorem unitResponseTimeout : Statement .unitResponseTimeout := fun _ h => absurd rfl h
theorem coreFailure : Statement .coreFailure := fun _ h => absurd rfl h
theorem rowRetirement : Statement .rowRetirement := fun _ h => absurd rfl h
theorem flitReceive : Statement .flitReceive := fun _ h => absurd rfl h
theorem linkFailure : Statement .linkFailure := fun _ h => absurd rfl h
theorem packetReceive : Statement .packetReceive := fun _ h => absurd rfl h
theorem packetAcknowledge : Statement .packetAcknowledge := fun _ h => absurd rfl h
theorem packetResendTimeout : Statement .packetResendTimeout := fun _ h => absurd rfl h
theorem destinationUnreachable : Statement .destinationUnreachable := fun _ h => absurd rfl h
theorem roundTimeout : Statement .roundTimeout := fun _ h => absurd rfl h
theorem slotCloseTimeout : Statement .slotCloseTimeout := fun _ h => absurd rfl h
theorem haltTimeout : Statement .haltTimeout := fun _ h => absurd rfl h
theorem haltWake : Statement .haltWake := fun _ h => absurd rfl h
theorem ethernetFrameReceive : Statement .ethernetFrameReceive := fun _ h => absurd rfl h
theorem ethernetTransmitDone : Statement .ethernetTransmitDone := fun _ h => absurd rfl h
theorem ethernetLinkFailure : Statement .ethernetLinkFailure := fun _ h => absurd rfl h
theorem ethernetLinkUp : Statement .ethernetLinkUp := fun _ h => absurd rfl h
theorem ethernetUpTimeout : Statement .ethernetUpTimeout := fun _ h => absurd rfl h
theorem fabricLinkTrained : Statement .fabricLinkTrained := fun _ h => absurd rfl h
theorem fabricUpTimeout : Statement .fabricUpTimeout := fun _ h => absurd rfl h
theorem thermalHold : Statement .thermalHold := fun _ h => absurd rfl h
theorem thermalHoldRelease : Statement .thermalHoldRelease := fun _ h => absurd rfl h
theorem thermalTrip : Statement .thermalTrip := fun _ h => absurd rfl h
theorem powerOn : Statement .powerOn := fun _ h => absurd rfl h
theorem moduleReset : Statement .moduleReset := fun _ h => absurd rfl h
theorem illegalEncoding : Statement .illegalEncoding := fun _ h => absurd rfl h
theorem uncorrectableError : Statement .uncorrectableError := fun _ h => absurd rfl h
theorem fencedDeviceReadmission : Statement .fencedDeviceReadmission := fun _ h => absurd rfl h
theorem powerRemoval : Statement .powerRemoval := fun _ h => absurd rfl h
theorem powerCeilingReached : Statement .powerCeilingReached := fun _ h => absurd rfl h
theorem linkResendRequest : Statement .linkResendRequest := fun _ h => absurd rfl h
theorem iadd (w) : Statement (.iadd w) := fun h _ => by
  have g : (w.intAB) = true := h
  simp only [LaneWord.intAB, Bool.and_eq_true] at g
  exact decodeWords_lane 0 0 w _ rfl (lit_bOk (by tauto)) h

theorem isub (w) : Statement (.isub w) := fun h _ => by
  have g : (w.intAB) = true := h
  simp only [LaneWord.intAB, Bool.and_eq_true] at g
  exact decodeWords_lane 0 1 w _ rfl (lit_bOk (by tauto)) h

theorem imul (w) : Statement (.imul w) := fun h _ => by
  have g : (w.intAB) = true := h
  simp only [LaneWord.intAB, Bool.and_eq_true] at g
  exact decodeWords_lane 0 2 w _ rfl (lit_bOk (by tauto)) h

theorem imulhi (w) : Statement (.imulhi w) := fun h _ => by
  have g : (w.intAB) = true := h
  simp only [LaneWord.intAB, Bool.and_eq_true] at g
  exact decodeWords_lane 0 3 w _ rfl (lit_bOk (by tauto)) h

theorem imad (w) : Statement (.imad w) := fun h _ => by
  have g : (w.intABC) = true := h
  simp only [LaneWord.intABC, Bool.and_eq_true] at g
  exact decodeWords_lane 0 4 w _ rfl (lit_bOk (by tauto)) h

theorem iand (w) : Statement (.iand w) := fun h _ => by
  have g : (w.intAB) = true := h
  simp only [LaneWord.intAB, Bool.and_eq_true] at g
  exact decodeWords_lane 0 5 w _ rfl (lit_bOk (by tauto)) h

theorem ior (w) : Statement (.ior w) := fun h _ => by
  have g : (w.intAB) = true := h
  simp only [LaneWord.intAB, Bool.and_eq_true] at g
  exact decodeWords_lane 0 6 w _ rfl (lit_bOk (by tauto)) h

theorem ixor (w) : Statement (.ixor w) := fun h _ => by
  have g : (w.intAB) = true := h
  simp only [LaneWord.intAB, Bool.and_eq_true] at g
  exact decodeWords_lane 0 7 w _ rfl (lit_bOk (by tauto)) h

theorem inot (w) : Statement (.inot w) := fun h _ => by
  have g : (w.intA) = true := h
  simp only [LaneWord.intA, Bool.and_eq_true] at g
  exact decodeWords_lane 0 8 w _ rfl (lit_noB (by tauto)) h

theorem ishl (w) : Statement (.ishl w) := fun h _ => by
  have g : (w.intAB) = true := h
  simp only [LaneWord.intAB, Bool.and_eq_true] at g
  exact decodeWords_lane 0 9 w _ rfl (lit_bOk (by tauto)) h

theorem ishr (w) : Statement (.ishr w) := fun h _ => by
  have g : (w.intAB) = true := h
  simp only [LaneWord.intAB, Bool.and_eq_true] at g
  exact decodeWords_lane 0 10 w _ rfl (lit_bOk (by tauto)) h

theorem isar (w) : Statement (.isar w) := fun h _ => by
  have g : (w.intAB) = true := h
  simp only [LaneWord.intAB, Bool.and_eq_true] at g
  exact decodeWords_lane 0 11 w _ rfl (lit_bOk (by tauto)) h

theorem imin (w) : Statement (.imin w) := fun h _ => by
  have g : (w.intAB) = true := h
  simp only [LaneWord.intAB, Bool.and_eq_true] at g
  exact decodeWords_lane 0 12 w _ rfl (lit_bOk (by tauto)) h

theorem imax (w) : Statement (.imax w) := fun h _ => by
  have g : (w.intAB) = true := h
  simp only [LaneWord.intAB, Bool.and_eq_true] at g
  exact decodeWords_lane 0 13 w _ rfl (lit_bOk (by tauto)) h

theorem iabs (w) : Statement (.iabs w) := fun h _ => by
  have g : (w.intA) = true := h
  simp only [LaneWord.intA, Bool.and_eq_true] at g
  exact decodeWords_lane 0 14 w _ rfl (lit_noB (by tauto)) h

theorem ipopc (w) : Statement (.ipopc w) := fun h _ => by
  have g : (w.intA) = true := h
  simp only [LaneWord.intA, Bool.and_eq_true] at g
  exact decodeWords_lane 0 15 w _ rfl (lit_noB (by tauto)) h

theorem iclz (w) : Statement (.iclz w) := fun h _ => by
  have g : (w.intA) = true := h
  simp only [LaneWord.intA, Bool.and_eq_true] at g
  exact decodeWords_lane 0 16 w _ rfl (lit_noB (by tauto)) h

theorem ibfe (w) : Statement (.ibfe w) := fun h _ => by
  have g : (w.intAB) = true := h
  simp only [LaneWord.intAB, Bool.and_eq_true] at g
  exact decodeWords_lane 0 17 w _ rfl (lit_bOk (by tauto)) h

theorem ibfi (w) : Statement (.ibfi w) := fun h _ => by
  have g : (w.intABC) = true := h
  simp only [LaneWord.intABC, Bool.and_eq_true] at g
  exact decodeWords_lane 0 18 w _ rfl (lit_bOk (by tauto)) h

theorem isel (w) : Statement (.isel w) := fun h _ => by
  have g : (w.selOk) = true := h
  simp only [LaneWord.selOk, Bool.and_eq_true] at g
  exact decodeWords_lane 0 19 w _ rfl (lit_bOk (by tauto)) h

theorem imov (w) : Statement (.imov w) := fun h _ => by
  have g : (w.movOk) = true := h
  simp only [LaneWord.movOk, LaneWord.intAB, Bool.and_eq_true] at g
  exact decodeWords_lane 0 20 w _ rfl (lit_bOk (by tauto)) h

theorem fadd (w) : Statement (.fadd w) := fun h _ => by
  have g : (w.fpAB) = true := h
  simp only [LaneWord.fpAB, Bool.and_eq_true] at g
  exact decodeWords_lane 1 0 w _ rfl (lit_bOk (by tauto)) h

theorem fsub (w) : Statement (.fsub w) := fun h _ => by
  have g : (w.fpAB) = true := h
  simp only [LaneWord.fpAB, Bool.and_eq_true] at g
  exact decodeWords_lane 1 1 w _ rfl (lit_bOk (by tauto)) h

theorem fmul (w) : Statement (.fmul w) := fun h _ => by
  have g : (w.fpAB) = true := h
  simp only [LaneWord.fpAB, Bool.and_eq_true] at g
  exact decodeWords_lane 1 2 w _ rfl (lit_bOk (by tauto)) h

theorem ffma (w) : Statement (.ffma w) := fun h _ => by
  have g : (w.fpABC) = true := h
  simp only [LaneWord.fpABC, Bool.and_eq_true] at g
  exact decodeWords_lane 1 3 w _ rfl (lit_bOk (by tauto)) h

theorem fmin (w) : Statement (.fmin w) := fun h _ => by
  have g : (w.fpABNoRnd) = true := h
  simp only [LaneWord.fpABNoRnd, LaneWord.intAB, Bool.and_eq_true] at g
  exact decodeWords_lane 1 4 w _ rfl (lit_bOk (by tauto)) h

theorem fmax (w) : Statement (.fmax w) := fun h _ => by
  have g : (w.fpABNoRnd) = true := h
  simp only [LaneWord.fpABNoRnd, LaneWord.intAB, Bool.and_eq_true] at g
  exact decodeWords_lane 1 5 w _ rfl (lit_bOk (by tauto)) h

theorem fabs (w) : Statement (.fabs w) := fun h _ => by
  have g : (w.intA) = true := h
  simp only [LaneWord.intA, Bool.and_eq_true] at g
  exact decodeWords_lane 1 6 w _ rfl (lit_noB (by tauto)) h

theorem fneg (w) : Statement (.fneg w) := fun h _ => by
  have g : (w.intA) = true := h
  simp only [LaneWord.intA, Bool.and_eq_true] at g
  exact decodeWords_lane 1 7 w _ rfl (lit_noB (by tauto)) h

theorem frint (w) : Statement (.frint w) := fun h _ => by
  have g : (w.fpA) = true := h
  simp only [LaneWord.fpA, Bool.and_eq_true] at g
  exact decodeWords_lane 1 8 w _ rfl (lit_noB (by tauto)) h

theorem cvt (w) : Statement (.cvt w) := fun h _ => by
  have g : (w.cvtOk) = true := h
  simp only [LaneWord.cvtOk, Bool.and_eq_true] at g
  exact decodeWords_lane 2 0 w _ rfl (lit_noB (by tauto)) h

theorem qblk (w) : Statement (.qblk w) := fun h _ => by
  have g : (w.blkOk) = true := h
  simp only [LaneWord.blkOk, Bool.and_eq_true] at g
  exact decodeWords_lane 2 1 w _ rfl (lit_noB (by tauto)) h

theorem amax (w) : Statement (.amax w) := fun h _ => by
  have g : (w.blkOk) = true := h
  simp only [LaneWord.blkOk, Bool.and_eq_true] at g
  exact decodeWords_lane 2 2 w _ rfl (lit_noB (by tauto)) h

theorem shfl (w) : Statement (.shfl w) := fun h _ => by
  have g : (w.shflOk) = true := h
  simp only [LaneWord.shflOk, Bool.and_eq_true] at g
  exact decodeWords_lane 3 0 w _ rfl (lit_bOk (by tauto)) h

theorem shflr (w) : Statement (.shflr w) := fun h _ => by
  have g : (w.shflOk) = true := h
  simp only [LaneWord.shflOk, Bool.and_eq_true] at g
  exact decodeWords_lane 3 1 w _ rfl (lit_bOk (by tauto)) h

theorem shflx (w) : Statement (.shflx w) := fun h _ => by
  have g : (w.shflOk) = true := h
  simp only [LaneWord.shflOk, Bool.and_eq_true] at g
  exact decodeWords_lane 3 2 w _ rfl (lit_bOk (by tauto)) h

theorem bcast (w) : Statement (.bcast w) := fun h _ => by
  have g : (w.bcastOk) = true := h
  simp only [LaneWord.bcastOk, LaneWord.shflOk, Bool.and_eq_true] at g
  exact decodeWords_lane 3 3 w _ rfl (lit_bOk (by tauto)) h

theorem lstep (w) : Statement (.lstep w) := fun h _ => by
  have g : (w.reduceOk) = true := h
  simp only [LaneWord.reduceOk, Bool.and_eq_true] at g
  exact decodeWords_lane 3 4 w _ rfl (lit_noB (by tauto)) h

theorem scan (w) : Statement (.scan w) := fun h _ => by
  have g : (w.reduceOk) = true := h
  simp only [LaneWord.reduceOk, Bool.and_eq_true] at g
  exact decodeWords_lane 3 5 w _ rfl (lit_noB (by tauto)) h

theorem matchLanes (w) : Statement (.matchLanes w) := fun h _ => by
  have g : (w.blkOk) = true := h
  simp only [LaneWord.blkOk, Bool.and_eq_true] at g
  exact decodeWords_lane 3 6 w _ rfl (lit_noB (by tauto)) h

theorem segred (w) : Statement (.segred w) := fun h _ => by
  have g : (w.segredOk) = true := h
  simp only [LaneWord.segredOk, Bool.and_eq_true] at g
  exact decodeWords_lane 3 7 w _ rfl (lit_noB (by tauto)) h

theorem icmp (w) : Statement (.icmp w) := fun h _ => by
  have g : (w.cmpOk 5) = true := h
  simp only [LaneWord.cmpOk, Bool.and_eq_true] at g
  exact decodeWords_lane 4 0 w _ rfl (lit_bOk (by tauto)) h

theorem fcmp (w) : Statement (.fcmp w) := fun h _ => by
  have g : (w.cmpOk 7) = true := h
  simp only [LaneWord.cmpOk, Bool.and_eq_true] at g
  exact decodeWords_lane 4 1 w _ rfl (lit_bOk (by tauto)) h

theorem laneLd (w) : Statement (.laneLd w) := fun h _ => by
  have g : (w.loadOk && w.vc == 0 && (scopePlain w.scope || (w.scope == 5 && w.order == 1))) = true := h
  simp only [LaneWord.loadOk, Bool.and_eq_true] at g
  exact decodeWords_lane 5 0 w _ rfl (lit_memOk (by tauto)) h

theorem laneSt (w) : Statement (.laneSt w) := fun h _ => by
  have g : (w.storeOk && scopePlain w.scope) = true := h
  simp only [LaneWord.storeOk, Bool.and_eq_true] at g
  exact decodeWords_lane 5 1 w _ rfl (lit_memOk (by tauto)) h

theorem lds (w) : Statement (.lds w) := fun h _ => by
  have g : (w.loadOk && w.vc == 0 && w.scope.toNat ≤ 1 && w.cf == 0) = true := h
  simp only [LaneWord.loadOk, Bool.and_eq_true] at g
  exact decodeWords_lane 5 2 w _ rfl (lit_memOk (by tauto)) h

theorem sts (w) : Statement (.sts w) := fun h _ => by
  have g : (w.storeOk && w.scope.toNat ≤ 1 && w.cf == 0) = true := h
  simp only [LaneWord.storeOk, Bool.and_eq_true] at g
  exact decodeWords_lane 5 3 w _ rfl (lit_memOk (by tauto)) h

theorem ldcl (w) : Statement (.ldcl w) := fun h _ => by
  have g : (w.loadOk && w.vc == 0 && w.scope.toNat ≤ 2) = true := h
  simp only [LaneWord.loadOk, Bool.and_eq_true] at g
  exact decodeWords_lane 5 4 w _ rfl (lit_memOk (by tauto)) h

theorem stcl (w) : Statement (.stcl w) := fun h _ => by
  have g : (w.storeOk && w.scope.toNat ≤ 2) = true := h
  simp only [LaneWord.storeOk, Bool.and_eq_true] at g
  exact decodeWords_lane 5 5 w _ rfl (lit_memOk (by tauto)) h

theorem fifopop (w) : Statement (.fifopop w) := fun h _ => by
  have g : (w.fifoOk && w.regAligned w.vd) = true := h
  simp only [LaneWord.fifoOk, Bool.and_eq_true] at g
  exact decodeWords_lane 5 6 w _ rfl (lit_memOk (by tauto)) h

theorem fifopush (w) : Statement (.fifopush w) := fun h _ => by
  have g : (w.fifoOk && w.vd == 0 && w.regAligned w.vc) = true := h
  simp only [LaneWord.fifoOk, Bool.and_eq_true] at g
  exact decodeWords_lane 5 7 w _ rfl (lit_memOk (by tauto)) h

theorem ragld (w) : Statement (.ragld w) := fun h _ => by
  have g : (w.memOk && w.order == 0 && scopePlain w.scope && w.size.toNat ≤ 2 && (!w.sext || w.size.toNat ≤ 1) && w.imm32.extractLsb' 0 5 == 0 && w.va.toNat % 2 == 0 && w.vc == 0) = true := h
  simp only [Bool.and_eq_true] at g
  exact decodeWords_lane 5 8 w _ rfl (lit_memOk (by tauto)) h

theorem atom (w) : Statement (.atom w) := fun h _ => by
  have g : (w.atomicOk && w.ret && (w.atomCas || w.vc == 0)) = true := h
  simp only [LaneWord.atomicOk, Bool.and_eq_true] at g
  exact decodeWords_lane 6 0 w _ rfl (lit_memOk (by tauto)) h

theorem atomr (w) : Statement (.atomr w) := fun h _ => by
  have g : (w.atomicOk && !w.ret && (w.atomCas || w.vc == 0)) = true := h
  simp only [LaneWord.atomicOk, Bool.and_eq_true] at g
  exact decodeWords_lane 6 1 w _ rfl (lit_memOk (by tauto)) h

theorem atoms (w) : Statement (.atoms w) := fun h _ => by
  have g : (w.atomicOk && w.scope.toNat ≤ 1 && w.cf == 0 && (w.atomCas || w.vc == 0)) = true := h
  simp only [LaneWord.atomicOk, Bool.and_eq_true] at g
  exact decodeWords_lane 6 2 w _ rfl (lit_memOk (by tauto)) h

theorem rld (w) : Statement (.rld w) := fun h _ => by
  have g : (w.loadOk && (w.scope == 3 || w.scope == 4)) = true := h
  simp only [LaneWord.loadOk, Bool.and_eq_true] at g
  exact decodeWords_lane 7 0 w _ rfl (lit_memOk (by tauto)) h

theorem rst (w) : Statement (.rst w) := fun h _ => by
  have g : (w.storeOk && (w.scope == 3 || w.scope == 4) && w.va.toNat % 2 == 0) = true := h
  simp only [LaneWord.storeOk, Bool.and_eq_true] at g
  exact decodeWords_lane 7 1 w _ rfl (lit_memOk (by tauto)) h

theorem ratom (w) : Statement (.ratom w) := fun h _ => by
  have g : (w.atomicOk && (w.scope == 3 || w.scope == 4) && (!w.atomCas || w.va.toNat % 2 == 0)) = true := h
  simp only [LaneWord.atomicOk, Bool.and_eq_true] at g
  exact decodeWords_lane 7 2 w _ rfl (lit_memOk (by tauto)) h

theorem rcp (w) : Statement (.rcp w) := fun h _ => by
  have g : (w.fpA) = true := h
  simp only [LaneWord.fpA, Bool.and_eq_true] at g
  exact decodeWords_lane 8 0 w _ rfl (lit_noB (by tauto)) h

theorem rsqrt (w) : Statement (.rsqrt w) := fun h _ => by
  have g : (w.fpA) = true := h
  simp only [LaneWord.fpA, Bool.and_eq_true] at g
  exact decodeWords_lane 8 1 w _ rfl (lit_noB (by tauto)) h

theorem sqrt (w) : Statement (.sqrt w) := fun h _ => by
  have g : (w.fpA) = true := h
  simp only [LaneWord.fpA, Bool.and_eq_true] at g
  exact decodeWords_lane 8 2 w _ rfl (lit_noB (by tauto)) h

theorem laneDiv (w) : Statement (.laneDiv w) := fun h _ => by
  have g : (w.fpAB) = true := h
  simp only [LaneWord.fpAB, Bool.and_eq_true] at g
  exact decodeWords_lane 8 3 w _ rfl (lit_bOk (by tauto)) h

theorem exp2 (w) : Statement (.exp2 w) := fun h _ => by
  have g : (w.fpA) = true := h
  simp only [LaneWord.fpA, Bool.and_eq_true] at g
  exact decodeWords_lane 8 4 w _ rfl (lit_noB (by tauto)) h

theorem log2 (w) : Statement (.log2 w) := fun h _ => by
  have g : (w.fpA) = true := h
  simp only [LaneWord.fpA, Bool.and_eq_true] at g
  exact decodeWords_lane 8 5 w _ rfl (lit_noB (by tauto)) h

theorem sin (w) : Statement (.sin w) := fun h _ => by
  have g : (w.fpA) = true := h
  simp only [LaneWord.fpA, Bool.and_eq_true] at g
  exact decodeWords_lane 8 6 w _ rfl (lit_noB (by tauto)) h

theorem cos (w) : Statement (.cos w) := fun h _ => by
  have g : (w.fpA) = true := h
  simp only [LaneWord.fpA, Bool.and_eq_true] at g
  exact decodeWords_lane 8 7 w _ rfl (lit_noB (by tauto)) h

theorem tanh (w) : Statement (.tanh w) := fun h _ => by
  have g : (w.fpA) = true := h
  simp only [LaneWord.fpA, Bool.and_eq_true] at g
  exact decodeWords_lane 8 8 w _ rfl (lit_noB (by tauto)) h

theorem lnop (w) : Statement (.lnop w) := fun h _ => by
  have g : (w.lnopOk) = true := h
  simp only [LaneWord.lnopOk, Bool.and_eq_true] at g
  exact decodeWords_lane 9 0 w _ rfl (lit_noB (by tauto)) h

theorem lid (w) : Statement (.lid w) := fun h _ => by
  have g : (w.lidOk) = true := h
  simp only [LaneWord.lidOk, Bool.and_eq_true] at g
  exact decodeWords_lane 9 1 w _ rfl (lit_noB (by tauto)) h


end Sys2Proof.Laws.Encoding
end

