-- ==== Sys2Proof/Laws/Updates.lean ====
section
/-!
SUPPORT. The updates of one kind of object, and the waits that stand before an effect: each with one lemma that says all that
it can do.
-/

namespace Sys2Proof.Machine

/-! ## Updates: everything but their own field stays -/

theorem State.updBank_frame (s : State) (c b : Nat) (f : Bank → Bank) : { s.updBank c b f with banks := s.banks } = s := rfl
theorem State.updCache_frame (s : State) (i : CacheId) (f : ComposedCache → ComposedCache) :
    { s.updCache i f with caches := s.caches } = s := rfl
theorem State.updRegion_frame (s : State) (p b : Nat) (f : Region → Region) : { s.updRegion p b f with regions := s.regions } = s := rfl
theorem State.updMat_frame (s : State) (c i : Nat) (f : MatCmd → MatCmd) : { s.updMat c i f with cores := s.cores } = s := rfl
theorem State.updLadder_frame (s : State) (p a : Nat) (f : Ladder → Ladder) : { s.updLadder p a f with ladders := s.ladders } = s := rfl
theorem State.updTack_frame (s : State) (i : Nat) (f : Tack → Tack) : { s.updTack i f with tacks := s.tacks } = s := rfl
theorem State.updEther_frame (s : State) (n : Nat) (f : EtherPort → EtherPort) : { s.updEther n f with ether := s.ether } = s := rfl
theorem State.updOp_frame (s : State) (n k : Nat) (f : EtherOp → EtherOp) : { s.updOp n k f with ether := s.ether } = s := rfl
theorem State.updFabric_frame (s : State) (n : Nat) (f : FabricPort → FabricPort) : { s.updFabric n f with fabric := s.fabric } = s := rfl
theorem State.updLink_frame (s : State) (n k : Nat) (f : Link → Link) : { s.updLink n k f with fabric := s.fabric } = s := rfl

/-! ## Waits: an effect follows, or the instruction or agent stays where it is -/

/-- R150. The release of a blocking instruction: its effect follows the drains and the rise of the sequence, or it is tried
again behind what has drained. -/
theorem afterRelease_cases (s : State) (core : Nat) (sc : Scope) (k : State → State) :
    let s1 := s.releaseDrains core sc true
    (s1.releaseReady core sc true = true ∧ s.afterRelease core sc k = k (s1.bumpFor core sc)) ∨
      (s1.releaseReady core sc true = false ∧ s.afterRelease core sc k = s1) := by
  unfold State.afterRelease
  cases h : (s.releaseDrains core sc true).releaseReady core sc true <;> simp [h]

/-- R274. A write whose leaves have Dirty set goes on; else what sets it is awaited. -/
theorem afterDirty_cases (s : State) (unit : Nat) (ps : List Piece) (k : State → State) :
    let s1 := s.setDirty unit ps
    (s1.leavesDirty ps = true ∧ s.afterDirty unit ps k = k s1) ∨ (s1.leavesDirty ps = false ∧ s.afterDirty unit ps k = s1) := by
  unfold State.afterDirty
  cases h : (s.setDirty unit ps).leavesDirty ps <;> simp [h]

/-- R168, R326. A write asked for reaches its home slice, which accepts it, after its leaves have Dirty set and after what its asker has
asked for before; or it stands last among those that are asked for again. -/
theorem ask_cases (s : State) (a : AskedWrite) :
    let s1 := s.setDirty a.unit a.pieces
    (s1.leavesDirty a.pieces = true ∧ s1.sliceHolds (a.op.line * 128) = false ∧ s1.refusedWrite a.op.line = false ∧
        (∀ x ∈ s1.asks, x.ahead a = false) ∧ s.ask a = s1.homeApply a.op a.source) ∨
      (s1.takes a (s1.leavesDirty a.pieces) = false ∧ s.ask a = { s1 with asks := s1.asks ++ [a] }) := by
  dsimp only [State.ask, State.request]
  split
  · next h =>
    simp only [State.takes, Bool.and_eq_true, Bool.not_eq_true', List.any_eq_false, Bool.not_eq_true] at h
    exact .inl ⟨h.1.1.1, h.1.1.2, h.1.2, h.2, rfl⟩
  · next h => exact .inr ⟨by simpa using h, rfl⟩

theorem askAgain_nil {s : State} (h : s.asks = []) : s.askAgain = s := by
  unfold State.askAgain
  rw [h]
  show ({ s with asks := [] } : State) = s
  rw [← h]

/-- R308. A packet that a device has acknowledged is kept no longer; nothing else changes. -/
theorem acknowledged_frame (s : State) (d n : Nat) : { s.acknowledged d n with sent := s.sent } = s := rfl

end Sys2Proof.Machine
end

