-- ==== Sys2Proof/Safety.lean ====
section
/-!
DEFINITION. What a safe run is: one that takes every step to a next state.
-/

namespace Sys2Proof

/-- A run of `k` steps from a state reaches a state: no step stops with a fault of the model or a refusal. A fault of
the manual is no such stop: it parks a context and the machine goes on. -/
def RunsTo (k : Nat) (s t : Machine.State) : Prop := core.run k s = .next t

end Sys2Proof
end

