-- ==== Sys2Proof/Tests/Slice0.lean ====
section
/-!
SUPPORT. Tests. Words that the spec's encoding tables give decode to their instructions; ill-formed terms are refused; for each
claim with hypotheses a state and operands that meet them; single steps whose results the spec prints or that follow by hand.
-/

set_option Elab.async false
set_option linter.unreachableTactic false
set_option linter.unusedTactic false

namespace Sys2Proof.Tests

open Sys2Proof Machine

/-! ## Words (R36 to R53, and the opcode table) -/

/-- Every word of the list decodes to the instruction beside it. -/
def readAs (l : List (Word × Instr)) : Bool :=
  l.all fun p =>
    match decodeScalar p.1 with
    | .ok i => decide (i = p.2)
    | .error _ => false

/-- The same of lane instructions, with their fourth words. -/
def laneReadAs (l : List (BitVec 96 × Word × Instr)) : Bool :=
  l.all fun p =>
    match decodeLane p.1 p.2.1 with
    | .ok i => decide (i = p.2.2)
    | .error _ => false

/-- No word of the list is an instruction. -/
def refused (l : List Word) : Bool := l.all fun w => (decodeScalar w).toOption.isNone

theorem test_words_alu : readAs
  [(0x00108300, .add 1 2 3), (0x00108301, .sub 1 2 3), (0x00108302, .and 1 2 3), (0x00108303, .or 1 2 3),
    (0x00108304, .xor 1 2 3), (0x00108305, .andn 1 2 3), (0x00108306, .shl 1 2 3), (0x00108307, .shr 1 2 3),
    (0x00108308, .sar 1 2 3), (0x00108309, .rol 1 2 3), (0x0010830A, .mul 1 2 3), (0x0010830B, .mulh 1 2 3),
    (0x0010830C, .mulhu 1 2 3), (0x0010830D, .div 1 2 3), (0x0010830E, .divu 1 2 3), (0x0010830F, .rem 1 2 3),
    (0x00108310, .remu 1 2 3), (0x00108311, .min 1 2 3), (0x00108312, .max 1 2 3), (0x00108313, .minu 1 2 3),
    (0x00108314, .maxu 1 2 3), (0x00108315, .slt 1 2 3), (0x00108316, .sltu 1 2 3), (0x00108317, .seq 1 2 3),
    (0x00108018, .clz 1 2), (0x00108019, .ctz 1 2), (0x0010801A, .popc 1 2), (0x0010801B, .brev 1 2),
    (0x0010801C, .bswap 1 2), (0x0010831D, .addw 1 2 3), (0x0010831E, .subw 1 2 3), (0x0010831F, .mulw 1 2 3)] = true := by decide +kernel

theorem test_words_immediate : readAs
  [(0x04108005, .addi 1 2 5), (0x08108005, .andi 1 2 5), (0x0C108005, .ori 1 2 5), (0x10108005, .xori 1 2 5),
    (0x14108004, .shli 1 2 4), (0x18108004, .shri 1 2 4), (0x1C108004, .sari 1 2 4), (0x20108005, .slti 1 2 5),
    (0x24108005, .sltui 1 2 5), (0x28108005, .seqi 1 2 5), (0x2C108005, .muli 1 2 5), (0x30100005, .lui 1 5),
    (0x34100005, .auipc 1 5), (0x38100005, .lhi 1 5)] = true := by decide +kernel

theorem test_words_memory : readAs
  [(0x40109005, .ld 1 2 2 5), (0x44109005, .st 1 2 2 5), (0x48109105, .lda 1 2 2 1 5),
    (0x4C109105, .stl 1 2 2 1 5)] = true := by decide +kernel

theorem test_words_amow : readAs
  [(0x50108303, .amowAdd 1 2 3 1 1), (0x50108313, .amowAnd 1 2 3 1 1), (0x50108323, .amowOr 1 2 3 1 1),
    (0x50108333, .amowXor 1 2 3 1 1), (0x50108343, .amowMin 1 2 3 1 1), (0x50108353, .amowMax 1 2 3 1 1),
    (0x50108363, .amowMinu 1 2 3 1 1), (0x50108373, .amowMaxu 1 2 3 1 1), (0x50108383, .amowXchg 1 2 3 1 1),
    (0x50108393, .amowCas 1 2 3 1 1), (0x501083A3, .amowFadd 1 2 3 1 1), (0x501083B3, .amowFmax32 1 2 3 1 1),
    (0x501083C3, .amowFamax32 1 2 3 1 1)] = true := by decide +kernel

theorem test_words_amod : readAs
  [(0x54108303, .amodAdd 1 2 3 1 1), (0x54108313, .amodAnd 1 2 3 1 1), (0x54108323, .amodOr 1 2 3 1 1),
    (0x54108333, .amodXor 1 2 3 1 1), (0x54108343, .amodMin 1 2 3 1 1), (0x54108353, .amodMax 1 2 3 1 1),
    (0x54108363, .amodMinu 1 2 3 1 1), (0x54108373, .amodMaxu 1 2 3 1 1), (0x54108383, .amodXchg 1 2 3 1 1),
    (0x54108393, .amodCas 1 2 3 1 1)] = true := by decide +kernel

theorem test_words_fence : readAs
  [(0x58000001, .fenceAcq 1), (0x58000011, .fenceRel 1), (0x58000021, .fenceFull 1), (0x58000030, .ifence),
    (0x58000040, .fenceEng)] = true := by decide +kernel

theorem test_words_branch : readAs
  [(0x60000005, .br 5), (0x64000005, .call 5), (0x68200005, .bz 2 5), (0x6C200005, .bnz 2 5),
    (0x7020C005, .beq 2 3 5), (0x7420C005, .bne 2 3 5), (0x7820C005, .blt 2 3 5), (0x7C20C005, .bge 2 3 5),
    (0x8020C005, .bltu 2 3 5), (0x8420C005, .bgeu 2 3 5), (0x88108005, .jalr 1 2 5)] = true := by decide +kernel

theorem test_words_runs : readAs
  [(0x90008005, .lrun 2 5), (0x94008000, .lsync 2)] = true := by decide +kernel

theorem test_words_mask : readAs
  [(0x98108000, .kmov 1 2), (0x98108301, .kand 1 2 3), (0x98108302, .kor 1 2 3), (0x98108303, .kxor 1 2 3),
    (0x98108304, .kandn 1 2 3), (0x98108005, .knot 1 2), (0x98108006, .kpopc 1 2), (0x98108007, .kffs 1 2),
    (0x98108008, .ktos 1 2), (0x98108009, .stok 1 2), (0x9800830A, .divpush 2 3), (0x9800000B, .divelse),
    (0x9800000C, .divpop), (0x9810800D, .kall 1 2), (0x9C500005, .bkany 5 5), (0xA0500005, .bknone 5 5),
    (0xA4104180, .vread 1 4 6)] = true := by decide +kernel

theorem test_words_registers : readAs
  [(0xA8108009, .sfmtW 1 2 9), (0xA8109009, .sfmtS 1 2 9), (0xA810A009, .sfmtC 1 2 9), (0xAC100001, .csrr 1 1),
    (0xAC109001, .csrw 1 2 1), (0xAC10A001, .csrs 1 2 1), (0xAC10B001, .csrc 1 2 1)] = true := by decide +kernel

theorem test_words_bar : readAs
  [(0xB0008300, .binit 2 3), (0xB0108310, .barrive 1 2 3), (0xB0008320, .bexpect 2 3),
    (0xB0108330, .bwait 1 2 3), (0xB0108340, .btest 1 2 3), (0xB0100050, .batch 1), (0xB0008060, .bbwaitReg 2),
    (0xB0000468, .bbwaitImm 4)] = true := by decide +kernel

theorem test_words_copy : readAs
  [(0xB4108300, .tcopy 1 2 3), (0xB4008310, .tprefL2 2 3), (0xB4008311, .tprefCc 2 3),
    (0xB4108020, .tquery 1 2)] = true := by decide +kernel

theorem test_words_mat : readAs
  [(0xB8008000, .gang 2), (0xB8108310, .planeA 1 2 3), (0xB8108311, .planeB 1 2 3), (0xB8008320, .scale 2 3),
    (0xB8108330, .mma 1 2 3), (0xB8008340, .acci 2 3), (0xB8008350, .accd 2 3)] = true := by decide +kernel

theorem test_words_tack : readAs
  [(0xBC108000, .tacknew 1 2), (0xBC108310, .tackon 1 2 3), (0xBC008020, .tackoff 2),
    (0xBC108030, .tackdrop 1 2), (0xBC108040, .tackq 1 2)] = true := by decide +kernel

theorem test_words_lad : readAs
  [(0xC0108300, .ladsub 1 2 3), (0xC0008310, .ladesc 2 3), (0xC0008320, .ladres 2 3)] = true := by decide +kernel

theorem test_words_clu : readAs
  [(0xC4108000, .cjoin 1 2), (0xC4000010, .cleave), (0xC4100020, .cquery 1)] = true := by decide +kernel

theorem test_words_work : readAs
  [(0xC8108000, .launch 1 2), (0xC8000010, .exit), (0xC8000020, .yield), (0xC8000030, .phase),
    (0xC8000040, .criton), (0xC8000050, .critoff), (0xC8108060, .lwait 1 2), (0xC8108061, .lwaitTest 1 2)] = true := by decide +kernel

theorem test_words_fred : readAs
  [(0xCC108000, .frjoin 1 2), (0xCC108310, .frput 1 2 3), (0xCC108020, .frget 1 2), (0xCC108030, .frstat 1 2)] = true := by decide +kernel

theorem test_words_sys : readAs
  [(0xD0008000, .trap 2), (0xD0108310, .eret 1 2 3), (0xD0008020, .halt 2), (0xD0008330, .tlbinv 2 3),
    (0xD0108340, .bankcfg 1 2 3), (0xD0108050, .vcset 1 2), (0xD0108060, .darn 1 2),
    (0xD0108070, .corerst 1 2), (0xD0108380, .pswap 1 2 3), (0xD0108390, .measureExt 1 2 3),
    (0xD0008391, .measureRead 2 3), (0xD0000392, .measureClose 3), (0xD0108393, .measureQuote 1 2 3),
    (0xD0008094, .measureKey 2), (0xD01080A0, .partitionRecord 1 2)] = true := by decide +kernel

theorem test_lane_words_integer : laneReadAs
  [(0x000905060700000100000000, 0, .iadd ⟨1, 1, 5, 6, 7, 0, 0, 0, 0, 0, 1, 0, 0⟩),
    (0x001105060700000000000000, 0, .isub ⟨0, 1, 5, 6, 7, 0, 0, 0, 0, 0, 0, 0, 0⟩),
    (0x002105060700000000000000, 0, .imul ⟨0, 1, 5, 6, 7, 0, 0, 0, 0, 0, 0, 0, 0⟩),
    (0x003105060700000000000000, 0, .imulhi ⟨0, 1, 5, 6, 7, 0, 0, 0, 0, 0, 0, 0, 0⟩),
    (0x004105060708000000000000, 0, .imad ⟨0, 1, 5, 6, 7, 8, 0, 0, 0, 0, 0, 0, 0⟩),
    (0x005105060700000000000000, 0, .iand ⟨0, 1, 5, 6, 7, 0, 0, 0, 0, 0, 0, 0, 0⟩),
    (0x006105060700000000000000, 0, .ior ⟨0, 1, 5, 6, 7, 0, 0, 0, 0, 0, 0, 0, 0⟩),
    (0x007105060700000000000000, 0, .ixor ⟨0, 1, 5, 6, 7, 0, 0, 0, 0, 0, 0, 0, 0⟩),
    (0x008105060000000000000000, 0, .inot ⟨0, 1, 5, 6, 0, 0, 0, 0, 0, 0, 0, 0, 0⟩),
    (0x009105060700000000000000, 0, .ishl ⟨0, 1, 5, 6, 7, 0, 0, 0, 0, 0, 0, 0, 0⟩),
    (0x00A105060700000000000000, 0, .ishr ⟨0, 1, 5, 6, 7, 0, 0, 0, 0, 0, 0, 0, 0⟩),
    (0x00B105060700000000000000, 0, .isar ⟨0, 1, 5, 6, 7, 0, 0, 0, 0, 0, 0, 0, 0⟩),
    (0x00C105060700000000000000, 0, .imin ⟨0, 1, 5, 6, 7, 0, 0, 0, 0, 0, 0, 0, 0⟩),
    (0x00D105060700000000000000, 0, .imax ⟨0, 1, 5, 6, 7, 0, 0, 0, 0, 0, 0, 0, 0⟩),
    (0x00E105060000000000000000, 0, .iabs ⟨0, 1, 5, 6, 0, 0, 0, 0, 0, 0, 0, 0, 0⟩),
    (0x00F105060000000000000000, 0, .ipopc ⟨0, 1, 5, 6, 0, 0, 0, 0, 0, 0, 0, 0, 0⟩),
    (0x010105060000000000000000, 0, .iclz ⟨0, 1, 5, 6, 0, 0, 0, 0, 0, 0, 0, 0, 0⟩),
    (0x011105060700000000000000, 0, .ibfe ⟨0, 1, 5, 6, 7, 0, 0, 0, 0, 0, 0, 0, 0⟩),
    (0x012105060708000000000000, 0, .ibfi ⟨0, 1, 5, 6, 7, 8, 0, 0, 0, 0, 0, 0, 0⟩),
    (0x013105060700000000000002, 0, .isel ⟨0, 1, 5, 6, 7, 0, 0, 0, 0, 0, 0, 2, 0⟩),
    (0x014105000700000000000000, 0, .imov ⟨0, 1, 5, 0, 7, 0, 0, 0, 0, 0, 0, 0, 0⟩)] = true := by decide +kernel

theorem test_lane_words_float : laneReadAs
  [(0x100905060700060100000000, 0, .fadd ⟨1, 1, 5, 6, 7, 0, 0, 0, 6, 0, 1, 0, 0⟩),
    (0x101105060700060000000000, 0, .fsub ⟨0, 1, 5, 6, 7, 0, 0, 0, 6, 0, 0, 0, 0⟩),
    (0x102105060700060000000000, 0, .fmul ⟨0, 1, 5, 6, 7, 0, 0, 0, 6, 0, 0, 0, 0⟩),
    (0x103105060708060000000000, 0, .ffma ⟨0, 1, 5, 6, 7, 8, 0, 0, 6, 0, 0, 0, 0⟩),
    (0x104105060700060000000000, 0, .fmin ⟨0, 1, 5, 6, 7, 0, 0, 0, 6, 0, 0, 0, 0⟩),
    (0x105105060700060000000000, 0, .fmax ⟨0, 1, 5, 6, 7, 0, 0, 0, 6, 0, 0, 0, 0⟩),
    (0x106105060000060000000000, 0, .fabs ⟨0, 1, 5, 6, 0, 0, 0, 0, 6, 0, 0, 0, 0⟩),
    (0x107105060000060000000000, 0, .fneg ⟨0, 1, 5, 6, 0, 0, 0, 0, 6, 0, 0, 0, 0⟩),
    (0x108105060000060000000000, 0, .frint ⟨0, 1, 5, 6, 0, 0, 0, 0, 6, 0, 0, 0, 0⟩)] = true := by decide +kernel

theorem test_lane_words_convert : laneReadAs
  [(0x200105060000060000000007, 0, .cvt ⟨0, 1, 5, 6, 0, 0, 0, 0, 6, 0, 0, 7, 0⟩),
    (0x201105060000090000000000, 0, .qblk ⟨0, 1, 5, 6, 0, 0, 0, 0, 9, 0, 0, 0, 0⟩),
    (0x202105060000060000000000, 0, .amax ⟨0, 1, 5, 6, 0, 0, 0, 0, 6, 0, 0, 0, 0⟩)] = true := by decide +kernel

theorem test_lane_words_cross : laneReadAs
  [(0x300105060700000000000000, 0, .shfl ⟨0, 1, 5, 6, 7, 0, 0, 0, 0, 0, 0, 0, 0⟩),
    (0x301105060700000000000000, 0, .shflr ⟨0, 1, 5, 6, 7, 0, 0, 0, 0, 0, 0, 0, 0⟩),
    (0x302105060700000000000000, 0, .shflx ⟨0, 1, 5, 6, 7, 0, 0, 0, 0, 0, 0, 0, 0⟩),
    (0x303105060700400000000000, 0, .bcast ⟨0, 1, 5, 6, 7, 0, 1, 0, 0, 0, 0, 0, 0⟩),
    (0x304105060000000000000001, 0, .lstep ⟨0, 1, 5, 6, 0, 0, 0, 0, 0, 0, 0, 1, 0⟩),
    (0x305105060000000000000001, 0, .scan ⟨0, 1, 5, 6, 0, 0, 0, 0, 0, 0, 0, 1, 0⟩),
    (0x306105060000000000000000, 0, .matchLanes ⟨0, 1, 5, 6, 0, 0, 0, 0, 0, 0, 0, 0, 0⟩),
    (0x307105060008000000000001, 0, .segred ⟨0, 1, 5, 6, 0, 8, 0, 0, 0, 0, 0, 1, 0⟩)] = true := by decide +kernel

theorem test_lane_words_compare : laneReadAs
  [(0x400105060700000000000003, 0, .icmp ⟨0, 1, 5, 6, 7, 0, 0, 0, 0, 0, 0, 3, 0⟩),
    (0x401105060700060000000003, 0, .fcmp ⟨0, 1, 5, 6, 7, 0, 0, 0, 6, 0, 0, 3, 0⟩)] = true := by decide +kernel

theorem test_lane_words_memory : laneReadAs
  [(0x500108060200500000100240, 0, .laneLd ⟨0, 1, 8, 6, 2, 0, 1, 1, 0, 0, 0, 1049152, 0⟩),
    (0x501100060208400000100240, 0, .laneSt ⟨0, 1, 0, 6, 2, 8, 1, 0, 0, 0, 0, 1049152, 0⟩),
    (0x502108060200400000100240, 0, .lds ⟨0, 1, 8, 6, 2, 0, 1, 0, 0, 0, 0, 1049152, 0⟩),
    (0x503100060208400000100240, 0, .sts ⟨0, 1, 0, 6, 2, 8, 1, 0, 0, 0, 0, 1049152, 0⟩),
    (0x504108060200400000100240, 0, .ldcl ⟨0, 1, 8, 6, 2, 0, 1, 0, 0, 0, 0, 1049152, 0⟩),
    (0x505100060208400000100240, 0, .stcl ⟨0, 1, 0, 6, 2, 8, 1, 0, 0, 0, 0, 1049152, 0⟩),
    (0x506108000204400000000200, 0, .fifopop ⟨0, 1, 8, 0, 2, 4, 1, 0, 0, 0, 0, 512, 0⟩),
    (0x507100000208400000000200, 0, .fifopush ⟨0, 1, 0, 0, 2, 8, 1, 0, 0, 0, 0, 512, 0⟩),
    (0x508108060200400100100240, 0, .ragld ⟨0, 1, 8, 6, 2, 0, 1, 0, 0, 0, 1, 1049152, 0⟩)] = true := by decide +kernel

theorem test_lane_words_atomics : laneReadAs
  [(0x600108060200400000007300, 0, .atom ⟨0, 1, 8, 6, 2, 0, 1, 0, 0, 0, 0, 29440, 0⟩),
    (0x601108060200400000006300, 0, .atomr ⟨0, 1, 8, 6, 2, 0, 1, 0, 0, 0, 0, 25344, 0⟩),
    (0x602108060200400000000300, 0, .atoms ⟨0, 1, 8, 6, 2, 0, 1, 0, 0, 0, 0, 768, 0⟩)] = true := by decide +kernel

theorem test_lane_words_remote : laneReadAs
  [(0x700108060209400000006200, 0, .rld ⟨0, 1, 8, 6, 2, 9, 1, 0, 0, 0, 0, 25088, 0⟩),
    (0x701100060209400000006200, 0, .rst ⟨0, 1, 0, 6, 2, 9, 1, 0, 0, 0, 0, 25088, 0⟩),
    (0x702108060209400000007000, 0, .ratom ⟨0, 1, 8, 6, 2, 9, 1, 0, 0, 0, 0, 28672, 0⟩)] = true := by decide +kernel

theorem test_lane_words_special : laneReadAs
  [(0x800105060000060000000000, 0, .rcp ⟨0, 1, 5, 6, 0, 0, 0, 0, 6, 0, 0, 0, 0⟩),
    (0x801105060000060000000000, 0, .rsqrt ⟨0, 1, 5, 6, 0, 0, 0, 0, 6, 0, 0, 0, 0⟩),
    (0x802105060000060000000000, 0, .sqrt ⟨0, 1, 5, 6, 0, 0, 0, 0, 6, 0, 0, 0, 0⟩),
    (0x803105060700060000000000, 0, .laneDiv ⟨0, 1, 5, 6, 7, 0, 0, 0, 6, 0, 0, 0, 0⟩),
    (0x804105060000060000000000, 0, .exp2 ⟨0, 1, 5, 6, 0, 0, 0, 0, 6, 0, 0, 0, 0⟩),
    (0x805105060000060000000000, 0, .log2 ⟨0, 1, 5, 6, 0, 0, 0, 0, 6, 0, 0, 0, 0⟩),
    (0x806105060000060000000000, 0, .sin ⟨0, 1, 5, 6, 0, 0, 0, 0, 6, 0, 0, 0, 0⟩),
    (0x807105060000060000000000, 0, .cos ⟨0, 1, 5, 6, 0, 0, 0, 0, 6, 0, 0, 0, 0⟩),
    (0x808105060000060000000000, 0, .tanh ⟨0, 1, 5, 6, 0, 0, 0, 0, 6, 0, 0, 0, 0⟩)] = true := by decide +kernel

theorem test_lane_words_other : laneReadAs
  [(0x900000000000000200000000, 0, .lnop ⟨0, 0, 0, 0, 0, 0, 0, 0, 0, 0, 2, 0, 0⟩),
    (0x901105000000000000000001, 0, .lid ⟨0, 1, 5, 0, 0, 0, 0, 0, 0, 0, 0, 1, 0⟩)] = true := by decide +kernel

/-- The words that the worked programs of 12 to 17 print. -/
theorem test_words_printed : readAs
  [(0x0461BFFF, .addi 6 6 (BitVec.ofInt 14 (-1))), (0x6C6FFFFF, .bnz 6 (BitVec.ofInt 20 (-1))), (0xC8000010, .exit),
    (0x4081D808, .ld 8 7 3 8), (0x4891D304, .lda 9 7 2 3 4), (0x54B1CC97, .amodCas 11 7 12 3 1), (0x58000012, .fenceRel 2),
    (0xB9455630, .mma 20 21 22), (0x02104000, .add 33 1 0), (0x90000006, .lrun 0 6), (0xA4A09000, .vread 10 9 0),
    (0xB8024000, .gang 9), (0x1595C015, .shli 25 23 21), (0x4416DFC0, .st 1 27 3 (BitVec.ofInt 11 (-64))),
    (0xB4C34000, .tcopy 12 13 0), (0xB0000050, .batch 0), (0xB0000168, .bbwaitImm 1), (0xB9411610, .planeA 20 4 22),
    (0xB8055620, .scale 21 22), (0xB8071840, .acci 28 24), (0xB8071850, .accd 28 24), (0xC8000020, .yield),
    (0x63FFFFFD, .br (BitVec.ofInt 26 (-3))), (0xBC720000, .tacknew 7 8), (0x78700013, .blt 7 0 19), (0x34900000, .auipc 9 0),
    (0xBCA1C910, .tackon 10 7 9), (0xC8C20000, .launch 12 8), (0x94000000, .lsync 0), (0xBC01C020, .tackoff 7),
    (0xBCB1C030, .tackdrop 11 7)] = true := by decide +kernel

/-- A literal operand b stands in a fourth word (R48). -/
theorem test_lane_words_long : laneReadAs
  [(0x000005060000C00000000000, 0x12345678, .iadd ⟨0, 0, 5, 6, 0, 0, 3, 0, 0, 0, 0, 0, 0x12345678⟩)] = true := by decide +kernel

/-- The table's word of a row, as the host numbers its bits. -/
theorem test_table_words :
    decodeTableWord 32 0xD00000A0 = some (.partitionRecord 0 0) ∧ decodeTableWord 32 0xC8000010 = some .exit ∧
      decodeTableWord 96 0x000000000000000000000000 = some (.iadd ⟨0, 0, 0, 0, 0, 0, 0, 0, 0, 0, 0, 0, 0⟩) := by
  decide +kernel

/-! ## Words that are no instruction, and terms that are not well-formed -/

/-- Reserved majors, function codes, sub-operations and modifiers, and fields that must be zero (R36, R40 to R45). -/
theorem test_refused_words : refused
  [0x3C000000, 0x5C000000, 0x8C000000, 0xD4000000, 0xFC000000, 0x00000020, 0x000000FF, 0x00108118, 0x9800000E, 0x98800000,
    0x500000D0, 0x540000A0, 0x58000050, 0x58000018, 0x58100000, 0x58000031, 0x94000001, 0xB0000070, 0xB4000030, 0xB8000060,
    0xBC000050, 0xC0000030, 0xC4000030, 0xC8000070, 0xCC000040, 0xD00000B0, 0xC8100010, 0x14000040, 0xA4000001,
    0x9C800000] = true := by decide +kernel

/-- Sizes, scopes and the PDEVICE scope of what is no acquire (R39, R43). -/
theorem test_refused_fields : refused
  [0x40003800, 0x44002000, 0x48003800, 0x48000600, 0x4C000500, 0x4C002000, 0x5000000A, 0x5000000C, 0x58000015, 0x58000006] =
    true := by decide +kernel

/-- One ill-formed term for each check of `Instr.wf`. -/
theorem test_ill_formed :
    (([.ld 1 2 7 0, .st 1 2 4 0, .lda 1 2 7 0 0, .lda 1 2 3 6 0, .stl 1 2 4 0 0, .stl 1 2 3 5 0, .amowAdd 1 2 3 5 0,
      .amodCas 1 2 3 7 1, .fenceAcq 6, .fenceRel 5, .fenceFull 7] : List Instr).all fun i => !i.wf) = true := by decide

/-- A lane word without fields. -/
def lw0 : LaneWord := ⟨0, 0, 0, 0, 0, 0, 0, 0, 0, 0, 0, 0, 0⟩

/-- One ill-formed lane word for each check: a used field that the entry does not name, a reserved code, an operand b that
`bsel` does not admit, a register that does not start its block (R48 to R52, R95, R99, R101, R107, R108, R113, R117, R118). -/
theorem test_ill_formed_lane :
    (([.iadd { lw0 with vc := 1 }, .iadd { lw0 with rnd := 1 }, .iadd { lw0 with cf := 1 }, .iadd { lw0 with imm32 := 1 },
      .iadd { lw0 with bsel := 1, vb := 16 }, .iadd { lw0 with bsel := 2, vb := 1 }, .iadd { lw0 with bsel := 3, vb := 1 },
      .iadd { lw0 with lit := 1 }, .imad { lw0 with rnd := 1 }, .inot { lw0 with vb := 1 }, .isel { lw0 with imm32 := 8 },
      .isel { lw0 with bsel := 2 }, .imov { lw0 with va := 1 }, .fadd { lw0 with rnd := 4 }, .ffma { lw0 with cf := 1 },
      .fmin { lw0 with rnd := 1 }, .frint { lw0 with imm32 := 1 }, .cvt { lw0 with imm32 := 14 }, .cvt { lw0 with imm32 := 128 },
      .qblk { lw0 with u := 1 }, .amax { lw0 with cnt := 1 }, .matchLanes { lw0 with vc := 1 }, .shfl { lw0 with u := 1 },
      .bcast lw0, .lstep { lw0 with imm32 := 7 }, .scan { lw0 with imm32 := 16 }, .segred { lw0 with cnt := 1 },
      .icmp { lw0 with vd := 0 }, .icmp { lw0 with vd := 8 }, .icmp { lw0 with vd := 1, imm32 := 6 },
      .fcmp { lw0 with vd := 1, imm32 := 8 }, .rcp { lw0 with vb := 1 }, .laneDiv { lw0 with vc := 1 }] : List Instr).all
        fun i => !i.wf) = true ∧
    (([.laneLd { lw0 with bsel := 0 }, .laneLd { lw0 with bsel := 1, imm32 := 5 * 256 },
      .laneLd { lw0 with bsel := 1, imm32 := 2 * 2048 }, .laneLd { lw0 with bsel := 1, imm32 := 2 * 256 + 128 },
      .laneLd { lw0 with bsel := 1, imm32 := 3 * 256, vd := 1 }, .laneLd { lw0 with bsel := 1, cf := 3 },
      .laneSt { lw0 with bsel := 1, vd := 1 }, .laneSt { lw0 with bsel := 1, imm32 := 2048 }, .lds { lw0 with bsel := 1, cf := 1 },
      .sts { lw0 with bsel := 1, imm32 := 2 * 8192 }, .ldcl { lw0 with bsel := 1, imm32 := 3 * 8192 },
      .stcl { lw0 with bsel := 1, imm32 := 3 * 8192 }, .fifopop { lw0 with bsel := 1, imm32 := 256 },
      .fifopush { lw0 with bsel := 1, imm32 := 512, va := 1 }, .ragld { lw0 with bsel := 1, va := 1 },
      .ragld { lw0 with bsel := 1, imm32 := 3 * 256 }, .atom { lw0 with bsel := 1 }, .atomr { lw0 with bsel := 1, imm32 := 4096 },
      .atoms { lw0 with bsel := 1, imm32 := 2 * 8192 }, .atom { lw0 with bsel := 1, imm32 := 4096 + 256, vd := 1 },
      .rld { lw0 with bsel := 1 }, .rst { lw0 with bsel := 1, imm32 := 3 * 8192, va := 1 },
      .ratom { lw0 with bsel := 1, imm32 := 3 * 8192 + 13 * 256, va := 1 }, .lnop { lw0 with vd := 1 },
      .lid { lw0 with imm32 := 8 }] : List Instr).all fun i => !i.wf) = true := by decide

/-- Run headers that R53 refuses: no marker, no length, a length over 24, a reserved flag, one flag twice, a checkpoint without
its bit, a reserved bit. -/
theorem test_refused_headers :
    ([0x00003F0C0C00000000000000, 0xF000FF000000000000000000, 0xF000FFC80000000000000000, 0xF000CF080000000000000000,
      0xF00033080000000000000000, 0xF000FF080100000000000000, 0xF000FF080000000000000001].all fun h =>
        (decodeHeader h).toOption.isNone) = true ∧
    (decodeHeader 0xF0003F0C0C00000000000000).toOption = some ⟨0, 3, 15, 1, some 12⟩ := by decide +kernel

/-! ## Small states -/

/-- What `Ready` asks, computed. -/
def readyB (s : State) (ds ss : List (BitVec 6)) : Bool :=
  (s.party? s.actor).isSome && ((ds ++ ss).all fun r => !s.me.isPending r.toNat) &&
    ss.all fun r => !s.sregBad s.actor r.toNat

theorem ready_of {s : State} {ds ss : List (BitVec 6)} (h : readyB s ds ss = true) : Ready s ds ss := by
  simp only [readyB, Bool.and_eq_true, List.all_eq_true, Bool.not_eq_true'] at h
  exact ⟨h.1.1, h.1.2, h.2⟩

theorem pair_of {α β : Type} {p : α × β} {b : β} (h : p.2 = b) : p = (p.1, b) := Prod.ext rfl h

/-- A read of an operation's continuation form goes on as `s1` with `x`. -/
def reads (op : (State → List Byte → State) → State) (s1 : State) (bs : List Byte) : Prop := ∀ k, op k = k s1 bs

/-- Steward core 128, with two registers set and bytes placed in memory. -/
def stw (x y : DWord) (mem : List Host.Cell) : State :=
  { State.reset with mem := mem }.upd fun q => (q.setSreg 1 x).setSreg 2 y

def groupA : PartyId := .group 0 0 0
def groupB : PartyId := .group 0 0 1

/-- A group of 32 threads with 64 lane registers. -/
def labParty (id : PartyId) (lane : Nat) : Party :=
  { Party.blank id 0 with
    lane := lane
    width := .native
    vcount := 64
    em := fullMask 32
    pc := 0x40000000
    spaceid := 7
    ptroot := 0x10000 }

def labRcb : Rcb :=
  ⟨2, 3, 0, 0, 0x300, 0, 0, 0, 0, 0, 0x40000000, 0x40001000, 1, 1, 1, 2, 64, 0x10000, 0, 0, 0⟩

def labLaunch : Launch :=
  ⟨0, 1, labRcb, [], 3, 0, .running, 0, 0, 0, 1, 0, 0, 0, some 0, none, false, [], [], 0, 0⟩

def labWg : Workgroup :=
  ⟨0, 0, 1, none, none, 0, 0, 0x1000, 0x10000, [groupA, groupB], .resident, 0, 0, 0, false, none, false, false, 0, false, [], [], [], [], [], []⟩

def labPartition : Partition := { Partition.blank with enabled := true, spaceid := 7, ptroot := 0x10000, cores := 3, root := 0x300, faultQueue := 0x30000, nextSeq := 2 }

/-- Frame map with frames 1 to 3 reserved, a page table of two levels at the first two, one page of 1 GiB at 0 that may be read
and written, one at 2^30 that may be read and executed, and in frame 3 a fault queue of 16 with a save pool (R273, R276, R298, R301). -/
def labMem : List Host.Cell :=
  [(0, 0x0E), (0x10000, 0x01), (0x10002, 0x02), (0x20000, 0x97), (0x20001, 0x61), (0x20003, 0x40), (0x20008, 0x9B),
    (0x20009, 0x60), (0x2000B, 0x80), (0x30000, 0x10), (0x3002B, 0x01)]

/-- A workgroup of two groups on core 0; group 0 acts, with two registers set. -/
def lab (x y : DWord) : State :=
  { State.reset with
    mem := labMem
    actor := groupA
    parties := (labParty groupA 0).setSreg 1 x |>.setSreg 2 y |> (· :: labParty groupB 1 :: State.reset.parties)
    partitions := State.reset.partitions.set 0 labPartition
    launches := [labLaunch]
    workgroups := [labWg] }

theorem test_lab_memory : Memory.wf labMem = true := by decide +kernel

/-! ## Hypotheses that are met -/

theorem test_ready : Ready (stw 5 6 []) [1] [2, 3] ∧ Ready (stw 5 6 []) [1] [] ∧ Ready (stw 5 6 []) [0] [0] ∧ Ready (lab 5 6) [1] [2, 3] := by
  and_intros <;> first | exact ready_of (by decide +kernel) | (unfold GroupIdle; decide +kernel) | decide +kernel

/-- AluRegister, AluImmediate: a function code over 0x1F; a used `sb`; a shift word with bit 6 set. -/
theorem test_alu_words :
    (fMajor 0x00000020 = 0 ∧ 0x20 ≤ (fFn 0x00000020).toNat) ∧ (fMajor 0x00000118 = 0 ∧ (fFn 0x00000118).toNat = 0x18 ∧ fB 0x00000118 ≠ 0) ∧
      ((fMajor 0x14000040).toNat = 5 ∧ (fImm14 0x14000040).toNat / 64 ≠ 0) ∧ ((fMajor 0x1C000040).toNat = 7) := by decide +kernel

/-- Branches: JALR to a multiple of 4, and to another address. -/
theorem test_branches : Ready (stw 8 0 []) [5] [1] ∧ (((stw 8 0 []).rd 1 + (4 : BitVec 14).signExtend 64).toNat % 4 = 0) ∧
    (((stw 8 0 []).rd 1 + (3 : BitVec 14).signExtend 64).toNat % 4 ≠ 0) ∧ Ready (stw 8 0 []) [63] [] ∧ Ready (stw 8 0 []) [] [1, 2] := by
  and_intros <;> first | exact ready_of (by decide +kernel) | (unfold GroupIdle; decide +kernel) | decide +kernel

/-- MaskRegisters and VectorRead: an idle group, and a steward core. -/
theorem test_masks : GroupIdle (lab 5 6) ∧ Ready (lab 5 6) [3] [2] ∧ (stw 5 6 []).actor.isSteward = true ∧ (lab 5 6).me.laneIdle = true ∧
    ((lab 5 6).upd fun q => { q with queue := [⟨0x40000000, [], 0⟩] }).me.laneIdle = false := by
  and_intros <;> first | exact ready_of (by decide +kernel) | (unfold GroupIdle; decide +kernel) | decide +kernel

/-- The lab's group with its divergence stack set. -/
def labDivs (n : Nat) (em : Word) : State := (lab 8 6).upd fun q => { q with divs := List.replicate n ⟨em, 6, 0x40000100⟩ }

/-- Divergence: a misaligned and an aligned join, a full and a free stack; an empty stack, and entries whose other side has
threads and has none; a mask that meets EM and one that does not. -/
theorem test_divergence : GroupIdle (labDivs 16 0) ∧ Ready (labDivs 16 0) [] [1] ∧ ((lab 8 6).rd 2).toNat % 4 ≠ 0 ∧
    ((labDivs 16 0).rd 1).toNat % 4 = 0 ∧ (synced (labDivs 16 0)).me.divs.length = 16 ∧ (synced (labDivs 15 0)).me.divs.length ≠ 16 ∧
    (synced (lab 8 6)).me.divs = [] ∧
    ((0xFFFFFFFF : Word) &&& ~~~(synced ((labDivs 1 0xFFFFFFFF).upd fun q => { q with em := 1 })).me.em ≠ 0) ∧
    ((0xFFFFFFFF : Word) &&& ~~~(synced (labDivs 1 0xFFFFFFFF)).me.em = 0) ∧ (lab 8 6).me.kreg 0 &&& (lab 8 6).me.em ≠ 0 ∧
    (lab 8 6).me.kreg 1 &&& (lab 8 6).me.em = 0 := by
  and_intros <;> first | exact ready_of (by decide +kernel) | (unfold GroupIdle; decide +kernel) | decide +kernel

/-- RunsQueuedAndAwaited: an offset that is no multiple of 4 and one that is, room in the queue, a mask of 4096 and of 4095. -/
theorem test_runs : (lab 4 4096).actor.isSteward = false ∧ Ready (lab 4 4096) [] [1] ∧ ((lab 2 0).rd 1).toNat % 4 ≠ 0 ∧
    ((lab 4 0).rd 1 + BitVec.ofInt 64 (4 * (3 : BitVec 14).toInt)).toNat % 4 = 0 ∧ (lab 4 0).me.queued < 4 ∧
    (∀ n, n < 16 → (lab 4 0).me.isPending (32 + n) = false) ∧ (∀ n, n < 16 → (lab 4 0).sregBad (lab 4 0).actor (32 + n) = false) ∧
    4096 ≤ ((lab 4 4096).rd 2).toNat ∧ ((lab 4 4095).rd 2).toNat < 4096 ∧ (lab 4 4095).me.ops = [] := by
  and_intros <;> first | exact ready_of (by decide +kernel) | (unfold GroupIdle; decide +kernel) | decide +kernel

/-- VectorRead: the last declared register and thread and the first undeclared of each, a tagged register, a register in error. -/
theorem test_vread : ((63 : BitVec 8).toNat < (lab 0 0).me.vcount ∧ (31 : BitVec 6).toNat < (lab 0 0).me.gw) ∧
    ¬((64 : BitVec 8).toNat < (lab 0 0).me.vcount) ∧ ¬((32 : BitVec 6).toNat < (lab 0 0).me.gw) ∧
    (∃ g ∈ ((lab 0 0).upd fun q => { q with tags := [(63, 2)] }).me.tags, g.1 = (63 : BitVec 8).toNat) ∧ (lab 0 0).me.tags = [] ∧
    ErrSite.vreg groupA 63 31 ∈ ({ lab 0 0 with errors := [.vreg groupA 63 31] } : State).errors ∧
    GroupIdle ({ lab 0 0 with errors := [.vreg groupA 63 31] } : State) ∧ Ready ({ lab 0 0 with errors := [.vreg groupA 63 31] } : State) [4] [] ∧
    (lab 0 0).errors = [] := by
  and_intros <;> first | exact ready_of (by decide +kernel) | (unfold GroupIdle; decide +kernel) | decide +kernel

/-- SystemRegisters: a read-only register and one of the steward's; a value with a bit that must be zero and one without; a
locked frame map; the FMT values at their bounds, and one that is not allowed. -/
theorem test_registers : SysReg.ofNumber (7 : BitVec 12).toNat = some .clk ∧ SysReg.clk.readOnly = true ∧ SysReg.ofNumber (0x112 : BitVec 12).toNat = some .kfmap ∧
    SysReg.kfmap.readOnly = false ∧ (0x2 : DWord).toNat &&& SysReg.kfmap.zeroBits ≠ 0 ∧ (0x10001 : DWord).toNat &&& SysReg.kfmap.zeroBits = 0 ∧
    ({ stw 0 0 [] with kfmap := 1 } : State).kfmap.getLsbD 0 = true ∧ FmtValue 0x33D ∧ ¬FmtValue 0x0E ∧ ¬FmtValue 0x40 ∧ FmtValue 6 ∧
    ((stw 1023 0 []).rd 1).toNat < 1024 ∧ 1024 ≤ ((stw 1024 0 []).rd 1).toNat ∧ (stw 0 0 []).me.laneIdle = true := by
  unfold FmtValue; decide +kernel

/-- SystemRegisters: a number of no register; a compute core and a steward core; a group and its workgroup; a steward core
that has loaded the spaceid of a partition, and of none. -/
theorem test_register_values : (∀ p ∈ sysNumbers, p.1 ≠ (0xFFF : BitVec 12).toNat) ∧ (lab 0 0).me.core < 128 ∧ 128 ≤ (stw 0 0 []).me.core ∧
    (lab 0 0).actor = .group 0 0 0 ∧ (lab 0 0).wg? 0 0 = some labWg ∧ (stw 0 0 []).actor = .steward 0 ∧
    (let s := { stw 0 0 [] with partitions := (lab 0 0).partitions }.upd fun q => { q with spaceid := 7 }
     (s.partition 0).enabled = true ∧ (s.partition 0).spaceid = s.me.spaceid.toNat) ∧
    (∀ p, p < 16 → ((stw 0 0 []).partition p).enabled = false) := by decide +kernel

/-- Where a hypothesis reads `f = (s1, x)`, `s1` is what `f` leaves and the test says what `x` is. -/
def checkOf (s : State) (va n : Nat) (k : Access) (aligned stores : Bool) : Checked := (s.checkAccess s.me va n k aligned stores).2

/-- ScalarLoads: the checks of a load pass, by physical and by virtual address, and the bytes read have no error; a quiet core. -/
theorem test_loads : Ready (stw 0x1000 0 []) [1] [1] ∧ (stw 0x1000 0 []).me.acquireBehind = false ∧ (stw 0x1000 0 []).me.half = none ∧
    (stw 0x1000 0 []).loadHolds 128 none .core false ⟨0x1000, 8, 0, none⟩ = false ∧
    (lab 0x100 0).loadHolds 0 (some 0) .core false ⟨0x40000100, 8, 0, none⟩ = false ∧
    checkOf (stw 0x1000 0 []) 0x1000 8 .read false false = .ok ⟨[⟨0x1000, 8, 0, none⟩], true, true⟩ ∧
    checkOf (stw 0x107C 0 []) 0x107C 8 .read false false = .ok ⟨[⟨0x107C, 4, 0, none⟩, ⟨0x1080, 4, 0, none⟩], true, true⟩ ∧
    checkOf (lab 0x100 0) 0x100 8 .read true false = .ok ⟨[⟨0x40000100, 8, 0, none⟩], false, false⟩ ∧
    (lab 0x100 0).me.atomicPending [⟨0x40000100, 8, 0, none⟩] = false ∧
    ((lab 0x100 0).loadPiece (lab 0x100 0).me (some 0) .core false none ⟨0x40000100, 8, 0, none⟩).2.2 = false ∧
    ((lab 0x100 0).upd fun q => { q with half := some ([⟨0x40000180, 4, 0, none⟩], [1, 2, 3, 4]) }).me.half =
      some (⟨0x40000180, 4, 0, none⟩ :: [], [1, 2, 3, 4]) ∧
    ((stw 0 0 []).dieCopies = [] ∧ (stw 0 0 []).caches = [] ∧ (stw 0 0 []).me.sq = [] ∧ ((stw 0 0 []).core 128).clean = [] ∧
      ((stw 0 0 []).core 128).dirty = [] ∧ homeDie 0x1000 = dieOfCore 128 ∧ (stw 0 0 []).errors = [] ∧ 0x1000 % 128 + 8 ≤ 128) := by
  and_intros <;> first | exact ready_of (by decide +kernel) | decide +kernel

/-- ScalarStores and ScalarAtomics: the checks of a store and of an atomic's word pass, for both widths. -/
theorem test_stores : Ready (lab 0x100 0) [] [1, 2] ∧ Ready (lab 0x100 0) [4] [1, 2, 4] ∧
    ((lab 0x100 0).me.acquireBehind = false ∧ (lab 0x100 0).me.loadsBehind = false) ∧
    checkOf (lab 0x17C 0) 0x17C 8 .write false true = .ok ⟨[⟨0x4000017C, 4, 0, none⟩, ⟨0x40000180, 4, 0, none⟩], false, false⟩ ∧
    checkOf (lab 0x100 0) 0x100 4 .write true true = .ok ⟨[⟨0x40000100, 4, 0, none⟩], false, false⟩ ∧
    checkOf (lab 0x100 0) 0x100 8 .write true true = .ok ⟨[⟨0x40000100, 8, 0, none⟩], false, false⟩ ∧
    (∀ i, i < 8 → (lab 0x100 0).byteBad 0 (0x40000100 + i) = false) := by
  and_intros <;> first | exact ready_of (by decide +kernel) | decide +kernel

/-- AccessFaults: an absent page, a page that may not be written, an address that is not canonical, a misaligned ordered access. -/
theorem test_access_faults : checkOf (lab 0 0) 0x80000000 8 .read false false = .fault .pageAbsent 0 true ∧
    checkOf (lab 0 0) 0x40000000 4 .write false true = .fault .protection 0 false ∧
    checkOf (lab 0 0) (2 ^ 56) 1 .read false false = .fault .protection 0 false ∧
    checkOf (lab 0 0) 0xFFFC 8 .read false false = .ok ⟨[⟨0x4000FFFC, 4, 0, none⟩, ⟨0x40010000, 4, 0, none⟩], false, false⟩ ∧
    (((lab 4 0).rd 1 + (0 : BitVec 8).signExtend 64 * BitVec.ofNat 64 (sizeBytes 3)).toNat % sizeBytes 3 ≠ 0) ∧
    ((lab 2 0).rd 1).toNat % 4 ≠ 0 ∧ ((lab 4 0).rd 1).toNat % 8 ≠ 0 := by decide +kernel

/-- A state whose core 0 holds a dirty byte of a line that a device shares: it cannot drain yet. -/
def stuck (s : State) : State :=
  { s with
    sharers := [(0x800002, 5)]
    cores := s.cores.modify 0 fun c => { c with dirty := [⟨0x40000100, 7, 0, none⟩] } }

/-- Fences: nothing of the runs is left, nothing stands before the fence; an acquire of the lines of one load, with no drain to
command. -/
theorem test_fences : ((lab 0 0).party? (lab 0 0).actor).isSome = true ∧ (lab 0 0).me.laneIdle = true ∧ (synced (lab 0 0)).me.loads = [] ∧
    (synced (lab 0 0)).me.acquireBehind = false ∧ (synced (lab 0 0)).me.settled = true ∧ (lab 0 0).me.acqs = [] ∧
    (lab 0 0).dirtyLeft 0 (upTo none) = false ∧ ((lab 0 0).releaseDrains 0 .device true).releaseReady 0 .device true = true ∧
    ((stuck (lab 0 0)).releaseDrains 0 .device true).releaseReady 0 .device true = false ∧ (stuck (lab 0 0)).me.settled = true ∧
    (lab 0 0).me.core < (lab 0 0).cores.length ∧ (lab 0 0).drainsFor (lab 0 0).actor 0 .device 0x800002 = [] ∧ (lab 0 0).drains = [] := by
  decide +kernel

/-- The lab's workgroup with a barrier object at offset 0x1000 of core 0, the start of its share. -/
def labBar (b : BarrierObj) (y : DWord) : State := (lab 0x1000 y).writePlace b.toBytes (.store 0 0x1000)

/-- The same with the object at the start of bank 0 of the cluster window. -/
def labBankBar (b : BarrierObj) : State :=
  { lab 0x2800000 0 with banks := State.reset.banks.set 0 ⟨.scratch, 0, 0, writeBytes [] 0 b.toBytes, []⟩ }

def bar (phase remaining : Nat) : BarrierObj := ⟨phase, 0, 2, remaining, false, false, 0⟩

/-- BarrierPhases: an object that awaits its last arrival, and one at the bounds of its fields; an event on it. -/
theorem test_barrier_objects : (bar 255 1).named = false ∧ (bar 255 1).waiting = 0 ∧ (bar 255 1).remaining = 1 ∧
    (let b : BarrierObj := ⟨255, -8388608, 65535, 65535, true, true, 2 ^ 32 - 1⟩
     b.phase < 256 ∧ -8388608 ≤ b.waiting ∧ b.waiting ≤ 8388607 ∧ b.expected < 65536 ∧ b.remaining < 65536 ∧ b.owner < 2 ^ 32) ∧
    0 < (labBar (bar 0 2) 0).cores.length ∧ ((labBar (bar 0 2) 0).barrierEvent (.store 0 0x1000) (.arrive 0)).toOption.isSome = true ∧
    (labBar (bar 7 2) 0).barrierAt (.store 0 0x1000) = bar 7 2 := by decide +kernel

/-- BarrierInstructions: a barrier word that names an object; operands at their bounds; an arrival that the object takes, one that
it refuses; a phase that is the operand's and one that is not. -/
theorem test_barriers : (labBar (bar 0 2) 0).actor.isSteward = false ∧
    (labBar (bar 0 2) 0).barrierPlace groupA ((labBar (bar 0 2) 0).rd 1) = .ok (.store 0 0x1000) ∧
    (labBar (bar 0 2) 0).storeBad 16 (.store 0 0x1000) = false ∧ Ready (labBar (bar 0 2) 0) [3] [1, 2] ∧
    ((lab 0 0x1FFFF).rd 2).toNat < 2 ^ 17 ∧ 2 ^ 17 ≤ ((lab 0 0x20000).rd 2).toNat ∧
    ((labBar (bar 0 2) 0).barrierEvent (.store 0 0x1000) (.init 65535 true (labBar (bar 0 2) 0).ownerOf)).toOption.isSome = true ∧
    -8388608 ≤ ((lab 0 (BitVec.ofInt 64 (-8388608))).rd 2).toInt ∧ 8388607 < ((lab 0 8388608).rd 2).toInt ∧
    ((labBar (bar 0 2) 0).barrierEvent (.store 0 0x1000) (.expect (-8388608))).toOption.isSome = true ∧
    ((labBar (bar 0 2) 0).barrierEvent (.store 0 0x1000) (.arrive 65535)).toOption.isSome = true ∧
    (let drained := (labBar (bar 0 2) 0).releaseDrains 0 (Place.store 0 0x1000).scope true
     drained.releaseReady 0 (Place.store 0 0x1000).scope true = true ∧
     ((drained.bumpFor 0 (Place.store 0 0x1000).scope).barrierEvent (.store 0 0x1000) (.arrive 65535)).toOption.isSome = true) ∧
    (let s := stuck (labBankBar (bar 0 2))
     s.barrierPlace groupA (s.rd 1) = .ok (.bank 0 0 0) ∧ (s.barrierEvent (.bank 0 0 0) (.arrive 1)).toOption.isSome = true ∧
       (s.releaseDrains 0 (Place.bank 0 0 0).scope true).releaseReady 0 (Place.bank 0 0 0).scope true = false) ∧
    ((labBar (bar 7 2) 5).upd fun q => { q with waitsOn := some ⟨.store 0 0x1000, 5, some (6, true)⟩ }).me.waitsOn =
      some ⟨.store 0 0x1000, 5, some (6, true)⟩ ∧ (labBar (bar 7 2) 5).me.waitsOn = none ∧
    (labBar (bar 0 2) 0).me.settled = true ∧
    (((labBar (bar 0 0) 0).barrierEvent (.store 0 0x1000) (.arrive 0)).toOption.isNone = true) ∧
    256 ≤ ((lab 0 256).rd 2).toNat ∧ ((lab 0 255).rd 2).toNat < 256 ∧
    ((labBar (bar 255 2) 255).barrierAt (.store 0 0x1000)).phase = ((labBar (bar 255 2) 255).rd 2).toNat ∧
    ((labBar (bar 254 2) 255).barrierAt (.store 0 0x1000)).phase ≠ ((labBar (bar 254 2) 255).rd 2).toNat := by
  and_intros <;> first | exact ready_of (by decide +kernel) | decide +kernel | rfl

/-- BarrierInstructions: control words beyond their bounds, barrier words that each check in turn refuses, an object in error, and a
pending count that would leave its range on either side. -/
theorem test_barriers_refused : ¬((lab 0 65536).rd 2).toNat < 65536 ∧ ¬((lab 0 0x20000).rd 2).toNat < 2 ^ 17 ∧
    2 ^ 26 ≤ ((lab 0x4000000 0).rd 1).toNat ∧ (((lab 0x1008 0).rd 1).toNat < 2 ^ 26 ∧ ((lab 0x1008 0).rd 1).toNat % 2 ^ 25 % 16 ≠ 0) ∧
    (((lab 0x20000 0).rd 1).toNat < 2 ^ 25 ∧ (lab 0x20000 0).inShare groupA 0x20000 16 = false) ∧
    ((lab 0x2800000 0).wgOf groupA = some labWg ∧ 2 ^ 25 ≤ ((lab 0x2800000 0).rd 1).toNat ∧
      (lab 0x2800000 0).windowPlace labWg (0x2800000 % 2 ^ 25) 16 = none) ∧
    (let s : State := { labBar (bar 0 2) 1 with errors := [.coreStore 0 0x1000] }
     s.barrierPlace groupA (s.rd 1) = .ok (.store 0 0x1000) ∧ s.storeBad 16 (.store 0 0x1000) = true ∧ s.me.settled = true ∧
       (s.rd 2).toNat < 256 ∧ Ready s [3] [1, 2]) ∧
    (8388607 < ((labBar { bar 0 2 with waiting := 8388607 } 1).barrierAt (.store 0 0x1000)).waiting + ((labBar (bar 0 2) 1).rd 2).toInt) ∧
    (((labBar { bar 0 2 with waiting := -8388608 } (-1)).barrierAt (.store 0 0x1000)).waiting + ((labBar (bar 0 2) (-1)).rd 2).toInt < -8388608) := by
  and_intros <;> first | exact ready_of (by decide +kernel) | decide +kernel | rfl

/-- The lab's group in batch `n` with the batches from `d` on incomplete. -/
def labBatch (n d : Nat) (y : DWord) : State := (lab 0 y).upd fun q => { q with batch := n, batchDone := d }

/-- BATCH and BBWAIT: 127 and 128 batches open; distance 0, 129, and 1 to 128 from an incomplete and from a complete batch. -/
theorem test_batches : (labBatch 127 0 0).me.openBatches < 128 ∧ 128 ≤ (labBatch 128 0 0).me.openBatches ∧
    ((labBatch 5 0 0).me.batch + 256 - 5) % 256 = 0 ∧ 128 < ((labBatch 129 1 0).me.batch + 256 - 0) % 256 ∧
    (let k := ((labBatch 128 0 0).me.batch + 256 - 0) % 256
     1 ≤ k ∧ k ≤ 128 ∧ k ≤ (labBatch 128 0 0).me.openBatches) ∧
    (let k := ((labBatch 5 3 0).me.batch + 256 - 2) % 256
     1 ≤ k ∧ k ≤ 128 ∧ (labBatch 5 3 0).me.openBatches < k) ∧
    256 ≤ ((labBatch 5 3 256).rd 2).toNat ∧ ((labBatch 5 3 255).rd 2).toNat < 256 := by decide +kernel

/-- The error of a check. -/
def errOf {ε α : Type} : Except ε α → Option ε
  | .ok _ => none
  | .error e => some e

/-- Bytes in the store of core 0, at the addresses of the lab's share. -/
def withStore (s : State) (l : List (Nat × List Byte)) : State := l.foldl (fun s x => s.writePlace x.2 (.store 0 x.1)) s

/-- A descriptor of a copy of four words within the share, from 0x1100 to 0x1200 (R179). -/
def copyBytes (dst : Nat) : List Byte :=
  toLe 8 0x1100 ++ toLe 8 dst ++ [4, 1, 5, 0] ++ List.replicate 12 0 ++ toLe 4 4 ++ toLe 4 0 ++ toLe 8 4 ++ toLe 8 4

def labCopy (dst : Nat) : State := withStore (lab 0x1040 0) [(0x1040, copyBytes dst)]

def copyDesc (dst : Nat) : CopyDesc := ⟨0x1100, dst, 4, false, 1, 1, [(4, 4, 4)]⟩

/-- CopyIssued: a copy that passes every check, with slot 0 free; a misaligned descriptor, one outside the share, and one whose
destination lies outside it. -/
theorem test_copies : Ready (labCopy 0x1200) [3] [1, 2] ∧ (labCopy 0x1200).me.engHeld = false ∧ (labCopy 0x1200).me.acquireBehind = false ∧
    ((labCopy 0x1200).rd 1).toNat % 64 = 0 ∧ (labCopy 0x1200).inShare groupA 0x1040 56 = true ∧
    (labCopy 0x1200).storeBad 56 (.store 0 0x1040) = false ∧ descDims ((labCopy 0x1200).readPlace 32 (.store 0 0x1040)) = some 1 ∧
    CopyDesc.ofBytes ((labCopy 0x1200).readPlace 56 (.store 0 0x1040)) 1 = some (copyDesc 0x1200) ∧
    (((labCopy 0x1200).copyChecks (labCopy 0x1200).me (copyDesc 0x1200) ((labCopy 0x1200).rd 2)).toOption = some none) ∧
    (labCopy 0x1200).copies = [] ∧ (labCopy 0x1200).lockEntries 0 + 2 ≤ 1024 ∧ (labCopy 0x1200).wgOf groupA = some labWg ∧
    (labCopy 0x1200).budgetOk labWg.key (·.budget) (labCopy 0x1200).copiesUnder 1 = true ∧
    ((lab 0x1020 0).rd 1).toNat % 64 ≠ 0 ∧ (lab 0x11000 0).inShare groupA 0x11000 32 = false ∧
    errOf ((labCopy 0x20000).copyChecks (labCopy 0x20000).me (copyDesc 0x20000) ((labCopy 0x20000).rd 2)) = some .protection := by
  and_intros <;> first | exact ready_of (by decide +kernel) | decide +kernel

/-- A copy of the lab's group that is under way. -/
def copyOf (next : Nat) (stopped : Option FaultClass) : Copy :=
  ⟨9, 0, 0, 0, 0, groupA, 0, 0, 0, false, 7, 0x10000, 0x40000000, 0x1100, 0x1200, 4, [(4, 4, 4)], 1, 1, false, none, 0,
    (0x1100, 16), (0x1200, 16), next, [], [], stopped, false⟩

def labCopies (l : List Copy) : State := { lab 0 0 with copies := l }.upd fun q => { q with copyTags := [0] }

/-- TQUERY: a tag of another workgroup; a tag whose copy is done, runs, or is stopped. -/
theorem test_tquery : Ready (labCopies []) [3] [1] ∧ ((lab 5 0).rd 1).toNat ∉ (lab 5 0).tagsOf (lab 5 0).me ∧
    ((labCopies []).rd 1).toNat ∈ (labCopies []).tagsOf (labCopies []).me ∧ (labCopies []).copies = [] ∧
    (copyOf 1 none).generation * 512 + (copyOf 1 none).tagSlot = ((labCopies [copyOf 1 none]).rd 1).toNat ∧
    (copyOf 1 none).part = 0 ∧ (copyOf 1 none).wg = 0 ∧ (copyOf 1 (some .pageAbsent)).stopped.isSome = true := by
  and_intros <;> first | exact ready_of (by decide +kernel) | decide +kernel

theorem matReady_of {s : State} {w : Workgroup} {rs : List (BitVec 6)}
    (h : readyB s [] rs = true ∧ s.actor.isSteward = false ∧ (s.me.engHeld = false ∧ s.me.acquireBehind = false) ∧
      s.wgOf s.actor = some w ∧ s.me.core < s.cores.length) : MatReady s w rs :=
  ⟨ready_of h.1, h.2.1, h.2.2.1, h.2.2.2.1, h.2.2.2.2⟩

/-- The lab's group with three registers. -/
def lab3 (x y z : DWord) : State := (lab x y).upd fun q => q.setSreg 3 z

theorem test_mat_ready : MatReady (lab3 0 0 0) labWg [1, 2, 3] :=
  matReady_of (by decide +kernel)

/-- PlanesQueued: a type of 8 and of 9, 32 and 33 blocks; a source, a stride and a destination that are not aligned; ranges in the
share and out of it; a SCALE of the last window column, one past it, and a reserved bit. -/
theorem test_planes : planeHalves 8 = 2 ∧
    (let v := 32 * 2 ^ 13 + 8 * 2 ^ 9 + 7 * 2 ^ 6 + 31
     v < 2 ^ 33 ∧ v / 2 ^ 9 % 16 < 9 ∧ v % 64 + 1 ≤ 32) ∧ ¬(9 * 2 ^ 9 / 2 ^ 9 % 16 < 9) ∧ ¬(32 % 64 + 1 ≤ 32) ∧
    0x2000 % max 1 (planeHalves 0 / 2) = 0 ∧ ¬(0x2002 % max 1 (planeHalves 0 / 2) = 0) ∧ ¬(0x3010 % 32 = 0) ∧
    within 0x2000 (127 * 128 + 32 * planeHalves 0 / 2) 0x1000 0x10000 = true ∧ within 0x10000 (planeBlock 1) 0x1000 0x10000 = true ∧
    within 0x11000 (planeBlock 1) 0x1000 0x10000 = false ∧ QueueRoom (lab 0 0) ∧ (lab 0 0).copies = [] ∧
    labWg.window.2 = 16 ∧ ¬(labWg.window.2 < 15 + 1) ∧ labWg.window.2 < 16 + 1 := by
  unfold QueueRoom; decide +kernel

/-- A marked region of the lab's launch at 0x10000, one physical piece. -/
def labRegion (ordered : Bool) (draining : Bool) : Region :=
  ⟨0, 1, none, 0x10000, [⟨0x40010000, 65536, 0, none⟩], false, ordered, if ordered then 64 else 0, [], [], [], [], draining, false, [], []⟩

def labAcc (x y z : DWord) (r : Region) : State := { lab3 x y z with regions := [r] }

/-- Operands of an MMA of one block: A at 0x2000, B at 0x4000, two planes each, CORE scope, unordered or ordered with index 63. -/
def mmaA : DWord := BitVec.ofNat 64 (0x4000 * 2 ^ 21 + 0x2000)
def mmaH (ordered : Bool) : DWord := BitVec.ofNat 64 ((if ordered then 2 ^ 15 + 63 * 2 ^ 16 else 0) + 1 * 2 ^ 12 + 1 * 2 ^ 9 + 1 * 2 ^ 6)

/-- MmaQueued: an MMA that passes, unordered and ordered; one for which nothing is marked; a gang register that names groups. -/
theorem test_mma : ((labAcc 0x10000 mmaA (mmaH false) (labRegion false false)).mmaChecks labWg 1 2 3 |>.toOption) =
      some ⟨0x10000, 0, 0, 0x2000, 0x4000, 1, 2, 2, false, none⟩ ∧
    ((labAcc 0x10000 mmaA (mmaH true) (labRegion true false)).mmaChecks labWg 1 2 3 |>.toOption) =
      some ⟨0x10000, 0, 0, 0x2000, 0x4000, 1, 2, 2, false, some 63⟩ ∧
    errOf ((lab3 0x10000 mmaA (mmaH false)).mmaChecks labWg 1 2 3) = some .accumStore ∧ (lab 0 0).me.gang = [] ∧ QueueRoom (lab 0 0) ∧
    ((lab 0 0).upd fun q => { q with gang := [0, 1] }).me.gang ≠ [] := by
  and_intros <;> first | (unfold QueueRoom; decide +kernel) | decide +kernel

/-- The twelve checks of `MmaQueued` on the operands in registers 1 to 3, as its list has them. -/
def mmaList (s : State) : List Bool :=
  let base := (s.rd 1).toNat
  let v := (s.rd 2).toNat
  let h := (s.rd 3).toNat
  let blocks := h % 64 + 1
  let ord := decide (h / 2 ^ 15 % 2 = 1)
  let idx := h / 2 ^ 16 % 64
  let reads := [(v % 2 ^ 21, blocks * (512 * (h / 2 ^ 6 % 8 + 2) + 160)), (v / 2 ^ 21 % 2 ^ 21, blocks * (512 * (h / 2 ^ 9 % 8 + 2) + 160))]
  let region := s.region? 0 base
  [decide (v < 2 ^ 60 ∧ h < 2 ^ 22), decide (blocks ≤ 32), decide (h / 2 ^ 12 % 8 = 1 ∨ h / 2 ^ 12 % 8 = 3), ord || decide (idx = 0),
    decide (v / 2 ^ 42 % 512 + blocks ≤ labWg.window.2 ∧ v / 2 ^ 51 % 512 + blocks ≤ labWg.window.2),
    decide (v % 2 ^ 21 % 32 = 0 ∧ v / 2 ^ 21 % 2 ^ 21 % 32 = 0), reads.all fun r => within r.1 r.2 labWg.share labWg.length,
    decide (base % 128 = 0), region.isSome, region.all fun r => if r.declared then ord else decide (ord = r.ordered),
    region.all fun r => !ord || (decide (idx < r.n) && (!r.ordered || (decide (idx ∉ r.reserved) && !s.waitingIndex 0 base idx))),
    reads.all fun r => !s.copyDest 0 r]

/-- The first check that fails. -/
def mmaFails (x y z : DWord) (r : Region) : Option Nat := (mmaList (labAcc x y z r)).findIdx? (!·)

/-- MmaQueued: operands that meet every check, unordered and ordered; for each check operands at its bound that it is the first to
turn away. -/
theorem test_mma_checks :
    let u := labRegion false false
    let o := labRegion true false
    let h := mmaH false
    mmaFails 0x10000 mmaA h u = none ∧ mmaFails 0x10000 mmaA (mmaH true) o = none ∧
    mmaFails 0x10000 (mmaA + 2 ^ 60) h u = some 0 ∧ mmaFails 0x10000 mmaA (h + 2 ^ 22) u = some 0 ∧ mmaFails 0x10000 mmaA (h + 32) u = some 1 ∧
    mmaFails 0x10000 mmaA (h + 2 ^ 12) u = some 2 ∧ mmaFails 0x10000 mmaA (h + 2 ^ 16) u = some 3 ∧
    mmaFails 0x10000 (mmaA + 16 * 2 ^ 42) h u = some 4 ∧ mmaFails 0x10000 (mmaA + 16 * 2 ^ 51) h u = some 4 ∧
    mmaFails 0x10000 (mmaA + 15 * 2 ^ 51 + 15 * 2 ^ 42) h u = none ∧
    mmaFails 0x10000 (mmaA + 16) h u = some 5 ∧ mmaFails 0x10000 (mmaA + 16 * 2 ^ 21) h u = some 5 ∧
    mmaFails 0x10000 (mmaA - 0x1020) h u = some 6 ∧ mmaFails 0x10040 mmaA h u = some 7 ∧ mmaFails 0x10080 mmaA h u = some 8 ∧
    mmaFails 0x10000 mmaA (mmaH true) u = some 9 ∧ mmaFails 0x10000 mmaA h o = some 9 ∧
    mmaFails 0x10000 mmaA h { u with declared := true } = some 9 ∧ mmaFails 0x10000 mmaA (mmaH true) { o with n := 63 } = some 10 ∧
    mmaFails 0x10000 mmaA (mmaH true) { o with reserved := [63] } = some 10 ∧
    (mmaList { labAcc 0x10000 mmaA h u with copies := [{ copyOf 1 none with dstRange := (0x4000, 16) }] }).findIdx? (!·) = some 11 := by
  decide +kernel

theorem test_mma_ready : MatReady (labAcc 0x10000 mmaA (mmaH false) (labRegion false false)) labWg [1, 2, 3] :=
  matReady_of (by decide +kernel)

/-- A drain descriptor of all 128 rows to 0x20000, as F32, that releases its region (R139). -/
def accdBytes : List Byte := toLe 8 0x20000 ++ toLe 8 512 ++ List.replicate 16 0 ++ [0, 0, 4, 0] ++ toLe 2 0 ++ toLe 2 128 ++ List.replicate 24 0

def labAccd : State := withStore (labAcc 0x10000 0x1080 0 (labRegion false false)) [(0x1080, accdBytes)]

/-- AccumulatorCommands: ACCI's word at its bounds and beyond them, its pages, budget and lines; ACCD's descriptor, aligned and in
the share, and not; GANG's words. -/
theorem test_accumulators : (let v := 2 ^ 8 + 2 ^ 7 + 64
     v < 2 ^ 9 ∧ v % 128 ≤ 64 ∧ (v / 2 ^ 8 % 2 = 1 → v % 128 ≠ 0)) ∧ ¬(65 % 128 ≤ 64) ∧ ¬((256 : Nat) / 2 ^ 8 % 2 = 1 → 256 % 128 ≠ 0) ∧
    (match ((lab 0x10000 0).acciPages (lab 0x10000 0).me 0x10000).2 with | .ok x => decide (x.pieces.length = 512) | .error _ => false) = true ∧
    ((lab 0x10000 0).acciPages (lab 0x10000 0).me 0x10000).1.budgetOk labWg.key (·.quota) (lab 0x10000 0).linesUnder 512 = true ∧
    (let u := ((lab 0x10000 0).acciPages (lab 0x10000 0).me 0x10000).1
     u.dieCopies = [] ∧ u.dirtyHolders = [] ∧ u.regions = [] ∧ u.lineFree 0x800200 = true ∧
       u.leavesDirty [⟨0x40010000, 65536, 0, none⟩] = true) ∧ 0x10000 % 128 = 0 ∧
    0x1080 % 64 = 0 ∧ within 0x1080 64 labWg.share labWg.length = true ∧ within 0x11000 64 labWg.share labWg.length = false ∧
    labAccd.storeBad 64 (.store 0 0x1080) = false ∧
    AccdDesc.ofBytes (labAccd.readPlace 64 (.store 0 0x1080)) = some ⟨0x20000, 512, 0, 0, 0, 0, false, false, true, false, 0, 0, 128⟩ ∧
    labAccd.region? 0 0x10000 = some (labRegion false false) ∧ QueueRoom labAccd ∧ labAccd.lockEntries 0 + 1 ≤ 1024 ∧
    labAccd.copyDest 0 (0x1080, 64) = false ∧ ({ labAccd with copies := [{ copyOf 1 none with dstRange := (0x1080, 16) }] } : State).copyDest 0 (0x1080, 64) = true ∧
    ¬(0x20002 % accdSize 0 = 0) ∧ (lab 0 0).region? 0 0x10000 = none ∧
    (let v := 2 + 0 * 2 ^ 3 + 1 * 2 ^ 8
     v % 8 = 2 ∧ v / 2 ^ 3 % 32 = 0 ∧ v / 2 ^ 8 % 32 = 1 ∧ v / 2 ^ 13 = 0) ∧ 1 < labWg.groups.length ∧ (7 % 8 = 7) := by
  unfold QueueRoom; decide +kernel

/-! ## Steps of the engines -/

/-- An event whose object is numbered `x` (and `y`). -/
def event (s : State) (x y : Nat) (flag : Bool) : State := { s with args := { EventArgs.blank with x := x, y := y, flag := flag } }

def cmd (body : MatBody) (stage : MatStage) : MatCmd :=
  { (labParty groupA 0).command labWg 40 body [(0x2000, 32)] [] with stage := stage }

/-- The lab with one command in the matrix queue of core 0, a region, and a move of core 0. -/
def labQueue (c : MatCmd) (rs : List Region) : State :=
  event ({ lab 0 0 with regions := rs }.updCore 0 fun k => { k with matrix := [c] }) 0 0 false

def planeCmd (stage : MatStage) : MatCmd := cmd (.plane false 0x3000 0x2000 16 0 2 1) stage
def accdDesc (release : Bool) : AccdDesc := ⟨0x20000, 512, 0, 0, 0, 0, false, false, release, false, 0, 0, 128⟩
def accdCmd (stage : MatStage) (row : Nat) : MatCmd := { cmd (.accd 0x10000 (accdDesc true)) stage with row := row }

/-- MatrixQueueSteps: a head that waits and may start; a PLANE, a SCALE up to the last column and an ACCD that execute; a region with and
without outstanding MMAs. -/
theorem test_queue_steps : 0 < (labQueue (planeCmd .waiting) []).cores.length ∧ (labQueue (planeCmd .waiting) []).args.x = 0 ∧
    (labQueue (planeCmd .waiting) []).executing? 0 = none ∧ nextMat ((labQueue (planeCmd .waiting) []).core 0).matrix [] = some (planeCmd .waiting) ∧
    (labQueue (planeCmd .waiting) []).granted (planeCmd .waiting) = true ∧ (labQueue (planeCmd .waiting) []).drainWaits 0 (planeCmd .waiting) = false ∧ (labQueue (planeCmd .waiting) []).holds .bobbin 0 = false ∧
    (labQueue (planeCmd .started) []).executing? 0 = some (planeCmd .started) ∧ (labQueue (planeCmd .started) []).badByte 0 [(0x2000, 32)] = none ∧
    (labQueue (cmd (.scale 0x2000 16 16 496) .started) []).executing? 0 = some (cmd (.scale 0x2000 16 16 496) .started) ∧ 496 + 16 ≤ 512 ∧
    ({ labQueue (cmd (.scale 0x2000 16 16 496) .started) [] with errors := [.coreStore 0 0x2005] } : State).badByte 0
      ((List.range 128).map fun r => (0x2000 + r * 16, 16)) = some 0x2005 ∧ ((labQueue (planeCmd .started) []).party? groupA).isSome = true ∧
    ({ labRegion true true with reserved := [1] } : Region).missing ≠ 0 ∧
    (labQueue (accdCmd .started 0) [labRegion false true]).executing? 0 = some (accdCmd .started 0) ∧
    (labQueue (accdCmd .started 0) [labRegion false true]).region? 0 0x10000 = some (labRegion false true) ∧
    (labRegion false true).outstanding = [] ∧ (labRegion false true).asking = [] ∧ (labRegion false true).missing = 0 ∧
    ({ labRegion false true with outstanding := [3] } : Region).outstanding ≠ [] := by decide +kernel

def mmaCmd (stage : MatStage) : MatCmd := cmd (.mma 0x10000 0 0 0x2000 0x4000 1 2 2 false none) stage

/-- MmaSteps: an MMA that asks its region, and one that computes on planes whose residues agree. -/
theorem test_mma_steps : (let s := event (labQueue (mmaCmd .waiting) [{ labRegion false false with asking := [40] }]) 40 0 false
     s.args.x = (mmaCmd .waiting).id ∧ mmaCmd .waiting ∈ (s.core 0).matrix ∧ s.region? 0 0x10000 = some { labRegion false false with asking := [40] } ∧
       (mmaCmd .waiting).id ∈ ({ labRegion false false with asking := [40] } : Region).asking ∧
       ∀ k, k < 128 → ∀ m ∈ (s.core k).matrix, m.id = 40 → k = 0 ∧ m = mmaCmd .waiting) ∧
    (let s := labQueue (mmaCmd .started) [{ labRegion false false with outstanding := [40] }]
     s.executing? 0 = some (mmaCmd .started) ∧ s.badByte 0 (mmaCmd .started).reads = none ∧ s.errors = []) := by decide +kernel

theorem cellGet_nil {w : Nat} (a : Nat) : cellGet ([] : Cells w) a = 0 := rfl

theorem planeRead_nil (base p b i : Nat) : planeRead [] base p b i = planeRead [] 0 p 0 0 := by
  simp [planeRead, readBytes, cellGet_nil]

/-- Planes of an empty store agree with their residues. -/
theorem test_mma_residues :
    (labQueue (mmaCmd .started) []).core 0 = { Core.blank with matrix := [mmaCmd .started] } ∧
    ({ Core.blank with matrix := [mmaCmd .started] } : Core).residuesAgree ⟨0x10000, labWg.window.1, labWg.window.1, 0x2000, 0x4000, 1, 2, 2, false, none⟩ = true := by
  refine ⟨by decide +kernel, ?_⟩
  simp only [Core.residuesAgree, List.all_eq_true]
  intro b _ i _ j _
  have e : ({ Core.blank with matrix := [mmaCmd .started] } : Core).store = [] := rfl
  rw [e, planeRead_nil 0x2000, planeRead_nil 0x4000]
  decide +kernel

def contribution (index : Option Nat) : Contribution := ⟨7, 40, 0, 0x10000, 511, 0, index, List.replicate 32 0x3F800000, false⟩

def labContribution (r : Region) (index : Option Nat) (flag : Bool) : State :=
  event { lab 0 0 with regions := [r], contributions := [contribution index] } 7 0 flag

/-- Contributions: to the last line of an unordered region; in ordered mode in its turn and before it. -/
theorem test_contributions : (labContribution (labRegion false false) none false).contributions.find? (fun x => decide (x.id = 7) && !x.returned) =
      some (contribution none) ∧
    (labContribution (labRegion false false) none false).region? 0 0x10000 = some (labRegion false false) ∧ (contribution none).vals.length = 32 ∧
    spanAt (labRegion false false).spans (128 * 511) = some (0x40010000 + 128 * 511) ∧ (lab 0 0).dieCopies = [] ∧ (lab 0 0).errors = [] ∧
    (lab 0 0).homeHolds (dieOfCore (contribution none).core) (0x40010000 + 128 * 511) = false ∧ (contribution none).core ≠ Config.allCores ∧
    (lab 0 0).sliceHolds (0x40010000 + 128 * 511) = false ∧ ({ contribution (some 1) with core := Config.allCores } : Contribution).core = Config.allCores ∧ (labRegion false false).leaving = false ∧ (labRegion true false).ordered = true ∧ (contribution (some 0)).index = some ((labRegion true false).awaits 511) ∧ (labRegion true false).early = [] ∧
    (contribution (some 1)).index = some 1 ∧ 1 ≠ (labRegion true false).awaits 511 := by decide +kernel

/-- An ACCD at row `row` of a marked region. -/
def labDrain (row : Nat) : State := labQueue (accdCmd .rows row) [labRegion false true]

/-- DrainSteps: an ACCD at its first row, whose pieces pass and lie apart, with nothing held back; and past its last, which releases
its region or opens it. -/
theorem test_drains : (labDrain 0).executing? 0 = some (accdCmd .rows 0) ∧ (accdCmd .rows 0).ready = [] ∧ (accdCmd .rows 0).row < 0 + 128 ∧
    (labDrain 0).region? 0 0x10000 = some (labRegion false true) ∧ (∀ p ∈ (labRegion false true).spans, p.pa % 128 = 0 ∧ p.len % 128 = 0) ∧
    (labDrain 0).errors = [] ∧ (∀ x ∈ (labDrain 0).regions, x.leaving = false) ∧ (accdDesc true).format ≤ 4 ∧
    (let ps : List Piece := [⟨0x40020000, 128, 0, none⟩, ⟨0x40020080, 128, 0, none⟩, ⟨0x40020100, 128, 0, none⟩, ⟨0x40020180, 128, 0, none⟩]
     let u := ((labDrain 0).drainPieces 0 (accdCmd .rows 0) 0x20000 512)
     let v := u.1.drainPieces 0 (accdCmd .rows 0) 0 0
     u.2.toOption = some ps ∧ v.2.toOption = some [] ∧
       (v.1.tacks = [] ∧ v.1.sharers = [] ∧ v.1.held = [] ∧ v.1.dieCopies = [] ∧ v.1.caches = [] ∧ (v.1.core 0).dirty = []) ∧
       v.1.leavesDirty ps = true ∧ v.1.drainHolds 0 ((labRegion false true).rowPieces 0 ++ (ps ++ [])) = false ∧ ((∀ p ∈ ps, p.pa % 128 + p.len ≤ 128) ∧ ps.Pairwise fun x y => x.pa + x.len ≤ y.pa ∨ y.pa + y.len ≤ x.pa) ∧
       ∀ x ∈ (labRegion false true).spans, ∀ p ∈ ps, x.pa + x.len ≤ p.pa ∨ p.pa + p.len ≤ x.pa) ∧
    (labDrain 128).executing? 0 = some (accdCmd .rows 128) ∧ 0 + 128 ≤ (accdCmd .rows 128).row ∧
    (accdDesc true).maxOn = false ∧ (accdDesc true).release = true ∧ (accdDesc false).release = false ∧ (lab 0 0).held = [] := by decide +kernel

/-- The same with a maximum word at 0x30000, at DEVICE scope. -/
def maxDesc : AccdDesc := { accdDesc true with maxOn := true, maxScope := 3, maxWord := 0x30000 }
def maxCmd (row : Nat) : MatCmd := { cmd (.accd 0x10000 maxDesc) .rows with row := row }

/-- Its maximum word is one piece of memory, once the rows are done; before that, or while a row's write is held, it waits. -/
theorem test_maximum : (let s := labQueue (maxCmd 128) [labRegion false true]
     let u := s.drainPieces 0 (maxCmd 128) 0x30000 4
     s.executing? 0 = some (maxCmd 128) ∧ (maxCmd 128).maxDone = false ∧ (s.party groupA).doneBefore (maxCmd 128).id = true ∧
       u.2.toOption = some [⟨0x40030000, 4, 0, none⟩] ∧ u.1.leavesDirty [⟨0x40030000, 4, 0, none⟩] = true ∧ u.1.lazy = [] ∧
       (∀ i, i < 4 → u.1.byteBad 0 (0x40030000 + i) = false) ∧ u.1.drainHolds 0 [⟨0x40030000, 4, 0, none⟩] = false ∧ 0 < u.1.cores.length ∧
       (u.1.tacks = [] ∧ u.1.sharers = [] ∧ u.1.held = [] ∧ u.1.dieCopies = [] ∧ u.1.caches = [] ∧ (u.1.core 0).dirty = [])) ∧
    (maxCmd 127).row < 0 + 128 ∧
    (∃ h ∈ [(⟨.write [(0x40020000, 1)], .accd 0 (maxCmd 128).id 0 0⟩ : HeldWrite)], ∃ p w, h.source = .accd 0 (maxCmd 128).id p w) := by
  refine ⟨by decide +kernel, by decide, ⟨_, List.mem_singleton.mpr rfl, 0, 0, rfl⟩⟩

/-- The lab with a copy under way, and a move of it. -/
def labElement (next : Nat) : State := event (labCopies [copyOf next none]) 9 next false

/-- CopySteps: the first and the last element of a copy, one whose elements are all performed, a batch without work. -/
theorem test_copy_steps : (labElement 3).args.x = (copyOf 3 none).id ∧ (labElement 3).copies.find? (fun x => decide (x.id = 9)) = some (copyOf 3 none) ∧
    3 < (copyOf 3 none).count ∧ (copyOf 3 none).done = [] ∧ (labElement 3).held = [] ∧ (labElement 3).holds .sram 0 = false ∧ (copyOf 3 none).next = 3 ∧
    (∀ p ∈ (copyOf 3 none).pins, p.1 ≠ 3) ∧
    ((labElement 3).copyPin (copyOf 3 none) 3).2.toOption.isSome = true ∧ (labElement 3).copyOverflows (copyOf 3 none) 4 = false ∧
    (copyOf 3 none).srcSpace = 1 ∧ (copyOf 3 none).dstSpace = 1 ∧ (copyOf 3 none).barrier = none ∧ (copyOf 3 none).zero = false ∧
    (let c := { copyOf 3 none with dst := 0x200, dstSpace := 0, dstRange := (0x200, 16) }
     let s := event (labCopies [c]) 9 3 false
     let u := s.copyPin c 3
     u.2.toOption = some ([⟨0x4000020C, 4, 0, none⟩], [0, 0, 0, 0]) ∧ u.1.refusedWrite (0x4000020C / 128) = false ∧
       u.1.copyOverflows c 3 = false ∧
       u.1.leavesDirty [⟨0x4000020C, 4, 0, none⟩] = true ∧ u.1.copies.find? (fun x => decide (x.id = 9)) = some c ∧
       (u.1.tacks = [] ∧ u.1.sharers = [] ∧ u.1.held = [] ∧ u.1.dieCopies = [] ∧ u.1.caches = [] ∧ (u.1.core 0).dirty = [])) ∧
    (let c := { copyOf 3 none with dst := 0x40000000, dstSpace := 0 }
     let s := event (labCopies [c]) 9 3 false
     errOf (s.copyPin c 3).2 = some (some (.protection, 0x4000000C)) ∧ ((s.copyPin c 3).1.party groupA).mayPark = true ∧
       ((s.copyPin c 3).1.party? groupA).isSome = true ∧ (s.copyPin c 3).1.copies = s.copies) ∧
    (let c := { copyOf 3 none with src := 0x80000000, srcSpace := 0 }
     let s := event (labCopies [c]) 9 3 false
     errOf (s.copyPin c 3).2 = some (some (.pageAbsent, 0x8000000C)) ∧ (s.copyPin c 3).1.copies = s.copies) ∧
    copyOf 4 none ∈ (labElement 4).copies ∧ (copyOf 4 none).count ≤ (copyOf 4 none).next ∧
    (let s := { labBatch 1 0 0 with args := { EventArgs.blank with p := groupA } }
     s.args.p = groupA ∧ (s.party? groupA).isSome = true ∧ (s.party groupA).batchDone ≠ (s.party groupA).batch ∧
       s.batchBusy groupA (s.party groupA).batchDone = false) := by decide +kernel

/-! ## Tacks, sharing groups, reductions -/

def tack (state : TackState) (holders : List TackHolder) : Tack :=
  ⟨5, 1, state, .ro, 0, some labWg.key, 0x200, 64, 0, [⟨0x40000200, 64, 0, none⟩], 7, [(0, 2 ^ 30)], holders⟩

/-- The lab with a tack of handle 0x1005 in register 1. -/
def labTack (y : DWord) (ts : List Tack) : State := { lab 0x1005 y with tacks := ts }

/-- The descriptor of a tack on 64 bytes at 0x200 (R187), at virtual address 0x100. -/
def tackBytes : List Byte := toLe 8 1 ++ toLe 8 0x200 ++ toLe 8 64 ++ toLe 8 0

def labTacknew : State := let s := lab 0x100 0; { s with mem := writeBytes s.mem 0x40000100 tackBytes }

/-- TACKNEW: a misaligned address; a descriptor that is read; the range translated, with a free tack, in memory, without dirty
bytes and unmarked; another value than its own; a range on an accumulator region; one beyond memory. -/
theorem test_tacknew : Ready (lab 0x10 0) [3] [1] ∧ LoadFree (lab 0x10 0) ∧ ((lab 0x10 0).rd 1).toNat % 32 ≠ 0 ∧ Ready labTacknew [3] [1] ∧
    LoadFree labTacknew ∧ labTacknew.me.atomicPending [⟨0x40000100, 32, 0, none⟩] = false ∧
    (match checkOf labTacknew 0x100 32 .read false false with | .ok x => decide (x.pieces = [⟨0x40000100, 32, 0, none⟩]) | _ => false) = true ∧
    labTacknew.loadHolds 0 (some 0) .core false ⟨0x40000100, 32, 0, none⟩ = false ∧
    (labTacknew.loadPieces labTacknew.me (some 0) .core false none [⟨0x40000100, 32, 0, none⟩]).2 = (tackBytes, false) ∧
    TackDesc.ofBytes tackBytes = some ⟨.ro, 0x200, 64, 0⟩ ∧
    (let r := labTacknew.xlate (labTacknew.unitOf labTacknew.me) 0x200 64 .watch false
     r.2.toOption.map (·.pieces) = some [⟨0x40000200, 64, 0, none⟩] ∧ r.1.freeTack = some 0 ∧ r.1.dirtyHolders = [] ∧ r.1.dieCopies = [] ∧
       r.1.marked (0x40000200 / 128) = false ∧ (∀ k, k < 64 → r.1.byteBad 0 (0x40000200 + k) = false) ∧
       le (readBytes r.1.mem 0x40000200 64) ≠ 1) ∧ lineExists (0x40000200 / 128) = true ∧
    ((stw 0 0 []).xlate ((stw 0 0 []).unitOf (stw 0 0 []).me) Config.dramBytes 64 .watch false).2.toOption.map (·.pieces) =
      some [⟨Config.dramBytes, 64, 0, none⟩] ∧ (stw 0 0 []).freeTack = some 0 ∧ lineExists (Config.dramBytes / 128) = false ∧
    (labAcc 0 0 0 (labRegion false false)).marked (0x40010000 / 128) = true := by
  and_intros <;> first | exact ready_of (by decide +kernel) | exact ⟨rfl, rfl⟩ | decide +kernel

/-- With all 4096 tacks live none is free. -/
theorem test_no_free_tack (s : State) :
    ({ s with tacks := (List.range 4096).map fun i => { tack .live [] with index := i } } : State).freeTack = none := by
  simp only [State.freeTack, firstBelow, List.find?_eq_none, List.mem_range]
  intro i h
  simp only [Bool.not_eq_true', Bool.not_eq_false, List.any_map, List.any_eq_true]
  exact ⟨i, List.mem_range.mpr h, by simp [tack]⟩

/-- TACKON, TACKOFF, TACKDROP, TACKQ: a landing point that is no multiple of 4; no such tack; a broken one; a live one with no
holder, held by the caller, and with the caller in four tacks. -/
theorem test_tacks : Ready (labTack 0 []) [3] [1, 2] ∧ ((labTack 2 []).rd 2).toNat % 4 ≠ 0 ∧ ((labTack 8 []).rd 2).toNat % 4 = 0 ∧
    (labTack 0 []).tackOf (labTack 0 []).me ((labTack 0 []).rd 1) = none ∧
    (labTack 0 [tack .broken []]).tackOf (labTack 0 [tack .broken []]).me ((labTack 0 [tack .broken []]).rd 1) = some (tack .broken []) ∧
    (labTack 0 [tack .live []]).tackOf (labTack 0 [tack .live []]).me ((labTack 0 [tack .live []]).rd 1) = some (tack .live []) ∧
    (tack .live []).holder? groupA = false ∧ (tack .live [⟨groupA, 8⟩]).holder? groupA = true ∧ (tack .live [⟨groupA, 8⟩]).holders ≠ [] ∧
    ((List.replicate 4 (tack .live [⟨groupA, 8⟩])).filter fun x => x.holder? groupA).length = 4 ∧
    ((List.replicate 3 (tack .live [⟨groupA, 8⟩])).filter fun x => x.holder? groupA).length < 4 := by
  and_intros <;> first | exact ready_of (by decide +kernel) | decide +kernel

/-- The lab's workgroup as a member of a sharing group, with others. -/
def labShare (x : DWord) (mine : Option (Nat × Nat × Nat)) (others : List Nat) : State :=
  { lab x 0 with
    workgroups := { labWg with sharing := mine } :: others.map fun m => { labWg with id := 1 + m, core := 1, groups := [], sharing := some (0, 15, m) } }

/-- SharingGroups: group 15 and 16; a member of the group named and of another; the lowest free member, and no free member. -/
theorem test_sharing : (labShare 15 none [0]).actor.isSteward = false ∧ Ready (labShare 15 none [0]) [3] [1] ∧
    (labShare 15 none [0]).wgOf groupA = some labWg ∧ ((labShare 15 none [0]).rd 1).toNat < 16 ∧ 16 ≤ ((labShare 16 none []).rd 1).toNat ∧
    clusterOfCore labWg.core = 0 ∧ (labShare 15 none [0]).memberMapped 0 0 15 1 = false ∧ (labShare 15 none [0]).memberMapped 0 0 15 0 = true ∧
    (∀ m, m < 4 → (labShare 15 none [0, 1, 2, 3]).memberMapped 0 0 15 m = true) ∧
    (labShare 15 (some (0, 15, 3)) []).wgOf groupA = some { labWg with sharing := some (0, 15, 3) } := by
  and_intros <;> first | exact ready_of (by decide +kernel) | decide +kernel

/-- A reduction of two contributions on slot 1023 of port 15, as a descriptor word (R195). -/
def fred : FredDesc := ⟨255, 1, 5, 2, 15, 1023⟩
def fredWord : DWord := BitVec.ofNat 64 (255 * 2 ^ 56 + 1 * 2 ^ 40 + 5 * 2 ^ 32 + 2 * 2 ^ 16 + 15 * 2 ^ 10 + 1023)

def slot (state : SlotState) (joiners : List (PartyId × Bool)) (received : Nat) : Slot :=
  { Slot.blank 15 1023 with
    owner := some 0
    state := state
    round := 255
    operation := 5
    count := 2
    timeout := 1
    joiners := joiners
    received := received }

def labSlot (w : DWord) (x : Slot) : State :=
  { lab w 9 with slots := [x], fabric := State.reset.fabric.set 15 { FabricPort.blank with up := true } }

/-- FabricReductions: a malformed word, a slot of another owner; an idle slot, one that collects with and without the caller, the last
contribution and one before it, a delivered one whose last reader is the caller and one that others still read. -/
theorem test_fabric : Ready (labSlot fredWord (slot .idle [] 0)) [3] [1, 2] ∧ FredDesc.ofWord (0 : DWord) = none ∧
    FredDesc.ofWord ((labSlot fredWord (slot .idle [] 0)).rd 1) = some fred ∧
    ((labSlot fredWord (slot .idle [] 0)).slotAt 15 1023).owner = (labSlot fredWord (slot .idle [] 0)).partOf (labSlot fredWord (slot .idle [] 0)).me ∧
    ((labSlot fredWord (slot .idle [] 0)).slotAt 15 0).owner ≠ (labSlot fredWord (slot .idle [] 0)).partOf (labSlot fredWord (slot .idle [] 0)).me ∧
    ((labSlot fredWord (slot .idle [] 0)).fabric.getD 15 FabricPort.blank).up = true ∧ (slot .collecting [] 0).agrees fred = true ∧
    (slot .collecting [(groupB, false)] 0).joiners.length < 2 ∧ (slot .collecting [(groupA, false)] 0).joined groupA = true ∧
    (slot .collecting [(groupA, false)] 0).received + 1 ≠ 2 ∧ (slot .collecting [(groupA, false)] 1).received + 1 = 2 ∧
    (slot .delivered [(groupA, false)] 2).joined groupA = true ∧ (slot .delivered [(groupA, false)] 2).getters = [] ∧
    (groupB, false) ∈ (slot .delivered [(groupA, false), (groupB, false)] 2).joiners := by
  and_intros <;> first | exact ready_of (by decide +kernel) | decide +kernel

/-- A contribution on its way. -/
def put (word value : DWord) : FredPut := ⟨9, groupA, word, value, 3, 0⟩

def labPut (x : Slot) (clk : Nat) : State := event { labSlot fredWord x with puts := [put fredWord 4], clk := clk } 9 0 true

/-- FRPUT answered: the one contribution of its number, of a party that is there, at a port that is up; its slot as
`test_fabric` has them; a contribution that has waited for 1 ms, and one that has not. -/
theorem test_put : (let s := labPut (slot .collecting [(groupA, false)] 1) 4000000
     s.args.flag = true ∧ s.args.x = 9 ∧ s.puts = [put fredWord 4] ∧ FredDesc.ofWord (put fredWord 4).word = some fred ∧
       (s.party? (put fredWord 4).p).isSome = true ∧ (s.fabric.getD 15 FabricPort.blank).up = true ∧
       s.slotAt 15 1023 = slot .collecting [(groupA, false)] 1 ∧ (put fredWord 4).sentAt + 4000000 ≤ s.clk) ∧
    (labPut (slot .idle [] 0) 3999999).clk < (put fredWord 4).sentAt + 4000000 ∧ SlotFits (slot .delivered [(groupA, false)] 2) ∧
    (slot .delivered [(groupA, false)] 2).isPartial = false ∧ (slot .collecting [] 0).round < 256 ∧ (slot .collecting [] 1).received < 127 := by
  unfold SlotFits; decide +kernel

/-- FredReach; a word of another owner's slot; a port that is down, with nothing seen yet. -/
theorem test_fred_reach : FredReach (labSlot fredWord (slot .idle [] 0)) 1 fred ∧ ((labSlot fredWord (slot .idle [] 0)).fabric.getD 0 FabricPort.blank).up = false ∧
    lookupD fred.key 0 (labSlot fredWord (slot .idle [] 0)).me.frSeen = 0 := by
  refine ⟨⟨by decide +kernel, by decide +kernel, by decide +kernel⟩, by decide +kernel, by decide +kernel⟩

/-- The folds: values with and without a NaN. -/
theorem test_folds : (FType.f32.decode (0x7FC00000 : DWord).toNat).isNan = true ∧ (FType.f32.decode (0x3F800000 : DWord).toNat).isNan = false ∧
    ([0x7FC00000, 0x3F800000] : List DWord).filter (fun v => !(FType.f32.decode v.toNat).isNan) = [0x3F800000] := by decide +kernel

/-- The timeouts of a round: at its time, and just before. -/
theorem test_fabric_timeouts : (let s (clk : Nat) (st : SlotState) := event { labSlot fredWord (slot st [] 0) with clk := clk } 15 1023 false
     (s 4000 .collecting).slotAt 15 1023 = slot .collecting [] 0 ∧ (slot .collecting [] 0).openedAt + 1 * 4000 ≤ (s 4000 .collecting).clk ∧
     (s 3999 .collecting).clk < (slot .collecting [] 0).openedAt + 1 * 4000 ∧
     (slot .delivered [] 0).deliveredAt + 1 * 4000 ≤ (s 4000 .delivered).clk) := by decide +kernel

/-! ## Work -/

/-- What a read of an object leaves and gives, and whether it goes on. -/
def objectOf (s : State) (va n : Nat) (scope : Scope) : State × List Byte × Bool :=
  match s.checkAccess s.me va n .read false false with
  | (s1, .ok x) =>
    let r := s1.loadPieces s.me (s1.partOf s.me) scope false none x.pieces
    (r.1, r.2.1, !s.me.acquireBehind && !(s.me.atomicPending x.pieces || x.pieces.any (s1.loadHolds s.me.core (s1.partOf s.me) scope false)) && !r.2.2)
  | _ => (s, [], false)

theorem readObject_of {s : State} {va n : Nat} {scope : Scope} (h : (objectOf s va n scope).2.2 = true) (k : State → List Byte → State) :
    s.readObject va n scope k = k (objectOf s va n scope).1 (objectOf s va n scope).2.1 := by
  unfold State.readObject
  unfold objectOf at h ⊢
  split at h
  · rename_i s1 x e
    simp only [Bool.and_eq_true, Bool.not_eq_true'] at h
    simp only [e, h.1.1, h.1.2, h.2, Bool.false_eq_true, if_false]
  · exact absurd h (by simp)

/-- A control block as R211 lays it out. -/
def rcbBytes (r : Rcb) : List Byte :=
  toLe 4 r.kind ++ [BitVec.ofNat 8 r.priority, r.flags] ++ toLe 2 r.domain ++ toLe 8 r.parent ++ toLe 8 r.after ++ toLe 4 r.maxCores ++
    toLe 4 r.quota ++ toLe 4 r.budget ++ toLe 4 r.stagger ++ toLe 8 r.entry ++ toLe 8 r.lanes ++ toLe 4 r.x ++ toLe 4 r.y ++ toLe 4 r.z ++
    toLe 2 r.groups ++ toLe 2 r.vregs ++ toLe 4 r.store ++ toLe 4 0 ++ toLe 8 r.args ++ toLe 8 r.barrier ++ toLe 8 r.statusAddr ++
    List.replicate 152 0

def rootRcb : Rcb := ⟨1, 255, 0, 0, 0, 0, 0, 0, 0, 0, 0, 0, 0, 0, 0, 0, 0, 0, 0, 0, 0⟩

/-- The lab with a launch block at 0x400 that waits on ticket `after`, its root region read before, and `n` launches. -/
def labSubmit (after n : Nat) : State :=
  let s := lab 0x400 0
  { s with
    mem := writeBytes s.mem 0x40000400 (rcbBytes { labRcb with after := after })
    regionValues := [⟨0, 0x300, rootRcb⟩]
    launches := List.replicate n labLaunch }

theorem readChain_root {part : Nat} {k : State → List ChainNode → State} {f addr : Nat} {s : State} {acc : List ChainNode} {r : Rcb}
    (ha : addr % 256 = 0) (hv : s.regionRcb part addr = some r) (hp : r.parent = 0) (hr : addr = (s.partition part).root) :
    State.readChain part k (f + 1) s addr acc = k s (acc ++ [⟨addr, r⟩]) := by
  rw [State.readChain, if_neg (by omega), hv]
  simp [hp, hr]

/-- The state in which LAUNCH reads its block. -/
def launching (after n : Nat) : State := ((synced (labSubmit after n)).releaseDrains 0 .device true).bumpFor 0 .device

/-- LAUNCH: its block and chain are read, whatever follows. -/
theorem test_launch_reads (after n : Nat) (h : (objectOf (launching after n) 0x400 256 .device).2.2 = true)
    (hb : launchOk (objectOf (launching after n) 0x400 256 .device).2.1 = true)
    (hr : Rcb.ofBytes (objectOf (launching after n) 0x400 256 .device).2.1 = { labRcb with after := after })
    (hv : (objectOf (launching after n) 0x400 256 .device).1.regionRcb 0 0x300 = some rootRcb)
    (hp : 0x300 = ((objectOf (launching after n) 0x400 256 .device).1.partition 0).root) (k : State → Rcb → List ChainNode → State) :
    (launching after n).readLaunch 0 0x400 k =
      k (objectOf (launching after n) 0x400 256 .device).1 { labRcb with after := after } [⟨0x300, rootRcb⟩] := by
  rw [State.readLaunch, readObject_of h, if_pos hb, hr]
  exact readChain_root (by decide : 0x300 % 256 = 0) hv rfl hp

/-- LaunchAccepted: a launch with no ticket to wait on, on ticket 1, which was issued, and on ticket 2, which was not; 4095 and 4096
launches that are not over. -/
theorem test_launch : Ready (labSubmit 0 1) [3] [1] ∧ (labSubmit 0 1).me.laneIdle = true ∧ ((labSubmit 0 1).rd 1).toNat % 256 = 0 ∧
    ((lab 0x480 0).rd 1).toNat % 256 ≠ 0 ∧ (synced (labSubmit 0 1)).me.settled = true ∧ (labSubmit 0 1).partOf (labSubmit 0 1).me = some 0 ∧
    (objectOf (launching 0 1) 0x400 256 .device).2.2 = true ∧ launchOk (objectOf (launching 0 1) 0x400 256 .device).2.1 = true ∧
    Rcb.ofBytes (objectOf (launching 0 1) 0x400 256 .device).2.1 = { labRcb with after := 0 } ∧
    (objectOf (launching 0 1) 0x400 256 .device).1.regionRcb 0 0x300 = some rootRcb ∧
    0x300 = ((objectOf (launching 0 1) 0x400 256 .device).1.partition 0).root ∧
    ((objectOf (launching 0 1) 0x400 256 .device).1.partition 0).nextSeq = 2 ∧
    ((1 : Nat) / 2 ^ 60 = 0 ∧ 1 % 2 ^ 60 ≠ 0 ∧ 1 % 2 ^ 60 < 2) ∧ ¬(2 % 2 ^ 60 < 2) ∧
    (objectOf (launching 0 4095) 0x400 256 .device).1.incomplete 0 < 4096 ∧ 4096 ≤ (objectOf (launching 0 4096) 0x400 256 .device).1.incomplete 0 := by
  and_intros <;> first | exact ready_of (by decide +kernel) | decide +kernel

/-- LaunchAccepted: the release is over, and is not; a group with an operation that has not ended; a caller without a partition. -/
theorem test_launch_waits : ((synced (labSubmit 0 1)).releaseDrains 0 .device true).releaseReady 0 .device true = true ∧
    ((synced (stuck (labSubmit 0 1))).releaseDrains 0 .device true).releaseReady 0 .device true = false ∧
    (stuck (labSubmit 0 1)).me.laneIdle = true ∧ (synced (stuck (labSubmit 0 1))).me.settled = true ∧
    ((labSubmit 0 1).upd fun q => { q with ops := [⟨1, .exit, 0, none, 0, true, true, 0, none⟩] }).me.settled = false ∧
    (stw 0x400 0 []).me.laneIdle = true ∧ (synced (stw 0x400 0 [])).me.settled = true := by decide +kernel

/-- The lab's launch with a status word at `addr`, once the window of tickets begins at ticket 5. -/
def labStatus (addr after : Nat) (state : LaunchState) : State :=
  { lab 0 0 with
    launches := [{ labLaunch with rcb := { labRcb with statusAddr := addr, after := after }, state := state }]
    partitions := State.reset.partitions.set 0 { labPartition with nextSeq := 65541 } }

/-- A status word's write: no address, one that does not translate, and one that does with every leaf's Dirty set, and none waits
at a home; a launch that waits on the ticket that leaves the window, and none. -/
theorem test_status : labRcb.statusAddr = 0 ∧ (labStatus 0x80000000 0 .running).launch? 0 1 ≠ none ∧
    (match ((labStatus 0x80000000 0 .running).xlate ((labStatus 0 0 .running).shuttleUnit 0) 0x80000000 8 .write true).2 with
     | .error (.pageAbsent, _) => true | _ => false) = true ∧
    (let u := (labStatus 0x208 0 .running).xlate ((labStatus 0x208 0 .running).shuttleUnit 0) 0x208 8 .write true
     (match u.2 with
      | .ok x => decide (x.pieces.map (fun p => (p.pa, p.len)) = [(0x40000208, 8)]) && u.1.leavesDirty x.pieces
      | _ => false) = true ∧
     (u.1.tacks = [] ∧ u.1.sharers = [] ∧ u.1.held = [] ∧ u.1.asks = [] ∧ u.1.dieCopies = [] ∧ u.1.heldBlocks = [] ∧ u.1.heldDies = []) ∧ u.1.marked (0x40000208 / 128) = false) ∧
    (let s := labStatus 0 5 .waiting
     s.launch? 0 1 = some { labLaunch with rcb := { labRcb with after := 5 }, state := .waiting } ∧ 65536 < (s.partition 0).nextSeq ∧
       s.launch? 0 (s.partition 0).nextSeq = none ∧ (5 : Nat) = 0 * 2 ^ 60 + ((s.partition 0).nextSeq - 65536) ∧
       (∀ x ∈ s.launches, x.rcb.statusAddr = 0)) ∧
    (∀ l ∈ (labStatus 0 4 .waiting).launches, l.rcb.after ≠ 5) := by decide +kernel

/-- What a launch leaves that is accepted with sequence number 2; tickets of launches in each state. -/
theorem test_accept : ((lab 0 0).party? (lab 0 0).actor).isSome = true ∧ 0 < (lab 0 0).partitions.length ∧ labRcb.statusAddr = 0 ∧
    (lab 0 0).launch? 0 ((lab 0 0).partition 0).nextSeq = none ∧ Ready (lab 1 0) [3] [1] ∧
    (((lab 1 0).rd 1).toNat / 2 ^ 60 = 0 ∧ ((lab 1 0).rd 1).toNat % 2 ^ 60 = 1) ∧ ¬(((lab 2 0).rd 1).toNat % 2 ^ 60 < ((lab 2 0).partition 0).nextSeq) ∧
    (lab 1 0).ticketState 0 1 < 3 ∧ ({ lab 1 0 with launches := [{ labLaunch with state := .notRun }] } : State).ticketState 0 1 = 5 ∧
    (stw 0 0 []).partOf (stw 0 0 []).me = none ∧ ((lab 1 0).partition 0).nextSeq ≤ 1 + 65536 := by
  and_intros <;> first | exact ready_of (by decide +kernel) | decide +kernel

/-- The lab's workgroup as a rung group of thread 31's item. -/
def labRungWg : Workgroup := { labWg with rung := some (0x1000, 0), groups := [groupA], items := [⟨31, 9, .running, [], 0⟩] }

/-- GroupControl: critical sections allowed and not; a group that may pass a phase and one that may not; a critical section at its end
and just before; EXIT of a group with something outstanding, of a rung group, of one of two groups and of the last. -/
theorem test_groups : (lab 0 0).critAllowed groupA = false ∧
    ({ lab 0 0 with launches := [{ labLaunch with rcb := { labRcb with flags := 2 } }] } : State).critAllowed groupA = true ∧
    (lab 0 0).wgOf groupA = some labWg ∧ labWg.rung = none ∧ labRungWg.rung.isSome = true ∧
    ((lab 0 0).me.laneIdle && (lab 0 0).me.settled && (lab 0 0).batchesDone (lab 0 0).me) = true ∧
    ((labBatch 0 0 0).upd fun q => { q with ops := [⟨1, .exit, 0, none, 0, true, true, 0, none⟩] }).me.settled = false ∧
    (let s (clk : Nat) : State := { (lab 0 0).upd fun q => { q with crit := some 100 } with clk := clk, args := { EventArgs.blank with p := groupA } }
     (s 200100).args.p = groupA ∧ (s 200100).me.crit = some 100 ∧ 100 + 200000 ≤ (s 200100).clk ∧ (s 200099).clk < 100 + 200000) ∧
    (lab 0 0).finished (lab 0 0).me = true ∧ ((lab 0 0).upd fun q => { q with pending := [(1, 1)] }).finished ((lab 0 0).upd fun q => { q with pending := [(1, 1)] }).me = false ∧
    labRungWg.unsettled (lab 0 0).me.em ≠ 0 ∧ labWg.awaits 0 = none ∧ ((lab 0 0).party groupB).status ≠ .ended ∧ groupA ∈ labWg.groups ∧
    (∀ g ∈ labRungWg.groups, g = groupA) := by decide +kernel

/-- The lab with a pre-emption of its workgroup that a critical section of group `p` defers, begun at 100. -/
def labCrit (p : PartyId) (clk : Nat) : State :=
  { { lab 0 0 with workgroups := [{ labWg with deferred := true }] }.upd (fun q => { q with crit := if p = groupA then some 100 else none }) with
    clk := clk
    args := { EventArgs.blank with p := groupA } }

/-- GroupControl: nothing is deferred; a deferred pre-emption that finds room in the pool and that no other group's section
defers; a section at its end, and just before; other streams of the unit; a group in a section that may pass a phase, one whose
release is not over. -/
theorem test_deferred : (∀ w ∈ (lab 0 0).wgOf groupA, w.deferred = false) ∧
    (let s := labCrit groupA 200100
     let w : Workgroup := { labWg with deferred := true }
     s.wgOf groupA = some w ∧ w.state = .resident ∧ s.imageSize w ≤ s.poolFree w.part ∧ (∀ g ∈ w.groups, g ≠ groupA → (s.party g).crit = none) ∧
       s.me.crit = some 100 ∧ 100 + 200000 ≤ s.clk ∧ w.rung = none ∧ (s.me.laneIdle && s.me.settled && s.batchesDone s.me) = true ∧
       s.finished s.me = true ∧ w.awaits (groupIndex groupA) = none ∧ groupB ∈ w.groups ∧ groupB ≠ groupA ∧ (s.party groupB).status ≠ .ended) ∧
    (labCrit groupA 200099).clk < 100 + 200000 ∧ (labCrit groupB 0).me.crit = none ∧ (stuck (lab 0 0)).me.laneIdle = true ∧
    ((stuck (lab 0 0)).me.laneIdle && (stuck (lab 0 0)).me.settled && (stuck (lab 0 0)).batchesDone (stuck (lab 0 0)).me) = true ∧
    (stw 0 0 []).actor.isSteward = true := by decide +kernel

/-- Events of the lab's launch, workgroup or party with the clock at `clk`. -/
def labAt (clk : Nat) (l : Launch) (w : Workgroup) : State :=
  { lab 0 0 with
    clk := clk
    launches := [l]
    workgroups := [w]
    args := { EventArgs.blank with x := 0, y := 1, p := groupA } }

/-- Ageing: an eligible launch, a saved workgroup and a ready run at 20 microseconds; a launch first for 100; the seventh step. -/
theorem test_ageing : (labAt 80000 { labLaunch with state := .eligible, nextIndex := 0 } labWg).launch? 0 1 = some { labLaunch with state := .eligible, nextIndex := 0 } ∧
    0 + 80000 * (0 + 1) ≤ 80000 ∧ ¬(0 + 80000 * (0 + 1) ≤ 79999) ∧ (labAt 0 labLaunch { labWg with id := 1 }).wg? 0 1 = some { labWg with id := 1 } ∧
    (labAt 0 labLaunch labWg).party? groupA = some ((labParty groupA 0).setSreg 1 0 |>.setSreg 2 0) ∧ ¬(7 < 7) ∧
    ({ labLaunch with firstSince := some 0 } : Launch).firstSince = some 0 ∧ 0 + 400000 ≤ 400000 := by decide +kernel

/-- A partition with an eligible launch and nothing resident. -/
def labPlace : State :=
  { lab 0 0 with
    parties := State.reset.parties
    workgroups := []
    launches := [{ labLaunch with state := .eligible, nextIndex := 0 }]
    regionValues := [⟨0, 0x300, rootRcb⟩] }

/-- WorkgroupStarts: the launch fits at the start of core 0's store; with no launch nothing does. -/
theorem test_placement : labPlace.placeable 0 = some (.launch 1, ⟨0, [0, 1], 0⟩) ∧
    labPlace.launch? 0 1 = some { labLaunch with state := .eligible, nextIndex := 0 } ∧ labPlace.wg? 0 (labPlace.freeWg 0) = none ∧
    ({ labPlace with launches := [] } : State).placeable 0 = none := by decide +kernel

theorem party?_of_stewards {s : State} (h : (s.parties.all fun q => q.id.isSteward) = true) (a b i : Nat) : s.party? (.group a b i) = none := by
  simp only [List.all_eq_true] at h
  simp only [State.party?, List.find?_eq_none, decide_eq_true_eq]
  intro q hq e
  have := h q hq
  rw [e] at this
  exact absurd this (by simp [PartyId.isSteward])

theorem test_placement_room : labPlace.makeRoom labPlace.args.x (fun _ _ _ => false) = labPlace ∧
    ∀ i, labPlace.party? (.group labPlace.args.x (labPlace.freeWg labPlace.args.x) i) = none :=
  ⟨by decide +kernel, fun i => party?_of_stewards (by decide +kernel) _ _ i⟩

/-- A launch of one workgroup whose groups stand in PHASE or run, with another launch that waits on it. -/
def labPhase (a b : Status) (l : Launch) : State :=
  let s := (lab 0 0).updParty groupA fun q => { q with status := a }
  { s.updParty groupB fun q => { q with status := b } with
    launches := [l, { labLaunch with seq := 2, state := .waiting, rcb := { labRcb with after := 1 } }]
    args := { EventArgs.blank with x := 0, y := 1 } }

/-- LaunchesEnd: a launch that runs with all or none of its workgroups ended, without and with failures, and one that is over; a wide
phase where every group has arrived, where one has not, and one that is being resumed. -/
theorem test_launch_ends : (labPhase .phase .ended labLaunch).launch? 0 1 = some labLaunch ∧ labLaunch.ended < labRcb.total ∧
    ({ labLaunch with state := .complete } : Launch).over = true ∧ labRcb.total ≤ ({ labLaunch with ended := 1 } : Launch).ended ∧ labRcb.barrier = 0 ∧
    labLaunch.state = .running ∧ (∀ m ∈ (labPhase .phase .ended labLaunch).launches, m.rcb.statusAddr = 0) ∧ (lab 0 0).caches = [] ∧ (lab 0 0).held = [] ∧
    ({ labLaunch with seq := 2, state := .waiting, rcb := { labRcb with after := 1 } } : Launch).waitsOn 0 1 = true ∧
    (∀ m ∈ (labPhase .phase .ended labLaunch).launches, ∀ n ∈ (labPhase .phase .ended labLaunch).launches, m.part = n.part → m.seq = n.seq → m = n) ∧
    (labPhase .phase .ended labLaunch).arrived labWg = true ∧ (labPhase .phase .running labLaunch).arrived labWg = false ∧
    labWg ∈ (labPhase .phase .ended labLaunch).wgsOf 0 1 ∧ labWg.state = .resident ∧ (labPhase .phase .ended labLaunch).staggered labLaunch.lastStart labRcb.stagger = true ∧
    labLaunch.resume = [] ∧ labLaunch.unplaced = false ∧ ({ labLaunch with resume := [0] } : Launch).resume.head? = some labWg.index ∧
    (∃ g ∈ labWg.groups, ((labPhase .phase .ended labLaunch).party g).status = .phase) ∧
    (∀ v ∈ (labPhase .phase .ended labLaunch).wgsOf 0 1, v.index = labWg.index → v = labWg) := by decide +kernel

/-- A launch whose one workgroup has ended, with a status word and a barrier at 0x208, its status write asked for up to `code`. -/
def labEnding (code : Nat) (b : BarrierObj) : State :=
  let s := labPhase .ended .ended { labLaunch with ended := 1, statusWritten := code, rcb := { labRcb with statusAddr := 0x200, barrier := 0x208 } }
  { s with mem := writeBytes s.mem 0x40000208 b.toBytes }

def endDrained (s : State) : State := (s.coresOf 0).foldl (fun s c => s.releaseDrains c .device true) s

/-- LaunchesEnd: a launch that is over, its cores drained and not; the steps of its end, with and without a write that a home holds
back; an arrival on an object that takes it, on one that refuses it, and on one that does not translate. -/
theorem test_launch_end_steps :
    (let s := labEnding 2 (bar 1 1)
     let l := (s.launch? 0 1).getD labLaunch
     l.over = false ∧ l.rcb.total ≤ l.ended ∧ l.statusWritten = 2 ∧ (∀ c ∈ s.coresOf 0, (endDrained s).releaseReady c .device true = true) ∧
       (endDrained s).launch? 0 1 = some l ∧ s.coresOf 0 ≠ [] ∧
       ((s.coresOf 0).foldl (fun s c => s.bumpFor c .device) (endDrained s)).launch? 0 1 = some l) ∧
    (let s := stuck (labEnding 2 (bar 1 1))
     (∃ c ∈ s.coresOf 0, (endDrained s).releaseReady c .device true = false) ∧ (endDrained s).launch? 0 1 = s.launch? 0 1) ∧
    ((labEnding 6 (bar 1 1)).launch? 0 1).map (·.statusWritten) = some 6 ∧ (labEnding 7 (bar 1 1)).shuttleHeld 0 1 = false ∧
    ({ labEnding 7 (bar 1 1) with asks := [⟨0, [⟨0x40000200, 1, 0, none⟩], .write [(0x40000200, 3)], .shuttle 0 1⟩] } : State).shuttleHeld 0 1 = true ∧
    (let s := labEnding 2 (bar 1 1)
     let u := s.xlate (s.shuttleUnit 0) 0x208 16 .write true
     (match u.2 with
      | .ok x => decide (x.pieces.map (fun p => (p.pa, p.len)) = [(0x40000208, 16)]) && u.1.leavesDirty x.pieces
      | _ => false) = true ∧ u.1.marked (0x40000208 / 128) = false ∧
       ((BarrierObj.ofBytes (readBytes u.1.mem 0x40000208 16)).apply (.arrive 1)).toOption.isSome = true ∧
       (u.1.tacks = [] ∧ u.1.sharers = [] ∧ u.1.held = [] ∧ u.1.asks = [] ∧ u.1.dieCopies = [] ∧ u.1.heldBlocks = [] ∧ u.1.heldDies = []) ∧
       ∀ i, i < 16 → u.1.lineBad (0x40000208 + i) = false) ∧
    ((bar 1 0).apply (.arrive 1)).toOption = none ∧
    (match ((labEnding 2 (bar 1 1)).xlate ((labEnding 2 (bar 1 1)).shuttleUnit 0) 0x80000000 16 .write true).2 with
     | .error _ => true | _ => false) = true := by decide +kernel

/-- A core without dirty bytes and a part without composed caches has nothing to drain. -/
theorem drained_of {s : State} (h : s.caches = []) (h1 : (s.cores.all fun c => c.dirty.isEmpty) = true) : Drained s := by
  refine ⟨h, fun c => ?_⟩
  simp only [List.all_eq_true] at h1
  unfold State.core
  rw [List.getD_eq_getElem?_getD]
  cases hc : s.cores[c]? with
  | none => rfl
  | some x => exact List.isEmpty_iff.mp (h1 x (List.mem_of_getElem? hc))

theorem test_drained : Drained (lab 0 0) := drained_of (by decide +kernel) (by decide +kernel)

def labWork (w : Workgroup) : State :=
  { lab 0 0 with
    workgroups := [w]
    args := { EventArgs.blank with x := 0, y := 0, p := groupA } }

/-- StopSaveRestore: a workgroup that is being stopped and may stop; one that has stopped; parked for 50 microseconds and for less; a
holder that has been unpicked. -/
theorem test_saves : (labWork { labWg with state := .stopping }).wg? 0 0 = some { labWg with state := .stopping } ∧
    (labWg.groups.all fun g => ((labWork labWg).party g).canStop) = true ∧ (labWork labWg).mustFinish labWg = false ∧
    ((labWork labWg).copies.any fun c => labWg.owns c && !(labWork labWg).copyCanonical c) = false ∧ (lab 0 0).tacks = [] ∧
    (∀ g ∈ labWg.groups, ((labWork labWg).party g).unpicks = []) ∧
    (let s (clk : Nat) : State := { (labWork labWg).updParty groupA fun q => { q with status := .parked, park := some ⟨.illegal, .scalar, 0, false⟩ } with clk := clk }
     ((s 200000).party groupA).park = some ⟨.illegal, .scalar, 0, false⟩ ∧ 0 + 200000 ≤ (s 200000).clk ∧ ¬(0 + 200000 ≤ (s 199999).clk) ∧
       (s 199999).swapAtOnce 0 = false ∧ (s 200000).wgOf groupA = some labWg ∧ (s 200000).inCrit labWg = false ∧ (s 200000).imageSize labWg ≤ (s 200000).poolFree 0) ∧
    (let s := (labWork labWg).updParty groupA fun q => { q with unpicks := [⟨5, false⟩] }
     (s.party groupA).unpicks ≠ [] ∧ s.canAcknowledge (s.party groupA) = true) ∧ (lab 0 0).me.unpicks = [] := by decide +kernel

/-- HomesFree of the lab, by parts. -/
theorem homes_of {s : State} (h : s.tacks = [] ∧ s.sharers = [] ∧ s.held = [] ∧ s.asks = [] ∧ s.dieCopies = [] ∧ s.heldBlocks = [] ∧ s.heldDies = []) :
    HomesFree s :=
  ⟨h.1, h.2.1, h.2.2.1, h.2.2.2.1, h.2.2.2.2.1, fun pa => by simp [State.sliceHolds, State.dieHolds, h.2.2.2.2.2]⟩

/-- A breaking tack that `groupA` holds and has been told of, with the holders of `hs`. -/
def labUnpick (hs : List TackHolder) : State :=
  { (labWork labWg).updParty groupA (fun q => { q with unpicks := [⟨5, false⟩] }) with tacks := [tack .breaking hs] }

/-- StopSaveRestore: a workgroup that may stop with a byte that cannot drain; a stopped one; a parked group in a critical section; a
holder of a breaking tack beside one who has not answered, and alone. -/
theorem test_saves_more : HomesFree (labWork { labWg with state := .stopped }) ∧
    (stuck (labWork { labWg with state := .stopping })).dirtyLeft 0 (upTo none) = true ∧
    ((stuck (labWork { labWg with state := .stopping })).drainCore 0 none).dirtyLeft 0 (upTo none) = true ∧
    (let s := ((labWork labWg).updParty groupA fun q => { q with status := .parked, park := some ⟨.illegal, .scalar, 0, false⟩ }).updParty groupB
       fun q => { q with crit := some 0 }
     s.inCrit labWg = true ∧ s.imageSize labWg ≤ s.poolFree 0) ∧
    (let s := (labUnpick [⟨groupA, 8⟩, ⟨groupB, 8⟩]).updParty groupB fun q => { q with unpicks := [⟨5, false⟩] }
     s.canAcknowledge (s.party groupA) = true ∧ s.held = [] ∧ groupB ≠ groupA ∧ ⟨5, false⟩ ∈ (s.party groupB).unpicks ∧
       s.tacks = [tack .breaking [⟨groupA, 8⟩, ⟨groupB, 8⟩]]) ∧
    (let s := labUnpick [⟨groupA, 8⟩]
     s.canAcknowledge (s.party groupA) = true ∧ s.held = [] ∧ s.tacks = [tack .breaking [⟨groupA, 8⟩]] ∧ (tack .breaking []).index = 5 ∧
       s.party? groupA = some (s.party groupA)) := by
  refine ⟨homes_of (by decide +kernel), ?_⟩
  decide +kernel

/-- StopSaveRestore: a workgroup whose image waits at a home slice, and one whose image waits nowhere; a swapped-out partition; a
holder that is in a LADRES, and one stopped in PHASE. -/
theorem test_saves_wait : (let s : State := { labWork { labWg with state := .saving } with asks := [⟨0, [], .write [(0x30040, 1)], .image 0 0⟩] }
     s.waitsFor (.image 0 0) = true) ∧
    HomesFree (labWork { labWg with state := .saving }) ∧
    (({ labWork { labWg with state := .stopped } with partitions := State.reset.partitions.set 0 { labPartition with swappedOut := true } } : State).partition 0).swappedOut = true ∧
    (let e : SqEntry := ⟨20, 0x200, .device, false, false, .store ⟨0x40000200, 1, 0, none⟩ [7], none, 0, none, true, false, 7, false⟩
     let s : State :=
       { (labUnpick [⟨groupA, 8⟩]).upd fun q => { q with ladItems := some [(31, [0])], blocked := false, sq := [e] } with
         held := [⟨.write [(0x40000200, 7)], .entry groupA 20⟩] }
     (s.party groupA).midway = true ∧ s.canAcknowledge (s.party groupA) = true ∧ (s.party groupA).unpicks ≠ []) ∧
    (let s := (labUnpick [⟨groupA, 8⟩]).upd fun q => { q with status := .phase }
     (s.party groupA).midway = false ∧ s.canAcknowledge (s.party groupA) = true) := by
  refine ⟨by decide +kernel, homes_of (by decide +kernel), ?_⟩
  decide +kernel

/-- A saved workgroup that may be placed again. -/
def savedWg : Workgroup := { labWg with state := .saved, image := [(0x1004, 7)] }

def labRestore : State := labWork savedWg

theorem test_restore : labRestore.placeable 0 = some (.saved 0, ⟨0, [0, 1], 0x1000⟩) ∧ labRestore.wg? 0 0 = some savedWg ∧
    cellsWf savedWg.image = true ∧ savedWg.groups.Nodup ∧ savedWg.groups.length = 2 ∧ (∀ g ∈ savedWg.groups, (labRestore.party? g).isSome = true) ∧
    (labRestore.core 0).store = [] ∧ labRestore.darning = none ∧ savedWg.part = labRestore.args.x ∧ 0 < labRestore.cores.length ∧ savedWg.share = 0x1000 ∧
    (∀ c ∈ savedWg.image, savedWg.share ≤ c.1 ∧ c.1 < savedWg.share + savedWg.length) ∧ (∀ l ∈ labRestore.launches, l.resume = []) := by decide +kernel

theorem test_restore_room : labRestore.makeRoom labRestore.args.x (fun _ _ _ => false) = labRestore := by decide +kernel

/-! ## Ladders -/

/-- A rung whose items have frames of 32 bytes in `n` banks. -/
def labRung (banks : BitVec 64) (q : List (Nat × List Byte × Nat × Nat)) : Rung :=
  ⟨0x400, { labRcb with groups := 1, store := 0x1000 }, [0x300], 3, 0, banks, 100, 32, none, q, 0, false⟩

def labLadder (rs : List Rung) : Ladder := ⟨0, 0x1000, 0, 8, 0x2000, 0x800010, rs, 1, 0, 0⟩

/-- A submission block at 0x1080 of the share: first item 9, `n` items with frames of 32 bytes. -/
def blockBytesOf (n : Nat) : List Byte := toLe 4 9 ++ toLe 4 n ++ List.replicate 64 0xAB

def labLad (n : Nat) (ls : List Ladder) : State :=
  { withStore (lab 0x1000 0x1080) [(0x1080, blockBytesOf n)] with ladders := ls }

theorem blockBytes_of {s : State} {off n : Nat} (h0 : s.me.id.isSteward = false) (h1 : s.inShare s.me.id off n = true)
    (h2 : s.lockHit s.me.core 1 off n false = false) (h3 : s.storeBad n (.store s.me.core off) = false) (k : State → List Byte → State) :
    s.blockBytes off n k = k s (s.readPlace n (.store s.me.core off)) := by
  simp [State.blockBytes, h0, h1, h2, h3]

/-- LadderSubmission: misaligned and aligned operands; a block of no item, of 1025, and of 2; a ladder that is active, of the caller's cluster and
of another; what is read of the block. -/
theorem test_ladsub : Ready (labLad 2 []) [3] [1, 2] ∧ (labLad 2 []).partOf (labLad 2 []).me = some 0 ∧ (labLad 2 []).me.ladsub = none ∧
    ((labLad 2 []).rd 1).toNat % 256 = 0 ∧ ((labLad 2 []).rd 2).toNat % 8 = 0 ∧ ((lab 0x80 4).rd 1).toNat % 256 ≠ 0 ∧ ((lab 0x80 4).rd 2).toNat % 8 ≠ 0 ∧
    (labLad 2 []).me.id.isSteward = false ∧ (labLad 2 []).inShare groupA 0x1080 (8 + 2 * 32) = true ∧ (labLad 2 []).lockHit 0 1 0x1080 (8 + 2 * 32) false = false ∧
    (labLad 2 []).storeBad (8 + 2 * 32) (.store 0 0x1080) = false ∧
    (fieldAt ((labLad 2 []).readPlace 8 (.store 0 0x1080)) 0 4 = 9 ∧ fieldAt ((labLad 2 []).readPlace 8 (.store 0 0x1080)) 4 4 = 2) ∧
    fieldAt ((labLad 0 []).readPlace 8 (.store 0 0x1080)) 4 4 = 0 ∧ 1024 < fieldAt ((labLad 1025 []).readPlace 8 (.store 0 0x1080)) 4 4 ∧
    (labLad 2 [labLadder [labRung 1 []]]).ladder? 0 0x1000 = some (labLadder [labRung 1 []]) ∧ (labLad 2 []).me.nearCluster 0 = true ∧
    (labLad 2 []).me.nearCluster 1 = false ∧ (labLad 2 []).ladder? 0 0x1000 = none ∧ (labLad 2 []).ladders = [] := by
  and_intros <;> first | exact ready_of (by decide +kernel) | decide +kernel

/-- A ladder object of one rung with FIFO bank 1 and its barrier in scratch bank 0 (R258). -/
def ladderBytes : List Byte :=
  [1, 0, 0, 0] ++ toLe 4 8 ++ toLe 8 0x2000 ++ toLe 4 0x800010 ++ List.replicate 12 0 ++ toLe 8 0x400 ++ toLe 8 2 ++ toLe 4 100 ++ toLe 2 32 ++
    List.replicate 26 0 ++ List.replicate 144 0 ++ List.replicate 32 0

/-- Its banks are granted, its object stands at 0x1000 and its rung's control block at 0x400. -/
def labActivate : State :=
  let s := labLad 2 []
  { (s.updBank 0 0 fun _ => ⟨.scratch, 0, 0, [], []⟩).updBank 0 1 fun _ => ⟨.fifo, 0, 40, [], []⟩ with
    mem := writeBytes (writeBytes s.mem 0x40001000 ladderBytes) 0x40000400 (rcbBytes { labRcb with groups := 1, store := 0x1000 })
    regionValues := [⟨0, 0x300, rootRcb⟩] }

/-- The object of a ladder that is not active is read and passes its checks, and its rung's block is read. -/
theorem test_ladder_object : (objectOf labActivate 0x1000 256 .device).2.2 = true ∧ (objectOf labActivate 0x1000 256 .device).2.1 = ladderBytes ∧
    labActivate.ladderOk 0 ladderBytes = true ∧ (LadderDesc.ofBytes ladderBytes).rungs = [⟨0x400, 2, 100, 32⟩] ∧ (LadderDesc.ofBytes ladderBytes).cluster = 0 ∧
    (objectOf labActivate 0x400 256 .device).2.2 = true ∧ launchOk (objectOf labActivate 0x400 256 .device).2.1 = true := by decide +kernel

/-- LADSUB: the block that a full cluster stalls before the first item enters; eight ladders of a cluster, and seven; an object
that fails its checks. -/
theorem test_ladsub_entry : (∀ x, (some (⟨3, 9, 2, 0x1000, 0x1080, false⟩ : Submission)) = some x → x.entered = false) ∧
    8 ≤ ((List.replicate 8 (labLadder [])).filter fun a => decide (a.cluster = 0)).length ∧
    ¬(8 ≤ ((List.replicate 7 (labLadder [])).filter fun a => decide (a.cluster = 0)).length) ∧
    (let o := objectOf labActivate 0x1000 256 .device
     o.1.inShare groupA 0x1080 (8 + 2 * 32) = true ∧ o.1.lockHit 0 1 0x1080 (8 + 2 * 32) false = false ∧ o.1.storeBad (8 + 2 * 32) (.store 0 0x1080) = false ∧
       o.1.me.nearCluster 0 = true ∧ o.1.ladderOk 0 o.2.1 = true ∧ o.1.ladderOk 0 (List.replicate 256 0) = false) := by decide +kernel

/-- The blocks of a ladder with one rung are read, whatever follows. -/
theorem rungs_read {s : State} {part : Nat} {d : RungDesc} {addr : Nat} {r top : Rcb}
    (h : let o := objectOf s d.rcb 256 .device
      o.2.2 = true ∧ launchOk o.2.1 = true ∧ Rcb.ofBytes o.2.1 = r ∧ o.1.regionRcb part addr = some top ∧ addr = (o.1.partition part).root)
    (hn : d.rcb % 256 = 0 ∧ r.parent = addr ∧ addr % 256 = 0 ∧ top.parent = 0 ∧ r.groups = 1 ∧ r.gw * d.frame ≤ r.store) :
    ∃ s1 rs, ∀ k : State → List (Rung × List ChainNode) → State, s.readRungs part k [d] [] = k s1 rs := by
  obtain ⟨h, hb, hr, hv, hroot⟩ := h
  obtain ⟨ha, hp, h4, ht, hg, hf⟩ := hn
  refine ⟨(objectOf s d.rcb 256 .device).1, [(⟨d.rcb, r, [addr], effPriority [r, top], effDomain [r, top], d.banks, d.limit, d.frame, none, [], 0, false⟩,
    [⟨addr, top⟩])], fun k => ?_⟩
  rw [State.readRungs, if_neg (by omega), State.readLaunch, readObject_of h, if_pos hb, hr]
  dsimp only
  rw [hp, readChain_root h4 hv ht hroot, if_neg (by omega), State.readRungs]
  rfl

theorem test_rungs_read : ∃ s1 rs, ∀ k : State → List (Rung × List ChainNode) → State,
    (objectOf labActivate 0x1000 256 .device).1.readRungs 0 k [⟨0x400, 2, 100, 32⟩] [] = k s1 rs :=
  rungs_read (addr := 0x300) (r := { labRcb with groups := 1, store := 0x1000 }) (top := rootRcb) (by decide +kernel) (by decide)

/-- A submission that goes on: room in rung 0's queue, and a queue that its banks cannot hold; its last item. -/
theorem test_ladsub_next : (let s := (labLad 2 [labLadder [labRung 1 []]]).upd fun q => { q with ladsub := some ⟨3, 9, 2, 0x1000, 0x1080, true⟩, progress := 1 }
     s.me.ladsub = some ⟨3, 9, 2, 0x1000, 0x1080, true⟩ ∧ s.ladder? 0 0x1000 = some (labLadder [labRung 1 []]) ∧ (labRung 1 []).queue.length < (labRung 1 []).capacity ∧
       s.inShare groupA (0x1080 + 8 + 1 * 32) 32 = true ∧ s.lockHit 0 1 (0x1080 + 8 + 1 * 32) 32 false = false ∧ 2 ≤ s.me.progress + 1) ∧
    (labRung 0 []).capacity ≤ (labRung 0 []).queue.length := by decide +kernel

/-- A rung group of the lab with thread 31's item, its frame at 0x1000 of the share. -/
def labItem (y : DWord) (rs : List Rung) (progress : Nat) : State :=
  { (lab 0 y).upd fun q => { q with progress := progress } with
    workgroups := [labRungWg]
    ladders := [labLadder rs] }

/-- LadderItems: threads that the group may name and may not; a rung above with room, without room, and none; the two halves of LADRES, with and
without stores of its own still queued; a byte count that a slot takes out of range. -/
theorem test_ladder_items : GroupIdle (labItem 0x1000 [labRung 1 [], labRung 2 []] 0) ∧ Ready (labItem 0x1000 [labRung 1 [], labRung 2 []] 0) [] [2] ∧
    (labItem 0 [labRung 1 []] 0).wgOf groupA = some labRungWg ∧ (labItem 0 [labRung 1 []] 0).wg? 0 0 = some labRungWg ∧
    (labItem 0 [labRung 1 []] 0).ladderOf labRungWg = some (labLadder [labRung 1 []], 0) ∧ (labItem 0 [labRung 1 []] 0).ladder? 0 0x1000 = some (labLadder [labRung 1 []]) ∧
    labRungWg.badThread 0xFFFFFFFF 31 = false ∧ labRungWg.badThread 0xFFFFFFFF 30 = true ∧
    (synced ((labItem 0 [] 0).upd fun q => q.setKreg 1 0x80000000)).selected 1 = [31] ∧ (synced (labItem 0 [] 0)).selected 1 = [] ∧
    (labItem ((0x1000 : DWord) - 31 * 32) [] 0).inShare groupA 0x1000 32 = true ∧ (labItem 0 [] 0).lockHit 0 1 0x1000 32 false = false ∧
    (labItem 0 [] 0).storeBad 32 (.store 0 0x1000) = false ∧ [labRung 1 [], labRung 2 []][0 + 1]? = some (labRung 2 []) ∧ [labRung 1 []][0 + 1]? = none ∧
    (labRung 2 []).queue.length < (labRung 2 []).capacity ∧ (labRung 0 []).capacity ≤ (labRung 0 []).queue.length ∧
    ((synced (labItem 0 [] 0)).me.acquireBehind = false ∧ (synced (labItem 0 [] 0)).me.loadsBehind = false) ∧
    inPending (((labItem 0 [] 0).barrierAt (.bank 0 0 16)).waiting - 8) = true ∧ inPending (-8388608 - 8) = false ∧
    checkOf (labItem 0 [] 0) (0x2000 + 9 * 8) 8 .write false true = .ok ⟨[⟨0x40002048, 8, 0, none⟩], false, false⟩ ∧
    (synced (labItem 0 [labRung 1 []] 0)).me.ladItems = none ∧ (labItem 0 [] 0).me.landings = [] ∧
    (withItems (synced ((labItem 0 [] 0).upd fun q => { q with landings := [8, 12] })) none).me.landings.getLast? = some 12 ∧
    (withItems (synced (labItem 0 [] 0)) (some [(31, [1]), (30, [2])])).me.ladItems = some [(31, [1]), (30, [2])] ∧
    ((labItem 0 [] 1).me.sq.any fun e => e.op.isNone) = false ∧ ((labItem 0 [] 0).barrierEvent (.bank 0 0 16) (.land 8)).toOption.isSome = true := by
  and_intros <;> first | exact ready_of (by decide +kernel) | (unfold GroupIdle; decide +kernel) | decide +kernel

/-- A ladder whose rung 0 has one entry that is old enough, and nothing resident. -/
def labPack : State :=
  { labPlace with
    clk := 200
    launches := []
    ladders := [labLadder [labRung 1 [(9, List.replicate 32 0xAB, 0, 0)]]]
    args := { EventArgs.blank with x := 0, y := 0x1000 } }

theorem test_packs : labPack.placeable 0 = some (.pack 0x1000 0, ⟨0, [0], 0⟩) ∧ labPack.ladder? 0 0x1000 = some (labLadder [labRung 1 [(9, List.replicate 32 0xAB, 0, 0)]]) ∧
    (labRung 1 []).rcb.groups = 1 ∧ labPack.wg? 0 (labPack.freeWg 0) = none ∧ labPack.party? (.group 0 (labPack.freeWg 0) 0) = none ∧
    labPack.makeRoom labPack.args.x labPack.stalledLadesc = labPack ∧
    (let l : Ladder := { labLadder [labRung 1 []] with settled := 1 }
     l.submitted = l.settled + l.failedItems ∧ (∀ r ∈ l.rungs, r.queue = [])) := by decide +kernel

/-! ## The SYS family and the ports -/

/-- What a read of a record leaves and gives. -/
theorem readRecord_of {s : State} {va n : Nat} (ha : va % 64 = 0) (h : (objectOf s va n .core).2.2 = true) (k : State → List Byte → State) :
    s.readRecord va n k = k (objectOf s va n .core).1 (objectOf s va n .core).2.1 := by
  rw [State.readRecord, if_neg (by omega), readObject_of h]

/-- A steward core with `bs` at physical address 0x1000, which register 1 names. -/
def stwRead (y : DWord) (bs : List Byte) : State := stw 0x1000 y (writeBytes [] 0x1000 bs)

/-- SystemControl: HALT at a line that can be read and at one that cannot; a core that has been woken, one in the ROM loop with an empty start
word; 1 ms and less; TLBINV's words at their bounds. -/
theorem test_halt : (stw 0x1000 0 []).actor.isSteward = true ∧ Ready (stw 0x1000 0 []) [] [1, 2] ∧
    checkOf (stw 0x1004 0 []) 0x1004 8 .read true false = .fault .alignment 0 false ∧
    checkOf (stw 0x1000 0 []) 0x1000 8 .read true false = .ok ⟨[⟨0x1000, 8, 0, none⟩], true, true⟩ ∧
    (let s (st : Status) (clk : Nat) : State := { (stw 0 0 []).updParty (.steward 1) fun q => { q with status := st } with clk := clk, args := { EventArgs.blank with p := .steward 1 } }
     (s .romLoop 0).homeRead (Config.startWords + 8 * 1) 8 = (s .romLoop 0, List.replicate 8 0) ∧ ((s .romLoop 0).party (.steward 1)).status = .romLoop ∧
       ((s (.halted 3 0 true) 0).party (.steward 1)).status = .halted 3 0 true ∧ (s .running 4000000).clk = 0 + 4000000 ∧
       ¬(0 + 4000000 ≤ (s .running 3999999).clk) ∧ ((s .running 0).party? (.steward 1)).isSome = true) ∧
    (((3 : DWord) + 0xFFFF0000).toNat / 2 ^ 32 = 0 ∧ ((3 : DWord) + 0xFFFF0000).toNat % 65536 < 4) ∧ ¬((4 : DWord).toNat % 65536 < 4) ∧ ¬((0x100000000 : DWord).toNat / 2 ^ 32 = 0) ∧
    (stw 0 0 []).me.settled = true ∧ (∀ q ∈ (stw 0 0 []).parties, q.sq = [] ∧ q.loads = [] ∧ q.half = none) ∧ (stw 0 0 []).copies = [] ∧
    ((stw 0 0 []).cores.all fun c => c.matrix.isEmpty) = true := by
  and_intros <;> first | exact ready_of (by decide +kernel) | decide +kernel

/-- SystemControl: the boot of the ROM, which ends for the last core or fails; a TLBINV whose release is not over, and one that waits for
a load that has no value yet. -/
theorem test_boot : (let s (st : Nat) (f : Bool) : State := { stw 0 0 [] with bootStatus := st, kfmap := 1, args := { EventArgs.blank with p := .steward 1, flag := f } }
     (s 2 true).args.flag = true ∧ (s 2 true).bootStatus = 0x02 ∧ (s 3 true).bootStatus ≠ 0x02 ∧ (s 2 false).kfmap.getLsbD 0 = true ∧
       (s 2 false).args.flag = false) ∧
    (let s : State := { stuck (stw 0 0 []) with cores := (stw 0 0 []).cores.modify 128 fun c => { c with dirty := [⟨0x40000100, 7, 0, none⟩] } }
     s.me.settled = true ∧ s.me.progress = 0 ∧ (s.releaseDrains s.me.core .device true).releaseReady s.me.core .device true = false) ∧
    (let s := ({ stw 0 3 [] with
         parties := { labParty groupA 0 with loads := [⟨1, 0, 0, 0x1000, [⟨0x1000, 8, 0, none⟩], [], none, []⟩] } :: (stw 0 3 []).parties } : State).upd
       fun q => { q with progress := 1 }
     (s.rd 2).toNat % 4 = 3 ∧ s.me.settled = true ∧ s.tacks = [] ∧ s.held = [] ∧ s.me.progress ≠ 0 ∧
       (s.unitOf (s.party groupA)).physical = false ∧ s.party groupA ∈ s.parties ∧
       ∃ l ∈ (s.party groupA).loads, l.got = none ∧ l.pieces ≠ []) := by decide +kernel

/-- A steward core that serves the lab's groups, one of which stands parked. -/
def serve (x y : DWord) (st : Party → Party) (copies : List Copy) : State :=
  let s := (lab 0 0).updParty groupA st
  { { s with actor := .steward 0, copies := copies }.upd fun q => (q.setSreg 1 x).setSreg 2 y with copies := copies }

def parkedOn (u : FaultUnit) (q : Party) : Party := { q with status := .parked, park := some ⟨.illegal, u, 0, false⟩ }

/-- FaultReturn: a malformed word; a word of no group, of a group that has not stopped, of one parked on each unit; a copy that a page fault has
stopped; a steward core that is parked and one that is not. -/
theorem test_eret : Ready (serve 0 0 id []) [3] [1, 2] ∧ ¬(bitsOf (2 ^ 56) 63 56 = 0) ∧ ¬(0x40 % 128 = 0) ∧ stewardOfIdentity 0 = none ∧ groupOfIdentity 0 = groupA ∧
    (serve 0 0 id []).party? (groupOfIdentity (31 * 2 ^ 15)) = none ∧ (serve 0 0 id []).wgOf groupA = some labWg ∧
    ((serve 0 0 (parkedOn .scalar) []).party groupA).park = some ⟨.illegal, .scalar, 0, false⟩ ∧
    ((serve 0 0 (parkedOn .header) []).party groupA).park = some ⟨.illegal, .header, 0, false⟩ ∧
    ((serve 0 0 (parkedOn .laneIssue) []).party groupA).park = some ⟨.illegal, .laneIssue, 0, false⟩ ∧
    (serve 0 0 (parkedOn .scalar) []).stoppedCopies groupA (fun _ => true) = [] ∧ (serve 0 0 (parkedOn .scalar) []).stoppedCmds groupA (fun _ => true) = [] ∧
    ((serve 0 0 id []).party groupA).park = none ∧
    (serve 0 0 id [copyOf 1 (some .pageAbsent)]).stoppedCopies groupA (fun c => decide (c = .pageAbsent)) ≠ [] ∧
    ((stw 0 3 []).rd 2).toNat % 4 = 3 ∧ stewardOfIdentity (143 * 2 ^ 7) = some (.steward 15) ∧ stewardOfIdentity (127 * 2 ^ 7) = none ∧
    ((stw 0 0 []).party? (.steward 15)).isSome = true ∧ (PartyId.steward 15 ≠ (stw 0 0 []).actor) ∧
    (((stw 0 0 []).updParty (.steward 15) (parkedOn .scalar)).party (.steward 15)).park = some ⟨.illegal, .scalar, 0, false⟩ := by
  and_intros <;> first | exact ready_of (by decide +kernel) | decide +kernel

/-- FaultReturn: a core field that names a steward core, with no group of that number; a steward core with a copy that a page fault has
stopped. -/
theorem test_eret_steward : (let s := { serve (143 * 2 ^ 7) 0 id [{ copyOf 1 (some .pageAbsent) with owner := .steward 15 }] with workgroups := [], parties := State.reset.parties }
     s.eretGroup (groupOfIdentity (143 * 2 ^ 7)) 0 0 = none ∧ stewardOfIdentity (143 * 2 ^ 7) = some (.steward 15) ∧
       s.stoppedCopies (.steward 15) (fun c => decide (c = .pageAbsent)) ≠ [] ∧ (s.party (.steward 15)).park = none) := by decide +kernel

/-- A steward core beside the lab's partition, and bank 63 of cluster 31 given to it. -/
def grant (x y : DWord) (f : Bank → Bank) : State :=
  { (stw x y []).updBank 31 63 f with partitions := (lab 0 0).partitions }

/-- BANKCFG: the last bank's number and one beyond; control words that are allowed and not; a bank in use by a cache, another owner, an owner that is
not enabled. -/
theorem test_bankcfg : Ready (grant 2047 3 id) [3] [1, 2] ∧ 2047 < 2048 ∧ 2048 ≤ ((stw 2048 0 []).rd 1).toNat ∧ controlOk (520 * 65536 + 3) = true ∧
    controlOk (521 * 65536 + 3) = false ∧ controlOk (1 * 65536 + 2) = false ∧ controlOk 0 = true ∧
    (let s : State := { grant 2047 1 id with caches := [⟨⟨0, 31, 1⟩, 64, 4, .writeBack, [(63, 65536)], 0, [], []⟩] }
     (s.caches.any fun c => decide (c.id.cluster = 31) && c.shares.any fun y => decide (y.1 = 63)) = true ∧ ¬((s.bank 31 63).mode = BankMode.ofCode 2)) ∧
    ((grant 2047 0 id).partition 0).enabled = true ∧ ((grant 2047 0 id).partition 15).enabled = false ∧ (grant 2047 0 id).caches = [] ∧ (grant 2047 0 id).ladders = [] ∧
    (grant 2047 0 id).tacks = [] ∧ (grant 2047 0 id).held = [] ∧ (grant 2047 0 id).banks.length = 2048 ∧ (grant 2047 0 id).counted = [] ∧ (grant 2047 0 id).errors = [] ∧
    (∀ q ∈ (grant 2047 0 id).parties, q.loads = []) := by
  and_intros <;> first | exact ready_of (by decide +kernel) | decide +kernel

/-- A VCSET record of cache 1 of partition 0 in cluster 31, with a quarter of bank 63 (R280). -/
def cacheBytes : List Byte := [1, 0, 31, 0, 4, 0, 0, 0] ++ toLe 16 (2 ^ 126) ++ List.replicate 40 0

def cacheState (bs : List Byte) (k : Bank) : State := { stwRead 0 bs with banks := State.reset.banks.set (31 * 64 + 63) k }

/-- VCSET: a record that is read, one that is malformed; a bank of the cache mode and owner, and one that is not; a bank that others fill. -/
theorem test_vcset : Ready (cacheState cacheBytes ⟨.cache, 0, 0, [], []⟩) [3] [1] ∧ (objectOf (cacheState cacheBytes ⟨.cache, 0, 0, [], []⟩) 0x1000 64 .core).2.2 = true ∧
    cacheOfBytes (objectOf (cacheState cacheBytes ⟨.cache, 0, 0, [], []⟩) 0x1000 64 .core).2.1 = some ⟨⟨0, 31, 1⟩, 64, 4, .writeBack, [(63, 65536)], 0, [], []⟩ ∧
    cacheOfBytes (List.replicate 64 0) = none ∧ ((cacheState cacheBytes ⟨.cache, 0, 0, [], []⟩).bank 31 63).mode = .cache ∧
    ((cacheState cacheBytes Bank.blank).bank 31 63).mode ≠ .cache ∧ 262144 < 262144 + 65536 ∧ 0 + 65536 ≤ 262144 ∧ (stw 0 0 []).caches = [] := by
  and_intros <;> first | exact ready_of (by decide +kernel) | decide +kernel

/-- A DARN record: four bytes from 0x2000 to virtual 0x40000000 of partition 0 (R284). -/
def darnBytes (part : Nat) : List Byte := toLe 8 0x40000000 ++ toLe 8 0x2000 ++ toLe 4 4 ++ [BitVec.ofNat 8 part] ++ List.replicate 43 0

def darnState (part : Nat) (d : Option (PartyId × Nat × Nat × Nat)) : State :=
  let s := lab 0 0
  { { s with
        actor := .steward 0
        mem := writeBytes s.mem 0x100000 (darnBytes part)
        darning := d }.upd fun q => q.setSreg 1 0x100000 with darning := d }

/-- DARN: a record of an enabled partition and of one that is not, a malformed one; the engine free and held; its pieces. -/
theorem test_darn : Ready (darnState 0 none) [3] [1] ∧ (objectOf (darnState 0 none) 0x100000 64 .core).2.2 = true ∧
    DarnDesc.ofBytes (objectOf (darnState 0 none) 0x100000 64 .core).2.1 = some ⟨0x40000000, 0x2000, 4, 0⟩ ∧ DarnDesc.ofBytes (List.replicate 64 0) = none ∧
    ((objectOf (darnState 0 none) 0x100000 64 .core).1.partition 0).enabled = true ∧ ((darnState 15 none).partition 15).enabled = false ∧
    checkOf (darnState 0 none) 0x2000 4 .read false false = .ok ⟨[⟨0x2000, 4, 0, none⟩], true, true⟩ ∧
    (let r := ({ darnState 0 none with mem := writeBytes (darnState 0 none).mem 0x20009 [0x61] } : State).xlate ⟨1024, 7, 0x10000, false, false⟩ 0x40000000 4 .patch true
     (r.2.toOption.map fun x => x.pieces.map fun p => (p.pa, p.len)) = some [(0x80000000, 4)] ∧
       (r.2.toOption.map fun x => r.1.leavesDirty x.pieces) = some true ∧
       (r.1.tacks = [] ∧ r.1.sharers = [] ∧ r.1.held = [] ∧ r.1.dieCopies = [] ∧ r.1.caches = [] ∧ (r.1.core r.1.me.core).dirty = []) ∧ r.1.asks = []) ∧
    (darnState 0 none).me.progress ≠ 1 ∧
    (darnState 0 none).darning = none ∧ (darnState 0 (some (.steward 0, 0, 0x40000000, 4))).darning.isSome = true ∧
    (∀ q ∈ ((darnState 0 none).darnPark 0 0x40000000 4).parties, q.darned 0 0x40000000 4 = true → q.runGoes = false) := by
  and_intros <;> first | exact ready_of (by decide +kernel) | decide +kernel

/-- DARN: its record's check passes; a step that goes on, and one whose source does not exist, which parks the steward core; home slices
that accept accesses. -/
theorem test_darn_steps : checkOf (darnState 0 none) 0x100000 64 .read false false = .ok ⟨[⟨0x100000, 64, 0, none⟩], true, true⟩ ∧
    ((darnState 0 none).darnStep 3 ⟨0x40000000, 0x2000, 4, 0⟩).me.park = none ∧
    ((darnState 0 none).darnStep 3 ⟨0x40000000, 2 ^ 46, 4, 0⟩).me.park ≠ none ∧ (darnState 0 none).heldBlocks = [] ∧ (darnState 0 none).heldDies = [] := by
  decide +kernel

/-- CORERST: what the core has drained waits at a home slice, and does not; a core that has failed, with a record. -/
theorem test_corerst_waits : (let s : State := { (stw 127 0 []).upd fun q => { q with progress := 1 } with asks := [⟨127, [], .write [(0x1000, 7)], .drain 127 3⟩] }
     s.me.progress ≠ 0 ∧ s.drainsHeld 127 = true ∧ Ready s [3] [1, 2]) ∧ ((stw 127 0 []).upd fun q => { q with progress := 1 }).drainsHeld 127 = false ∧
    ((({ stw 127 0 [] with lazy := [⟨32, 127, 4⟩] } : State).updCore 127 fun k => { k with failed := true }).core 127).failed = true := by
  and_intros <;> first | exact ready_of (by decide +kernel) | decide +kernel

/-- CORERST and PSWAP: core 127 and 128; a core without workgroups; a target partition that is not enabled, one on other cores, a swap out of a
partition without workgroups. -/
theorem test_corerst : Ready (stw 127 0 []) [3] [1] ∧ 127 < (stw 127 0 []).cores.length ∧ (stw 127 0 []).workgroups = [] ∧ (stw 128 0 []).rd 1 = 128 ∧
    (let s : State := { stw 0 0x100 [] with partitions := (lab 0 0).partitions.set 1 { labPartition with spaceid := 8, cores := 4 } }
     (s.partition 0).enabled = true ∧ (s.partition 1).enabled = true ∧ (s.partition 1).cores ≠ (s.partition 0).cores ∧ (s.partition 2).enabled = false ∧
       (s.rd 2).toNat / 256 % 2 = 1 ∧ (s.rd 2).toNat < 512 ∧ (s.rd 2).toNat / 16 % 16 = 0 ∧ s.me.progress = 0 ∧ (s.partition 0).swappedOut = false ∧
       0 < s.partitions.length ∧ (∀ m, m < 16 → m ≠ 0 → (s.partition m).inShadow = false) ∧ s.workgroups = []) := by
  and_intros <;> first | exact ready_of (by decide +kernel) | decide +kernel

/-- A DARN whose bytes have been asked for, with group 0 of the lab held out of its text: the write waits at a home, or not. -/
def darnEnding (asks : List AskedWrite) : State :=
  { ((darnState 0 (some (.steward 0, 0, 0x40000000, 4))).updParty groupA fun q => { q with status := .darned }).upd fun q => { q with progress := 1 } with
    asks := asks }

theorem test_darn_end : (darnEnding []).me.progress = 1 ∧ (darnEnding []).waitsFor (.service (darnEnding []).actor) = false ∧
    (darnEnding [⟨0, [⟨0x80000000, 4, 0, none⟩], .write [(0x80000000, 3)], .service (.steward 0)⟩]).waitsFor (.service (.steward 0)) = true ∧
    (darnEnding []).darning = some ((darnEnding []).actor, 0, 0x40000000, 4) ∧ ((darnEnding []).party (.group 0 0 0)).status = .darned ∧
    Ready (darnEnding []) [3] [1] ∧ ((darnState 0 (some (.steward 1, 0, 0x40000000, 4))).darning.map (·.1)) = some (.steward 1) ∧
    PartyId.steward 1 ≠ (darnState 0 none).actor := by
  and_intros <;> first | exact ready_of (by decide +kernel) | decide +kernel

/-- What a write of an object leaves, and whether it has been performed. -/
def objectWritten (s : State) (va : Nat) (bs : List Byte) : State × Bool :=
  match s.checkAccess s.me va bs.length .write false true with
  | (s1, .ok x) =>
    let u := ((cutBytes x.pieces bs).foldl (fun v p =>
      (v.updCore s.me.core fun c => { c with clean := c.clean.filter fun l => decide (l.line ≠ p.1.pa / 128) }).ask
        ⟨s.me.core, [p.1], .write (cellsFrom p.1.pa p.2), .service s.me.id⟩) s1).upd fun q => { q with progress := 1 }
    (u.upd fun q => { q with progress := 0 }, decide (s.me.progress ≠ 1) && s.me.sq.isEmpty && !u.waitsFor (.service s.me.id))
  | _ => (s, false)

theorem writeObject_of {s : State} {va : Nat} {bs : List Byte} (h : (objectWritten s va bs).2 = true) (k : State → State) :
    s.writeObject va bs k = k (objectWritten s va bs).1 := by
  unfold State.writeObject
  unfold objectWritten at h ⊢
  split at h
  · rename_i s1 x e
    simp only [Bool.and_eq_true, Bool.not_eq_true', decide_eq_true_eq] at h
    simp only [e, h.1.1, h.1.2, h.2, Bool.not_true, Bool.false_eq_true, if_false]
  · exact absurd h (by simp)

/-- Measurement: slot 7 and 8; a closed slot and an open one; an address that is no multiple of 64; what is read and written. -/
theorem test_measure : Ready (stw 0x1000 7 []) [3] [1, 2] ∧ ((stw 0x1000 7 []).rd 2).toNat < 8 ∧ 8 ≤ ((stw 0x1000 8 []).rd 2).toNat ∧
    ({ stw 0 0 [] with slotsClosed := State.reset.slotsClosed.set 7 true } : State).slotsClosed.getD 7 false = true ∧ (stw 0 0 []).slotsClosed.getD 7 false = false ∧
    (objectOf (stw 0x1000 7 []) 0x1000 64 .core).2.2 = true ∧ (objectOf (stw 0x1000 7 []) 0x1000 64 .core).2.1.length = 64 ∧ 0x1020 % 64 ≠ 0 ∧
    (stw 0x1000 7 []).me.sq = [] ∧ checkOf (stw 0x1000 7 []) 0x1000 64 .write false true = .ok ⟨[⟨0x1000, 64, 0, none⟩], true, true⟩ ∧
    (objectWritten (stw 0x1000 7 []) 0x1000 (List.replicate 64 5)).2 = true ∧ (objectWritten (stw 0x1000 7 []) 0x1000 (List.replicate 768 5)).2 = true ∧
    (stw 0x1000 7 []).me.progress = 0 ∧ (stw 0x1000 7 []).asks = [] ∧ (stw 0x1000 7 []).leavesDirty [⟨0x1000, 64, 0, none⟩] = true ∧
    (let s := { (stw 0x1000 7 []).upd fun q => { q with progress := 1 } with
       asks := [⟨0, [⟨0x1000, 1, 0, none⟩], .write [(0x1000, 3)], .service (.steward 0)⟩] }
     s.me.progress = 1 ∧ s.waitsFor (.service s.actor) = true ∧ Ready s [3] [1, 2]) := by
  and_intros <;> first | exact ready_of (by decide +kernel) | decide +kernel

theorem test_slot_lengths (m : Nat) : ((stw 0x1000 7 []).slotBytes m).length = 64 := by
  show ((List.replicate 8 (List.replicate 64 (0 : Byte))).getD m (List.replicate 64 0)).length = 64
  rw [List.getD_eq_getElem?_getD, List.getElem?_replicate]
  split <;> rfl

/-- What a command's block leaves and gives: the state, the body, and whether it is read whole. -/
def commandOf (s : State) (va n : Nat) : State × List Byte × Bool :=
  let o := objectOf s va 8 .core
  let r := objectOf o.1 va (8 + n) .core
  (r.1, r.2.1.drop 8, o.2.2 && r.2.2 && decide (le ((o.2.1.drop 2).take 2) = n) && allZero (o.2.1.drop 4) && (r.1.party? r.1.actor).isSome)

theorem commanded_of {s : State} {d a : BitVec 6} {code n : Nat} (h : Ready s [d] [a])
    (hs : s.actor.isSteward = true ∧ s.me.heldResult = none ∧ (s.rd a).toNat % 64 = 0 ∧ (commandOf s (s.rd a).toNat n).2.2 = true ∧
      le ((objectOf s (s.rd a).toNat 8 .core).2.1.take 2) = code) :
    Commanded s d a code (commandOf s (s.rd a).toNat n).1 (commandOf s (s.rd a).toNat n).2.1 := by
  obtain ⟨h0, h1, h2, h3, h4⟩ := hs
  simp only [commandOf, Bool.and_eq_true, decide_eq_true_eq] at h3
  refine ⟨fun k => ?_, h3.2⟩
  rw [State.portcmd, State.stewardOnly, if_pos h0, scalar_ready h]
  simp only [h1]
  rw [readRecord_of h2 h3.1.1.1.1, if_neg (by simp [h4, h3.1.2]), h3.1.1.2, readObject_of h3.1.1.1.2]
  rfl

/-- A command block at 0x1000: its code, the length of its body, its body (R291). -/
def block (code : Nat) (body : List Byte) : State := stwRead 0 (toLe 2 code ++ toLe 2 body.length ++ List.replicate 4 0 ++ body)

/-- A block of code 3 is a command, whatever its body. -/
theorem test_commanded : ∃ s1 bs, Commanded (block 3 (List.replicate 8 0)) 3 1 3 s1 bs ∧ bs = List.replicate 8 0 := by
  exact ⟨_, _, commanded_of (n := 8) (ready_of (by decide +kernel)) (by decide +kernel), by decide +kernel⟩

/-- PortCommands, codes 1 to 3: a partition record that is well formed and one that is not; one that clashes, one whose cores are in use; a peer
table's last entry and one beyond; slots up to the last, one beyond, and a slot of another owner. -/
theorem test_port_bodies : (partitionOfBytes ([15, 1] ++ toLe 2 9 ++ toLe 4 0 ++ toLe 8 0x10000 ++ toLe 16 1 ++ toLe 8 0x300 ++ toLe 8 0x40 ++ List.replicate 16 0)).isSome = true ∧
    partitionOfBytes (List.replicate 64 0) = none ∧ partitionOfBytes (List.replicate 63 0) = none ∧
    (((lab 0 0).partition 0).enabled = true ∧ ((lab 0 0).partition 0).cores &&& 1 ≠ 0 ∧ ((lab 0 0).partition 0).spaceid = 7) ∧ ((lab 0 0).partition 15).enabled = false ∧
    (∃ w ∈ (lab 0 0).workgroups, w.part = 0 ∧ w.state ≠ .saved ∧ (0 : BitVec 128).getLsbD w.core = false) ∧ (∃ l ∈ (lab 0 0).launches, l.part = 0 ∧ l.over = false) ∧
    (stw 0 0 []).spareable 1 = [] ∧
    ((peerOfBytes 15 1023 (List.replicate 32 0)).isSome = true) ∧
    1023 + 1 ≤ 1024 ∧ ¬(1024 + 1 ≤ 1024) ∧ ((labSlot 0 (slot .idle [] 0)).slotAt 15 1023).owner = some 0 ∧ (0 : Nat) ≠ 15 := by decide +kernel

/-! ## Ports and the fabric -/

def ethBody (op port space prio : Nat) (buf len comp : Nat) : List Byte :=
  [BitVec.ofNat 8 port, BitVec.ofNat 8 op] ++ toLe 2 space ++ [BitVec.ofNat 8 prio, 0, 0, 0] ++ toLe 8 buf ++ toLe 4 len ++ toLe 4 0 ++ toLe 8 comp

/-- An Ethernet port that pauses no priority and has sent nothing. -/
def eport (up : Bool) (queue : List EtherOp) (command : Option (PartyId × Nat × Nat)) : EtherPort := ⟨up, List.replicate 8 0, queue, command, [], [], []⟩

/-- Steward core 128 with Ethernet port 1 and fabric port 15 as given. -/
def withPorts (e : EtherPort) (g : FabricPort) : State :=
  { stw 0x1000 0 [] with ether := [(eport false [] none), e], fabric := State.reset.fabric.set 15 g }

def ethOp (transmit : Bool) : EtherOp := ⟨transmit, 7, 0, 0x100, 64, 0, .steward 0, false, [], []⟩

/-- PortCommands code 4: a good and a malformed body of each command, with a field at its last value and one beyond; a port that is up, one with
a command and one with neither; a queue of 1023 and of 1024. A result that is held. -/
theorem test_ethernet_commands : (EtherBody.ofBytes 0 (ethBody 0 1 0 0 0 0 0)).isSome = true ∧ EtherBody.ofBytes 0 (ethBody 0 2 0 0 0 0 0) = none ∧
    (EtherBody.ofBytes 1 (ethBody 1 1 0 0 0 0 0)).isSome = true ∧ EtherBody.ofBytes 1 (ethBody 0 1 0 0 0 0 0) = none ∧
    (EtherBody.ofBytes 2 (ethBody 2 1 7 7 0x100 9216 8)).isSome = true ∧ EtherBody.ofBytes 2 (ethBody 2 1 7 7 0x100 9217 8) = none ∧
    EtherBody.ofBytes 2 (ethBody 2 1 7 7 0x100 63 8) = none ∧ EtherBody.ofBytes 2 (ethBody 2 1 7 8 0x100 64 8) = none ∧
    (EtherBody.ofBytes 3 (ethBody 3 1 7 0 0x100 9216 8)).isSome = true ∧ EtherBody.ofBytes 3 (ethBody 3 1 7 0 0x100 9216 4) = none ∧
    1 < (withPorts (eport true [] none) FabricPort.blank).ether.length ∧ ((withPorts (eport true [] none) FabricPort.blank).etherPort 1).up = true ∧
    ((withPorts (eport false [] (some (.steward 0, 0, 9))) FabricPort.blank).etherPort 1).command.isSome = true ∧
    ((withPorts (eport false [] none) FabricPort.blank).etherPort 1).command = none ∧
    1024 ≤ (List.replicate 1024 (ethOp true)).length ∧ (List.replicate 1023 (ethOp true)).length < 1024 ∧
    Ready ((stw 0x1000 0 []).upd fun q => { q with heldResult := some 0 }) [3] [1] ∧
    ((stw 0x1000 0 []).upd fun q => { q with heldResult := some 0 }).me.heldResult = some 0 := by
  and_intros <;> first | exact ready_of (by decide +kernel) | decide +kernel

/-- A frame of priority `p`, by its tag. -/
def taggedFrame (p : Nat) : List Byte := List.replicate 12 1 ++ [0x81, 0, BitVec.ofNat 8 (32 * p), 0] ++ List.replicate 48 0

/-- PortCommands code 4: a down of a port with and without an up command of another steward core, which waits for it alone; a buffer for the
last frame of its priority that waits, and for one before another. -/
theorem test_ethernet_downs : (let s := (withPorts (eport false [] (some (.steward 1, 0, 9))) FabricPort.blank).updParty (.steward 1) fun q => { q with stallOn := [9] }
      (s.etherPort 1).queue = [] ∧ (∀ x, (s.etherPort 1).command = some x → x.1 ≠ s.actor) ∧ (s.party (.steward 1)).stallOn = [9] ∧
        (s.party? (.steward 1)).isSome = true) ∧
    framePriority (taggedFrame 7) = 7 ∧ framePriority (List.replicate 64 7) = 0 ∧
    (let e (fs : List (List Byte)) : EtherPort := { eport true [ethOp true] none with waiting := taggedFrame 7 :: fs, pausing := [7] }
     (∀ y ∈ (e []).queue, y.transmit = true ∨ y.frame ≠ []) ∧ (∀ g ∈ [taggedFrame 6], framePriority g ≠ framePriority (taggedFrame 7)) ∧
       ¬(∀ g ∈ [taggedFrame 6, taggedFrame 7], framePriority g ≠ framePriority (taggedFrame 7)) ∧
       1 < (withPorts (e [taggedFrame 6]) FabricPort.blank).ether.length) := by decide +kernel

/-- Tried: the last of the eighteen ports, with an Ethernet port up and with none, and one before the last. -/
theorem test_ports_tried : (let s (up : Bool) (n : Nat) : State := { withPorts (eport up [] none) FabricPort.blank with bootStatus := 0x03, portsTried := List.range n }
      (List.range 18).all (fun k => decide (k ∈ addNew 17 (s true 17).portsTried)) = true ∧ (s true 17).ether.any (·.up) = true ∧
        (s false 17).ether.any (·.up) = false ∧ (List.range 18).all (fun k => decide (k ∈ addNew 16 (s true 16).portsTried)) = false ∧
        ((s true 17).tried 17).bootStatus = 0x04 ∧ ((s false 17).tried 17).bootStatus = 0xE4 ∧ ((s true 16).tried 16).bootStatus = 0x03) := by
  decide +kernel

def linkUp (en up : Bool) : Link := { Link.blank with enabled := en, up := up }

/-- PortCommands code 5: good and malformed bodies at the last port and mask; a port that has a command, one that is up with an enabled link
that is up, one that is down. -/
theorem test_fabric_commands : fabricBody 0 [15, 0, 15, 0, 0, 0, 0, 0] = some (15, 15) ∧ fabricBody 0 [16, 0, 15, 0, 0, 0, 0, 0] = none ∧
    fabricBody 0 [15, 0, 16, 0, 0, 0, 0, 0] = none ∧ fabricBody 1 [15, 1, 0, 0, 0, 0, 0, 0] = some (15, 0) ∧ fabricBody 1 [15, 1, 1, 0, 0, 0, 0, 0] = none ∧
    fabricBody 2 [15, 2, 0, 0, 0, 0, 0, 0] = some (15, 0) ∧ fabricBody 2 [15, 2, 0, 0, 0, 0, 0] = none ∧
    (let s := withPorts (eport false [] none) ⟨true, some 3, [linkUp true true], none⟩
     15 < s.fabric.length ∧ (s.fabricPort 15).command = none ∧ (s.fabricPort 15).up = true ∧
       ∃ l ∈ (s.fabricPort 15).links.mapIdx fun i l => { l with enabled := Nat.testBit 15 i }, l.enabled = true ∧ l.up = true) ∧
    (let s := withPorts (eport false [] none) ⟨false, none, [linkUp false false], some (.steward 0, 0, 9)⟩
     (s.fabricPort 15).command.isSome = true) ∧ ((withPorts (eport false [] none) FabricPort.blank).fabricPort 15).up = false := by decide +kernel

/-- PortCommands code 5: a down of a port with a flit that is not acknowledged, beside a port that is up with a link that is, and beside none; a
slot of it that a FRED instruction names. -/
theorem test_fabric_down : (let s := { withPorts (eport false [] none) ⟨true, some 3, [{ linkUp true true with retry := [⟨2, ⟨3, 5, .load 0x100 4 false⟩⟩] }], none⟩ with
        fabric := (State.reset.fabric.set 15 ⟨true, some 3, [{ linkUp true true with retry := [⟨2, ⟨3, 5, .load 0x100 4 false⟩⟩] }], none⟩).set 2 ⟨true, some 3, [linkUp true true], none⟩ }
      (s.fabricPort 2).up = true ∧ (∀ m, m < 2 → m ≠ 15 → (s.fabricPort m).up = false) ∧ ((s.fabricPort 2).links.getD 0 Link.blank).up = true ∧
        (∃ l ∈ (s.fabricPort 15).links, l.retry ≠ [])) ∧
    (let s := { lab 0x10000023C03 0 with slots := [{ Slot.blank 15 3 with owner := some 0 }] }
     (FredDesc.ofWord (s.rd 1)).map (fun f => (f.port, f.slot)) = some (15, 3) ∧ (s.slotAt 15 3).owner = s.partOf s.me ∧ (s.slotAt 15 3).owner.isSome = true) := by
  decide +kernel

/-- The lab's memory and partition with Ethernet port 1 up and queues, and the frame that arrives. -/
def ethLab (e : EtherPort) (y : Nat) (flag : Bool) : State :=
  { lab 0 0 with ether := [(eport false [] none), e], args := { EventArgs.blank with x := 1, y := y, flag := flag, bytes := List.replicate 64 7 } }

/-- PortEvents of Ethernet: a port that waits for its link, before and after its time; one that is up, with and without a queue; the boot
statuses that the link ends, and the last port's. -/
theorem test_ethernet_events : (let s := ethLab (eport false [] (some (.steward 0, 0, 9))) 0 false
      (s.etherPort s.args.x).command = some (.steward 0, 0, 9) ∧ s.args.x < s.ether.length ∧ (s.party? (.steward 0)).isSome = true ∧ s.clk < 0 + 2000000000 ∧
        (({ s with clk := 2000000000 } : State).updParty (.steward 0) fun q => { q with stallOn := [9] }).clk = 0 + 2000000000 ∧
        ((s.updParty (.steward 0) fun q => { q with stallOn := [9] }).party (.steward 0)).stallOn = [9]) ∧
    (let s := ethLab (eport true [] none) 0 false
     (s.etherPort s.args.x).up = true ∧ (s.etherPort s.args.x).queue = [] ∧ (s.etherPort s.args.x).command = none ∧ (s.etherPort 0).up = false ∧
       s.holds .ethernet (64 * 1) = false) := by decide +kernel

def sentLine : List Byte := List.replicate 64 0

/-- A transmit: one that is free to begin, one behind another that has begun, one whose priority is paused; its one line, not read
and read; one that is over; one that ends at a line it cannot read. -/
theorem test_transmit : bufferLines 0x100 64 = [(0x100, 64)] ∧ (ethOp true).parts = [] ∧ (eport true [ethOp true] none).paused.getD 0 0 ≤ 0 ∧
    (∀ y ∈ [ethOp true], y.began = false) ∧ ({ ethOp true with began := true } : EtherOp).began = true ∧
    ¬(({ eport true [ethOp true] none with paused := List.replicate 8 5 } : EtherPort).paused.getD 0 0 ≤ 0) ∧
    (let s := ethLab (eport true [ethOp true] none) 0 false
     (s.etherPort s.args.x).queue[s.args.y]? = some (ethOp true) ∧ (s.portRead s.args.x (ethOp true) 0x100 64).2.toOption = some sentLine ∧
       s.portHolds s.args.x 7 0x100 64 = false ∧ s.portHolds s.args.x 7 0x80000000 64 = false ∧
       (s.portRead s.args.x (ethOp true) 0x80000000 64).2.toOption = none ∧ bufferLines 0x80000000 64 = [(0x80000000, 64)]) ∧
    (({ ethOp true with began := true, parts := [(0, sentLine)] } : EtherOp).parts.length = (bufferLines 0x100 64).length) ∧
    [(0, sentLine)] = [sentLine].mapIdx (fun i b => (i, b)) := by decide +kernel

/-- A frame that pauses priority 0 for 2 quanta. -/
def pauseBytes : List Byte := [0x01, 0x80, 0xC2, 0x00, 0x00, 0x01] ++ List.replicate 6 9 ++ [0x88, 0x08, 0x01, 0x01, 0, 1, 0, 2] ++ List.replicate 44 0

/-- A receive: a frame that pauses and one that does not; the first that waits, and none; its one line, not written, written, and
at an address that cannot be written; a write that a home holds back. -/
theorem test_receive : pauseOf pauseBytes = some (some 2 :: List.replicate 7 none) ∧ pauseBytes.length = 64 ∧ pauseOf (List.replicate 64 7) = none ∧
    (let got : EtherOp := { ethOp false with frame := List.replicate 64 7 }
     let s := { ethLab (eport true [got] none) 0 false with args := { EventArgs.blank with x := 1 } }
     got.frame ≠ [] ∧ bufferLines got.buffer got.frame.length = [(0x100, 64)] ∧ (s.etherPort s.args.x).queue[s.args.y]? = some got ∧
       (let r := s.portXlate s.args.x 7 0x100 64 .write
        (r.2.toOption.map fun x => x.pieces.map fun p => (p.pa, p.len)) = some [(0x40000100, 64)] ∧ (r.2.toOption.map fun x => r.1.leavesDirty x.pieces) = some true ∧
          (r.1.tacks = [] ∧ r.1.sharers = [] ∧ r.1.held = [] ∧ r.1.asks = [] ∧ r.1.dieCopies = [])) ∧
       (s.portXlate s.args.x 7 0x80000000 64 .write).2.toOption = none ∧ s.portHeld 1 = false ∧
       ({ s with asks := [⟨0, [⟨0x40000100, 1, 0, none⟩], .write [(0x40000100, 3)], .port 1 7⟩] } : State).portHeld 1 = true ∧
       (∀ y ∈ (s.etherPort s.args.x).queue, y.transmit = true ∨ y.frame ≠ [])) ∧
    (let s := ethLab (eport true [ethOp false] none) 0 false
     (s.etherPort s.args.x).queue[s.args.y]? = some (ethOp false) ∧ (ethOp false).frame = [] ∧ s.args.bytes.length = 64 ∧
       (ethLab (eport true [ethOp false] none) 0 true).args.flag = true) := by decide +kernel

/-- A completion word: at an address that translates, with its leaf's Dirty set and its home free, and at one that does not. -/
theorem test_completion : (let r := (ethLab (eport true [] none) 0 false).portXlate 1 7 0x108 8 .write
     (r.2.toOption.map fun x => x.pieces.map fun p => (p.pa, p.len)) = some [(0x40000108, 8)] ∧ (r.2.toOption.map fun x => r.1.leavesDirty x.pieces) = some true ∧
       (r.1.tacks = [] ∧ r.1.sharers = [] ∧ r.1.held = [] ∧ r.1.asks = [] ∧ r.1.dieCopies = [])) ∧
    ((ethLab (eport true [] none) 0 false).portXlate 1 7 0x80000000 8 .write).2.toOption = none := by decide +kernel

def fabLab (g : FabricPort) (x y z : Nat) (flag : Bool) : State :=
  { withPorts (eport false [] none) g with args := { EventArgs.blank with x := x, y := y, z := z, flag := flag } }

/-- PortEvents and LinksAndPackets of fabric ports: a link that trains on a port that is up, on one that comes up, on one whose device is not that
of the others, and one that is not enabled; an up command before and after its time; a link that is up and one that is down, with 15 and 16
failed resends, alone and beside another with flits to hand on. -/
theorem test_fabric_events : (let s := fabLab ⟨true, some 3, [linkUp true false], none⟩ 15 0 3 false
      ((s.fabricPort s.args.x).links.getD s.args.y Link.blank).enabled = true ∧ s.args.z < 65535 ∧ s.args.y < (s.fabricPort s.args.x).links.length ∧
        (s.fabricPort s.args.x).up = true) ∧
    (let s := fabLab ⟨false, none, [linkUp true false], some (.steward 0, 0, 9)⟩ 15 0 3 false
     (s.fabricPort s.args.x).command = some (.steward 0, 0, 9) ∧ (∀ n, n < 16 → ¬(n ≠ s.args.x ∧ (s.fabricPort n).up = true ∧ (s.fabricPort n).device ≠ some s.args.z)) ∧
       s.clk < 0 + 800000000 ∧ ({ s with clk := 800000000 } : State).clk = 0 + 800000000 ∧
       (let u : State := { s with fabric := s.fabric.set 2 ⟨true, some 4, [], none⟩ }
        ∃ n, n < 16 ∧ n ≠ u.args.x ∧ (u.fabricPort n).up = true ∧ (u.fabricPort n).device ≠ some u.args.z)) ∧
    ((fabLab FabricPort.blank 15 0 3 false).fabricPort 15).links.getD 0 Link.blank = Link.blank ∧ Link.blank.enabled = false ∧ Link.blank.up = false ∧
    (let s := fabLab ⟨true, some 3, [{ linkUp true true with failedResends := 16, accepted := [4], retry := [⟨2, ⟨3, 5, .load 0x100 4 false⟩⟩] }], none⟩ 15 0 4 true
     ((s.fabricPort s.args.x).links.getD s.args.y Link.blank).up = true ∧ s.args.x < s.fabric.length ∧ s.args.y < (s.fabricPort s.args.x).links.length ∧
       s.args.z ∈ ((s.fabricPort s.args.x).links.getD s.args.y Link.blank).accepted ∧ 16 ≤ ((s.fabricPort s.args.x).links.getD s.args.y Link.blank).failedResends ∧
       ∀ k, k ≠ s.args.y → ((s.fabricPort s.args.x).links.getD k Link.blank).up = false) ∧
    (let s := fabLab ⟨true, some 3, [{ linkUp true true with failedResends := 15 }], none⟩ 15 0 4 false
     s.args.z ∉ ((s.fabricPort s.args.x).links.getD s.args.y Link.blank).accepted ∧
       ((s.fabricPort s.args.x).links.getD s.args.y Link.blank).failedResends < 16) ∧
    ((fabLab ⟨true, some 3, [linkUp true true, linkUp true true], none⟩ 15 0 4 false).fabricPort 15).links.map (·.up) = [true, true] := by
  and_intros <;> first
    | decide +kernel
    | rintro (_ | k) hk
      exacts [absurd rfl hk, rfl]

def sentPkt : SentPacket := ⟨3, 5, .load 0x100 4 false, 0, 0⟩

/-- A packet sent to device 3 as number 5, at a time; a packet arrives from it. -/
def pktLab (clk : Nat) (flag : Bool) : State :=
  { fabLab ⟨true, some 3, [linkUp true true], none⟩ 3 5 0 flag with
    sent := [sentPkt]
    clk := clk
    args := { EventArgs.blank with x := 3, y := 5, flag := flag, pkt := ⟨3, 8, .store 0x100 [1]⟩ } }

/-- LinksAndPackets: a packet unanswered for just under and for 20 microseconds and 1 ms; a packet that is spoiled, one accepted before, a new one. -/
theorem test_packets : (pktLab 79999 false).sent.find? (fun p => decide (p.device = (pktLab 79999 false).args.x ∧ p.seq = (pktLab 79999 false).args.y)) = some sentPkt ∧
    (pktLab 79999 false).clk < sentPkt.sentAt + 80000 ∧ sentPkt.sentAt + 80000 ≤ (pktLab 80000 false).clk ∧
    (∀ p ∈ (pktLab 3999999 false).sent, p.device = (pktLab 3999999 false).args.x → (pktLab 3999999 false).clk < p.firstAt + 4000000) ∧
    (∃ p ∈ (pktLab 4000000 false).sent, p.device = (pktLab 4000000 false).args.x ∧ p.firstAt + 4000000 ≤ (pktLab 4000000 false).clk) ∧
    (pktLab 0 false).route.isSome = true ∧ ((pktLab 0 false).args.pkt.device, (pktLab 0 false).args.pkt.seq) ∉ (pktLab 0 false).acceptedSeqs ∧
    (3, 8) ∈ ({ pktLab 0 false with acceptedSeqs := [(3, 8)] } : State).acceptedSeqs ∧ (pktLab 0 true).args.flag = true ∧
    ({ pktLab 0 false with fabric := State.reset.fabric } : State).route = none := by decide +kernel

/-- A packet of this body arrives from device 3 at a module that has nothing at its home slices, with line 2 of it within its reach. -/
def pktIn (b : PacketBody) : State := { pktLab 0 false with args := { EventArgs.blank with pkt := ⟨3, 8, b⟩ } }

/-- LinksAndPackets: a store, a load and an atomic that can be served and cannot; one that waits for an earlier write of its channel;
an acknowledgement, an invalidation. -/
theorem test_packet_bodies : (pktIn (.store 0x100 [1])).servable 3 0x100 1 .write = true ∧ (pktIn (.load 0x100 4 true)).servable 3 0x100 4 .read = true ∧
    (pktIn (.store 0x100 [1])).servable 3 (0x100 + 128) 129 .write = false ∧ 0x100 % atomSize (wideCode 1) = 0 ∧
    (pktIn (.atomic 0x100 1 2 0)).servable 3 0x100 (atomSize (wideCode 1)) .write = true ∧ (pktIn (.load 0x100 4 true)).marked 2 = false ∧
    (pktIn (.store 0x100 [1])).packetWaits ⟨3, 8, .store 0x100 [1]⟩ = false ∧
    ({ pktIn (.load 0x100 4 true) with held := [⟨.write [(0x100, 1)], .packet 3 7⟩] } : State).packetWaits ⟨3, 8, .load 0x100 4 true⟩ = true ∧
    (let s := pktIn (.store 0x100 [1])
     (s.tacks = [] ∧ s.sharers = [] ∧ s.held = [] ∧ s.asks = [] ∧ s.dieCopies = []) ∧ (∀ x ∈ s.parties, x.acqs = []) ∧ s.route.isSome = true ∧
       s.args.flag = false ∧ (s.args.pkt.device, s.args.pkt.seq) ∉ s.acceptedSeqs) ∧
    (pktIn (.ack 5)).args.pkt.body = .ack 5 ∧ (pktIn (.invalidate 3 2)).args.pkt.body = .invalidate 3 2 := by decide +kernel
/-! ## Lane instructions -/

def laneRun (ps : List Producer) : Run := ⟨0x40000100, 0x4000010C, 3, List.replicate 16 0, some 1, none, none, ps, none, 0⟩

/-- Group 0 of the lab executes a run. -/
def inRun (r : Run) : State := (lab 0 0).upd fun q => { q with run := some r }

/-- The acting group, changed. -/
def inRunWith (f : Party → Party) : State := (inRun (laneRun [])).upd f

theorem running_of {s : State} {r : Run} (h : ((s.party? s.actor).isSome && decide (s.me.run = some r) && decide (r.replay = none)) = true) : Running s r := by
  simp only [Bool.and_eq_true, decide_eq_true_eq] at h
  exact ⟨h.1.1, h.1.2, h.2⟩

theorem passes_of {s : State} {r : Run} {w : LaneWord} {u : LaneUse} {deps : Nat → List (Nat × List Block)}
    (h : (u.regsOk s.me.vcount && !u.overlaps && !u.tagged s.me.tags && !u.gapShort r (decide (s.me.gw = 16)) (decide (w.u = 1)) &&
      decide (s.badThreads s.me u deps (if w.u = 1 then [0] else threadsOf s.me.gw (s.me.activeMask r w.mask)) = 0)) = true) : LanePasses s r w u deps := by
  simp only [Bool.and_eq_true, Bool.not_eq_true', decide_eq_true_eq] at h
  exact ⟨h.1.1.1.1, h.1.1.1.2, h.1.1.2, h.1.2, h.2⟩

/-- A lane word of a type and block length: registers 4, 8, 12 and 16, an immediate. -/
def lane4 (ty cnt : Nat) (imm : Word) : LaneWord := ⟨0, 0, 4, 8, 12, 16, 0, 0, BitVec.ofNat 4 ty, 0, BitVec.ofNat 4 cnt, imm, 0⟩

/-- LaneIntegers: every type that is not floating, at the longest block that the 64 registers of the group hold apart; a word that takes its type from
FMT; the U form; a thread that is active. -/
theorem test_lane_integers : Running (inRun (laneRun [])) (laneRun []) ∧
    (∀ ty ∈ [0, 1, 2, 3, 4, 5, 12, 13], ∃ t, laneType (lane4 ty 1 0) 6 = some t ∧ t.setA = true ∧
      LanePasses (inRun (laneRun [])) (laneRun []) (lane4 ty 1 0) (unitUse (lane4 ty 1 0) t ⟨true, true, true⟩ .alu) (fun _ => [])) ∧
    (LTy.s32.setS = true ∧ LTy.s32.setW = true ∧ LTy.s32.setP = true) ∧ laneType (lane4 15 0 0) 6 = some .f32 ∧ laneType (lane4 14 0 0) 6 = none ∧
    LanePasses (inRun (laneRun [])) (laneRun []) { lane4 0 3 0 with u := 1 } (unitUse { lane4 0 3 0 with u := 1 } .s32 ⟨true, true, false⟩ .alu) (fun _ => []) ∧
    Acts (inRun (laneRun [])) (laneRun []) (lane4 0 0 0) 31 ∧ ¬Acts (inRun (laneRun [])) (laneRun []) (lane4 0 0 0) 32 := by
  refine ⟨running_of (by decide +kernel), ?_, by decide +kernel, by decide +kernel, by decide +kernel, passes_of (by decide +kernel), ?_, ?_⟩
  · intro ty h
    fin_cases h
    all_goals exact ⟨_, rfl, by decide +kernel, passes_of (by decide +kernel)⟩
  · exact ⟨by decide +kernel, by decide +kernel⟩
  · exact fun h => absurd h.1 (by decide +kernel)

/-- LaneFloats: every floating type; the conversions' last position and one beyond, to a narrower and to a wider type. -/
theorem test_lane_floats : (∀ ty ∈ [6, 7, 8], ∃ t f, laneType (lane4 ty 3 0) 6 = some t ∧ t.setF = true ∧ t.float? = some f ∧
      LanePasses (inRun (laneRun [])) (laneRun []) (lane4 ty 3 0) (unitUse (lane4 ty 3 0) t ⟨true, true, true⟩ .special) (fun _ => [])) ∧
    (let w := lane4 6 3 (3 * 32 + 9)
     LTy.ofCode (w.imm32.toNat % 16) = some .e4m3x4 ∧ w.imm32.toNat / 32 % 4 = 3 ∧ LTy.f32.count < LTy.e4m3x4.count ∧ LTy.e4m3x4.count / LTy.f32.count = 4 ∧
       LanePasses (inRun (laneRun [])) (laneRun []) w ⟨[⟨8, 4, 1⟩, ⟨4, 4, 1⟩], [], [⟨4, 4, 1⟩], maskReads w, none, .alu⟩ (fun _ => [])) ∧
    (let w := lane4 7 1 (1 * 32 + 6)
     w.imm32.toNat / 32 % 4 < LTy.f16x2.count / LTy.f32.count ∧ ¬(2 < LTy.f16x2.count / LTy.f32.count) ∧ ¬(LTy.f16x2.count < LTy.f32.count)) := by
  refine ⟨fun ty h => ?_, by and_intros <;> first | exact passes_of (by decide +kernel) | decide +kernel, by decide +kernel⟩
  fin_cases h
  all_goals exact ⟨_, _, rfl, by decide +kernel, rfl, passes_of (by decide +kernel)⟩

/-- LaneCrossings: what a shuffle, a reduction, a segment, a match, QBLK, a compare, LNOP and LID ask. -/
theorem test_lane_crossings : (let s := inRun (laneRun [])
     let ps (w : LaneWord) (u : LaneUse) (deps : Nat → List (Nat × List Block)) : Prop := LanePasses s (laneRun []) w u deps
     let ts := threadsOf s.me.gw (s.me.activeMask (laneRun []) 0)
     let w := lane4 0 1 0
     LTy.s32.moves = true ∧
       ps w ⟨operandBlocks w .s32 false true false, operandBlocks w .s32 true false false, [⟨4, 2, 1⟩], maskReads w, none, .alu⟩
         (fun k => (List.range 2).map fun j => ((k ^^^ (s.me.operandB (laneRun []) w .s32 j k % 32)) % 32, [⟨8 + j, 1, 1⟩])) ∧
       reduceLegal (lane4 0 0 5) .s32 = true ∧ reduceLegal (lane4 0 0 6) .s32 = false ∧ reduceLegal (lane4 6 0 6) .f32 = true ∧
       ps (lane4 0 0 5) (reduceUse (lane4 0 0 5) [] .s32) (fun _ => readAll [⟨8, 1, 1⟩] ts) ∧
       ps (lane4 0 0 5) (reduceUse (lane4 0 0 5) [] .s32) (fun k => readAll [unitA (lane4 0 0 5) .s32] (ts.filter fun j => decide (j ≤ k))) ∧
       ps (lane4 0 0 5) (reduceUse (lane4 0 0 5) [⟨16, 1, 1⟩] .s32)
         (segmentDeps (lane4 0 0 5) .s32 [] ((s.me.segmentsOf (lane4 0 0 5) (s.me.activeMask (laneRun []) 0) fun _ => 0).map fun g => g.map (·.2.1))) ∧
       ps (lane4 6 0 0) ⟨[], [⟨8, 1, 1⟩], [⟨4, 1, 1⟩], maskReads (lane4 6 0 0), none, .alu⟩ (fun _ => readAll [⟨8, 1, 1⟩] ts) ∧
       ps (lane4 9 0 0) ⟨[], [⟨8, 1, 1⟩], [⟨4, 2, 1⟩], maskReads (lane4 9 0 0), none, .alu⟩ (fun _ => readAll [⟨8, 1, 1⟩] ts) ∧
       (lane4 2 0 (16 + 9)).imm32.toNat / 16 % 4 < LTy.s16x2.count ∧ ¬((lane4 2 0 (2 * 16)).imm32.toNat / 16 % 4 < LTy.s16x2.count) ∧
       ps (lane4 2 0 (16 + 9)) ⟨operandBlocks (lane4 2 0 (16 + 9)) .s16x2 true true false, [], [], maskReads (lane4 2 0 (16 + 9)), some 4, .alu⟩ (fun _ => []) ∧
       ps w ⟨[], [], [], [], none, .alu⟩ (fun _ => []) ∧ ps w ⟨[], [], [⟨4, 1, 1⟩], maskReads w, none, .alu⟩ (fun _ => [])) := by
  and_intros <;> first | exact passes_of (by decide +kernel) | decide +kernel

/-- LaneCrossings: LID of `clk` by thread, of `clk` by all and of a number that is not; a quarter's lanes. -/
theorem test_lane_clocked : (lane4 0 0 6).imm32.toNat % 16 = 6 ∧ (lane4 0 0 6).u = 0 ∧ (lane4 0 0 5).imm32.toNat % 16 ≠ 6 ∧
    ({ lane4 0 0 6 with u := 1 } : LaneWord).u = 1 ∧ (inRun (laneRun [])).me.gw = 32 := by decide +kernel

/-- LaneFaults: each way to fault. An undeclared register 64; an overlap in part; a tag; a short gap; an error in a source of thread 31. -/
theorem test_lane_faults : (unitUse { lane4 0 0 0 with va := 64 } .s32 ⟨true, true, false⟩ .alu).regsOk 64 = false ∧
    (unitUse { lane4 0 0 0 with va := 63 } .s32 ⟨true, true, false⟩ .alu).regsOk 64 = true ∧
    (unitUse { lane4 0 1 0 with va := 5 } .s32 ⟨true, true, false⟩ .alu).overlaps = true ∧
    (unitUse { lane4 0 1 0 with va := 4 } .s32 ⟨true, true, false⟩ .alu).overlaps = false ∧
    (unitUse (lane4 0 0 0) .s32 ⟨true, true, false⟩ .alu).tagged [(8, 1)] = true ∧
    (unitUse (lane4 0 0 0) .s32 ⟨true, true, false⟩ .alu).gapShort (laneRun [⟨false, 8, .special, 0⟩]) true false = true ∧
    (unitUse (lane4 0 0 0) .s32 ⟨true, true, false⟩ .alu).gapShort (laneRun [⟨false, 8, .special, 1⟩]) true false = false ∧
    (let s : State := { inRun (laneRun []) with errors := [.vreg groupA 8 31] }
     s.badThreads s.me (unitUse (lane4 0 0 0) .s32 ⟨true, true, false⟩ .alu) (fun _ => []) (threadsOf s.me.gw (s.me.activeMask (laneRun []) 0)) = 0x80000000) ∧
    LTy.f32.setA = false := by decide +kernel

/-! ## Lane memory -/

theorem mem_passes_of {s : State} {r : Run} {w : LaneWord} {u : LaneUse} {long : Bool} {waits : State → Party → Option State}
    (h : (u.regsOk s.me.vcount && !u.overlaps && !s.me.flagBad r w long && !u.tagged s.me.tags && !u.gapShort r (decide (s.me.gw = 16)) false &&
      decide (s.badThreads s.me u (fun _ => []) (threadsOf s.me.gw (s.me.activeMask r w.mask)) = 0) && !(s.me.ops.any fun o => o.acquire) &&
      (waits s s.me).isNone) = true) : LaneMemPasses s r w u long waits := by
  simp only [Bool.and_eq_true, Bool.not_eq_true', decide_eq_true_eq, Option.isNone_iff_eq_none] at h
  exact ⟨h.1.1.1.1.1.1.1, h.1.1.1.1.1.1.2, h.1.1.1.1.1.2, h.1.1.1.1.2, h.1.1.1.2, h.1.1.2, h.1.2, h.2⟩

/-- A lane memory word: indexes in register 8, base in s32, data in registers 4 and 16, counted by flag A. -/
def mem4 (imm : Word) : LaneWord := ⟨0, 0, 4, 8, 0, 16, 1, 1, 0, 0, 0, imm, 0⟩

/-- A run whose copy of s32 holds an address. -/
def memRun (base : Nat) : Run := { laneRun [] with snap := [BitVec.ofNat 64 base] }

/-- The bytes that thread 0 and the rest name, and who has failed. -/
def globalOf (base : Nat) (w : LaneWord) (n : Nat) (k : Access) (aligned stores : Bool) : List (List Piece) × List FaultClass :=
  let s := inRun (memRun base)
  let c := s.checkGlobal s.me n k aligned stores (laneAddr s.me (memRun base) w (laneScale w)) (activeThreads s (memRun base) w)
  (c.2.1.map (·.pieces), c.2.2.map (·.cls))

/-- LaneGlobal: LD, RAGLD, ST, ATOM and ATOMR pass; their accesses are well placed; on a page that is absent, or may not be written, all
threads fail. -/
theorem test_lane_global : Running (inRun (memRun 0)) (memRun 0) ∧
    (let s := inRun (memRun 0)
     let w := mem4 0x01000200
     LaneMemPasses s (memRun 0) w (loadUse w .alu) true waitsForNothing ∧ LaneMemPasses s (memRun 0) w (storeUse w) false waitsForLoads ∧
       LaneMemPasses s (memRun 0) { mem4 0x200 with cnt := 15 } ⟨[⟨8, 2, 2⟩], [], [⟨20, 16, 1⟩], maskReads w, none, .alu⟩ true waitsForNothing ∧
       LaneMemPasses s (memRun 0) (mem4 0x1000) (atomUse (mem4 0x1000) .alu) true waitsForLoads ∧
       LaneMemPasses s (memRun 0) (mem4 0x500) (atomUse (mem4 0x500) .alu) false waitsForLoads ∧
       (mem4 0x400).atomOp.toNat = 4 ∧ (mem4 0x500).atomOp.toNat = 5 ∧
       (let c := s.checkRows s.me w (laneAddr s.me (memRun 0) w (laneScale w)) (activeThreads s (memRun 0) w)
        c.2.2 = [] ∧ (c.1.party? c.1.actor).isSome = true ∧ ∀ x ∈ c.2.1, s.me.atomicPending x.2.pieces = false)) ∧
    globalOf 0 (mem4 0x01000200) 4 .read false false = (List.replicate 32 [⟨0x40000100, 4, 0, none⟩], []) ∧
    globalOf 0 (mem4 0x01000200) 4 .write true true = (List.replicate 32 [⟨0x40000100, 4, 0, none⟩], []) ∧
    globalOf 0x80000000 (mem4 0x200) 4 .read false false = ([], List.replicate 32 .pageAbsent) ∧
    globalOf 0x40000000 (mem4 0x200) 4 .write false true = ([], List.replicate 32 .protection) ∧
    globalOf 2 (mem4 0x200) 4 .read true false = ([], List.replicate 32 .alignment) := by
  and_intros <;> first | exact mem_passes_of (by decide +kernel) | exact running_of (by decide +kernel) | decide +kernel

/-- Bank 2 of cluster 0 in a mode, for partition 0. -/
def memBank (k : Bank) (base : Nat) : State := (inRun (memRun base)).updBank 0 2 fun _ => k

def placesOf (xs : List LaneTarget × List ThreadFault) : List Place × List FaultClass := (xs.1.map (·.place), xs.2.map (·.cls))

/-- LaneStorage: accesses in the share (its last word) and past its end, to a shared bank and to one that is not; an error in the bytes read; a FIFO bank, and
one that is not. -/
theorem test_lane_storage : (let w := mem4 0x200
      let n := { w with cf := 0 }
      let s := inRun (memRun 0x10FFC)
      let t := inRun (memRun 0x11000)
      LaneMemPasses s (memRun 0x10FFC) n (loadUse n .load) false waitsForNothing ∧ LaneMemPasses s (memRun 0x10FFC) n (storeUse n) false waitsForAll ∧
        LaneMemPasses s (memRun 0x10FFC) n (atomUse n .load) false waitsForLoads ∧
        placesOf (checkPlaces (fun a => s.checkStore s.me 4 a true) (laneAddr s.me (memRun 0x10FFC) w (laneScale w)) (activeThreads s (memRun 0x10FFC) w)) =
          (List.replicate 32 (.store 0 0x10FFC), []) ∧
        placesOf (checkPlaces (fun a => t.checkStore t.me 4 a true) (laneAddr t.me (memRun 0x11000) w (laneScale w)) (activeThreads t (memRun 0x11000) w)) =
          ([], List.replicate 32 .protection) ∧
        s.storeErrors 4 [⟨0, 0x10FFC, [], .store 0 0x10FFC⟩] = [] ∧
        ({ s with errors := [.coreStore 0 0x10FFF] } : State).storeErrors 4 [⟨0, 0x10FFC, [], .store 0 0x10FFC⟩] ≠ []) ∧
    (let w := mem4 0x200
     let off := Config.bankBase + 2 * Config.bankBytes
     let s := memBank ⟨.scratch, 0, 0, [], []⟩ off
     let f := memBank ⟨.fifo, 0, 4, [], []⟩ off
     LaneMemPasses s (memRun off) w (loadUse w .alu) true waitsForNothing ∧ LaneMemPasses s (memRun off) w (storeUse w) false waitsForLoads ∧
       LaneMemPasses s (memRun off) w (storeUse w) false (waitsForDrains .device) ∧
       placesOf (checkPlaces (fun a => s.checkWindow s.me 4 a true) (laneAddr s.me (memRun off) w (laneScale w)) (activeThreads s (memRun off) w)) =
         (List.replicate 32 (.bank 0 2 0), []) ∧
       s.storeBad 4 (.bank 0 2 0) = false ∧
       LaneMemPasses f (memRun off) w ⟨[], [], [⟨4, 1, 1⟩, ⟨16, 1, 1⟩], maskReads w, none, .alu⟩ true waitsForNothing ∧
       LaneMemPasses f (memRun off) w ⟨[⟨16, 1, 1⟩], [], [], maskReads w, none, .alu⟩ false waitsForLoads ∧
       (f.fifoBank f.me off 4).toOption = some (0, 2) ∧ (s.fifoBank s.me off 4).toOption = none ∧ (f.fifoBank f.me off 2).toOption = none) := by
  and_intros <;> first | exact mem_passes_of (by decide +kernel) | decide +kernel

/-- A run of a group whose partition has peer 0, device 3's window of 64 KiB, with a fabric port up. -/
def farLab (base : Nat) : State :=
  { inRun (memRun base) with
    peers := [⟨0, 0, 3, 1, 0, 0, 65536⟩]
    fabric := State.reset.fabric.set 15 ⟨true, some 3, [linkUp true true], none⟩ }

def farOf (s : State) (base : Nat) (peer : Nat) (aligned : Bool) : List (List RemotePiece) × List (FaultClass × Nat) :=
  let c := s.checkRemote s.me 4 aligned (laneAddr s.me (memRun base) (mem4 0x200) 1) (fun _ => peer) (byPeer (fun _ => peer) (activeThreads s (memRun base) (mem4 0x200)))
  (c.1.map (·.pieces), (byThread c.2).map fun f => (f.cls, f.addr2))

/-- LaneRemote: the last word of a window, one past it, a peer that has none, and no port up. -/
theorem test_lane_remote : (let w := mem4 0x200
      let s := farLab 0xFFFC
      Running s (memRun 0xFFFC) ∧
      LaneMemPasses s (memRun 0xFFFC) w ⟨[indexBlock w, ⟨16, 1, 1⟩], [], [⟨4, 1, 1⟩], maskReads w, none, .alu⟩ true waitsForNothing ∧
      LaneMemPasses s (memRun 0xFFFC) w ⟨[⟨8, 2, 2⟩, ⟨16, 1, 1⟩], [], [], maskReads w, none, .alu⟩ false waitsForLoads ∧
      LaneMemPasses s (memRun 0xFFFC) w { atomUse w .alu with own := ⟨16, 1, 1⟩ :: (atomUse w .alu).own } w.ret waitsForLoads ∧
      farOf s 0xFFFC 0 true = (List.replicate 32 [⟨3, 0xFFFC, 4⟩], []) ∧ s.me.remoteMeets true ⟨3, 0xFFFC, 4⟩ = false) ∧
    farOf (farLab 0xFFFD) 0xFFFD 0 false = ([], List.replicate 32 (.remote, 4096)) ∧ farOf (farLab 0) 0 1 false = ([], List.replicate 32 (.remote, 4097)) ∧
    farOf { farLab 0 with fabric := State.reset.fabric } 0 0 false = ([], List.replicate 32 (.remote, 8192)) ∧
    farOf (farLab 2) 2 0 true = ([], List.replicate 32 (.alignment, 0)) := by
  and_intros <;> first | exact mem_passes_of (by decide +kernel) | exact running_of (by decide +kernel) | decide +kernel

/-! ## Steps of runs, caches, records and power -/

/-- The words of a header at the entry of the lab's code page (0x80000000), which is certified. -/
def headerAt (w : BitVec 96) : List Host.Cell :=
  writeBytes (writeBytes labMem 0xC1000 [1]) 0x80000000 (toLe 4 (w.extractLsb' 0 32).toNat ++ toLe 4 (w.extractLsb' 32 32).toNat ++ toLe 4 (w.extractLsb' 64 32).toNat)

/-- Group 0 has a run queued at 0x40000000 and is the object of the step. -/
def queuedRun (w : BitVec 96) (f : Party → Party) (others : List Party) : State :=
  let s := (lab 0 0).upd fun q => f { q with queue := [⟨0x40000000, [], 0⟩] }
  { s with
    mem := headerAt w
    parties := s.parties ++ others
    args := { EventArgs.blank with p := groupA } }

def goodHeader : BitVec 96 := 0xF0003F0C0C00000000000000#96

def headOf (s : State) : Option RunHeader :=
  match (s.laneWords s.me 0x40000000 3).2 with
  | .ok ws => (decodeHeader (join96 ws)).toOption
  | .error _ => none

def othersLane : Party := { labParty groupB 0 with run := some (laneRun []) }

/-- RunStarts: a group that is not ready; a header that is good, and one that is none; a flag that is waited for and is set; a lane that is taken. -/
theorem test_run_starts : (let s := queuedRun goodHeader id []
      s.party? s.args.p = some s.me ∧ s.me.queue = ⟨0x40000000, [], 0⟩ :: [] ∧ s.runReady s.me = true ∧ s.holds .lanes s.me.core = false ∧ (headOf s).isSome = true ∧
        ((headOf s).map fun h => s.me.flagsClear h.wait.toNat) = some true ∧ s.laneFree s.me = true ∧
        (s.laneWords s.me 0x40000000 3).1.party? s.args.p = some s.me) ∧
    (let s := queuedRun 0 id []
     headOf s = none ∧ (s.laneWords s.me 0x40000000 3).2.toOption.isSome = true ∧ s.laneFree s.me = true) ∧
    (let s := queuedRun 0xF0083F0C0C00000000000000#96 (fun q => { q with ops := [⟨7, .lnop (lane4 0 0 0), 0, some 3, 0, false, false, 0, none⟩] }) []
     ((headOf s).map fun h => s.me.flagsClear h.wait.toNat) = some false) ∧
    (queuedRun goodHeader (fun q => { q with status := .parked }) []).runReady (queuedRun goodHeader (fun q => { q with status := .parked }) []).me = false ∧
    (let s := queuedRun goodHeader id [othersLane]
     s.laneFree s.me = false) := by decide +kernel

def ldWord : LaneWord := mem4 0x200

def longOp (acquire : Bool) : LaneOp := ⟨7, .laneLd { ldWord with imm32 := if acquire then 0x6A00 else 0x200 }, 0x40000100, some 1, 0, acquire, false, 0, none⟩

def waitingLoad (got : Option (List Byte)) : LaneAccess := ⟨7, 31, 0, 0x100, [⟨0x40000100, 4, 0, none⟩], [], got, []⟩

/-- Group 0 has operations and loads; the step is of operation 7, thread 31. -/
def longLab (o : List LaneOp) (l : List LaneAccess) (es : List SqEntry) : State :=
  { (lab 0 0).upd fun q => { q with ops := o, loads := l, sq := es } with
    args := { EventArgs.blank with p := groupA, x := 7, y := 31, z := 0 } }

/-- LongAccesses: a load in its turn whose bytes come; one that has its value, acquiring and not; one that has failed, while the rest of its
operation goes on and once nothing is left. -/
theorem test_long_loads : (let s := longLab [longOp false] [waitingLoad none] []
      s.party? s.args.p = some s.me ∧ s.me.ops.find? (fun o => decide (o.id = s.args.x)) = some (longOp false) ∧
        s.me.loads.find? (loadIs s.args.x s.args.y s.args.z) = some (waitingLoad none) ∧ s.me.loadTurn (waitingLoad none) = true ∧
        (waitingLoad none).stale = false ∧ nextPiece (waitingLoad none).pieces 0 = some ⟨0x40000100, 4, 0, none⟩ ∧ nextPiece (waitingLoad none).pieces 4 = none ∧
        s.loadHolds s.me.core (s.partOf s.me) (longOp false).scope (longOp false).acquire ⟨0x40000100, 4, 0, none⟩ = false ∧
        ((s.loadPiece s.me (s.partOf s.me) (longOp false).scope (longOp false).acquire (some 7) ⟨0x40000100, 4, 0, none⟩).1.party? s.args.p).isSome = true) ∧
    (let s := longLab [longOp true] [waitingLoad (some [1, 2, 3, 4])] []
     s.me.loads.find? (loadIs s.args.x s.args.y s.args.z) = some (waitingLoad (some [1, 2, 3, 4])) ∧ (longOp true).acquire = true ∧ (longOp false).acquire = false) ∧
    (let s := longLab [longOp false] [waitingLoad (some [])] []
     s.me.lateReady = some (longOp false) ∧ s.me.run = none ∧ s.me.mayPark = true) ∧
    (longLab [longOp false] [waitingLoad (some []), { waitingLoad none with thread := 3 }] []).me.lateReady = none := by decide +kernel

def popLoad : LaneAccess := ⟨7, 31, 0, Config.bankBase + 2 * Config.bankBytes, [], [], none, []⟩

/-- LongAccesses: a pop that waits, first of its operation, on a FIFO bank with an entry; a store entry that may leave, one that is held, and a
die that holds its issue back. -/
theorem test_long_pops : (let s := (longLab [⟨7, .fifopop ldWord, 0x40000100, some 1, 0, false, false, 0, none⟩] [popLoad] []).updBank 0 2 fun _ => ⟨.fifo, 0, 4, [], [[1, 2, 3, 4]]⟩
      s.me.loads.find? (loadIs s.args.x s.args.y 0) = some popLoad ∧ s.wgOf s.args.p = some labWg ∧ s.me.waitingPop popLoad = true ∧
        ((s.me.loads.takeWhile fun x => !loadIs s.args.x s.args.y 0 x).any fun x => s.me.waitingPop x && decide (x.op = popLoad.op)) = false ∧ s.onCore s.me = true ∧
        (s.bank (clusterOfCore labWg.core) ((popLoad.va - Config.bankBase) / Config.bankBytes)).mode = .fifo ∧
        (s.bank (clusterOfCore labWg.core) ((popLoad.va - Config.bankBase) / Config.bankBytes)).entries = [1, 2, 3, 4] :: [] ∧
        clusterOfCore labWg.core * 64 + (popLoad.va - Config.bankBase) / Config.bankBytes < s.banks.length) ∧
    (let e : SqEntry := ⟨7, 0x100, .core, false, false, .store ⟨0x40000100, 1, 0, none⟩ [5], none, 0, none, false, false, 0, false⟩
     let s := longLab [] [] [e]
     s.me.sq.find? (fun e => decide (e.id = s.args.x)) = some e ∧ s.me.mayLeave e = true ∧ s.entryHolds s.me e = false ∧ s.maxBars s.me e = false ∧
       s.me.mayLeave { e with held := true } = false ∧ ({ s with heldDies := [0] } : State).entryHolds s.me e = true) := by decide +kernel

/-- LongAccesses: a load of two pieces, between them; one whose translation the unit has dropped, in a group that stands at an instruction
boundary and in one that does not. -/
theorem test_long_pieces : nextPiece [⟨0x4000017E, 2, 0, none⟩, ⟨0x40000180, 2, 0, none⟩] 2 = some ⟨0x40000180, 2, 0, none⟩ ∧
    nextPiece [⟨0x4000017E, 2, 0, none⟩, ⟨0x40000180, 2, 0, none⟩] 4 = none ∧
    (let l := { waitingLoad none with pieces := [] }
     let s := longLab [longOp false] [l] []
     l.stale = true ∧ s.me.waitingPop l = false ∧ s.me.mayPark = true ∧ s.onCore s.me = true ∧
       s.me.loads.find? (loadIs s.args.x s.args.y s.args.z) = some l ∧ { s.me with ladItems := some [] }.mayPark = false) := by decide +kernel

def entryOf (sc : Scope) (b : SqBody) : SqEntry := ⟨7, 0x100, sc, false, false, b, none, 0, none, false, false, 0, false⟩

/-- The entry is the one of group 0, and the step's. -/
def storeLab (sc : Scope) (b : SqBody) : State := longLab [] [] [entryOf sc b]

theorem performs_of {s : State} {q : Party} {e : SqEntry}
    (h : q.sq.find? (fun x => decide (x.id = s.args.x)) = some e ∧ q.mayLeave e = true ∧ (s.entryHolds q e = false ∧ s.maxBars q e = false) ∧ (e.failed = false ∧ e.stale = false) ∧ e.release = false ∧
      e.acquire = false ∧ s.asks = [] ∧ ∀ x ∈ s.parties, x.acqs = []) : Performs s q e :=
  ⟨h.1, h.2.1, h.2.2.1, h.2.2.2.1, ⟨h.2.2.2.2.1, h.2.2.2.2.2.1⟩, h.2.2.2.2.2.2⟩

def wordAt (pa : Nat) : Piece := ⟨pa, 4, 0, none⟩

/-- StoresPerformed: a store that merges at its core, one for its home, an atomic on a word that is sound and on one that is not, a push into a
bank with room, a remote store. -/
theorem test_entries : (let s := storeLab .core (.store (wordAt 0x40000100) [5])
      Performs s s.me (entryOf .core (.store (wordAt 0x40000100) [5])) ∧ s.leavesDirty [wordAt 0x40000100] = true ∧ s.refusesDirty (0x40000100 / 128) = false ∧
        (s.core 0).mergeReady (0x40000100 / 128) = true ∧ s.me.core = 0 ∧ 0 < s.cores.length) ∧
    (let s := storeLab .device (.store (wordAt 0x40000100) [5])
     Performs s s.me (entryOf .device (.store (wordAt 0x40000100) [5])) ∧ HomesFree s ∧ (cacheIdOf (s.partOf s.me) s.me.core 0).bind s.cache? = none) ∧
    (let b : SqBody := .atomic (wordAt 0x40000100) .add 3 0 (.sreg 5 false)
     let s := storeLab .device b
     Performs s s.me (entryOf .device b) ∧ HomesFree s ∧ atomSize (decide ((wordAt 0x40000100).len = 8)) = (wordAt 0x40000100).len ∧
       (∀ i, i < 4 → s.byteBad s.me.core (0x40000100 + i) = false ∧ dirtyAt (s.core s.me.core) (0x40000100 + i) = none ∧
         s.cacheDirty s.me.core (0x40000100 + i) = none) ∧
       ∀ i, i < 4 → ({ s with errors := (List.range 4).map fun k => .mem (0x40000100 + k) } : State).byteBad s.me.core (0x40000100 + i) = true) ∧
    (let b : SqBody := .fifoPush 0 2 [1, 2, 3, 4]
     let s := (storeLab .cluster b).updBank 0 2 fun _ => ⟨.fifo, 0, 4, [], []⟩
     Performs s s.me (entryOf .cluster b) ∧ (s.bank 0 2).mode = .fifo ∧ some (s.bank 0 2).owner = s.partOf s.me ∧ (s.bank 0 2).entrySize = 4 ∧
       (s.bank 0 2).entries.length < Config.bankBytes / 4 ∧ 0 * 64 + 2 < s.banks.length) ∧
    (let b : SqBody := .remoteStore 0 3 0x100 [1]
     Performs (storeLab .fabric b) (storeLab .fabric b).me (entryOf .fabric b)) := by
  refine ⟨⟨performs_of (by decide +kernel), by decide +kernel⟩, ⟨performs_of (by decide +kernel), homes_of (by decide +kernel), by decide +kernel⟩,
    ⟨performs_of (by decide +kernel), homes_of (by decide +kernel), by decide +kernel⟩, ⟨performs_of (by decide +kernel), by decide +kernel⟩,
    performs_of (by decide +kernel)⟩

/-- StoresPerformed: an atomic that has failed, that the scalar stream waits for and that it does not. -/
theorem test_entries_failed : (let e := { entryOf .device (.atomic (wordAt 0x40000100) .add 3 0 (.sreg 5 false)) with held := true, req := some 0 }
      let s := longLab [] [] [e]
      s.me.sq.find? (fun e => decide (e.id = s.args.x)) = some e ∧ e.failed = true ∧ e.op = none ∧ s.me.mayPark = true ∧ e.id ∉ s.me.stallOn ∧
        e.id ∈ { s.me with stallOn := [7] }.stallOn ∧ { s.me with stallOn := [7] }.mayPark = true) := by decide +kernel

/-- LongAccesses: an operation that acquires, one of whose loads has failed, and the drains of the rest. -/
theorem test_long_lost : (let l := { waitingLoad (some []) with thread := 3 }
      let s := longLab [longOp true] [waitingLoad (some [1, 2, 3, 4]), l] []
      (s.me.loads.filter fun l => decide (l.op = (longOp true).id ∧ l.got ≠ some [])) = [waitingLoad (some [1, 2, 3, 4])] ∧ s.me.acqs = [] ∧
        (longOp true).unfinished = 0) := by decide +kernel

/-- LongAccesses: an operation that acquires with every value, whose line has no drain to command, and has one; one that has not every
value; a bank that is no FIFO bank any more. -/
theorem test_long_acquires : (let s := longLab [longOp true] [waitingLoad (some [1, 2, 3, 4])] []
      (s.me.loads.filter fun l => decide (l.op = (longOp true).id)) = [waitingLoad (some [1, 2, 3, 4])] ∧ (longOp true).unfinished = 0 ∧ s.me.acqs = [] ∧
        ((lineVas 0x100 (waitingLoad none).pieces).flatMap fun l => s.drainsFor s.me.id s.me.core (longOp true).scope l.1) = [] ∧
        (∀ d ∈ s.drains, d.acquirer ≠ s.me.id) ∧ (longOp true).scope ≠ .pdevice ∧
        (longOp true).instr = .laneLd { ldWord with imm32 := 0x6A00 } ∧ (longOp true).word.isSome = true) ∧
    (let s : State := { longLab [longOp true] [waitingLoad (some [1, 2, 3, 4])] [] with lazy := [⟨0x40000100 / 128, 5, 3⟩] }
     let ds := (lineVas 0x100 (waitingLoad none).pieces).flatMap fun l => s.drainsFor s.me.id s.me.core (longOp true).scope l.1
     ds ≠ [] ∧ ∀ d ∈ ds, (s.core d.core).failed = false) ∧
    (let l := { waitingLoad none with thread := 3 }
     (longLab [longOp true] [waitingLoad (some [1, 2, 3, 4]), l] []).me.loads.contains l = true ∧ l.got = none) ∧
    (let s := (longLab [⟨7, .fifopop ldWord, 0x40000100, some 1, 0, false, false, 0, none⟩] [popLoad] []).updBank 0 2 fun _ => ⟨.scratch, 0, 0, [], []⟩
     (match s.fifoBank s.me popLoad.va (laneBytes ldWord) with | .error _ => true | .ok _ => false) = true) ∧
    (let s := longLab [longOp false] [waitingLoad none] []
     s.holds .sram s.me.core = false ∧ (waitingLoad none).got = none ∧
       (∀ x ∈ [waitingLoad (some [1])], x.op = (longOp false).id → loadIs 7 31 0 x = true)) := by decide +kernel

/-- A step of the memory side on core `x` and line `y`. -/
def cohLab (s : State) (x y : Nat) (flag : Bool) (level : CopyLevel) : State :=
  { s with args := { EventArgs.blank with x := x, y := y, flag := flag, level := level } }

def line0 : Nat := 0x40000100 / 128

/-- A tack that watches the line. -/
def watching : State := { lab 0 0 with regions := [labRegionAt] } where
  labRegionAt : Region := ⟨0, 1, none, 0x10000, [⟨0x40000100 / 128 * 128, 0x8000, 0, none⟩], true, false, 0, [], [], [], [], false, false, [], []⟩

/-- CoherenceSteps: a store that waits at a line that grants dirty permission, and at one that refuses; fills that may and may not be made; a commanded
drain before and after its core has drained. -/
theorem test_coherence_cores : (let e : SqEntry := ⟨7, 0x100, .core, false, false, .store ⟨0x40000100, 1, 0, none⟩ [5], none, 0, none, false, false, 0, false⟩
      let s := cohLab (longLab [] [] [e]) 0 line0 false .l1
      (s.parties.any fun q => decide (q.core = s.args.x) && q.sq.any fun e =>
        match e.body with
        | .store a _ => decide (a.pa / 128 = s.args.y ∧ (e.scope = .group ∨ e.scope = .core))
        | _ => false) = true ∧ s.refusesDirty s.args.y = false) ∧
    watching.refusesDirty line0 = true ∧
    (let s := cohLab (lab 0 0) 0 line0 false .l1
     lineExists s.args.y = true ∧ s.marked s.args.y = false ∧ s.loadHolds 0 (s.partOfCore 0) .core false ⟨s.args.y * 128, 128, s.args.z, none⟩ = false ∧
       (∀ i, i < 128 → s.loadBad 0 (s.partOfCore 0) .core false s.args.z (s.args.y * 128 + i) = false) ∧ s.dieHolds .sram 0 = false ∧
       s.homeHolds 0 (s.args.y * 128) = false ∧ (∀ i, i < 128 → s.l2Bad 0 (s.args.y * 128 + i) = false) ∧
       s.args.x < Config.allCores ∧ s.caches = [] ∧ s.dieCopies = [] ∧ homeDie (s.args.y * 128) = dieOfCore s.args.x ∧ s.args.x < s.cores.length) ∧
    watching.marked line0 = true ∧ lineExists (Config.dramBytes / 128) = false ∧
    (let s : State := { cohLab (lab 0 0) 0 line0 false .l1 with drains := [⟨0, line0, some 3, groupB, false⟩, ⟨0, line0, none, groupB, true⟩] }
     s.drains[s.args.x]? = some ⟨0, line0, some 3, groupB, false⟩ ∧ s.drains[1]? = some ⟨0, line0, none, groupB, true⟩ ∧ (s.party groupB).acqs = [] ∧ s.drains[2]? = none) := by
  decide +kernel

/-- CoherenceSteps: the last die that may ask for a line, its home, and one beyond; a line with and without copies elsewhere; a request already made;
acknowledgements that are due; devices' copies. -/
theorem test_coherence_dies : (let s := cohLab (lab 0 0) 3 line0 false .l1
      s.args.x < 4 ∧ homeDie (s.args.y * 128) = 0 ∧ homeDie (s.args.y * 128) ≠ s.args.x ∧ lineExists s.args.y = true ∧ s.marked s.args.y = false ∧
        s.refusesDirty s.args.y = false ∧ (∀ r ∈ s.dieRequests, ¬(r.die = s.args.x ∧ r.line = s.args.y)) ∧ (∀ c ∈ s.holders s.args.y, c.die = s.args.x) ∧
        s.held = [] ∧ s.tacks = []) ∧
    (let s : State := { cohLab (lab 0 0) 3 line0 false .l1 with dieCopies := [⟨2, line0, .shared, List.replicate 128 0⟩] }
     (∃ c ∈ s.holders s.args.y, c.die ≠ s.args.x) ∧ ∀ c ∈ s.dieCopies, c.die = 2 → c.line = s.args.y → c.state = .shared ∨ c.state = .exclusive) ∧
    (let s : State := { cohLab (lab 0 0) 3 line0 false .l1 with dieRequests := [⟨3, line0, [1, 2]⟩] }
     (∃ r ∈ s.dieRequests, r.die = s.args.x ∧ r.line = s.args.y) ∧ ∀ r ∈ s.dieRequests, r.line = s.args.y → s.args.x ∉ r.waits) ∧
    (let s : State := { cohLab (lab 0 0) 2 line0 false .l1 with dieRequests := [⟨3, line0, [1, 2]⟩] }
     (∃ r ∈ s.dieRequests, r.line = s.args.y ∧ s.args.x ∈ r.waits) ∧ ∀ r ∈ s.dieRequests, r.line = s.args.y → ∃ d ∈ r.waits, d ≠ s.args.x) := by decide +kernel

/-- A core whose one dirty byte is that of the line. -/
def dirtyLab (x y : Nat) (flag : Bool) : State :=
  { cohLab (lab 0 0) x y flag .l1 with cores := (lab 0 0).cores.modify 0 fun c => { c with dirty := [⟨0x40000100, 7, 2, none⟩] } }

def copyAt (die : Nat) (st : Moesi) : DieCopy := ⟨die, line0, st, List.replicate 128 9⟩

/-- CoherenceSteps: a byte that drains; a fill that the L1 has room for; commanded drains that leave nothing and something, and whose bytes
wait at a home; a read of a line that another die has modified; a line that devices share; a holder that forwards its copy. -/
theorem test_coherence_more : (let s := dirtyLab 0 0x40000100 false
      (s.core 0).dirty.filter (fun d => decide (d.pa = 0x40000100)) = [⟨0x40000100, 7, 2, none⟩] ∧ ErrSite.dirty 0 0x40000100 ∉ s.errors ∧
        homeDie (0x40000100 / 128 * 128) = dieOfCore 0 ∧ s.caches = [] ∧
        (s.tacks = [] ∧ s.sharers = [] ∧ s.held = [] ∧ s.asks = [] ∧ s.dieCopies = [])) ∧
    Core.l1Room { (lab 0 0).core 0 with clean := ((lab 0 0).core 0).clean.filter fun l => decide (l.line ≠ line0) } line0 = true ∧
    (((dirtyLab 0 line0 false).drainCore 0 (some 3)).dirtyLeft 0 (upTo (some 3)) = false ∧
      ((stuck (lab 0 0)).drainCore 0 (some 3)).dirtyLeft 0 (upTo (some 3)) = true ∧ (lab 0 0).drainsHeld 0 = false ∧
      ({ lab 0 0 with held := [⟨.write [(0x40000100, 1)], .drain 0 2⟩] } : State).drainsHeld 0 = true ∧ (lab 0 0).holds .sram 0 = false ∧
      ({ lab 0 0 with heldDies := [0] } : State).holds .sram 0 = true ∧ (lab 0 0).homeHolds 3 (line0 * 128) = false ∧
      ({ lab 0 0 with heldBlocks := [.dram] } : State).homeHolds 3 (line0 * 128) = true) ∧
    (let s : State := { cohLab (lab 0 0) 3 line0 false .l1 with dieCopies := [copyAt 2 .modified] }
     s.marked line0 = false ∧ (copyAt 2 .modified).die ≠ 3 ∧ s.copyBad (copyAt 2 .modified) = false ∧ (copyAt 2 .modified).bytes.length = 128 ∧
       (∀ c ∈ s.holders line0, c.die ≠ 3) ∧ s.dieRequests = []) ∧
    ((lab 0 0).lineFree line0 = true ∧ ({ lab 0 0 with sharers := [(line0, 5)] } : State).lineFree line0 = false) ∧
    (let s : State := { cohLab (lab 0 0) 2 line0 false .l1 with dieCopies := [copyAt 2 .modified], dieRequests := [⟨3, line0, [1, 2]⟩] }
     (((s.dieCopy? 2 line0).map DieCopy.isDirty).getD false && !s.refusesDirty line0) = true ∧ ∃ r ∈ s.dieRequests, r.line = line0 ∧ 2 ∈ r.waits ∧ ∃ d ∈ r.waits, d ≠ 2) ∧
    (let s : State := { cohLab (lab 0 0) 2 line0 false .l1 with dieRequests := [⟨3, line0, [1, 2]⟩] }
     ¬((((s.dieCopy? 2 line0).map DieCopy.isDirty).getD false && !s.refusesDirty line0) = true) ∧ ∀ r ∈ s.dieRequests, r.waits ≠ []) := by decide +kernel

/-- A record of the lab's group, which waits for room or not, and the producer index of its queue. -/
def recLab (waits : Bool) (prod : Nat) : State :=
  { lab 0 0 with
    mem := writeBytes labMem 0x30008 (toLe 8 prod)
    records := [⟨4, some 0, 0, waits, 0, ⟨.pageAbsent, 0, 0, 0, 0, 0, 0, 0, 0, 0⟩⟩]
    args := { EventArgs.blank with x := 4 } }

/-- FaultsAndErrors: a first record with its queue one short of full, and full; one that is not the first of its unit. -/
theorem test_records : (let s := recLab true 15
      (s.records.find? fun r => decide (r.id = s.args.x)).map (·.id) = some 4 ∧ s.records.map (fun r => (s.queueOf r).1) = [0x30000] ∧ s.queueField 0x30000 0 4 = 16 ∧
        ¬(16 ≤ (s.queueField 0x30000 8 8 + 2 ^ 64 - s.queueField 0x30000 16 8) % 2 ^ 64) ∧ s.records.map (fun r => decide (((s.records.find? fun x => decide (x.unit = r.unit)).map (·.id)) = some r.id)) = [true] ∧
        (s.tacks = [] ∧ s.sharers = [] ∧ s.held = [] ∧ s.asks = [] ∧ s.dieCopies = []) ∧ (∀ x ∈ s.records, x.stage = 0) ∧
        (s.party? (.steward 0)).isSome = true) ∧
    16 ≤ ((recLab false 16).queueField 0x30000 8 8 + 2 ^ 64 - (recLab false 16).queueField 0x30000 16 8) % 2 ^ 64 ∧
    (let s : State := { recLab true 0 with records := [⟨3, some 0, 0, true, 0, ⟨.overlap, 0, 0, 0, 0, 0, 0, 0, 0, 0⟩⟩, ⟨4, some 0, 0, true, 0, ⟨.pageAbsent, 0, 0, 0, 0, 0, 0, 0, 0, 0⟩⟩] }
     ((s.records.find? fun x => decide (x.unit = some 0)).map (·.id)) ≠ some 4) := by decide +kernel

/-- FaultsAndErrors: the last core, without workgroups and dirty bytes; the same failed before; a run at an encoding that is assigned to nothing, and one that
skips it. -/
theorem test_failures : 127 < State.reset.cores.length ∧ (State.reset.core 127).failed = false ∧ State.reset.workgroups = [] ∧ (State.reset.core 127).dirty = [] ∧
    State.reset.caches = [] ∧ State.reset.drains = [] ∧ ((State.reset.updCore 127 fun k => { k with failed := true }).core 127).failed = true ∧
    ((inRun (laneRun [])).party? (inRun (laneRun [])).actor).isSome = true ∧ (let r : Run := { laneRun [] with replay := some 0 }
     (inRun r).me.run = some r ∧ r.replay = some 0 ∧ 1 < r.left) := by decide +kernel

/-- FaultsAndErrors: an error in a block and a column that have been written, and in ones that no write has reached; a core that no region or
contribution waits on. -/
theorem test_struck : (let s := (lab 0 0).updCore 127 fun k => { k with blocks := [3], columns := [5] }
      (3 * 4096 + 4095) / 4096 ∈ (s.core 127).blocks ∧ (4 * 4096) / 4096 ∉ (s.core 127).blocks ∧
        (Config.scaleColumns + 5) % Config.scaleColumns ∈ (s.core 127).columns ∧ 6 % Config.scaleColumns ∉ (s.core 127).columns) ∧
    State.reset.contributions = [] ∧ State.reset.regions = [] := by decide +kernel
/-! ## The whole machine -/

/-- PowerAndReset: power on and off; the last die and one beyond. -/
theorem test_power : State.reset.powered = true ∧ ({ State.reset with powered := false } : State).powered = false ∧
    ({ State.reset with args := { EventArgs.blank with x := 3 } } : State).args.x < 4 ∧ 4 ≤ ({ State.reset with args := { EventArgs.blank with x := 4 } } : State).args.x := by
  decide +kernel

/-- A module reset whose flash holds `n` bytes of firmware, read whole or not. -/
def bootLab (n : Nat) (whole flag : Bool) : State :=
  { State.reset with args := { EventArgs.blank with x := 0x1000, y := 0x1000, flag := flag, bytes := toLe 4 n ++ List.replicate (n + if whole then 114 + 4 else 0) 3 } }

/-- PowerAndReset: no firmware, firmware that the ROM enters, firmware that it refuses. -/
theorem test_boot_images : State.reset.args.bytes = [] ∧ (bootLab 8 true false).args.bytes ≠ [] ∧ (bootLab 8 true false).powered = true ∧
    ¬((bootLab 8 true false).args.flag = true ∨ 2 ^ 25 < le ((bootLab 8 true false).args.bytes.take 4) ∨
      (bootLab 8 true false).args.bytes.length < le ((bootLab 8 true false).args.bytes.take 4) + 118) ∧
    (bootLab 8 false false).args.bytes.length < le ((bootLab 8 false false).args.bytes.take 4) + 118 ∧ (bootLab 8 true true).args.flag = true ∧
    (∀ r ∈ State.reset.regions, False) := by decide +kernel

/-- A steward core that executes `ADD s3, s1, s2` at 0x1000 next: major 0, d 3, a 1, b 2, fn 0 (02_encoding.md). -/
def stepLab (m : Move) : State :=
  { stw 5 6 [(0x1001, 0x42), (0x1002, 0x30)] with agenda := [m] }.upd fun q => { q with pc := 0x1000 }

def nextIs (o : Out) (p : State → Bool) : Bool :=
  match o with
  | .next t => p t
  | _ => false

/-- A step that issues adds 5 and 6. -/
theorem test_step_add : nextIs (step (stepLab (.issue (.steward 0)))) (fun t => decide (t.me.sreg 3 = 11 ∧ t.me.pc = 0x1004)) = true := by decide +kernel

/-- StepRunsDecoded: a steward core whose next word is an instruction; one that may not issue; no power and no move. -/
theorem test_step_issues : (let s := stepLab (.issue (.steward 0))
      let s1 : State := { s with agenda := [], clk := s.clk + 1 }
      s.agenda = .issue (.steward 0) :: [] ∧ s1.canIssue (s1.party (.steward 0)) = true ∧ (s1.party (.steward 0)).ptroot = 0 ∧ (s1.party (.steward 0)).fetched = [] ∧
        (s1.party (.steward 0)).pc.toNat % 4 = 0 ∧ (s1.party (.steward 0)).pc.toNat + 4 ≤ Config.dramBytes ∧ s.choice.stale = false ∧ s.choice.ahead = false ∧
        s.errors = [] ∧ s.dieCopies = [] ∧ homeDie (s1.party (.steward 0)).pc.toNat = dieOfCore (s1.party (.steward 0)).core ∧
        (s1.nextWord (s1.party (.steward 0))).2.toOption = some 0x00304200 ∧ decodeScalar (wd (le (readBytes s.mem 0x1000 4))) = .ok (.add 3 1 2) ∧
        decodeScalar 0xD00000A0 = .ok (.partitionRecord 0 0) ∧ decodeScalar 0xFC000000 = .error .reservedMajor) ∧
    (let s := (stepLab (.issue (.steward 0))).upd fun q => { q with status := .parked }
     s.canIssue (s.party (.steward 0)) = false) ∧
    ({ State.reset with powered := false } : State).agenda = [] := by decide +kernel

/-- Group 0 at a lane instruction of its run: `IADD.S32 v9, v8, v8` at 0x4000010C. -/
def stepRun (f : Party → Party) : State :=
  { (inRun (laneRun [])).upd f with
    agenda := [.lane groupA]
    mem := writeBytes (writeBytes labMem 0xC1000 [1]) 0x8000010C (toLe 12 0x000009080800000000000000) }

/-- StepRunsDecoded: a run that goes on with an instruction, beside a scalar stream that goes and one that is parked. -/
theorem test_step_lane : (let s := stepRun id
      let s1 : State := { s with agenda := [], clk := s.clk + 1 }
      s.agenda = .lane groupA :: [] ∧ s.me.run = some (laneRun []) ∧ s.powered = true ∧ s.me.runGoes = true ∧ s1.mayFinish s.me = true ∧
        ((s1.laneText s.me (laneRun []).pc).2.toOption.map fun x => decide (decodeLane x.1 x.2 = .ok (.iadd ⟨0, 0, 9, 8, 8, 0, 0, 0, 0, 0, 0, 0, 0⟩))) = some true ∧
        s.me.park = none ∧ s.me.midway = false ∧ s1.laneTurn s.me = true ∧ s1.laneFree { s.me with paused := true } = true) ∧
    (let s := stepRun fun q => { q with paused := true }
     s.laneFree s.me = true ∧ { s with parties := s.parties ++ [othersLane] }.laneTurn s.me = false ∧ s.me.run.isSome = true) ∧
    (stepRun fun q => { q with ladItems := some [] }).me.midway = true ∧
    (stepRun (parkedOn .scalar)).me.runGoes = true ∧ (stepRun (parkedOn .scalar)).me.park ≠ none ∧
    nextIs (step (stepRun id)) (fun t => decide (t.me.run.map (·.left) = some 2)) = true := by decide +kernel

/-- RoundTrips and StepKeepsMemoryCanonical: an instruction that is well formed and has words, and one that shares its word; the step from reset. -/
theorem test_round_trip : (Instr.add 3 1 2).wf = true ∧ encode (.add 3 1 2) ≠ [] ∧ (Instr.fabricPortQuery 63 63).wf = true ∧ encode (.fabricPortQuery 63 63) ≠ [] ∧
    Memory.wf State.reset.mem = true ∧ nextIs (step State.reset) (fun t => Memory.wf t.mem) = true := by decide +kernel

end Sys2Proof.Tests
end

section
/-!
PROOFS. Faults and errors (R5, R27, R296 to R298, R302 to R304): what an attempt to deliver a record does, what an error, a failing
core and an illegal encoding leave. On the way: bytes written and read back, writes at home slices where nothing waits, and waking.
-/

namespace Sys2Proof.Machine

/-! ## Bytes -/

@[simp] theorem length_toLe (n v : Nat) : (toLe n v).length = n := by
  induction n generalizing v with
  | zero => rfl
  | succ n ih => simp [toLe, ih]

theorem le_toLe (n v : Nat) : le (toLe n v) = v % 256 ^ n := by
  induction n generalizing v with
  | zero => simp [toLe, le, Nat.mod_one]
  | succ n ih =>
    have hb : (BitVec.ofNat 8 v).toNat = v % 256 := BitVec.toNat_ofNat ..
    rw [toLe, le, ih, hb, Nat.pow_succ', Nat.mod_mul]

@[simp] theorem length_readBytes (m : Cells 8) (a n : Nat) : (readBytes m a n).length = n := by simp [readBytes]

theorem readBytes_congr {m m' : Cells 8} {a n : Nat} (h : ∀ b, a ≤ b → b < a + n → cellGet m b = cellGet m' b) :
    readBytes m a n = readBytes m' a n :=
  List.map_congr_left fun i hi => h (a + i) (by omega) (by have := List.mem_range.1 hi; omega)

theorem readBytes_writeBytes_same (m : Cells 8) (a : Nat) (bs : List Byte) :
    readBytes (writeBytes m a bs) a bs.length = bs := by
  refine List.ext_getElem (length_readBytes ..) fun i h1 h2 => ?_
  rw [← cellGet_writeBytes_inside m a bs i h2]
  simp [readBytes]

theorem readBytes_writeBytes_outside (m : Cells 8) (a : Nat) (bs : List Byte) (b n : Nat)
    (h : b + n ≤ a ∨ a + bs.length ≤ b) : readBytes (writeBytes m a bs) b n = readBytes m b n :=
  readBytes_congr fun j h1 h2 => cellGet_writeBytes_outside m a bs j (by omega)

theorem foldl_cellSet_cellsFrom (a : Nat) (bs : List Byte) (m : Cells 8) :
    (cellsFrom a bs).foldl (fun m c => cellSet m c.1 c.2) m = writeBytes m a bs := by
  induction bs generalizing a m with
  | nil => rfl
  | cons b r ih =>
    have hshift : (r.mapIdx fun i b => (a + (i + 1), b)) = cellsFrom (a + 1) r := by
      simp only [cellsFrom, Nat.add_assoc, Nat.add_comm 1]
    rw [cellsFrom, List.mapIdx_cons, List.foldl_cons, hshift, ih]
    rfl

/-! ## A write at a home slice -/

theorem writeMem_cellsFrom_mem (s : State) (a : Nat) (bs : List Byte) :
    (s.writeMem (cellsFrom a bs)).mem = writeBytes s.mem a bs := by
  rw [← foldl_cellSet_cellsFrom]
  unfold State.writeMem
  split
  · next h => rw [h]; rfl
  · rfl

theorem writeMem_withRecords (s : State) (cs : List Host.Cell) (rs : List PendingRec) :
    ({ s with records := rs } : State).writeMem cs = { s.writeMem cs with records := rs } := by
  cases cs <;> rfl

theorem writeMem_records (s : State) (cs : List Host.Cell) : (s.writeMem cs).records = s.records := by
  cases cs <;> rfl

/-! ## Waking (R288) -/

/-- What a write of a line does to a party: it ends the wait of one that halts on the line. -/
def Party.wokenBy (line : Nat) (q : Party) : Party :=
  match q.status with
  | .halted l t _ => if l = line then { q with status := .halted l t true } else q
  | _ => q

/-- What a wake does to a steward core: it ends a HALT. -/
def Party.woken (q : Party) : Party :=
  match q.status with
  | .halted l t _ => { q with status := .halted l t true }
  | _ => q

theorem wakeLine_parties (s : State) (line : Nat) : (s.wakeLine line).parties = s.parties.map (Party.wokenBy line) := rfl

theorem Party.wokenBy_keepsId (line : Nat) : KeepsId (Party.wokenBy line) := by
  intro q
  unfold Party.wokenBy
  split
  · split <;> rfl
  · rfl

theorem Party.woken_keepsId : KeepsId Party.woken := by
  intro q
  unfold Party.woken
  split <;> rfl

theorem Party.wokenBy_of_awake {q : Party} (line : Nat) (h : ∀ l n w, q.status ≠ .halted l n w) : q.wokenBy line = q := by
  unfold Party.wokenBy
  split
  · next l n w hs => exact absurd hs (h l n w)
  · rfl

/-- A steward core that is woken loses nothing by having been woken before. -/
theorem Party.woken_wokenBy (q : Party) (line : Nat) : (q.wokenBy line).woken = q.woken := by
  unfold Party.wokenBy
  split
  · next l n w hs =>
    split
    · simp [Party.woken, hs]
    · rfl
  · rfl

theorem Party.woken_pc (q : Party) : q.woken.pc = q.pc := by
  unfold Party.woken
  split <;> rfl

theorem Party.woken_status (q : Party) : q.woken.status = match q.status with
    | .halted l n _ => .halted l n true
    | x => x := by
  unfold Party.woken
  cases h : q.status <;> simp [h]

/-- Parties changed one by one by a function that keeps who they are. -/
theorem State.party?_mapParties {s t : State} {f : Party → Party} (hf : KeepsId f) (h : t.parties = s.parties.map f) (p : PartyId) :
    t.party? p = (s.party? p).map f := by
  have hid : (fun q : Party => decide (q.id = p)) ∘ f = fun q => decide (q.id = p) := funext fun q => by simp [hf q]
  rw [State.party?, State.party?, h, List.find?_map, hid]

theorem wakeLine_party (s : State) (line : Nat) (p : PartyId) : (s.wakeLine line).party p = (s.party p).wokenBy line := by
  rw [State.party, State.party, State.party?_mapParties (Party.wokenBy_keepsId line) (wakeLine_parties s line) p]
  cases s.party? p <;> rfl

theorem wakeLine_party?_isSome (s : State) (line : Nat) (p : PartyId) :
    ((s.wakeLine line).party? p).isSome = (s.party? p).isSome := by
  rw [State.party?_mapParties (Party.wokenBy_keepsId line) (wakeLine_parties s line) p, Option.isSome_map]

/-- A party after a write at a home slice: as it was, or woken by the line. -/
theorem writeMem_party_cases (s : State) (cs : List Host.Cell) (p : PartyId) :
    (s.writeMem cs).party p = s.party p ∨ ∃ line, (s.writeMem cs).party p = (s.party p).wokenBy line := by
  cases cs with
  | nil => exact .inl rfl
  | cons c r => exact .inr ⟨c.1 / 128, wakeLine_party s (c.1 / 128) p⟩

theorem writeMem_party_of_awake {s : State} {p : PartyId} (cs : List Host.Cell)
    (h : ∀ l n w, (s.party p).status ≠ .halted l n w) : (s.writeMem cs).party p = s.party p := by
  rcases writeMem_party_cases s cs p with e | ⟨line, e⟩
  · exact e
  · rw [e, Party.wokenBy_of_awake line h]

theorem writeMem_party_woken (s : State) (cs : List Host.Cell) (p : PartyId) :
    ((s.writeMem cs).party p).woken = (s.party p).woken := by
  rcases writeMem_party_cases s cs p with e | ⟨line, e⟩
  · rw [e]
  · rw [e, Party.woken_wokenBy]

theorem writeMem_party?_isSome (s : State) (cs : List Host.Cell) (p : PartyId) :
    ((s.writeMem cs).party? p).isSome = (s.party? p).isSome := by
  cases cs with
  | nil => rfl
  | cons c r => exact wakeLine_party?_isSome s (c.1 / 128) p

/-! ## Home slices at which nothing waits -/

namespace HomesFree

variable {s : State}

theorem withRecords (h : HomesFree s) (rs : List PendingRec) : HomesFree { s with records := rs } :=
  ⟨h.tacks, h.sharers, h.held, h.asks, h.copies, h.accept⟩

theorem writeMem (h : HomesFree s) (cs : List Host.Cell) : HomesFree (s.writeMem cs) := by
  cases cs with
  | nil => exact h
  | cons c r => exact ⟨h.tacks, h.sharers, h.held, h.asks, h.copies, h.accept⟩

theorem waitsFor (h : HomesFree s) (src : WriteSource) : s.waitsFor src = false := by
  simp [State.waitsFor, State.waitsAny, h.asks, h.held]

theorem watched (h : HomesFree s) (line : Nat) : s.watched line = false := by simp [State.watched, h.tacks]

theorem lineFree (h : HomesFree s) (line : Nat) : s.lineFree line = true := by
  simp [State.lineFree, State.shared, h.sharers, h.held]

theorem invalidate (h : HomesFree s) (line : Nat) (keep : Option Nat) : s.invalidate line keep = s := by
  simp [State.invalidate, State.holders, h.copies]

/-- A write that needs no leaf is asked for and reaches its home slice. -/
theorem ask (h : HomesFree s) (unit : Nat) (op : HomeOp) (src : WriteSource) :
    s.ask ⟨unit, [], op, src⟩ = s.homeApply op src := by
  have htakes : s.takes ⟨unit, [], op, src⟩ true = true := by
    simp [State.takes, State.refusedWrite, h.accept, h.watched, h.asks]
  show (if s.takes ⟨unit, [], op, src⟩ true then s.homeApply op src else _) = _
  rw [if_pos htakes]

/-- A write that comes from no core and leaves no record changes memory at once. -/
theorem homeApply_write (h : HomesFree s) (cs : List Host.Cell) {src : WriteSource} (hrec : s.recordCore src = none)
    (hcore : s.coreOfSource src = none) :
    s.homeApply (.write cs) src = (s.writeMem cs).afterWrite (.write cs) src 0 none := by
  have hnow : s.homeNow (.write cs) = (s.writeMem cs, 0, none) := by
    rw [State.homeNow, h.invalidate]; rfl
  have happly : s.applyWrite (.write cs) src = (s.writeMem cs).afterWrite (.write cs) src 0 none := by
    simp [State.applyWrite, State.opBad, State.roomFor, hrec, hcore, hnow]
  simp [State.homeApply, h.tacks, h.lineFree, State.roomy, hrec, happly]

/-- A write of a fault record, which nothing follows. -/
theorem ask_record (h : HomesFree s) (cs : List Host.Cell) (queue : Option Nat) :
    s.ask ⟨0, [], .write cs, .record queue⟩ = s.writeMem cs := by
  rw [h.ask, h.homeApply_write cs rfl rfl]; rfl

end HomesFree

/-! ## Delivery of a record (R297, R298) -/

theorem FaultRec.length_toBytes (r : FaultRec) : r.toBytes.length = 64 := by simp [FaultRec.toBytes]

/-- The queue holds as many records as it may. -/
def State.queueFull (s : State) (a : Nat) : Bool :=
  decide (s.queueField a 0 4 ≤ (s.queueField a 8 8 + 2 ^ 64 - s.queueField a 16 8) % 2 ^ 64)

/-- A record has been delivered or counted. -/
def State.withoutRecord (s : State) (id : Nat) : State := { s with records := s.records.filter fun x => decide (x.id ≠ id) }

/-- So many writes of a record have been asked for. -/
def State.atStage (s : State) (id n : Nat) : State :=
  { s with records := updAll (fun x => decide (x.id = id)) (fun x => { x with stage := n }) s.records }

theorem writeMem_withoutRecord (s : State) (cs : List Host.Cell) (id : Nat) :
    (s.withoutRecord id).writeMem cs = (s.writeMem cs).withoutRecord id := by
  simp only [State.withoutRecord, writeMem_withRecords, writeMem_records]

theorem writeMem_atStage (s : State) (cs : List Host.Cell) (id n : Nat) :
    (s.atStage id n).writeMem cs = (s.writeMem cs).atStage id n := by
  simp only [State.atStage, writeMem_withRecords, writeMem_records]

theorem withoutRecord_atStage (s : State) (id n : Nat) : (s.atStage id n).withoutRecord id = s.withoutRecord id := by
  have hstage (l : List PendingRec) :
      (updAll (fun x => decide (x.id = id)) (fun x => { x with stage := n }) l).filter (fun x => decide (x.id ≠ id)) =
        l.filter fun x => decide (x.id ≠ id) := by
    induction l with
    | nil => rfl
    | cons x l ih => by_cases hx : x.id = id <;> simpa [updAll, hx] using ih
  simp only [State.withoutRecord, State.atStage, hstage]

theorem withoutRecord_party? (s : State) (id : Nat) (p : PartyId) : (s.withoutRecord id).party? p = s.party? p := rfl

theorem withoutRecord_party (s : State) (id : Nat) (p : PartyId) : (s.withoutRecord id).party p = s.party p := rfl

theorem HomesFree.withoutRecord {s : State} (h : HomesFree s) (id : Nat) : HomesFree (s.withoutRecord id) := h.withRecords _

theorem HomesFree.atStage {s : State} (h : HomesFree s) (id n : Nat) : HomesFree (s.atStage id n) := h.withRecords _

/-- A record's turn: it is the first of its unit, and no other of its queue is on its way. -/
theorem behindRecord_eq_false_iff (s : State) (r : PendingRec) (part : Option Nat) :
    s.behindRecord r part = false ↔ ((s.records.find? fun x => decide (x.unit = r.unit)).map (·.id)) = some r.id ∧
      ∀ x ∈ s.records, x.stage ≠ 0 → x.id ≠ r.id → (s.queueOf x).2 ≠ part := by
  simp [State.behindRecord]

/-- What the count of lost records becomes. -/
def State.lostCount (s : State) (a : Nat) : Nat := min (s.queueField a 24 4 + 1) (2 ^ 32 - 1)

/-- One attempt to deliver a record, by what stands in its way. -/
theorem exec_faultRecordDelivery {s : State} {r : PendingRec} (hr : s.records.find? (fun r => decide (r.id = s.args.x)) = some r) :
    let a := (s.queueOf r).1
    let part := (s.queueOf r).2
    exec .faultRecordDelivery s = .next
      (if s.behindRecord r part || s.waitsFor (.record part) then s
      else if decide (r.stage ≠ 0) || !s.queueFull a then s.deliver r a part (s.queueField a 0 4) (s.queueField a 8 8)
      else if r.waits then s
      else (s.withoutRecord r.id).ask ⟨0, [], .write (cellsFrom (a + 24) (toLe 4 (s.lostCount a))), .record part⟩) := by
  show execFaultRecordDelivery s = _
  rw [execFaultRecordDelivery, hr]
  rfl

/-! An attempt that changes nothing. -/

section Attempts

variable {s : State} {r : PendingRec} (hr : s.records.find? (fun r => decide (r.id = s.args.x)) = some r)
include hr

/-- A record whose turn has not come waits. -/
theorem delivery_awaits_turn (hbehind : s.behindRecord r (s.queueOf r).2 = true) : exec .faultRecordDelivery s = .next s := by
  rw [exec_faultRecordDelivery hr, hbehind, Bool.true_or, if_pos rfl]

/-- The record of a parked context, of a stopped copy or drain waits for room. -/
theorem delivery_awaits_room (h0 : r.stage = 0) (hfull : s.queueFull (s.queueOf r).1 = true) (hwaits : r.waits = true) :
    exec .faultRecordDelivery s = .next s := by
  simp [exec_faultRecordDelivery hr, h0, hfull, hwaits]

end Attempts

/-- The memory side of a delivery: the record's bytes, then the producer count. -/
def State.recordWritten (s : State) (r : PendingRec) (a cap prod : Nat) : State :=
  (s.writeMem (cellsFrom (a + 64 + 64 * (prod % cap)) r.body.toBytes)).writeMem (cellsFrom (a + 8) (toLe 8 (prod + 1)))

/-- The steps of a delivery: each follows when the write before it has been performed. -/
theorem deliver_steps (s : State) (r : PendingRec) (a : Nat) (part : Option Nat) (cap prod : Nat) :
    s.deliver r a part cap prod =
      let s1 := if r.stage = 0 then
          (s.atStage r.id 1).ask ⟨0, [], .write (cellsFrom (a + 64 + 64 * (prod % cap)) r.body.toBytes), .record part⟩
        else s
      if s1.waitsFor (.record part) then s1
      else
        let s2 := if r.stage ≤ 1 then (s1.atStage r.id 2).ask ⟨0, [], .write (cellsFrom (a + 8) (toLe 8 (prod + 1))), .record part⟩
          else s1
        if s2.waitsFor (.record part) then s2 else (s2.withoutRecord r.id).wakeFor part r := rfl

/-- A delivery none of whose steps waits. -/
theorem deliver_of_homesFree {s : State} (hf : HomesFree s) {r : PendingRec} (h0 : r.stage = 0) (a cap prod : Nat)
    (part : Option Nat) :
    s.deliver r a part cap prod = ((s.recordWritten r a cap prod).withoutRecord r.id).wakeFor part r := by
  have hput {t : State} (ht : HomesFree t) (n : Nat) (cs : List Host.Cell) :
      (t.atStage r.id n).ask ⟨0, [], .write cs, .record part⟩ = (t.writeMem cs).atStage r.id n := by
    rw [(ht.atStage r.id n).ask_record, writeMem_atStage]
  have hf1 := (hf.writeMem (cellsFrom (a + 64 + 64 * (prod % cap)) r.body.toBytes)).atStage r.id 1
  have hf2 := (hf1.writeMem (cellsFrom (a + 8) (toLe 8 (prod + 1)))).atStage r.id 2
  rw [deliver_steps]
  simp only [h0, if_true, Nat.zero_le, hput hf, hput hf1, hf1.waitsFor, hf2.waitsFor, Bool.false_eq_true, if_false,
    withoutRecord_atStage]
  rw [writeMem_atStage, withoutRecord_atStage, State.recordWritten]

/-! An attempt that goes through: its turn has come, no write of it has been asked for, and no home slice holds it back. -/

section Performed

variable {s : State} {r : PendingRec} (hr : s.records.find? (fun r => decide (r.id = s.args.x)) = some r) (hf : HomesFree s)
  (hturn : s.behindRecord r (s.queueOf r).2 = false) (h0 : r.stage = 0)
include hr hf hturn h0

theorem delivery_counts_lost (hfull : s.queueFull (s.queueOf r).1 = true) (hwaits : r.waits = false) :
    let a := (s.queueOf r).1
    exec .faultRecordDelivery s = .next ((s.writeMem (cellsFrom (a + 24) (toLe 4 (s.lostCount a)))).withoutRecord r.id) := by
  simp [exec_faultRecordDelivery hr, hturn, h0, hfull, hwaits, hf.waitsFor, (hf.withoutRecord r.id).ask_record,
    writeMem_withoutRecord]

theorem delivery_performed (hroom : s.queueFull (s.queueOf r).1 = false) :
    let a := (s.queueOf r).1
    let part := (s.queueOf r).2
    exec .faultRecordDelivery s =
      .next (((s.recordWritten r a (s.queueField a 0 4) (s.queueField a 8 8)).withoutRecord r.id).wakeFor part r) := by
  simp [exec_faultRecordDelivery hr, hturn, h0, hroom, hf.waitsFor, deliver_of_homesFree hf h0]

end Performed

/-- The memory after a delivery: the record in its slot of the ring, and the count behind it. -/
theorem recordWritten_mem (s : State) (r : PendingRec) (a cap prod : Nat) :
    (s.recordWritten r a cap prod).mem =
      writeBytes (writeBytes s.mem (a + 64 + 64 * (prod % cap)) r.body.toBytes) (a + 8) (toLe 8 (prod + 1)) := by
  simp only [State.recordWritten, writeMem_cellsFrom_mem]

theorem recordWritten_records (s : State) (r : PendingRec) (a cap prod : Nat) :
    (s.recordWritten r a cap prod).records = s.records := by
  rw [State.recordWritten, writeMem_records, writeMem_records]

theorem recordWritten_party_of_awake {s : State} {p : PartyId} (r : PendingRec) (a cap prod : Nat)
    (h : ∀ l n w, (s.party p).status ≠ .halted l n w) : (s.recordWritten r a cap prod).party p = s.party p := by
  have h1 := writeMem_party_of_awake (cellsFrom (a + 64 + 64 * (prod % cap)) r.body.toBytes) h
  exact (writeMem_party_of_awake _ (by rw [h1]; exact h)).trans h1

theorem recordWritten_party_woken (s : State) (r : PendingRec) (a cap prod : Nat) (p : PartyId) :
    ((s.recordWritten r a cap prod).party p).woken = (s.party p).woken := by
  rw [State.recordWritten, writeMem_party_woken, writeMem_party_woken]

theorem recordWritten_party?_isSome (s : State) (r : PendingRec) (a cap prod : Nat) (p : PartyId) :
    ((s.recordWritten r a cap prod).party? p).isSome = (s.party? p).isSome := by
  rw [State.recordWritten, writeMem_party?_isSome, writeMem_party?_isSome]

/-- What a wake leaves in the steward core's fault registers. -/
def Party.toldOf (q : Party) (r : PendingRec) : Party :=
  { q with
    faultinfo := r.body.identity ||| dw (r.body.cls.code * 2 ^ 56)
    faultaddr := r.body.addr
    faultaddr2 := r.body.addr2 }

theorem Party.toldOf_keepsId (r : PendingRec) : KeepsId (Party.toldOf · r) := fun _ => rfl

/-- The steward core that a wake goes to. -/
def PendingRec.steward (r : PendingRec) (part : Option Nat) : PartyId := .steward (r.die * 4 + part.getD 0 % 4)

theorem wakeFor_eq (s : State) (part : Option Nat) (r : PendingRec) :
    s.wakeFor part r = (s.updParty (r.steward part) Party.woken).updParty (r.steward part) (Party.toldOf · r) := rfl

theorem wakeFor_records (s : State) (part : Option Nat) (r : PendingRec) : (s.wakeFor part r).records = s.records := by
  rw [wakeFor_eq, State.updParty_records, State.updParty_records]

theorem wakeFor_mem (s : State) (part : Option Nat) (r : PendingRec) : (s.wakeFor part r).mem = s.mem := by
  rw [wakeFor_eq, State.updParty_mem, State.updParty_mem]

theorem wakeFor_party_other (s : State) (part : Option Nat) (r : PendingRec) {p : PartyId} (hp : p ≠ r.steward part) :
    (s.wakeFor part r).party p = s.party p := by
  rw [wakeFor_eq, State.party_updParty_other _ _ _ _ (Party.toldOf_keepsId r) hp, State.party_updParty_other _ _ _ _ Party.woken_keepsId hp]

theorem wakeFor_party_steward {s : State} (part : Option Nat) (r : PendingRec) (h : (s.party? (r.steward part)).isSome) :
    (s.wakeFor part r).party (r.steward part) = (s.party (r.steward part)).woken.toldOf r := by
  have h1 : ((s.updParty (r.steward part) Party.woken).party? (r.steward part)).isSome := by
    rw [State.party?_updParty _ _ _ _ Party.woken_keepsId, Option.isSome_map]; exact h
  rw [wakeFor_eq, State.party_updParty_self _ _ _ (Party.toldOf_keepsId r) h1,
    State.party_updParty_self _ _ _ Party.woken_keepsId h]

/-- R298. A record that its queue has no room for is dropped and counted in its header; who halts on that line is woken. -/
theorem record_lost (s : State) (id a : Nat) :
    let t := (s.writeMem (cellsFrom (a + 24) (toLe 4 (s.lostCount a)))).withoutRecord id
    t.records = s.records.filter (fun x => decide (x.id ≠ id)) ∧
    (∀ p, (∀ l n w, (s.party p).status ≠ .halted l n w) → t.party p = s.party p) ∧
    (∀ b, b < a + 24 ∨ a + 28 ≤ b → cellGet (w := 8) t.mem b = cellGet (w := 8) s.mem b) ∧
    le (readBytes t.mem (a + 24) 4) = min (s.queueField a 24 4 + 1) (2 ^ 32 - 1) := by
  intro t
  have hmem : t.mem = writeBytes s.mem (a + 24) (toLe 4 (s.lostCount a)) := writeMem_cellsFrom_mem ..
  have hcount := readBytes_writeBytes_same s.mem (a + 24) (toLe 4 (s.lostCount a))
  rw [length_toLe] at hcount
  refine ⟨congrArg _ (writeMem_records ..), fun p hp => writeMem_party_of_awake _ hp, fun b hb => ?_, ?_⟩
  · rw [hmem]
    exact cellGet_writeBytes_outside _ _ _ _ (by rw [length_toLe]; omega)
  · rw [hmem, hcount, le_toLe, State.lostCount, Nat.mod_eq_of_lt (by omega)]

/-- R297, R298. A record that is delivered stands in its slot, the producer count has risen, and the steward core holds the fault. -/
theorem record_delivered (s : State) (r : PendingRec) (a cap prod : Nat) (part : Option Nat) :
    let t := ((s.recordWritten r a cap prod).withoutRecord r.id).wakeFor part r
    t.records = s.records.filter (fun x => decide (x.id ≠ r.id)) ∧
    readBytes t.mem (a + 64 + 64 * (prod % cap)) 64 = r.body.toBytes ∧
    le (readBytes t.mem (a + 8) 8) = (prod + 1) % 2 ^ 64 ∧
    (∀ b, (b < a + 8 ∨ a + 16 ≤ b) → (b < a + 64 + 64 * (prod % cap) ∨ a + 128 + 64 * (prod % cap) ≤ b) →
      cellGet (w := 8) t.mem b = cellGet (w := 8) s.mem b) ∧
    (∀ p, p ≠ r.steward part → (∀ l n w, (s.party p).status ≠ .halted l n w) → t.party p = s.party p) ∧
    ((s.party? (r.steward part)).isSome = true → t.party (r.steward part) = (s.party (r.steward part)).woken.toldOf r) := by
  intro t
  have hmem : t.mem = writeBytes (writeBytes s.mem (a + 64 + 64 * (prod % cap)) r.body.toBytes) (a + 8) (toLe 8 (prod + 1)) :=
    (wakeFor_mem ..).trans (recordWritten_mem s r a cap prod)
  have hrecord := readBytes_writeBytes_same s.mem (a + 64 + 64 * (prod % cap)) r.body.toBytes
  have hcount := readBytes_writeBytes_same (writeBytes s.mem (a + 64 + 64 * (prod % cap)) r.body.toBytes) (a + 8) (toLe 8 (prod + 1))
  have hlen := r.body.length_toBytes
  have hlen8 := length_toLe 8 (prod + 1)
  rw [hlen] at hrecord
  rw [hlen8] at hcount
  refine ⟨?_, ?_, ?_, fun b hb hb' => ?_, fun p hp hawake => ?_, fun hsome => ?_⟩
  · rw [wakeFor_records, State.withoutRecord, recordWritten_records]
  · rw [hmem, readBytes_writeBytes_outside _ _ _ _ _ (by omega), hrecord]
  · rw [hmem, hcount, le_toLe, show 256 ^ 8 = 2 ^ 64 by norm_num]
  · rw [hmem, cellGet_writeBytes_outside _ _ _ _ (by omega), cellGet_writeBytes_outside _ _ _ _ (by omega)]
  · rw [wakeFor_party_other _ part r hp, withoutRecord_party, recordWritten_party_of_awake r a cap prod hawake]
  · have hthere : (((s.recordWritten r a cap prod).withoutRecord r.id).party? (r.steward part)).isSome := by
      rw [withoutRecord_party?, recordWritten_party?_isSome, hsome]
    rw [wakeFor_party_steward part r hthere, withoutRecord_party, recordWritten_party_woken]

/-! ## Errors in storage (R27, R302) -/

theorem mem_addNew_self {α : Type} [DecidableEq α] (x : α) (l : List α) : x ∈ addNew x l := by
  unfold addNew
  split
  · assumption
  · simp

theorem gives_uncorrectableError {s : State} {e : ErrSite} (hs : s.args.site = e) {P : State → Prop} (h : P (s.struck e)) :
    Gives .uncorrectableError s P := ⟨_, rfl, hs ▸ h⟩

/-- An error is noted where it strikes. -/
theorem gives_error_noted {s : State} {e : ErrSite} (hs : s.args.site = e)
    (h : s.struck e = { s with errors := addNew e s.errors }) :
    Gives .uncorrectableError s fun t => e ∈ t.errors ∧ { t with errors := s.errors } = s :=
  gives_uncorrectableError hs (by rw [h]; exact ⟨mem_addNew_self e s.errors, rfl⟩)

/-! ## One core is updated -/

theorem State.core_updCore (s : State) (c i : Nat) (f : Core → Core) :
    (s.updCore c f).core i = if i = c ∧ c < s.cores.length then f (s.core i) else s.core i := by
  simp only [State.core, State.updCore, List.getD_eq_getElem?_getD, List.getElem?_modify]
  by_cases hi : i = c
  · subst hi
    by_cases hl : i < s.cores.length <;> simp [hl]
  · simp [hi, Ne.symm hi]

theorem State.updCore_of_fixed {s : State} {c : Nat} {f : Core → Core} (h : f (s.core c) = s.core c) : s.updCore c f = s := by
  have hcores : s.cores.modify c f = s.cores := by
    refine List.ext_getElem? fun i => ?_
    rw [List.getElem?_modify]
    by_cases hi : c = i
    · subst hi
      cases hk : s.cores[c]? with
      | none => rfl
      | some k =>
        rw [State.core, List.getD_eq_getElem?_getD, hk] at h
        simpa using h
    · simp [hi]
  rw [State.updCore, hcores]

/-- R302. A clean copy that an error strikes is dropped. -/
theorem struck_clean_dropped (s : State) (c l : Nat) : ∀ k ∈ ((s.struck (.clean c l)).core c).clean, k.line ≠ l := by
  have hcore : (s.struck (.clean c l)).core c =
      (s.updCore c fun k => { k with clean := k.clean.filter fun x => decide (x.line ≠ l) }).core c := rfl
  rw [hcore, State.core_updCore]
  by_cases hc : c < s.cores.length
  · simp [hc]
  · simp [hc, State.core, Core.blank]

/-! ## A core that fails (R304) -/

section CoreFailure

variable {s : State} {c : Nat}

/-- A core without dirty bytes at any level has nothing to drain. -/
theorem dirtyLines_of_clean (hdirty : (s.core c).dirty = []) (hcaches : s.caches = []) (sel : Nat → Nat → Bool) :
    s.dirtyLines c sel = [] := by
  simp [State.dirtyLines, hdirty, hcaches, coreLines]

theorem flushCore_of_clean (hdirty : (s.core c).dirty = []) (hcaches : s.caches = []) : s.flushCore c = s := by
  have hdrain : s.drainCore c none = s := by
    rw [State.drainCore, State.drainOwn, dirtyLines_of_clean hdirty hcaches, List.foldl_nil]
  rw [State.flushCore, hdrain, dirtyLines_of_clean hdirty hcaches, List.foldl_nil]

theorem settleLeaving_of_none_leaves (h : ∀ r ∈ s.regions, r.leaving = false) : s.settleLeaving = s := by
  have hnone (f : Region → Bool) : (s.regions.filter fun r => r.leaving && f r) = [] :=
    List.filter_eq_nil_iff.2 fun r hr => by simp [h r hr]
  simp only [State.settleLeaving, Bool.and_assoc, hnone, List.foldl_nil]

/-- A core none of whose contributions is on its way loses none. -/
theorem loseReturned_of_none (h : ∀ k ∈ s.contributions, k.core ≠ c) : s.loseReturned c = s := by
  have hreturned : (s.contributions.filter fun x => x.returned && decide (x.core = c)) = [] :=
    List.filter_eq_nil_iff.2 fun k hk => by simp [h k hk]
  have hkept : updAll (fun x => decide (x.core = c)) (fun x => { x with core := Config.allCores }) s.contributions =
      s.contributions :=
    (List.map_congr_left fun k hk => if_neg (by simp [h k hk])).trans (List.map_id _)
  simp only [State.loseReturned, hreturned, List.foldl_nil]
  rw [hkept]

/-- The errors of the shadow of a core out of service go with it. -/
theorem loseShadows_of_none (h : ∀ w ∈ s.workgroups, w.core ≠ c) (reason : Nat) :
    ∃ es, s.loseShadows c reason = { s with errors := es } := by
  have hshadowed : (s.workgroups.filter fun w => decide (w.core = c) && w.shadowed) = [] :=
    List.filter_eq_nil_iff.2 fun w hw => by simp [h w hw]
  rw [State.loseShadows, hshadowed]
  exact ⟨_, rfl⟩

/-- A core with no workgroup, no dirty byte and no contribution on its way is taken out of service: nothing else changes but what
is kept of it elsewhere. -/
theorem failCore_of_idle (hwork : ∀ w ∈ s.workgroups, w.core ≠ c) (hdirty : (s.core c).dirty = []) (hcaches : s.caches = [])
    (hsent : ∀ k ∈ s.contributions, k.core ≠ c) (hleave : ∀ r ∈ s.regions, r.leaving = false) :
    ∃ tl tx es, s.failCore c 1 = { s.updCore c fun _ => { Core.blank with failed := true } with
      dirtyHolders := s.dirtyHolders.filter fun h => decide (h.2 ≠ c), tlb := tl, text := tx, errors := es } := by
  have hresident : (s.workgroups.filter fun w => decide (w.core = c) && w.onCore) = [] :=
    List.filter_eq_nil_iff.2 fun w hw => by simp [hwork w hw]
  obtain ⟨es, hes⟩ := loseShadows_of_none hwork 1
  simp only [State.failCore, flushCore_of_clean hdirty hcaches, hresident, List.foldl_nil, loseReturned_of_none hsent,
    settleLeaving_of_none_leaves hleave, hes]
  exact ⟨_, _, _, rfl⟩

/-- A core without dirty bytes that no drain waits on loses none. -/
theorem loseDirty_of_clean (hdirty : (s.core c).dirty = []) (hdrains : s.drains = []) : s.loseDirty c = s := by
  have hcore : s.updCore c (fun k => { k with dirty := [] }) = s := State.updCore_of_fixed (by rw [← hdirty])
  simp only [State.loseDirty, hdrains, List.filter_nil, List.foldl_nil, hcore]

theorem coreDies_of_failed (hfailed : (s.core c).failed = true) (lose : Bool) : s.coreDies c lose = s := by
  simp [State.coreDies, hfailed]

theorem coreDies_of_idle (hc : c < 128) (hgood : (s.core c).failed = false) (hdirty : (s.core c).dirty = []) (hdrains : s.drains = [])
    (lose : Bool) : s.coreDies c lose = s.failCore c 1 := by
  simp [State.coreDies, hc, hgood, loseDirty_of_clean hdirty hdrains]

end CoreFailure

/-- Both ways in which a core fails by itself. -/
theorem exec_coreFails (s : State) : ∀ i ∈ ([.coreFailure, .unitResponseTimeout] : List Instr),
    exec i s = .next (s.coreDies s.args.x s.args.flag) := by
  intro i hi
  obtain rfl | rfl : i = .coreFailure ∨ i = .unitResponseTimeout := by simpa using hi
  · rfl
  · rfl

/-! ## Illegal encodings (R5) -/

section IllegalEncoding

variable {s : State} {r : Run}

theorem illegalEncoding_scalar (hflag : s.args.flag = false) : exec .illegalEncoding s = .next (s.trap .illegal) := by
  show execIllegalEncoding s = _
  rw [execIllegalEncoding, hflag]

theorem illegalEncoding_lane (hflag : s.args.flag = true) (hrun : s.me.run = some r) (hreplay : r.replay ≠ some 0) :
    exec .illegalEncoding s = .next (s.laneFault .illegal r .laneIssue 0 0 0 false) := by
  show execIllegalEncoding s = _
  rw [execIllegalEncoding, hflag, hrun]
  exact congrArg _ (if_neg hreplay)

theorem illegalEncoding_skipped (hflag : s.args.flag = true) (hrun : s.me.run = some r) (hreplay : r.replay = some 0) :
    exec .illegalEncoding s = .next s.skipLane := by
  show execIllegalEncoding s = _
  rw [execIllegalEncoding, hflag, hrun]
  exact congrArg _ (if_pos hreplay)

end IllegalEncoding

/-- A run that passes over a lane instruction before its last stands at the next one, where nothing is replayed. -/
theorem skipLane_eq_upd (s : State) : ∃ f, KeepsId f ∧ s.skipLane = s.upd f ∧ ∀ q r, q.run = some r → 1 < r.left →
    ∃ r1 : Run, f q = { q with run := some r1 } ∧ r1.pc = (r.pc + s.args.x) % 2 ^ 64 ∧ r1.left = r.left - 1 ∧ r1.replay = none := by
  refine ⟨_, fun q => ?_, rfl, fun q r hr hl => ?_⟩
  · dsimp only
    split
    · rfl
    · split <;> rfl
  · have hleft : r.left - 1 ≠ 0 := by omega
    simp only [hr, hleft, if_false]
    exact ⟨_, rfl, rfl, rfl, rfl⟩

/-- The record of a fault at issue names the lane instruction. -/
theorem laneFault_laneAddr (s : State) (cls : FaultClass) (r : Run) (u : FaultUnit) (addr addr2 : Nat) (mask : Word) (b : Bool) :
    ((s.laneFault cls r u addr addr2 mask b).records.getLast?.map fun x => x.body.laneAddr) = some (dw r.pc) := by
  have hrec : ∃ x : PendingRec, (s.laneFault cls r u addr addr2 mask b).records = s.records ++ [x] ∧ x.body.laneAddr = dw r.pc :=
    ⟨_, rfl, rfl⟩
  obtain ⟨x, hx, haddr⟩ := hrec
  rw [hx, List.getLast?_concat, Option.map_some, haddr]

/-- Settles O53, clause by clause: records by whether their turn and room have come, errors by where they strike, a failing core
by what is left of it elsewhere, illegal encodings by whether a lane instruction is passed over. -/
theorem faultsAndErrors : Obligations.FaultsAndErrors := by
  refine ⟨fun s r hr => ?records, fun s => ⟨_, rfl, mem_addNew_self _ _, rfl⟩, fun s => ?errors, fun s hx hlen i hi => ?failures,
    fun s r h => ?illegal⟩
  case records =>
    intro a part cap prod full rest turn steward
    have hturn : turn ↔ s.behindRecord r part = false := (behindRecord_eq_false_iff s r part).symm
    have hfull : full ↔ s.queueFull a = true := decide_eq_true_iff.symm
    refine ⟨fun hnot => ?_, fun _ h0 hno hwaits => ?_, fun hf ht h0 => ⟨fun hno hwaits => ?_, fun hroom => ?_⟩⟩
    · rw [hturn, Bool.not_eq_false] at hnot
      exact ⟨s, delivery_awaits_turn hr hnot, rfl⟩
    · exact ⟨s, delivery_awaits_room hr h0 (hfull.1 hno) hwaits, rfl⟩
    · exact ⟨_, delivery_counts_lost hr hf (hturn.1 ht) h0 (hfull.1 hno) hwaits, record_lost s r.id a⟩
    · rw [hfull, Bool.not_eq_true] at hroom
      refine ⟨_, delivery_performed hr hf (hturn.1 ht) h0 hroom, ?_⟩
      obtain ⟨hrecords, hbody, hcount, hmem, hothers, htold⟩ := record_delivered s r a cap prod part
      have hsteward : steward = r.steward part := rfl
      refine ⟨hrecords, hbody, hcount, hmem, hothers, fun hsome => ?_⟩
      rw [hsteward, htold hsome]
      exact ⟨rfl, rfl, rfl, Party.woken_pc _, Party.woken_status _⟩
  case errors =>
    refine ⟨fun pa hs hpa => ?mem, fun p n hs hp h0 h64 => ?sreg, fun c o hs hc => ⟨fun ho => ?written, fun ho => ?cleared⟩,
      fun c o hs hc => ⟨fun ho => ?scaleWritten, fun ho => ?scaleCleared⟩, fun c l hs => ?clean⟩
    case mem => exact gives_error_noted hs (if_pos hpa)
    case sreg => exact gives_error_noted hs (if_pos ⟨hp, h0, h64⟩)
    case written => exact gives_error_noted hs (if_pos ⟨hc, ho⟩)
    case cleared => exact gives_uncorrectableError hs (if_neg fun h => ho h.2)
    case scaleWritten => exact gives_error_noted hs (if_pos ⟨hc, ho⟩)
    case scaleCleared => exact gives_uncorrectableError hs (if_neg fun h => ho h.2)
    case clean => exact gives_uncorrectableError hs ⟨rfl, struck_clean_dropped s c l⟩
  case failures =>
    have hexec := exec_coreFails s i hi
    refine ⟨fun hfailed => ⟨s, ?_, rfl⟩, fun hgood hwork hdirty hcaches hdrains hsent hleave => ⟨_, hexec, ?_⟩⟩
    · rw [hexec, coreDies_of_failed hfailed]
    · obtain ⟨tl, tx, es, ht⟩ := failCore_of_idle hwork hdirty hcaches hsent hleave
      rw [coreDies_of_idle hx hgood hdirty hdrains, ht]
      refine ⟨?_, rfl, rfl, rfl, rfl, fun h hh => by simpa using (List.mem_filter.1 hh).2⟩
      exact (State.core_updCore s _ _ _).trans (if_pos ⟨rfl, hlen⟩)
  case illegal =>
    refine ⟨fun hflag => ?scalar, fun hflag hrun => ?lane, fun hflag hrun hreplay hleft => ?skipped⟩
    case scalar => exact ⟨_, illegalEncoding_scalar hflag, trapped_trap h _⟩
    case lane =>
      have hissued : r.replay ≠ some 0 := by simp [hrun.first]
      exact ⟨_, illegalEncoding_lane hflag hrun.run hissued, trapped_fault h _ _ _, laneFault_laneAddr ..⟩
    case skipped =>
      obtain ⟨f, hid, hskip, hf⟩ := skipLane_eq_upd s
      obtain ⟨r1, hr1, hpc, hl, hreplayed⟩ := hf s.me r hrun hleft
      have hme : (s.upd f).me = { s.me with run := some r1 } := (State.me_upd h f hid).trans hr1
      have hexec := (illegalEncoding_skipped hflag hrun hreplay).trans (congrArg _ hskip)
      refine ⟨_, hexec, ?_, by rw [hme], rfl, fun p hp => State.party_upd_other s f hid hp⟩
      rw [hme]
      simp [hpc, hl, hreplayed]

end Sys2Proof.Machine
end

section
/-!
SUPPORT. Parties by name: one that is found, updated, or parked on a fault.
-/

namespace Sys2Proof.Machine

/-! ## A party that is found -/

theorem State.party_of_party? {s : State} {p : PartyId} {q : Party} (h : s.party? p = some q) : s.party p = q := by
  rw [State.party, h, Option.getD_some]

theorem State.party_updParty_of_party? {s : State} {p : PartyId} {q : Party} {f : Party → Party} (h : s.party? p = some q)
    (hf : KeepsId f) : (s.updParty p f).party p = f q := by
  rw [State.party_updParty_self s p f hf (by rw [h]; rfl), State.party_of_party? h]

/-- A party that takes a fault is parked on it. -/
theorem fault_parks {s : State} {p : PartyId} {q : Party} (h : s.party? p = some q) (c : FaultClass) (u : FaultUnit) (i : FaultInfo) :
    ((s.fault p c u i).party p).status = .parked ∧ ((s.fault p c u i).party p).park.map (·.cls) = some c := by
  have hp : (s.fault p c u i).party p = (q.parkOn c u s.clk).keepRecord s c i :=
    State.party_updParty_of_party? h (keepRecord_keepsId s c u i s.clk)
  rw [hp]
  unfold Party.keepRecord
  split <;> exact ⟨rfl, rfl⟩

/-- The last record after a fault is that fault's. -/
theorem fault_records_getLast? (s : State) (p : PartyId) (c : FaultClass) (u : FaultUnit) (i : FaultInfo) :
    (s.fault p c u i).records.getLast? = some ⟨s.fresh, p.queue, dieOfCore (s.party p).core, true, 0, s.record (s.party p) c i false⟩ :=
  List.getLast?_concat ..

end Sys2Proof.Machine
end

section
/-!
PROOFS. The start of a run (R12, R13, R20, R47, R53, R240).
-/

namespace Sys2Proof.Machine

/-! ## RUN_START (R12, R47, R53) -/

/-- A party whose head run has started as its header says (R12, R20, R222). -/
def Party.startRun (q : Party) (e : QEntry) (rest : List QEntry) (h : RunHeader) : Party :=
  { q with
    queue := rest
    run := some ⟨e.addr, (e.addr + 12) % 2 ^ 64, h.length, e.snap, if h.flagA = 15 then none else some h.flagA.toNat,
      if h.flagB = 15 then none else some h.flagB.toNat, h.checkpoint, [], none, e.queuedAt⟩
    tags := q.tags.filter fun t => !h.wait.toNat.testBit t.2
    paused := false
    readySince := none
    aged := 0 }

/-- What the fault of a header that is none reports: where it lies. -/
def badHeader (e : QEntry) : FaultInfo := { FaultInfo.plain with laneAddr := some (dw e.addr) }

section RunStart

variable {s s1 : State} {q : Party} {e : QEntry} {rest : List QEntry} {ws : List Word}
  (hq : s.party? s.args.p = some q) (hqueue : q.queue = e :: rest)
include hq hqueue

theorem runStart_awaits_turn (h : s.runReady q = false ∨ s.holds .lanes q.core = true) : exec .runStart s = .next s := by
  show execRunStart s = _
  simp only [execRunStart, State.party_of_party? hq, hqueue]
  rw [if_pos (by simpa using h)]

variable (hready : s.runReady q = true) (hheld : s.holds .lanes q.core = false) (hwords : s.laneWords q e.addr 3 = (s1, .ok ws))
include hready hheld hwords

variable {x : DecodeError} (hx : decodeHeader (join96 ws) = .error x) in
include hx in
theorem runStart_malformed : exec .runStart s =
    .next (if s.laneFree q && !q.midway then s1.fault q.id .illegal .header (badHeader e) else s) := by
  show execRunStart s = _
  simp only [execRunStart, State.party_of_party? hq, hqueue, hready, hheld, hwords, hx, Bool.not_true, Bool.or_false,
    Bool.false_eq_true, if_false, badHeader, FaultInfo.plain]

variable {h : RunHeader} (hh : decodeHeader (join96 ws) = .ok h) in
include hh in
theorem runStart_header : exec .runStart s =
    .next (if !q.flagsClear h.wait.toNat || !s.laneFree q then s else s1.updParty q.id fun q => q.startRun e rest h) := by
  show execRunStart s = _
  simp only [execRunStart, State.party_of_party? hq, hqueue, hready, hheld, hwords, hh, Bool.not_true, Bool.or_false,
    Bool.false_eq_true, if_false, Party.startRun]

end RunStart

/-- Settles O50, by whether the group's turn has come, and by what its header says. -/
theorem runStarts : Obligations.RunStarts := by
  intro s q e rest hq hqueue
  refine ⟨fun h => ⟨s, runStart_awaits_turn hq hqueue h, rfl⟩, fun hready hheld s1 ws hwords => ?_⟩
  have hid : q.id = s.args.p := party?_id hq
  refine ⟨fun x hx hwait => ?malformedWaits, fun x hx hfree hmid h1 => ?malformed, fun h hh => ⟨fun hwait => ?waits,
    fun hflags hfree h1 => ?starts⟩⟩
  case malformedWaits =>
    refine ⟨s, (runStart_malformed hq hqueue hready hheld hwords hx).trans ?_, rfl⟩
    obtain h | h := hwait <;> simp [h]
  case malformed =>
    have hexec := runStart_malformed hq hqueue hready hheld hwords hx
    rw [hfree, hmid, hid, if_pos (by decide)] at hexec
    obtain ⟨hstatus, hpark⟩ := fault_parks h1 .illegal .header (badHeader e)
    refine ⟨_, hexec, hstatus, hpark, ?_, rfl⟩
    rw [fault_records_getLast?]
    rfl
  case waits =>
    refine ⟨s, (runStart_header hq hqueue hready hheld hwords hh).trans ?_, rfl⟩
    rw [if_pos (by simpa using hwait)]
  case starts =>
    have hexec := runStart_header hq hqueue hready hheld hwords hh
    rw [hfree, hflags, hid, if_neg (by decide)] at hexec
    have hkeeps : KeepsId fun q => q.startRun e rest h := fun _ => rfl
    exact ⟨_, hexec, State.party_updParty_of_party? h1 hkeeps, fun p hp => State.party_updParty_other s1 _ p _ hkeeps hp, rfl⟩

end Sys2Proof.Machine
end

section
/-!
PROOFS. Privilege, TRAP, HALT and its ends, TLBINV (R34, R44, R286, R288, R289, R332).
-/

namespace Sys2Proof.Machine

/-! ## One party is updated twice -/

theorem State.updParty_updParty (s : State) (p : PartyId) {f : Party → Party} (g : Party → Party) (hf : KeepsId f) :
    (s.updParty p f).updParty p g = s.updParty p (g ∘ f) := by
  have h : (s.parties.map fun q => if q.id = p then f q else q).map (fun q => if q.id = p then g q else q) =
      s.parties.map fun q => if q.id = p then (g ∘ f) q else q := by
    rw [List.map_map]
    refine List.map_congr_left fun q _ => ?_
    by_cases hq : q.id = p <;> simp [hq, hf q]
  simp only [State.updParty, h]

/-! ## Privilege (R34, R44) -/

/-- The instructions that only a steward core may execute. -/
def stewardInstrs (d a b : BitVec 6) : List Instr :=
  [.eret d a b, .halt a, .tlbinv a b, .bankcfg d a b, .vcset d a, .darn d a, .corerst d a, .pswap d a b] ++
    [.measureExt d a b, .measureRead a b, .measureClose b, .measureQuote d a b, .measureKey a] ++
    [.partitionRecord d a, .peerEntries d a, .reductionSlots d a, .ethernetUp d a, .ethernetDown d a, .ethernetTransmit d a] ++
    [.postReceiveBuffer d a, .fabricPortUp d a, .fabricPortDown d a, .fabricPortQuery d a]

theorem exec_stewardInstr (s : State) (d a b : BitVec 6) : ∀ i ∈ stewardInstrs d a b, ∃ k, exec i s = s.stewardOnly k := by
  simp only [stewardInstrs, List.forall_mem_append, List.forall_mem_cons, List.not_mem_nil, IsEmpty.forall_iff, implies_true, and_true]
  and_intros
  all_goals exact ⟨_, rfl⟩

theorem stewardOnly_group {s : State} (h : s.actor.isSteward = false) (k : Out) : s.stewardOnly k = .next (s.trap .privilege) :=
  if_neg (by simp [h])

theorem stewardOnly_steward {s : State} (h : s.actor.isSteward = true) (k : Out) : s.stewardOnly k = k := if_pos h

/-! ## TRAP (R286) -/

theorem exec_trap {s : State} {a : BitVec 6} (h : Ready s [] [a]) : exec (.trap a) s = .next (s.trapAt .trap (s.rd a).toNat) :=
  scalar_ready h fun s => s.trapAt .trap (s.rd a).toNat

/-! ## HALT (R288, R332) -/

section Halt

variable {s s1 : State} {a : BitVec 6} (hsteward : s.actor.isSteward = true) (h : Ready s [] [a])
include hsteward h

theorem exec_halt_fault {c : FaultClass} {a2 : Nat} {r : Bool}
    (hcheck : s.checkAccess s.me (s.rd a).toNat 8 .read true false = (s1, .fault c a2 r)) :
    exec (.halt a) s = .next (s1.accessFault (s.rd a).toNat c a2 r) := by
  show execHalt a s = _
  rw [execHalt, stewardOnly_steward hsteward, scalar_ready h]
  simp only [hcheck]

theorem exec_halt_ok {x : Xlat} {p : Piece}
    (hcheck : s.checkAccess s.me (s.rd a).toNat 8 .read true false = (s1, .ok x)) (hp : x.pieces.head? = some p) :
    exec (.halt a) s = .next (s1.upd fun q => { q with status := .halted (p.pa / 128) s.clk false, pc := q.pc + 4 }) := by
  show execHalt a s = _
  rw [execHalt, stewardOnly_steward hsteward, scalar_ready h]
  simp only [hcheck, hp]
  exact congrArg _ (State.updParty_updParty s1 s1.actor _ fun _ => rfl)

end Halt

/-- What a wake does to a steward core whose start word holds `bs`. -/
def Party.wakeUp (bs : List Byte) (q : Party) : Party :=
  match q.status with
  | .halted _ _ true => { q with status := .running }
  | .romLoop => if le bs = 0 then q else { q with status := .running, pc := dw (le bs) }
  | _ => q

theorem Party.wakeUp_keepsId (bs : List Byte) : KeepsId (Party.wakeUp bs) := by
  intro q
  unfold Party.wakeUp
  split
  · rfl
  · split <;> rfl
  · rfl

theorem Party.wakeUp_of_woken {q : Party} (bs : List Byte) {l m : Nat} (h : q.status = .halted l m true) :
    q.wakeUp bs = { q with status := .running } := by
  unfold Party.wakeUp
  rw [h]

theorem Party.wakeUp_of_romLoop {q : Party} (bs : List Byte) (h : q.status = .romLoop) :
    q.wakeUp bs = if le bs = 0 then q else { q with status := .running, pc := BitVec.ofNat 64 (le bs) } := by
  unfold Party.wakeUp
  rw [h]
  rfl

theorem Party.wakeUp_of_other {q : Party} (bs : List Byte) (h : ∀ l m, q.status ≠ .halted l m true) (hrom : q.status ≠ .romLoop) :
    q.wakeUp bs = q := by
  unfold Party.wakeUp
  split
  · next l m hs => exact absurd hs (h l m)
  · next hs => exact absurd hs hrom
  · rfl

/-- The boot status is all that the start of the last steward core changes. -/
theorem nimbrelStarted_eq (s : State) : s.nimbrelStarted =
    { s with
      bootStatus :=
        if s.bootStatus = 0x02 ∧ s.kfmap.getLsbD 0 = true ∧ (s.parties.all fun x => decide (x.status ≠ .romLoop)) = true then 0x03
        else s.bootStatus } := by
  have hany : (!(s.parties.any fun q => decide (q.status = .romLoop))) = s.parties.all fun x => decide (x.status ≠ .romLoop) := by
    rw [List.not_any_eq_all_not]
    simp only [decide_not]
  unfold State.nimbrelStarted
  rw [hany]
  split <;> rfl

theorem exec_haltWake {s : State} {n : Nat} {bs : List Byte} (hp : s.args.p = .steward n)
    (hread : s.homeRead (Config.startWords + 8 * n) 8 = (s, bs)) :
    exec .haltWake s = .next (if s.args.flag then s.nimbrelRefused else (s.updParty s.args.p (Party.wakeUp bs)).nimbrelStarted) := by
  show execHaltWake s = _
  simp only [execHaltWake, hp, hread]
  rfl

/-- What 1 ms does to a party that has halted. -/
def Party.haltEnds (clk : Nat) (q : Party) : Party :=
  match q.status with
  | .halted _ t _ => if t + Config.ms1 ≤ clk then { q with status := .running } else q
  | _ => q

theorem Party.haltEnds_keepsId (clk : Nat) : KeepsId (Party.haltEnds clk) := by
  intro q
  unfold Party.haltEnds
  split
  · split <;> rfl
  · rfl

theorem Party.haltEnds_of_halted {q : Party} (clk : Nat) {l m : Nat} {w : Bool} (h : q.status = .halted l m w) :
    q.haltEnds clk = if m + 4000000 ≤ clk then { q with status := .running } else q := by
  unfold Party.haltEnds
  rw [h]
  rfl

theorem Party.haltEnds_of_other {q : Party} (clk : Nat) (h : ∀ l m w, q.status ≠ .halted l m w) : q.haltEnds clk = q := by
  unfold Party.haltEnds
  split
  · next l m w hs => exact absurd hs (h l m w)
  · rfl

theorem exec_haltTimeout (s : State) : exec .haltTimeout s = .next (s.updParty s.args.p (Party.haltEnds s.clk)) := rfl

/-! ## TLBINV (R289) -/

theorem settleWrites_of_nothing_held {s : State} (htacks : s.tacks = []) (hheld : s.held = []) : s.settleWrites = s := by
  have hpush : s.pushHeads = s := by rw [State.pushHeads, hheld]; rfl
  have happ : s.applicable = none := by rw [State.applicable, hheld]; rfl
  rw [State.settleWrites, State.settleFuel, State.settleHeld]
  simp only [hpush, htacks, happ, List.find?_nil]

theorem breakTacks_of_nothing_held {s : State} (f : Tack → Bool) (htacks : s.tacks = []) (hheld : s.held = []) :
    s.breakTacks f = s := by
  rw [State.breakTacks, htacks]
  exact settleWrites_of_nothing_held htacks hheld

theorem drainCore_of_drained {s : State} (h : Drained s) (core : Nat) : s.drainCore core none = s := by
  obtain ⟨hcaches, hdirty⟩ := h
  rw [State.drainCore, State.drainOwn, dirtyLines_of_clean (hdirty core) hcaches, List.foldl_nil]

theorem dirtyLeft_of_drained {s : State} (h : Drained s) (core : Nat) (sel : Nat → Nat → Bool) : s.dirtyLeft core sel = false := by
  obtain ⟨hcaches, hdirty⟩ := h
  simp [State.dirtyLeft, hdirty core, hcaches]

/-- Nothing holds a DEVICE release back where no byte is dirty. -/
theorem afterRelease_of_drained {s : State} (h : Drained s) (core : Nat) (k : State → State) :
    s.afterRelease core .device k = k (s.bumpSeq core) := by
  have hdrains : s.releaseDrains core .device true = s := drainCore_of_drained h core
  have hready : s.releaseReady core .device true = true := by
    show (!true || !s.dirtyLeft core (upTo none)) = true
    rw [dirtyLeft_of_drained h]
    rfl
  rw [State.afterRelease, hdrains, hready]
  rfl

/-- No access that may have used a translation is under way. -/
structure NoAccessUnderWay (s : State) : Prop where
  parties : ∀ q ∈ s.parties, q.sq = [] ∧ q.loads = [] ∧ q.half = none
  copies : ∀ c ∈ s.copies, c.pins = []
  matrix : ∀ c ∈ s.cores, ∀ m ∈ c.matrix, m.ready = []
  asks : s.asks = []
  held : s.held = []

theorem translationUsed_of_noAccess {s : State} (h : NoAccessUnderWay s) (x : Shootdown) : s.translationUsed x = false := by
  simp only [State.translationUsed, State.waitsAny, h.asks, h.held, List.any_nil, Bool.or_false, Bool.or_eq_false_iff,
    List.any_eq_false, Bool.not_eq_true]
  refine ⟨⟨fun q hq => ?_, fun c hc => ?_⟩, fun c hc m hm => ?_⟩
  · obtain ⟨hsq, hloads, hhalf⟩ := h.parties q hq
    simp [hsq, hloads, hhalf]
  · simp [h.copies c hc]
  · simp [h.matrix c hc m hm]

theorem NoAccessUnderWay.bumpSeq {s : State} (h : NoAccessUnderWay s) (core : Nat) : NoAccessUnderWay (s.bumpSeq core) := by
  refine ⟨h.parties, h.copies, fun c hc m hm => ?_, h.asks, h.held⟩
  obtain ⟨i, hi⟩ := List.getElem?_of_mem hc
  change (s.cores.modify core _)[i]? = some c at hi
  rw [List.getElem?_modify] at hi
  obtain ⟨c', hc', rfl⟩ := Option.map_eq_some_iff.1 hi
  have hmem := List.mem_of_getElem? hc'
  exact h.matrix c' hmem m (by revert hm; split <;> exact id)

theorem NoAccessUnderWay.upd {s : State} (h : NoAccessUnderWay s) {f : Party → Party}
    (hf : ∀ q, (f q).sq = q.sq ∧ (f q).loads = q.loads ∧ (f q).half = q.half) : NoAccessUnderWay (s.upd f) := by
  refine ⟨fun q hq => ?_, h.copies, h.matrix, h.asks, h.held⟩
  obtain ⟨x, hx, rfl⟩ := List.mem_map.1 hq
  obtain ⟨hsq, hloads, hhalf⟩ := hf x
  split
  · rw [hsq, hloads, hhalf]; exact h.parties x hx
  · exact h.parties x hx

/-- What a TLBINV drops: the cached translations that it covers, and every fetched word. -/
def State.shotDown (s : State) (x : Shootdown) (va : Nat) : State :=
  { s with tlb := s.tlb.filter fun e => !x.drops va e, text := [] }

theorem NoAccessUnderWay.shotDown {s : State} (h : NoAccessUnderWay s) (x : Shootdown) (va : Nat) :
    NoAccessUnderWay (s.shotDown x va) := ⟨h.parties, h.copies, h.matrix, h.asks, h.held⟩

/-- A party whose TLBINV has come to `n` and found the pages `ps`. -/
def Party.shootingAt (q : Party) (n : Nat) (ps : List (Nat × Nat)) : Party := { q with progress := n, shooting := ps }

/-- A party whose TLBINV has ended. -/
def Party.shot (q : Party) : Party := { q with pc := q.pc + 4, progress := 0, shooting := [] }

theorem Party.shot_keepsId : KeepsId Party.shot := fun _ => rfl

/-- A TLBINV past its release: what its second operand's value `v` covers at `va` goes, and it ends once nothing uses it. -/
def State.tlbinvGoes (s : State) (v va : Nat) : State :=
  let x : Shootdown := ⟨v % 4, bitsOf v 31 16, s.me.shooting⟩
  let s2 := (s.breakTacks x.hitsTack).shotDown x va
  if s2.breakingAny x.hitsTack || s2.translationUsed x then s2
  else (s2.upd fun q => { q with progress := 0, shooting := [] }).adv

/-- The pages of a TLBINV have been found. -/
def State.tlbinvBegun (s : State) (v va : Nat) : State :=
  s.upd fun q => q.shootingAt 1 (s.pagesAt (bitsOf v 31 16) va)

section Tlbinv

variable {s : State} {a b : BitVec 6} (hsteward : s.actor.isSteward = true) (h : Ready s [] [a, b])
include hsteward h

theorem exec_tlbinv : exec (.tlbinv a b) s = .next (
    if bitsOf (s.rd b).toNat 63 32 ≠ 0 ∨ bitsOf (s.rd b).toNat 15 2 ≠ 0 then s.trap .illegal
    else if !s.me.settled then s
    else if s.me.progress = 0 then
      s.afterRelease s.me.core .device fun u => (u.tlbinvBegun (s.rd b).toNat (s.rd a).toNat).tlbinvGoes (s.rd b).toNat (s.rd a).toNat
    else s.tlbinvGoes (s.rd b).toNat (s.rd a).toNat) := by
  show execTlbinv a b s = _
  rw [execTlbinv, stewardOnly_steward hsteward, scalar_ready h]
  rfl

/-- The operand's bits that must be zero are not. -/
theorem exec_tlbinv_malformed (hz : ¬((s.rd b).toNat / 2 ^ 32 = 0 ∧ (s.rd b).toNat % 65536 < 4)) :
    exec (.tlbinv a b) s = .next (s.trap .illegal) := by
  have hv := (s.rd b).isLt
  rw [exec_tlbinv hsteward h, if_pos]
  simp only [bitsOf]
  omega

variable (hz : (s.rd b).toNat / 2 ^ 32 = 0 ∧ (s.rd b).toNat % 65536 < 4)
include hz

theorem exec_tlbinv_wellFormed : exec (.tlbinv a b) s = .next (
    if !s.me.settled then s
    else if s.me.progress = 0 then
      s.afterRelease s.me.core .device fun u => (u.tlbinvBegun (s.rd b).toNat (s.rd a).toNat).tlbinvGoes (s.rd b).toNat (s.rd a).toNat
    else s.tlbinvGoes (s.rd b).toNat (s.rd a).toNat) := by
  rw [exec_tlbinv hsteward h, if_neg]
  simp only [bitsOf]
  omega

theorem exec_tlbinv_unsettled (hset : s.me.settled = false) : exec (.tlbinv a b) s = .next s := by
  rw [exec_tlbinv_wellFormed hsteward h hz, hset, Bool.not_false, if_pos rfl]

variable (hset : s.me.settled = true)
include hset

theorem exec_tlbinv_starts (hprog : s.me.progress = 0) : exec (.tlbinv a b) s = .next (
    s.afterRelease s.me.core .device fun u =>
      (u.tlbinvBegun (s.rd b).toNat (s.rd a).toNat).tlbinvGoes (s.rd b).toNat (s.rd a).toNat) := by
  rw [exec_tlbinv_wellFormed hsteward h hz, hset, Bool.not_true, if_neg Bool.false_ne_true, if_pos hprog]

theorem exec_tlbinv_continues (hprog : s.me.progress ≠ 0) :
    exec (.tlbinv a b) s = .next (s.tlbinvGoes (s.rd b).toNat (s.rd a).toNat) := by
  rw [exec_tlbinv_wellFormed hsteward h hz, hset, Bool.not_true, if_neg Bool.false_ne_true, if_neg hprog]

end Tlbinv

/-- A cached translation is dropped, by the kind of the TLBINV. -/
theorem drops_iff (v va sp : Nat) (ps : List (Nat × Nat)) (e : TlbEntry) :
    (⟨v % 4, sp, ps⟩ : Shootdown).drops va e = true ↔
      if v % 4 = 0 then (e.space = sp ∨ e.leaf.getLsbD 6 = true) ∧ e.base ≤ va ∧ va < e.base + e.size
      else if v % 4 = 1 then e.space = sp ∧ e.leaf.getLsbD 6 = false
      else if v % 4 = 2 then e.space = sp ∨ e.leaf.getLsbD 6 = true
      else True := by
  have hkind : v % 4 = 0 ∨ v % 4 = 1 ∨ v % 4 = 2 ∨ v % 4 = 3 := by omega
  obtain hk | hk | hk | hk := hkind <;> simp [Shootdown.drops, hk]

/-- Past its release, where nothing is under way, a TLBINV ends. -/
theorem tlbinvGoes_of_noAccess {s : State} (hacc : NoAccessUnderWay s) (htacks : s.tacks = []) (v va : Nat) :
    s.tlbinvGoes v va = (s.shotDown ⟨v % 4, bitsOf v 31 16, s.me.shooting⟩ va).upd Party.shot := by
  have hbreaking (x : Shootdown) : (s.shotDown x va).breakingAny x.hitsTack = false := by
    show s.tacks.any _ = false
    rw [htacks, List.any_nil]
  simp only [State.tlbinvGoes, breakTacks_of_nothing_held _ htacks hacc.held, hbreaking,
    translationUsed_of_noAccess (hacc.shotDown _ _), Bool.or_false, Bool.false_eq_true, if_false]
  exact State.updParty_updParty _ _ _ fun _ => rfl

/-- The TLBINV of `s` has come to `u`, past its release: nothing else has changed, and nothing is left to wait for. -/
structure TlbinvPast (s u : State) : Prop where
  here : u.here
  actor : u.actor = s.actor
  mem : u.mem = s.mem
  tlb : u.tlb = s.tlb
  others : ∀ p, p ≠ s.actor → u.party p = s.party p
  me : ∃ n ps, u.me = s.me.shootingAt n ps
  tacks : u.tacks = []
  quiet : NoAccessUnderWay u

theorem tlbinvPast_self {s : State} (hhere : s.here) (htacks : s.tacks = []) (hacc : NoAccessUnderWay s) : TlbinvPast s s :=
  ⟨hhere, rfl, rfl, rfl, fun _ _ => rfl, ⟨s.me.progress, s.me.shooting, rfl⟩, htacks, hacc⟩

theorem tlbinvPast_begun {s : State} (hhere : s.here) (htacks : s.tacks = []) (hacc : NoAccessUnderWay s) (core v va : Nat) :
    TlbinvPast s ((s.bumpSeq core).tlbinvBegun v va) where
  here := here_upd (s := s.bumpSeq core) hhere _ fun _ => rfl
  actor := rfl
  mem := rfl
  tlb := rfl
  others _ hp := State.party_upd_other (s.bumpSeq core) (fun q => q.shootingAt 1 ((s.bumpSeq core).pagesAt _ va)) (fun _ => rfl) hp
  me := ⟨_, _, State.me_upd (s := s.bumpSeq core) hhere (fun q => q.shootingAt 1 ((s.bumpSeq core).pagesAt _ va)) fun _ => rfl⟩
  tacks := htacks
  quiet := (hacc.bumpSeq core).upd fun _ => ⟨rfl, rfl, rfl⟩

/-- What the end of a TLBINV leaves. -/
theorem tlbinvGoes_ends {s u : State} (h : TlbinvPast s u) (v va : Nat) :
    let t := u.tlbinvGoes v va
    t.me = s.me.shot ∧ (∀ p, p ≠ s.actor → t.party p = s.party p) ∧ t.mem = s.mem ∧ t.text = [] ∧
      ∀ e, e ∈ t.tlb ↔ e ∈ s.tlb ∧ ¬(⟨v % 4, bitsOf v 31 16, u.me.shooting⟩ : Shootdown).drops va e = true := by
  intro t
  obtain ⟨n, ps, hme⟩ := h.me
  have ht : t = _ := tlbinvGoes_of_noAccess h.quiet h.tacks v va
  generalize (⟨v % 4, bitsOf v 31 16, u.me.shooting⟩ : Shootdown) = x at ht ⊢
  rw [ht]
  refine ⟨?_, fun p hp => ?_, h.mem, rfl, fun e => ?_⟩
  · have hself : ((u.shotDown x va).upd Party.shot).me = u.me.shot := State.me_upd (s := u.shotDown x va) h.here _ Party.shot_keepsId
    rw [hself, hme]
    rfl
  · exact (State.party_upd_other (u.shotDown x va) _ Party.shot_keepsId (h.actor ▸ hp)).trans (h.others p hp)
  · show e ∈ u.tlb.filter _ ↔ _
    rw [h.tlb, List.mem_filter, Bool.not_eq_true', Bool.not_eq_true]

/-- A load that has been translated and not performed may have used what a TLBINV of kind 3 drops. -/
theorem translationUsed_of_load {s : State} {q : Party} {l : LaneAccess} (hq : q ∈ s.parties)
    (hvirtual : (s.unitOf q).physical = false) (hl : l ∈ q.loads) (hgot : l.got = none) (hpieces : l.pieces ≠ []) {x : Shootdown}
    (hkind : x.kind = 3) : s.translationUsed x = true := by
  have hawaits (space a n : Nat) : x.awaits space a n = true := by simp [Shootdown.awaits, Shootdown.anySpace, hkind]
  have hload : (q.loads.any fun l =>
      l.got.isNone && !l.pieces.isEmpty && x.awaits (s.unitOf q).space l.va (l.pieces.map (·.len)).sum) = true :=
    List.any_eq_true.2 ⟨l, hl, by simp [hgot, hpieces, hawaits]⟩
  unfold State.translationUsed
  simp only [Bool.or_eq_true]
  refine .inl (.inl (.inl (List.any_eq_true.2 ⟨q, hq, ?_⟩)))
  simp only [hvirtual, hload, Bool.not_false, Bool.true_and, Bool.or_true]

/-- Settles O36, instruction by instruction: HALT by the check of its line, its ends by the status that they find, TLBINV by how far
it has come. -/
theorem systemControl : Obligations.SystemControl := by
  refine ⟨fun s d a b hhere hgroup i hi => ?privilege, fun s a h => ?trap, fun s a s1 hsteward h => ⟨fun c a2 r hcheck hhere => ?haltFault,
    fun x p hcheck hp hhere => ?halt⟩, fun s n q hp hq => ⟨fun bs hread => ⟨fun hflag => ?wake, fun hflag => ?refused⟩, ?timeout⟩,
    fun s a b hsteward h => ?tlbinv⟩
  case privilege =>
    obtain ⟨k, hk⟩ := exec_stewardInstr s d a b i hi
    exact ⟨_, hk.trans (stewardOnly_group hgroup k), trapped_trap hhere _⟩
  case trap =>
    refine ⟨_, exec_trap h, trapped_fault h.here _ _ _, ?_⟩
    rw [State.trapAt, fault_records_getLast?]
    simp [State.record, FaultInfo.at_, dw]
  case haltFault => exact ⟨_, exec_halt_fault hsteward h hcheck, trapped_fault hhere _ _ _⟩
  case halt =>
    have hid : KeepsId fun q => { q with status := .halted (p.pa / 128) s.clk false, pc := q.pc + 4 } := fun _ => rfl
    exact ⟨_, exec_halt_ok hsteward h hcheck hp, became_upd hhere _ hid⟩
  case wake =>
    have hexec := exec_haltWake hp hread
    rw [hflag, if_neg (by decide), nimbrelStarted_eq] at hexec
    have hself := State.party_updParty_of_party? (hp ▸ hq : s.party? s.args.p = some q) (Party.wakeUp_keepsId bs)
    refine ⟨_, hexec, rfl, fun p hne => State.party_updParty_other s _ p _ (Party.wakeUp_keepsId bs) hne, fun ⟨l, m, hs⟩ => ?_,
      fun hs => ?_, fun hs hrom => ?_, rfl⟩
    · exact hself.trans (Party.wakeUp_of_woken bs hs)
    · exact hself.trans (Party.wakeUp_of_romLoop bs hs)
    · exact hself.trans (Party.wakeUp_of_other bs hs hrom)
  case refused =>
    refine ⟨_, exec_haltWake hp hread, ?_⟩
    rw [hflag, if_pos rfl]
    rfl
  case timeout =>
    have hself := State.party_updParty_of_party? (hp ▸ hq : s.party? s.args.p = some q) (Party.haltEnds_keepsId s.clk)
    refine ⟨_, exec_haltTimeout s, rfl, fun p hne => State.party_updParty_other s _ p _ (Party.haltEnds_keepsId s.clk) hne,
      fun l m w hs => ?_, fun hs => ?_⟩
    · exact hself.trans (Party.haltEnds_of_halted s.clk hs)
    · exact hself.trans (Party.haltEnds_of_other s.clk hs)
  case tlbinv =>
    intro v va sp zero dropped
    refine ⟨fun hnot => ?malformed, fun hz hset => ?unsettled, fun hz hset hprog => ?drains,
      fun hz hset htacks hheld hasks hdrained hparties hcopies hmatrix => ?ends, fun hz hkind hset htacks hheld hprog hload => ?waits⟩
    case malformed => exact ⟨_, exec_tlbinv_malformed hsteward h hnot, trapped_trap h.here _⟩
    case unsettled => exact ⟨_, exec_tlbinv_unsettled hsteward h hz hset, rfl⟩
    case drains =>
      intro drained hnot
      refine ⟨_, exec_tlbinv_starts hsteward h hz hset hprog, ?_⟩
      obtain ⟨hready, -⟩ | ⟨-, hstays⟩ := afterRelease_cases s s.me.core .device fun s => (s.tlbinvBegun v va).tlbinvGoes v va
      · exact absurd (hready.symm.trans hnot) (by decide)
      · exact hstays
    case ends =>
      have hacc : NoAccessUnderWay s := ⟨hparties, hcopies, hmatrix, hasks, hheld⟩
      have hdrops (ps : List (Nat × Nat)) (e : TlbEntry) : (⟨v % 4, bitsOf v 31 16, ps⟩ : Shootdown).drops va e = true ↔ dropped e :=
        drops_iff v va sp ps e
      obtain ⟨u, hu, hexec⟩ : ∃ u, TlbinvPast s u ∧ exec (.tlbinv a b) s = .next (u.tlbinvGoes v va) := by
        by_cases hprog : s.me.progress = 0
        · refine ⟨_, tlbinvPast_begun h.here htacks hacc s.me.core v va, (exec_tlbinv_starts hsteward h hz hset hprog).trans ?_⟩
          rw [afterRelease_of_drained hdrained]
        · exact ⟨s, tlbinvPast_self h.here htacks hacc, exec_tlbinv_continues hsteward h hz hset hprog⟩
      obtain ⟨hme, hothers, hmem, htext, htlb⟩ := tlbinvGoes_ends hu v va
      exact ⟨_, hexec, hme, hothers, hmem, htext, fun e => (htlb e).trans (and_congr_right' (not_congr (hdrops _ e)))⟩
    case waits =>
      obtain ⟨q, hq, hvirtual, l, hl, hgot, hpieces⟩ := hload
      refine ⟨_, exec_tlbinv_continues hsteward h hz hset hprog, ?_⟩
      have hused := translationUsed_of_load (s := s.shotDown ⟨v % 4, bitsOf v 31 16, s.me.shooting⟩ va) hq hvirtual hl hgot hpieces
        (x := ⟨v % 4, bitsOf v 31 16, s.me.shooting⟩) hkind
      have hdrops (e : TlbEntry) : (⟨v % 4, bitsOf v 31 16, s.me.shooting⟩ : Shootdown).drops va e = true :=
        (drops_iff v va _ _ e).2 (by simp [hkind])
      show s.tlbinvGoes v va = _
      simp only [State.tlbinvGoes, breakTacks_of_nothing_held _ htacks hheld, hused, Bool.or_true, if_true]
      simp [State.shotDown, hdrops]

end Sys2Proof.Machine
end

section
/-!
PROOFS. Faults of lane computations (R17, R20, R21, R23, R49, R89): the checks at issue once, then which operands each
instruction hands them.
-/

namespace Sys2Proof.Machine

/-! ## The checks at issue, in their order -/

/-- The faults of a lane computation that uses `u`, whose type is `legal`, in the order of R89: a register or type, an overlap in
part, a tag or a short gap, an error in a source. The record of the last names its threads and its lane address. -/
def FaultsInOrder (i : Instr) (s : State) (r : Run) (w : LaneWord) (legal : Bool) (u : LaneUse) : Prop :=
  let ok := legal = true ∧ u.regsOk s.me.vcount = true
  let early := u.tagged s.me.tags = true ∨ u.gapShort r (decide (s.me.gw = 16)) (decide (w.u = 1)) = true
  let bad := s.badThreads s.me u (fun _ => []) (if w.u = 1 then [0] else threadsOf s.me.gw (s.me.activeMask r w.mask))
  (¬ok → Gives i s (Trapped s · .illegal)) ∧
  (ok → u.overlaps = true → Gives i s (Trapped s · .overlap)) ∧
  (ok → u.overlaps = false → early → Gives i s (Trapped s · .schedule)) ∧
  (ok → u.overlaps = false → ¬early → bad ≠ 0 → Gives i s fun t => Trapped s t .storeError ∧
    (t.records.getLast?.map fun x => (x.body.unfinished, x.body.laneAddr)) = some (bad, BitVec.ofNat 64 r.pc))

/-- A fault at issue stops the run's group with no effect. -/
theorem trapped_laneFault {s : State} (h : s.here) (c : FaultClass) (r : Run) (unit : FaultUnit) (addr addr2 : Nat) (mask : Word)
    (b : Bool) : Trapped s (s.laneFault c r unit addr addr2 mask b) c := trapped_fault h _ _ _

/-- The record of a fault at issue names the threads that the fault stops and the lane instruction. -/
theorem laneFault_record (s : State) (c : FaultClass) (r : Run) (unit : FaultUnit) (addr addr2 : Nat) (mask : Word) (b : Bool) :
    ((s.laneFault c r unit addr addr2 mask b).records.getLast?.map fun x => (x.body.unfinished, x.body.laneAddr)) =
      some (mask, BitVec.ofNat 64 r.pc) := by
  rw [State.laneFault, fault_records_getLast?]
  rfl

section Issue

variable {s : State} {r : Run} (h : Running s r) (w : LaneWord) (legal : Bool) (u : LaneUse) (deps : Nat → List (Nat × List Block))
  (k : State → Run → Word → State)
include h

/-- An instruction that is issued for the first time: its checks, and then its effect. -/
theorem laneIssue_running : s.laneIssue w legal u deps k =
    if !legal || !u.regsOk s.me.vcount then .next (s.laneFault .illegal r .laneIssue 0 0 0 false)
    else if u.overlaps then .next (s.laneFault .overlap r .laneIssue 0 0 0 false)
    else if u.tagged s.me.tags || u.gapShort r (decide (s.me.gw = 16)) (decide (w.u = 1)) then
      .next (s.laneFault .schedule r .schedule 0 0 0 false)
    else
      let act := s.me.activeMask r w.mask
      let bad := s.badThreads s.me u deps (if w.u = 1 then [0] else threadsOf s.me.gw act)
      if bad ≠ 0 then .next (s.laneFault .storeError r .laneIssue 0 0 bad false)
      else .next ((k s r act).laneDone w (u.produces (decide (w.u = 1)))) := by
  have hissued : r.replay ≠ some 0 := by simp [h.first]
  simp only [State.laneIssue, h.run, if_neg hissued]

/-- A type that the instruction does not have raises class 0x01. -/
theorem gives_illegal_of_untyped {i : Instr} (hi : exec i s = s.laneIssue w false u deps k) : Gives i s (Trapped s · .illegal) := by
  refine ⟨_, ?_, trapped_laneFault h.here .illegal r .laneIssue 0 0 0 false⟩
  rw [hi, laneIssue_running h, Bool.not_false, Bool.true_or, if_pos rfl]

theorem faultsInOrder_of_laneIssue {i : Instr} (hi : exec i s = s.laneIssue w legal u (fun _ => []) k) :
    FaultsInOrder i s r w legal u := by
  rw [laneIssue_running h] at hi
  refine ⟨fun hnot => ?illegal, fun hok hover => ?overlap, fun hok hover hearly => ?schedule, fun hok hover hearly hbad => ?error⟩
  case illegal =>
    rw [if_pos (by simpa [imp_iff_not_or] using hnot)] at hi
    exact ⟨_, hi, trapped_laneFault h.here ..⟩
  all_goals
    obtain ⟨hlegal, hregs⟩ := hok
    rw [hlegal, hregs, if_neg (by decide), hover] at hi
  case overlap => exact ⟨_, hi, trapped_laneFault h.here ..⟩
  case schedule =>
    rw [if_neg Bool.false_ne_true, if_pos (by simpa using hearly)] at hi
    exact ⟨_, hi, trapped_laneFault h.here ..⟩
  case error =>
    rw [if_neg Bool.false_ne_true, if_neg (by simpa using hearly)] at hi
    exact ⟨_, hi.trans (if_pos hbad), trapped_laneFault h.here .., laneFault_record ..⟩

end Issue

/-! ## Which operation each instruction is -/

theorem exec_laneArith (s : State) (w : LaneWord) :
    exec (.iadd w) s = execIadd w s ∧ exec (.isub w) s = execIsub w s ∧ exec (.imul w) s = execImul w s ∧
    exec (.imulhi w) s = execImulhi w s ∧ exec (.imad w) s = execImad w s ∧ exec (.iand w) s = execIand w s ∧
    exec (.ior w) s = execIor w s ∧ exec (.ixor w) s = execIxor w s ∧ exec (.inot w) s = execInot w s ∧
    exec (.ishl w) s = execIshl w s ∧ exec (.ishr w) s = execIshr w s ∧ exec (.isar w) s = execIsar w s ∧
    exec (.imin w) s = execImin w s ∧ exec (.imax w) s = execImax w s ∧ exec (.iabs w) s = execIabs w s ∧
    exec (.ipopc w) s = execIpopc w s ∧ exec (.iclz w) s = execIclz w s ∧ exec (.ibfe w) s = execIbfe w s ∧
    exec (.ibfi w) s = execIbfi w s ∧ exec (.imov w) s = execImov w s ∧ exec (.fadd w) s = execFadd w s ∧
    exec (.fsub w) s = execFsub w s ∧ exec (.fmul w) s = execFmul w s ∧ exec (.ffma w) s = execFfma w s ∧
    exec (.fmin w) s = execFmin w s ∧ exec (.fmax w) s = execFmax w s ∧ exec (.fabs w) s = execFabs w s ∧
    exec (.fneg w) s = execFneg w s ∧ exec (.rcp w) s = execRcp w s ∧ exec (.rsqrt w) s = execRsqrt w s ∧
    exec (.sqrt w) s = execSqrt w s ∧ exec (.laneDiv w) s = execLaneDiv w s ∧ exec (.exp2 w) s = execExp2 w s ∧
    exec (.log2 w) s = execLog2 w s ∧ exec (.sin w) s = execSin w s := by
  and_intros <;> rfl

theorem exec_laneOther (s : State) (w : LaneWord) :
    exec (.isel w) s = execIsel w s ∧ exec (.icmp w) s = execIcmp w s ∧ exec (.fcmp w) s = execFcmp w s ∧
    exec (.cvt w) s = execCvt w s ∧ exec (.shfl w) s = execShfl w s ∧ exec (.bcast w) s = execBcast w s ∧
    exec (.lstep w) s = execLstep w s ∧ exec (.scan w) s = execScan w s ∧ exec (.segred w) s = execSegred w s ∧
    exec (.matchLanes w) s = execMatchLanes w s ∧ exec (.amax w) s = execAmax w s ∧ exec (.qblk w) s = execQblk w s := by
  and_intros <;> rfl

/-! ## An instruction whose type code names no type -/

/-- The instruction comes to issue with no legal type. -/
def IssuesUntyped (s : State) (w : LaneWord) (o : Out) : Prop := ∃ u deps k, o = s.laneIssue w false u deps k

section Untyped

variable {s : State} {w : LaneWord} (h : laneType w s.me.fmt = none)
include h

theorem perThread_untyped (ok : LTy → Bool) (x : Reads) (kind : ProducerKind) (f : LaneCtx → Nat → Nat → Nat → Nat) :
    IssuesUntyped s w (s.perThread w ok x kind f) := by
  simp only [State.perThread, h]
  exact ⟨_, _, _, rfl⟩

theorem laneCompare_untyped (ok : LTy → Bool) (cond : LaneCtx → Nat → Nat → Nat → Bool) :
    IssuesUntyped s w (s.laneCompare w ok cond) := by
  simp only [State.laneCompare, h]
  exact ⟨_, _, _, rfl⟩

theorem crossThread_untyped (ok : LTy → Bool) (use : LTy → LaneUse)
    (deps : LTy → Party → Run → Word → Nat → List (Nat × List Block)) (k : State → LTy → Run → Word → State) :
    IssuesUntyped s w (s.crossThread w ok use deps k) := by
  simp only [State.crossThread, h]
  exact ⟨_, _, _, rfl⟩

theorem execIsel_untyped : IssuesUntyped s w (execIsel w s) := by
  simp only [execIsel, h]
  exact ⟨_, _, _, rfl⟩

theorem execCvt_untyped : IssuesUntyped s w (execCvt w s) := by
  simp only [execCvt, h]
  exact ⟨_, _, _, rfl⟩

/-- By the operation that the instructions share. -/
theorem laneComputation_untyped : ∀ i ∈ [Instr.iadd w, .imad w, .isel w, .imov w, .icmp w, .fadd w, .ffma w, .fcmp w, .cvt w, .sqrt w,
    .laneDiv w, .shfl w, .bcast w, .lstep w, .scan w, .segred w, .matchLanes w, .amax w, .qblk w], IssuesUntyped s w (exec i s) := by
  simp only [List.forall_mem_cons, List.not_mem_nil, IsEmpty.forall_iff, implies_true, and_true, exec_laneArith, exec_laneOther,
    execIadd, execImad, execImov, execIcmp, execFadd, execFfma, execFcmp, execSqrt, execLaneDiv, execShfl, execBcast, execLstep,
    execScan, execSegred, execMatchLanes, execAmax, execQblk, State.laneInt, State.laneFloat, State.laneSpecial, State.laneMove,
    perThread_untyped h, laneCompare_untyped h, crossThread_untyped h, execIsel_untyped h, execCvt_untyped h]

end Untyped

/-! ## An instruction with a type, and what it uses -/

/-- It computes thread by thread: `legal` and `u` are what its set of types and its operands give at type `ty`. -/
def ComputesPerThread (s : State) (w : LaneWord) (ty : LTy) (o : Out) (legal : Bool) (u : LaneUse) : Prop :=
  ∃ ok x kind f, o = s.perThread w ok x kind f ∧ legal = ok ty ∧ u = unitUse w ty x kind

theorem perThread_typed {s : State} {w : LaneWord} {ty : LTy} (h : laneType w s.me.fmt = some ty) (ok : LTy → Bool) (x : Reads)
    (kind : ProducerKind) (f : LaneCtx → Nat → Nat → Nat → Nat) :
    ∃ k, s.perThread w ok x kind f = s.laneIssue w (ok ty) (unitUse w ty x kind) (fun _ => []) k := by
  simp only [State.perThread, h]
  exact ⟨_, rfl⟩

/-- What a per-thread computation hands the checks at issue gives its faults. -/
theorem faultsInOrder_of_perThread {s : State} {r : Run} (h : Running s r) {w : LaneWord} {ty : LTy}
    (hty : laneType w s.me.fmt = some ty) {i : Instr} {legal : Bool} {u : LaneUse}
    (hi : ComputesPerThread s w ty (exec i s) legal u) : FaultsInOrder i s r w legal u := by
  obtain ⟨ok, x, kind, f, hexec, rfl, rfl⟩ := hi
  obtain ⟨k, hk⟩ := perThread_typed hty ok x kind f
  exact faultsInOrder_of_laneIssue h w _ _ k (hexec.trans hk)

/-- Settles O46: each listed instruction is a per-thread computation with the operands listed, and the checks at issue are the
same for all of them. -/
theorem laneFaults : Obligations.LaneFaults := by
  refine ⟨fun s r w h hty i hi => ?untyped, fun s r w ty h hty => ?typed⟩
  case untyped =>
    obtain ⟨u, deps, k, hexec⟩ := laneComputation_untyped hty i hi
    exact gives_illegal_of_untyped h w u deps k hexec
  case typed =>
    intro ab abc a f p hp
    refine faultsInOrder_of_perThread h hty ?_
    revert p
    simp only [List.forall_mem_append, List.forall_mem_cons, List.not_mem_nil, IsEmpty.forall_iff, implies_true, and_true,
      exec_laneArith, execIadd, execIsub, execImul, execImulhi, execImad, execIand, execIor, execIxor, execInot, execIshl, execIshr,
      execIsar, execImin, execImax, execIabs, execIpopc, execIclz, execIbfe, execIbfi, execFadd, execFsub, execFmul, execFfma,
      execFmin, execFmax, execFabs, execFneg, execRcp, execRsqrt, execSqrt, execLaneDiv, execExp2, execLog2, execSin, State.laneInt,
      State.laneFloat, State.laneSpecial]
    and_intros
    all_goals exact ⟨_, _, _, _, rfl, rfl, rfl⟩

end Sys2Proof.Machine
end

section
/-!
PROOFS. Lane loads after issue (R19, R172): a claim that two loads of one operation, thread and element refute.
-/

namespace Sys2Proof.Machine

/-! ## Two loads under one key

`LongAccesses` has every load of the operation, thread and element end where the load that was found ends; the model asks each of them
for its own pieces. The two differ where a second load under the same key has a piece more. -/

namespace TwinLoads

/-- The byte that is loaded. -/
def piece : Piece := ⟨0x40000100, 1, 0, none⟩

/-- A group load of one byte for each thread, at GROUP scope. -/
def op : LaneOp := ⟨7, .laneLd ⟨0, 1, 8, 6, 2, 0, 1, 0, 0, 0, 0, 0, 0⟩, 0x40000000, some 1, 0, false, false, 0, none⟩

/-- A load of thread 0, of the byte or of the byte and what follows. -/
def load (more : List Piece) : LaneAccess := ⟨7, 0, 0, 0x100, piece :: more, [], none, []⟩

def group : Party := { Party.blank (.group 0 0 0) 0 with width := .native, vcount := 16, ops := [op], loads := [load [], load [piece]] }

/-- Thread 0's load is next to be performed. -/
def state : State :=
  { State.reset with parties := [group], args := { EventArgs.blank with p := group.id, x := 7, y := 0, z := 0 } }

/-- What the loads of the group have, once the step has been taken. -/
def gotAfter : Host.Outcome State Fault Refusal → List (Option (List Byte))
  | .next t => (t.party group.id).loads.map (·.got)
  | _ => []

/-- The second load still waits for its second piece. -/
theorem second_load_waits : gotAfter (exec .longLatencyCompletion state) = [some [0], none] := by decide +kernel

/-- The load of the byte is not held back, and finds the byte sound. -/
theorem load_performed : state.loadHolds group.core (state.partOf group) op.scope op.acquire piece = false ∧
    ∃ s1, state.loadPiece group (state.partOf group) op.scope op.acquire (some op.id) piece = (s1, [0], false) ∧
      s1.party? group.id = some group := by
  have hread : (state.loadPiece group (state.partOf group) op.scope op.acquire (some op.id) piece).2 = ([0], false) ∧
      (state.loadPiece group (state.partOf group) op.scope op.acquire (some op.id) piece).1.party? group.id = some group := by
    decide +kernel
  obtain ⟨hbytes, hparty⟩ := hread
  exact ⟨by decide +kernel, _, Prod.ext rfl hbytes, hparty⟩

end TwinLoads

/-- Refutes O51: in `TwinLoads.state` the byte of thread 0's load comes, and a second load under the same key, of two pieces, has one
of them still to be performed; the claim has it end with the first. -/
theorem not_longAccesses : ¬ Obligations.LongAccesses := by
  intro h
  obtain ⟨hloads, -⟩ := h TwinLoads.state TwinLoads.group rfl
  obtain ⟨hperformed, -⟩ := hloads TwinLoads.op (TwinLoads.load []) rfl rfl
  obtain ⟨hheld, s1, hread, hparty⟩ := TwinLoads.load_performed
  obtain ⟨t, ht, -, -, hmine⟩ := hperformed s1 TwinLoads.piece [0] false rfl rfl rfl rfl hheld hread (Option.isSome_of_eq_some hparty)
  have hends : TwinLoads.gotAfter (exec .longLatencyCompletion TwinLoads.state) = [some [0], some [0]] := by
    have hgroup : s1.party TwinLoads.state.args.p = TwinLoads.group := State.party_of_party? hparty
    rw [ht]
    show (t.party TwinLoads.state.args.p).loads.map (·.got) = _
    rw [hmine, hgroup]
    rfl
  rw [TwinLoads.second_load_waits] at hends
  exact absurd hends (by decide)

end Sys2Proof.Machine
end

section
/-!
PROOFS. A launch that comes first and fits starts its next workgroup (R26, R33, R215, R217, R218, R272).
-/

namespace Sys2Proof.Machine

/-! ## Launches by name -/

theorem State.launch?_mapLaunches {s t : State} {f : Launch → Launch} (hf : ∀ l, (f l).part = l.part ∧ (f l).seq = l.seq)
    (h : t.launches = s.launches.map f) (part seq : Nat) : t.launch? part seq = (s.launch? part seq).map f := by
  have hkey : (fun l : Launch => decide (l.part = part ∧ l.seq = seq)) ∘ f = fun l => decide (l.part = part ∧ l.seq = seq) :=
    funext fun l => by simp [hf l]
  rw [State.launch?, State.launch?, h, List.find?_map, hkey]

theorem State.launch?_updLaunch {s : State} {part seq : Nat} {l : Launch} (h : s.launch? part seq = some l) {f : Launch → Launch}
    (hf : ∀ l, (f l).part = l.part ∧ (f l).seq = l.seq) : (s.updLaunch part seq f).launch? part seq = some (f l) := by
  have hkey : l.part = part ∧ l.seq = seq := by simpa using List.find?_some h
  rw [State.launch?_mapLaunches (s := s) (f := fun l => if decide (l.part = part ∧ l.seq = seq) then f l else l)
    (fun l => by split <;> simp [hf l]) rfl, h, Option.map_some, if_pos (by simpa using hkey)]

/-- Since when a launch has been first is all that is noted of it. -/
theorem State.launch?_noteFirst {s : State} {part seq : Nat} {l : Launch} (h : s.launch? part seq = some l) (n : Nat) :
    ∃ f, (s.noteFirst n).launch? part seq = some { l with firstSince := f } := by
  obtain ⟨note, hmap, hnote⟩ : ∃ note : Launch → Launch, (s.noteFirst n).launches = s.launches.map note ∧
      ∀ l, note l = { l with firstSince := (note l).firstSince } := by
    refine ⟨_, rfl, fun l => ?_⟩
    split
    · rfl
    · split <;> rfl
  have hkey (l : Launch) : (note l).part = l.part ∧ (note l).seq = l.seq := by
    rw [hnote l]
    exact ⟨rfl, rfl⟩
  exact ⟨_, by rw [State.launch?_mapLaunches hkey hmap, h, Option.map_some, hnote l]⟩

/-! ## The registers of a group at its start (R26) -/

theorem cellGet_foldl_range (n j : Nat) :
    cellGet ((List.range n).foldl (fun m t => cellSet m t (wd t)) ([] : Cells 32)) j = if j < n then wd j else 0 := by
  induction n with
  | zero => rfl
  | succ n ih =>
    rw [List.range_succ, List.foldl_append, List.foldl_cons, List.foldl_nil, cellGet_cellSet, ih]
    by_cases hj : j = n
    · simp [hj]
    · have hlt : j < n + 1 ↔ j < n := by omega
      simp only [hj, hlt, if_false]

section StartParty

variable (id : PartyId) (c lane : Nat) (r : Rcb) (index share : Nat)

theorem startParty_sreg (n : Nat) : (startParty id c lane r index share none []).sreg n =
    if n = 1 then BitVec.ofNat 64 r.args else if n = 2 then BitVec.ofNat 64 index else
      if n = 3 then BitVec.ofNat 64 (groupIndex id) else if n = 4 then BitVec.ofNat 64 share else 0 := by
  have hq : (startParty id c lane r index share none []).sreg n =
      (((((Party.blank id c).setSreg 1 (BitVec.ofNat 64 r.args)).setSreg 2 (BitVec.ofNat 64 index)).setSreg 3
        (BitVec.ofNat 64 (groupIndex id))).setSreg 4 (BitVec.ofNat 64 share)).sreg n := rfl
  have hblank : (Party.blank id c).sreg n = 0 := ite_self ..
  rw [hq]
  simp only [Party.sreg_setSreg, hblank, ne_eq, OfNat.ofNat_ne_zero, not_false_eq_true, and_true]
  obtain rfl | rfl | rfl | rfl | ⟨h1, h2, h3, h4⟩ : n = 1 ∨ n = 2 ∨ n = 3 ∨ n = 4 ∨ n ≠ 1 ∧ n ≠ 2 ∧ n ≠ 3 ∧ n ≠ 4 := by omega
  · simp
  · simp
  · simp
  · simp
  · simp [h1, h2, h3, h4]

theorem startParty_vreg (n k : Nat) (hk : k < r.gw) : (startParty id c lane r index share none []).vreg n k =
    if n = 0 then BitVec.ofNat 32 k else 0 := by
  have hgw : r.gw ≤ 32 := by
    unfold Rcb.gw GroupWidth.threads
    split <;> decide
  show cellGet ((List.range r.gw).foldl (fun m t => cellSet m t (wd t)) []) (n * 32 + k) = _
  rw [cellGet_foldl_range]
  by_cases hn : n = 0
  · simp [hn, hk, wd]
  · rw [if_neg (by omega), if_neg hn]

end StartParty

/-! ## The workgroup that starts (R26, R33, R272) -/

/-- Group `i` of a workgroup of the control block `r`, as the shuttle places it: its registers, and its partition's space and
root. -/
def State.placedGroup (s : State) (part id : Nat) (x : Spot) (r : Rcb) (index i lane : Nat) : Party :=
  { startParty (.group part id i) x.core lane r index x.share none [] with
    lastRunEnd := s.clk
    spaceid := BitVec.ofNat 64 (s.partition part).spaceid
    ptroot := BitVec.ofNat 64 (s.partition part).ptroot }

section PlacedGroup

variable (s : State) (part id : Nat) (x : Spot) (r : Rcb) (index i lane : Nat)

theorem State.placedGroup_id : (s.placedGroup part id x r index i lane).id = .group part id i := rfl

theorem State.placedGroup_sreg (n : Nat) : (s.placedGroup part id x r index i lane).sreg n =
    if n = 1 then BitVec.ofNat 64 r.args else if n = 2 then BitVec.ofNat 64 index else
      if n = 3 then BitVec.ofNat 64 i else if n = 4 then BitVec.ofNat 64 x.share else 0 :=
  startParty_sreg (.group part id i) x.core lane r index x.share n

theorem State.placedGroup_vreg (n k : Nat) (hk : k < r.gw) : (s.placedGroup part id x r index i lane).vreg n k =
    if n = 0 then BitVec.ofNat 32 k else 0 :=
  startParty_vreg (.group part id i) x.core lane r index x.share n k hk

end PlacedGroup

/-- The workgroup that a placement makes resident. -/
def State.placedWg (s : State) (part q id : Nat) (x : Spot) (r : Rcb) (index : Nat) (retried : Bool) : Workgroup :=
  { part := part, id := id, launch := q, rung := none, rungOwn := none, index := index, core := x.core, share := x.share,
    length := r.store, groups := (List.range r.groups).map (.group part id ·), state := .resident, startedAt := s.clk, savedAt := 0,
    aged := 0, retried := retried, sharing := none, deferred := false, displaced := false, poolAt := 0, shadowed := false,
    imageErrors := [], latch := [], items := [], image := [], scaleImage := [], savedMatrix := [] }

section StartWg

variable (s : State) (part q : Nat) (x : Spot) (r : Rcb) (index : Nat) (retried : Bool)

/-- The workgroup of a launch started at a spot. -/
def State.started : State := s.startWg ⟨part, q, none⟩ r index x [] retried

theorem started_parties : (s.started part q x r index retried).parties =
    s.parties ++ ((List.range r.groups).zip x.lanes).map fun g => s.placedGroup part (s.freeWg part) x r index g.1 g.2 := by
  show s.parties ++ (List.map _ (List.map _ (List.zip (List.map _ _) _))) = _
  rw [List.zip_map_left, List.map_map, List.map_map]
  rfl

theorem started_workgroups : (s.started part q x r index retried).workgroups =
    s.workgroups ++ [s.placedWg part q (s.freeWg part) x r index retried] := rfl

theorem started_clean (hcore : x.core < s.cores.length) : ((s.started part q x r index retried).core x.core).clean = [] := by
  have hcores : ∃ f : Core → Core, (∀ k, (f k).clean = []) ∧
      (s.started part q x r index retried).core x.core = (s.updCore x.core f).core x.core := ⟨_, fun _ => rfl, rfl⟩
  obtain ⟨f, hf, hfc⟩ := hcores
  rw [hfc, State.core_updCore, if_pos ⟨rfl, hcore⟩, hf]

variable {s part q x r index retried}

theorem started_wg? (hnew : s.wg? part (s.freeWg part) = none) :
    (s.started part q x r index retried).wg? part (s.freeWg part) = some (s.placedWg part q (s.freeWg part) x r index retried) := by
  have hold : s.workgroups.find? (fun w => decide (w.part = part ∧ w.id = s.freeWg part)) = none := hnew
  rw [State.wg?, started_workgroups, List.find?_append, hold, Option.none_or, List.find?_singleton]
  simp [State.placedWg]

theorem started_group {i : Nat} (hlanes : x.lanes.length = r.groups) (hi : i < r.groups)
    (hnew : s.party? (.group part (s.freeWg part) i) = none) :
    (s.started part q x r index retried).party? (.group part (s.freeWg part) i) =
      some (s.placedGroup part (s.freeWg part) x r index i (x.lanes[i])) := by
  have hold : s.parties.find? (fun y => decide (y.id = .group part (s.freeWg part) i)) = none := hnew
  have hfind : ((List.range r.groups).zip x.lanes).find? ((fun y : Party => decide (y.id = .group part (s.freeWg part) i)) ∘
      fun g => s.placedGroup part (s.freeWg part) x r index g.1 g.2) = some (i, x.lanes[i]) := by
    refine List.find?_eq_some_iff_getElem.2 ⟨decide_eq_true rfl, i, by simp [hlanes, hi], by simp, fun j hj => ?_⟩
    have hne : (.group part (s.freeWg part) j : PartyId) ≠ .group part (s.freeWg part) i := by simp; omega
    simpa [State.placedGroup_id] using hne
  rw [State.party?, started_parties, List.find?_append, hold, Option.none_or, List.find?_map, hfind]
  rfl

theorem started_party_other {p : PartyId} (hp : ∀ i, p ≠ .group part (s.freeWg part) i) :
    (s.started part q x r index retried).party? p = s.party? p := by
  have hnone : (((List.range r.groups).zip x.lanes).map fun g => s.placedGroup part (s.freeWg part) x r index g.1 g.2).find?
      (fun y => decide (y.id = p)) = none := by
    refine List.find?_eq_none.2 fun y hy => ?_
    obtain ⟨g, -, rfl⟩ := List.mem_map.1 hy
    rw [State.placedGroup_id, decide_eq_true_eq]
    exact Ne.symm (hp g.1)
  rw [State.party?, started_parties, List.find?_append, hnone, Option.or_none, State.party?]

end StartWg

/-! ## The placement (R215, R217, R218) -/

/-- The launch after one of its workgroups has been placed: `again`, one that is started again. -/
def Launch.placed (l : Launch) (again : Bool) (clk : Nat) : Launch :=
  { l with
    retry := if again then l.retry.drop 1 else l.retry
    nextIndex := if again then l.nextIndex else l.nextIndex + 1
    lastStart := some clk
    firstSince := none
    blocking := false
    state := .running }

/-- The next workgroup of a launch stands at a spot. -/
def State.placedAt (s : State) (part q : Nat) (x : Spot) (l : Launch) : State :=
  (s.started part q x l.rcb (l.retry.headD l.nextIndex) !l.retry.isEmpty).updLaunch part q (·.placed (!l.retry.isEmpty) s.clk)

theorem workgroupPlacement_none {s : State} (hroom : s.makeRoom s.args.x (fun _ _ _ => false) = s)
    (h : s.placeable s.args.x = none) : exec .workgroupPlacement s = .next s := by
  show execWorkgroupPlacement s = _
  simp only [execWorkgroupPlacement, hroom, h]

theorem workgroupPlacement_launch {s : State} (hroom : s.makeRoom s.args.x (fun _ _ _ => false) = s) {q : Nat} {x : Spot} {l : Launch}
    (h : s.placeable s.args.x = some (.launch q, x)) (hl : s.launch? s.args.x q = some l) :
    let u := s.placedAt s.args.x q x l
    exec .workgroupPlacement s =
      .next ((if l.state = .running then u else u.writeStatus s.args.x q 2).noteFirst s.args.x) := by
  show execWorkgroupPlacement s = _
  simp only [execWorkgroupPlacement, hroom, h, hl, State.placedAt]
  cases l.retry <;> rfl

/-- In `u` the next workgroup of launch `q` has started at `x`. -/
structure StartsAt (s : State) (part q : Nat) (x : Spot) (l : Launch) (u : State) : Prop where
  wg : u.wg? part (s.freeWg part) =
    some (s.placedWg part q (s.freeWg part) x l.rcb (l.retry.headD l.nextIndex) !l.retry.isEmpty)
  groups : ∀ i (hi : i < x.lanes.length), u.party? (.group part (s.freeWg part) i) =
    some (s.placedGroup part (s.freeWg part) x l.rcb (l.retry.headD l.nextIndex) i x.lanes[i])
  others : ∀ p, (∀ i, p ≠ .group part (s.freeWg part) i) → u.party p = s.party p
  mem : u.mem = s.mem
  clean : x.core < s.cores.length → (u.core x.core).clean = []
  launch : ∃ m, u.launch? part q = some m ∧ m.state = .running ∧ m.lastStart = some s.clk ∧ m.rcb = l.rcb ∧
    m.nextIndex = if l.retry = [] then l.nextIndex + 1 else l.nextIndex

section StartsAt

variable {s u : State} {part q : Nat} {x : Spot} {l : Launch}

theorem startsAt_placedAt (hl : s.launch? part q = some l) (hlanes : x.lanes.length = l.rcb.groups)
    (hwg : s.wg? part (s.freeWg part) = none) (hgroups : ∀ i, s.party? (.group part (s.freeWg part) i) = none) :
    StartsAt s part q x l (s.placedAt part q x l) where
  wg := started_wg? hwg
  groups i hi := started_group (retried := !l.retry.isEmpty) hlanes (hlanes ▸ hi) (hgroups i)
  others p hp := congrArg (·.getD (Party.blank p 0)) (started_party_other (retried := !l.retry.isEmpty) hp)
  mem := rfl
  clean hcore := started_clean s part q x l.rcb _ _ hcore
  launch := by
    refine ⟨_, State.launch?_updLaunch hl (f := (·.placed (!l.retry.isEmpty) s.clk)) fun _ => ⟨rfl, rfl⟩, rfl, rfl, rfl, ?_⟩
    cases hretry : l.retry <;> simp [Launch.placed]

/-- Whatever else a launch records. -/
theorem StartsAt.withLaunches (h : StartsAt s part q x l u) {ls : List Launch}
    (hl : ∀ m, u.launch? part q = some m → ∃ m', ({ u with launches := ls } : State).launch? part q = some m' ∧ m'.state = m.state ∧
      m'.lastStart = m.lastStart ∧ m'.rcb = m.rcb ∧ m'.nextIndex = m.nextIndex) :
    StartsAt s part q x l { u with launches := ls } where
  wg := h.wg
  groups := h.groups
  others := h.others
  mem := h.mem
  clean := h.clean
  launch := by
    obtain ⟨m, hm, hstate, hlast, hrcb, hnext⟩ := h.launch
    obtain ⟨m', hm', hstate', hlast', hrcb', hnext'⟩ := hl m hm
    exact ⟨m', hm', hstate'.trans hstate, hlast'.trans hlast, hrcb'.trans hrcb, hnext'.trans hnext⟩

theorem StartsAt.noteFirst (h : StartsAt s part q x l u) (n : Nat) : StartsAt s part q x l (u.noteFirst n) :=
  h.withLaunches fun m hm => by
    obtain ⟨f, hf⟩ := State.launch?_noteFirst hm n
    exact ⟨_, hf, rfl, rfl, rfl, rfl⟩

/-- Without a status address, nothing but the code to be written is noted. -/
theorem StartsAt.writeStatus (h : StartsAt s part q x l u) (hstatus : l.rcb.statusAddr = 0) (code : Nat) :
    StartsAt s part q x l (u.writeStatus part q code) := by
  obtain ⟨m, hm, -, -, hrcb, -⟩ := h.launch
  have hwrite : u.writeStatus part q code = u.updLaunch part q fun l => { l with statusWritten := code } := by
    simp only [State.writeStatus, hm, hrcb, hstatus, if_true]
  rw [hwrite]
  exact h.withLaunches fun m hm => ⟨_, State.launch?_updLaunch hm fun _ => ⟨rfl, rfl⟩, rfl, rfl, rfl, rfl⟩

end StartsAt

/-- Settles O31: where the new workgroup stands, and that what is noted of its launch afterwards leaves it there. -/
theorem workgroupStarts : Obligations.WorkgroupStarts := by
  intro s hroom
  refine ⟨fun h => ⟨s, workgroupPlacement_none hroom h, rfl⟩, fun q x l h hl hlanes => ?_⟩
  intro id index hwg hgroups started
  have hstarted {u : State} (hu : StartsAt s s.args.x q x l u) : started u := by
    refine ⟨⟨_, hu.wg, rfl, rfl, rfl, rfl, rfl, rfl, rfl, rfl⟩, fun i hi => ?_, hu.others, hu.mem, hu.clean, hu.launch⟩
    have hi : i < x.lanes.length := hlanes ▸ hi
    exact ⟨_, hu.groups i hi, rfl, (List.getElem?_eq_getElem hi).symm, rfl, rfl, rfl, rfl, rfl, rfl, rfl, rfl, rfl,
      State.placedGroup_sreg s _ id x l.rcb index i _, State.placedGroup_vreg s _ id x l.rcb index i _⟩
  have hplaced := startsAt_placedAt hl hlanes hwg hgroups
  refine ⟨_, workgroupPlacement_launch hroom h hl, ⟨_, hstarted hplaced, rfl⟩, fun hstatus => hstarted (.noteFirst ?_ _)⟩
  split
  · exact hplaced
  · exact hplaced.writeStatus hstatus 2

end Sys2Proof.Machine
end

section
/-!
PROOFS. Decoding undoes encoding (R36, R48, R291): the laws of the family Encoding, one for each constructor, put together.
-/

namespace Sys2Proof.Laws.Encoding

/-- Every row has its law. -/
theorem decodeWords_encode : ∀ i : Instr, Statement i
  -- scalar words (R36, R40 to R45)
  | .add d a b => add d a b | .sub d a b => sub d a b | .and d a b => and d a b | .or d a b => or d a b | .xor d a b => xor d a b
  | .andn d a b => andn d a b | .shl d a b => shl d a b | .shr d a b => shr d a b | .sar d a b => sar d a b | .rol d a b => rol d a b
  | .mul d a b => mul d a b | .mulh d a b => mulh d a b | .mulhu d a b => mulhu d a b | .div d a b => div d a b
  | .divu d a b => divu d a b | .rem d a b => rem d a b | .remu d a b => remu d a b | .min d a b => min d a b | .max d a b => max d a b
  | .minu d a b => minu d a b | .maxu d a b => maxu d a b | .slt d a b => slt d a b | .sltu d a b => sltu d a b | .seq d a b => seq d a b
  | .clz d a => clz d a | .ctz d a => ctz d a | .popc d a => popc d a | .brev d a => brev d a | .bswap d a => bswap d a
  | .addw d a b => addw d a b | .subw d a b => subw d a b | .mulw d a b => mulw d a b | .addi d a i => addi d a i
  | .andi d a i => andi d a i | .ori d a i => ori d a i | .xori d a i => xori d a i | .slti d a i => slti d a i
  | .sltui d a i => sltui d a i | .seqi d a i => seqi d a i | .muli d a i => muli d a i | .shli d a n => shli d a n
  | .shri d a n => shri d a n | .sari d a n => sari d a n | .lui d i => lui d i | .auipc d i => auipc d i | .lhi d i => lhi d i
  | .ld d a z i => ld d a z i | .st d a z i => st d a z i | .lda d a z s i => lda d a z s i | .stl d a z s i => stl d a z s i
  | .amowAdd d a b s r => amowAdd d a b s r | .amowAnd d a b s r => amowAnd d a b s r | .amowOr d a b s r => amowOr d a b s r
  | .amowXor d a b s r => amowXor d a b s r | .amowMin d a b s r => amowMin d a b s r | .amowMax d a b s r => amowMax d a b s r
  | .amowMinu d a b s r => amowMinu d a b s r | .amowMaxu d a b s r => amowMaxu d a b s r | .amowXchg d a b s r => amowXchg d a b s r
  | .amowCas d a b s r => amowCas d a b s r | .amowFadd d a b s r => amowFadd d a b s r | .amowFmax32 d a b s r => amowFmax32 d a b s r
  | .amowFamax32 d a b s r => amowFamax32 d a b s r | .amodAdd d a b s r => amodAdd d a b s r | .amodAnd d a b s r => amodAnd d a b s r
  | .amodOr d a b s r => amodOr d a b s r | .amodXor d a b s r => amodXor d a b s r | .amodMin d a b s r => amodMin d a b s r
  | .amodMax d a b s r => amodMax d a b s r | .amodMinu d a b s r => amodMinu d a b s r | .amodMaxu d a b s r => amodMaxu d a b s r
  | .amodXchg d a b s r => amodXchg d a b s r | .amodCas d a b s r => amodCas d a b s r | .fenceAcq s => fenceAcq s
  | .fenceRel s => fenceRel s | .fenceFull s => fenceFull s | .ifence => ifence | .fenceEng => fenceEng | .br i => br i
  | .call i => call i | .bz a i => bz a i | .bnz a i => bnz a i | .beq a b i => beq a b i | .bne a b i => bne a b i
  | .blt a b i => blt a b i | .bge a b i => bge a b i | .bltu a b i => bltu a b i | .bgeu a b i => bgeu a b i | .jalr d a i => jalr d a i
  | .lrun a i => lrun a i | .lsync a => lsync a | .kmov d a => kmov d a | .kand d a b => kand d a b | .kor d a b => kor d a b
  | .kxor d a b => kxor d a b | .kandn d a b => kandn d a b | .knot d a => knot d a | .kpopc d a => kpopc d a | .kffs d a => kffs d a
  | .ktos d a => ktos d a | .stok d a => stok d a | .divpush a b => divpush a b | .divelse => divelse | .divpop => divpop
  | .kall d a => kall d a | .bkany k i => bkany k i | .bknone k i => bknone k i | .vread d n t => vread d n t
  | .sfmtW d a v => sfmtW d a v | .sfmtS d a v => sfmtS d a v | .sfmtC d a v => sfmtC d a v | .csrr d r => csrr d r
  | .csrw d a r => csrw d a r | .csrs d a r => csrs d a r | .csrc d a r => csrc d a r | .binit a b => binit a b
  | .barrive d a b => barrive d a b | .bexpect a b => bexpect a b | .bwait d a b => bwait d a b | .btest d a b => btest d a b
  | .batch d => batch d | .bbwaitReg a => bbwaitReg a | .bbwaitImm n => bbwaitImm n | .tcopy d a b => tcopy d a b
  | .tprefL2 a b => tprefL2 a b | .tprefCc a b => tprefCc a b | .tquery d a => tquery d a | .gang a => gang a
  | .planeA d a b => planeA d a b | .planeB d a b => planeB d a b | .scale a b => scale a b | .mma d a b => mma d a b
  | .acci a b => acci a b | .accd a b => accd a b | .tacknew d a => tacknew d a | .tackon d a b => tackon d a b | .tackoff a => tackoff a
  | .tackdrop d a => tackdrop d a | .tackq d a => tackq d a | .ladsub d a b => ladsub d a b | .ladesc a b => ladesc a b
  | .ladres a b => ladres a b | .cjoin d a => cjoin d a | .cleave => cleave | .cquery d => cquery d | .launch d a => launch d a
  | .exit => exit | .yield => yield | .phase => phase | .criton => criton | .critoff => critoff | .lwait d a => lwait d a
  | .lwaitTest d a => lwaitTest d a | .frjoin d a => frjoin d a | .frput d a b => frput d a b | .frget d a => frget d a
  | .frstat d a => frstat d a | .trap a => trap a | .eret d a b => eret d a b | .halt a => halt a | .tlbinv a b => tlbinv a b
  | .bankcfg d a b => bankcfg d a b | .vcset d a => vcset d a | .darn d a => darn d a | .corerst d a => corerst d a
  | .pswap d a b => pswap d a b | .measureExt d a b => measureExt d a b | .measureRead a b => measureRead a b
  | .measureClose b => measureClose b | .measureQuote d a b => measureQuote d a b | .measureKey a => measureKey a
  -- the rows that share PORTCMD's word (R291)
  | .partitionRecord d a => partitionRecord d a | .peerEntries d a => peerEntries d a | .reductionSlots d a => reductionSlots d a
  | .ethernetUp d a => ethernetUp d a | .ethernetDown d a => ethernetDown d a | .ethernetTransmit d a => ethernetTransmit d a
  | .postReceiveBuffer d a => postReceiveBuffer d a | .fabricPortUp d a => fabricPortUp d a | .fabricPortDown d a => fabricPortDown d a
  | .fabricPortQuery d a => fabricPortQuery d a
  -- steps of the device's own agents, which have no words
  | .runStart => runStart | .longLatencyCompletion => longLatencyCompletion | .dirtyNotice => dirtyNotice | .storePerform => storePerform
  | .dirtyByteDrain => dirtyByteDrain | .cleanCopyFill => cleanCopyFill | .cleanCopyDrop => cleanCopyDrop
  | .commandedDrain => commandedDrain | .drainConfirmation => drainConfirmation | .dieReadRequest => dieReadRequest
  | .dieWriteRequest => dieWriteRequest | .dieInvalidationAck => dieInvalidationAck | .dieCopyEviction => dieCopyEviction
  | .fabricInvalidationAck => fabricInvalidationAck | .deviceFenced => deviceFenced | .copyElement => copyElement
  | .copyComplete => copyComplete | .matrixCommandStart => matrixCommandStart | .planeComplete => planeComplete
  | .scaleComplete => scaleComplete | .mmaReservationGrant => mmaReservationGrant | .mmaComputeDone => mmaComputeDone
  | .lineContribution => lineContribution | .contributionRetry => contributionRetry | .accdStart => accdStart | .accdRow => accdRow
  | .accdFinish => accdFinish | .batchComplete => batchComplete | .holderAcknowledge => holderAcknowledge
  | .workgroupPlacement => workgroupPlacement | .dispatchPriorityAging => dispatchPriorityAging
  | .savedPriorityAging => savedPriorityAging | .launchBlocking => launchBlocking | .staggerExpiry => staggerExpiry
  | .workgroupStop => workgroupStop | .workgroupSave => workgroupSave | .workgroupRestore => workgroupRestore
  | .launchComplete => launchComplete | .widePhaseComplete => widePhaseComplete | .issuePriorityAging => issuePriorityAging
  | .criticalSectionExpiry => criticalSectionExpiry | .parkedSwapTimeout => parkedSwapTimeout | .ladderPack => ladderPack
  | .ladderRetire => ladderRetire | .fifoWaitEnd => fifoWaitEnd | .faultRecordDelivery => faultRecordDelivery
  | .unitResponseTimeout => unitResponseTimeout | .coreFailure => coreFailure | .rowRetirement => rowRetirement
  | .flitReceive => flitReceive | .linkFailure => linkFailure | .packetReceive => packetReceive | .packetAcknowledge => packetAcknowledge
  | .packetResendTimeout => packetResendTimeout | .destinationUnreachable => destinationUnreachable | .roundTimeout => roundTimeout
  | .slotCloseTimeout => slotCloseTimeout | .haltTimeout => haltTimeout | .haltWake => haltWake
  | .ethernetFrameReceive => ethernetFrameReceive | .ethernetTransmitDone => ethernetTransmitDone
  | .ethernetLinkFailure => ethernetLinkFailure | .ethernetLinkUp => ethernetLinkUp | .ethernetUpTimeout => ethernetUpTimeout
  | .fabricLinkTrained => fabricLinkTrained | .fabricUpTimeout => fabricUpTimeout | .thermalHold => thermalHold
  | .thermalHoldRelease => thermalHoldRelease | .thermalTrip => thermalTrip | .powerOn => powerOn | .moduleReset => moduleReset
  | .illegalEncoding => illegalEncoding | .uncorrectableError => uncorrectableError | .fencedDeviceReadmission => fencedDeviceReadmission
  | .powerRemoval => powerRemoval | .powerCeilingReached => powerCeilingReached | .linkResendRequest => linkResendRequest
  -- lane instructions (R48 to R52)
  | .iadd w => iadd w | .isub w => isub w | .imul w => imul w | .imulhi w => imulhi w | .imad w => imad w | .iand w => iand w
  | .ior w => ior w | .ixor w => ixor w | .inot w => inot w | .ishl w => ishl w | .ishr w => ishr w | .isar w => isar w
  | .imin w => imin w | .imax w => imax w | .iabs w => iabs w | .ipopc w => ipopc w | .iclz w => iclz w | .ibfe w => ibfe w
  | .ibfi w => ibfi w | .isel w => isel w | .imov w => imov w | .fadd w => fadd w | .fsub w => fsub w | .fmul w => fmul w
  | .ffma w => ffma w | .fmin w => fmin w | .fmax w => fmax w | .fabs w => fabs w | .fneg w => fneg w | .frint w => frint w
  | .cvt w => cvt w | .qblk w => qblk w | .amax w => amax w | .shfl w => shfl w | .shflr w => shflr w | .shflx w => shflx w
  | .bcast w => bcast w | .lstep w => lstep w | .scan w => scan w | .matchLanes w => matchLanes w | .segred w => segred w
  | .icmp w => icmp w | .fcmp w => fcmp w | .laneLd w => laneLd w | .laneSt w => laneSt w | .lds w => lds w | .sts w => sts w
  | .ldcl w => ldcl w | .stcl w => stcl w | .fifopop w => fifopop w | .fifopush w => fifopush w | .ragld w => ragld w | .atom w => atom w
  | .atomr w => atomr w | .atoms w => atoms w | .rld w => rld w | .rst w => rst w | .ratom w => ratom w | .rcp w => rcp w
  | .rsqrt w => rsqrt w | .sqrt w => sqrt w | .laneDiv w => laneDiv w | .exp2 w => exp2 w | .log2 w => log2 w | .sin w => sin w
  | .cos w => cos w | .tanh w => tanh w | .lnop w => lnop w | .lid w => lid w

end Sys2Proof.Laws.Encoding

namespace Sys2Proof

/-- Settles O57: what holds of every row. -/
theorem roundTrips : Obligations.RoundTrips := Laws.Encoding.decodeWords_encode

end Sys2Proof
end

section
/-!
PROOFS. A step runs what it decodes (R36, R48, R169, R242, R245, R310): what each move prepares, what it leaves beside its
instruction's effect, and the fetch of a steward core under physical addresses.
-/

namespace Sys2Proof.Machine

/-! ## A step, by what its move prepares -/

/-- The state once the first move has been taken off the agenda. -/
def State.afterTaking (s : State) (rest : List Move) : State := { s with agenda := rest, clk := s.clk + 1 }

section Taken

variable {s s2 : State} {m : Move} {rest : List Move}

theorem nextMove_of_agenda (h : s.agenda = m :: rest) : s.nextMove = some (m, s.afterTaking rest) := by
  simp only [State.nextMove, h, State.afterTaking]

theorem step_runs {i : Instr} (h : s.agenda = m :: rest) (hp : (s.afterTaking rest).prepare m = (s2, some i)) :
    step s = (s.afterTaking rest).finish m (exec i s2) := by
  simp only [step, nextMove_of_agenda h, hp]

theorem step_prepares_only (h : s.agenda = m :: rest) (hp : (s.afterTaking rest).prepare m = (s2, none)) :
    step s = .next ((s.afterTaking rest).finishMove m s2) := by
  simp only [step, nextMove_of_agenda h, hp, State.finish]

theorem step_of_empty_agenda (h : s.agenda = []) (hp : s.powered = true) :
    step s = step { s with agenda := [s.defaultMove], turn := s.turn + 1 } := by
  simp only [step, State.nextMove, h, hp, if_true]

theorem step_without_power (h : s.agenda = []) (hp : s.powered = false) : step s = .fault .noPower := by
  simp [step, State.nextMove, h, hp]

end Taken

/-! ## Scalar streams -/

section Issue

variable {s : State} {p : PartyId}

theorem decodeAt_instr {q : Party} {w : Word} {i : Instr} (h : decodeScalar w = .ok i) (hi : ∀ d a, i ≠ .partitionRecord d a) :
    s.decodeAt q w = i := by
  rw [State.decodeAt, h]
  split
  · next h => cases h
  · next d a h => exact absurd (Except.ok.inj h) (hi d a)
  · next h => exact (Except.ok.inj h).symm

theorem decodeAt_portcmd {q : Party} {w : Word} {d a : BitVec 6} (h : decodeScalar w = .ok (.partitionRecord d a)) :
    s.decodeAt q w = s.pickCommand q d a := by
  simp only [State.decodeAt, h]

theorem decodeAt_illegal {q : Party} {w : Word} {e : DecodeError} (h : decodeScalar w = .error e) :
    s.decodeAt q w = .illegalEncoding := by
  simp only [State.decodeAt, h]

theorem prepareIssue_word {s2 : State} {w : Word} (hi : s.canIssue (s.party p) = true)
    (hw : s.nextWord (s.party p) = (s2, .ok w)) :
    s.prepare (.issue p) = (s2.issued p, some (s2.decodeAt (s.party p) w)) := by
  simp only [State.prepare, State.prepareIssue, hi, hw, if_true]

theorem prepareIssue_idle (hi : s.canIssue (s.party p) = false) : s.prepare (.issue p) = (s, none) := by
  simp [State.prepare, State.prepareIssue, hi]

theorem finishMove_idle (hi : s.canIssue (s.party p) = false) (t : State) : s.finishMove (.issue p) t = t := by
  simp [State.finishMove, hi]

/-- After an issue: it is noted whether the stream has stayed at its instruction, and one that has, has not had its turn (R13). -/
def State.noteIssue (s : State) (p : PartyId) (t : State) : State :=
  t.updParty p fun q =>
    let stays := decide (q.pc = (s.party p).pc)
    { q with stalled := stays, lastIssue := if stays then (s.party p).lastIssue else q.lastIssue }

theorem finishMove_issue (hi : s.canIssue (s.party p) = true) (t : State) :
    s.finishMove (.issue p) t = s.noteIssue p t := by
  simp [State.finishMove, hi, State.noteIssue]

end Issue

/-- A step issues an instruction of `p` whose outcome is `o`: what it leaves is noted, and a stop is the step's. -/
def StepIssues (s : State) (rest : List Move) (p : PartyId) (o : Out) : Prop :=
  (∀ t, o = .next t → step s = .next ((s.afterTaking rest).noteIssue p t)) ∧ ((∀ t, o ≠ .next t) → step s = o)

/-- What stands at the stream's next word is run in the state that the fetch has left. -/
theorem step_issues {s s2 : State} {rest : List Move} {p : PartyId} {w : Word} (h : s.agenda = .issue p :: rest)
    (hi : (s.afterTaking rest).canIssue ((s.afterTaking rest).party p) = true)
    (hw : (s.afterTaking rest).nextWord ((s.afterTaking rest).party p) = (s2, .ok w)) :
    StepIssues s rest p (exec (s2.decodeAt ((s.afterTaking rest).party p) w) (s2.issued p)) := by
  have hstep := step_runs h (prepareIssue_word hi hw)
  constructor
  · intro t ht
    rw [hstep, ht, State.finish, finishMove_issue hi]
  · intro hstop
    rw [hstep]
    generalize exec _ _ = o at hstop ⊢
    cases o with
    | next t => exact absurd rfl (hstop t)
    | fault f => rfl
    | refused r => rfl

/-- A word of one row, which needs no command block. -/
theorem step_issues_instr {s s2 : State} {rest : List Move} {p : PartyId} {w : Word} {i : Instr} (h : s.agenda = .issue p :: rest)
    (hi : (s.afterTaking rest).canIssue ((s.afterTaking rest).party p) = true)
    (hw : (s.afterTaking rest).nextWord ((s.afterTaking rest).party p) = (s2, .ok w)) (hdec : decodeScalar w = .ok i)
    (hne : ∀ d a, i ≠ .partitionRecord d a) : StepIssues s rest p (exec i (s2.issued p)) :=
  decodeAt_instr hdec hne ▸ step_issues h hi hw

/-! ## The fetch of a steward core under physical addresses (R169, R310) -/

/-- A range that does not reach past its block is one piece. -/
theorem cutAt_within {m f a n : Nat} (hn : n ≠ 0) (h : a % m + n ≤ m) : cutAt m (f + 1) a n = [(a, n)] := by
  have hk : min n (m - a % m) = n := by omega
  have hrest : cutAt m f (a + n) 0 = [] := by cases f <;> rfl
  simp only [cutAt, if_neg hn, hk, Nat.sub_self, hrest]

section Physical

variable {s : State} {q : Party}

theorem xlate_physical_word {u : UnitCtx} {pa : Nat} (hu : u.physical = true) (h4 : pa % 4 = 0) (hpa : pa + 4 ≤ Config.dramBytes) :
    s.xlate u pa 4 .exec true = (s, .ok ⟨[⟨pa, 4, 0, none⟩], true, true⟩) := by
  have hdram : pa + 4 ≤ 0x6000000000 := hpa
  have hcanonical {a : Nat} (ha : a < 2 ^ 56) : canonical a = true := by
    simp only [canonical, Nat.div_eq_of_lt ha, decide_true, Bool.true_or]
  have hfirst : canonical pa = true := hcanonical (by omega)
  have hlast : canonical ((pa + 4 - 1) % 2 ^ 64) = true := hcanonical (by omega)
  have hphys : s.physOk pa 4 .exec = true := by simp [State.physOk, Access.writes, hpa]
  have hpage : cutAt 65536 (4 / 65536 + 2) pa 4 = [(pa, 4)] := cutAt_within (by decide) (by omega)
  have hline : cutAt 128 (4 / 128 + 2) pa 4 = [(pa, 4)] := cutAt_within (by decide) (by omega)
  rw [State.xlate, hfirst, hlast, hpage]
  simp [State.xlateParts, State.xlatePart, hu, hphys, hline]

theorem homeBad_of_no_errors (he : s.errors = []) (pa : Nat) : s.homeBad pa = false := by
  unfold State.homeBad
  split <;> simp [he]

theorem l2Bad_of_no_errors (he : s.errors = []) (die pa : Nat) : s.l2Bad die pa = false := by
  unfold State.l2Bad
  split
  · exact homeBad_of_no_errors he pa
  · split <;> simp [he, homeBad_of_no_errors he]

theorem recall_of_no_copies (hc : s.dieCopies = []) (line : Nat) : s.recall line = s := by
  have hsame : ({ s with dieCopies := [] } : State) = s := by rw [← hc]
  simpa [State.recall, State.holders, hc] using hsame

theorem homeRead_of_no_copies (hc : s.dieCopies = []) (pa n : Nat) : s.homeRead pa n = (s, readBytes s.mem pa n) := by
  simp [State.homeRead, recall_of_no_copies hc]

theorem l2Read_at_home {die pa : Nat} (hd : homeDie pa = die) (hc : s.dieCopies = []) (n : Nat) :
    s.l2Read die pa n = (s, readBytes s.mem pa n) := by
  simp [State.l2Read, hd, homeRead_of_no_copies hc]

theorem textWord_from_home {core pa : Nat} (hstale : s.choice.stale = false) (hahead : s.choice.ahead = false)
    (hc : s.dieCopies = []) (hd : homeDie pa = dieOfCore core) :
    s.textWord core pa = (s, wd (le (readBytes s.mem pa 4))) := by
  simp [State.textWord, State.textHeld, hstale, hahead, l2Read_at_home hd hc]

theorem nextWord_of_fetchWord {s1 : State} {w : Word} (hf : q.fetched = []) (hahead : s.choice.ahead = false)
    (hw : s.fetchWord q q.pc.toNat = (s1, .ok w)) : s.nextWord q = (s1, .ok w) := by
  simp [State.nextWord, hf, hw, hahead]

/-- The four bytes at the program counter, at their home slice. -/
theorem nextWord_physical (hsteward : q.id.isSteward = true) (hroot : q.ptroot = 0) (hf : q.fetched = [])
    (h4 : q.pc.toNat % 4 = 0) (hpc : q.pc.toNat + 4 ≤ Config.dramBytes) (hstale : s.choice.stale = false)
    (hahead : s.choice.ahead = false) (he : s.errors = []) (hc : s.dieCopies = [])
    (hd : homeDie q.pc.toNat = dieOfCore q.core) :
    s.nextWord q = (s, .ok (wd (le (readBytes s.mem q.pc.toNat 4)))) := by
  have hphys : (s.unitOf q).physical = true := by simp [State.unitOf, hsteward, hroot]
  refine nextWord_of_fetchWord hf hahead ?_
  simp [State.fetchWord, xlate_physical_word hphys h4 hpc, l2Bad_of_no_errors he,
    textWord_from_home hstale hahead hc hd]

end Physical

/-! ## Lane streams (R48, R245) -/

section Lane

variable {s : State} {p : PartyId}

/-- The state in which an instruction of a run acts: it is due, with its length in bytes and its `u` bit. -/
def State.laneDue (s : State) (p : PartyId) (w : BitVec 96) : State :=
  { s.updParty p (fun q => { q with paused := false }) with
    actor := p
    args := { s.args with flag := true, x := if laneIsLong w then 16 else 12, y := (w.getLsbD 83).toNat } }

theorem prepareLane_instr {s2 : State} {r : Run} {w : BitVec 96} {lit : Word} {i : Instr} (hr : (s.party p).run = some r)
    (hp : s.powered = true) (hturn : s.laneTurn (s.party p) = true) (hw : s.laneText (s.party p) r.pc = (s2, .ok (w, lit)))
    (hi : decodeLane w lit = .ok i) : s.prepare (.lane p) = (s2.laneDue p w, some i) := by
  simp [State.prepare, State.prepareLane, hr, hp, hturn, hw, hi, State.laneDue]

theorem prepareLane_idle (hr : (s.party p).run.isSome = true) (hturn : s.laneTurn (s.party p) = false) :
    s.prepare (.lane p) = (s, none) := by
  obtain ⟨r, hr⟩ := Option.isSome_iff_exists.1 hr
  simp [State.prepare, State.prepareLane, hr, hturn]

theorem laneTurn_of_goes {q : Party} (hgoes : q.runGoes = true) (hmay : s.mayFinish q = true)
    (hfree : q.paused = true → s.laneFree q = true) : s.laneTurn q = true := by
  cases hpaused : q.paused <;> simp [State.laneTurn, hgoes, hmay, hpaused, hfree]

theorem finishMove_lane_goes {t : State}
    (h : ((s.party p).park = none ∧ (s.party p).midway = false) ∨ (t.party p).park = (s.party p).park) :
    s.finishMove (.lane p) t = t := by
  have hgood : s.parksBadly t p = false := by
    rcases h with ⟨hpark, hmidway⟩ | hpark
    · simp [State.parksBadly, hpark, hmidway]
    · simp [State.parksBadly, hpark]
  rw [State.finishMove, hgood, if_neg Bool.false_ne_true]

theorem finishMove_lane_waits {t : State} (h : (s.party p).park ≠ none ∨ (s.party p).midway = true)
    (hpark : (t.party p).park ≠ (s.party p).park) : s.finishMove (.lane p) t = s := by
  have hbad : s.parksBadly t p = true := by
    simpa [State.parksBadly, hpark, Option.isSome_iff_ne_none] using h
  rw [State.finishMove, hbad, if_pos rfl]

end Lane

/-! ## Agents of the device -/

theorem finish_event (s : State) (i : Instr) (a : EventArgs) (o : Out) : s.finish (.event i a) o = o := by
  cases o <;> rfl

theorem prepare_event_powered {s : State} (hp : s.powered = true) (i : Instr) (a : EventArgs) :
    s.prepare (.event i a) = ({ s with args := a }, some i) := by
  simp [State.prepare, hp]

theorem whenDark_eq_false {i : Instr} (hon : i ≠ .powerOn) (hoff : i ≠ .powerRemoval) : Instr.whenDark i = false := by
  unfold Instr.whenDark
  split
  · exact absurd rfl hon
  · exact absurd rfl hoff
  · rfl

theorem prepare_event_dark {s : State} {i : Instr} (hp : s.powered = false) (hon : i ≠ .powerOn) (hoff : i ≠ .powerRemoval)
    (a : EventArgs) : s.prepare (.event i a) = (s, none) := by
  simp [State.prepare, hp, whenDark_eq_false hon hoff]

/-- Settles O55: each kind of move by what it prepares and what it leaves. -/
theorem stepRunsDecoded : Obligations.StepRunsDecoded := by
  intro s rest
  refine ⟨?scalar, ?physical, ?idle, ?lane, ?laneIdle, ?event, ?tick, ?choose, step_of_empty_agenda, step_without_power⟩
  case scalar =>
    rintro p q s2 w h rfl hi hw
    have hruns := step_issues h hi hw
    refine ⟨fun i hdec hne => step_issues_instr h hi hw hdec hne, fun d a hdec => ?_, fun e hdec => ?_⟩
    · rwa [decodeAt_portcmd hdec] at hruns
    · rwa [decodeAt_illegal hdec] at hruns
  case physical =>
    rintro p n q h rfl rfl hi hroot hf h4 hpc hstale hahead he hc hd i hdec hne
    have hsteward : ((s.afterTaking rest).party (.steward n)).id.isSteward = true := by rw [State.party_id]; rfl
    exact step_issues_instr h hi (nextWord_physical hsteward hroot hf h4 hpc hstale hahead he hc hd) hdec hne
  case idle =>
    intro p h hi
    exact (step_prepares_only h (prepareIssue_idle hi)).trans (congrArg _ (finishMove_idle hi _))
  case lane =>
    rintro p q r s2 w lit i h rfl hr hp hgoes hmay hfree hw hi s3 t ht
    have hstep : step s = .next ((s.afterTaking rest).finishMove (.lane p) t) :=
      (step_runs h (prepareLane_instr hr hp (laneTurn_of_goes hgoes hmay hfree) hw hi)).trans (congrArg _ ht)
    exact ⟨fun hgood => hstep.trans (congrArg _ (finishMove_lane_goes hgood)),
      fun hparked hmoved => hstep.trans (congrArg _ (finishMove_lane_waits hparked hmoved))⟩
  case laneIdle =>
    rintro p q h rfl hr hturn
    exact (step_prepares_only h (prepareLane_idle hr hturn)).trans (congrArg _ (finishMove_lane_goes (.inr rfl)))
  case event =>
    intro i a h
    exact ⟨fun hp => (step_runs h (prepare_event_powered (s := s.afterTaking rest) hp i a)).trans (finish_event ..),
      fun hp hon hoff => step_prepares_only h (prepare_event_dark (s := s.afterTaking rest) hp hon hoff a)⟩
  case tick => exact fun n h => step_prepares_only h rfl
  case choose => exact fun c h => step_prepares_only h rfl

end Sys2Proof.Machine
end

section
/-!
PROOFS. Contributions to accumulator lines (R81, R83, R134, R304): what one adds to its line, what is held, returned or lost. On the
way: equal groups of bytes written and read back, regions found after an update, and the line that an MMA has ended.
-/

namespace Sys2Proof.Machine

/-! ## Groups of bytes -/

theorem writeBytes_append (m : Cells 8) (a : Nat) (bs cs : List Byte) :
    writeBytes m a (bs ++ cs) = writeBytes (writeBytes m a bs) (a + bs.length) cs := by
  induction bs generalizing m a with
  | nil => rfl
  | cons b r ih => rw [List.cons_append, writeBytes, ih, writeBytes, List.length_cons, Nat.add_assoc, Nat.add_comm 1]

theorem readBytes_writeBytes_flatten {n : Nat} (gs : List (List Byte)) (hlen : ∀ g ∈ gs, g.length = n) (m : Cells 8) (a i : Nat)
    (hi : i < gs.length) : readBytes (writeBytes m a gs.flatten) (a + n * i) n = gs[i] := by
  induction gs generalizing m a i with
  | nil => exact absurd hi (Nat.not_lt_zero i)
  | cons g r ih =>
    obtain ⟨hg, hr⟩ := List.forall_mem_cons.1 hlen
    rw [List.flatten_cons, writeBytes_append, hg]
    cases i with
    | zero =>
      subst hg
      rw [Nat.mul_zero, Nat.add_zero, readBytes_writeBytes_outside _ _ _ _ _ (.inl le_rfl), readBytes_writeBytes_same]
      rfl
    | succ i =>
      rw [Nat.mul_succ, Nat.add_comm (n * i), ← Nat.add_assoc, ih hr _ _ i (Nat.lt_of_succ_lt_succ hi)]
      rfl

/-! ## The sum of a line (R81) -/

/-- The words of a line with a contribution added, as bytes. -/
def lineSums (mem : Cells 8) (pa : Nat) (vals : List Word) : List (List Byte) :=
  vals.mapIdx fun i v => toLe 4 (rne32Add (le (readBytes mem (pa + 4 * i) 4)) v.toNat)

theorem addLine_eq_flatten (mem : Cells 8) (pa : Nat) (vals : List Word) : addLine mem pa vals = (lineSums mem pa vals).flatten := rfl

theorem length_of_mem_lineSums {mem : Cells 8} {pa : Nat} {vals : List Word} : ∀ g ∈ lineSums mem pa vals, g.length = 4 := by
  intro g hg
  obtain ⟨i, hi, rfl⟩ := List.mem_mapIdx.1 hg
  exact length_toLe 4 _

theorem length_addLine (mem : Cells 8) (pa : Nat) (vals : List Word) : (addLine mem pa vals).length = 4 * vals.length := by
  have hsizes : (lineSums mem pa vals).map List.length = List.replicate vals.length 4 := by
    refine List.eq_replicate_iff.2 ⟨by simp [lineSums], fun k hk => ?_⟩
    obtain ⟨g, hg, rfl⟩ := List.mem_map.1 hk
    exact length_of_mem_lineSums g hg
  rw [addLine_eq_flatten, List.length_flatten, hsizes, List.sum_replicate, smul_eq_mul, Nat.mul_comm]

theorem word_writeBytes_addLine (mem : Cells 8) (pa : Nat) (vals : List Word) (i : Nat) (hi : i < vals.length) :
    le (readBytes (writeBytes mem pa (addLine mem pa vals)) (pa + 4 * i) 4) =
      rne32Add (le (readBytes mem (pa + 4 * i) 4)) (vals.getD i 0).toNat % 2 ^ 32 := by
  have hi' : i < (lineSums mem pa vals).length := by simpa [lineSums] using hi
  have hword : (lineSums mem pa vals)[i] = toLe 4 (rne32Add (le (readBytes mem (pa + 4 * i) 4)) vals[i].toNat) :=
    List.getElem_mapIdx ..
  rw [addLine_eq_flatten, readBytes_writeBytes_flatten _ length_of_mem_lineSums _ _ _ hi', hword, le_toLe,
    List.getD_eq_getElem _ _ hi, show 256 ^ 4 = 2 ^ 32 by norm_num]

/-! ## Regions -/

/-- An update keeps which region a region is. -/
def Region.KeepsKey (f : Region → Region) : Prop := ∀ r, (f r).part = r.part ∧ (f r).base = r.base

theorem region?_key {s : State} {part base : Nat} {r : Region} (h : s.region? part base = some r) : r.part = part ∧ r.base = base := by
  simpa using List.find?_some h

/-- Regions changed one by one by a function that keeps which they are. -/
theorem State.region?_mapRegions {s t : State} {f : Region → Region} (hf : Region.KeepsKey f) (h : t.regions = s.regions.map f)
    (part base : Nat) : t.region? part base = (s.region? part base).map f := by
  have hkey : (fun r : Region => decide (r.part = part ∧ r.base = base)) ∘ f = fun r => decide (r.part = part ∧ r.base = base) :=
    funext fun r => by simp [hf r]
  rw [State.region?, State.region?, h, List.find?_map, hkey]

theorem State.region?_updRegion {s : State} {part base : Nat} {r : Region} {f : Region → Region} (hf : Region.KeepsKey f)
    (h : s.region? part base = some r) : (s.updRegion part base f).region? part base = some (f r) := by
  rw [State.region?_mapRegions (s := s) (fun x => ?_) rfl, h, Option.map_some, if_pos (decide_eq_true (region?_key h))]
  split
  · exact hf x
  · exact ⟨rfl, rfl⟩

/-- No region waits for its release (R138). -/
def State.Staying (s : State) : Prop := ∀ r ∈ s.regions, r.leaving = false

theorem State.Staying.mapRegions {s t : State} (hs : s.Staying) {f : Region → Region} (hf : ∀ r, (f r).leaving = r.leaving)
    (h : t.regions = s.regions.map f) : t.Staying := by
  intro x hx
  obtain ⟨r, hr, rfl⟩ := List.mem_map.1 (h ▸ hx)
  exact (hf r).trans (hs r hr)

theorem State.Staying.updRegion {s : State} (hs : s.Staying) (part base : Nat) {f : Region → Region}
    (hf : ∀ r, (f r).leaving = r.leaving) : (s.updRegion part base f).Staying := by
  refine hs.mapRegions (fun r => ?_) rfl
  split
  · exact hf r
  · rfl

/-! ## The end of an MMA at a line (R133, R135) -/

/-- An update changes nothing of a region but which MMAs it counts as outstanding. -/
def Region.OnlyOutstanding (f : Region → Region) : Prop := ∀ r, f r = { r with outstanding := (f r).outstanding }

namespace Region.OnlyOutstanding

variable {f : Region → Region}

theorem leaving (hf : OnlyOutstanding f) (r : Region) : (f r).leaving = r.leaving := by rw [hf r]

theorem early (hf : OnlyOutstanding f) (r : Region) : (f r).early = r.early := by rw [hf r]

theorem keepsKey (hf : OnlyOutstanding f) : KeepsKey f := fun r => ⟨by rw [hf r], by rw [hf r]⟩

end Region.OnlyOutstanding

section LineEnded

variable (s : State) (part base mma line : Nat)

theorem lineEnded_mem : (s.lineEnded part base mma line).mem = s.mem := by
  unfold State.lineEnded
  dsimp only
  split <;> rfl

theorem lineEnded_contributions : (s.lineEnded part base mma line).contributions = s.contributions := by
  unfold State.lineEnded
  dsimp only
  split <;> rfl

theorem lineEnded_regions :
    ∃ f, Region.OnlyOutstanding f ∧ (s.lineEnded part base mma line).regions = s.regions.map f := by
  unfold State.lineEnded
  dsimp only
  split
  · refine ⟨_, fun r => ?_, rfl⟩
    split <;> rfl
  · exact ⟨id, fun _ => rfl, (List.map_id _).symm⟩

end LineEnded

/-- Losing a contribution releases no region. -/
theorem loseContribution_staying {s : State} (hs : s.Staying) (c : Contribution) : (s.loseContribution c).Staying := by
  have hupd := State.Staying.updRegion (s := { s with contributions := s.contributions.filter fun y => decide (y.id ≠ c.id) }) hs
    c.part c.base (f := fun r => { r with reserved := r.reserved.filter fun i => !(r.ordered && decide (some i = c.index)) }) fun _ => rfl
  obtain ⟨f, hf, hregions⟩ := lineEnded_regions _ c.part c.base c.mma c.line
  exact hupd.mapRegions hf.leaving hregions

theorem sendBack_staying {s : State} (hs : s.Staying) (c : Contribution) : (s.sendBack c).Staying := by
  unfold State.sendBack
  split
  · exact loseContribution_staying hs c
  · exact hs

/-! ## A contribution is applied (R81, R138) -/

theorem writeMem_regions (s : State) (cs : List Host.Cell) : (s.writeMem cs).regions = s.regions := by
  cases cs <;> rfl

theorem writeMem_contributions (s : State) (cs : List Host.Cell) : (s.writeMem cs).contributions = s.contributions := by
  cases cs <;> rfl

theorem homeNow_write_of_no_copies {s : State} (hc : s.dieCopies = []) (cs : List Host.Cell) :
    (s.homeNow (.write cs)).1 = s.writeMem cs := by
  have hkept (line : Nat) : s.invalidate line none = s := by simp [State.invalidate, State.holders, hc]
  rw [State.homeNow, hkept]
  rfl

/-- No byte of memory on the line of an address has an uncorrected error. -/
def State.SoundLine (s : State) (pa : Nat) : Prop := ∀ e ∈ s.errors, ∀ x, e = .mem x → x / 128 ≠ pa / 128

theorem homeBad_of_soundLine {s : State} {pa : Nat} (hc : s.dieCopies = []) (h : s.SoundLine pa) {x : Nat} (hx : x / 128 = pa / 128) :
    s.homeBad x = false := by
  simpa [State.homeBad, State.holders, hc] using fun he => h _ he x rfl hx

theorem lineBad_of_soundLine {s : State} {pa : Nat} (hc : s.dieCopies = []) (h : s.SoundLine pa) : s.lineBad pa = false := by
  unfold State.lineBad
  split
  · refine List.any_eq_false.2 fun i hi => ?_
    have hi' := List.mem_range.1 hi
    simp [homeBad_of_soundLine hc h (x := pa / 128 * 128 + i) (by omega)]
  · exact homeBad_of_soundLine hc h rfl

section ApplyLine

variable {s : State} {r : Region} {line pa : Nat} {vals : List Word} (hc : s.dieCopies = []) (hpa : spanAt r.spans (128 * line) = some pa)
  (hsound : s.SoundLine pa)
include hc hpa hsound

theorem applyLine_of_soundLine (mma : Nat) :
    s.applyLine r mma line vals = (s.writeMem (cellsFrom pa (addLine s.mem pa vals))).lineEnded r.part r.base mma line := by
  simp [State.applyLine, hpa, lineBad_of_soundLine hc hsound, homeNow_write_of_no_copies hc]

theorem applyLine_mem (mma : Nat) : (s.applyLine r mma line vals).mem = writeBytes s.mem pa (addLine s.mem pa vals) := by
  rw [applyLine_of_soundLine hc hpa hsound, lineEnded_mem, writeMem_cellsFrom_mem]

theorem applyLine_contributions (mma : Nat) : (s.applyLine r mma line vals).contributions = s.contributions := by
  rw [applyLine_of_soundLine hc hpa hsound, lineEnded_contributions, writeMem_contributions]

theorem applyLine_regions (mma : Nat) :
    ∃ f, Region.OnlyOutstanding f ∧ (s.applyLine r mma line vals).regions = s.regions.map f := by
  rw [applyLine_of_soundLine hc hpa hsound, ← writeMem_regions s (cellsFrom pa (addLine s.mem pa vals))]
  exact lineEnded_regions ..

theorem applyLine_staying (hs : s.Staying) (mma : Nat) : (s.applyLine r mma line vals).Staying := by
  obtain ⟨f, hf, hregions⟩ := applyLine_regions (vals := vals) hc hpa hsound mma
  exact hs.mapRegions hf.leaving hregions

/-- What the region holds of early contributions stays. -/
theorem applyLine_region? {part base : Nat} {r0 : Region} (hr : s.region? part base = some r0) (mma : Nat) :
    ∃ r', (s.applyLine r mma line vals).region? part base = some r' ∧ r'.early = r0.early := by
  obtain ⟨f, hf, hregions⟩ := applyLine_regions (vals := vals) hc hpa hsound mma
  refine ⟨f r0, ?_, hf.early r0⟩
  rw [State.region?_mapRegions hf.keepsKey hregions, hr, Option.map_some]

end ApplyLine

/-- Where nothing is held for the line, no held contribution follows. -/
theorem applyEarly_of_none_held {s : State} {part base line : Nat} {r : Region} (hr : s.region? part base = some r)
    (h : ∀ e ∈ r.early, e.1 ≠ line) (n : Nat) : s.applyEarly part base line n = s := by
  cases n with
  | zero => rfl
  | succ n =>
    have hnone : (r.early.find? fun e => decide (e.1 = line ∧ e.2.1 = r.awaits line)) = none :=
      List.find?_eq_none.2 fun e he => by simp [h e he]
    rw [State.applyEarly, hr]
    dsimp only
    rw [hnone]

/-! ## The arrival of a contribution -/

/-- The contribution is on its way no longer. -/
def State.withoutContribution (s : State) (c : Contribution) : State :=
  { s with contributions := s.contributions.filter fun x => decide (x.id ≠ c.id) }

/-- A contribution has been added, word by word, to the line at an address, and to no other byte of memory. -/
def AddedTo (s t : State) (c : Contribution) (pa : Nat) : Prop :=
  (∀ i, i < 32 → le (readBytes t.mem (pa + 4 * i) 4) =
    rne32Add (le (readBytes s.mem (pa + 4 * i) 4)) (c.vals.getD i 0).toNat % 2 ^ 32) ∧
  (∀ a, a < pa ∨ pa + 128 ≤ a → cellGet t.mem a = cellGet s.mem a) ∧
  t.contributions = s.contributions.filter fun x => decide (x.id ≠ c.id)

/-- A line awaits the index after `k`. -/
def Region.passed (line k : Nat) (r : Region) : Region := { r with await := assocSet line (k + 1) r.await }

/-- A contribution is held with index `k`. -/
def Region.holding (c : Contribution) (k : Nat) (r : Region) : Region := { r with early := r.early ++ [(c.line, k, c.mma, c.vals)] }

/-- The contribution has left for its region, where its line goes on to the next index. -/
def State.passTurn (s : State) (c : Contribution) (k : Nat) : State :=
  (s.withoutContribution c).updRegion c.part c.base (Region.passed c.line k)

/-- The contribution is held in its region. -/
def State.hold (s : State) (c : Contribution) (k : Nat) : State :=
  (s.withoutContribution c).updRegion c.part c.base (Region.holding c k)

section

variable {s : State} {c : Contribution}

theorem passTurn_staying (hs : s.Staying) (k : Nat) : (s.passTurn c k).Staying :=
  State.Staying.updRegion (s := s.withoutContribution c) hs _ _ fun _ => rfl

theorem hold_staying (hs : s.Staying) (k : Nat) : (s.hold c k).Staying :=
  State.Staying.updRegion (s := s.withoutContribution c) hs _ _ fun _ => rfl

theorem passTurn_region? {r : Region} (hr : s.region? c.part c.base = some r) (k : Nat) :
    (s.passTurn c k).region? c.part c.base = some (r.passed c.line k) :=
  State.region?_updRegion (s := s.withoutContribution c) (fun _ => ⟨rfl, rfl⟩) hr

theorem hold_region? {r : Region} (hr : s.region? c.part c.base = some r) (k : Nat) :
    (s.hold c k).region? c.part c.base = some (r.holding c k) :=
  State.region?_updRegion (s := s.withoutContribution c) (fun _ => ⟨rfl, rfl⟩) hr

end

/-- The contribution that the move names meets its home slice, which accepts it; no region waits for its release. -/
structure Arrives (s : State) (c : Contribution) (r : Region) (pa : Nat) : Prop where
  found : s.contributions.find? (fun x => decide (x.id = s.args.x) && !x.returned) = some c
  region : s.region? c.part c.base = some r
  place : spanAt r.spans (128 * c.line) = some pa
  accepted : (if c.core = Config.allCores then s.sliceHolds pa else s.homeHolds (dieOfCore c.core) pa) = false
  staying : s.Staying

namespace Arrives

variable {s : State} {c : Contribution} {r : Region} {pa : Nat}

/-- Without order (R82). -/
theorem exec_unordered (h : Arrives s c r pa) (hu : r.ordered = false ∨ c.index = none) :
    exec .lineContribution s = .next ((s.withoutContribution c).applyLine r c.mma c.line c.vals).settleLeaving := by
  show execLineContribution s = _
  simp only [execLineContribution, h.found, h.region, h.place, Option.getD_some, h.accepted, Bool.false_eq_true, if_false]
  rcases hu with hu | hu
  · rw [hu]; rfl
  · rw [hu]; cases r.ordered <;> rfl

/-- In ordered mode (R83): in its turn it is applied, before what is held for its line and follows it; before its turn it is sent back
where the slice has no room, or held. -/
theorem exec_ordered (h : Arrives s c r pa) (ho : r.ordered = true) {k : Nat} (hk : c.index = some k) :
    exec .lineContribution s = .next (State.settleLeaving
      (if k = r.awaits c.line then
        ((s.passTurn c k).applyLine r c.mma c.line c.vals).applyEarly c.part c.base c.line 64
      else if s.args.flag then s.sendBack c
      else s.hold c k)) := by
  show execLineContribution s = _
  simp only [execLineContribution, h.found, h.region, h.place, Option.getD_some, h.accepted, Bool.false_eq_true, if_false, ho, hk]
  rfl

section Applied

variable (h : Arrives s c r pa) (hvals : c.vals.length = 32) (hc : s.dieCopies = []) (hsound : s.SoundLine pa)
include h hvals hc hsound

/-- It is added where it has left for its region, whatever the region has noted of it. -/
theorem addedTo_applyLine {u : State} (hu : u.mem = s.mem ∧ u.dieCopies = s.dieCopies ∧ u.errors = s.errors)
    (hgone : u.contributions = (s.withoutContribution c).contributions) :
    AddedTo s (u.applyLine r c.mma c.line c.vals) c pa := by
  obtain ⟨hmem, hcopies, herrors⟩ := hu
  have huc : u.dieCopies = [] := hcopies.trans hc
  have hus : u.SoundLine pa := fun e he => hsound e (herrors ▸ he)
  have hbytes : (u.applyLine r c.mma c.line c.vals).mem = writeBytes s.mem pa (addLine s.mem pa c.vals) := by
    rw [applyLine_mem huc h.place hus, hmem]
  have hlen : (addLine s.mem pa c.vals).length = 128 := by rw [length_addLine, hvals]
  refine ⟨fun i hi => ?_, fun a ha => ?_, (applyLine_contributions huc h.place hus _).trans hgone⟩
  · rw [hbytes, word_writeBytes_addLine _ _ _ _ (hvals ▸ hi)]
  · rw [hbytes, cellGet_writeBytes_outside _ _ _ _ (hlen ▸ ha)]

theorem gives_added_unordered (hu : r.ordered = false ∨ c.index = none) : Gives .lineContribution s (AddedTo s · c pa) := by
  have hstay : ((s.withoutContribution c).applyLine r c.mma c.line c.vals).Staying :=
    applyLine_staying (s := s.withoutContribution c) hc h.place hsound h.staying _
  refine ⟨_, h.exec_unordered hu, ?_⟩
  rw [settleLeaving_of_none_leaves hstay]
  exact h.addedTo_applyLine hvals hc hsound ⟨rfl, rfl, rfl⟩ rfl

theorem gives_added_in_turn (ho : r.ordered = true) (hk : c.index = some (r.awaits c.line)) (hearly : ∀ e ∈ r.early, e.1 ≠ c.line) :
    Gives .lineContribution s (AddedTo s · c pa) := by
  have hregion := passTurn_region? h.region (r.awaits c.line)
  obtain ⟨r', hr', hsame⟩ := applyLine_region? (s := s.passTurn c (r.awaits c.line)) hc h.place hsound hregion c.mma
  have hstay := applyLine_staying (s := s.passTurn c (r.awaits c.line)) (vals := c.vals) hc h.place hsound
    (passTurn_staying h.staying _) c.mma
  refine ⟨_, h.exec_ordered ho hk, ?_⟩
  rw [if_pos rfl, applyEarly_of_none_held hr' (hsame ▸ hearly), settleLeaving_of_none_leaves hstay]
  exact h.addedTo_applyLine hvals hc hsound ⟨rfl, rfl, rfl⟩ rfl

end Applied

section Early

variable (h : Arrives s c r pa) (ho : r.ordered = true) {k : Nat} (hk : c.index = some k) (hne : k ≠ r.awaits c.line)
include h ho hk hne

/-- The slice has no room: it goes back to its core (R134). -/
theorem gives_returned (hflag : s.args.flag = true) (hcore : c.core ≠ Config.allCores) :
    Gives .lineContribution s fun t => t.mem = s.mem ∧ t.regions = s.regions ∧
      ∀ x ∈ t.contributions, x.id = c.id → x.returned = true := by
  refine ⟨_, h.exec_ordered ho hk, ?_⟩
  rw [if_neg hne, if_pos hflag, settleLeaving_of_none_leaves (sendBack_staying h.staying c), State.sendBack, if_neg hcore]
  refine ⟨rfl, rfl, fun x hx hid => ?_⟩
  obtain ⟨y, hy, rfl⟩ := List.mem_map.1 hx
  by_cases hyc : y.id = c.id
  · simp [hyc]
  · simp [hyc] at hid

/-- The core to which it would go back is out of service: it is lost (R304). -/
theorem gives_lost (hflag : s.args.flag = true) (hcore : c.core = Config.allCores) :
    Gives .lineContribution s fun t => t.mem = s.mem ∧
      t.contributions = s.contributions.filter fun x => decide (x.id ≠ c.id) := by
  refine ⟨_, h.exec_ordered ho hk, ?_⟩
  rw [if_neg hne, if_pos hflag, settleLeaving_of_none_leaves (sendBack_staying h.staying c), State.sendBack, if_pos hcore]
  exact ⟨lineEnded_mem .., lineEnded_contributions ..⟩

/-- The slice has room: the region holds it (R83). -/
theorem gives_held (hflag : s.args.flag = false) :
    Gives .lineContribution s fun t => t.mem = s.mem ∧
      t.region? c.part c.base = some { r with early := r.early ++ [(c.line, k, c.mma, c.vals)] } ∧
      t.contributions = s.contributions.filter fun x => decide (x.id ≠ c.id) := by
  refine ⟨_, h.exec_ordered ho hk, ?_⟩
  rw [if_neg hne, hflag, if_neg Bool.false_ne_true, settleLeaving_of_none_leaves (hold_staying h.staying k)]
  exact ⟨rfl, hold_region? h.region k, rfl⟩

end Early

end Arrives

/-- R134. What its core sends again is no longer returned. -/
theorem gives_retry (s : State) : Gives .contributionRetry s fun t => t.mem = s.mem ∧ t.parties = s.parties ∧
    t.contributions = s.contributions.map fun x => if x.id = s.args.x then { x with returned := false } else x :=
  ⟨_, rfl, rfl, rfl, by simp [updAll]⟩

/-- Settles O22: an unordered one or one in its turn is added, an early one is held, returned or lost; one returned is sent again. -/
theorem contributions : Obligations.Contributions := by
  refine ⟨fun s c r pa hfound hregion hvals hplace hcopies haccepted hstay hsound => ?_, gives_retry⟩
  have h : Arrives s c r pa := ⟨hfound, hregion, hplace, haccepted, hstay⟩
  refine ⟨fun hturn => ?added, fun k ho hk hne => ⟨?returned, ?lost, ?held⟩⟩
  case added =>
    by_cases hu : r.ordered = false ∨ c.index = none
    · exact h.gives_added_unordered hvals hcopies hsound hu
    · obtain ⟨ho, hi⟩ := not_or.1 hu
      obtain ⟨hk, hearly⟩ := (hturn.resolve_left ho).resolve_left hi
      exact h.gives_added_in_turn hvals hcopies hsound (Bool.not_eq_false _ ▸ ho) hk hearly
  case returned => exact h.gives_returned ho hk hne
  case lost => exact h.gives_lost ho hk hne
  case held => exact h.gives_held ho hk hne

end Sys2Proof.Machine
end

section
/-!
PROOFS. Scalar computation (R60, R90 to R94): what a scalar instruction with one or two sources writes, and what the results that the
model computes by other means are.
-/

namespace Sys2Proof.Machine

/-! ## Forms of scalar instructions -/

section Forms

variable {s : State} {i : Instr} {d a b : BitVec 6} {v : DWord}

theorem gives_scalar2 (meaning : State → Out) {f : DWord → DWord → DWord} (h : Ready s [d] [a, b]) (hi : exec i s = meaning s)
    (hm : meaning s = s.scalar2 d a b f) (hv : f (s.rd a) (s.rd b) = v) : Gives i s (Wrote s · d v) :=
  gives_alu h _ (hi.trans hm) (congrArg (s.alu d) hv)

theorem gives_scalar1 (meaning : State → Out) {f : DWord → DWord} (h : Ready s [d] [a]) (hi : exec i s = meaning s)
    (hm : meaning s = s.scalar1 d a f) (hv : f (s.rd a) = v) : Gives i s (Wrote s · d v) :=
  gives_alu h _ (hi.trans hm) (congrArg (s.alu d) hv)

end Forms

/-- What holds of a next state, by what it is known to imply. -/
theorem Gives.mono {i : Instr} {s : State} {P Q : State → Prop} (h : Gives i s P) (hPQ : ∀ t, P t → Q t) : Gives i s Q := by
  obtain ⟨t, ht, hP⟩ := h
  exact ⟨t, ht, hPQ t hP⟩

/-! ## Shifts, products and comparisons -/

theorem shiftLeft_eq_mul (x : DWord) (n : Nat) : x <<< n = BitVec.ofNat 64 (x.toNat * 2 ^ n) := by
  apply BitVec.eq_of_toNat_eq
  rw [BitVec.toNat_shiftLeft, BitVec.toNat_ofNat, Nat.shiftLeft_eq]

theorem ushiftRight_eq_div (x : DWord) (n : Nat) : x >>> n = BitVec.ofNat 64 (x.toNat / 2 ^ n) := by
  apply BitVec.eq_of_toNat_eq
  rw [BitVec.toNat_ushiftRight, BitVec.toNat_ofNat, Nat.shiftRight_eq_div_pow,
    Nat.mod_eq_of_lt (lt_of_le_of_lt (Nat.div_le_self ..) x.isLt)]

theorem sshiftRight_eq_div {w : Nat} (x : BitVec w) (n : Nat) : x.sshiftRight n = BitVec.ofInt w (x.toInt / 2 ^ n) := by
  rw [BitVec.sshiftRight, Int.shiftRight_eq_div_pow]
  norm_cast

theorem ite_slt_swap (x y : DWord) : (if y.slt x then y else x) = if x.toInt ≤ y.toInt then x else y := by
  by_cases h : x.toInt ≤ y.toInt
  · rw [if_pos h, if_neg (by simpa [BitVec.slt_iff_toInt_lt] using h)]
  · rw [if_neg h, if_pos (by simpa [BitVec.slt_iff_toInt_lt] using h)]

theorem ite_lt_swap (x y : DWord) : (if y < x then y else x) = if x.toNat ≤ y.toNat then x else y := by
  by_cases h : x.toNat ≤ y.toNat
  · rw [if_pos h, if_neg (by simpa [BitVec.lt_def] using h)]
  · rw [if_neg h, if_pos (by simpa [BitVec.lt_def] using h)]

theorem ite_slt_else (x y : DWord) : (if x.slt y then y else x) = if y.toInt ≤ x.toInt then x else y := by
  by_cases h : y.toInt ≤ x.toInt
  · rw [if_pos h, if_neg (by simpa [BitVec.slt_iff_toInt_lt] using h)]
  · rw [if_neg h, if_pos (by simpa [BitVec.slt_iff_toInt_lt] using h)]

theorem ite_lt_else (x y : DWord) : (if x < y then y else x) = if y.toNat ≤ x.toNat then x else y := by
  by_cases h : y.toNat ≤ x.toNat
  · rw [if_pos h, if_neg (by simpa [BitVec.lt_def] using h)]
  · rw [if_neg h, if_pos (by simpa [BitVec.lt_def] using h)]

theorem ofBool_slt (x y : DWord) : ofBool (x.slt y) = if x.toInt < y.toInt then 1 else 0 := by
  simp [ofBool, BitVec.slt_iff_toInt_lt]

theorem ofBool_decide (p : Prop) [Decidable p] : ofBool (decide p) = if p then 1 else 0 := by
  simp [ofBool]

theorem rotateLeft_mod (x : DWord) (n : Nat) :
    x.rotateLeft (n % 64) = x <<< (n % 64) ||| x >>> (64 - n % 64) := by
  rw [BitVec.rotateLeft, Nat.mod_mod]
  rfl

theorem sext32_eq (x : DWord) : sext32 x = (x.setWidth 32).signExtend 64 := by
  have hlow : x.extractLsb' 0 32 = x.setWidth 32 := by
    apply BitVec.eq_of_toNat_eq
    simp
  rw [sext32, hlow]

/-! ## Counts of bits (R90, R96) -/

/-- Below the leading zero bits of a pattern lies its highest set bit. -/
theorem leadingZeros_spec {w n : Nat} (h : n < 2 ^ w) :
    leadingZeros w n ≤ w ∧ n < 2 ^ (w - leadingZeros w n) ∧ (leadingZeros w n < w → 2 ^ (w - 1 - leadingZeros w n) ≤ n) := by
  unfold leadingZeros
  by_cases h0 : n = 0
  · simp [h0]
  · have hlog : n.log2 < w := (Nat.log2_lt h0).2 h
    have hw : w - (w - 1 - n.log2) = n.log2 + 1 := by omega
    have hw' : w - 1 - (w - 1 - n.log2) = n.log2 := by omega
    rw [if_neg h0, hw, hw']
    exact ⟨by omega, Nat.lt_log2_self, fun _ => Nat.log2_self_le h0⟩

/-- The highest set bit of a word is below its leading zero bits. -/
theorem getLsbD_below_leadingZeros (x : DWord) (h : leadingZeros 64 x.toNat < 64) :
    x.getLsbD (63 - leadingZeros 64 x.toNat) = true := by
  obtain ⟨-, hlt, hle⟩ := leadingZeros_spec x.isLt
  have hsucc : 64 - leadingZeros 64 x.toNat = 63 - leadingZeros 64 x.toNat + 1 := by omega
  rw [hsucc] at hlt
  exact Nat.testBit_of_two_pow_le_and_two_pow_add_one_gt (hle h) hlt

/-- Every bit below the trailing zero bits is zero, and the next one is set. -/
theorem trailingZeros_spec (w n : Nat) :
    trailingZeros w n ≤ w ∧ (∀ i, i < trailingZeros w n → n.testBit i = false) ∧
      (trailingZeros w n < w → n.testBit (trailingZeros w n) = true) := by
  unfold trailingZeros
  cases hfind : (List.range w).find? fun i => n.testBit i with
  | none =>
    rw [List.find?_range_eq_none] at hfind
    exact ⟨le_refl w, fun i hi => by simpa using hfind i hi, fun h => absurd h (lt_irrefl w)⟩
  | some k =>
    obtain ⟨hset, hmem, hbelow⟩ := List.find?_range_eq_some.1 hfind
    exact ⟨(List.mem_range.1 hmem).le, fun i hi => by simpa using hbelow i hi, fun _ => hset⟩

/-! ## Bytes in reverse -/

theorem getElem_toLe {n v i : Nat} (h : i < (toLe n v).length) : (toLe n v)[i] = BitVec.ofNat 8 (v / 256 ^ i) := by
  induction n generalizing v i with
  | zero => simp [toLe] at h
  | succ n ih =>
    cases i with
    | zero => simp [toLe]
    | succ i =>
      have hi : i < (toLe n (v / 256)).length := by simpa [toLe] using h
      simpa [toLe, Nat.div_div_eq_div_mul, Nat.pow_succ'] using ih hi

/-- Byte `i` of a little-endian value. -/
theorem le_div_mod (l : List Byte) {i : Nat} (h : i < l.length) : le l / 256 ^ i % 256 = (l[i]).toNat := by
  induction l generalizing i with
  | nil => simp at h
  | cons b r ih =>
    have hb : b.toNat < 256 := b.isLt
    cases i with
    | zero => simp [le, Nat.add_mul_mod_self_left, Nat.mod_eq_of_lt hb]
    | succ i =>
      have hdiv : (b.toNat + 256 * le r) / 256 = le r := by omega
      simpa [le, Nat.pow_succ', ← Nat.div_div_eq_div_mul, hdiv] using ih (by simpa using h)

theorem le_lt (l : List Byte) : le l < 256 ^ l.length := by
  induction l with
  | nil => simp [le]
  | cons b r ih =>
    have hb : b.toNat < 256 := b.isLt
    rw [le, List.length_cons, Nat.pow_succ']
    omega

/-- BSWAP: byte `i` of the reversed word is byte 7 − `i` of the word. -/
theorem extractLsb'_bswap (x : DWord) {i : Nat} (h : i < 8) :
    (dw (le (toLe 8 x.toNat).reverse)).extractLsb' (8 * i) 8 = x.extractLsb' (8 * (7 - i)) 8 := by
  have hlen : (toLe 8 x.toNat).reverse.length = 8 := by simp
  have hlt : le (toLe 8 x.toNat).reverse < 2 ^ 64 := by
    have := le_lt (toLe 8 x.toNat).reverse
    rwa [hlen] at this
  have hbyte := le_div_mod (toLe 8 x.toNat).reverse (i := i) (by omega)
  rw [List.getElem_reverse, getElem_toLe, length_toLe] at hbyte
  have hpow (k : Nat) : (2 : Nat) ^ (8 * k) = 256 ^ k := Nat.pow_mul 2 8 k
  apply BitVec.eq_of_toNat_eq
  rw [BitVec.extractLsb'_toNat, BitVec.extractLsb'_toNat, dw, BitVec.toNat_ofNat, Nat.mod_eq_of_lt hlt,
    Nat.shiftRight_eq_div_pow, Nat.shiftRight_eq_div_pow, hpow, hpow]
  exact hbyte

/-! ## Words that are no instruction (R5, R91) -/

/-- A word that does not decode raises class 0x01. -/
theorem raisesIllegal_of_error {w : Word} {e : DecodeError} (h : decodeMajor w = .error e) : RaisesIllegal w :=
  ⟨⟨e, by rw [decodeScalar, h]; rfl⟩, fun _ hs hflag => ⟨_, illegalEncoding_scalar hflag, trapped_trap hs _⟩⟩

/-- Function codes that no ALU instruction has (R41). -/
theorem decodeAlu_reserved {w : Word} (h : 0x20 ≤ (fFn w).toNat) : decodeAlu w = .error .reservedFunction := by
  unfold decodeAlu
  split
  rotate_right
  · rfl
  all_goals omega

/-- A one-source function code with a used `sb`. -/
theorem decodeAlu_mustBeZero {w : Word} (h1 : 0x18 ≤ (fFn w).toNat) (h2 : (fFn w).toNat ≤ 0x1C) (hb : fB w ≠ 0) :
    decodeAlu w = .error .mustBeZero := by
  have hz : (fB w == 0) = false := by simpa using hb
  have hfn : (fFn w).toNat = 24 ∨ (fFn w).toNat = 25 ∨ (fFn w).toNat = 26 ∨ (fFn w).toNat = 27 ∨ (fFn w).toNat = 28 := by omega
  obtain h | h | h | h | h := hfn <;> simp only [decodeAlu, h, hz, zeroOr] <;> rfl

/-- A shift by an immediate with bits [13:6] not zero. -/
theorem decodeMajor_shift_mustBeZero {w : Word} (h5 : 5 ≤ (fMajor w).toNat) (h7 : (fMajor w).toNat ≤ 7)
    (hi : (fImm14 w).toNat / 64 ≠ 0) : decodeMajor w = .error .mustBeZero := by
  have hz : (w.extractLsb' 6 8 == 0) = false := by
    rw [beq_eq_false_iff_ne]
    intro h0
    have h8 : w.toNat / 2 ^ 6 % 2 ^ 8 = 0 := by
      simpa [BitVec.extractLsb'_toNat, Nat.shiftRight_eq_div_pow] using congrArg BitVec.toNat h0
    rw [fImm14, BitVec.extractLsb'_toNat, Nat.shiftRight_zero] at hi
    omega
  have hm : (fMajor w).toNat = 5 ∨ (fMajor w).toNat = 6 ∨ (fMajor w).toNat = 7 := by omega
  obtain h | h | h := hm <;> simp only [decodeMajor, h, hz, zeroOr] <;> rfl

/-! ## Immediates (R92 to R94) -/

/-- An immediate of 20 bits times 2^14 fits a word. -/
theorem sext64_shiftLeft (i : BitVec 20) : (sext64 i <<< 14 : DWord) = BitVec.ofInt 64 (i.toInt * 2 ^ 14) := by
  apply BitVec.eq_of_toInt_eq
  have hext : (sext64 i).toInt = i.toInt := BitVec.toInt_signExtend_of_le (by decide)
  rw [BitVec.shiftLeft_eq_mul_twoPow, BitVec.toInt_mul, hext, BitVec.toInt_ofInt]
  rfl

theorem toInt_sext64_shiftLeft (i : BitVec 20) : (sext64 i <<< 14 : DWord).toInt = i.toInt * 2 ^ 14 := by
  have hlo := BitVec.le_toInt i
  have hhi := BitVec.toInt_lt (x := i)
  rw [sext64_shiftLeft, BitVec.toInt_ofInt, Int.bmod_eq_of_le] <;> omega

theorem append_low34 (i : BitVec 20) (x : DWord) :
    (i ++ x.extractLsb' 0 34 : BitVec 54) = BitVec.ofNat 54 (i.toNat * 2 ^ 34 + x.toNat % 2 ^ 34) := by
  apply BitVec.eq_of_toNat_eq
  have hi := i.isLt
  have hx : x.toNat % 2 ^ 34 < 2 ^ 34 := Nat.mod_lt _ (by decide)
  have hfit : i.toNat * 2 ^ 34 + x.toNat % 2 ^ 34 < 2 ^ 54 := by omega
  rw [BitVec.toNat_ofNat, Nat.mod_eq_of_lt hfit, BitVec.toNat_append, BitVec.extractLsb'_toNat, Nat.shiftRight_zero,
    ← Nat.shiftLeft_add_eq_or_of_lt hx, Nat.shiftLeft_eq]

/-! ## The claims -/

/-- Settles O1: each result is the model's own or one of the equations above; a word that has no function code is no instruction. -/
theorem aluRegister : Obligations.AluRegister := by
  refine ⟨fun s d a b h => ?two, fun s d a h => ?one, fun w hm hw => ?reserved⟩
  case two =>
    exact ⟨gives_scalar2 (execAdd d a b) h rfl rfl rfl, gives_scalar2 (execSub d a b) h rfl rfl rfl,
      gives_scalar2 (execAnd d a b) h rfl rfl rfl, gives_scalar2 (execOr d a b) h rfl rfl rfl,
      gives_scalar2 (execXor d a b) h rfl rfl rfl, gives_scalar2 (execAndn d a b) h rfl rfl rfl,
      gives_scalar2 (execShl d a b) h rfl rfl (shiftLeft_eq_mul ..), gives_scalar2 (execShr d a b) h rfl rfl (ushiftRight_eq_div ..),
      gives_scalar2 (execSar d a b) h rfl rfl (sshiftRight_eq_div ..), gives_scalar2 (execRol d a b) h rfl rfl (rotateLeft_mod ..),
      gives_scalar2 (execMul d a b) h rfl rfl rfl, gives_scalar2 (execMulh d a b) h rfl rfl rfl,
      gives_scalar2 (execMulhu d a b) h rfl rfl rfl, gives_scalar2 (execDiv d a b) h rfl rfl rfl,
      gives_scalar2 (execDivu d a b) h rfl rfl rfl, gives_scalar2 (execRem d a b) h rfl rfl rfl,
      gives_scalar2 (execRemu d a b) h rfl rfl rfl, gives_scalar2 (execMin d a b) h rfl rfl (ite_slt_swap ..),
      gives_scalar2 (execMax d a b) h rfl rfl (ite_slt_else ..), gives_scalar2 (execMinu d a b) h rfl rfl (ite_lt_swap ..),
      gives_scalar2 (execMaxu d a b) h rfl rfl (ite_lt_else ..), gives_scalar2 (execSlt d a b) h rfl rfl (ofBool_slt ..),
      gives_scalar2 (execSltu d a b) h rfl rfl (ofBool_decide _), gives_scalar2 (execSeq d a b) h rfl rfl (ofBool_decide _),
      gives_scalar2 (execAddw d a b) h rfl rfl (sext32_eq _), gives_scalar2 (execSubw d a b) h rfl rfl (sext32_eq _),
      gives_scalar2 (execMulw d a b) h rfl rfl (sext32_eq _)⟩
  case one =>
    refine ⟨?clz, ?ctz, gives_scalar1 (execPopc d a) h rfl rfl rfl, ?brev, ?bswap⟩
    case clz =>
      obtain ⟨hle, hlt, -⟩ := leadingZeros_spec (s.rd a).isLt
      exact (gives_scalar1 (execClz d a) h rfl rfl rfl).mono fun _ ht => ⟨_, ht, hle, hlt, getLsbD_below_leadingZeros _⟩
    case ctz =>
      obtain ⟨hle, hbelow, hset⟩ := trailingZeros_spec 64 (s.rd a).toNat
      exact (gives_scalar1 (execCtz d a) h rfl rfl rfl).mono fun _ ht => ⟨_, ht, hle, hbelow, hset⟩
    case brev =>
      refine (gives_scalar1 (execBrev d a) h rfl rfl rfl).mono fun _ ht => ⟨_, ht, fun i hi => ?_⟩
      rw [BitVec.getLsbD_reverse, BitVec.getMsbD, decide_eq_true hi, Bool.true_and]
    case bswap =>
      exact (gives_scalar1 (execBswap d a) h rfl rfl rfl).mono fun _ ht => ⟨_, ht, fun i hi => extractLsb'_bswap _ hi⟩
  case reserved =>
    have hmajor := major_00 hm
    obtain hfn | ⟨hlo, hhi, hb⟩ := hw
    · exact raisesIllegal_of_error (hmajor.trans (decodeAlu_reserved hfn))
    · exact raisesIllegal_of_error (hmajor.trans (decodeAlu_mustBeZero hlo hhi hb))

/-- Settles O2: the same of one source and an immediate. -/
theorem aluImmediate : Obligations.AluImmediate := by
  refine ⟨⟨fun s d a i h => ?immediate, fun s d a n h => ?shift, fun w h5 h7 hi => ?reserved⟩,
    fun s d i => ⟨fun h => ?upper, fun h => ?lhi⟩⟩
  case immediate =>
    have hslti : ofBool ((s.rd a).slt (sext64 i)) = if (s.rd a).toInt < i.toInt then 1 else 0 := by
      rw [ofBool_slt, sext64, BitVec.toInt_signExtend_of_le (by decide)]
    exact ⟨gives_scalar1 (execAddi d a i) (f := (· + sext64 i)) h rfl rfl rfl,
      gives_scalar1 (execAndi d a i) (f := (· &&& sext64 i)) h rfl rfl rfl,
      gives_scalar1 (execOri d a i) (f := (· ||| sext64 i)) h rfl rfl rfl,
      gives_scalar1 (execXori d a i) (f := (· ^^^ sext64 i)) h rfl rfl rfl,
      gives_scalar1 (execSlti d a i) (f := fun x => ofBool (x.slt (sext64 i))) h rfl rfl hslti,
      gives_scalar1 (execSltui d a i) (f := fun x => ofBool (decide (x < sext64 i))) h rfl rfl (ofBool_decide _),
      gives_scalar1 (execSeqi d a i) (f := fun x => ofBool (decide (x = sext64 i))) h rfl rfl (ofBool_decide _),
      gives_scalar1 (execMuli d a i) (f := (· * sext64 i)) h rfl rfl rfl⟩
  case shift =>
    exact ⟨gives_scalar1 (execShli d a n) (f := (· <<< n.toNat)) h rfl rfl (shiftLeft_eq_mul ..),
      gives_scalar1 (execShri d a n) (f := (· >>> n.toNat)) h rfl rfl (ushiftRight_eq_div ..),
      gives_scalar1 (execSari d a n) (f := (·.sshiftRight n.toNat)) h rfl rfl (sshiftRight_eq_div ..)⟩
  case reserved => exact raisesIllegal_of_error (decodeMajor_shift_mustBeZero h5 h7 hi)
  case upper =>
    have hlui : exec (.lui d i) s = execLui d i s := rfl
    have hauipc : exec (.auipc d i) s = execAuipc d i s := rfl
    refine ⟨(gives_alu h _ hlui rfl).mono fun _ ht => ⟨_, ht, toInt_sext64_shiftLeft i⟩, ?_⟩
    rw [← sext64_shiftLeft]
    exact gives_alu h _ hauipc rfl
  case lhi => exact gives_scalar1 (execLhi d i) h rfl rfl (congrArg (BitVec.signExtend 64) (append_low34 ..))

end Sys2Proof.Machine
end

section
/-!
SUPPORT. Lane registers (R15, R22, R85, R87, R89): what writing units of threads leaves, how a run goes on past an instruction, and the
passes of an instruction, each of which reads what no earlier pass has written.
-/

namespace Sys2Proof.Machine

/-! ## Threads -/

theorem Party.gw_le (q : Party) : q.gw ≤ 32 := by
  cases hw : q.width <;> simp [Party.gw, GroupWidth.threads, hw]

@[simp] theorem mem_threadsOf {gw : Nat} {m : Word} {t : Nat} : t ∈ threadsOf gw m ↔ t < gw ∧ m.getLsbD t = true := by
  simp [threadsOf]

theorem nodup_threadsOf (gw : Nat) (m : Word) : (threadsOf gw m).Nodup := List.nodup_range.filter _

theorem acts_iff {s : State} {r : Run} {w : LaneWord} {k : Nat} :
    Acts s r w k ↔ k ∈ threadsOf s.me.gw (s.me.activeMask r w.mask) := mem_threadsOf.symm

theorem Acts.lt {s : State} {r : Run} {w : LaneWord} {k : Nat} (h : Acts s r w k) : k < 32 := h.1.trans_le s.me.gw_le

theorem source_lt (w : LaneWord) {k n : Nat} (h : k < n) : source w k < n := by
  unfold source
  split
  · omega
  · exact h

/-- The bits of a mask of threads. -/
theorem getLsbD_maskOf (c : Nat → Bool) {n : Nat} (hn : n ≤ 32) (j : Nat) :
    (maskOf n c).getLsbD j = (decide (j < n) && c j) := by
  induction n with
  | zero => simp [maskOf]
  | succ n ih =>
    have hrec : maskOf (n + 1) c = if c n then maskOf n c ||| (1 : Word) <<< n else maskOf n c := by
      rw [maskOf, List.range_succ, List.foldl_append]
      rfl
    have hbit : ((1 : Word) <<< n).getLsbD j = decide (j = n) := by
      rw [BitVec.getLsbD_shiftLeft, Bool.eq_iff_iff]
      simp
      omega
    have hor : (maskOf (n + 1) c).getLsbD j = ((maskOf n c).getLsbD j || decide (j = n) && c n) := by
      rw [hrec]
      cases c n
      · simp
      · rw [if_pos rfl, BitVec.getLsbD_or, hbit, Bool.and_true]
    rw [hor, ih (by omega)]
    by_cases hj : j = n
    · simp [hj]
    · have hlt : j < n + 1 ↔ j < n := by omega
      simp [hj, hlt]

/-! ## Units of threads, written -/

/-- A unit of one thread, written. -/
def Party.putUnit (q : Party) (wide : Bool) (n : Nat) (x : Nat × Nat) : Party :=
  let q1 := q.setVreg n x.1 (wd x.2)
  if wide then q1.setVreg (n + 1) x.1 (wd (x.2 / 2 ^ 32)) else q1

/-- The party as `State.writeUnits` leaves it. -/
def Party.putUnits (q : Party) (wide : Bool) (n : Nat) (vals : List (Nat × Nat)) : Party :=
  vals.foldl (fun q x => q.putUnit wide n x) q

theorem writeUnits_eq (s : State) (p : PartyId) (wide : Bool) (n : Nat) (vals : List (Nat × Nat)) :
    ∃ es, s.writeUnits p wide n vals = { s.updParty p fun q => q.putUnits wide n vals with errors := es } := ⟨_, rfl⟩

/-- A write of units leaves everything of a party but its lane registers. -/
theorem Party.putUnits_frame (q : Party) (wide : Bool) (n : Nat) (vals : List (Nat × Nat)) :
    { q.putUnits wide n vals with vregs := q.vregs } = q := by
  refine List.foldlRecOn (motive := fun q' : Party => { q' with vregs := q.vregs } = q) _ _ rfl fun q' hq' x _ => ?_
  rw [← hq']
  cases wide <;> rfl

/-- A register that is not of the unit, or a thread that is not named, keeps its word. -/
theorem Party.vreg_putUnits_of_ne (q : Party) {wide : Bool} {n m t : Nat} {vals : List (Nat × Nat)} (ht : t < 32)
    (hvals : ∀ x ∈ vals, x.1 < 32) (h : (∀ x ∈ vals, x.1 ≠ t) ∨ m < n ∨ n + (if wide then 2 else 1) ≤ m) :
    (q.putUnits wide n vals).vreg m t = q.vreg m t := by
  refine List.foldlRecOn (motive := fun q' : Party => q'.vreg m t = q.vreg m t) _ _ rfl fun q' hq' x hx => ?_
  have hx32 := hvals x hx
  have hne : x.1 ≠ t ∨ m < n ∨ n + (if wide then 2 else 1) ≤ m := h.imp_left fun h => h x hx
  cases wide
  all_goals
    simp only [Bool.false_eq_true, if_true, if_false] at hne
    simp only [Party.putUnit, Bool.false_eq_true, if_true, if_false, Party.vreg_setVreg]
    rw [← hq']
  · rw [if_neg (by omega)]
  · rw [if_neg (by omega), if_neg (by omega)]

/-- A unit read after it has been written for its thread, whatever is written for other threads. -/
theorem Party.regUnit_putUnits (q : Party) {wide : Bool} {n t x : Nat} {vals : List (Nat × Nat)} (ht : t < 32)
    (hvals : ∀ y ∈ vals, y.1 < 32) (hx : (t, x) ∈ vals) (huniq : ∀ y, (t, y) ∈ vals → y = x) :
    (q.putUnits wide n vals).regUnit wide n t = x % 2 ^ (32 * if wide then 2 else 1) := by
  induction vals using List.reverseRecOn with
  | nil => simp at hx
  | append_singleton vals y ih =>
    have hput : q.putUnits wide n (vals ++ [y]) = (q.putUnits wide n vals).putUnit wide n y := by
      rw [Party.putUnits, List.foldl_append]
      rfl
    have hy32 := hvals y (by simp)
    rw [hput]
    by_cases hyt : y.1 = t
    · have hyx : y.2 = x := huniq y.2 (by simp [← hyt])
      cases wide
      · simp [Party.regUnit, Party.putUnit, hyt, hyx, wd]
      · simp [Party.regUnit, Party.putUnit, hyt, hyx, wd]
        omega
    · have hother : ((q.putUnits wide n vals).putUnit wide n y).regUnit wide n t = (q.putUnits wide n vals).regUnit wide n t := by
        have h (m : Nat) := (q.putUnits wide n vals).vreg_putUnits_of_ne (wide := wide) (n := n) (m := m) (vals := [y]) ht
          (by simpa using hy32) (.inl (by simpa using hyt))
        simp only [Party.putUnits, List.foldl_cons, List.foldl_nil] at h ⊢
        rw [Party.regUnit, h, h]
        rfl
      have hmem : (t, x) ∈ vals := by
        obtain h | h := List.mem_append.1 hx
        · exact h
        · exact absurd (congrArg Prod.fst (List.mem_singleton.1 h)) (Ne.symm hyt)
      rw [hother]
      exact ih (fun z hz => hvals z (by simp [hz])) hmem fun z hz => huniq z (by simp [hz])

/-! ## What a lane computation changes -/

/-- FRAME. Nothing of the machine differs but lane and mask registers of the acting party, and errors. -/
structure LaneWrote (s t : State) : Prop where
  here : t.here
  mine : { t.me with vregs := s.me.vregs, kregs := s.me.kregs } = s.me
  others : ∀ p, p ≠ s.actor → t.party p = s.party p
  rest : { t with parties := s.parties, errors := s.errors } = s

namespace LaneWrote

variable {s t u : State}

theorem refl (h : s.here) : LaneWrote s s := ⟨h, rfl, fun _ _ => rfl, rfl⟩

theorem actor (h : LaneWrote s t) : t.actor = s.actor := (congrArg State.actor h.rest :)

theorem run (h : LaneWrote s t) : t.me.run = s.me.run := (congrArg Party.run h.mine :)

theorem gw (h : LaneWrote s t) : t.me.gw = s.me.gw := (congrArg Party.gw h.mine :)

theorem trans (h : LaneWrote s t) (h' : LaneWrote t u) : LaneWrote s u where
  here := h'.here
  mine := (congrArg (fun q : Party => { q with vregs := s.me.vregs, kregs := s.me.kregs }) h'.mine).trans h.mine
  others p hp := (h'.others p (h.actor ▸ hp)).trans (h.others p hp)
  rest := (congrArg (fun x : State => { x with parties := s.parties, errors := s.errors }) h'.rest).trans h.rest

end LaneWrote

theorem keepsId_of_frame {f : Party → Party} (hf : ∀ q, { f q with vregs := q.vregs, kregs := q.kregs } = q) : KeepsId f :=
  fun q => (congrArg Party.id (hf q) :)

/-- An update of the acting party's lane and mask registers. -/
theorem laneWrote_upd {s : State} (h : s.here) {f : Party → Party} (hf : ∀ q, { f q with vregs := q.vregs, kregs := q.kregs } = q)
    (es : List ErrSite) : LaneWrote s { s.upd f with errors := es } where
  here := here_upd h f (keepsId_of_frame hf)
  mine := by
    have hme : ({ s.upd f with errors := es } : State).me = f s.me := State.me_upd h f (keepsId_of_frame hf)
    rw [hme, hf]
  others _ hp := State.party_upd_other s f (keepsId_of_frame hf) hp
  rest := rfl

section Units

variable {s : State} (h : s.here) (wide : Bool) (n : Nat) (vals : List (Nat × Nat))
include h

theorem laneWrote_writeUnits : LaneWrote s (s.writeUnits s.actor wide n vals) :=
  laneWrote_upd h (fun q => congrArg (fun x : Party => { x with kregs := q.kregs }) (q.putUnits_frame wide n vals)) _

theorem me_writeUnits : (s.writeUnits s.actor wide n vals).me = s.me.putUnits wide n vals :=
  State.me_upd h (fun q => q.putUnits wide n vals) fun q => (congrArg Party.id (q.putUnits_frame wide n vals) :)

theorem kregs_writeUnits : (s.writeUnits s.actor wide n vals).me.kregs = s.me.kregs := by
  rw [me_writeUnits h]
  exact (congrArg Party.kregs (s.me.putUnits_frame wide n vals) :)

end Units

/-! ## The run goes on (R12, R13, R313) -/

/-- A run as it stands past an instruction that produces `new`. -/
def Run.past (r : Run) (w : LaneWord) (new : List Producer) : Run :=
  { r with
    pc := (r.pc + if w.bsel = 3 then 16 else 12) % 2 ^ 64
    left := r.left - 1
    producers := (if w.u = 0 then r.producers.map fun p => { p with gap := p.gap + 1 } else r.producers) ++ new
    replay := none }

/-- A party of which the run goes on past an instruction. -/
def Party.goOn (q : Party) (r : Run) (clk : Nat) : Party := if r.left = 0 then q.endRun r clk else { q with run := some r }

theorem laneDone_eq_upd (s : State) (w : LaneWord) (new : List Producer) :
    ∃ f, KeepsId f ∧ s.laneDone w new = s.upd f ∧ ∀ q r, q.run = some r → f q = q.goOn (r.past w new) s.clk := by
  refine ⟨_, fun q => ?_, rfl, fun q r hr => ?_⟩
  · dsimp only
    split
    · rfl
    · split <;> rfl
  · simp only [hr]
    rfl

section LaneDone

variable {s : State} {r : Run} (w : LaneWord) (new : List Producer)

theorem me_laneDone (h : s.here) (hr : s.me.run = some r) : (s.laneDone w new).me = s.me.goOn (r.past w new) s.clk := by
  obtain ⟨f, hid, heq, hf⟩ := laneDone_eq_upd s w new
  rw [heq, State.me_upd h f hid, hf _ _ hr]

theorem party_laneDone_other {p : PartyId} (hp : p ≠ s.actor) : (s.laneDone w new).party p = s.party p := by
  obtain ⟨f, hid, heq, -⟩ := laneDone_eq_upd s w new
  rw [heq, State.party_upd_other s f hid hp]

theorem Party.goOn_frame (q : Party) (r : Run) (clk : Nat) :
    { q.goOn r clk with
      run := q.run
      checkpoint := q.checkpoint
      lastRunEnd := q.lastRunEnd
      readySince := q.readySince } = q := by
  unfold Party.goOn
  split <;> rfl

@[simp] theorem Party.goOn_vregs (q : Party) (r : Run) (clk : Nat) : (q.goOn r clk).vregs = q.vregs :=
  (congrArg Party.vregs (q.goOn_frame r clk) :)

@[simp] theorem Party.goOn_kregs (q : Party) (r : Run) (clk : Nat) : (q.goOn r clk).kregs = q.kregs :=
  (congrArg Party.kregs (q.goOn_frame r clk) :)

theorem Party.goOn_past_run (q : Party) (r : Run) (clk : Nat) :
    (q.goOn (r.past w new) clk).run = if r.left ≤ 1 then none else some (r.past w new) := by
  have hleft : (r.past w new).left = 0 ↔ r.left ≤ 1 := by
    show r.left - 1 = 0 ↔ _
    omega
  unfold Party.goOn
  by_cases hl : r.left ≤ 1
  · rw [if_pos (hleft.2 hl), if_pos hl]
    rfl
  · rw [if_neg (hleft.not.2 hl), if_neg hl]

theorem Party.goOn_past_checkpoint (q : Party) (r : Run) (clk : Nat) :
    (q.goOn (r.past w new) clk).checkpoint = if r.left ≤ 1 ∧ r.checkpoint ≠ none then r.checkpoint else q.checkpoint := by
  have hleft : (r.past w new).left = 0 ↔ r.left ≤ 1 := by
    show r.left - 1 = 0 ↔ _
    omega
  have hcheck : (r.past w new).checkpoint = r.checkpoint := rfl
  unfold Party.goOn
  by_cases hl : r.left ≤ 1
  · rw [if_pos (hleft.2 hl), Party.endRun, hcheck]
    cases r.checkpoint <;> simp [hl]
  · rw [if_neg (hleft.not.2 hl), if_neg fun h => hl h.1]

/-- What the claims say of a run that has gone on, whatever time it is. -/
theorem laneStepped_laneDone {u : State} (h : LaneWrote s { u with clk := s.clk }) (hr : s.me.run = some r) :
    LaneStepped s { u.laneDone w new with clk := s.clk } r w new := by
  have hrun : u.me.run = some r := h.run.trans hr
  have hhere : u.here := h.here
  have hme : ({ u.laneDone w new with clk := s.clk } : State).me = u.me.goOn (r.past w new) u.clk := me_laneDone w new hhere hrun
  have hframe := u.me.goOn_frame (r.past w new) u.clk
  have hmine : { u.me with vregs := s.me.vregs, kregs := s.me.kregs } = s.me := h.mine
  have hactor : u.actor = s.actor := h.actor
  refine ⟨?_, ?_, ?_, fun p hp => ?_, fun a => ?_, h.rest⟩
  · rw [hme, Party.goOn_past_run]
    rfl
  · rw [hme, Party.goOn_past_checkpoint, ← congrArg Party.checkpoint hmine]
  · rw [hme, ← hmine]
    unfold Party.goOn
    split <;> rfl
  · exact (party_laneDone_other w new (hactor ▸ hp)).trans (h.others p hp)
  · exact (congrArg (fun x : State => cellGet (w := 8) x.mem a) h.rest :)

end LaneDone

/-! ## A lane computation whose checks pass -/

section Gives

variable {s : State} {r : Run} (h : Running s r) (w : LaneWord) {u : LaneUse} {deps : Nat → List (Nat × List Block)}
  {k : State → Run → Word → State}
include h

/-- The checks at issue let it through to its effect. -/
theorem laneIssue_passes (hpass : LanePasses s r w u deps) :
    s.laneIssue w true u deps k = .next ((k s r (s.me.activeMask r w.mask)).laneDone w (u.produces (decide (w.u = 1)))) := by
  simp only [laneIssue_running h, hpass.regs, hpass.overlap, hpass.tags, hpass.gap, hpass.sound]
  rfl

/-- What a lane computation gives, by what its effect leaves in the lane and mask registers. -/
theorem laneGives_of_laneIssue {i : Instr} {P : State → Prop} (hi : exec i s = s.laneIssue w true u deps k)
    (heffect : LanePasses s r w u deps → LaneWrote s (k s r (s.me.activeMask r w.mask)) ∧
      ∀ t : State, t.me.vregs = (k s r (s.me.activeMask r w.mask)).me.vregs →
        t.me.kregs = (k s r (s.me.activeMask r w.mask)).me.kregs → P t) : LaneGives i s r w u deps P := by
  intro hpass
  obtain ⟨hwrote, hP⟩ := heffect hpass
  have hclk : (k s r (s.me.activeMask r w.mask)).clk = s.clk := (congrArg State.clk hwrote.rest :)
  have hsame : ({ k s r (s.me.activeMask r w.mask) with clk := s.clk } : State) = k s r (s.me.activeMask r w.mask) := by
    rw [← hclk]
  have hstepped := laneStepped_laneDone w (u.produces (decide (w.u = 1))) (by rw [hsame]; exact hwrote) h.run
  have hdone : ({ (k s r (s.me.activeMask r w.mask)).laneDone w (u.produces (decide (w.u = 1))) with clk := s.clk } : State) =
      (k s r (s.me.activeMask r w.mask)).laneDone w (u.produces (decide (w.u = 1))) := by
    rw [← hclk]
    rfl
  have hme := me_laneDone w (u.produces (decide (w.u = 1))) hwrote.here (hwrote.run.trans h.run)
  refine ⟨_, hi.trans (laneIssue_passes h w hpass), ?_, hP _ ?_ ?_⟩
  · rwa [hdone] at hstepped
  · rw [hme, Party.goOn_vregs]
  · rw [hme, Party.goOn_kregs]

end Gives

end Sys2Proof.Machine
end

section
/-!
SUPPORT. The passes of a lane computation (R15, R49, R85, R87): where its destination overlaps no source in part, every pass reads its
operands as they stood before the first.
-/

namespace Sys2Proof.Machine

/-! ## Registers by the words that hold them -/

theorem Party.vreg_congr {q q' : Party} (h : q.vregs = q'.vregs) (n t : Nat) : q.vreg n t = q'.vreg n t := by
  rw [Party.vreg, h, Party.vreg]

theorem Party.regUnit_congr {q q' : Party} (h : q.vregs = q'.vregs) (wide : Bool) (n t : Nat) :
    q.regUnit wide n t = q'.regUnit wide n t := by
  rw [Party.regUnit, Party.vreg_congr h, Party.vreg_congr h, Party.regUnit]

theorem LTy.regs_eq (ty : LTy) : ty.regs = if ty.wide then 2 else 1 := rfl

theorem LTy.regs_pos (ty : LTy) : 0 < ty.regs := by
  unfold LTy.regs
  split <;> decide

/-! ## Units of active threads, written at once -/

section Written

variable {s t : State} {r : Run} {w : LaneWord} (h : s.here) {wide : Bool} {n : Nat} {vals : List (Nat × Nat)}
  (hvals : ∀ x ∈ vals, Acts s r w x.1) (hv : t.me.vregs = (s.writeUnits s.actor wide n vals).me.vregs)
include h hvals hv

theorem onlyUnits_of_writeUnits (hk : t.me.kregs = (s.writeUnits s.actor wide n vals).me.kregs) :
    OnlyUnits s t r w n (if wide then 2 else 1) where
  others m k hk32 hne := by
    rw [Party.vreg_congr hv, me_writeUnits h]
    exact s.me.vreg_putUnits_of_ne hk32 (fun x hx => (hvals x hx).lt) (hne.imp_left fun hnot x hx hxk => hnot (hxk ▸ hvals x hx))
  masks := by rw [hk, kregs_writeUnits h]

theorem regUnit_of_writeUnits {k x : Nat} (hx : (k, x) ∈ vals) (huniq : ∀ y, (k, y) ∈ vals → y = x) :
    t.me.regUnit wide n k = x % 2 ^ (32 * if wide then 2 else 1) := by
  rw [Party.regUnit_congr hv, me_writeUnits h]
  exact s.me.regUnit_putUnits (hvals _ hx).lt (fun y hy => (hvals y hy).lt) hx huniq

end Written

/-! ## One pass -/

/-- The values of one pass: each active thread's, from the operands of the thread that decides it. -/
def passValues (q : Party) (w : LaneWord) (act : Word) (f : Party → Nat → Nat) : List (Nat × Nat) :=
  (threadsOf q.gw act).map fun t => (t, f q (source w t))

theorem lanePass_eq (s : State) (w : LaneWord) (act : Word) (wide : Bool) (n : Nat) (f : Party → Nat → Nat) :
    s.lanePass w act wide n f = s.writeUnits s.actor wide n (passValues s.me w act f) := by
  unfold State.lanePass passValues source
  by_cases hu : w.u = 1
  · simp only [if_pos hu]
  · simp only [if_neg hu]

theorem mem_passValues {q : Party} {w : LaneWord} {act : Word} {f : Party → Nat → Nat} {x : Nat × Nat} :
    x ∈ passValues q w act f ↔ x.1 ∈ threadsOf q.gw act ∧ x.2 = f q (source w x.1) := by
  obtain ⟨t, v⟩ := x
  simp only [passValues, List.mem_map, Prod.mk.injEq]
  constructor
  · rintro ⟨t', ht', rfl, rfl⟩
    exact ⟨ht', rfl⟩
  · rintro ⟨ht, rfl⟩
    exact ⟨t, ht, rfl, rfl⟩

/-! ## All passes -/

/-- Nothing of a party but `n` lane registers from `first` on differs. -/
structure SameBut (q q0 : Party) (first n : Nat) : Prop where
  mine : { q with vregs := q0.vregs } = q0
  vregs : ∀ m k, k < 32 → (m < first ∨ first + n ≤ m) → q.vreg m k = q0.vreg m k

/-- The first `n` passes. -/
def State.lanePasses (s : State) (w : LaneWord) (act : Word) (wide : Bool) (first : Nat) (f : Nat → Party → Nat → Nat) (n : Nat) : State :=
  (List.range n).foldl (fun s i => s.lanePass w act wide (first + i * if wide then 2 else 1) (f i)) s

/-- What `n` passes leave, each with the values that the operands as they stood before the first give. -/
structure Passed (s u : State) (w : LaneWord) (act : Word) (wide : Bool) (first : Nat) (f : Nat → Party → Nat → Nat) (n : Nat) :
    Prop where
  wrote : LaneWrote s u
  masks : u.me.kregs = s.me.kregs
  units : ∀ i k, i < n → k ∈ threadsOf s.me.gw act →
    u.me.regUnit wide (first + i * if wide then 2 else 1) k = f i s.me (source w k) % 2 ^ (32 * if wide then 2 else 1)
  others : ∀ m k, k < 32 → (k ∉ threadsOf s.me.gw act ∨ m < first ∨ first + (n * if wide then 2 else 1) ≤ m) →
    u.me.vreg m k = s.me.vreg m k

theorem Passed.sameBut {s u : State} {w : LaneWord} {act : Word} {wide : Bool} {first : Nat} {f : Nat → Party → Nat → Nat} {n : Nat}
    (h : Passed s u w act wide first f n) : SameBut u.me s.me first (n * if wide then 2 else 1) where
  mine := by
    have hmine := h.wrote.mine
    rwa [← h.masks] at hmine
  vregs m k hk hm := h.others m k hk (.inr hm)

/-- A unit that lies beside what a pass writes keeps its value. -/
theorem Party.regUnit_putUnits_of_ne (q : Party) {wide : Bool} {n m t : Nat} {vals : List (Nat × Nat)} (ht : t < 32)
    (hvals : ∀ x ∈ vals, x.1 < 32) (h : m + (if wide then 2 else 1) ≤ n) :
    (q.putUnits wide n vals).regUnit wide m t = q.regUnit wide m t := by
  have hbelow (m' : Nat) (hm' : m' < n) : (q.putUnits wide n vals).vreg m' t = q.vreg m' t :=
    q.vreg_putUnits_of_ne ht hvals (.inr (.inl hm'))
  cases wide
  all_goals simp only [Bool.false_eq_true, if_true, if_false] at h
  · simp [Party.regUnit, hbelow m (by omega)]
  · simp [Party.regUnit, hbelow m (by omega), hbelow (m + 1) (by omega)]

theorem lanePasses_passed {s : State} (h : s.here) (w : LaneWord) (act : Word) (wide : Bool) (first : Nat)
    (f : Nat → Party → Nat → Nat) (n : Nat)
    (hf : ∀ i, i < n → ∀ q, SameBut q s.me first (i * if wide then 2 else 1) → ∀ t, t < s.me.gw → f i q t = f i s.me t) :
    Passed s (s.lanePasses w act wide first f n) w act wide first f n := by
  induction n with
  | zero => exact ⟨.refl h, rfl, fun i k hi => absurd hi (Nat.not_lt_zero i), fun _ _ _ _ => rfl⟩
  | succ n ih =>
    have hn := ih fun i hi => hf i (by omega)
    have hstep : s.lanePasses w act wide first f (n + 1) =
        (s.lanePasses w act wide first f n).lanePass w act wide (first + n * if wide then 2 else 1) (f n) := by
      rw [State.lanePasses, List.range_succ, List.foldl_append]
      rfl
    rw [hstep, lanePass_eq]
    generalize s.lanePasses w act wide first f n = u at hn ⊢
    have hgw : u.me.gw = s.me.gw := hn.wrote.gw
    have hthread : ∀ x ∈ passValues u.me w act (f n), x.1 < s.me.gw := fun x hx =>
      (mem_threadsOf.1 (mem_passValues.1 hx).1).1.trans_eq hgw
    have hlt : ∀ x ∈ passValues u.me w act (f n), x.1 < 32 := fun x hx => (hthread x hx).trans_le s.me.gw_le
    have hval : ∀ x ∈ passValues u.me w act (f n), x.2 = f n s.me (source w x.1) := fun x hx =>
      (mem_passValues.1 hx).2.trans (hf n (by omega) u.me hn.sameBut _ (source_lt w (hthread x hx)))
    have hregs : 0 < if wide then 2 else 1 := by split <;> decide
    have hothers := hn.others
    generalize hr : (if wide then 2 else 1) = regs at *
    refine ⟨hn.wrote.trans (laneWrote_writeUnits hn.wrote.here ..), (kregs_writeUnits hn.wrote.here ..).trans hn.masks,
      fun i k hi hk => ?_, fun m k hk hm => ?_⟩
    · have hkgw : k < s.me.gw := (mem_threadsOf.1 hk).1
      have hk32 : k < 32 := hkgw.trans_le s.me.gw_le
      rw [me_writeUnits hn.wrote.here]
      obtain hlast | hearlier : i = n ∨ i < n := by omega
      · subst hlast
        have hmem : (k, f i s.me (source w k)) ∈ passValues u.me w act (f i) :=
          mem_passValues.2 ⟨by rwa [hgw], (hf i (by omega) u.me (by rw [← hr]; exact hn.sameBut) _ (source_lt w hkgw)).symm⟩
        rw [← hr]
        exact u.me.regUnit_putUnits hk32 hlt hmem fun y hy => hval _ hy
      · have hroom : i * regs + regs ≤ n * regs := by
          rw [← Nat.succ_mul]
          exact Nat.mul_le_mul_right _ hearlier
        rw [u.me.regUnit_putUnits_of_ne hk32 hlt (by rw [hr]; omega)]
        exact hn.units i k hearlier hk
    · rw [me_writeUnits hn.wrote.here]
      rw [hr, Nat.succ_mul] at hm
      rw [u.me.vreg_putUnits_of_ne hk hlt ?_, hothers m k hk (hm.imp_right fun hm => by omega)]
      rw [hr]
      refine hm.imp (fun hnot x hx hxk => hnot ?_) fun hm => by omega
      rw [← hxk, ← hgw]
      exact (mem_passValues.1 hx).1

/-- What the claims say of the registers after all passes. -/
theorem Passed.unitsAre {s u t : State} {r : Run} {w : LaneWord} {dst : LTy} {f : Nat → Party → Nat → Nat} {val : Nat → Nat → Nat}
    (h : Passed s u w (s.me.activeMask r w.mask) dst.wide w.vd.toNat f (w.cnt.toNat + 1)) (hv : t.me.vregs = u.me.vregs)
    (hk : t.me.kregs = u.me.kregs) (hval : ∀ i k, i ≤ w.cnt.toNat → Acts s r w k → f i s.me (source w k) = val i k) :
    UnitsAre s t r w dst val where
  units i k hi hk _ := by
    rw [Party.regUnit_congr hv, ← hval i k hi hk]
    exact h.units i k (by omega) (acts_iff.1 hk)
  others m k hk32 hne := by
    rw [Party.vreg_congr hv]
    exact h.others m k hk32 (hne.imp_left fun hnot => acts_iff.not.1 hnot)
  masks := hk.trans h.masks

/-! ## Operands that no earlier pass has written (R49) -/

/-- A destination block is apart from a source block, or the same. -/
def Block.Apart (d b : Block) : Prop := meets d.first d.count b.first b.count = false ∨ (d.first = b.first ∧ d.count = b.count)

theorem apart_of_overlaps {u : LaneUse} (h : u.overlaps = false) {d b : Block} (hd : d ∈ u.writes) (hb : b ∈ u.own ++ u.far) :
    d.Apart b := by
  rw [LaneUse.overlaps, List.any_eq_false] at h
  have hdb := h d hd
  rw [Bool.not_eq_true, List.any_eq_false] at hdb
  have hpair := hdb b hb
  unfold Block.Apart
  cases hm : meets d.first d.count b.first b.count
  · exact .inl rfl
  · rw [hm] at hpair
    exact .inr (by simpa using hpair)

/-- The unit that pass `i` reads of a source block lies beside what the passes before it have written. -/
theorem Block.Apart.beside {n first dr a ar x y i : Nat} (h : Block.Apart ⟨first, n * dr, x⟩ ⟨a, n * ar, y⟩) (hi : i < n) :
    a + i * ar + ar ≤ first ∨ first + i * dr ≤ a + i * ar := by
  have hroom (k : Nat) : i * k + k ≤ n * k := by
    rw [← Nat.succ_mul]
    exact Nat.mul_le_mul_right _ hi
  have hd := hroom dr
  have ha := hroom ar
  obtain hmeets | ⟨hfirst, hcount⟩ := h
  · simp only [meets, Bool.and_eq_false_iff, decide_eq_false_iff_not] at hmeets
    omega
  · have hsame : dr = ar := Nat.eq_of_mul_eq_mul_left (by omega) hcount
    subst hsame
    simp only at hfirst
    omega

theorem SameBut.regUnit {q q0 : Party} {first n : Nat} (h : SameBut q q0 first n) {wide : Bool} {m t : Nat} (ht : t < 32)
    (hm : m + (if wide then 2 else 1) ≤ first ∨ first + n ≤ m) : q.regUnit wide m t = q0.regUnit wide m t := by
  cases wide
  all_goals simp only [Bool.false_eq_true, if_true, if_false] at hm
  · simp [Party.regUnit, h.vregs m t ht (by omega)]
  · simp [Party.regUnit, h.vregs m t ht (by omega), h.vregs (m + 1) t ht (by omega)]

theorem SameBut.kreg {q q0 : Party} {first n : Nat} (h : SameBut q q0 first n) (m : Nat) : q.kreg m = q0.kreg m :=
  (congrArg (fun x : Party => x.kreg m) h.mine :)

/-- Operand b, which is a register block only where `bsel` is 0 (R85). -/
theorem Party.operandB_congr {q q' : Party} {r : Run} {w : LaneWord} {ty : LTy} {i t : Nat}
    (h : w.bsel = 0 → q.regUnit ty.wide (w.vb.toNat + i * ty.regs) t = q'.regUnit ty.wide (w.vb.toNat + i * ty.regs) t) :
    q.operandB r w ty i t = q'.operandB r w ty i t := by
  by_cases hb : w.bsel = 0
  · simp only [Party.operandB, hb]
    exact h hb
  · have hb' : w.bsel.toNat ≠ 0 := fun h0 => hb (BitVec.eq_of_toNat_eq h0)
    unfold Party.operandB
    dsimp only
    split
    · contradiction
    all_goals rfl

end Sys2Proof.Machine
end

section
/-!
PROOFS. Per-thread lane computations (R15, R85, R87): what the passes give, element by element; and the integer ones (R95 to R98).
-/

namespace Sys2Proof.Machine

/-! ## Elements of a unit (R48) -/

/-- Elements packed one above the other. -/
def packed (w : Nat) (f : Nat → Nat) (n : Nat) : Nat := (List.range n).foldl (fun v e => v + f e % 2 ^ w * 2 ^ (w * e)) 0

theorem packed_succ (w : Nat) (f : Nat → Nat) (n : Nat) : packed w f (n + 1) = packed w f n + 2 ^ (w * n) * (f n % 2 ^ w) := by
  rw [packed, List.range_succ, List.foldl_append, Nat.mul_comm (2 ^ (w * n))]
  rfl

theorem packed_lt (w : Nat) (f : Nat → Nat) (n : Nat) : packed w f n < 2 ^ (w * n) := by
  induction n with
  | zero => simp [packed]
  | succ n ih =>
    have hf : f n % 2 ^ w + 1 ≤ 2 ^ w := Nat.mod_lt _ (Nat.two_pow_pos w)
    calc packed w f (n + 1) = packed w f n + 2 ^ (w * n) * (f n % 2 ^ w) := packed_succ w f n
      _ < 2 ^ (w * n) + 2 ^ (w * n) * (f n % 2 ^ w) := by omega
      _ = 2 ^ (w * n) * (f n % 2 ^ w + 1) := by ring
      _ ≤ 2 ^ (w * n) * 2 ^ w := Nat.mul_le_mul_left _ hf
      _ = 2 ^ (w * (n + 1)) := by ring

theorem elem_packed (w : Nat) (f : Nat → Nat) {n e : Nat} (he : e < n) : packed w f n / 2 ^ (w * e) % 2 ^ w = f e % 2 ^ w := by
  induction n with
  | zero => exact absurd he (Nat.not_lt_zero e)
  | succ n ih =>
    rw [packed_succ]
    obtain rfl | hlt : e = n ∨ e < n := by omega
    · rw [Nat.add_mul_div_left _ _ (Nat.two_pow_pos _), Nat.div_eq_of_lt (packed_lt w f e), Nat.zero_add, Nat.mod_mod]
    · obtain ⟨d, rfl⟩ := Nat.exists_eq_add_of_lt hlt
      have hpow : 2 ^ (w * (e + d + 1)) = 2 ^ (w * e) * (2 ^ w * 2 ^ (w * d)) := by ring
      rw [hpow, Nat.mul_assoc, Nat.add_mul_div_left _ _ (Nat.two_pow_pos _), Nat.mul_assoc, Nat.add_mul_mod_self_left]
      exact ih hlt

theorem LTy.elem_lt (ty : LTy) (v e : Nat) : ty.elem v e < 2 ^ ty.width := Nat.mod_lt _ (Nat.two_pow_pos _)

/-- An element of a packed unit. -/
theorem LTy.elem_pack (ty : LTy) (f : Nat → Nat) {e : Nat} (he : e < ty.count) : ty.elem (ty.pack f) e = f e % 2 ^ ty.width :=
  elem_packed ty.width f he

/-! ## A per-thread computation, pass by pass -/

/-- A function of three operands heeds only those that an instruction reads. -/
def HeedsReads {α β : Type} (x : Reads) (f : α → α → α → β) : Prop :=
  ∀ a b c a' b' c', (x.a = true → a = a') → (x.b = true → b = b') → (x.c = true → c = c') → f a b c = f a' b' c'

section Heeds

variable {α β : Type}

theorem heedsReads_abc (f : α → α → α → β) : HeedsReads readsABC f :=
  fun _ _ _ _ _ _ ha hb hc => by rw [ha rfl, hb rfl, hc rfl]

theorem heedsReads_ab (f : α → α → β) : HeedsReads readsAB fun a b _ : α => f a b :=
  fun _ _ _ _ _ _ ha hb _ => by rw [ha rfl, hb rfl]

theorem heedsReads_a (f : α → β) : HeedsReads readsA fun a _ _ : α => f a :=
  fun _ _ _ _ _ _ ha _ _ => by rw [ha rfl]

theorem heedsReads_b (f : α → β) : HeedsReads ⟨false, true, false⟩ fun _ b _ : α => f b :=
  fun _ _ _ _ _ _ _ hb _ => by rw [hb rfl]

end Heeds

theorem LTy.each_heedsReads (ty : LTy) {x : Reads} {f : Nat → Nat → Nat → Nat} (hf : HeedsReads x f) : HeedsReads x (ty.each f) := by
  intro a b c a' b' c' ha hb hc
  refine congrArg ty.pack (funext fun e => hf _ _ _ _ _ _ ?_ ?_ ?_)
  · exact fun h => by rw [ha h]
  · exact fun h => by rw [hb h]
  · exact fun h => by rw [hc h]

/-- The unit that pass `i` of a per-thread computation gives a thread. -/
def perThreadUnit (r : Run) (w : LaneWord) (ty : LTy) (f : Nat → Nat → Nat → Nat) (i : Nat) (q : Party) (t : Nat) : Nat :=
  f (q.regUnit ty.wide (w.va.toNat + i * ty.regs) t) (q.operandB r w ty i t) (q.regUnit ty.wide (w.vc.toNat + i * ty.regs) t)

section PerThread

variable {s : State} {r : Run} (h : Running s r) {w : LaneWord} {ty : LTy}

/-- A source block of as many units as the destination is read, in each pass, as it stood before the first. -/
theorem sourceUnit_unwritten {u : LaneUse} {dst : LTy} (hover : u.overlaps = false)
    (hd : ⟨w.vd.toNat, (w.cnt.toNat + 1) * dst.regs, dst.regs⟩ ∈ u.writes) {a : Nat}
    (ha : ⟨a, (w.cnt.toNat + 1) * ty.regs, ty.regs⟩ ∈ u.own ++ u.far) {i : Nat} (hi : i < w.cnt.toNat + 1) {q : Party}
    (hq : SameBut q s.me w.vd.toNat (i * if dst.wide then 2 else 1)) {t : Nat} (ht : t < 32) :
    q.regUnit ty.wide (a + i * ty.regs) t = s.me.regUnit ty.wide (a + i * ty.regs) t :=
  hq.regUnit ht ((apart_of_overlaps hover hd ha).beside hi)

theorem mem_operandBlocks_a (w : LaneWord) (ty : LTy) (b c : Bool) :
    ⟨w.va.toNat, (w.cnt.toNat + 1) * ty.regs, ty.regs⟩ ∈ operandBlocks w ty true b c := by
  simp [operandBlocks]

theorem mem_operandBlocks_b {w : LaneWord} (ty : LTy) (a c : Bool) (hb : w.bsel = 0) :
    ⟨w.vb.toNat, (w.cnt.toNat + 1) * ty.regs, ty.regs⟩ ∈ operandBlocks w ty a true c := by
  simp [operandBlocks, hb]

theorem mem_operandBlocks_c (w : LaneWord) (ty : LTy) (a b : Bool) :
    ⟨w.vc.toNat, (w.cnt.toNat + 1) * ty.regs, ty.regs⟩ ∈ operandBlocks w ty a b true := by
  simp [operandBlocks]

/-- Every pass of a per-thread computation computes on the operands as they stood before the first. -/
theorem perThreadUnit_unwritten {x : Reads} {kind : ProducerKind} {f : Nat → Nat → Nat → Nat} (hf : HeedsReads x f)
    (hover : (unitUse w ty x kind).overlaps = false) {i : Nat} (hi : i < w.cnt.toNat + 1) {q : Party}
    (hq : SameBut q s.me w.vd.toNat (i * if ty.wide then 2 else 1)) {t : Nat} (ht : t < 32) :
    perThreadUnit r w ty f i q t = perThreadUnit r w ty f i s.me t := by
  have hsource {a : Nat} (ha : ⟨a, (w.cnt.toNat + 1) * ty.regs, ty.regs⟩ ∈ operandBlocks w ty x.a x.b x.c) :
      q.regUnit ty.wide (a + i * ty.regs) t = s.me.regUnit ty.wide (a + i * ty.regs) t :=
    sourceUnit_unwritten hover (List.mem_singleton_self _) (List.mem_append_left _ ha) hi hq ht
  refine hf _ _ _ _ _ _ (fun hx => ?_) (fun hx => Party.operandB_congr fun hb => ?_) fun hx => ?_
  · exact hsource (hx ▸ mem_operandBlocks_a w ty x.b x.c)
  · exact hsource (hx ▸ mem_operandBlocks_b ty x.a x.c hb)
  · exact hsource (hx ▸ mem_operandBlocks_c w ty x.a x.b)

theorem perThread_eq (hty : laneType w s.me.fmt = some ty) (ok : LTy → Bool) (x : Reads) (kind : ProducerKind)
    (f : LaneCtx → Nat → Nat → Nat → Nat) :
    s.perThread w ok x kind f = s.laneIssue w (ok ty) (unitUse w ty x kind) (fun _ => []) fun s' r act =>
      s'.lanePasses w act ty.wide w.vd.toNat (perThreadUnit r w ty (f (s.me.laneCtx w ty))) (w.cnt.toNat + 1) := by
  simp only [State.perThread, hty]
  rfl

include h

/-- What a per-thread computation gives: in every pass each active thread's unit. -/
theorem laneGives_perThread (hty : laneType w s.me.fmt = some ty) {i : Instr} {ok : LTy → Bool} {x : Reads} {kind : ProducerKind}
    {f : LaneCtx → Nat → Nat → Nat → Nat} (hi : exec i s = s.perThread w ok x kind f) (hok : ok ty = true)
    (hf : HeedsReads x (f (s.me.laneCtx w ty))) :
    LaneGives i s r w (unitUse w ty x kind) (fun _ => []) fun t =>
      UnitsAre s t r w ty fun i k => perThreadUnit r w ty (f (s.me.laneCtx w ty)) i s.me (source w k) := by
  rw [perThread_eq hty, hok] at hi
  refine laneGives_of_laneIssue h w hi fun hpass => ?_
  have hpassed := lanePasses_passed h.here w (s.me.activeMask r w.mask) ty.wide w.vd.toNat
    (perThreadUnit r w ty (f (s.me.laneCtx w ty))) (w.cnt.toNat + 1)
    fun i hi q hq t ht => perThreadUnit_unwritten hf hpass.overlap hi hq (ht.trans_le s.me.gw_le)
  exact ⟨hpassed.wrote, fun t hv hk => hpassed.unitsAre hv hk fun _ _ _ _ => rfl⟩

/-- The same of one that acts on each element: `g` is what it gives an element. -/
theorem laneGives_elements (hty : laneType w s.me.fmt = some ty) {i : Instr} {ok : LTy → Bool} {x : Reads} {kind : ProducerKind}
    {f : LaneCtx → Nat → Nat → Nat → Nat} (hi : exec i s = s.perThread w ok x kind f) (hok : ok ty = true)
    {e g : Nat → Nat → Nat → Nat} (hf : f (s.me.laneCtx w ty) = ty.each e) (he : HeedsReads x e)
    (hg : ∀ a b c, a < 2 ^ ty.width → b < 2 ^ ty.width → c < 2 ^ ty.width → e a b c % 2 ^ ty.width = g a b c) :
    LaneGives i s r w (unitUse w ty x kind) (fun _ => []) fun t => ElementsAre s t r w ty g := by
  intro hpass
  refine (laneGives_perThread h hty hi hok (hf ▸ ty.each_heedsReads he) hpass).mono fun t ht => ⟨ht.1, _, ht.2, ?_⟩
  intro j k el _ _ hel
  rw [perThreadUnit, hf, LTy.each, ty.elem_pack _ hel]
  exact hg _ _ _ (ty.elem_lt ..) (ty.elem_lt ..) (ty.elem_lt ..)

/-- An integer computation. -/
theorem laneGives_int (hty : laneType w s.me.fmt = some ty) {i : Instr} (meaning : State → Out) {ok : LTy → Bool} {x : Reads}
    {e : LTy → Nat → Nat → Nat → Nat} {g : Nat → Nat → Nat → Nat} (hi : exec i s = meaning s) (hm : meaning s = s.laneInt w ok x e)
    (hok : ok ty = true) (he : HeedsReads x (e ty))
    (hg : ∀ a b c, a < 2 ^ ty.width → b < 2 ^ ty.width → c < 2 ^ ty.width → e ty a b c % 2 ^ ty.width = g a b c) :
    LaneGives i s r w (unitUse w ty x .alu) (fun _ => []) fun t => ElementsAre s t r w ty g :=
  laneGives_elements h hty (hi.trans hm) hok rfl he hg

end PerThread

/-! ## Numbers of `W` bits -/

theorem toSigned_eq_toInt (w v : Nat) : toSigned w v = (BitVec.ofNat w v).toInt := by
  have hlt := Nat.mod_lt v (Nat.two_pow_pos w)
  have hhalf : v % 2 ^ w < 2 ^ (w - 1) ↔ 2 * (v % 2 ^ w) < 2 ^ w := by
    cases w with
    | zero => simp [Nat.mod_one]
    | succ w => rw [Nat.add_sub_cancel, Nat.pow_succ]; omega
  rw [toSigned, BitVec.toInt_eq_toNat_cond, BitVec.toNat_ofNat]
  simp only [hhalf]

theorem ofSigned_eq_toNat (w : Nat) (x : Int) : ofSigned w x = (BitVec.ofInt w x).toNat := (BitVec.toNat_ofInt x).symm

@[simp] theorem ofSigned_mod (w : Nat) (x : Int) : ofSigned w x % 2 ^ w = ofSigned w x := by
  rw [ofSigned_eq_toNat, BitVec.toNat_mod_cancel]

/-- The value of an element, as the claims read it. -/
theorem LTy.int_eq (ty : LTy) {a : Nat} (ha : a < 2 ^ ty.width) :
    ty.int a = if ty.signed then (BitVec.ofNat ty.width a).toInt else (BitVec.ofNat ty.width a).toNat := by
  unfold LTy.int
  rw [toSigned_eq_toInt, BitVec.toNat_ofNat, Nat.mod_eq_of_lt ha]

theorem lt_two_pow_of_le {n w : Nat} (h : n ≤ w) : n < 2 ^ w := h.trans_lt Nat.lt_two_pow_self

theorem setBits_le (w n : Nat) : setBits w n ≤ w := by
  have := List.countP_le_length (p := fun i => n.testBit i) (l := List.range w)
  rwa [List.length_range] at this

section Widths

variable {W a b c : Nat} (ha : a < 2 ^ W) (hb : b < 2 ^ W)

theorem add_width : (a + b) % 2 ^ W = (BitVec.ofNat W a + BitVec.ofNat W b).toNat := by simp

theorem mul_width : a * b % 2 ^ W = (BitVec.ofNat W a * BitVec.ofNat W b).toNat := by simp

theorem mad_width : (a * b + c) % 2 ^ W = (BitVec.ofNat W a * BitVec.ofNat W b + BitVec.ofNat W c).toNat := by simp

theorem sub_width : ofSigned W ((a : Int) - b) % 2 ^ W = (BitVec.ofNat W a - BitVec.ofNat W b).toNat := by
  rw [ofSigned_mod, ofSigned_eq_toNat]
  refine congrArg BitVec.toNat (BitVec.eq_of_toInt_eq ?_)
  rw [← BitVec.ofInt_natCast, ← BitVec.ofInt_natCast, BitVec.toInt_sub, BitVec.toInt_ofInt, BitVec.toInt_ofInt, BitVec.toInt_ofInt,
    Int.sub_bmod]

include ha in
theorem not_width : (2 ^ W - 1 - a) % 2 ^ W = (~~~BitVec.ofNat W a).toNat := by
  rw [BitVec.toNat_not, BitVec.toNat_ofNat, Nat.mod_eq_of_lt ha, Nat.mod_eq_of_lt (by have := Nat.two_pow_pos W; omega)]

include ha hb in
theorem and_width : (a &&& b) % 2 ^ W = (BitVec.ofNat W a &&& BitVec.ofNat W b).toNat := by
  rw [BitVec.toNat_and, BitVec.toNat_ofNat, BitVec.toNat_ofNat, Nat.mod_eq_of_lt ha, Nat.mod_eq_of_lt hb,
    Nat.mod_eq_of_lt (Nat.and_lt_two_pow _ hb)]

include ha hb in
theorem or_width : (a ||| b) % 2 ^ W = (BitVec.ofNat W a ||| BitVec.ofNat W b).toNat := by
  rw [BitVec.toNat_or, BitVec.toNat_ofNat, BitVec.toNat_ofNat, Nat.mod_eq_of_lt ha, Nat.mod_eq_of_lt hb,
    Nat.mod_eq_of_lt (Nat.or_lt_two_pow ha hb)]

include ha hb in
theorem xor_width : (a ^^^ b) % 2 ^ W = (BitVec.ofNat W a ^^^ BitVec.ofNat W b).toNat := by
  rw [BitVec.toNat_xor, BitVec.toNat_ofNat, BitVec.toNat_ofNat, Nat.mod_eq_of_lt ha, Nat.mod_eq_of_lt hb,
    Nat.mod_eq_of_lt (Nat.xor_lt_two_pow ha hb)]

theorem shl_width (n : Nat) : a * 2 ^ n % 2 ^ W = (BitVec.ofNat W a <<< n).toNat := by
  simp [Nat.shiftLeft_eq]

include ha in
theorem shr_width (n : Nat) : a / 2 ^ n % 2 ^ W = (BitVec.ofNat W a >>> n).toNat := by
  rw [BitVec.toNat_ushiftRight, BitVec.toNat_ofNat, Nat.mod_eq_of_lt ha, Nat.shiftRight_eq_div_pow,
    Nat.mod_eq_of_lt ((Nat.div_le_self ..).trans_lt ha)]

theorem sar_width (n : Nat) :
    ofSigned W (toSigned W a / (2 ^ n : Nat)) % 2 ^ W = ((BitVec.ofNat W a).sshiftRight n).toNat := by
  rw [ofSigned_mod, ofSigned_eq_toNat, toSigned_eq_toInt, sshiftRight_eq_div]
  norm_cast

theorem popc_width : setBits W a % 2 ^ W = (List.range W).countP fun i => (BitVec.ofNat W a).getLsbD i := by
  rw [Nat.mod_eq_of_lt (lt_two_pow_of_le (setBits_le W a)), setBits]
  refine List.countP_congr fun i hi => ?_
  rw [BitVec.getLsbD_ofNat, decide_eq_true (List.mem_range.1 hi), Bool.true_and]

theorem ite_mod_of_lt {p : Prop} [Decidable p] (ha : a < 2 ^ W) (hb : b < 2 ^ W) : (if p then a else b) % 2 ^ W = if p then a else b :=
  Nat.mod_eq_of_lt (by split <;> assumption)

theorem natAbs_width (x : Int) : x.natAbs % 2 ^ W = (BitVec.ofInt W (x.natAbs : Int)).toNat := by
  rw [BitVec.ofInt_natCast, BitVec.toNat_ofNat]

end Widths

/-! ## Fields (R97) -/

theorem ibfi_lt {p l a c : Nat} (hpl : p + l ≤ 32) (hc : c < 2 ^ 32) :
    c % 2 ^ p + a % 2 ^ l * 2 ^ p + c / 2 ^ (p + l) * 2 ^ (p + l) < 2 ^ 32 := by
  obtain ⟨d, hd⟩ := Nat.exists_eq_add_of_le hpl
  have hlow : c % 2 ^ p < 2 ^ p := Nat.mod_lt _ (Nat.two_pow_pos p)
  have hmid : a % 2 ^ l + 1 ≤ 2 ^ l := Nat.mod_lt _ (Nat.two_pow_pos l)
  have hhigh : c / 2 ^ (p + l) + 1 ≤ 2 ^ d := by
    refine Nat.div_lt_of_lt_mul ?_
    rwa [← Nat.pow_add, ← hd]
  calc c % 2 ^ p + a % 2 ^ l * 2 ^ p + c / 2 ^ (p + l) * 2 ^ (p + l)
      < (a % 2 ^ l + 1) * 2 ^ p + c / 2 ^ (p + l) * 2 ^ (p + l) := by rw [Nat.succ_mul]; omega
    _ ≤ 2 ^ l * 2 ^ p + c / 2 ^ (p + l) * 2 ^ (p + l) := Nat.add_le_add_right (Nat.mul_le_mul_right _ hmid) _
    _ = (c / 2 ^ (p + l) + 1) * 2 ^ (p + l) := by ring
    _ ≤ 2 ^ d * 2 ^ (p + l) := Nat.mul_le_mul_right _ hhigh
    _ = 2 ^ 32 := by rw [← Nat.pow_add, hd, Nat.add_comm]

theorem LTy.width_of_setW {ty : LTy} (h : ty.setW = true) : ty.width = 32 := by
  cases ty <;> simp_all [LTy.setW, LTy.width]

theorem LTy.signed_of_setW {ty : LTy} (h : ty.setW = true) : ty.signed = true ↔ ty = .s32 := by
  cases ty <;> simp_all [LTy.setW, LTy.signed]

/-! ## ISEL (R98) -/

/-- The unit that pass `i` of ISEL gives a thread. -/
def iselUnit (r : Run) (w : LaneWord) (ty : LTy) (sel i : Nat) (q : Party) (t : Nat) : Nat :=
  if (q.kreg sel).getLsbD t then q.regUnit ty.wide (w.va.toNat + i * ty.regs) t else q.operandB r w ty i t

section Isel

variable {s : State} {r : Run} {w : LaneWord} {ty : LTy}

theorem execIsel_eq (hty : laneType w s.me.fmt = some ty) :
    let sel := w.imm32.toNat % 8
    execIsel w s = s.laneIssue w ty.setA
      { unitUse w ty ⟨true, true, false⟩ .alu with masks := maskReads w ++ if sel = 0 then [] else [sel] } (fun _ => []) fun s r act =>
        s.lanePasses w act ty.wide w.vd.toNat (iselUnit r w ty sel) (w.cnt.toNat + 1) := by
  simp only [execIsel, hty]
  rfl

theorem laneGives_isel (h : Running s r) (hty : laneType w s.me.fmt = some ty) (hset : ty.setA = true) :
    let sel := w.imm32.toNat % 8
    LaneGives (.isel w) s r w
      { unitUse w ty ⟨true, true, false⟩ .alu with masks := maskReads w ++ if sel = 0 then [] else [sel] } (fun _ => []) fun t =>
        UnitsAre s t r w ty fun i k => iselUnit r w ty sel i s.me (source w k) := by
  intro sel
  have hi : exec (.isel w) s = execIsel w s := rfl
  rw [execIsel_eq hty, hset] at hi
  refine laneGives_of_laneIssue h w hi fun hpass => ?_
  have hunwritten : ∀ i, i < w.cnt.toNat + 1 → ∀ q, SameBut q s.me w.vd.toNat (i * if ty.wide then 2 else 1) → ∀ t, t < s.me.gw →
      iselUnit r w ty sel i q t = iselUnit r w ty sel i s.me t := by
    intro i hi q hq t ht
    have hsource {a : Nat} (ha : ⟨a, (w.cnt.toNat + 1) * ty.regs, ty.regs⟩ ∈ operandBlocks w ty true true false) :=
      sourceUnit_unwritten (s := s) hpass.overlap (List.mem_singleton_self _) (List.mem_append_left _ ha) hi hq
        (ht.trans_le s.me.gw_le)
    rw [iselUnit, iselUnit, hq.kreg, hsource (mem_operandBlocks_a ..),
      Party.operandB_congr fun hb => hsource (mem_operandBlocks_b ty _ _ hb)]
  have hpassed := lanePasses_passed h.here w (s.me.activeMask r w.mask) ty.wide w.vd.toNat (iselUnit r w ty sel) _ hunwritten
  exact ⟨hpassed.wrote, fun t hv hk => hpassed.unitsAre hv hk fun _ _ _ _ => rfl⟩

end Isel

/-! ## The claim -/

/-- Settles O43: the instructions are per-thread computations with the operands listed; their elements are the numbers of `W` bits
above. -/
theorem laneIntegers : Obligations.LaneIntegers := by
  intro s r w ty h hty
  have hint (a : Nat) (ha : a < 2 ^ ty.width) := ty.int_eq ha
  refine ⟨fun hset => ⟨?iadd, ?isub, ?imul, ?imad, ?iand, ?ior, ?ixor, ?inot, ?ishl, ?ishr, ?isar, ?imin, ?imax, ?imov, ?isel⟩,
    fun hset => ⟨?imulhi, ?ipopc, ?iclz⟩, fun hset => ?iabs, fun hset => ⟨?ibfe, ?ibfi⟩⟩
  case iadd => exact laneGives_int h hty (execIadd w) rfl rfl hset (heedsReads_ab _) fun _ _ _ _ _ _ => add_width
  case isub => exact laneGives_int h hty (execIsub w) rfl rfl hset (heedsReads_ab _) fun _ _ _ _ _ _ => sub_width
  case imul => exact laneGives_int h hty (execImul w) rfl rfl hset (heedsReads_ab _) fun _ _ _ _ _ _ => mul_width
  case imad => exact laneGives_int h hty (execImad w) rfl rfl hset (heedsReads_abc _) fun _ _ _ _ _ _ => mad_width
  case iand => exact laneGives_int h hty (execIand w) rfl rfl hset (heedsReads_ab _) fun _ _ _ ha hb _ => and_width ha hb
  case ior => exact laneGives_int h hty (execIor w) rfl rfl hset (heedsReads_ab _) fun _ _ _ ha hb _ => or_width ha hb
  case ixor => exact laneGives_int h hty (execIxor w) rfl rfl hset (heedsReads_ab _) fun _ _ _ ha hb _ => xor_width ha hb
  case inot => exact laneGives_int h hty (execInot w) rfl rfl hset (heedsReads_a _) fun _ _ _ ha _ _ => not_width ha
  case ishl => exact laneGives_int h hty (execIshl w) rfl rfl hset (heedsReads_ab _) fun _ _ _ _ _ _ => shl_width _
  case ishr => exact laneGives_int h hty (execIshr w) rfl rfl hset (heedsReads_ab _) fun _ _ _ ha _ _ => shr_width ha _
  case isar => exact laneGives_int h hty (execIsar w) rfl rfl hset (heedsReads_ab _) fun _ _ _ _ _ _ => sar_width _
  case imin =>
    refine laneGives_int h hty (execImin w) rfl rfl hset (heedsReads_ab _) fun a b _ ha hb _ => ?_
    rw [ite_mod_of_lt hb ha, hint a ha, hint b hb]
  case imax =>
    refine laneGives_int h hty (execImax w) rfl rfl hset (heedsReads_ab _) fun a b _ ha hb _ => ?_
    rw [ite_mod_of_lt hb ha, hint a ha, hint b hb]
  case imov => exact laneGives_int h hty (execImov w) rfl rfl hset (heedsReads_b _) fun _ _ _ _ hb _ => Nat.mod_eq_of_lt hb
  case isel => exact laneGives_isel h hty hset
  case imulhi =>
    refine laneGives_int h hty (execImulhi w) rfl rfl hset (heedsReads_ab _) fun a b _ ha hb _ => ?_
    rw [ofSigned_mod, ofSigned_eq_toNat, hint a ha, hint b hb]
    norm_cast
  case ipopc => exact laneGives_int h hty (execIpopc w) rfl rfl hset (heedsReads_a _) fun _ _ _ _ _ _ => popc_width
  case iclz =>
    refine fun hpass => (laneGives_int (g := fun a _ _ => leadingZeros ty.width a % 2 ^ ty.width) h hty (execIclz w) rfl rfl hset
      (heedsReads_a _) (fun _ _ _ _ _ _ => rfl) hpass).mono fun t ht => ⟨ht.1, _, ht.2, fun a ha => ?_⟩
    obtain ⟨hle, hspec⟩ := leadingZeros_spec ha
    rw [Nat.mod_eq_of_lt (lt_two_pow_of_le hle)]
    exact ⟨hle, hspec⟩
  case iabs =>
    refine laneGives_int h hty (execIabs w) rfl rfl hset (heedsReads_a _) fun a _ _ ha _ _ => ?_
    have hsigned : ty.signed = true := hset
    rw [natAbs_width, hint a ha, if_pos hsigned]
  case ibfe =>
    refine laneGives_int h hty (execIbfe w) rfl rfl hset (heedsReads_ab _) fun a b _ ha _ _ => ?_
    have hfield (p l : Nat) : a / 2 ^ p % 2 ^ l < 2 ^ 32 :=
      (Nat.mod_le ..).trans_lt ((Nat.div_le_self ..).trans_lt (LTy.width_of_setW hset ▸ ha))
    simp only [fieldOf, LTy.signed_of_setW hset, LTy.width_of_setW hset, toSigned_eq_toInt, ofSigned_eq_toNat]
    refine Nat.mod_eq_of_lt ?_
    split
    · exact BitVec.isLt _
    · exact hfield ..
  case ibfi =>
    refine laneGives_int h hty (execIbfi w) rfl rfl hset (heedsReads_abc _) fun a b c _ _ hc => Nat.mod_eq_of_lt ?_
    rw [LTy.width_of_setW hset] at hc ⊢
    exact ibfi_lt (by omega) hc

end Sys2Proof.Machine
end

section
/-!
PROOFS. The floating lane computations (R71, R72, R99, R100), the special functions (R116) and CVT (R101 to R103).
-/

namespace Sys2Proof.Machine

/-! ## Floating computations -/

section Floats

variable {s : State} {r : Run} (h : Running s r) {w : LaneWord} {ty : LTy} {ft : FType}
include h

/-- Each element is the exact result of its operands, read and written by the rules of R71, rounded once (R72). -/
theorem laneGives_float (hty : laneType w s.me.fmt = some ty) (hft : ty.float? = some ft) {i : Instr} (meaning : State → Out)
    {ok : LTy → Bool} {x : Reads} {kind : ProducerKind} {g : Rnd → FVal → FVal → FVal → FVal} (hi : exec i s = meaning s)
    (hm : meaning s = s.laneFloat w ok x kind g) (hok : ok ty = true) (hg : HeedsReads x (g (laneRnd w s.me.fmt))) :
    let cx := s.me.laneCtx w ty
    LaneGives i s r w (unitUse w ty x kind) (fun _ => []) fun t => ElementsAre s t r w ty fun a b c =>
      cx.write ft cx.rnd false (g cx.rnd (cx.read ft a) (cx.read ft b) (cx.read ft c)) % 2 ^ ty.width := by
  intro cx
  have hf : (fun a b c => match cx.ty.float? with
      | none => 0
      | some t => cx.ty.each (fun a b c => cx.write t cx.rnd false (g cx.rnd (cx.read t a) (cx.read t b) (cx.read t c))) a b c) =
      ty.each fun a b c => cx.write ft cx.rnd false (g cx.rnd (cx.read ft a) (cx.read ft b) (cx.read ft c)) := by
    have hcx : cx.ty = ty := rfl
    rw [hcx, hft]
  refine laneGives_elements h hty (hi.trans hm) hok hf (fun a b c a' b' c' ha hb hc => ?_) fun _ _ _ _ _ _ => rfl
  exact congrArg (cx.write ft cx.rnd false) (hg _ _ _ _ _ _ (fun hx => by rw [ha hx]) (fun hx => by rw [hb hx]) fun hx => by rw [hc hx])

/-- A special function of one F32 operand (R116). -/
theorem laneGives_special (hty : laneType w s.me.fmt = some .f32) {i : Instr} (meaning : State → Out) (f : FVal → FVal)
    (hi : exec i s = meaning s) (hm : meaning s = s.laneSpecial w f) :
    let cx := s.me.laneCtx w .f32
    LaneGives i s r w (unitUse w .f32 readsA .special) (fun _ => []) fun t => ElementsAre s t r w .f32 fun a _ _ =>
      cx.write .f32 cx.rnd false (f (cx.read .f32 a)) % 2 ^ LTy.f32.width :=
  laneGives_float (g := fun _ a _ _ => f a) h hty rfl meaning hi hm rfl (heedsReads_a f)

end Floats

/-! ## CVT -/

/-- The unit that pass `i` of CVT gives a thread. -/
def cvtUnit (cx : LaneCtx) (w : LaneWord) (ty dst : LTy) (sat : Bool) (pos i : Nat) (q : Party) (t : Nat) : Nat :=
  cx.convertUnit dst sat pos (q.regUnit ty.wide (w.va.toNat + i * ty.regs) t) (q.regUnit dst.wide (w.vd.toNat + i * dst.regs) t)

/-- What CVT uses: a narrowing one reads its destination as well. -/
def cvtUse (w : LaneWord) (ty dst : LTy) : LaneUse :=
  let into : Block := ⟨w.vd.toNat, (w.cnt.toNat + 1) * dst.regs, dst.regs⟩
  ⟨⟨w.va.toNat, (w.cnt.toNat + 1) * ty.regs, ty.regs⟩ :: if ty.count < dst.count then [into] else [], [], [into], maskReads w, none, .alu⟩

section Convert

variable {s : State} {r : Run} {w : LaneWord} {ty dst : LTy}

theorem execCvt_eq (hty : laneType w s.me.fmt = some ty) (hdst : LTy.ofCode (w.imm32.toNat % 16) = some dst) :
    let pos := w.imm32.toNat / 32 % 4
    let cx := s.me.laneCtx w ty
    execCvt w s = s.laneIssue w
      (decide (pos < if ty.count < dst.count then dst.count / ty.count else ty.count / dst.count)) (cvtUse w ty dst) (fun _ => [])
      fun s _ act => s.lanePasses w act dst.wide w.vd.toNat (cvtUnit cx w ty dst (w.imm32.getLsbD 4 || cx.sat) pos)
        (w.cnt.toNat + 1) := by
  simp only [execCvt, hty, hdst]
  rfl

/-- What CVT gives: in every pass each active thread's unit. -/
theorem laneGives_cvt (h : Running s r) (hty : laneType w s.me.fmt = some ty)
    (hdst : LTy.ofCode (w.imm32.toNat % 16) = some dst)
    (hpos : w.imm32.toNat / 32 % 4 < if ty.count < dst.count then dst.count / ty.count else ty.count / dst.count) :
    let pos := w.imm32.toNat / 32 % 4
    let cx := s.me.laneCtx w ty
    LaneGives (.cvt w) s r w (cvtUse w ty dst) (fun _ => []) fun t =>
      UnitsAre s t r w dst fun i k => cvtUnit cx w ty dst (w.imm32.getLsbD 4 || cx.sat) pos i s.me (source w k) := by
  intro pos cx
  have hi : exec (.cvt w) s = execCvt w s := rfl
  rw [execCvt_eq hty hdst, decide_eq_true hpos] at hi
  refine laneGives_of_laneIssue h w hi fun hpass => ?_
  have hunwritten : ∀ i, i < w.cnt.toNat + 1 → ∀ q, SameBut q s.me w.vd.toNat (i * if dst.wide then 2 else 1) → ∀ t, t < s.me.gw →
      cvtUnit cx w ty dst (w.imm32.getLsbD 4 || cx.sat) pos i q t =
        cvtUnit cx w ty dst (w.imm32.getLsbD 4 || cx.sat) pos i s.me t := by
    intro i hi q hq t htgw
    have ht := htgw.trans_le s.me.gw_le
    have hsource := sourceUnit_unwritten (ty := ty) (dst := dst) hpass.overlap (List.mem_singleton_self _) List.mem_cons_self hi hq ht
    have hold := hq.regUnit (wide := dst.wide) (m := w.vd.toNat + i * dst.regs) ht (.inr (le_refl _))
    rw [cvtUnit, cvtUnit, hsource, hold]
  have hpassed := lanePasses_passed h.here w (s.me.activeMask r w.mask) dst.wide w.vd.toNat _ _ hunwritten
  exact ⟨hpassed.wrote, fun t hv hk => hpassed.unitsAre hv hk fun _ _ _ _ => rfl⟩

end Convert

section ConvertUnit

variable (cx : LaneCtx) (dst : LTy) (sat : Bool) (pos a old : Nat) {e : Nat} (he : e < dst.count)
include he

/-- Where the destination has as many elements or fewer, each is a selected one converted (R102). -/
theorem LaneCtx.elem_convertUnit_widening (h : ¬cx.ty.count < dst.count) :
    dst.elem (cx.convertUnit dst sat pos a old) e = cx.convert dst sat (cx.ty.elem a (pos * dst.count + e)) % 2 ^ dst.width :=
  (dst.elem_pack _ he).trans (by rw [if_neg h])

/-- A narrowing conversion writes the elements that the position selects. -/
theorem LaneCtx.elem_convertUnit_selected (h : cx.ty.count < dst.count) (hlo : pos * cx.ty.count ≤ e)
    (hhi : e < pos * cx.ty.count + cx.ty.count) :
    dst.elem (cx.convertUnit dst sat pos a old) e = cx.convert dst sat (cx.ty.elem a (e - pos * cx.ty.count)) % 2 ^ dst.width :=
  (dst.elem_pack _ he).trans (by rw [if_pos h, if_pos ⟨hlo, hhi⟩])

/-- It keeps the others. -/
theorem LaneCtx.elem_convertUnit_kept (h : cx.ty.count < dst.count) (hout : e < pos * cx.ty.count ∨ pos * cx.ty.count + cx.ty.count ≤ e) :
    dst.elem (cx.convertUnit dst sat pos a old) e = dst.elem old e :=
  (dst.elem_pack _ he).trans (by rw [if_pos h, if_neg (by omega), Nat.mod_eq_of_lt (dst.elem_lt ..)])

end ConvertUnit

/-! ## The claim -/

/-- Settles O44: each instruction is a floating computation with the operands listed; CVT by its elements. -/
theorem laneFloats : Obligations.LaneFloats := by
  refine fun s r w ty h hty => ⟨fun ft hset hft => ?floats, fun dst hdst => ?convert⟩
  case floats =>
    refine ⟨?fadd, ?fsub, ?fmul, ?ffma, ?fmin, ?fmax, ?fabs, ?fneg, ?frint, fun hf32 => ?special⟩
    case fadd => exact laneGives_float h hty hft (execFadd w) rfl rfl hset (heedsReads_ab _)
    case fsub => exact laneGives_float h hty hft (execFsub w) rfl rfl hset (heedsReads_ab _)
    case fmul => exact laneGives_float h hty hft (execFmul w) rfl rfl hset (heedsReads_ab _)
    case ffma => exact laneGives_float h hty hft (execFfma w) rfl rfl hset (heedsReads_abc _)
    case fmin => exact laneGives_float h hty hft (execFmin w) rfl rfl hset (heedsReads_ab _)
    case fmax => exact laneGives_float h hty hft (execFmax w) rfl rfl hset (heedsReads_ab _)
    case fabs => exact laneGives_float h hty hft (execFabs w) rfl rfl hset (heedsReads_a _)
    case fneg => exact laneGives_float h hty hft (execFneg w) rfl rfl hset (heedsReads_a _)
    case frint => exact laneGives_float h hty hft (execFrint w) rfl rfl hset (heedsReads_a _)
    case special =>
      subst hf32
      cases hft
      exact ⟨laneGives_special h hty (execRcp w) FVal.rcp rfl rfl, laneGives_special h hty (execRsqrt w) FVal.rsqrt rfl rfl,
        laneGives_special h hty (execSqrt w) FVal.sqrt rfl rfl,
        laneGives_float (g := fun _ a b _ => a.div b) h hty rfl (execLaneDiv w) rfl rfl rfl (heedsReads_ab _),
        laneGives_special h hty (execExp2 w) FVal.exp2 rfl rfl, laneGives_special h hty (execLog2 w) FVal.log2 rfl rfl,
        laneGives_special h hty (execSin w) FVal.sin rfl rfl, laneGives_special h hty (execCos w) FVal.cos rfl rfl,
        laneGives_special h hty (execTanh w) FVal.tanh rfl rfl⟩
  case convert =>
    intro pos narrows cx sat into u hpos hpass
    refine (laneGives_cvt h hty hdst hpos hpass).mono fun t ht => ⟨ht.1, _, ht.2, fun i k e _ _ he => ?_⟩
    exact ⟨fun hwide => cx.elem_convertUnit_widening dst sat pos _ _ he hwide,
      fun hnarrow hlo hhi => cx.elem_convertUnit_selected dst sat pos _ _ he hnarrow hlo hhi,
      fun hnarrow hout => cx.elem_convertUnit_kept dst sat pos _ _ he hnarrow hout⟩

end Sys2Proof.Machine
end

section
/-!
PROOFS. Lane instructions across threads (R104 to R112), compares (R113 to R115), LNOP and LID (R117, R118): every one writes its active
threads at once, or one mask register.
-/

namespace Sys2Proof.Machine

/-! ## What a lane computation gives, from its writes -/

/-- What holds after a lane computation, by what it is known to imply. -/
theorem LaneGives.mono {i : Instr} {s : State} {r : Run} {w : LaneWord} {u : LaneUse} {deps : Nat → List (Nat × List Block)}
    {P Q : State → Prop} (h : LaneGives i s r w u deps P)
    (hPQ : ∀ t, LaneStepped s t r w (u.produces (decide (w.u = 1))) → P t → Q t) : LaneGives i s r w u deps Q :=
  fun hpass => (h hpass).mono fun t ht => ⟨ht.1, hPQ t ht.1 ht.2⟩

/-- Units of active threads are in their destination, and nothing else has changed. -/
structure UnitsWritten (s t : State) (r : Run) (w : LaneWord) (wide : Bool) (n : Nat) (vals : List (Nat × Nat)) : Prop where
  only : OnlyUnits s t r w n (if wide then 2 else 1)
  units : ∀ k x, (k, x) ∈ vals → (∀ y, (k, y) ∈ vals → y = x) → t.me.regUnit wide n k = x % 2 ^ (32 * if wide then 2 else 1)

/-- Each active thread has its own value. -/
theorem UnitsWritten.of_acts {s t : State} {r : Run} {w : LaneWord} {wide : Bool} {n : Nat} {val : Nat → Nat}
    (h : UnitsWritten s t r w wide n ((threadsOf s.me.gw (s.me.activeMask r w.mask)).map fun k => (k, val k))) {k : Nat}
    (hk : Acts s r w k) : t.me.regUnit wide n k = val k % 2 ^ (32 * if wide then 2 else 1) := by
  refine h.units k (val k) (List.mem_map.2 ⟨k, acts_iff.1 hk, rfl⟩) fun y hy => ?_
  obtain ⟨k', -, heq⟩ := List.mem_map.1 hy
  obtain ⟨rfl, rfl⟩ := Prod.mk.inj heq
  rfl

theorem Party.regUnit_false (q : Party) (n k : Nat) : q.regUnit false n k = (q.vreg n k).toNat := rfl

section Writes

variable {s : State} {r : Run} (h : Running s r) {w : LaneWord} {u : LaneUse} {deps : Nat → List (Nat × List Block)}
  {k : State → Run → Word → State} {i : Instr} {wide : Bool} {n : Nat} {vals : List (Nat × Nat)}
include h

/-- A lane computation whose effect is one write of units. -/
theorem laneGives_writeUnits (hi : exec i s = s.laneIssue w true u deps k)
    (hk : k s r (s.me.activeMask r w.mask) = s.writeUnits s.actor wide n vals) (hvals : ∀ x ∈ vals, Acts s r w x.1) :
    LaneGives i s r w u deps fun t => UnitsWritten s t r w wide n vals := by
  refine laneGives_of_laneIssue h w hi fun _ => ?_
  rw [hk]
  exact ⟨laneWrote_writeUnits h.here .., fun t hv hm =>
    ⟨onlyUnits_of_writeUnits h.here hvals hv hm, fun _ _ => regUnit_of_writeUnits h.here hvals hv⟩⟩

end Writes

theorem acts_of_mem_map {s : State} {r : Run} {w : LaneWord} {val : Nat → Nat} {x : Nat × Nat}
    (hx : x ∈ (threadsOf s.me.gw (s.me.activeMask r w.mask)).map fun k => (k, val k)) : Acts s r w x.1 := by
  obtain ⟨k, hk, rfl⟩ := List.mem_map.1 hx
  exact acts_iff.2 hk

/-! ## LNOP and LID -/

section Lid

variable {s : State} {r : Run} (h : Running s r) {w : LaneWord}

/-- What LID uses. -/
def lidUse (w : LaneWord) : LaneUse := ⟨[], [], [⟨w.vd.toNat, 1, 1⟩], maskReads w, none, .alu⟩

/-- The values that LID writes. -/
def lidValues (s : State) (r : Run) (w : LaneWord) : List (Nat × Nat) :=
  passValues s.me w (s.me.activeMask r w.mask) fun q t => s.identityValue q (w.imm32.toNat % 16) t

/-- Every active thread has its identity value. -/
def Named (s t : State) (r : Run) (w : LaneWord) : Prop :=
  (∀ k, Acts s r w k → k < 32 → (t.me.vreg w.vd.toNat k).toNat = s.identityValue s.me (w.imm32.toNat % 16) (source w k) % 2 ^ 32) ∧
    OnlyUnits s t r w w.vd.toNat 1

theorem lidValues_acts {x : Nat × Nat} (hx : x ∈ lidValues s r w) : Acts s r w x.1 := acts_iff.2 (mem_passValues.1 hx).1

theorem UnitsWritten.named {t : State} (ht : UnitsWritten s t r w false w.vd.toNat (lidValues s r w)) : Named s t r w :=
  ⟨fun _ hk _ => ht.of_acts hk, ht.only⟩

include h

theorem laneGives_lnop :
    LaneGives (.lnop w) s r w ⟨[], [], [], [], none, .alu⟩ (fun _ => []) fun t => t.me.vregs = s.me.vregs ∧ t.me.kregs = s.me.kregs := by
  have hi : exec (.lnop w) s = execLnop w s := rfl
  exact laneGives_of_laneIssue h w hi fun _ => ⟨.refl h.here, fun _ hv hk => ⟨hv, hk⟩⟩

theorem laneGives_lid (hclock : ¬(w.imm32.toNat % 16 = 6 ∧ w.u = 0)) :
    LaneGives (.lid w) s r w (lidUse w) (fun _ => []) fun t => Named s t r w := by
  have hi : exec (.lid w) s = execLid w s := rfl
  exact (laneGives_writeUnits h hi ((if_neg hclock).trans (lanePass_eq ..)) fun _ => lidValues_acts).mono fun _ _ ht => ht.named

/-- What LID of `clk` leaves before the run goes on: its values, and the time of its last thread's issue. -/
def lidLate (s : State) (r : Run) (w : LaneWord) : State :=
  { s.writeUnits s.actor false w.vd.toNat (lidValues s r w) with clk := s.clk + (s.me.gw - 1) }

/-- LID of `clk` moves time on to its last thread's issue (R30). -/
theorem gives_lid_clock (hclock : w.imm32.toNat % 16 = 6 ∧ w.u = 0) (hpass : LanePasses s r w (lidUse w) fun _ => []) :
    Gives (.lid w) s fun t => t.clk = s.clk + (s.me.gw - 1) ∧
      LaneStepped s { t with clk := s.clk } r w ((lidUse w).produces false) ∧ Named s t r w := by
  have hi : exec (.lid w) s = execLid w s := rfl
  have hu : decide (w.u = 1) = false := by rw [hclock.2]; decide
  have hwrote : LaneWrote s { lidLate s r w with clk := s.clk } := laneWrote_writeUnits h.here ..
  have hmeaning := hi.trans (laneIssue_passes h w hpass)
  rw [hu, if_pos hclock, lanePass_eq] at hmeaning
  refine ⟨(lidLate s r w).laneDone w ((lidUse w).produces false), hmeaning, rfl, laneStepped_laneDone w _ hwrote h.run, ?_⟩
  have hme := me_laneDone w ((lidUse w).produces false) (show (lidLate s r w).here from hwrote.here) (hwrote.run.trans h.run)
  have hv := (congrArg Party.vregs hme).trans (Party.goOn_vregs ..)
  have hm := (congrArg Party.kregs hme).trans (Party.goOn_kregs ..)
  have hwritten : UnitsWritten s ((lidLate s r w).laneDone w ((lidUse w).produces false)) r w false w.vd.toNat (lidValues s r w) :=
    ⟨onlyUnits_of_writeUnits h.here (fun _ => lidValues_acts) hv hm,
      fun _ _ => regUnit_of_writeUnits h.here (fun _ => lidValues_acts) hv⟩
  exact hwritten.named

end Lid

/-! ## Instructions across threads -/

section Cross

variable {s : State} {r : Run} (h : Running s r) {w : LaneWord} {ty : LTy} (hty : laneType w s.me.fmt = some ty)
  {ok : LTy → Bool} {use : LTy → LaneUse} {deps : LTy → Party → Run → Word → Nat → List (Nat × List Block)}
  {k : State → LTy → Run → Word → State}
include h hty

theorem crossThread_eq : s.crossThread w ok use deps k =
    s.laneIssue w (ok ty) (use ty) (deps ty s.me r (s.me.activeMask r w.mask)) fun s r act => k s ty r act := by
  simp only [State.crossThread, hty, h.run]

/-- An instruction across threads whose effect is one write of units. -/
theorem laneGives_cross {i : Instr} (meaning : State → Out) (hi : exec i s = meaning s)
    (hm : meaning s = s.crossThread w ok use deps k) (hok : ok ty = true) {wide : Bool} {n : Nat} {vals : List (Nat × Nat)}
    (hk : k s ty r (s.me.activeMask r w.mask) = s.writeUnits s.actor wide n vals) (hvals : ∀ x ∈ vals, Acts s r w x.1) :
    LaneGives i s r w (use ty) (deps ty s.me r (s.me.activeMask r w.mask)) fun t => UnitsWritten s t r w wide n vals := by
  have hexec := hi.trans (hm.trans (crossThread_eq h hty))
  rw [hok] at hexec
  exact laneGives_writeUnits h hexec hk hvals

end Cross

/-! ## Data movements (R107) -/

/-- The unit that pass `i` of a data movement gives a thread. -/
def moveUnit (r : Run) (w : LaneWord) (ty : LTy) (src : Nat → Nat → Nat → Nat) (i : Nat) (q : Party) (t : Nat) : Nat :=
  q.regUnit ty.wide (w.va.toNat + i * ty.regs) (src q.gw t (q.operandB r w ty i t))

/-- What a data movement uses. -/
def moveUse (w : LaneWord) (ty : LTy) : LaneUse :=
  ⟨operandBlocks w ty false true false, operandBlocks w ty true false false, [⟨w.vd.toNat, (w.cnt.toNat + 1) * ty.regs, ty.regs⟩],
    maskReads w, none, .alu⟩

/-- Every pass of a data movement reads its source thread as it stood before the first pass: `src` names one of the group's. -/
theorem laneGives_move {s : State} {r : Run} (h : Running s r) {w : LaneWord} {ty : LTy} (hty : laneType w s.me.fmt = some ty)
    (hmoves : ty.moves = true) {i : Instr} (meaning : State → Out) (src : Nat → Nat → Nat → Nat)
    (hsrc : ∀ gw t b, 0 < gw → src gw t b < gw) (hi : exec i s = meaning s) (hm : meaning s = s.laneMove w src) :
    LaneGives i s r w (moveUse w ty)
      (fun k => (List.range (w.cnt.toNat + 1)).map fun j =>
        (src s.me.gw k (s.me.operandB r w ty j k), [⟨w.va.toNat + j * ty.regs, ty.regs, ty.regs⟩]))
      fun t => UnitsAre s t r w ty fun j k => moveUnit r w ty src j s.me (source w k) := by
  have hexec := hi.trans (hm.trans (crossThread_eq h hty))
  rw [hmoves] at hexec
  refine laneGives_of_laneIssue h w hexec fun hpass => ?_
  have hunwritten : ∀ i, i < w.cnt.toNat + 1 → ∀ q, SameBut q s.me w.vd.toNat (i * if ty.wide then 2 else 1) → ∀ t, t < s.me.gw →
      moveUnit r w ty src i q t = moveUnit r w ty src i s.me t := by
    intro i hi q hq t ht
    have hsource {a : Nat} (ha : ⟨a, (w.cnt.toNat + 1) * ty.regs, ty.regs⟩ ∈ (moveUse w ty).own ++ (moveUse w ty).far) {t : Nat}
        (ht : t < s.me.gw) :=
      sourceUnit_unwritten (s := s) hpass.overlap (List.mem_singleton_self _) ha hi hq (ht.trans_le s.me.gw_le)
    have hgw : q.gw = s.me.gw := (congrArg Party.gw hq.mine :)
    have hb : q.operandB r w ty i t = s.me.operandB r w ty i t :=
      Party.operandB_congr fun hb => hsource (List.mem_append_left _ (mem_operandBlocks_b ty _ _ hb)) ht
    rw [moveUnit, moveUnit, hb, hgw]
    exact hsource (List.mem_append_right _ (mem_operandBlocks_a ..)) (hsrc _ _ _ (by omega))
  have hpassed := lanePasses_passed h.here w (s.me.activeMask r w.mask) ty.wide w.vd.toNat _ _ hunwritten
  exact ⟨hpassed.wrote, fun t hv hk => hpassed.unitsAre hv hk fun _ _ _ _ => rfl⟩

/-! ## Compares (R113 to R115) -/

section Compare

variable {s : State} {r : Run} {w : LaneWord} {ty : LTy}

/-- The threads of `act` for which a compare of element `e` holds. -/
def comparedMask (q : Party) (r : Run) (w : LaneWord) (ty : LTy) (act : Word)
    (cond : LaneCtx → Nat → Nat → Nat → Bool) (e : Nat) : Word :=
  maskOf q.gw fun t => act.getLsbD t && cond (q.laneCtx w ty) (w.imm32.toNat % 16)
    (ty.elem (q.regUnit ty.wide w.va.toNat t) e) (ty.elem (q.operandB r w ty 0 t) e)

/-- What a compare does to its party. -/
def Party.compared (q : Party) (r : Run) (w : LaneWord) (ty : LTy) (act : Word)
    (cond : LaneCtx → Nat → Nat → Nat → Bool) (e : Nat) : Party :=
  q.setKreg (w.vd.toNat % 8) (comparedMask q r w ty act cond e)

theorem laneCompare_eq (hty : laneType w s.me.fmt = some ty) (ok : LTy → Bool) (cond : LaneCtx → Nat → Nat → Nat → Bool) :
    let e := w.imm32.toNat / 16 % 4
    s.laneCompare w ok cond = s.laneIssue w (ok ty && decide (e < ty.count))
      ⟨operandBlocks w ty true true false, [], [], maskReads w, some (w.vd.toNat % 8), .alu⟩ (fun _ => [])
      fun s r act => s.upd fun q => q.compared r w ty act cond e := by
  simp only [State.laneCompare, hty]
  rfl

theorem Party.setKreg_frame (q : Party) (n : Nat) (v : Word) : { q.setKreg n v with kregs := q.kregs } = q := by
  unfold Party.setKreg
  split <;> rfl

theorem Party.kreg_congr {q q' : Party} (hk : q.kregs = q'.kregs) (hgw : q.gw = q'.gw) (n : Nat) : q.kreg n = q'.kreg n := by
  rw [Party.kreg, hk, hgw, Party.kreg]

theorem Party.compared_frame (q : Party) (r : Run) (w : LaneWord) (ty : LTy) (act : Word) (cond : LaneCtx → Nat → Nat → Nat → Bool)
    (e : Nat) : { q.compared r w ty act cond e with vregs := q.vregs, kregs := q.kregs } = q :=
  (congrArg (fun x : Party => { x with vregs := q.vregs }) (q.setKreg_frame (w.vd.toNat % 8) (comparedMask q r w ty act cond e)) :)

/-- A compare writes its mask register and nothing else. -/
theorem laneGives_compare (h : Running s r) (hty : laneType w s.me.fmt = some ty) {i : Instr} (meaning : State → Out) {ok : LTy → Bool}
    {cond : LaneCtx → Nat → Nat → Nat → Bool} (hi : exec i s = meaning s) (hm : meaning s = s.laneCompare w ok cond) (hok : ok ty = true)
    (he : w.imm32.toNat / 16 % 4 < ty.count) :
    let q := s.me
    let m := w.vd.toNat % 8
    let e := w.imm32.toNat / 16 % 4
    LaneGives i s r w ⟨operandBlocks w ty true true false, [], [], maskReads w, some m, .alu⟩ (fun _ => []) fun t =>
      (∀ j, t.me.kreg j = if j = m ∧ m ≠ 0 then
        comparedMask q r w ty (q.activeMask r w.mask) cond e &&& fullMask q.gw
        else q.kreg j) ∧ t.me.vregs = q.vregs := by
  intro q m e
  have hexec := hi.trans (hm.trans (laneCompare_eq hty ok cond))
  rw [hok, decide_eq_true he] at hexec
  have hframe (q : Party) := q.compared_frame r w ty (s.me.activeMask r w.mask) cond e
  have hme := State.me_upd h.here _ (keepsId_of_frame hframe)
  refine (laneGives_of_laneIssue h w hexec fun _ => ⟨laneWrote_upd h.here hframe s.errors, fun t hv hk => And.intro hv hk⟩).mono
    fun t hstepped ht => ⟨fun j => ?_, ?_⟩
  · have hgw : t.me.gw = (s.me.compared r w ty (s.me.activeMask r w.mask) cond e).gw :=
      (congrArg Party.gw hstepped.mine :).trans (congrArg Party.gw (hframe s.me) :).symm
    rw [Party.kreg_congr (ht.2.trans (congrArg Party.kregs hme)) hgw]
    exact Party.kreg_setKreg ..
  · exact ht.1.trans ((congrArg Party.vregs hme).trans (congrArg Party.vregs (s.me.setKreg_frame _ _) :))

end Compare

end Sys2Proof.Machine
end

section
/-!
PROOFS. Reductions over the threads of a group (R108 to R112): the tree of LSTEP, the prefixes of SCAN, the segments of SEGRED; and the
claim about the lane instructions across threads.
-/

namespace Sys2Proof.Machine

/-! ## The tree (R109) -/

theorem combOpt_isSome (f : Nat → Nat → Nat) (x y : Option Nat) : (combOpt f x y).isSome = (x.isSome || y.isSome) := by
  cases x <;> cases y <;> rfl

/-- The tree has a value where one of its operands has. -/
theorem foldTree_isSome (f : Nat → Nat → Nat) (n : Nat) {xs : List (Option Nat)} (hlen : xs.length ≤ 2 ^ n) {i : Nat}
    (hi : (xs.getD i none).isSome = true) : (foldTree f n xs).isSome = true := by
  have hlt : i < xs.length := by
    by_contra hge
    rw [List.getD_eq_default _ _ (by omega)] at hi
    exact absurd hi (by decide)
  induction n generalizing xs i with
  | zero =>
    obtain rfl : i = 0 := by omega
    cases xs with
    | nil => exact absurd hlt (Nat.not_lt_zero 0)
    | cons x r => exact hi
  | succ n ih =>
    have hlevel (k : Nat) (hk : k < 2 ^ n) :
        ((List.range (2 ^ n)).map fun t => combOpt f (xs.getD t none) (xs.getD (t + 2 ^ n) none)).getD k none =
          combOpt f (xs.getD k none) (xs.getD (k + 2 ^ n) none) := by
      simp [List.getD_eq_getElem?_getD, hk]
    have hwidth : ((List.range (2 ^ n)).map fun t => combOpt f (xs.getD t none) (xs.getD (t + 2 ^ n) none)).length ≤ 2 ^ n := by simp
    rw [Nat.pow_succ] at hlen
    obtain hlow | ⟨j, rfl⟩ : i < 2 ^ n ∨ ∃ j, i = j + 2 ^ n := by
      by_cases h : i < 2 ^ n
      · exact .inl h
      · exact .inr ⟨i - 2 ^ n, by omega⟩
    · exact ih hwidth (i := i) (by rw [hlevel i hlow, combOpt_isSome, hi, Bool.true_or]) (by simpa using hlow)
    · have hj : j < 2 ^ n := by omega
      exact ih hwidth (i := j) (by rw [hlevel j hj, combOpt_isSome, hi, Bool.or_true]) (by simpa using hj)

/-- The levels of the tree take every thread of a group in. -/
theorem Party.gw_le_two_pow (q : Party) : q.gw ≤ 2 ^ ilog2 q.gw := by
  cases hw : q.width <;> simp only [Party.gw, GroupWidth.threads, hw] <;> decide

/-! ## Prefixes (R110) -/

theorem foldScan_cons (f : Nat → Nat → Nat) (acc : Option Nat) (x : Nat) (l : List Nat) :
    foldScan f acc (x :: l) = (acc.elim x fun a => f a x) :: foldScan f (some (acc.elim x fun a => f a x)) l := by
  cases acc <;> rfl

@[simp] theorem length_foldScan (f : Nat → Nat → Nat) (acc : Option Nat) (l : List Nat) : (foldScan f acc l).length = l.length := by
  induction l generalizing acc with
  | nil => cases acc <;> rfl
  | cons x r ih => simp [foldScan_cons, ih]

/-- Each value of a running fold is the last of the fold of the elements up to it. -/
theorem getElem?_foldScan (f : Nat → Nat → Nat) (acc : Option Nat) {l : List Nat} {i : Nat} (hi : i < l.length) :
    (foldScan f acc l)[i]? = (foldScan f acc (l.take (i + 1))).getLast? := by
  induction l generalizing acc i with
  | nil => exact absurd hi (Nat.not_lt_zero i)
  | cons x r ih =>
    rw [List.take_succ_cons, foldScan_cons, foldScan_cons]
    cases i with
    | zero => simp [foldScan]
    | succ i =>
      have hr : i < r.length := by simpa using hi
      rw [List.getElem?_cons_succ, ih _ hr, List.getLast?_cons]
      have hne : (foldScan f (some (acc.elim x fun a => f a x)) (r.take (i + 1))).length ≠ 0 := by
        rw [length_foldScan, List.length_take]
        omega
      cases hlast : (foldScan f (some (acc.elim x fun a => f a x)) (r.take (i + 1))).getLast? with
      | none => exact absurd (congrArg List.length (List.getLast?_eq_none_iff.1 hlast)) hne
      | some y => rfl

/-- Of a rising list, what is at most its element `i` are its first `i` + 1 elements. -/
theorem filter_le_getElem {l : List Nat} (hl : l.Pairwise (· < ·)) {i : Nat} (hi : i < l.length) :
    (l.filter fun j => decide (j ≤ l[i])) = l.take (i + 1) := by
  induction l generalizing i with
  | nil => exact absurd hi (Nat.not_lt_zero i)
  | cons x r ih =>
    obtain ⟨hx, hr⟩ := List.pairwise_cons.1 hl
    cases i with
    | zero =>
      have hnone : (r.filter fun j => decide (j ≤ x)) = [] := by
        rw [List.filter_eq_nil_iff]
        intro j hj
        have := hx j hj
        simpa using this
      simp [hnone]
    | succ i =>
      have hi' : i < r.length := by simpa using hi
      have hle : x ≤ r[i] := (hx _ (List.getElem_mem hi')).le
      simp [hle, ih hr hi']

theorem pairwise_threadsOf (gw : Nat) (m : Word) : (threadsOf gw m).Pairwise (· < ·) := List.pairwise_lt_range.filter _

/-- SCAN's values: each thread has the fold of the threads up to it. -/
theorem mem_zip_foldScan {ts : List Nat} (hts : ts.Pairwise (· < ·)) (f : Nat → Nat → Nat) (val : Nat → Nat) {x : Nat × Nat} :
    x ∈ ts.zip (foldScan f none (ts.map val)) ↔
      x.1 ∈ ts ∧ x.2 = ((foldScan f none ((ts.filter fun j => decide (j ≤ x.1)).map val)).getLast?).getD 0 := by
  have hvalue (i : Nat) (hi : i < ts.length) : (foldScan f none (ts.map val))[i]'(by simpa using hi) =
      ((foldScan f none ((ts.filter fun j => decide (j ≤ ts[i])).map val)).getLast?).getD 0 := by
    have hprefix := getElem?_foldScan f none (l := ts.map val) (i := i) (by simpa using hi)
    rw [filter_le_getElem hts hi, List.map_take, ← hprefix, List.getElem?_eq_getElem (by simpa using hi), Option.getD_some]
  obtain ⟨t, v⟩ := x
  constructor
  · intro hx
    obtain ⟨i, hi, heq⟩ := List.mem_iff_getElem.1 hx
    have hlen : i < ts.length := by simpa using hi
    rw [List.getElem_zip] at heq
    obtain ⟨rfl, rfl⟩ := Prod.mk.inj heq
    exact ⟨List.getElem_mem hlen, hvalue i hlen⟩
  · rintro ⟨ht, hv⟩
    obtain ⟨i, hi, rfl⟩ := List.mem_iff_getElem.1 ht
    refine List.mem_iff_getElem.2 ⟨i, by simpa using hi, ?_⟩
    rw [List.getElem_zip, Prod.mk.injEq]
    exact ⟨rfl, (hvalue i hi).trans hv.symm⟩

/-! ## Segments (R112) -/

theorem flatten_segments (l : List (Nat × Nat × Nat)) : (segments l).flatten = l := by
  induction l with
  | nil => rfl
  | cons x r ih =>
    unfold segments
    split
    · next y g gs heq =>
      rw [heq] at ih
      split <;> simpa using ih
    · simpa using ih

/-- Two segments that have a thread in common are one. -/
theorem segment_unique {l : List (Nat × Nat × Nat)} (hl : (l.map fun x => x.2.1).Nodup) {g g' : List (Nat × Nat × Nat)}
    (hg : g ∈ segments l) (hg' : g' ∈ segments l) {x x' : Nat × Nat × Nat} (hx : x ∈ g) (hx' : x' ∈ g') (heq : x.2.1 = x'.2.1) :
    g = g' := by
  rw [← flatten_segments l, List.map_flatten, List.nodup_flatten, List.pairwise_map] at hl
  by_contra hne
  have hsymm : Std.Symm fun a b : List (Nat × Nat × Nat) => (a.map fun x => x.2.1).Disjoint (b.map fun x => x.2.1) :=
    ⟨fun _ _ h => h.symm⟩
  exact hl.2.forall hg hg' hne (List.mem_map.2 ⟨x, hx, rfl⟩) (List.mem_map.2 ⟨x', hx', heq.symm⟩)

/-- SEGRED's values: each thread of a segment has the segment's. -/
def segmentValues (val : List (Nat × Nat × Nat) → Nat) (l : List (Nat × Nat × Nat)) : List (Nat × Nat) :=
  (segments l).flatMap fun g => g.map fun x => (x.2.1, val g)

theorem mem_segmentValues {val : List (Nat × Nat × Nat) → Nat} {l : List (Nat × Nat × Nat)} {y : Nat × Nat} :
    y ∈ segmentValues val l ↔ ∃ g ∈ segments l, ∃ x ∈ g, (x.2.1, val g) = y := by
  simp [segmentValues]

theorem mem_of_mem_segment {l g : List (Nat × Nat × Nat)} {x : Nat × Nat × Nat} (hg : g ∈ segments l) (hx : x ∈ g) : x ∈ l := by
  rw [← flatten_segments l]
  exact List.mem_flatten.2 ⟨g, hg, hx⟩

/-! ## The reductions, MATCH, AMAX and QBLK -/

theorem writeUnits_nil (s : State) (p : PartyId) (wide : Bool) (n : Nat) : s.writeUnits p wide n [] = s := by
  have hparties : s.parties.map (fun q => if q.id = p then q else q) = s.parties := by simp
  have herrors (c : ErrSite → Bool) (hc : ∀ e, c e = true) : s.errors.filter c = s.errors := List.filter_eq_self.2 fun e _ => hc e
  simp only [State.writeUnits, State.updParty, List.foldl_nil, hparties]
  rw [herrors]
  intro e
  cases e <;> simp

/-- The value of LSTEP's tree over the units of the active threads, if one is active. -/
def laneTree (q : Party) (w : LaneWord) (ty : LTy) (act : Word) : Option Nat :=
  foldTree ((q.laneCtx w ty).comb (w.imm32.toNat % 16)) (ilog2 q.gw) ((List.range q.gw).map fun k =>
    if act.getLsbD k then some ((q.laneCtx w ty).input (q.regUnit ty.wide w.va.toNat k)) else none)

theorem laneTree_isSome {q : Party} {act : Word} {k : Nat} (hk : k ∈ threadsOf q.gw act) (w : LaneWord) (ty : LTy) :
    (laneTree q w ty act).isSome = true := by
  obtain ⟨hgw, hbit⟩ := mem_threadsOf.1 hk
  refine foldTree_isSome _ _ (by simpa using q.gw_le_two_pow) (i := k) ?_
  simp [List.getD_eq_getElem?_getD, hgw, hbit]

section Reductions

variable {s : State} {r : Run} (h : Running s r) {w : LaneWord} {ty : LTy} (hty : laneType w s.me.fmt = some ty)
include h hty

/-- LSTEP: every active thread has the value of the tree, which has one where a thread is active. -/
theorem laneGives_lstep (hlegal : reduceLegal w ty = true) :
    let q := s.me
    let act := q.activeMask r w.mask
    LaneGives (.lstep w) s r w (reduceUse w [] ty) (fun _ => readAll [unitA w ty] (threadsOf q.gw act)) fun t =>
      UnitsWritten s t r w ty.wide w.vd.toNat ((threadsOf q.gw act).map fun k => (k, (laneTree q w ty act).getD 0)) := by
  intro q act
  refine laneGives_cross h hty (execLstep w) rfl rfl hlegal ?_ fun _ => acts_of_mem_map
  dsimp only
  split
  · next hnone =>
    have hidle : threadsOf q.gw act = [] := by
      rw [List.eq_nil_iff_forall_not_mem]
      intro k hk
      have hsome := laneTree_isSome hk w ty
      have hnone : laneTree q w ty act = none := hnone
      rw [hnone] at hsome
      cases hsome
    rw [hidle, List.map_nil, writeUnits_nil]
  · next v hsome =>
    have hvalue : laneTree q w ty act = some v := hsome
    rw [hvalue, Option.getD_some]

/-- SCAN: each active thread has the fold of the active threads up to it. -/
theorem laneGives_scan (hlegal : reduceLegal w ty = true) :
    let q := s.me
    let ts := threadsOf q.gw (q.activeMask r w.mask)
    let cx := q.laneCtx w ty
    LaneGives (.scan w) s r w (reduceUse w [] ty) (fun k => readAll [unitA w ty] (ts.filter fun j => decide (j ≤ k))) fun t =>
      UnitsWritten s t r w ty.wide w.vd.toNat (ts.zip (foldScan (cx.comb (w.imm32.toNat % 16)) none
        (ts.map fun j => cx.input (q.regUnit ty.wide w.va.toNat j)))) := by
  intro q ts cx
  refine laneGives_cross h hty (execScan w) rfl rfl hlegal ?_ fun x hx => ?_
  · have hthreads : ((cx.inputs q w (q.activeMask r w.mask)).map (·.1)) = ts := by
      rw [LaneCtx.inputs, List.map_map]
      exact List.map_id _
    have hvalues : ((cx.inputs q w (q.activeMask r w.mask)).map (·.2)) = ts.map fun j => cx.input (q.regUnit ty.wide w.va.toNat j) := by
      rw [LaneCtx.inputs, List.map_map]
      rfl
    show s.writeUnits s.actor ty.wide w.vd.toNat (((cx.inputs q w (q.activeMask r w.mask)).map (·.1)).zip
      (foldScan (cx.comb (w.imm32.toNat % 16)) none ((cx.inputs q w (q.activeMask r w.mask)).map (·.2)))) = _
    rw [hthreads, hvalues]
  · exact acts_iff.2 ((mem_zip_foldScan (pairwise_threadsOf ..) _ _).1 hx).1

/-- SEGRED: each active thread has the fold of its segment. -/
theorem laneGives_segred (hlegal : reduceLegal w ty = true) :
    let q := s.me
    let act := q.activeMask r w.mask
    let cx := q.laneCtx w ty
    LaneGives (.segred w) s r w (reduceUse w [⟨w.vc.toNat, 1, 1⟩] ty)
      (segmentDeps w ty [] ((q.segmentsOf w act fun _ => 0).map fun g => g.map (·.2.1))) fun t =>
      UnitsWritten s t r w ty.wide w.vd.toNat (segmentValues
        (fun g => ((foldScan (cx.comb (w.imm32.toNat % 16)) none (g.map (·.2.2))).getLast?).getD 0)
        ((threadsOf q.gw act).map fun k => ((q.vreg w.vc.toNat k).toNat, k, cx.input (q.regUnit ty.wide w.va.toNat k)))) := by
  intro q act cx
  refine laneGives_cross h hty (execSegred w) rfl rfl hlegal rfl fun y hy => ?_
  obtain ⟨g, hg, x, hx, rfl⟩ := mem_segmentValues.1 hy
  obtain ⟨k, hk, rfl⟩ := List.mem_map.1 (mem_of_mem_segment hg hx)
  exact acts_iff.2 hk

/-- MATCH: the active threads whose unit is the thread's own. -/
theorem laneGives_match (hset : ty.setA = true) :
    let q := s.me
    let act := q.activeMask r w.mask
    LaneGives (.matchLanes w) s r w ⟨[], [unitA w ty], [⟨w.vd.toNat, 1, 1⟩], maskReads w, none, .alu⟩
      (fun _ => readAll [unitA w ty] (threadsOf q.gw act)) fun t =>
      UnitsWritten s t r w false w.vd.toNat ((threadsOf q.gw act).map fun k => (k, (maskOf q.gw fun j => act.getLsbD j &&
        decide (q.regUnit ty.wide w.va.toNat j = q.regUnit ty.wide w.va.toNat k)).toNat)) :=
  laneGives_cross h hty (execMatchLanes w) rfl rfl hset rfl fun _ => acts_of_mem_map

end Reductions

theorem laneGives_amax {s : State} {r : Run} (h : Running s r) {w : LaneWord} (hty : laneType w s.me.fmt = some .f32) :
    let q := s.me
    let ts := threadsOf q.gw (q.activeMask r w.mask)
    LaneGives (.amax w) s r w ⟨[], [⟨w.va.toNat, 1, 1⟩], [⟨w.vd.toNat, 1, 1⟩], maskReads w, none, .alu⟩
      (fun _ => readAll [⟨w.va.toNat, 1, 1⟩] ts) fun t =>
      UnitsWritten s t r w false w.vd.toNat (ts.map fun k => (k,
        amaxFold (fmtFlush q.fmt) (ts.map fun j => q.regUnit false w.va.toNat j))) :=
  laneGives_cross h hty (execAmax w) rfl rfl rfl rfl fun _ => acts_of_mem_map

section TwoWrites

variable {s t : State} {r : Run} {w : LaneWord} {n : Nat} {val val' : Nat → Nat}
  (hv : t.me.vregs = ((s.me.putUnits false n ((threadsOf s.me.gw (s.me.activeMask r w.mask)).map fun k => (k, val k))).putUnits false
    (n + 1) ((threadsOf s.me.gw (s.me.activeMask r w.mask)).map fun k => (k, val' k))).vregs)
include hv

/-- Two registers of active threads, written one after the other: both have their words, and nothing else has changed. -/
theorem onlyUnits_of_putUnits_twice (hk : t.me.kregs = s.me.kregs) : OnlyUnits s t r w n 2 where
  others m k hk32 hne := by
    have hkept {m' : Nat} {f : Nat → Nat} (hm : ¬Acts s r w k ∨ m < m' ∨ m' + 1 ≤ m) (q : Party) :
        (q.putUnits false m' ((threadsOf s.me.gw (s.me.activeMask r w.mask)).map fun k => (k, f k))).vreg m k = q.vreg m k :=
      q.vreg_putUnits_of_ne hk32 (fun x hx => (acts_of_mem_map hx).lt) (hm.imp_left fun hnot x hx hxk => hnot (hxk ▸ acts_of_mem_map hx))
    rw [Party.vreg_congr hv, hkept (hne.imp_right fun hm => by omega), hkept (hne.imp_right fun hm => by omega)]
  masks := hk

theorem vregs_of_putUnits_twice {k : Nat} (hk : Acts s r w k) :
    (t.me.vreg (n + 1) k).toNat = val' k % 2 ^ 32 ∧ (t.me.vreg n k).toNat = val k % 2 ^ 32 := by
  have hwritten (q : Party) (m : Nat) (f : Nat → Nat) :
      (q.putUnits false m ((threadsOf s.me.gw (s.me.activeMask r w.mask)).map fun k => (k, f k))).regUnit false m k = f k % 2 ^ 32 := by
    refine q.regUnit_putUnits hk.lt (fun x hx => (acts_of_mem_map hx).lt) (List.mem_map.2 ⟨k, acts_iff.1 hk, rfl⟩) fun y hy => ?_
    obtain ⟨k', -, heq⟩ := List.mem_map.1 hy
    obtain ⟨rfl, rfl⟩ := Prod.mk.inj heq
    rfl
  rw [← Party.regUnit_false, ← Party.regUnit_false, Party.regUnit_congr hv, Party.regUnit_congr hv]
  refine ⟨hwritten .., ?_⟩
  rw [Party.regUnit_putUnits_of_ne _ hk.lt (fun x hx => (acts_of_mem_map hx).lt) (le_refl (n + 1))]
  exact hwritten ..

end TwoWrites

/-- What QBLK reads of the active threads, and +0 for the others (R104). -/
def quantInputs (q : Party) (act : Word) (a : Nat) : List FVal :=
  (List.range 32).map fun k =>
    if act.getLsbD k then FType.f32.decode (flushF32 (fmtFlush q.fmt) (q.vreg a k).toNat) else .num false 0 0

/-- The word of codes that a thread receives of a quantised block. -/
def quantWord (codes : List Nat) (k : Nat) : Nat := le (((codes.drop (k / 4 * 4)).take 4).map fun c => BitVec.ofNat 8 c)

/-- QBLK: each active thread has its word of codes and the block's scale beside it. -/
theorem laneGives_qblk {s : State} {r : Run} (h : Running s r) {w : LaneWord} {ty : LTy} (hty : laneType w s.me.fmt = some ty)
    (hquant : ty = .e4m3x4 ∨ ty = .e5m2x4 ∨ ty = .p8x4) (hgw : s.me.gw = 32) {ft : FType} (hft : ty.float? = some ft) :
    let q := s.me
    let act := q.activeMask r w.mask
    let b := quantBlock ft (quantInputs q act w.va.toNat)
    LaneGives (.qblk w) s r w ⟨[], [⟨w.va.toNat, 1, 1⟩], [⟨w.vd.toNat, 2, 1⟩], maskReads w, none, .alu⟩
      (fun _ => readAll [⟨w.va.toNat, 1, 1⟩] (threadsOf q.gw act)) fun t => OnlyUnits s t r w w.vd.toNat 2 ∧
        ∀ k, Acts s r w k → (t.me.vreg (w.vd.toNat + 1) k).toNat = b.1 % 2 ^ 32 ∧
          (t.me.vreg w.vd.toNat k).toNat = quantWord b.2 k % 2 ^ 32 := by
  intro q act b
  have hi : exec (.qblk w) s = execQblk w s := rfl
  rw [execQblk, crossThread_eq h hty, decide_eq_true hquant, decide_eq_true hgw] at hi
  refine laneGives_of_laneIssue h w hi fun _ => ?_
  rw [hft]
  have hcodes := laneWrote_writeUnits h.here false w.vd.toNat ((threadsOf q.gw act).map fun k => (k, quantWord b.2 k))
  have hscale := laneWrote_writeUnits hcodes.here false (w.vd.toNat + 1) ((threadsOf q.gw act).map fun k => (k, b.1))
  have hme := me_writeUnits hcodes.here false (w.vd.toNat + 1) ((threadsOf q.gw act).map fun k => (k, b.1))
  rw [me_writeUnits h.here] at hme
  refine ⟨hcodes.trans hscale, fun t hv hk => ?_⟩
  have hvregs := hv.trans (congrArg Party.vregs hme)
  exact ⟨onlyUnits_of_putUnits_twice hvregs (hk.trans ((kregs_writeUnits hcodes.here ..).trans (kregs_writeUnits h.here ..))),
    fun k hk => vregs_of_putUnits_twice hvregs hk⟩

/-! ## The claim -/

/-- Settles O45, by what each instruction writes: the data movements in passes, the reductions and MATCH, AMAX and QBLK at once, the
compares one mask register. -/
theorem laneCrossings : Obligations.LaneCrossings := by
  refine ⟨fun s r w h => ⟨laneGives_lnop h, fun hclock => laneGives_lid h hclock, fun hclock hpass => gives_lid_clock h hclock hpass⟩,
    fun s r w ty h hty => ?typed⟩
  case typed =>
    refine ⟨fun hmoves => ⟨?shfl, ?shflr, ?shflx, ?bcast⟩, fun hlegal => ⟨?lstep, ?scan, ?segred⟩, fun hset => ?matchLanes,
      fun hf32 => ?amax, fun hquant hgw => ?qblk, fun he => ⟨fun hset => ?icmp, fun ft hset hft => ?fcmp⟩⟩
    case shfl => exact laneGives_move h hty hmoves (execShfl w) _ (fun _ _ b hgw => Nat.mod_lt b hgw) rfl rfl
    case shflr => exact laneGives_move h hty hmoves (execShflr w) _ (fun _ _ _ hgw => Nat.mod_lt _ hgw) rfl rfl
    case shflx => exact laneGives_move h hty hmoves (execShflx w) _ (fun _ _ _ hgw => Nat.mod_lt _ hgw) rfl rfl
    case bcast => exact laneGives_move h hty hmoves (execBcast w) _ (fun _ _ b hgw => Nat.mod_lt b hgw) rfl rfl
    case lstep => exact (laneGives_lstep h hty hlegal).mono fun t _ ht => ⟨fun k hk => ht.of_acts hk, ht.only⟩
    case scan =>
      refine (laneGives_scan h hty hlegal).mono fun t _ ht => ⟨fun k hk => ?_, ht.only⟩
      exact ht.units k _ ((mem_zip_foldScan (pairwise_threadsOf ..) _ _).2 ⟨acts_iff.1 hk, rfl⟩)
        fun y hy => ((mem_zip_foldScan (pairwise_threadsOf ..) _ _).1 hy).2
    case segred =>
      refine (laneGives_segred h hty hlegal).mono fun t _ ht => ⟨fun g hg x hx => ?_, ht.only⟩
      refine ht.units x.2.1 _ (mem_segmentValues.2 ⟨g, hg, x, hx, rfl⟩) fun y hy => ?_
      obtain ⟨g', hg', x', hx', heq⟩ := mem_segmentValues.1 hy
      obtain ⟨hthread, rfl⟩ := Prod.mk.inj heq
      have hnodup : (((threadsOf s.me.gw (s.me.activeMask r w.mask)).map fun k => ((s.me.vreg w.vc.toNat k).toNat, k,
          (s.me.laneCtx w ty).input (s.me.regUnit ty.wide w.va.toNat k))).map fun x => x.2.1).Nodup := by
        rw [List.map_map]
        exact (List.map_id _).symm ▸ nodup_threadsOf ..
      rw [segment_unique hnodup hg hg' hx hx' hthread.symm]
    case matchLanes =>
      refine (laneGives_match h hty hset).mono fun t _ ht => ⟨fun k j hk hj => ?_, ht.only⟩
      have hmask := BitVec.eq_of_toNat_eq ((ht.of_acts hk).trans (BitVec.toNat_mod_cancel _))
      rw [hmask, getLsbD_maskOf _ s.me.gw_le]
      simp [Acts, and_assoc]
    case amax =>
      subst hf32
      exact (laneGives_amax h hty).mono fun t _ ht => ⟨fun k hk _ => ht.of_acts hk, ht.only⟩
    case qblk =>
      have hquantised : ∃ ft, ty.float? = some ft := by
        obtain rfl | rfl | rfl := hquant
        all_goals exact ⟨_, rfl⟩
      obtain ⟨ft, hft⟩ := hquantised
      refine (laneGives_qblk h hty hquant hgw hft).mono fun t _ ht => ⟨ht.1, fun ft' hft' => ?_⟩
      obtain rfl : ft = ft' := Option.some.inj (hft.symm.trans hft')
      exact ht.2
    case icmp => exact laneGives_compare h hty (execIcmp w) rfl rfl hset he
    case fcmp =>
      have hcx : (s.me.laneCtx w ty).ty.float? = some ft := hft
      have hcmp := laneGives_compare (i := .fcmp w) h hty (execFcmp w) rfl rfl hset he
      simp only [comparedMask, hcx] at hcmp
      exact hcmp

end Sys2Proof.Machine
end

section
/-!
SUPPORT. The issue of a lane memory instruction (R17 to R20, R89, R199): what goes before the sweep over its threads, and what each answer
of the sweep leaves.
-/

namespace Sys2Proof.Machine

/-! ## Before the sweep -/

/-- An operation some threads of which have failed: the run waits at its instruction, to be done again by those. -/
def Party.held (q : Party) (op : Nat) (mask : Word) : Party :=
  { q with
    ops := updAll (fun o => decide (o.id = op)) (fun o => { o with unfinished := mask }) q.ops
    run := q.run.map fun r => { r with replay := some mask } }

/-- What the answer of the sweep of an instruction issued for the first time leaves. -/
def State.afterSweep (s : State) (r : Run) (w : LaneWord) (u : LaneUse) (long : Bool) : Swept → Out
  | .wait => s.laneWait
  | .failed f fs => .next (s.laneFault f.cls r .laneIssue f.addr f.addr2 (faultMask (f :: fs)) f.replayable)
  | .done s2 [] => .next ((s2.upd fun q => q.finishOp s.fresh).laneDone w (if long then [] else u.produces false))
  | .done s2 (f :: fs) =>
    .next ((s2.upd fun q => q.held s.fresh (faultMask (f :: fs))).laneFault f.cls r .laneIssue f.addr f.addr2 (faultMask (f :: fs))
      f.replayable)

/-- An instruction that is issued for the first time, passes its checks and need not wait: its sweep decides. -/
theorem laneMem_eq {s : State} {r : Run} (h : Running s r) {i : Instr} {w : LaneWord} {u : LaneUse} {long acq : Bool}
    {waits : State → Party → Option State} {k : State → Run → Nat → List Nat → Swept} (hpass : LaneMemPasses s r w u long waits) :
    s.laneMem i w u long acq waits k =
      s.afterSweep r w u long (k (opened s i r w u long acq) r s.fresh (activeThreads s r w)) := by
  obtain ⟨hacq, hwaits⟩ := hpass.free
  have hidle : (s.me.ops.any fun o => o.acquire && !decide (some o.id = none)) = false := by simpa using hacq
  have hissued : (none : Option Word) ≠ some 0 := by decide
  simp only [State.laneMem, h.run, h.first, hpass.regs, hpass.overlap, hpass.flag, hpass.tags, hpass.gap, hpass.sound, hwaits,
    if_neg hissued, Option.isNone_none, Option.isSome_none, Bool.not_true, Bool.and_false, Bool.or_false, Bool.false_eq_true,
    if_false, Option.map_none, hidle, ne_eq, not_true_eq_false]
  rfl

/-! ## After the sweep -/

theorem opened_me {s : State} (h : s.here) (i : Instr) (r : Run) (w : LaneWord) (u : LaneUse) (long acq : Bool) :
    ∃ ops tags, (opened s i r w u long acq).me = { s.me with ops := ops, tags := tags } :=
  ⟨_, _, State.me_upd (s := { s with fresh := s.fresh + 1 }) h _ fun _ => rfl⟩

theorem here_opened {s : State} (h : s.here) (i : Instr) (r : Run) (w : LaneWord) (u : LaneUse) (long acq : Bool) :
    (opened s i r w u long acq).here := here_upd (s := { s with fresh := s.fresh + 1 }) h _ fun _ => rfl

/-- What ends an instruction's accesses keeps everything of a party but its operations. -/
theorem Party.finishOp_frame (q : Party) (op : Nat) : { q.finishOp op with ops := q.ops } = q := rfl

/-- Every thread's access has been made: the operation is finished and the run goes on. -/
theorem laneEnds_laneDone (s s2 : State) (r : Run) (w : LaneWord) (new : List Producer) :
    LaneEnds s s2 ((s2.upd fun q => q.finishOp s.fresh).laneDone w new) r w new := by
  have hid : KeepsId fun q => q.finishOp s.fresh := fun _ => rfl
  refine ⟨rfl, rfl, fun p hp => ?_, fun hr hhere => ?_⟩
  · rw [party_laneDone_other w new (s := s2.upd fun q => q.finishOp s.fresh) hp, State.party_upd_other s2 _ hid hp]
  · have hme : (s2.upd fun q => q.finishOp s.fresh).me = s2.me.finishOp s.fresh := State.me_upd hhere _ hid
    have hrun : (s2.upd fun q => q.finishOp s.fresh).me.run = some r := by
      rw [hme]
      exact hr
    rw [me_laneDone w new (here_upd hhere _ hid) hrun, Party.goOn_past_run]
    rfl

/-- The instruction fails as a whole: no effect but its group's park and its record. -/
theorem laneFails_laneFault {s : State} (h : s.here) (r : Run) (f : ThreadFault) (fs : List ThreadFault) :
    LaneFails s (s.laneFault f.cls r .laneIssue f.addr f.addr2 (faultMask (f :: fs)) f.replayable) f fs := by
  have htrapped := trapped_laneFault h f.cls r .laneIssue f.addr f.addr2 (faultMask (f :: fs)) f.replayable
  refine ⟨htrapped.parked, htrapped.park, (congrArg Party.run htrapped.mine :), (congrArg Party.vregs htrapped.mine :),
    (congrArg Party.ops htrapped.mine :), rfl, rfl, ?_⟩
  rw [State.laneFault, fault_records_getLast?]
  rfl

/-- Some threads have failed: their group parks, and the record names them. -/
theorem laneParks_laneFault (s2 : State) (r : Run) (op : Nat) (f : ThreadFault) (fs : List ThreadFault) :
    LaneParks s2 ((s2.upd fun q => q.held op (faultMask (f :: fs))).laneFault f.cls r .laneIssue f.addr f.addr2 (faultMask (f :: fs))
      f.replayable) f fs := by
  intro hhere
  have hid : KeepsId fun q => q.held op (faultMask (f :: fs)) := fun _ => rfl
  have hme : (s2.upd fun q => q.held op (faultMask (f :: fs))).me = s2.me.held op (faultMask (f :: fs)) := State.me_upd hhere _ hid
  have htrapped := trapped_laneFault (here_upd hhere _ hid) f.cls r .laneIssue f.addr f.addr2 (faultMask (f :: fs)) f.replayable
  refine ⟨htrapped.parked, htrapped.park, (congrArg Party.run htrapped.mine :).trans (congrArg Party.run hme), rfl, ?_⟩
  rw [State.laneFault, fault_records_getLast?]
  rfl

section Outcomes

variable {s s2 : State} {r : Run} (h : Running s r) {i : Instr} {w : LaneWord} {u : LaneUse} {long acq : Bool}
  {waits : State → Party → Option State} {k : State → Run → Nat → List Nat → Swept} (hpass : LaneMemPasses s r w u long waits)
  (hi : exec i s = s.laneMem i w u long acq waits k) {f : ThreadFault} {fs : List ThreadFault}
include h hpass hi

theorem gives_laneEnds (hk : k (opened s i r w u long acq) r s.fresh (activeThreads s r w) = .done s2 []) :
    Gives i s fun t => LaneEnds s s2 t r w (if long then [] else u.produces false) := by
  rw [laneMem_eq h hpass, hk] at hi
  exact ⟨_, hi, laneEnds_laneDone ..⟩

theorem gives_laneParks (hk : k (opened s i r w u long acq) r s.fresh (activeThreads s r w) = .done s2 (f :: fs)) :
    Gives i s fun t => LaneParks s2 t f fs := by
  rw [laneMem_eq h hpass, hk] at hi
  exact ⟨_, hi, laneParks_laneFault s2 r s.fresh f fs⟩

theorem gives_laneFails (hk : k (opened s i r w u long acq) r s.fresh (activeThreads s r w) = .failed f fs) :
    Gives i s fun t => LaneFails s t f fs := by
  rw [laneMem_eq h hpass, hk] at hi
  exact ⟨_, hi, laneFails_laneFault h.here ..⟩

end Outcomes

/-- The lane registers after an instruction are those that its accesses have left. -/
theorem LaneEnds.vregs {s s2 t : State} {r : Run} {w : LaneWord} {new : List Producer} (h : LaneEnds s s2 t r w new)
    (hhere : s2.here) (hr : s2.me.run = some r) : t.me.vregs = s2.me.vregs := by
  have hid : KeepsId fun q => q.finishOp s.fresh := fun _ => rfl
  have hme : (s2.upd fun q => q.finishOp s.fresh).me = s2.me.finishOp s.fresh := State.me_upd hhere _ hid
  have hrun : (s2.upd fun q => q.finishOp s.fresh).me.run = some r := by
    rw [hme]
    exact hr
  rw [h.1, me_laneDone w new (here_upd hhere _ hid) hrun, Party.goOn_vregs, hme]
  rfl

/-- So are the cores. -/
theorem LaneEnds.core {s s2 t : State} {r : Run} {w : LaneWord} {new : List Producer} (h : LaneEnds s s2 t r w new) (c : Nat) :
    t.core c = s2.core c := by
  rw [h.1]
  rfl

end Sys2Proof.Machine
end

section
/-!
PROOFS. Lane accesses to core store, the cluster window and FIFO banks (R31, R32, R89, R199, R201 to R203, R205).
-/

namespace Sys2Proof.Machine

/-! ## The checks of a list of threads (R199) -/

section CheckPlaces

variable {chk : Nat → Except FaultClass Place} {addr : Nat → Nat} {ts : List Nat}

/-- A thread that passes has its own address, and the place that the check gives it. -/
theorem mem_checkPlaces {x : LaneTarget} (hx : x ∈ (checkPlaces chk addr ts).1) : x.thread ∈ ts ∧ chk x.addr = .ok x.place := by
  induction ts with
  | nil => simp [checkPlaces] at hx
  | cons t r ih =>
    cases hc : chk (addr t) with
    | error c =>
      simp only [checkPlaces, hc] at hx
      exact (ih hx).imp_left (List.mem_cons_of_mem t)
    | ok pl =>
      simp only [checkPlaces, hc, List.mem_cons] at hx
      obtain rfl | hx := hx
      · exact ⟨List.mem_cons_self, hc⟩
      · exact (ih hx).imp_left (List.mem_cons_of_mem t)

/-- Threads pass in their order. -/
theorem checkPlaces_sublist : ((checkPlaces chk addr ts).1.map (·.thread)).Sublist ts := by
  induction ts with
  | nil => simp [checkPlaces]
  | cons t r ih =>
    cases hc : chk (addr t) with
    | error c =>
      simp only [checkPlaces, hc]
      exact ih.cons t
    | ok pl =>
      simp only [checkPlaces, hc, List.map_cons]
      exact ih.cons_cons t

end CheckPlaces

/-- An access to core store that passes is of its own address. -/
theorem place_of_checkStore {s : State} {q : Party} {n a : Nat} {write : Bool} {pl : Place} (h : s.checkStore q n a write = .ok pl) :
    pl = .store q.core a := by
  unfold State.checkStore at h
  split at h
  · cases h
  · split at h
    · cases h
    · split at h
      · cases h
      · exact (Except.ok.inj h).symm

/-! ## Loads from core store -/

theorem vreg_wrV {s : State} (h : s.here) (n t m u : Nat) (v : Word) (ht : t < 32) (hu : u < 32) :
    (s.wrV s.actor n t v).me.vreg m u = if m = n ∧ u = t then v else s.me.vreg m u := by
  have hme : (s.wrV s.actor n t v).me = s.me.setVreg n t v := State.me_upd h _ fun _ => rfl
  have hword : m * 32 + u = n * 32 + t ↔ m = n ∧ u = t := by omega
  rw [hme, Party.vreg_setVreg]
  simp only [hword]

theorem laneWrote_wrV {s : State} (h : s.here) (n t : Nat) (v : Word) : LaneWrote s (s.wrV s.actor n t v) :=
  laneWrote_upd h (f := fun q => q.setVreg n t v) (fun _ => rfl) _

theorem laneWrote_wrVs {s : State} (h : s.here) (n t : Nat) (vs : List Word) : LaneWrote s (s.wrVs s.actor n t vs) := by
  induction vs generalizing s n with
  | nil => exact .refl h
  | cons v r ih =>
    have hfirst := laneWrote_wrV h n t v
    exact hfirst.trans (ih hfirst.here (n + 1))

/-- Consecutive registers of a thread, written: each has its word, and other threads and registers before them keep theirs. -/
theorem vreg_wrVs {s : State} (h : s.here) {n t : Nat} (vs : List Word) (ht : t < 32) :
    (∀ (j : Nat) v, vs[j]? = some v → (s.wrVs s.actor n t vs).me.vreg (n + j) t = v) ∧
      ∀ m u, u < 32 → (u ≠ t ∨ m < n) → (s.wrVs s.actor n t vs).me.vreg m u = s.me.vreg m u := by
  induction vs generalizing s n with
  | nil => exact ⟨fun j v hj => by simp at hj, fun _ _ _ _ => rfl⟩
  | cons v r ih =>
    have hfirst := laneWrote_wrV h n t v
    obtain ⟨hin, hout⟩ := ih hfirst.here (n := n + 1)
    refine ⟨fun j x hj => ?_, fun m u hu hne => ?_⟩
    · cases j with
      | zero =>
        have hv : v = x := by simpa using hj
        refine (hout n t ht (.inr (by omega))).trans ?_
        rw [vreg_wrV h _ _ _ _ _ ht ht, if_pos ⟨rfl, rfl⟩, hv]
      | succ j =>
        have hx := hin j x (by simpa using hj)
        rwa [Nat.add_right_comm] at hx
    · refine (hout m u hu (hne.imp_right fun hm => by omega)).trans ?_
      rw [vreg_wrV h _ _ _ _ _ ht hu, if_neg (by omega)]

/-- The registers that LDS's threads load, one thread after another. -/
def ldsLoaded (w : LaneWord) (n : Nat) (o : State) (xs : List LaneTarget) : State :=
  xs.foldl (fun v x => v.takeLoad v.actor (.lds w) x.thread 0 (v.readPlace n x.place)) o

theorem readPlace_of_laneWrote {s t : State} (h : LaneWrote s t) (n : Nat) (pl : Place) : t.readPlace n pl = s.readPlace n pl :=
  (congrArg (fun x : State => x.readPlace n pl) h.rest :)

/-- Every thread has what the store held, whatever the other threads have loaded. -/
theorem ldsLoaded_spec (w : LaneWord) (n : Nat) (xs : List LaneTarget) {o : State} (h : o.here)
    (hthreads : ∀ x ∈ xs, x.thread < 32) (hnodup : (xs.map (·.thread)).Nodup) :
    LaneWrote o (ldsLoaded w n o xs) ∧
      (∀ x ∈ xs, ∀ (j : Nat) v, (laneValues w.sext (o.readPlace n x.place))[j]? = some v →
        (ldsLoaded w n o xs).me.vreg (w.vd.toNat + j) x.thread = v) ∧
      ∀ m u, u < 32 → (∀ x ∈ xs, x.thread ≠ u) → (ldsLoaded w n o xs).me.vreg m u = o.me.vreg m u := by
  induction xs generalizing o with
  | nil => exact ⟨.refl h, fun x hx => absurd hx (List.not_mem_nil), fun _ _ _ _ => rfl⟩
  | cons x r ih =>
    obtain ⟨hx, hr⟩ := List.nodup_cons.1 hnodup
    have hx32 := hthreads x List.mem_cons_self
    have hwrote := laneWrote_wrVs h w.vd.toNat x.thread (laneValues w.sext (o.readPlace n x.place))
    obtain ⟨hin, hout⟩ := vreg_wrVs h (n := w.vd.toNat) (laneValues w.sext (o.readPlace n x.place)) hx32
    obtain ⟨hwrote', hin', hout'⟩ := ih hwrote.here (fun y hy => hthreads y (List.mem_cons_of_mem x hy)) hr
    have hne (y : LaneTarget) (hy : y ∈ r) : y.thread ≠ x.thread := fun heq => hx (List.mem_map.2 ⟨y, hy, heq⟩)
    refine ⟨hwrote.trans hwrote', fun y hy j v hv => ?_, fun m u hu hnot => ?_⟩
    · obtain rfl | hy := List.mem_cons.1 hy
      · exact (hout' _ _ hx32 hne).trans (hin j v hv)
      · exact hin' y hy j v (by rwa [readPlace_of_laneWrote hwrote])
    · exact (hout' m u hu fun y hy => hnot y (List.mem_cons_of_mem x hy)).trans
        (hout m u hu (.inl (Ne.symm (hnot x List.mem_cons_self))))

/-! ## Bytes that stores and atomics leave as they were -/

theorem length_laneData (q : Party) (n t bytes : Nat) : (laneData q n t bytes).length = bytes := by
  simp [laneData]
  omega

/-- A write of core store leaves every byte beside it, of every core. -/
theorem store_writeStore_outside (s : State) (core off : Nat) (bs : List Byte) (c a : Nat) (ha : a < off ∨ off + bs.length ≤ a) :
    cellGet ((s.writeStore core off bs).core c).store a = cellGet (s.core c).store a := by
  have hcore : (s.writeStore core off bs).core c = (s.updCore core fun c =>
      { c with store := writeBytes c.store off bs, blocks := addAll (blocksOf off bs.length) c.blocks }).core c := rfl
  rw [hcore, State.core_updCore]
  split
  · exact cellGet_writeBytes_outside _ _ _ _ ha
  · rfl

/-- Accesses that each write no byte but of `n` at their own address leave all others. -/
theorem store_foldl_outside {a c : Nat} {put : State → LaneTarget → State} (xs : List LaneTarget) (o : State)
    (hput : ∀ v, ∀ x ∈ xs, cellGet ((put v x).core c).store a = cellGet (v.core c).store a) :
    cellGet ((xs.foldl put o).core c).store a = cellGet (o.core c).store a :=
  List.foldlRecOn (motive := fun v : State => cellGet (v.core c).store a = cellGet (o.core c).store a) xs put rfl
    fun v hv x hx => (hput v x hx).trans hv

/-- What LDS's threads load reaches the end of the instruction. -/
theorem vreg_of_ldsEnds {s o t : State} {r : Run} {w : LaneWord} {new : List Producer} {n : Nat} {xs : List LaneTarget} {ts : List Nat}
    (ho : o.here) (hr : o.me.run = some r) (hends : LaneEnds s (ldsLoaded w n o xs) t r w new)
    (hts : (xs.map (·.thread)).Sublist ts) (hlt : ∀ k ∈ ts, k < 32) (hnodup : ts.Nodup) {x : LaneTarget} (hx : x ∈ xs) {j : Nat}
    {v : Word} (hv : (laneValues w.sext (o.readPlace n x.place))[j]? = some v) : t.me.vreg (w.vd.toNat + j) x.thread = v := by
  have hthreads (y : LaneTarget) (hy : y ∈ xs) : y.thread < 32 := hlt _ (hts.subset (List.mem_map_of_mem hy))
  obtain ⟨hwrote, hin, -⟩ := ldsLoaded_spec w n xs ho hthreads (hts.nodup hnodup)
  have hrun : (ldsLoaded w n o xs).me.run = some r := (congrArg Party.run hwrote.mine :).trans hr
  have hvregs := hends.vregs hwrote.here hrun
  exact (Party.vreg_congr hvregs _ _).trans (hin x hx j v hv)

/-- Threads write core store at their own addresses, so bytes beside these stay. -/
theorem store_of_targets {o : State} {q : Party} {n a c : Nat} {addr : Nat → Nat} {ts : List Nat} {put : State → LaneTarget → State}
    (hput : ∀ v (x : LaneTarget) off, x.place = .store q.core off → a < off ∨ off + n ≤ a →
      cellGet ((put v x).core c).store a = cellGet (v.core c).store a) (v : State)
    (ha : ∀ x ∈ (checkPlaces (fun i => o.checkStore q n i true) addr ts).1, a < x.addr ∨ x.addr + n ≤ a) :
    cellGet ((((checkPlaces (fun i => o.checkStore q n i true) addr ts).1).foldl put v).core c).store a = cellGet (v.core c).store a :=
  store_foldl_outside _ v fun v x hx => hput v x x.addr (place_of_checkStore (mem_checkPlaces hx).2) (ha x hx)

/-! ## The claim -/

/-- Settles O48. -/
theorem laneStorage : Obligations.LaneStorage := by
  intro s r w h
  refine ⟨?lds, ?sts, ?ldcl, ?stcl, ?fifopop, ?fifopush, ?atoms⟩
  case lds =>
    intro u o check hpass
    have hi : exec (.lds w) s = execLds w s := rfl
    unfold execLds at hi
    refine ⟨fun f fs herr => gives_laneFails h hpass hi ?_,
      fun herr hok => (gives_laneEnds h hpass hi ?_).mono fun t ht => ⟨ht, ?_⟩⟩
    · dsimp only
      rw [herr]
    · dsimp only
      rw [herr, hok]
    · obtain ⟨ops, tags, hme⟩ := opened_me h.here (.lds w) r w u false false
      have hr : o.me.run = some r := (congrArg Party.run hme).trans h.run
      exact fun x hx j v hv => vreg_of_ldsEnds (here_opened h.here ..) hr ht checkPlaces_sublist
        (fun k hk => (mem_threadsOf.1 hk).1.trans_le s.me.gw_le) (nodup_threadsOf ..) hx hv
  case sts =>
    intro u o check hpass
    have hi : exec (.sts w) s = execSts w s := rfl
    unfold execSts at hi
    refine ⟨fun hok => ?_, fun f fs hbad => gives_laneParks h hpass hi (congrArg (Swept.done _) hbad)⟩
    refine (gives_laneEnds h hpass hi (congrArg (Swept.done _) hok)).mono fun t ht => ⟨ht, fun a ha => ?_⟩
    rw [ht.core]
    refine (store_of_targets (fun v x off hplace hout => ?_) o ha).trans rfl
    rw [hplace]
    exact store_writeStore_outside v _ off _ _ a (by rwa [length_laneData])
  case ldcl =>
    intro u o check own hpass
    have hi : exec (.ldcl w) s = execLdcl w s := rfl
    unfold execLdcl at hi
    refine ⟨fun f fs herr => gives_laneFails h hpass hi ?_, fun herr hok => gives_laneEnds h hpass hi ?_⟩
    · dsimp only [own] at herr ⊢
      rw [herr]
    · dsimp only [own] at herr ⊢
      rw [herr, hok]
  case stcl =>
    intro u rel scope o check hpass hok
    have hi : exec (.stcl w) s = execStcl w s := rfl
    unfold execStcl at hi
    exact gives_laneEnds h hpass hi (congrArg (Swept.done _) hok)
  case fifopop =>
    intro m off u o hpass
    have hi : exec (.fifopop w) s = execFifopop w s := rfl
    unfold execFifopop at hi
    refine ⟨fun b hb => gives_laneEnds h hpass hi ?_, fun c k ks hc hts => gives_laneParks h hpass hi ?_⟩
    · dsimp only
      rw [hb]
    · dsimp only
      rw [hc, hts]
      rfl
  case fifopush =>
    intro m off u o hpass b hb
    have hi : exec (.fifopush w) s = execFifopush w s := rfl
    unfold execFifopush at hi
    refine gives_laneEnds h hpass hi ?_
    dsimp only
    rw [hb]
  case atoms =>
    intro u k o check hpass
    have hi : exec (.atoms w) s = execAtoms w s := rfl
    unfold execAtoms at hi
    refine ⟨fun f fs herr => gives_laneFails h hpass hi ?_,
      fun herr hok => (gives_laneEnds h hpass hi ?_).mono fun t ht => ⟨ht, fun a ha => ?_⟩⟩
    · dsimp only
      rw [herr]
    · dsimp only
      rw [herr, hok]
    · rw [ht.core]
      refine (store_of_targets (fun v x off hplace hout => ?_) o ha).trans rfl
      have hwrite (bs : List Byte) (hbs : bs.length = k) :
          cellGet ((v.writePlace bs (.store o.me.core off)).core s.me.core).store a = cellGet (v.core s.me.core).store a :=
        store_writeStore_outside v o.me.core off bs s.me.core a (by rwa [hbs])
      dsimp only
      rw [hplace]
      split
      · exact hwrite _ (length_toLe _ _)
      · exact hwrite _ (length_toLe _ _)

end Sys2Proof.Machine
end

section
/-!
SUPPORT. Who there is: no step of the ordering machine and no translation adds a party, takes one away or makes another one act.
-/

namespace Sys2Proof.Machine

/-- The same parties, and the same of them acts. -/
structure SameWho (s t : State) : Prop where
  actor : t.actor = s.actor
  ids : t.parties.map (·.id) = s.parties.map (·.id)

namespace SameWho

variable {s t u : State}

theorem refl (s : State) : SameWho s s := ⟨rfl, rfl⟩

theorem trans (h : SameWho s t) (h' : SameWho t u) : SameWho s u := ⟨h'.actor.trans h.actor, h'.ids.trans h.ids⟩

theorem of_eq (ha : t.actor = s.actor) (hp : t.parties = s.parties) : SameWho s t := ⟨ha, congrArg _ hp⟩

theorem of_map {f : Party → Party} (hf : KeepsId f) (ha : t.actor = s.actor) (hp : t.parties = s.parties.map f) : SameWho s t :=
  ⟨ha, by rw [hp, List.map_map]; exact List.map_congr_left fun q _ => hf q⟩

theorem foldl {α : Type} {f : State → α → State} (hf : ∀ s x, SameWho s (f s x)) (l : List α) (s : State) : SameWho s (l.foldl f s) := by
  induction l generalizing s with
  | nil => exact refl s
  | cons x r ih => exact (hf s x).trans (ih _)

/-- A change that leaves the parties alone stands before a step. -/
theorem after (h : SameWho t u) (ha : t.actor = s.actor) (hp : t.parties = s.parties) : SameWho s u := (of_eq ha hp).trans h

/-- A step that may be taken. -/
theorem maybe {c : Prop} [Decidable c] (h : SameWho s t) (h' : SameWho t u) : SameWho s (if c then u else t) := by
  split
  · exact h.trans h'
  · exact h

theorem isSome_party? (h : SameWho s t) (p : PartyId) : (t.party? p).isSome = (s.party? p).isSome := by
  have hmem (u : State) : (u.party? p).isSome = true ↔ p ∈ u.parties.map (·.id) := by
    simp [State.party?, List.find?_isSome]
  rw [Bool.eq_iff_iff, hmem, hmem, h.ids]

theorem here (h : SameWho s t) (hs : s.here) : t.here := by
  show (t.party? t.actor).isSome = true
  rw [h.actor, h.isSome_party?]
  exact hs

end SameWho

theorem sameWho_updParty (s : State) (p : PartyId) {f : Party → Party} (hf : KeepsId f) : SameWho s (s.updParty p f) :=
  .of_map (f := fun q => if q.id = p then f q else q) (fun q => by by_cases hq : q.id = p <;> simp [hq, hf q]) rfl rfl

/-! ## Copies of dies, and writes at home slices -/

theorem sameWho_writeMem (s : State) (cs : List Host.Cell) : SameWho s (s.writeMem cs) := by
  cases cs with
  | nil => exact .refl s
  | cons c r => exact .of_map (Party.wokenBy_keepsId (c.1 / 128)) rfl rfl

theorem sameWho_writeBack (s : State) (c : DieCopy) : SameWho s (s.writeBack c) := by
  unfold State.writeBack
  split
  · exact sameWho_writeMem _ _
  · exact .refl s

theorem sameWho_giveUp (s : State) (c : DieCopy) : SameWho s (s.giveUp c) := by
  unfold State.giveUp State.reportCopy
  dsimp only
  split
  · split <;> exact .of_eq rfl rfl
  · exact .of_eq rfl rfl

theorem sameWho_trimFilter (s : State) (line : Nat) : SameWho s (s.trimFilter line) := by
  unfold State.trimFilter
  split <;> exact .of_eq rfl rfl

theorem sameWho_dropCopy (s : State) (die line : Nat) : SameWho s (s.dropCopy die line) := by
  unfold State.dropCopy
  split
  · exact .refl s
  · exact ((sameWho_writeBack _ _).trans (sameWho_giveUp _ _)).trans (sameWho_trimFilter _ _)

theorem sameWho_dropClean (s : State) (die line : Nat) : SameWho s (s.dropClean die line) := .of_eq rfl rfl

theorem sameWho_invalidate (s : State) (line : Nat) (keep : Option Nat) : SameWho s (s.invalidate line keep) := by
  refine .foldl (fun s c => ?_) _ s
  split
  · exact .refl s
  · exact (sameWho_dropCopy _ _ _).trans (sameWho_dropClean _ _ _)

theorem sameWho_recall (s : State) (line : Nat) : SameWho s (s.recall line) := by
  refine .trans (.foldl (fun s c => ?_) _ s) (.of_eq rfl rfl)
  split
  · exact (sameWho_giveUp _ _).trans (sameWho_trimFilter _ _)
  · exact sameWho_writeBack _ _

theorem sameWho_useFilter (s : State) (line : Nat) : SameWho s (s.useFilter line) := by
  unfold State.useFilter
  dsimp only
  split
  · exact .of_eq rfl rfl
  · split
    · exact .of_eq rfl rfl
    · exact (sameWho_invalidate s _ none).trans (.of_eq rfl rfl)

theorem sameWho_dieOwn (s : State) (die line : Nat) : SameWho s (s.dieOwn die line) := by
  have hfold : SameWho s ((s.holders line).foldl (fun s c => if c.die = die then s else (s.giveUp c).dropClean c.die line) s) := by
    refine .foldl (fun s c => ?_) _ s
    split
    · exact .refl s
    · exact (sameWho_giveUp _ _).trans (sameWho_dropClean _ _ _)
  refine (hfold.trans ?_).trans (sameWho_useFilter _ _)
  exact .of_eq rfl rfl

theorem sameWho_homeNow (s : State) (op : HomeOp) : SameWho s (s.homeNow op).1 :=
  (sameWho_invalidate s op.line none).trans (sameWho_writeMem _ _)

theorem sameWho_homeRead (s : State) (pa n : Nat) : SameWho s (s.homeRead pa n).1 := by
  unfold State.homeRead
  split
  · exact .refl s
  · exact sameWho_recall s _

/-! ## Packets and breaks -/

theorem sameWho_send (s : State) (device : Nat) (body : PacketBody) : SameWho s (s.send device body) := by
  unfold State.send State.emit
  dsimp only
  split <;> exact .of_eq rfl rfl

theorem sameWho_askSharers (s : State) (line : Nat) : SameWho s (s.askSharers line) := by
  refine .foldl (fun s x => ?_) _ s
  split
  · exact .refl s
  · exact sameWho_send _ _ _

theorem sameWho_startBreak (s : State) (idx : Nat) : SameWho s (s.startBreak idx) := by
  unfold State.startBreak
  split
  · exact .refl s
  · split
    · refine .trans ?_ (.foldl (fun s h => ?_) _ _)
      · exact .of_eq rfl rfl
      · exact sameWho_updParty s _ fun _ => rfl
    · exact .refl s

/-! ## Drains -/

theorem sameWho_clearHolder (s : State) (core line : Nat) : SameWho s (s.clearHolder core line) := by
  unfold State.clearHolder
  dsimp only
  split <;> exact .of_eq rfl rfl

theorem sameWho_landCells (s : State) (core line stamp : Nat) (cells : List Host.Cell) : SameWho s (s.landCells core line stamp cells) := by
  unfold State.landCells
  dsimp only
  split
  · exact (sameWho_homeNow s _).trans (.of_eq rfl rfl)
  · split
    · exact .of_eq rfl rfl
    · exact (sameWho_dieOwn s _ _).trans (.of_eq rfl rfl)

theorem sameWho_takeOut (s : State) (d : LineDrain) : SameWho s (s.takeOut d) := by
  refine .trans (t := s.takeDirty d) (.of_eq rfl rfl) (.foldl (fun s pa => ?_) _ _)
  exact .of_eq rfl rfl

theorem sameWho_landDrain (s : State) (own : Option Nat) (d : LineDrain) : SameWho s (s.landDrain own d) := by
  unfold State.landDrain
  dsimp only
  split
  · exact .refl s
  · split
    · refine .trans (.foldl (fun s t => ?_) _ s) (sameWho_askSharers _ _)
      exact sameWho_startBreak s _
    · refine .trans ?_ (sameWho_clearHolder _ _ _)
      split
      · exact sameWho_takeOut s d
      · exact (sameWho_takeOut s d).trans (sameWho_landCells _ _ _ _ _)

theorem sameWho_drainCaches (s : State) (which : CacheId → Bool) (sel : CcDirty → Bool) (own : Option Nat) :
    SameWho s (s.drainCaches which sel own) := .foldl (fun s _ => sameWho_landDrain s _ _) _ s

theorem sameWho_drainOwn (s : State) (core : Nat) (sel : Nat → Nat → Bool) (own : Option Nat) : SameWho s (s.drainOwn core sel own) :=
  .foldl (fun s _ => (sameWho_drainCaches s _ _ _).trans (sameWho_landDrain _ _ _)) _ s

theorem sameWho_roomFor (s : State) (line : Nat) (src : WriteSource) : SameWho s (s.roomFor line src) := by
  unfold State.roomFor State.roomForLazy
  split
  · exact .refl s
  · split
    · exact .refl s
    · dsimp only
      split
      · exact sameWho_drainOwn _ _ _ _
      · exact (sameWho_drainOwn _ _ _ _).trans (.of_eq rfl rfl)

/-! ## What follows a write -/

theorem noteWait_keepsId (pl : Place) (phase : Nat) (counted : List (Place × Nat)) : KeepsId fun q =>
    match q.waitsOn with
    | some w =>
      if w.place = pl ∧ w.seen = none ∧ w.phase ≠ phase then
        { q with waitsOn := some { w with seen := some (phase, decide ((pl, w.phase) ∈ counted)) } }
      else q
    | none => q := by
  intro q
  dsimp only
  split
  · split <;> rfl
  · rfl

theorem sameWho_noteBarrier (s : State) (pl : Place) (phase : Nat) (counted : List (Place × Nat)) :
    SameWho s (s.noteBarrier pl phase counted) := .of_map (noteWait_keepsId pl phase counted) rfl rfl

theorem sameWho_writePlace (s : State) (bs : List Byte) (pl : Place) : SameWho s (s.writePlace bs pl) := by
  cases pl <;> exact .of_eq rfl rfl

theorem sameWho_barrierEvent {s t : State} {pl : Place} {ev : BarrierEvent} (h : s.barrierEvent pl ev = .ok t) : SameWho s t := by
  unfold State.barrierEvent at h
  dsimp only at h
  split at h
  · exact nomatch h
  · next b' _ =>
    injection h with h
    subst h
    exact (sameWho_writePlace s b'.toBytes pl).trans ((sameWho_noteBarrier _ pl b'.phase _).trans (.of_eq rfl rfl))

theorem Party.setSreg_keepsId (n : Nat) (v : DWord) : KeepsId fun q => q.setSreg n v := fun q => q.setSreg_id n v

theorem Party.takeOld_id (q : Party) (e : SqEntry) (dest : AtomDest) (wide : Bool) (old : Nat) : (q.takeOld e dest wide old).id = q.id := by
  cases dest with
  | none => rfl
  | sreg n w => exact q.setSreg_id _ _
  | vreg t n w =>
    show (if wide then _ else _ : Party).id = q.id
    split <;> rfl

theorem Party.ite_id {c : Prop} [Decidable c] {x y : Party} {p : PartyId} (hx : x.id = p) (hy : y.id = p) : (if c then x else y).id = p := by
  split
  · exact hx
  · exact hy

theorem sameWho_seenByCore (s : State) (q : Party) (e : SqEntry) : SameWho s (s.seenByCore q e) := by
  unfold State.seenByCore
  split
  · dsimp only
    split
    · exact .of_eq rfl rfl
    · split <;> exact .of_eq rfl rfl
  · exact sameWho_dropClean _ _ _
  · exact .refl s

theorem sameWho_leaveRecord (s : State) (p : PartyId) (e : SqEntry) (line : Nat) : SameWho s (s.leaveRecord p e line) := by
  unfold State.leaveRecord
  dsimp only
  split
  · exact .of_eq rfl rfl
  · refine .trans ?_ (sameWho_updParty _ p ?_)
    · exact .of_eq rfl rfl
    · exact fun _ => rfl

theorem sameWho_beginAcquire (s : State) (p : PartyId) (scope : Scope) (lines : List (Nat × Nat)) (fin : AcquireEnd) :
    SameWho s (s.beginAcquire p scope lines fin) :=
  .trans (sameWho_updParty s p (f := fun q => { q with acqs := q.acqs ++ [⟨scope, fin⟩] }) fun _ => rfl) (.of_eq rfl rfl)

theorem sameWho_entryDone (s : State) (p : PartyId) (id old : Nat) (wide : Bool) : SameWho s (s.entryDone p id old wide) := by
  unfold State.entryDone
  dsimp only
  split
  · exact .refl s
  · next e _ =>
    refine .maybe (.trans ?_ (sameWho_updParty _ p fun q => ?_)) (sameWho_beginAcquire _ _ _ _ _)
    · have hrecord (line : Nat) := (sameWho_seenByCore s (s.party p) e).maybe (c := e.leavesRecord = true) (sameWho_leaveRecord _ p e line)
      split
      · exact (hrecord _).trans (.of_eq rfl rfl)
      · exact (hrecord _).trans (.of_eq rfl rfl)
      · exact hrecord _
    · exact Party.ite_id rfl (Party.takeOld_id _ _ _ _ _)

theorem Party.parkOn_id (q : Party) (c : FaultClass) (u : FaultUnit) (k : Nat) : (q.parkOn c u k).id = q.id := rfl

theorem sameWho_fault (s : State) (p : PartyId) (c : FaultClass) (u : FaultUnit) (i : FaultInfo) : SameWho s (s.fault p c u i) :=
  .trans (sameWho_updParty s p (keepRecord_keepsId s c u i s.clk)) (.of_eq rfl rfl)

theorem sameWho_wakeIssuer (s : State) (p : PartyId) : SameWho s (s.wakeIssuer p) := by
  cases p with
  | steward n => exact sameWho_updParty s (.steward n) Party.woken_keepsId
  | group a b c => exact .refl s

theorem sameWho_copyLanded (s : State) (x : Option (Copy × Place)) :
    SameWho s (match x with
      | none => s
      | some (c, b) =>
        match s.barrierEvent b (.land c.elem) with
        | .ok s2 => s2
        | .error _ => s) := by
  split
  · exact .refl s
  · split
    · next h => exact sameWho_barrierEvent h
    · exact .refl s

theorem sameWho_afterWrite (s : State) (op : HomeOp) (src : WriteSource) (old : Nat) (err : Option FaultClass) :
    SameWho s (s.afterWrite op src old err) := by
  cases src with
  | entry p id => exact sameWho_entryDone _ _ _ _ _
  | copy id elem =>
    unfold State.afterWrite
    refine .trans ?_ (sameWho_copyLanded _ _)
    exact .of_eq rfl rfl
  | drain core stamp => exact .after (sameWho_clearHolder _ core op.line) rfl rfl
  | barrier p =>
    unfold State.afterWrite
    dsimp only
    split
    · exact .refl s
    · split
      · exact (sameWho_updParty s p (f := fun q => { q with stallOn := [] }) fun _ => rfl).trans (sameWho_fault _ _ _ _ _)
      · exact sameWho_updParty s p fun _ => rfl
  | packet device seq => exact sameWho_send _ _ _
  | completion n p => exact sameWho_wakeIssuer s p
  | accdMax core id part wg leaves =>
    unfold State.afterWrite
    dsimp only
    split <;> exact .of_eq rfl rfl
  | shuttle part seq =>
    unfold State.afterWrite
    dsimp only
    split <;> exact .of_eq rfl rfl
  | _ => exact .of_eq rfl rfl

theorem sameWho_opFailed (s : State) (op : HomeOp) (src : WriteSource) : SameWho s (s.opFailed op src) := by
  unfold State.opFailed
  split
  · exact sameWho_updParty s _ fun _ => rfl
  · exact sameWho_send _ _ _
  · exact .of_eq rfl rfl
  · exact sameWho_afterWrite _ _ _ _ _

theorem sameWho_applyWrite (s : State) (op : HomeOp) (src : WriteSource) : SameWho s (s.applyWrite op src) := by
  unfold State.applyWrite
  dsimp only
  split
  · exact sameWho_opFailed _ _ _
  · refine .trans ?_ (sameWho_afterWrite _ _ _ _ _)
    have hown : SameWho s (match (s.roomFor op.line src).coreOfSource src with
        | none => s.roomFor op.line src
        | some c => (s.roomFor op.line src).drainOwn c (fun pa _ => op.touches pa) (some op.line)) := by
      split
      · exact sameWho_roomFor _ _ _
      · exact (sameWho_roomFor _ _ _).trans (sameWho_drainOwn _ _ _ _)
    split
    · exact (hown.trans (sameWho_homeNow _ _)).trans (sameWho_noteBarrier _ _ _ _)
    · exact hown.trans (sameWho_homeNow _ _)

/-! ## Held writes -/

theorem sameWho_pushHeads (s : State) : SameWho s s.pushHeads := by
  refine .foldl (fun s h => .trans ?_ (.foldl (fun s (t : Tack) => sameWho_startBreak s t.index) _ _)) _ s
  split
  · exact .refl s
  · exact sameWho_roomFor _ _ _

theorem Party.dropOp_id (q : Party) (op : Nat) : (q.dropOp op).id = q.id := rfl

theorem Party.abandon_id (q : Party) (u : FaultUnit) : (q.abandon u).id = q.id := by
  cases u <;> rfl

theorem Party.land_keepsId (landing : DWord) : KeepsId fun q => q.land landing := by
  intro q
  have hsaved : (match q.ladsub with
      | some x => q.setSreg x.dest (dw ((x.first + q.progress) % 2 ^ 32))
      | none => q).id = q.id := by
    split
    · exact q.setSreg_id _ _
    · rfl
  unfold Party.land
  dsimp only [Party.letGo]
  rw [Party.setSreg_id, Party.setSreg_id]
  split
  · exact (Party.abandon_id _ _).trans hsaved
  · exact hsaved

theorem Party.landOrWait_id (q : Party) (landing : DWord) : (q.landOrWait landing).id = q.id :=
  Party.ite_id rfl (Party.land_keepsId landing q)

theorem sameWho_landHolders (s : State) (idx : Nat) : SameWho s (s.landHolders idx) := by
  unfold State.landHolders
  split
  · exact .refl s
  · next t _ =>
    refine .trans (.foldl (fun s h => sameWho_updParty s h.p fun q => ?_) t.holders s) (.of_eq rfl rfl)
    exact Party.ite_id (Party.landOrWait_id q h.landing) rfl

theorem sameWho_settleLines (n : Nat) (s : State) : SameWho s (State.settleHeld.settleLines n s) := by
  induction n generalizing s with
  | zero => exact .refl s
  | succ n ih =>
    unfold State.settleHeld.settleLines
    split
    · next h _ => exact .trans (.after (sameWho_applyWrite { s with held := s.held.erase h } _ _) rfl rfl) (ih _)
    · exact .refl s

theorem sameWho_settleHeld (n : Nat) (s : State) : SameWho s (s.settleHeld n) := by
  induction n generalizing s with
  | zero => exact .refl s
  | succ n ih =>
    unfold State.settleHeld
    dsimp only
    refine (sameWho_pushHeads s).trans ?_
    split
    · next t _ =>
      have hlanded := (sameWho_settleLines n (s.pushHeads.markBroken t.index)).trans (sameWho_landHolders _ t.index)
      exact (hlanded.after (s := s.pushHeads) rfl rfl).trans (ih _)
    · split
      · next h _ =>
        exact .trans (.after (sameWho_applyWrite { s.pushHeads with held := s.pushHeads.held.erase h } _ _) rfl rfl) (ih _)
      · exact .refl _

theorem sameWho_homeApply (s : State) (op : HomeOp) (src : WriteSource) : SameWho s (s.homeApply op src) := by
  unfold State.homeApply
  dsimp only
  split
  · exact sameWho_applyWrite _ _ _
  · refine .trans (.trans ?_ (sameWho_askSharers _ _)) (sameWho_settleHeld _ _)
    split
    · refine .after (sameWho_updParty _ _ ?_) rfl rfl
      exact fun _ => rfl
    · exact .of_eq rfl rfl

/-! ## Translation -/

theorem sameWho_orLeaf (s : State) (unit at_ bit : Nat) : SameWho s (s.orLeaf unit at_ bit) := by
  unfold State.orLeaf State.request
  dsimp only
  split
  · exact .refl s
  · split
    · exact sameWho_homeApply _ _ _
    · exact .of_eq rfl rfl

theorem sameWho_walk (va table : Nat) (levels : List (Nat × Nat × Nat × Nat)) (s : State) :
    SameWho s (s.walk va table levels).1 := by
  induction levels generalizing s table with
  | nil => exact .refl s
  | cons l r ih =>
    obtain ⟨hi, lo, cls, pageBits⟩ := l
    unfold State.walk
    dsimp only
    have hread := sameWho_homeRead s (table + 8 * bitsOf va hi lo) 8
    iterate 2
      split
      · exact .refl s
    iterate 2
      split
      · exact hread
    split
    · exact hread.trans (ih _ _)
    · exact hread

theorem sameWho_leafOf (s : State) (u : UnitCtx) (va : Nat) : SameWho s (s.leafOf u va).1 := by
  unfold State.leafOf
  dsimp only
  split
  · split
    · exact .refl s
    · exact .of_eq rfl rfl
  · have hwalk := sameWho_walk va u.root walkLevels s
    split
    · next h =>
      rw [h] at hwalk
      exact hwalk
    · next h =>
      rw [h] at hwalk
      exact hwalk.trans (.of_eq rfl rfl)

theorem sameWho_xlatePart (s : State) (u : UnitCtx) (va n : Nat) (k : Access) (mark : Bool) : SameWho s (s.xlatePart u va n k mark).1 := by
  unfold State.xlatePart
  split
  · split <;> exact .refl s
  · have hleaf := sameWho_leafOf s u va
    split
    · next h =>
      rw [h] at hleaf
      exact hleaf
    · next s1 l h =>
      rw [h] at hleaf
      split
      · exact hleaf
      · iterate 2
          split
          · exact hleaf
        have hmarked : SameWho s (if mark = true ∧ l.walked = true then s1.orLeaf u.unit l.at_ 7 else s1) :=
          hleaf.maybe (sameWho_orLeaf s1 u.unit l.at_ 7)
        generalize (if mark = true ∧ l.walked = true then s1.orLeaf u.unit l.at_ 7 else s1) = s2 at hmarked ⊢
        dsimp only
        split <;> exact hmarked

theorem sameWho_xlateParts (u : UnitCtx) (k : Access) (mark : Bool) (parts : List (Nat × Nat)) (s : State) :
    SameWho s (s.xlateParts u k mark parts).1 := by
  induction parts generalizing s with
  | nil => exact .refl s
  | cons p r ih =>
    have hpart := sameWho_xlatePart s u p.1 p.2 k mark
    unfold State.xlateParts
    split
    · next h =>
      rw [h] at hpart
      exact hpart
    · next s1 x h =>
      rw [h] at hpart
      have hrest := hpart.trans (ih s1)
      split
      all_goals
        next hr =>
          rw [hr] at hrest
          exact hrest

theorem sameWho_xlate (s : State) (u : UnitCtx) (va n : Nat) (k : Access) (mark : Bool) : SameWho s (s.xlate u va n k mark).1 := by
  unfold State.xlate
  split
  · exact .refl s
  · exact sameWho_xlateParts u k mark _ s

end Sys2Proof.Machine
end

section
/-!
PROOFS. Matrix commands at issue (R119, R120, R124 to R133, R136, R137, R139): the checks of an instruction in their order, and what the
queue of a core holds when a command has entered it.
-/

namespace Sys2Proof.Machine

/-! ## Checks in their order -/

/-- What comes out of checks in their order: what the first that fails answers, or else `ok`. -/
def ChecksTo {α κ : Type} (fail : κ → α) (ok out : α) : List (Prop × κ) → Prop
  | [] => out = ok
  | c :: r => (¬c.1 → out = fail c.2) ∧ (c.1 → ChecksTo fail ok out r)

namespace ChecksTo

variable {α κ : Type} {fail : κ → α} {ok out : α}

theorem ite {cond : Prop} [Decidable cond] {p : Prop} {c : κ} {r : List (Prop × κ)} (hp : cond ↔ ¬p) (h : p → ChecksTo fail ok out r) :
    ChecksTo fail ok (if cond then fail c else out) ((p, c) :: r) := by
  refine ⟨fun hn => if_pos (hp.2 hn), fun hy => ?_⟩
  rw [if_neg fun hc => hp.1 hc hy]
  exact h hy

theorem first {c : Prop × κ} {r : List (Prop × κ)} (hc : ¬c.1) :
    ∀ l, ChecksTo fail ok out (l ++ c :: r) → (∀ x ∈ l, x.1) → out = fail c.2
  | [], h, _ => h.1 hc
  | x :: l, h, hl => first hc l (h.2 (hl x List.mem_cons_self)) fun y hy => hl y (List.mem_cons_of_mem _ hy)

theorem passed : ∀ {l : List (Prop × κ)}, ChecksTo fail ok out l → (∀ x ∈ l, x.1) → out = ok
  | [], h, _ => h
  | x :: _, h, hl => passed (h.2 (hl x List.mem_cons_self)) fun y hy => hl y (List.mem_cons_of_mem _ hy)

end ChecksTo

/-! ## An instruction that may go on -/

namespace MatReady

variable {s : State} {w : Workgroup} {srcs : List (BitVec 6)}

theorem matOp (h : MatReady s w srcs) (k : State → Workgroup → State) : s.matOp srcs k = .next (k s w) := by
  obtain ⟨hready, hgroup, ⟨heng, hacq⟩, hwork, -⟩ := h
  simp [State.matOp, State.laneOnly, hgroup, scalar_ready hready, heng, hacq, hwork]

theorem gives (h : MatReady s w srcs) {i : Instr} {k : State → Workgroup → State} {P : State → Prop} (hi : exec i s = s.matOp srcs k)
    (hk : P (k s w)) : Gives i s P := ⟨_, hi.trans (h.matOp k), hk⟩

theorem here (h : MatReady s w srcs) : s.here := h.ready.here

theorem trapped (h : MatReady s w srcs) {t : State} {c : FaultClass} (ht : t = s.trap c) : Trapped s t c := ht ▸ trapped_trap h.here c

end MatReady

/-! ## A command enters the queue (R119) -/

theorem enterQueue_of_room {s : State} (hroom : QueueRoom s) (c : MatCmd) : s.enterQueue c =
    (({ s.updCore s.me.core fun k => { k with matrix := k.matrix ++ [c] } with fresh := s.fresh + 1 } : State)).adv :=
  if_neg (Nat.not_le.2 hroom)

theorem enterQueue_regions (s : State) (c : MatCmd) : (s.enterQueue c).regions = s.regions := by
  unfold State.enterQueue
  split <;> rfl

theorem enterQueue_actor (s : State) (c : MatCmd) : (s.enterQueue c).actor = s.actor := by
  unfold State.enterQueue
  split <;> rfl

theorem queued_enterQueue {s : State} (h : s.here) (hcore : s.me.core < s.cores.length) (hroom : QueueRoom s) (c : MatCmd) :
    Queued s (s.enterQueue c) c { s.me with pc := s.me.pc + 4 } := by
  have hcores (k : Nat) : (s.enterQueue c).core k = (s.updCore s.me.core fun k => { k with matrix := k.matrix ++ [c] }).core k := by
    rw [enterQueue_of_room hroom]; rfl
  refine ⟨?_, ?_, fun k hk => ?_, ?_, fun p hp => ?_, ?_, ?_⟩
  · rw [hcores, State.core_updCore, if_pos ⟨rfl, hcore⟩]
  · rw [hcores, State.core_updCore, if_pos ⟨rfl, hcore⟩]
  · rw [hcores, State.core_updCore, if_neg fun hk' => hk hk'.1]
  all_goals rw [enterQueue_of_room hroom]
  · exact State.me_adv (s := { s.updCore s.me.core fun k => { k with matrix := k.matrix ++ [c] } with fresh := s.fresh + 1 }) h
  · exact State.party_upd_other _ (fun q : Party => { q with pc := q.pc + 4 }) (fun _ => rfl) hp
  · exact fun _ => rfl
  · rfl

namespace Queued

variable {s t : State} {c : MatCmd} {q : Party}

theorem updRegion (h : Queued s t c q) (part base : Nat) (f : Region → Region) : Queued s (t.updRegion part base f) c q :=
  ⟨h.queue, h.core, h.cores, h.me, h.others, h.bytes, h.rest⟩

theorem upd (h : Queued s t c q) (hhere : t.here) (hactor : t.actor = s.actor) {f : Party → Party} (hf : KeepsId f) :
    Queued s (t.upd f) c (f q) where
  queue := h.queue
  core := h.core
  cores := h.cores
  me := by rw [State.me_upd hhere f hf, h.me]
  others p hp := (State.party_upd_other t f hf (hactor ▸ hp)).trans (h.others p hp)
  bytes := h.bytes
  rest := h.rest

end Queued

/-! ## PLANE and SCALE (R127 to R131) -/

theorem not_all_iff {α : Type} {l : List α} {f : α → Bool} : (!l.all f) = true ↔ ¬∀ x ∈ l, f x = true := by
  rw [Bool.not_eq_true', ← Bool.not_eq_true, List.all_eq_true]

theorem any_iff_not_forall {α : Type} {l : List α} {f : α → Bool} : l.any f = true ↔ ¬∀ x ∈ l, f x = false := by
  simp [List.any_eq_true]

section Planes

variable {s : State} {w : Workgroup} {d a b : BitVec 6}

/-- The operands of a PLANE, and its checks. -/
theorem plane_checks (s : State) (w : Workgroup) (sideB : Bool) (d a b : BitVec 6) :
    let dst := (s.rd d).toNat
    let src := (s.rd a).toNat
    let v := (s.rd b).toNat
    let ty := v / 2 ^ 9 % 16
    let p := v / 2 ^ 6 % 8 + 1
    let nb := v % 64 + 1
    let stride := v / 2 ^ 13 % 2 ^ 20
    let halves := planeHalves ty
    let reads := [(src, ((if sideB then nb * 32 else 128) - 1) * stride + if sideB then 128 * halves / 2 else nb * 32 * halves / 2)]
    let writes := [(dst, nb * planeBlock p)]
    ChecksTo s.trap (s.enterQueue (s.me.command w s.fresh (.plane sideB dst src stride ty p nb) reads writes)) (s.plane w sideB d a b)
      [(v < 2 ^ 33 ∧ ty < 9 ∧ nb ≤ 32, .illegal),
        (src % max 1 (halves / 2) = 0 ∧ stride % max 1 (halves / 2) = 0 ∧ dst % 32 = 0, .alignment),
        (∀ r ∈ reads ++ writes, within r.1 r.2 w.share w.length = true, .protection),
        (∀ r ∈ reads, s.copyDest s.me.core r = false, .rangeLock)] := by
  intro dst src v ty p nb stride halves reads writes
  refine .ite ?_ fun _ => .ite ?_ fun _ => .ite not_all_iff fun _ => .ite any_iff_not_forall fun _ => rfl
  · show v / 2 ^ 33 ≠ 0 ∨ 9 ≤ ty ∨ 32 < nb ↔ _
    omega
  · show src % max 1 (halves / 2) ≠ 0 ∨ stride % max 1 (halves / 2) ≠ 0 ∨ dst % 32 ≠ 0 ↔ _
    tauto

theorem exec_plane (h : MatReady s w [d, a, b]) :
    ∀ f ∈ ([(false, .planeA d a b), (true, .planeB d a b)] : List (Bool × Instr)), exec f.2 s = .next (s.plane w f.1 d a b) := by
  intro f hf
  obtain rfl | rfl : f = (false, .planeA d a b) ∨ f = (true, .planeB d a b) := by simpa using hf
  · exact h.matOp fun s w => s.plane w false d a b
  · exact h.matOp fun s w => s.plane w true d a b

/-- The operands of a SCALE, and its checks. -/
theorem gives_scale_checks (h : MatReady s w [a, b]) :
    let src := (s.rd a).toNat
    let v := (s.rd b).toNat
    let stride := v / 2 ^ 18 % 2 ^ 20
    let n := v / 2 ^ 9 % 2 ^ 9 + 1
    let c0 := v % 512
    let reads := [(src, 127 * stride + n)]
    Gives (.scale a b) s fun t =>
      ChecksTo s.trap (s.enterQueue (s.me.command w s.fresh (.scale src stride n (w.window.1 + c0)) reads [])) t
        [(v < 2 ^ 38, .illegal), (c0 + n ≤ w.window.2, .protection),
          (∀ r ∈ reads, within r.1 r.2 w.share w.length = true, .protection),
          (∀ r ∈ reads, s.copyDest s.me.core r = false, .rangeLock)] := by
  intro src v stride n c0 reads
  refine h.gives rfl (.ite ?_ fun _ => .ite Nat.not_le.symm fun _ => .ite not_all_iff fun _ => .ite any_iff_not_forall fun _ => rfl)
  show v / 2 ^ 38 ≠ 0 ↔ _
  omega

end Planes

/-- Settles O17: each check of a PLANE and of a SCALE, in its order, and the command of one that passes them. -/
theorem planesQueued : Obligations.PlanesQueued := by
  refine fun s w d a b => ⟨?plane, ?scale⟩
  case plane =>
    intro h ty p nb stride halves f hf reads writes legal aligned inside
    obtain ⟨hlegal, hlegal'⟩ := plane_checks s w f.1 d a b
    have hexec := exec_plane h f hf
    refine ⟨fun hl => ⟨_, hexec, h.trapped (hlegal hl)⟩, fun hl ha => ⟨_, hexec, h.trapped ((hlegal' hl).1 ha)⟩,
      fun hl ha hi => ⟨_, hexec, h.trapped (((hlegal' hl).2 ha).1 hi)⟩, fun hl ha hi hfree hroom => ⟨_, hexec, ?_⟩⟩
    rw [(((hlegal' hl).2 ha).2 hi).2 hfree]
    exact queued_enterQueue h.here h.core hroom _
  case scale =>
    intro h stride n c0 reads
    obtain ⟨t, hexec, hreserved, hchecks⟩ := gives_scale_checks h
    refine ⟨fun hv => ⟨t, hexec, h.trapped (hreserved (Nat.not_lt.2 hv))⟩,
      fun hv hw => ⟨t, hexec, h.trapped ((hchecks hv).1 (Nat.not_le.2 hw))⟩, fun hv hw hin hfree hroom => ⟨t, hexec, ?_⟩⟩
    rw [(((hchecks hv).2 hw).2 (List.forall_mem_singleton.2 hin)).2 hfree]
    exact queued_enterQueue h.here h.core hroom _

/-! ## MMA (R125, R132, R133) -/

/-- The operands of an MMA, by its words. -/
def mmaOperands (base v h : Nat) : MmaOperands :=
  ⟨base, bitsOf v 50 42, bitsOf v 59 51, bitsOf v 20 0, bitsOf v 41 21, h % 64 + 1, bitsOf h 8 6 + 1, bitsOf h 11 9 + 1,
    decide (bitsOf h 14 12 = 3), if decide (bitsOf h 15 15 = 1) then some (bitsOf h 21 16) else none⟩

theorem mmaOperands_eq (base v h : Nat) : mmaOperands base v h =
    ⟨base, v / 2 ^ 42 % 512, v / 2 ^ 51 % 512, v % 2 ^ 21, v / 2 ^ 21 % 2 ^ 21, h % 64 + 1, h / 2 ^ 6 % 8 + 1, h / 2 ^ 9 % 8 + 1,
      decide (h / 2 ^ 12 % 8 = 3), if h / 2 ^ 15 % 2 = 1 then some (h / 2 ^ 16 % 64) else none⟩ := by
  have hlow : bitsOf v 20 0 = v % 2 ^ 21 := by rw [bitsOf, Nat.pow_zero, Nat.div_one]
  simp only [mmaOperands, hlow, decide_eq_true_eq]
  rfl

section Mma

variable {s : State} {w : Workgroup} {d a b : BitVec 6}

/-- R132's check of the mode: a region that a launch declared takes ordered MMAs, any other those of its mode. -/
theorem mode_refused_iff (r : Region) (ord : Prop) [Decidable ord] :
    (r.declared && !decide ord || !r.declared && decide (decide ord ≠ r.ordered)) = true ↔
      ¬((r.declared = true → ord) ∧ (r.declared = false → (ord ↔ r.ordered = true))) := by
  cases r.declared <;> cases r.ordered <;> simp

/-- R132's check of the index. -/
theorem index_refused_iff (r : Region) (ord : Prop) [Decidable ord] (idx : Nat) (waits : Bool) :
    (decide ord && (decide (r.n ≤ idx) || (r.ordered && (decide (idx ∈ r.reserved) || waits)))) = true ↔
      ¬(ord → idx < r.n ∧ (r.ordered = true → idx ∉ r.reserved ∧ waits = false)) := by
  simp only [Bool.and_eq_true, Bool.or_eq_true, decide_eq_true_eq, ← Nat.not_lt, ← Bool.not_eq_true]
  tauto

/-- R132. -/
theorem mma_checks (s : State) (w : Workgroup) (d a b : BitVec 6) :
    let base := (s.rd d).toNat
    let v := (s.rd a).toNat
    let h := (s.rd b).toNat
    let m := mmaOperands base v h
    let scope := h / 2 ^ 12 % 8
    let ord : Prop := h / 2 ^ 15 % 2 = 1
    let idx := h / 2 ^ 16 % 64
    let region := s.region? w.part base
    ChecksTo .error (.ok m) (s.mmaChecks w d a b)
      [(v < 2 ^ 60 ∧ h < 2 ^ 22, .illegal), (m.blocks ≤ 32, .illegal), (scope = 1 ∨ scope = 3, .illegal), (ord ∨ idx = 0, .illegal),
        (m.ca + m.blocks ≤ w.window.2 ∧ m.cb + m.blocks ≤ w.window.2, .protection), (m.aBase % 32 = 0 ∧ m.bBase % 32 = 0, .alignment),
        (∀ r ∈ m.reads, within r.1 r.2 w.share w.length = true, .protection), (base % 128 = 0, .alignment),
        (region ≠ none, .accumStore),
        (∀ r, region = some r → (r.declared = true → ord) ∧ (r.declared = false → (ord ↔ r.ordered = true)), .accumStore),
        (∀ r, region = some r → ord →
          idx < r.n ∧ (r.ordered = true → idx ∉ r.reserved ∧ s.waitingIndex w.part base idx = false), .accumStore),
        (∀ r ∈ m.reads, s.copyDest s.me.core r = false, .rangeLock)] := by
  intro base v h m scope ord idx region
  refine .ite ?words fun _ => .ite Nat.not_le.symm fun _ => .ite not_or.symm fun _ => .ite ?index fun _ => .ite ?window fun _ =>
    .ite not_and_or.symm fun _ => .ite not_all_iff fun _ => .ite Iff.rfl fun _ => ?region
  case words =>
    show v / 2 ^ 60 ≠ 0 ∨ h / 2 ^ 22 ≠ 0 ↔ _
    omega
  case index =>
    show (!decide (h / 2 ^ 15 % 2 = 1) && decide (idx ≠ 0)) = true ↔ _
    simp [ord]
  case window =>
    show w.window.2 < m.ca + m.blocks ∨ w.window.2 < m.cb + m.blocks ↔ _
    omega
  case region =>
    cases hr : s.region? w.part base with
    | none => exact ⟨fun _ => rfl, fun hn => absurd hr hn⟩
    | some r =>
      have hregion : region = some r := hr
      simp only [hregion, Option.some.injEq, forall_eq']
      exact ⟨fun hn => absurd hn (by simp), fun _ => .ite (mode_refused_iff r ord) fun _ =>
        .ite (index_refused_iff r ord idx _) fun _ => .ite any_iff_not_forall fun _ => rfl⟩

/-- A region takes the request of an MMA. -/
def Region.asked (id : Nat) (index : Option Nat) (r : Region) : Region :=
  { r with
    asking := r.asking ++ [id]
    reserved := if r.ordered then r.reserved ++ index.toList else r.reserved }

/-- The command of an MMA. -/
def State.mmaCommand (s : State) (w : Workgroup) (m : MmaOperands) (members : List (PartyId × Nat)) : MatCmd :=
  { s.me.command w s.fresh (.mma m.base m.ca m.cb m.aBase m.bBase m.blocks m.pA m.pB m.device m.index) m.reads [] with
    members := members
    named := dw m.base }

theorem mmaEnter_of_room (hroom : QueueRoom s) (m : MmaOperands) (members : List (PartyId × Nat)) : s.mmaEnter w m members =
    ((if ((s.region? w.part m.base).map fun r => !r.draining).getD false then
        (s.enterQueue (s.mmaCommand w m members)).updRegion w.part m.base (Region.asked s.fresh m.index)
      else s.enterQueue (s.mmaCommand w m members)).upd fun q => { q with stallOn := [s.fresh] }) :=
  if_neg (Nat.not_le.2 hroom)

/-- R133. An MMA that has entered the queue has asked its region, unless a drain holds it, and its stream waits. -/
theorem mmaEnter_queued (h : MatReady s w [d, a, b]) (hroom : QueueRoom s) (m : MmaOperands) (members : List (PartyId × Nat)) :
    Queued s (s.mmaEnter w m members) (s.mmaCommand w m members) { s.me with pc := s.me.pc + 4, stallOn := [s.fresh] } ∧
      (s.mmaEnter w m members).regions = s.regions.map fun r =>
        if (r.part = w.part ∧ r.base = m.base) ∧ (s.region? w.part m.base).map (·.draining) = some false then r.asked s.fresh m.index
        else r := by
  have hq := queued_enterQueue h.here h.core hroom (s.mmaCommand w m members)
  have hactor := enterQueue_actor s (s.mmaCommand w m members)
  have hregions := enterQueue_regions s (s.mmaCommand w m members)
  have hhere : (s.enterQueue (s.mmaCommand w m members)).here := by
    rw [enterQueue_of_room hroom]
    exact here_upd (s := { s.updCore s.me.core _ with fresh := s.fresh + 1 }) h.here _ fun _ => rfl
  have hopen : ((s.region? w.part m.base).map fun r => !r.draining).getD false = true ↔
      (s.region? w.part m.base).map (·.draining) = some false := by
    cases s.region? w.part m.base <;> simp
  rw [mmaEnter_of_room hroom]
  split
  · next ho =>
    refine ⟨(hq.updRegion _ _ _).upd hhere hactor fun _ => rfl, ?_⟩
    show updAll _ _ (s.enterQueue (s.mmaCommand w m members)).regions = _
    rw [hregions]
    simp [updAll, hopen.1 ho]
  · next ho =>
    have hkept : (s.regions.map fun r => if (r.part = w.part ∧ r.base = m.base) ∧
        (s.region? w.part m.base).map (·.draining) = some false then r.asked s.fresh m.index else r) = s.regions :=
      (List.map_congr_left fun r _ => if_neg fun hr => ho (hopen.2 hr.2)).trans (List.map_id _)
    exact ⟨hq.upd hhere hactor fun _ => rfl, hregions.trans hkept.symm⟩

theorem exec_mma (h : MatReady s w [d, a, b]) : exec (.mma d a b) s = .next (match s.mmaChecks w d a b with
    | .error c => s.trap c
    | .ok m => if s.me.gang.isEmpty then s.mmaEnter w m [(s.actor, s.me.batch)] else s.mmaJoint w m d a b) :=
  h.matOp _

end Mma

/-- Settles O18: the first check that fails; and where none does, the command in the queue or the rendezvous. -/
theorem mmaQueued : Obligations.MmaQueued := by
  intro s w d a b h base v hw aBase bBase ca cb blocks pA pB scope ord idx reads region checks index device
  have hm : mmaOperands base v hw = ⟨base, ca, cb, aBase, bBase, blocks, pA, pB, device, index⟩ := mmaOperands_eq base v hw
  have hchecks : ChecksTo .error (.ok (mmaOperands base v hw)) (s.mmaChecks w d a b) checks := by
    have hall := mma_checks s w d a b
    dsimp only at hall
    rw [hm] at hall ⊢
    exact hall
  refine ⟨fun l c r hl hpass hc => ?failed, fun hall => ⟨fun hgang hroom => ?queued, fun hgang => ?joint⟩⟩
  case failed =>
    have hfirst : s.mmaChecks w d a b = .error c.2 := ChecksTo.first hc l (hl ▸ hchecks) hpass
    refine ⟨_, exec_mma h, h.trapped ?_⟩
    rw [hfirst]
  case queued =>
    have hpassed := hchecks.passed hall
    have hq := mmaEnter_queued h hroom ⟨base, ca, cb, aBase, bBase, blocks, pA, pB, device, index⟩ [(s.actor, s.me.batch)]
    refine ⟨_, exec_mma h, ?_⟩
    rw [hpassed, hm]
    dsimp only
    rw [if_pos (by rw [hgang]; rfl)]
    exact hq
  case joint =>
    have hpassed := hchecks.passed hall
    refine ⟨_, exec_mma h, ?_⟩
    rw [hpassed, hm]
    dsimp only
    rw [if_neg (by simpa using hgang)]

end Sys2Proof.Machine
end

section
/-!
PROOFS. Accumulator regions and gangs at issue (R120, R124, R136, R137, R139): GANG, ACCD, and ACCI with the lines that it marks.
-/

namespace Sys2Proof.Machine

/-! ## GANG (R124) -/

theorem rising_iff_pairwise (l : List Nat) : rising l = true ↔ l.Pairwise (· < ·) := by
  rw [← List.isChain_iff_pairwise]
  induction l with
  | nil => simp [rising]
  | cons a r ih =>
    cases r with
    | nil => simp [rising]
    | cons b r => rw [rising, Bool.and_eq_true, decide_eq_true_eq, ih, List.isChain_cons_cons]

section Gang

variable {s : State} {w : Workgroup} {a : BitVec 6}

theorem gives_gang_checks (h : MatReady s w [a]) :
    let v := (s.rd a).toNat
    let n := v % 8
    let ms := gangMembers v n
    Gives (.gang a) s fun t => ChecksTo s.trap (s.upd fun q => { q with gang := ms, joint := 0 }).adv t
      [(n ≠ 1 ∧ n ≠ 7 ∧ v / 2 ^ (5 * n + 3) = 0, .illegal),
        (n = 0 ∨ (ms.Pairwise (· < ·) ∧ groupIndex s.actor ∈ ms ∧ ∀ m ∈ ms, m < w.groups.length), .gang),
        (¬∃ e ∈ w.latch, e.member = groupIndex s.actor, .gang)] := by
  intro v n ms
  refine h.gives rfl (.ite ?_ fun _ => .ite ?_ fun _ => .ite ?_ fun _ => rfl)
  · show n = 1 ∨ n = 7 ∨ v / 2 ^ (5 * n + 3) ≠ 0 ↔ _
    tauto
  · show n ≠ 0 ∧ (!(rising ms && decide (groupIndex s.actor ∈ ms) && ms.all fun m => decide (m < w.groups.length))) = true ↔ _
    rw [not_or, Bool.not_eq_true', ← Bool.not_eq_true, Bool.and_eq_true, Bool.and_eq_true, rising_iff_pairwise, List.all_eq_true]
    simp only [decide_eq_true_eq, and_assoc]
  · show (w.latch.any fun e => decide (e.member = groupIndex s.actor)) = true ↔ _
    simp [List.any_eq_true]

theorem became_gang (h : s.here) (ms : List Nat) : Became s (s.upd fun q => { q with gang := ms, joint := 0 }).adv
    { s.me with gang := ms, joint := 0, pc := s.me.pc + 4 } := by
  have hf : KeepsId fun q : Party => { q with gang := ms, joint := 0 } := fun _ => rfl
  have hadv : (s.upd fun q => { q with gang := ms, joint := 0 }).adv =
      s.upd ((fun q => { q with pc := q.pc + 4 }) ∘ fun q => { q with gang := ms, joint := 0 }) :=
    State.updParty_updParty s s.actor (fun q => { q with pc := q.pc + 4 }) hf
  rw [hadv]
  exact became_upd h _ fun _ => rfl

end Gang

/-! ## ACCD (R120, R139) -/

section Accd

variable {s : State} {w : Workgroup} {a b : BitVec 6}

/-- The command of an ACCD. -/
def State.accdCommand (s : State) (w : Workgroup) (base : Nat) (c : AccdDesc) : MatCmd :=
  { s.me.command w s.fresh (.accd base c) [] [] with globals := c.globals, named := dw base, row := c.first }

/-- The place of the descriptor. -/
theorem gives_accd_place (h : MatReady s w [a, b]) :
    let off := (s.rd b).toNat
    (off % 64 ≠ 0 → Gives (.accd a b) s (· = s.trapAt .alignment off)) ∧
      (off % 64 = 0 → within off 64 w.share w.length = false → Gives (.accd a b) s (· = s.trapAt .protection off)) := by
  intro off
  exact ⟨fun hoff => h.gives rfl (if_pos hoff), fun hoff hin => h.gives rfl ((if_neg (not_not.2 hoff)).trans (if_pos (by simp [off, hin])))⟩

/-- A descriptor that stands where it may, and its checks. -/
theorem gives_accd_checks (h : MatReady s w [a, b]) {c : AccdDesc} :
    let base := (s.rd a).toNat
    let off := (s.rd b).toNat
    off % 64 = 0 → within off 64 w.share w.length = true → s.storeBad 64 (.store w.core off) = false →
    AccdDesc.ofBytes (s.readPlace 64 (.store w.core off)) = some c →
    Gives (.accd a b) s fun t => ChecksTo s.trap
      (if 16 ≤ (s.core s.me.core).matrix.length ∨ 1024 < s.lockEntries s.me.core + c.globals.length then s
      else (s.enterQueue (s.accdCommand w base c)).updRegion w.part base fun r => { r with draining := true }) t
      [(c.dst % accdSize c.format = 0 ∧ c.stride % accdSize c.format = 0 ∧ c.maxWord % 4 = 0, .alignment),
        (s.region? w.part base ≠ none, .accumStore), (s.copyDest w.core (off, 64) = false, .rangeLock)] := by
  intro base off hoff hin hbad hc
  have hplaced : ¬(s.rd b).toNat % 64 ≠ 0 := not_not.2 hoff
  have hinside : ¬(!within (s.rd b).toNat 64 w.share w.length) = true := by simpa using hin
  have hsound : ¬s.storeBad 64 (.store w.core (s.rd b).toNat) = true := Bool.not_eq_true _ ▸ hbad
  refine h.gives rfl ?_
  dsimp only
  rw [if_neg hplaced, if_neg hinside, if_neg hsound, hc]
  refine .ite ?_ fun _ => ?_
  · tauto
  · cases hr : s.region? w.part base with
    | none => exact ⟨fun _ => rfl, fun hn => absurd rfl hn⟩
    | some r => exact ⟨fun hn => absurd (Option.some_ne_none r) hn, fun _ => .ite (Bool.not_eq_false _).symm.to_iff fun _ => rfl⟩

end Accd

/-! ## ACCI (R136, R137) -/

theorem foldl_of_fixed {α β : Type} {f : β → α → β} {b : β} : ∀ l : List α, (∀ x ∈ l, f b x = b) → l.foldl f b = b
  | [], _ => rfl
  | x :: r, h => by
    rw [List.foldl_cons, h x List.mem_cons_self]
    exact foldl_of_fixed r fun y hy => h y (List.mem_cons_of_mem _ hy)

/-- Leaves whose Dirty bits are set are not written: what a translation unit has cached of them changes only. -/
theorem setDirty_of_leavesDirty (unit : Nat) (ps : List Piece) : ∀ s : State, s.leavesDirty ps = true →
    ∃ tl, s.setDirty unit ps = { s with tlb := tl } := by
  induction ps with
  | nil => exact fun s _ => ⟨s.tlb, rfl⟩
  | cons p r ih =>
    intro s h
    obtain ⟨hp, hr⟩ := Bool.and_eq_true_iff.1 (show (_ && s.leavesDirty r) = true from h)
    rw [State.setDirty, List.foldl_cons]
    cases hl : p.leaf with
    | none => exact ih s hr
    | some a =>
      simp only [hl] at hp
      have hset : (s.homeByte (a + 1)).getLsbD 0 = true := hp
      have hkept : s.orLeaf unit a 8 = s := by
        unfold State.orLeaf
        simp [hset]
      dsimp only
      rw [hkept, if_pos hset]
      obtain ⟨tl, htl⟩ := ih { s with tlb := updAll (fun e => decide (e.unit = unit ∧ e.at_ = a)) (fun e => { e with leaf := e.leaf ||| 0x100 }) s.tlb } hr
      exact ⟨tl, htl⟩

theorem afterDirty_of_leavesDirty {s : State} {ps : List Piece} (h : s.leavesDirty ps = true) (unit : Nat) (k : State → State) :
    ∃ tl, s.afterDirty unit ps k = k { s with tlb := tl } := by
  obtain ⟨tl, htl⟩ := setDirty_of_leavesDirty unit ps s h
  refine ⟨tl, ?_⟩
  unfold State.afterDirty
  rw [htl]
  exact if_pos h

/-- A line that no core holds dirty and nothing holds back: there is nothing to drain, to recall or to ask. -/
theorem claim_of_free {s : State} (hc : s.dieCopies = []) {l : Nat} (hfree : s.lineFree l = true) (hclean : ∀ h ∈ s.dirtyHolders, h.1 ≠ l) :
    (s.claimLine l).askSharers l = s ∧ s.claimed l = true := by
  have hnone : (s.dirtyHolders.filter fun h => decide (h.1 = l)) = [] := List.filter_eq_nil_iff.2 fun h hh => by simp [hclean h hh]
  have hall (f : Nat × Nat → Bool) : (s.dirtyHolders.filter fun h => decide (h.1 ≠ l) || f h) = s.dirtyHolders :=
    List.filter_eq_self.2 fun h hh => by simp [hclean h hh]
  have hrecall : s.recallAll l = s := by
    simp only [State.recallAll, State.recall, State.holders, hc, List.filter_nil, List.foldl_nil, List.map_nil]
    rw [← hc]
  have hclaim : s.claimLine l = s := by
    simp only [State.claimLine, hnone, List.foldl_nil, hrecall, hall]
  have hunshared : (s.sharers.filter fun x => decide (x.1 = l)) = [] := by
    obtain ⟨hshared, -⟩ := Bool.and_eq_true_iff.1 hfree
    rw [State.shared, Bool.not_eq_true', List.any_eq_false] at hshared
    exact List.filter_eq_nil_iff.2 hshared
  refine ⟨?_, ?_⟩
  · rw [hclaim, State.askSharers, hunshared, List.foldl_nil]
  · rw [State.claimed, Bool.not_eq_true', List.any_eq_false]
    exact fun h hh => by simp [hclean h hh]

/-- A line is set to +0.0 at its home slice. -/
def State.zeroLine (s : State) (l : Nat) : State := (s.homeNow (.write (cellsFrom (128 * l) (List.replicate 128 0)))).1

/-- Some lines have been set to +0.0, and nothing else of memory and no region has changed; a party has at most been woken. -/
structure Zeroed (s t : State) (ls : List Nat) : Prop where
  bytes : ∀ m, cellGet t.mem m = if m / 128 ∈ ls then 0 else cellGet s.mem m
  regions : t.regions = s.regions
  who : SameWho s t
  pc : ∀ p, (t.party p).pc = (s.party p).pc

theorem Party.wokenBy_pc (line : Nat) (q : Party) : (q.wokenBy line).pc = q.pc := by
  unfold Party.wokenBy
  split
  · split <;> rfl
  · rfl

theorem writeMem_pc (s : State) (cs : List Host.Cell) (p : PartyId) : ((s.writeMem cs).party p).pc = (s.party p).pc := by
  rcases writeMem_party_cases s cs p with e | ⟨line, e⟩
  · rw [e]
  · rw [e, Party.wokenBy_pc]

theorem writeMem_dieCopies (s : State) (cs : List Host.Cell) : (s.writeMem cs).dieCopies = s.dieCopies := by
  cases cs <;> rfl

theorem zeroLine_eq {s : State} (hc : s.dieCopies = []) (l : Nat) :
    s.zeroLine l = s.writeMem (cellsFrom (128 * l) (List.replicate 128 0)) := homeNow_write_of_no_copies hc _

theorem cellGet_writeBytes_zeros (m : Cells 8) (l a : Nat) :
    cellGet (writeBytes m (128 * l) (List.replicate 128 0)) a = if a / 128 = l then 0 else cellGet m a := by
  split
  · next h =>
    obtain ⟨i, rfl⟩ : ∃ i, a = 128 * l + i := ⟨a - 128 * l, by omega⟩
    rw [cellGet_writeBytes_inside _ _ _ i (by rw [List.length_replicate]; omega), List.getElem_replicate]
  · exact cellGet_writeBytes_outside _ _ _ _ (by rw [List.length_replicate]; omega)

theorem zeroed_foldl (ls : List Nat) : ∀ s : State, s.dieCopies = [] → Zeroed s (ls.foldl State.zeroLine s) ls := by
  induction ls with
  | nil => exact fun s _ => ⟨fun m => by simp, rfl, .refl s, fun _ => rfl⟩
  | cons l r ih =>
    intro s hc
    have heq := zeroLine_eq hc l
    obtain ⟨hbytes, hregions, hwho, hpc⟩ := ih (s.zeroLine l) (by rw [heq, writeMem_dieCopies, hc])
    rw [heq] at hbytes hregions hwho hpc
    rw [List.foldl_cons, heq]
    refine ⟨fun m => ?_, hregions.trans (writeMem_regions ..), (sameWho_writeMem ..).trans hwho,
      fun p => (hpc p).trans (writeMem_pc ..)⟩
    rw [hbytes, writeMem_cellsFrom_mem, cellGet_writeBytes_zeros]
    by_cases hr : m / 128 ∈ r <;> simp [hr]

/-- The region that an ACCI marks. -/
def acciRegion (w : Workgroup) (base v : Nat) (spans : List Piece) (ordered : Bool) : Region where
  part := w.part
  launch := w.launch
  rung := w.rung
  base := base
  spans := spans
  declared := decide (bitsOf v 8 8 = 1)
  ordered := if decide (bitsOf v 8 8 = 1) then ordered else decide (v % 128 ≠ 0)
  n := v % 128
  reserved := []
  dropped := []
  outstanding := []
  asking := []
  draining := false
  leaving := false
  await := []
  early := []

/-- R136. A region none of whose lines is held dirty or held back is marked at once. -/
theorem markRegion_of_free {s : State} (hc : s.dieCopies = []) {r : Region}
    (hfree : ∀ l ∈ pieceLines r.spans, s.lineFree l = true ∧ ∀ h ∈ s.dirtyHolders, h.1 ≠ l) (zero : Bool) (k : State → State) :
    ∃ t, s.markRegion r zero k = k t ∧ Zeroed { s with regions := s.regions ++ [r] } t (if zero then pieceLines r.spans else []) := by
  have hfold : (pieceLines r.spans).foldl (fun s l => (s.claimLine l).askSharers l) s = s :=
    foldl_of_fixed _ fun l hl => (claim_of_free hc (hfree l hl).1 (hfree l hl).2).1
  have hall : ((pieceLines r.spans).all fun l => s.claimed l && s.lineFree l) = true :=
    List.all_eq_true.2 fun l hl => by rw [(claim_of_free hc (hfree l hl).1 (hfree l hl).2).2, (hfree l hl).1]; rfl
  have hz := zeroed_foldl (if zero then pieceLines r.spans else []) (State.fitRemote { s with regions := s.regions ++ [r] }) hc
  refine ⟨_, ?_, hz.bytes, hz.regions, hz.who.after rfl rfl, hz.pc⟩
  unfold State.markRegion
  dsimp only
  rw [hfold, hall, if_neg (by simp)]
  cases zero <;> rfl

section Acci

variable {s s1 : State} {w : Workgroup} {a b : BitVec 6} {x : Xlat}

/-- What an ACCI's words must be (R136). -/
def AcciLegal (v : Nat) : Prop := v < 2 ^ 9 ∧ v % 128 ≤ 64 ∧ (v / 2 ^ 8 % 2 = 1 → v % 128 ≠ 0)

theorem acci_refused_iff (v : Nat) :
    (v / 2 ^ 9 ≠ 0 ∨ 64 < v % 128 ∨ (decide (bitsOf v 8 8 = 1) = true ∧ v % 128 = 0)) ↔ ¬AcciLegal v := by
  rw [decide_eq_true_eq]
  show (v / 2 ^ 9 ≠ 0 ∨ 64 < v % 128 ∨ (v / 2 ^ 8 % 2 = 1 ∧ v % 128 = 0)) ↔ _
  unfold AcciLegal
  omega

theorem gives_acci_illegal (h : MatReady s w [a, b]) (hl : ¬AcciLegal (s.rd b).toNat) : Gives (.acci a b) s (· = s.trap .illegal) :=
  h.gives rfl (if_pos ((acci_refused_iff _).2 hl))

theorem gives_acci_misaligned (h : MatReady s w [a, b]) (hl : AcciLegal (s.rd b).toNat) (ha : (s.rd a).toNat % 128 ≠ 0) :
    Gives (.acci a b) s (· = s.trap .alignment) :=
  h.gives rfl ((if_neg fun hn => (acci_refused_iff _).1 hn hl).trans (if_pos ha))

theorem gives_acci_marks (h : MatReady s w [a, b]) (hl : AcciLegal (s.rd b).toNat) (ha : (s.rd a).toNat % 128 = 0)
    (hp : s.acciPages s.me (s.rd a).toNat = (s1, .ok x)) (hq : s1.budgetOk w.key (·.quota) s1.linesUnder 512 = true)
    (hm : ∀ l ∈ pieceLines x.pieces, s1.marked l = false) :
    Gives (.acci a b) s (· = s1.afterDirty (s1.unitOf s.me).unit x.pieces fun u =>
      u.markRegion (acciRegion w (s.rd a).toNat (s.rd b).toNat x.pieces (((s1.rcbOf s.me.id).map fun r => r.flags.getLsbD 3).getD false))
        (decide (bitsOf (s.rd b).toNat 7 7 = 1)) State.adv) := by
  have hmarked : ¬(pieceLines x.pieces).any s1.marked = true := by simpa using hm
  refine h.gives rfl ?_
  dsimp only
  rw [if_neg fun hn => (acci_refused_iff _).1 hn hl, if_neg (not_not.2 ha), hp]
  dsimp only
  rw [hq, if_neg (by simp), if_neg hmarked]
  rfl

/-- R136. What an ACCI whose checks pass leaves where nothing holds its lines back. -/
theorem acci_marked (hs : s1.here) {r : Region} (hdirty : s1.leavesDirty r.spans = true) (hc : s1.dieCopies = [])
    (hfree : ∀ l ∈ pieceLines r.spans, s1.lineFree l = true ∧ ∀ h ∈ s1.dirtyHolders, h.1 ≠ l) (unit : Nat) (zero : Prop) [Decidable zero] :
    let t := s1.afterDirty unit r.spans fun s => s.markRegion r (decide zero) State.adv
    t.regions = s1.regions ++ [r] ∧ t.me.pc = s1.me.pc + 4 ∧
      ∀ m, cellGet t.mem m = if zero ∧ m / 128 ∈ pieceLines r.spans then 0 else cellGet s1.mem m := by
  intro t
  obtain ⟨tl, htl⟩ := afterDirty_of_leavesDirty hdirty unit fun s => s.markRegion r (decide zero) State.adv
  obtain ⟨u, hu, hz⟩ := markRegion_of_free (s := { s1 with tlb := tl }) hc hfree (decide zero) State.adv
  have ht : t = u.adv := htl.trans hu
  have hactor : u.actor = s1.actor := hz.who.actor
  rw [ht]
  refine ⟨hz.regions, ?_, fun m => (hz.bytes m).trans ?_⟩
  · rw [State.me_adv (hz.who.here hs)]
    show (u.party u.actor).pc + 4 = _
    rw [hactor, hz.pc]
    rfl
  · by_cases hzero : zero <;> simp [hzero]

theorem here_acciPages (h : s.here) {base : Nat} (hp : s.acciPages s.me base = (s1, .ok x)) : s1.here := by
  have hwho := sameWho_xlate s (s.unitOf s.me) base 65536 .write true
  rw [show s.xlate (s.unitOf s.me) base 65536 .write true = _ from hp] at hwho
  exact hwho.here h

end Acci

/-- Settles O19: the checks of ACCI, ACCD and GANG in their order, and what each does where they pass. -/
theorem accumulatorCommands : Obligations.AccumulatorCommands := by
  refine ⟨fun s w a b h => ⟨?acci, ?accd⟩, fun s w a h => ?gang⟩
  case acci =>
    intro legal
    refine ⟨fun hl => (gives_acci_illegal h hl).mono fun _ => h.trapped, fun hl ha => (gives_acci_misaligned h hl ha).mono fun _ => h.trapped,
      fun s1 x hl ha hp hq hm => (gives_acci_marks h hl ha hp hq hm).mono fun t ht => ?_⟩
    refine ⟨_, ht, fun hdirty hc hfree => ?_, rfl, rfl, rfl, rfl, rfl, rfl, fun hd => if_neg (Bool.eq_false_iff.1 hd), rfl, rfl⟩
    rw [ht]
    exact acci_marked (r := acciRegion w _ _ x.pieces _) (here_acciPages h.here hp) hdirty hc hfree _ _
  case accd =>
    intro at_
    obtain ⟨hunaligned, houtside⟩ := gives_accd_place h
    have htrap {c : FaultClass} {off : Nat} (t : State) (ht : t = s.trapAt c off) : Trapped s t c := ht ▸ trapped_fault h.here c _ _
    refine ⟨fun hoff => (hunaligned hoff).mono htrap, fun hoff hin => (houtside hoff hin).mono htrap, fun c hoff hin hbad hc => ?_⟩
    intro aligned
    obtain ⟨t, hexec, hmisaligned, hchecks⟩ := gives_accd_checks h hoff hin hbad hc
    refine ⟨fun ha => ⟨t, hexec, h.trapped (hmisaligned ha)⟩, fun ha hr => ⟨t, hexec, h.trapped ((hchecks ha).1 (not_not.2 hr))⟩,
      fun r ha hr => ⟨fun hcopy => ?locked, fun hcopy hfull => ?full, fun hcopy hroom hlocks => ?queued⟩⟩
    all_goals obtain ⟨hlocked, hgoes⟩ := (hchecks ha).2 (by simp [hr])
    case locked => exact ⟨t, hexec, h.trapped (hlocked (by simp [hcopy]))⟩
    case full =>
      refine ⟨t, hexec, (hgoes hcopy).trans (if_pos ?_)⟩
      unfold QueueRoom at hfull
      omega
    case queued =>
      have hnot : ¬(16 ≤ (s.core s.me.core).matrix.length ∨ 1024 < s.lockEntries s.me.core + c.globals.length) := by
        unfold QueueRoom at hroom
        omega
      have ht := (hgoes hcopy).trans (if_neg hnot)
      refine ⟨t, hexec, ?_⟩
      rw [ht]
      refine ⟨(queued_enterQueue h.here h.core hroom _).updRegion _ _ _, ?_⟩
      show updAll _ _ (s.enterQueue _).regions = _
      rw [enterQueue_regions]
      simp [updAll]
  case gang =>
    intro v n ms legal names inLatch
    obtain ⟨t, hexec, hillegal, hchecks⟩ := gives_gang_checks h
    refine ⟨fun hl => ⟨t, hexec, h.trapped (hillegal hl)⟩, fun hl hn => ⟨t, hexec, h.trapped ((hchecks hl).1 hn)⟩,
      fun hl hn hin => ⟨t, hexec, h.trapped (((hchecks hl).2 hn).1 (not_not.2 hin))⟩, fun hl hn hin => ⟨t, hexec, ?_⟩⟩
    rw [((hchecks hl).2 hn).2 hin]
    exact became_gang h.here ms

end Sys2Proof.Machine
end

section
/-!
PROOFS. Steps of an MMA (R133, R134): its grant, and the contributions that its tile sends.
-/

namespace Sys2Proof.Machine

/-! ## Parties changed one after another -/

theorem foldl_parties_frame {α : Type} {f : State → α → State} (hf : ∀ s x, { f s x with parties := s.parties } = s) (l : List α) :
    ∀ s : State, { l.foldl f s with parties := s.parties } = s := by
  induction l with
  | nil => exact fun _ => rfl
  | cons x r ih => exact fun s => (congrArg (fun u : State => { u with parties := s.parties }) (ih (f s x))).trans (hf s x)

/-- A stream waits no longer for an operation. -/
def Party.freed (id : Nat) (q : Party) : Party := { q with stallOn := q.stallOn.filter fun i => decide (i ≠ id) }

theorem Party.freed_keepsId (id : Nat) : KeepsId (Party.freed id) := fun _ => rfl

/-- The streams of some groups wait no longer for an operation. -/
def State.wake (s : State) (id : Nat) (members : List (PartyId × Nat)) : State :=
  members.foldl (fun s m => s.updParty m.1 (Party.freed id)) s

theorem wake_frame (s : State) (id : Nat) (members : List (PartyId × Nat)) : { s.wake id members with parties := s.parties } = s :=
  foldl_parties_frame (f := fun s (m : PartyId × Nat) => s.updParty m.1 (Party.freed id)) (fun _ _ => rfl) members s

theorem wake_party_other (id : Nat) {p : PartyId} (members : List (PartyId × Nat)) :
    ∀ s : State, (∀ m ∈ members, m.1 ≠ p) → (s.wake id members).party p = s.party p := by
  induction members with
  | nil => exact fun _ _ => rfl
  | cons m r ih =>
    intro s h
    obtain ⟨hm, hr⟩ := List.forall_mem_cons.1 h
    exact (ih _ hr).trans (State.party_updParty_other _ _ _ _ (Party.freed_keepsId id) hm.symm)

/-- A party that is not there waits for nothing. -/
theorem stallOn_updParty_freed (s : State) (p : PartyId) (id : Nat) :
    ((s.updParty p (Party.freed id)).party p).stallOn = (s.party p).stallOn.filter fun i => decide (i ≠ id) := by
  rw [State.party, State.party?_updParty _ _ _ _ (Party.freed_keepsId id), State.party]
  cases s.party? p with
  | none => rfl
  | some q => simp [Party.freed]

theorem wake_stallOn (id : Nat) (p : PartyId) (members : List (PartyId × Nat)) :
    ∀ s : State, (∃ m ∈ members, m.1 = p) →
      ((s.wake id members).party p).stallOn = (s.party p).stallOn.filter fun i => decide (i ≠ id) := by
  induction members with
  | nil => exact fun _ h => absurd h (by simp)
  | cons m r ih =>
    intro s h
    show (((s.updParty m.1 (Party.freed id)).wake id r).party p).stallOn = _
    by_cases hm : m.1 = p
    · subst hm
      by_cases hr : ∃ n ∈ r, n.1 = m.1
      · rw [ih _ hr, stallOn_updParty_freed, List.filter_filter]
        simp
      · rw [wake_party_other id r _ fun n hn hne => hr ⟨n, hn, hne⟩, stallOn_updParty_freed]
    · obtain ⟨n, hn, hne⟩ := h
      have hr : n ∈ r := (List.mem_cons.1 hn).resolve_left fun e => hm (e ▸ hne)
      rw [ih _ ⟨n, hr, hne⟩, State.party_updParty_other _ _ _ _ (Party.freed_keepsId id) (Ne.symm hm)]

/-! ## The grant (R133) -/

/-- A command that alone has its number is the one that is found by it. -/
theorem findSome?_command {s : State} {core : Nat} {c : MatCmd} (hcore : core < 128) (hc : c ∈ (s.core core).matrix)
    (huniq : ∀ k, k < 128 → ∀ m ∈ (s.core k).matrix, m.id = c.id → k = core ∧ m = c) :
    ((List.range 128).findSome? fun k => ((s.core k).matrix.find? fun m => decide (m.id = c.id)).map fun m => (k, m)) = some (core, c) := by
  cases hf : (List.range 128).findSome? fun k => ((s.core k).matrix.find? fun m => decide (m.id = c.id)).map fun m => (k, m) with
  | none =>
    have hnone := List.findSome?_eq_none_iff.1 hf core (List.mem_range.2 hcore)
    rw [Option.map_eq_none_iff, List.find?_eq_none] at hnone
    exact absurd (decide_eq_true rfl) (hnone c hc)
  | some x =>
    obtain ⟨k, hk, hx⟩ := List.exists_of_findSome?_eq_some hf
    obtain ⟨m, hm, rfl⟩ := Option.map_eq_some_iff.1 hx
    obtain ⟨rfl, rfl⟩ := huniq k (List.mem_range.1 hk) m (List.mem_of_find?_eq_some hm) (by simpa using List.find?_some hm)
    rfl

/-- A region counts an MMA that has asked as outstanding. -/
def Region.granted (id : Nat) (r : Region) : Region :=
  { r with asking := r.asking.filter fun i => decide (i ≠ id), outstanding := r.outstanding ++ [id] }

section Steps

variable {s : State} {core : Nat} {c : MatCmd} {base ca cb aBase bBase blocks pA pB : Nat} {dev : Bool} {index : Option Nat}
  (hbody : c.body = .mma base ca cb aBase bBase blocks pA pB dev index)
include hbody

theorem exec_grant {r : Region} (hx : s.args.x = c.id) (hcore : core < 128) (hc : c ∈ (s.core core).matrix)
    (huniq : ∀ k, k < 128 → ∀ m ∈ (s.core k).matrix, m.id = c.id → k = core ∧ m = c) (hstage : c.stage = .waiting)
    (hr : s.region? c.part base = some r) (hask : c.id ∈ r.asking) :
    exec .mmaReservationGrant s = .next ((s.updRegion c.part base (Region.granted c.id)).wake c.id c.members) := by
  show execMmaReservationGrant s = _
  simp only [execMmaReservationGrant, hx, findSome?_command hcore hc huniq, hbody, hstage, hr, if_pos hask]
  rfl

/-! ## The tile (R134) -/

/-- The contribution to block `b` of row `i`. -/
def State.tileLine (s : State) (core : Nat) (c : MatCmd) (m : MmaOperands) (i b : Nat) : Contribution :=
  ⟨s.fresh + (4 * i + b), c.id, c.part, m.base, 4 * i + b, core, m.index, (((s.core core).tileRow m i).drop (32 * b)).take 32, false⟩

def State.tileLines (s : State) (core : Nat) (c : MatCmd) (m : MmaOperands) : List Contribution :=
  (List.range 128).flatMap fun i => (List.range 4).map (s.tileLine core c m i)

omit hbody in
theorem length_tileLines (m : MmaOperands) : (s.tileLines core c m).length = 512 := by
  simp [State.tileLines, List.length_flatMap]

omit hbody in
theorem tileLine_mem (m : MmaOperands) {i b : Nat} (hi : i < 128) (hb : b < 4) : s.tileLine core c m i b ∈ s.tileLines core c m :=
  List.mem_flatMap.2 ⟨i, List.mem_range.2 hi, List.mem_map_of_mem (List.mem_range.2 hb)⟩

/-- The operands of an MMA in its workgroup's window (R130). -/
def State.windowed (s : State) (c : MatCmd) (m : MmaOperands) : MmaOperands :=
  { m with ca := ((s.wg? c.part c.wg).map (·.window.1)).getD 0 + m.ca, cb := ((s.wg? c.part c.wg).map (·.window.1)).getD 0 + m.cb }

theorem exec_computeDone (hx : s.args.x = core) (hflag : s.args.flag = false) (hexec : s.executing? core = some c)
    (hagree : (s.core core).residuesAgree (s.windowed c ⟨base, ca, cb, aBase, bBase, blocks, pA, pB, dev, index⟩) = true)
    (hreads : s.badByte core c.reads = none) (hscale : ∀ o, ErrSite.scaleStore core o ∉ s.errors) :
    exec .mmaComputeDone s = .next { s.dropMat core c.id with
      contributions := s.contributions ++ s.tileLines core c (s.windowed c ⟨base, ca, cb, aBase, bBase, blocks, pA, pB, dev, index⟩)
      fresh := s.fresh + 512
      mmas := s.mmas ++ [⟨c.id, core, c.reads, c.part, base, c.members, dev, index, List.range 512⟩] } := by
  show execMmaComputeDone s = _
  simp only [execMmaComputeDone, State.withMat, hx, hexec, hbody]
  refine congrArg Host.Outcome.next ((if_neg ?mismatch).trans ((if_neg ?error).trans ?sent))
  case mismatch =>
    rw [hflag, show (s.core core).residuesAgree ⟨base, _, _, aBase, bBase, blocks, pA, pB, dev, index⟩ = true from hagree]
    simp
  case error =>
    rw [hreads, Bool.not_eq_true, Option.isSome_none, Bool.false_or, List.any_eq_false]
    intro e he
    split
    · next k o =>
      have hk : k ≠ core := fun hk => hscale o (hk ▸ he)
      simp [hk]
    · exact Bool.false_ne_true
  case sent =>
    rw [List.map_flatMap]
    simp only [List.map_map]
    rfl

end Steps

/-- Settles O21: the grant wakes the streams of the members; the tile leaves line by line. -/
theorem mmaSteps : Obligations.MmaSteps := by
  intro s core c base ca cb aBase bBase blocks pA pB dev index hcore hlen hbody
  refine ⟨fun r hx hc huniq hstage hr hask => ⟨_, exec_grant hbody hx hcore hc huniq hstage hr hask, ?granted⟩,
    fun hx hflag hexec => ?sent⟩
  case granted =>
    have hframe := wake_frame (s.updRegion c.part base (Region.granted c.id)) c.id c.members
    have hregions := congrArg State.regions hframe
    have hgranted := State.region?_updRegion (s := s) (f := Region.granted c.id) (fun _ => ⟨rfl, rfl⟩) hr
    refine ⟨?_, fun m hm => wake_stallOn c.id m.1 c.members _ ⟨m, hm, rfl⟩, fun p hp => wake_party_other c.id c.members _ hp,
      (congrArg State.mem hframe :)⟩
    rw [State.region?, show State.regions _ = _ from hregions]
    exact hgranted
  case sent =>
    intro w0 m hagree hreads hscale
    refine ⟨_, exec_computeDone hbody hx hflag hexec hagree hreads hscale, ⟨_, rfl, length_tileLines _, fun i b hi hb => ?_⟩, ?_, rfl, rfl, rfl⟩
    · exact ⟨_, tileLine_mem _ hi hb, rfl, rfl, rfl, rfl, rfl, rfl⟩
    · exact (congrArg Core.matrix ((State.core_updCore s core core _).trans (if_pos ⟨rfl, hlen⟩)) :)

end Sys2Proof.Machine
end

section
/-!
PROOFS. The steps of a matrix queue (R119, R122, R128, R131, R140): its head starts, a PLANE and a SCALE complete, a drain starts or
waits, and a command that cannot be carried out parks its group.
-/

namespace Sys2Proof.Machine

/-! ## The queue of a core -/

theorem queueOnly_updMat {s : State} {core : Nat} (hlen : core < s.cores.length) (id : Nat) (st : MatStage) :
    QueueOnly s (s.updMat core id fun m => { m with stage := st }) core
      ((s.core core).matrix.map fun m => if m.id = id then { m with stage := st } else m) where
  queue := by
    rw [State.updMat, State.core_updCore, if_pos ⟨rfl, hlen⟩]
    simp [updAll]
  parties := rfl
  bytes _ := rfl

theorem core_dropMat {s : State} {core : Nat} (hlen : core < s.cores.length) (id : Nat) :
    (s.dropMat core id).core core = { s.core core with matrix := (s.core core).matrix.filter fun m => decide (m.id ≠ id) } := by
  rw [State.dropMat, State.core_updCore, if_pos ⟨rfl, hlen⟩]

/-- A command that has filled a store of its core leaves the queue. -/
theorem queueOnly_dropMat {s t : State} {core : Nat} (hlen : core < t.cores.length) (id : Nat)
    (hqueue : (t.core core).matrix = (s.core core).matrix) (hparties : t.parties = s.parties) (hmem : t.mem = s.mem) :
    QueueOnly s (t.dropMat core id) core ((s.core core).matrix.filter fun m => decide (m.id ≠ id)) where
  queue := by rw [core_dropMat hlen, hqueue]
  parties := hparties
  bytes a := congrArg (cellGet · a) hmem

theorem core_writeStore {s : State} {core : Nat} (hlen : core < s.cores.length) (off : Nat) (bs : List Byte) :
    (s.writeStore core off bs).core core = { s.core core with
      store := writeBytes (s.core core).store off bs, blocks := addAll (blocksOf off bs.length) (s.core core).blocks } :=
  (State.core_updCore s core core _).trans (if_pos ⟨rfl, hlen⟩)

theorem length_cores_updCore (s : State) (core : Nat) (f : Core → Core) : (s.updCore core f).cores.length = s.cores.length := by
  simp [State.updCore]

theorem badByte_none {s : State} {core : Nat} (h : ∀ o, ErrSite.coreStore core o ∉ s.errors) (rs : List (Nat × Nat)) :
    s.badByte core rs = none := by
  rw [State.badByte, List.min?_eq_none_iff, List.filterMap_eq_nil_iff]
  intro e he
  split
  · next k o =>
    have hk : k ≠ core := fun hk => h o (hk ▸ he)
    exact if_neg fun hc => hk hc.1
  · rfl

/-! ## Cells set one after another -/

/-- A key that some cell names and to which all that name it give the same value. -/
theorem cellGet_foldl_cellSet_of_agree {w : Nat} {a : Nat} {v : BitVec w} (cs : List (Nat × BitVec w)) :
    ∀ m : Cells w, (∃ c ∈ cs, c.1 = a) → (∀ c ∈ cs, c.1 = a → c.2 = v) →
      cellGet (cs.foldl (fun m c => cellSet m c.1 c.2) m) a = v := by
  induction cs with
  | nil => exact fun _ h => absurd h (by simp)
  | cons c r ih =>
    intro m hin hall
    obtain ⟨hc, hr⟩ := List.forall_mem_cons.1 hall
    by_cases hlater : ∃ d ∈ r, d.1 = a
    · exact ih _ hlater hr
    · have hfirst : c.1 = a := by
        obtain ⟨d, hd, hda⟩ := hin
        obtain rfl | hd := List.mem_cons.1 hd
        · exact hda
        · exact absurd ⟨d, hd, hda⟩ hlater
      rw [List.foldl_cons, cellGet_foldl_cellSet r a _ fun d hd hda => hlater ⟨d, hd, hda⟩, cellGet_cellSet, if_pos hfirst.symm, hc hfirst]

/-- The bytes of the scale store that a SCALE writes (R131). -/
def scaleCells (store : Cells 8) (src stride n first : Nat) : List (Nat × Byte) :=
  (List.range 128).flatMap fun r => (List.range n).map fun k => (r * 512 + first + k, cellGet store (src + r * stride + k))

theorem mem_scaleCells {store : Cells 8} {src stride n first : Nat} {c : Nat × Byte} :
    c ∈ scaleCells store src stride n first ↔
      ∃ r < 128, ∃ k < n, (r * 512 + first + k, cellGet store (src + r * stride + k)) = c := by
  simp [scaleCells]

/-- The bytes of a row end where its columns end, before the next row's. -/
theorem cellGet_scaleCells (store m : Cells 8) {src stride n first : Nat} (hfit : first + n ≤ 512) {r k : Nat} (hr : r < 128) (hk : k < n) :
    cellGet ((scaleCells store src stride n first).foldl (fun m c => cellSet m c.1 c.2) m) (r * 512 + first + k) =
      cellGet store (src + r * stride + k) := by
  refine cellGet_foldl_cellSet_of_agree _ m ⟨_, mem_scaleCells.2 ⟨r, hr, k, hk, rfl⟩, rfl⟩ fun c hc hkey => ?_
  obtain ⟨r', hr', k', hk', rfl⟩ := mem_scaleCells.1 hc
  have hrow : r' = r := by
    simp only at hkey
    omega
  subst hrow
  have hcol : k' = k := by
    simp only at hkey
    omega
  rw [hcol]

/-- A SCALE's bytes in the scale store: the columns' clear bits are reset, and the errors of what is written go. -/
def State.writeScale (s : State) (core src stride n first : Nat) : State :=
  let cells := scaleCells (s.core core).store src stride n first
  { s.updCore core fun x => { x with
      scale := cells.foldl (fun m e => cellSet m e.1 e.2) x.scale
      columns := addAll ((List.range n).map (first + ·)) x.columns } with
    errors := s.errors.filter fun e =>
      match e with
      | .scaleStore k o => !(decide (k = core) && cells.any fun x => decide (x.1 = o))
      | _ => true }

theorem core_writeScale {s : State} {core : Nat} (hlen : core < s.cores.length) (src stride n first : Nat) :
    (s.writeScale core src stride n first).core core = { s.core core with
      scale := (scaleCells (s.core core).store src stride n first).foldl (fun m e => cellSet m e.1 e.2) (s.core core).scale
      columns := addAll ((List.range n).map (first + ·)) (s.core core).columns } :=
  (State.core_updCore s core core _).trans (if_pos ⟨rfl, hlen⟩)

/-! ## A command that cannot be carried out (R122) -/

/-- Another member of the group of a command that faults. -/
def State.parkMember (cls : FaultClass) (issuer : PartyId) (s : State) (m : PartyId × Nat) : State :=
  if m.1 = issuer ∨ (s.party m.1).status = .ended then s else s.updParty m.1 fun q => q.parkOn cls .command s.clk

theorem parkMember_frame (cls : FaultClass) (issuer : PartyId) (s : State) (m : PartyId × Nat) :
    { s.parkMember cls issuer m with parties := s.parties } = s := by
  unfold State.parkMember
  split <;> rfl

theorem sameWho_parkMember (cls : FaultClass) (issuer : PartyId) (s : State) (m : PartyId × Nat) :
    SameWho s (s.parkMember cls issuer m) := by
  unfold State.parkMember
  split
  · exact .refl s
  · exact sameWho_updParty s m.1 fun q => q.parkOn_id cls .command s.clk

/-- A command's members, parked but for its issuer. -/
def State.parkMembers (s : State) (core : Nat) (c : MatCmd) (cls : FaultClass) : State :=
  c.members.foldl (State.parkMember cls c.issuer) (s.updMat core c.id fun m => { m with stage := .faulted cls })

/-- A command's issuer and members stand at instruction boundaries. -/
def State.atBoundary (s : State) (c : MatCmd) : Prop :=
  (s.party c.issuer).mayPark = true ∧ ∀ m ∈ c.members, (s.party m.1).midway = false

theorem matFault_refused_iff (s : State) (c : MatCmd) :
    ((!(s.party c.issuer).mayPark || c.members.any fun m => (s.party m.1).midway) = true) ↔ ¬s.atBoundary c := by
  rw [State.atBoundary, Bool.or_eq_true, any_iff_not_forall, Bool.not_eq_true', ← Bool.not_eq_true]
  tauto

theorem matFault_waits {s : State} {c : MatCmd} (h : ¬s.atBoundary c) (core : Nat) (cls : FaultClass) (addr addr2 : DWord) :
    s.matFault core c cls addr addr2 = s := if_pos ((matFault_refused_iff s c).2 h)

theorem matFault_eq_fault {s : State} {c : MatCmd} (h : s.atBoundary c) (core : Nat) (cls : FaultClass) (addr addr2 : DWord) :
    s.matFault core c cls addr addr2 = (s.parkMembers core c cls).fault c.issuer cls .command
      { addr := addr, addr2 := addr2, replayable := true, unfinished := 0, laneAddr := none } :=
  if_neg fun hn => (matFault_refused_iff s c).1 hn h

theorem recFlags_replayable (event lane steward failed physical retried : Bool) :
    (recFlags true event lane steward failed physical retried).getLsbD 0 = true := by
  revert event lane steward failed physical retried
  decide

/-- A command that faults at a boundary parks its issuer, with a record that calls it replayable. -/
theorem matFault_parks {s : State} {c : MatCmd} (h : s.atBoundary c) (hissuer : (s.party? c.issuer).isSome = true) (core : Nat)
    (cls : FaultClass) (addr addr2 : DWord) :
    Reports (s.matFault core c cls addr addr2) cls addr addr2 ∧
      ((s.matFault core c cls addr addr2).party c.issuer).status = .parked ∧ (s.matFault core c cls addr addr2).mem = s.mem := by
  have hwho : SameWho s (s.parkMembers core c cls) := (SameWho.foldl (sameWho_parkMember cls c.issuer) c.members _).after rfl rfl
  obtain ⟨q, hq⟩ := Option.isSome_iff_exists.1 ((hwho.isSome_party? c.issuer).trans hissuer)
  rw [matFault_eq_fault h]
  have hframe := foldl_parties_frame (parkMember_frame cls c.issuer) c.members (s.updMat core c.id fun m => { m with stage := .faulted cls })
  exact ⟨⟨_, fault_records_getLast? .., rfl, rfl, rfl, recFlags_replayable ..⟩, (fault_parks hq _ _ _).1, (congrArg State.mem hframe :)⟩

section Steps

variable {s : State} {core : Nat} {c : MatCmd} (hx : s.args.x = core)
include hx

/-! ## The head of a queue starts (R119) -/

theorem exec_matrixStart (hidle : s.executing? core = none) (hnext : nextMat (s.core core).matrix [] = some c) (hstage : c.stage = .waiting)
    (hgrant : s.granted c = true) (hdrain : s.drainWaits core c = false) (hheld : s.holds .bobbin core = false) :
    exec .matrixCommandStart s = .next (s.updMat core c.id fun m => { m with stage := .started }) := by
  show execMatrixCommandStart s = _
  simp only [execMatrixCommandStart, hx, hidle, hnext]
  exact congrArg Host.Outcome.next (if_pos ⟨hstage, hgrant, by rw [hdrain]; rfl, by rw [hheld]; rfl⟩)

variable (hexec : s.executing? core = some c)
include hexec

/-! ## A PLANE and a SCALE complete (R128, R131) -/

theorem exec_planeComplete {sideB : Bool} {dst src stride ty p nb : Nat} (hbody : c.body = .plane sideB dst src stride ty p nb)
    (hgood : ∀ o, ErrSite.coreStore core o ∉ s.errors) :
    exec .planeComplete s = .next
      ((s.writeStore core dst (planeImage (s.core core).store sideB src stride ty p nb)).dropMat core c.id) := by
  show execPlaneComplete s = _
  simp only [execPlaneComplete, State.withMat, hx, hexec, hbody, badByte_none hgood]
  cases sideB <;> rfl

theorem exec_scaleComplete {src stride n first : Nat} (hbody : c.body = .scale src stride n first)
    (hgood : ∀ o, ErrSite.coreStore core o ∉ s.errors) :
    exec .scaleComplete s = .next ((s.writeScale core src stride n first).dropMat core c.id) := by
  show execScaleComplete s = _
  simp only [execScaleComplete, State.withMat, hx, hexec, hbody, badByte_none hgood]
  rfl

theorem exec_scaleComplete_bad {src stride n first o : Nat} (hbody : c.body = .scale src stride n first)
    (hbad : s.badByte core (stridedRows src stride 128 n) = some o) :
    exec .scaleComplete s = .next (s.matFault core c .storeError (dw o) c.pc) := by
  show execScaleComplete s = _
  simp only [execScaleComplete, State.withMat, hx, hexec, hbody, hbad]

/-! ## A drain starts or waits (R140) -/

theorem exec_accdStart {base : Nat} {d : AccdDesc} {r : Region} (hbody : c.body = .accd base d) (hstage : c.stage = .started)
    (hr : s.region? c.part base = some r) :
    exec .accdStart s = .next (if s.drainBefore c.part base c.id || !s.stuck r && (!r.outstanding.isEmpty || !r.asking.isEmpty) then s
      else if r.missing ≠ 0 then s.matFault core c .accumStore c.named (dw r.missing)
      else s.updMat core c.id fun m => { m with stage := .rows }) := by
  show execAccdStart s = _
  simp only [execAccdStart, State.withMat, hx, hexec, hbody, hstage, hr]

end Steps

theorem stuck_of_complete (s : State) {r : Region} (h : r.missing = 0) : s.stuck r = false := by
  simp [State.stuck, h]

/-- Settles O20, step by step of the queue. -/
theorem matrixQueueSteps : Obligations.MatrixQueueSteps := by
  intro s core c hlen hx
  refine ⟨fun hidle hnext hstage hgrant hdrain hheld => ⟨_, exec_matrixStart hx hidle hnext hstage hgrant hdrain hheld,
    queueOnly_updMat hlen c.id .started⟩, fun hexec hgood => ⟨fun sideB dst src stride ty p nb hbody => ?plane,
    fun src stride n first hbody hfit => ?scale⟩, fun hexec src stride n first o hbody hbad hissuer => ?bad,
    fun hexec base d hbody hstage => ?drain⟩
  case plane =>
    have hlen' : core < (s.writeStore core dst (planeImage (s.core core).store sideB src stride ty p nb)).cores.length :=
      (length_cores_updCore s core _).symm ▸ hlen
    have hstore := core_writeStore hlen dst (planeImage (s.core core).store sideB src stride ty p nb)
    refine ⟨_, exec_planeComplete hx hexec hbody hgood, queueOnly_dropMat hlen' c.id (congrArg Core.matrix hstore :) rfl rfl, ?_⟩
    rw [core_dropMat hlen', hstore]
    exact ⟨rfl, rfl⟩
  case scale =>
    have hlen' : core < (s.writeScale core src stride n first).cores.length := (length_cores_updCore s core _).symm ▸ hlen
    have hscale := core_writeScale hlen src stride n first
    refine ⟨_, exec_scaleComplete hx hexec hbody hgood, queueOnly_dropMat hlen' c.id (congrArg Core.matrix hscale :) rfl rfl, ?_⟩
    rw [core_dropMat hlen', hscale]
    exact ⟨rfl, fun r k hr hk => cellGet_scaleCells _ _ hfit hr hk⟩
  case bad =>
    have hexec := exec_scaleComplete_bad hx hexec hbody hbad
    refine ⟨fun hb => ?_, fun hb => ⟨_, hexec, matFault_waits hb ..⟩⟩
    obtain ⟨hreport, hparked, hmem⟩ := matFault_parks hb hissuer core .storeError (dw o) c.pc
    exact ⟨_, hexec, hreport, hparked, fun a => congrArg (cellGet · a) hmem⟩
  case drain =>
    have hstart (r : Region) (hr : s.region? c.part base = some r) := exec_accdStart hx hexec hbody hstage hr
    refine ⟨fun hregion hbefore => ?behind, fun r hr hbefore hout hask hmiss => ?rows, fun r hr hmiss hout => ?awaits,
      fun r hr hbefore hout hask hmiss hissuer hb => ?missing⟩
    case behind =>
      obtain ⟨r, hr⟩ := Option.ne_none_iff_exists'.1 hregion
      exact ⟨_, hstart r hr, if_pos (by rw [hbefore, Bool.true_or])⟩
    case rows =>
      refine ⟨_, (hstart r hr).trans (congrArg Host.Outcome.next ((if_neg ?_).trans (if_neg (not_not.2 hmiss)))),
        queueOnly_updMat hlen c.id .rows⟩
      simp [hbefore, hout, hask]
    case awaits =>
      refine ⟨_, hstart r hr, if_pos ?_⟩
      simp [stuck_of_complete s hmiss, hout]
    case missing =>
      obtain ⟨hreport, hparked, -⟩ := matFault_parks hb hissuer core .accumStore c.named (dw r.missing)
      refine ⟨_, (hstart r hr).trans (congrArg Host.Outcome.next ((if_neg ?_).trans (if_pos hmiss))), hreport, hparked⟩
      simp [hbefore, hout, hask]

end Sys2Proof.Machine
end

section
/-!
PROOFS. The rows of a drain (R138, R140, R141): a claim that a row whose bytes a die holds torn refutes.
-/

namespace Sys2Proof.Machine

/-! ## A row that a die holds with an error

`DrainSteps` lets no memory byte be in error and asks for a machine without copies after the translation of the row's destinations. The
model looks at the row first (R138), and then a die's modified copy of its line may hold an uncorrected error; the drain faults. The
walk of that same translation reads its table in the line of the row, and the copy goes back to memory. -/

namespace TornRow

/-- A region whose first line is the root of the page table. -/
def region : Region := ⟨0, 1, none, 0x10000, [⟨0x10000, 65536, 0, none⟩], false, false, 0, [], [], [], [], true, false, [], []⟩

/-- All rows in binary32, 512 bytes apart. -/
def desc : AccdDesc := ⟨0x20000, 512, 0, 0, 0, 0, false, false, true, false, 0, 0, 128⟩

def drain : MatCmd :=
  ⟨40, 0, 0, .group 0 0 0, [(.group 0 0 0, 0)], 0x40000000, .accd 0x10000 desc, .rows, 0, 0, [], [], [], 7, 0x10000, [], false, 0⟩

/-- The frame map with frames 1 to 3 reserved, and a page table of two levels: a page of 1 GiB at 0 that may be read and written. -/
def memory : List Host.Cell := [(0, 0x0E), (0x10000, 0x01), (0x10002, 0x02), (0x20000, 0x97), (0x20001, 0x61), (0x20003, 0x40)]

/-- The drain executes on core 0; die 1 holds the region's first line modified, with an error in its byte 64. -/
def state : State :=
  { State.reset.updCore 0 fun k => { k with matrix := [drain] } with
    mem := memory
    regions := [region]
    dieCopies := [⟨1, 0x200, .modified, List.replicate 128 0⟩]
    errors := [.dieCopy 1 0x10040]
    args := { EventArgs.blank with x := 0 } }

/-- The state once the row's destinations are translated. -/
def translated : State := (state.drainPieces 0 drain 0x20000 512).1

def pieces : List Piece := (List.range 4).map fun b => ⟨0x40020000 + 128 * b, 128, 0, none⟩

/-- The rows that the commands of core 0 have come to, once the step has been taken. -/
def rowsAfter : Host.Outcome State Fault Refusal → List Nat
  | .next t => (t.core 0).matrix.map (·.row)
  | _ => []

/-- The row is not drained. -/
theorem row_waits : rowsAfter (exec .accdRow state) = [0] := by decide +kernel

/-- The row's destinations translate. -/
theorem translates : state.drainPieces 0 drain 0x20000 512 = (translated, .ok pieces) := by
  refine Prod.ext rfl ?_
  have hpieces : (state.drainPieces 0 drain 0x20000 512).2.toOption = some pieces := by decide +kernel
  cases hx : (state.drainPieces 0 drain 0x20000 512).2 with
  | error e => rw [hx] at hpieces; cases hpieces
  | ok ps => rw [hx] at hpieces; exact congrArg Except.ok (Option.some.inj hpieces)

theorem translated_plain : Plain translated 0 := by
  constructor <;> decide +kernel

theorem pieces_apart : Apart (pieces ++ []) := by
  unfold Apart
  decide +kernel

/-- The hypotheses of the claim about the row itself. -/
theorem pieces_outside : ∀ x ∈ region.spans, ∀ p ∈ pieces ++ [], x.pa + x.len ≤ p.pa ∨ p.pa + p.len ≤ x.pa := by decide +kernel

theorem translated_free : translated.leavesDirty (pieces ++ []) = true ∧
    translated.drainHolds 0 (region.rowPieces drain.row ++ (pieces ++ [])) = false ∧
    (translated.core 0).matrix = [drain] := by decide +kernel

end TornRow

/-- Refutes O23: in `TornRow.state` the first row's line holds an error in a die's copy and the drain does not take it; the claim has the
row drained. -/
theorem not_drainSteps : ¬ Obligations.DrainSteps := by
  intro h
  obtain ⟨hrow, -⟩ := h TornRow.state 0 TornRow.drain 0x10000 TornRow.desc (by decide +kernel) rfl (by decide +kernel) rfl rfl rfl
  obtain ⟨hdirty, hheld, hqueue⟩ := TornRow.translated_free
  obtain ⟨t, ht, hmatrix, -⟩ := hrow TornRow.region TornRow.translated TornRow.translated TornRow.pieces [] (by decide) (by decide +kernel)
    (by decide +kernel) (fun x hx => by simp [TornRow.state] at hx) (by decide) TornRow.translates rfl TornRow.translated_plain
    TornRow.pieces_apart TornRow.pieces_outside hdirty hheld
  have hadvanced : TornRow.rowsAfter (exec .accdRow TornRow.state) = [1] := by
    rw [ht]
    show (t.core 0).matrix.map (·.row) = [1]
    rw [hmatrix, hqueue]
    rfl
  exact absurd (TornRow.row_waits.symm.trans hadvanced) (by decide)

end Sys2Proof.Machine
end

section
/-!
PROOFS. Remote lane accesses (R158, R207 to R209).
-/

namespace Sys2Proof.Machine

/-- Settles O49: the checks of R209 decide between the run's next instruction and its park. -/
theorem laneRemote : Obligations.LaneRemote := by
  intro s r w h
  refine ⟨?rld, ?rst, ?ratom⟩
  case rld =>
    intro acq u o peer check hpass hfree
    have hi : exec (.rld w) s = execRld w s := rfl
    unfold execRld at hi
    have hunmet : (check.1.any fun x => x.pieces.any (o.me.remoteMeets true)) = false := by
      simpa only [List.any_eq_false, Bool.not_eq_true] using hfree
    refine ⟨fun hok => gives_laneEnds h hpass hi ?_, fun f fs hbad => gives_laneParks h hpass hi ?_⟩
    · refine (if_neg (ne_true_of_eq_false hunmet)).trans (congrArg (Swept.done _) ?_)
      exact congrArg byThread hok
    · exact (if_neg (ne_true_of_eq_false hunmet)).trans (congrArg (Swept.done _) hbad)
  case rst =>
    intro rel u o peer check hpass hok
    have hi : exec (.rst w) s = execRst w s := rfl
    unfold execRst at hi
    exact gives_laneEnds h hpass hi (congrArg (Swept.done _) (congrArg byThread hok))
  case ratom =>
    intro u o peer check hpass hok
    have hi : exec (.ratom w) s = execRatom w s := rfl
    unfold execRatom at hi
    exact gives_laneEnds h hpass hi (congrArg (Swept.done _) (congrArg byThread hok))

end Sys2Proof.Machine
end

section
/-!
PROOFS. Scalar stores (R166, R172 to R174): the entries of the store queue that one leaves.
-/

namespace Sys2Proof.Machine

/-! ## The entries of a store (R172) -/

/-- The entries that the store of a party with `space` enters, one for each line, numbered from `n` on. -/
def storeEntries (va : Nat) (scope : Scope) (rel : Bool) (space : Nat) : Nat → List (Piece × List Byte) → List SqEntry
  | _, [] => []
  | n, c :: r =>
    ⟨n, va, scope, rel, false, .store c.1 c.2, none, 0, none, false, false, space, false⟩ ::
      storeEntries (va + c.1.len) scope rel space (n + 1) r

/-- A party whose queue has taken them. -/
def Party.withEntries (va : Nat) (scope : Scope) (rel : Bool) (n : Nat) (cs : List (Piece × List Byte)) (q : Party) : Party :=
  { q with sq := q.sq ++ storeEntries va scope rel q.spaceid.toNat n cs }

theorem Party.withEntries_keepsId (va : Nat) (scope : Scope) (rel : Bool) (n : Nat) (cs : List (Piece × List Byte)) :
    KeepsId (Party.withEntries va scope rel n cs) := fun _ => rfl

theorem State.updParty_of_fixed (s : State) (p : PartyId) {f : Party → Party} (hf : ∀ q, f q = q) : s.updParty p f = s := by
  have hparties : (s.parties.map fun q => if q.id = p then f q else q) = s.parties := by simp [hf]
  show ({ s with parties := _ } : State) = s
  rw [hparties]

/-- Entering the entries of a store, one after the other, is one change of the party. -/
theorem enqueueStore_eq (p : PartyId) (scope : Scope) (rel : Bool) (cs : List (Piece × List Byte)) : ∀ (s : State) (va : Nat),
    s.enqueueStore p va scope rel none 0 cs =
      { s.updParty p (Party.withEntries va scope rel s.fresh cs) with fresh := s.fresh + cs.length } := by
  induction cs with
  | nil =>
    intro s va
    have hsame : s.updParty p (Party.withEntries va scope rel s.fresh []) = s :=
      State.updParty_of_fixed s p fun q => by simp [Party.withEntries, storeEntries]
    show s = { s.updParty p (Party.withEntries va scope rel s.fresh []) with fresh := s.fresh }
    rw [hsame]
  | cons c r ih =>
    intro s va
    let one (q : Party) : Party := { q with sq := q.sq ++ storeEntries va scope rel q.spaceid.toNat s.fresh [c] }
    have hone : KeepsId one := fun _ => rfl
    have htwo : Party.withEntries (va + c.1.len) scope rel (s.fresh + 1) r ∘ one = Party.withEntries va scope rel s.fresh (c :: r) := by
      funext q
      simp only [Function.comp, one, Party.withEntries, storeEntries, List.append_assoc, List.cons_append, List.nil_append]
    have hparties := congrArg State.parties
      (State.updParty_updParty s p (Party.withEntries (va + c.1.len) scope rel (s.fresh + 1) r) hone)
    rw [htwo] at hparties
    rw [State.enqueueStore, ih]
    show ({ s with
      parties := ((s.updParty p one).updParty p (Party.withEntries (va + c.1.len) scope rel (s.fresh + 1) r)).parties
      fresh := s.fresh + 1 + r.length } : State) = _
    rw [hparties, Nat.add_assoc, Nat.add_comm 1]
    rfl

section Entries

variable (va : Nat) (scope : Scope) (rel : Bool) (space : Nat)

theorem storeEntries_ids (cs : List (Piece × List Byte)) : ∀ va n : Nat,
    (storeEntries va scope rel space n cs).map (·.id) = (List.range cs.length).map (n + ·) := by
  induction cs with
  | nil => exact fun _ _ => rfl
  | cons c r ih =>
    intro va n
    rw [storeEntries, List.map_cons, ih, List.length_cons, List.range_succ_eq_map, List.map_cons, List.map_map]
    refine congrArg₂ _ rfl (List.map_congr_left fun i _ => ?_)
    show n + 1 + i = n + (i + 1)
    omega

theorem storeEntries_bodies (cs : List (Piece × List Byte)) : ∀ va n : Nat,
    ((storeEntries va scope rel space n cs).map fun e => e.body) = cs.map fun c => SqBody.store c.1 c.2 := by
  induction cs with
  | nil => exact fun _ _ => rfl
  | cons c r ih =>
    intro va n
    rw [storeEntries, List.map_cons, ih, List.map_cons]

theorem mem_storeEntries {e : SqEntry} (cs : List (Piece × List Byte)) : ∀ va n : Nat, e ∈ storeEntries va scope rel space n cs →
    e.scope = scope ∧ e.release = rel ∧ e.acquire = false ∧ e.op = none ∧ e.held = false ∧ e.space = space := by
  induction cs with
  | nil => exact fun _ _ h => nomatch h
  | cons c r ih =>
    intro va n h
    rw [storeEntries, List.mem_cons] at h
    obtain rfl | h := h
    · exact ⟨rfl, rfl, rfl, rfl, rfl, rfl⟩
    · exact ih _ _ h

theorem storeEntries_head (n : Nat) (cs : List (Piece × List Byte)) :
    (storeEntries va scope rel space n cs).head?.map (·.va) = if cs = [] then none else some va := by
  cases cs <;> rfl

end Entries

/-! ## What the stream waits for (R166) -/

/-- The entry's bytes lie in a range of the party's own tack. -/
def State.entryInTack (s : State) (p : PartyId) (e : SqEntry) : Bool :=
  match e.body with
  | .store x _ => s.ownTack p [x]
  | _ => false

theorem length_cutBytes (ps : List Piece) : ∀ bs : List Byte, (cutBytes ps bs).length = ps.length := by
  induction ps with
  | nil => exact fun _ => rfl
  | cons p r ih => exact fun bs => congrArg (· + 1) (ih _)

theorem cutBytes_eq_nil {ps : List Piece} {bs : List Byte} : cutBytes ps bs = [] ↔ ps = [] := by
  cases ps <;> simp [cutBytes]

/-- The pieces of a store that lie in the party's own tacks are those of its entries that do. -/
theorem tackIds_storeEntries (s : State) (p : PartyId) (scope : Scope) (rel : Bool) (space : Nat) (ps : List Piece) :
    ∀ (bs : List Byte) (va n : Nat),
    ((ps.mapIdx fun i x => (n + i, x)).filter fun x => s.ownTack p [x.2]).map (·.1) =
      ((storeEntries va scope rel space n (cutBytes ps bs)).filter (s.entryInTack p)).map (·.id) := by
  induction ps with
  | nil => exact fun _ _ _ => rfl
  | cons x r ih =>
    intro bs va n
    have hshift : (r.mapIdx fun i y => (n + (i + 1), y)) = r.mapIdx fun i y => (n + 1 + i, y) := by
      simp only [Nat.add_assoc, Nat.add_comm 1]
    have hrest := ih (bs.drop x.len) (va + x.len) (n + 1)
    rw [List.mapIdx_cons, hshift, cutBytes, storeEntries, List.filter_cons, List.filter_cons]
    cases hx : s.ownTack p [x] <;> simpa [State.entryInTack, hx] using hrest

/-! ## Scalar stores -/

theorem sameWho_checkAccess {s s1 : State} {q : Party} {va n : Nat} {k : Access} {aligned stores : Bool} {c : Checked}
    (h : s.checkAccess q va n k aligned stores = (s1, c)) : SameWho s s1 := by
  have hwho := sameWho_xlate s (s.unitOf q) va n k true
  unfold State.checkAccess at h
  split at h
  · injection h with h
    exact h ▸ .refl s
  · split at h
    · next hx =>
      rw [hx] at hwho
      injection h with h
      exact h ▸ hwho
    · next s2 x hx =>
      rw [hx] at hwho
      have hs1 : s2 = s1 := by
        split at h
        · exact congrArg Prod.fst h
        · split at h
          · exact congrArg Prod.fst h
          · split at h <;> exact congrArg Prod.fst h
      exact hs1 ▸ hwho

/-- A store that passes its checks: its entries stand in the queue, and the stream goes on. -/
def State.storeEntered (s1 : State) (va : Nat) (scope : Scope) (rel : Bool) (ps : List Piece) (bs : List Byte) : State :=
  ((s1.enqueueStore s1.actor va scope rel none 0 (cutBytes ps bs)).upd fun q =>
    { q with stallOn := q.stallOn ++ s1.tackIds q.id ps }).adv

/-- What that leaves of its party. -/
def Party.stored (s1 : State) (va : Nat) (scope : Scope) (rel : Bool) (ps : List Piece) (bs : List Byte) (q : Party) : Party :=
  { q with
    sq := q.sq ++ storeEntries va scope rel q.spaceid.toNat s1.fresh (cutBytes ps bs)
    stallOn := q.stallOn ++ s1.tackIds q.id ps
    pc := q.pc + 4 }

theorem Party.stored_keepsId (s1 : State) (va : Nat) (scope : Scope) (rel : Bool) (ps : List Piece) (bs : List Byte) :
    KeepsId (Party.stored s1 va scope rel ps bs) := fun _ => rfl

theorem scalarStore_entered {s s1 : State} {v : DWord} {z va : Nat} {scope : Scope} {rel : Bool} {x : Xlat} (hfree : StoreFree s)
    (h : s.checkAccess s.me va (sizeBytes z) .write rel true = (s1, .ok x)) :
    s.scalarStore v z va scope rel = s1.storeEntered va scope rel x.pieces (toLe (sizeBytes z) v.toNat) := by
  obtain ⟨hacq, hloads⟩ := hfree
  unfold State.scalarStore
  simp only [hacq, hloads, Bool.or_false, Bool.false_eq_true, if_false, h]
  rfl

theorem storeEntered_eq (s1 : State) (va : Nat) (scope : Scope) (rel : Bool) (ps : List Piece) (bs : List Byte) :
    s1.storeEntered va scope rel ps bs =
      { s1.upd (Party.stored s1 va scope rel ps bs) with fresh := s1.fresh + (cutBytes ps bs).length } := by
  have hentries := Party.withEntries_keepsId va scope rel s1.fresh (cutBytes ps bs)
  let stalls (q : Party) : Party := { q with stallOn := q.stallOn ++ s1.tackIds q.id ps }
  have hboth : KeepsId (stalls ∘ Party.withEntries va scope rel s1.fresh (cutBytes ps bs)) := fun _ => rfl
  have h1 := State.updParty_updParty s1 s1.actor stalls hentries
  have h2 := State.updParty_updParty s1 s1.actor (fun q => { q with pc := q.pc + 4 }) hboth
  rw [← h1] at h2
  rw [State.storeEntered, enqueueStore_eq]
  show ({ s1 with
    parties := (((s1.updParty s1.actor _).updParty s1.actor stalls).updParty s1.actor fun q => { q with pc := q.pc + 4 }).parties
    fresh := s1.fresh + (cutBytes ps bs).length } : State) = _
  rw [congrArg State.parties h2]
  rfl

/-- Settles O10: the entries are `storeEntries`, and a store changes nothing else but the stalls of its own tacks and the pc. -/
theorem scalarStores : Obligations.ScalarStores := by
  intro s s1 d a z x hready hfree entries
  have hentered {va : Nat} {scope : Scope} {rel : Bool}
      (h : s.checkAccess s.me va (sizeBytes z.toNat) .write rel true = (s1, .ok x)) :
      entries va scope rel (s1.storeEntered va scope rel x.pieces (toLe (sizeBytes z.toNat) (s.rd d).toNat)) := by
    have hwho := sameWho_checkAccess h
    have hhere : s1.here := hwho.here hready.here
    let bs := toLe (sizeBytes z.toNat) (s.rd d).toNat
    let es := storeEntries va scope rel s1.me.spaceid.toNat s1.fresh (cutBytes x.pieces bs)
    have hf := Party.stored_keepsId s1 va scope rel x.pieces bs
    have hid : s1.me.id = s.actor := (State.party_id s1 s1.actor).trans hwho.actor
    rw [storeEntered_eq]
    refine ⟨es, ?me, ?ids, ?bodies, fun e he => mem_storeEntries scope rel _ _ _ _ he, ?head, fun p hp => ?others, fun _ => rfl, rfl⟩
    case me =>
      have hstalls : s1.tackIds s1.me.id x.pieces = (es.filter (s1.entryInTack s.actor)).map (·.id) := by
        rw [hid]
        exact tackIds_storeEntries s1 s.actor scope rel s1.me.spaceid.toNat x.pieces bs va s1.fresh
      refine (State.me_upd hhere _ hf).trans ?_
      rw [Party.stored, hstalls]
      rfl
    case ids => rw [storeEntries_ids, length_cutBytes]
    case bodies => exact storeEntries_bodies scope rel _ _ _ _
    case head => rw [storeEntries_head, if_congr cutBytes_eq_nil rfl rfl]
    case others => exact State.party_upd_other s1 _ hf (hwho.actor ▸ hp)
  refine ⟨fun i => ?st, fun sc i => ?stl⟩
  case st =>
    intro va h
    have hi : exec (.st d a z i) s = s.scalar [] [d, a] fun s => s.scalarStore (s.rd d) z.toNat (s.plainAddr a i) .core false := rfl
    refine ⟨_, hi.trans (scalar_ready hready _), ?_⟩
    rw [show s.plainAddr a i = va from rfl, scalarStore_entered hfree h]
    exact hentered h
  case stl =>
    intro va h
    have hi : exec (.stl d a z sc i) s =
        s.scalar [] [d, a] fun s => s.scalarStore (s.rd d) z.toNat (s.orderedAddr a z i) (scopeOf sc.toNat) true := rfl
    refine ⟨_, hi.trans (scalar_ready hready _), ?_⟩
    rw [show s.orderedAddr a z i = va from rfl, scalarStore_entered hfree h]
    exact hentered h

end Sys2Proof.Machine
end

section
/-!
PROOFS. Packets (R149, R302, R308): a claim that an error under a dirty byte of no core refutes.
-/

namespace Sys2Proof.Machine

/-! ## An atomic of another device at a word with an error

`LinksAndPackets` has every atomic that is servable performed. `State.servable` looks for errors as a core with the number
`Config.allCores` would find them, which no core has: where a composed cache lists a dirty byte under that number, the error in memory
beneath it is not seen. `State.opBad` looks for the error as the home slice does, finds it, and the packet is refused. -/

namespace ShadowedError

/-- A composed cache that lists a dirty byte of no core at 0x10000. -/
def cache : ComposedCache := ⟨⟨0, 0, 1⟩, 128, 1, .writeBack, [(0, 0)], 0, [], [⟨0x10000, 0, Config.allCores, 0⟩]⟩

/-- An addition of 1 to the word at 0x10000, from device 1. -/
def packet : Packet := ⟨1, 0, .atomic 0x10000 0 1 0⟩

/-- A port is up, memory holds an error beneath the dirty byte, and the packet has arrived. -/
def state : State :=
  { State.reset.updFabric 0 fun f => { f with up := true, links := f.links.map fun l => { l with up := true } } with
    caches := [cache]
    errors := [.mem 0x10000]
    args := { EventArgs.blank with pkt := packet } }

/-- The bodies of the packets that wait for an acknowledgement, once the step has been taken. -/
def sentAfter : Host.Outcome State Fault Refusal → List PacketBody
  | .next t => t.sent.map (·.body)
  | _ => []

theorem packet_refused : sentAfter (exec .packetReceive state) = [.refusal 0] := by decide +kernel

/-- The hypotheses of the claim about the packet. -/
theorem packet_accepted : state.route.isSome = true ∧ (packet.device, packet.seq) ∉ state.acceptedSeqs ∧
    state.packetWaits packet = false ∧ state.servable 1 0x10000 4 .write = true := by decide +kernel

theorem homesFree : HomesFree state := ⟨rfl, rfl, rfl, rfl, rfl, fun _ => rfl⟩

theorem nobody_acquires : ∀ x ∈ state.parties, x.acqs = [] := by decide +kernel

end ShadowedError

/-- Refutes O42: in `ShadowedError.state` the atomic is servable and refused; the claim has it answered with the old word. -/
theorem not_linksAndPackets : ¬ Obligations.LinksAndPackets := by
  intro h
  obtain ⟨hroute, hfresh, hwaits, hservable⟩ := ShadowedError.packet_accepted
  obtain ⟨-, -, -, -, -, -, -, hreceive⟩ := h ShadowedError.state
  obtain ⟨-, -, -, hperformed⟩ := hreceive rfl hroute
  obtain ⟨-, -, hatomic, -⟩ := hperformed (by rintro ⟨n, hn⟩; cases hn) hfresh hwaits ShadowedError.homesFree ShadowedError.nobody_acquires
  obtain ⟨t, ht, ⟨hsent, -⟩, -⟩ := hatomic 0x10000 0 1 0 rfl hservable rfl
  have hbody := List.mem_map_of_mem (f := fun p : SentPacket => p.body) hsent
  have hrefused := ShadowedError.packet_refused
  rw [ht] at hrefused
  rw [show t.sent.map (·.body) = [.refusal 0] from hrefused] at hbody
  simp at hbody

end Sys2Proof.Machine
end

section
/-!
SUPPORT. Writes that nothing holds back at their home slices (R146, R149): the write of a core is its drain of the bytes that the write
names, the write itself, and what follows it.
-/

namespace Sys2Proof.Machine

/-- A change of a byte of memory, whichever it is. -/
theorem cellGet_writeBytes (m : Cells 8) (a : Nat) (bs : List Byte) (b : Nat) :
    cellGet (writeBytes m a bs) b = if a ≤ b ∧ b < a + bs.length then bs.getD (b - a) 0 else cellGet m b := by
  split
  · next h =>
    obtain ⟨i, rfl⟩ : ∃ i, b = a + i := ⟨b - a, by omega⟩
    have hi : i < bs.length := by omega
    rw [cellGet_writeBytes_inside m a bs i hi, Nat.add_sub_cancel_left, List.getD_eq_getElem?_getD, List.getElem?_eq_getElem hi,
      Option.getD_some]
  · exact cellGet_writeBytes_outside m a bs b (by omega)

section Applied

variable {s : State} {op : HomeOp} {src : WriteSource}

theorem lineFree_of_quiet (hsharers : s.sharers = []) (hheld : s.held = []) (line : Nat) : s.lineFree line = true := by
  simp [State.lineFree, State.shared, hsharers, hheld]

/-- A write that no tack, no other write and no record holds back is applied. -/
theorem homeApply_of_free (htacks : s.tacks = []) (hfree : s.lineFree op.line = true) (hrec : s.recordCore src = none) :
    s.homeApply op src = s.applyWrite op src := by
  simp [State.homeApply, htacks, hfree, State.roomy, hrec]

/-- The write of a core, behind the drain of what the core holds dirty of its bytes. -/
theorem applyWrite_of_core {core : Nat} (hrec : s.recordCore src = none) (hcore : s.coreOfSource src = some core)
    (hbad : s.opBad op src = false) (hop : ∀ pa k x o, op ≠ .barrier pa k x o) :
    s.applyWrite op src =
      let r := (s.drainOwn core (fun pa _ => op.touches pa) (some op.line)).homeNow op
      r.1.afterWrite op src r.2.1 r.2.2 := by
  have hroom : s.roomFor op.line src = s := by simp [State.roomFor, hrec]
  unfold State.applyWrite
  rw [hbad, if_neg Bool.false_ne_true]
  simp only [hroom, hcore]

/-- A core with nothing dirty has nothing to drain. -/
theorem drainOwn_of_clean {core : Nat} (hdirty : (s.core core).dirty = []) (hcaches : s.caches = []) (sel : Nat → Nat → Bool)
    (own : Option Nat) : s.drainOwn core sel own = s := by
  rw [State.drainOwn, dirtyLines_of_clean hdirty hcaches, List.foldl_nil]

theorem homeNow_of_no_copies (hc : s.dieCopies = []) (op : HomeOp) :
    s.homeNow op = (s.writeMem (s.homeEffect op).1, (s.homeEffect op).2) := by
  have hkept : s.invalidate op.line none = s := by simp [State.invalidate, State.holders, hc]
  rw [State.homeNow, hkept]

end Applied

end Sys2Proof.Machine
end

section
/-!
PROOFS. Steps of the copy engines (R160, R161, R181, R182, R225, R227).
-/

namespace Sys2Proof.Machine

/-! ## Copies by number -/

theorem find?_updAll_copy {f : Copy → Copy} (hf : ∀ c, (f c).id = c.id) (id : Nat) (l : List Copy) :
    (updAll (fun c => decide (c.id = id)) f l).find? (fun c => decide (c.id = id)) =
      (l.find? fun c => decide (c.id = id)).map f := by
  induction l with
  | nil => rfl
  | cons c r ih =>
    by_cases hc : c.id = id
    · simp [updAll, hc, hf]
    · simpa [updAll, hc] using ih

theorem setPin_copies (s : State) (id j : Nat) (x : List Piece × List Byte) :
    s.setPin id j x = { s with copies := s.copies.map fun c =>
      if c.id = id then { c with pins := (j, x) :: c.pins.filter fun p => decide (p.1 ≠ j) } else c } := by
  simp [State.setPin, updAll]

/-- The front of a copy passes its next element when that has landed. -/
theorem lt_next_land {c : Copy} {i : Nat} (hnext : c.next = i) : i < (c.land i).next := by
  have hmem : i ∈ addNew i c.done := mem_addNew_self i c.done
  have hmono (d : List Nat) (f n : Nat) : n ≤ Copy.land.skip d f n := by
    induction f generalizing n with
    | zero => exact Nat.le_refl n
    | succ f ih =>
      rw [Copy.land.skip]
      split
      · exact (Nat.le_succ n).trans (ih _)
      · exact Nat.le_refl n
  show i < Copy.land.skip (addNew i c.done) ((addNew i c.done).length + 1) c.next
  rw [hnext, Copy.land.skip, if_pos hmem]
  exact hmono _ _ (i + 1)

/-! ## The element that is performed next -/

section Element

variable {s s1 : State} {c : Copy} {i : Nat}

theorem exec_copyElement (hx : s.args.x = c.id) (hy : s.args.y = i)
    (hfind : s.copies.find? (fun x => decide (x.id = c.id)) = some c) (hstopped : c.stopped = none) (hsaved : c.saved = false)
    (hnext : c.next = i) (hlt : i < c.count) (hdone : i ∉ c.done) (hheld : ∀ h ∈ s.held, h.source ≠ .copy c.id i)
    (hpower : s.holds .sram c.core = false) : exec .copyElement s = .next (s.copyStep c i) := by
  have hcopy : s.copy? s.args.x = some c := by rw [hx]; exact hfind
  have hfree : s.copyHeld c.id i = false := by simpa [State.copyHeld] using hheld
  show execCopyElement s = _
  simp [execCopyElement, hcopy, hy, hstopped, hsaved, hnext, Nat.not_le.2 hlt, hdone, hpower, hfree]

theorem copyStep_fails (hnext : c.next = i) {k : FaultClass} {a : Nat} (h : s.copyPin c i = (s1, .error (some (k, a)))) :
    s.copyStep c i = s1.copyStop c k a := by
  simp [State.copyStep, hnext, State.copyPinUpTo, h]

theorem copyStep_performs (hnext : c.next = i) {ds : List Piece} {bs : List Byte} (h : s.copyPin c i = (s1, .ok (ds, bs)))
    (hcount : s1.copyOverflows c i = false) (hroom : ∀ p ∈ ds, s1.refusedWrite (p.pa / 128) = false) :
    s.copyStep c i = (s1.setPin c.id i (ds, bs)).copyWrite c i bs ds := by
  have hany : (ds.any fun p => s1.refusedWrite (p.pa / 128)) = false := by simpa using hroom
  simp [State.copyStep, hnext, State.copyPinUpTo, h, hcount, hany]

end Element

/-! ## An element that fails (R182) -/

/-- The copy has stopped, and holds no more pins. -/
def State.withStopped (s : State) (c : Copy) (k : FaultClass) : State :=
  { s with
    copies := updAll (fun x => decide (x.id = c.id)) (fun x => { x with stopped := some k, pins := [] }) s.copies
    held := s.held.filter fun h => match h.source with
      | .copy id _ => decide (id ≠ c.id)
      | _ => true }

theorem copyStop_eq {s : State} {c : Copy} {k : FaultClass} (h : k = .pageAbsent ∨ (s.party c.owner).mayPark = true) (a : Nat) :
    s.copyStop c k a = if k = .pageAbsent then (s.withStopped c k).commandEvent c.owner (dw a) c.pc
      else (s.withStopped c k).commandFault c.owner k (dw a) c.pc true := by
  have hgoes : ¬(k ≠ .pageAbsent ∧ (s.party c.owner).mayPark = false) := by
    rintro ⟨hk, hp⟩
    exact h.elim hk fun hp' => by rw [hp] at hp'; cases hp'
  rw [State.copyStop, if_neg hgoes]
  rfl

/-- Parking on a fault of a command, with the record that it leaves. -/
theorem commandFault_parks {s : State} {p : PartyId} (hp : (s.party? p).isSome = true) (k : FaultClass) (a pc : DWord) (event : Bool) :
    Reports (s.commandFault p k a pc event) k a pc ∧ ((s.commandFault p k a pc event).party p).status = .parked := by
  obtain ⟨q, hq⟩ := Option.isSome_iff_exists.1 hp
  refine ⟨⟨_, List.getLast?_concat .., rfl, rfl, rfl, recFlags_replayable ..⟩, ?_⟩
  have hparty : (s.commandFault p k a pc event).party p = _ := State.party_updParty_of_party? hq (keepRecord_keepsId s k .command _ s.clk)
  rw [hparty]
  unfold Party.keepRecord
  split <;> rfl

theorem copyStop_stops {s : State} {c : Copy} {k : FaultClass} (h : k = .pageAbsent ∨ (s.party c.owner).mayPark = true)
    (howner : (s.party? c.owner).isSome = true) (a : Nat) :
    let t := s.copyStop c k a
    t.mem = s.mem ∧ t.cores = s.cores ∧ t.copies = (s.withStopped c k).copies ∧ Reports t k (dw a) c.pc ∧
      (t.party c.owner).status = if k = .pageAbsent then (s.party c.owner).status else .parked := by
  intro t
  have ht := copyStop_eq h a
  by_cases hk : k = .pageAbsent
  · rw [if_pos hk] at ht
    rw [show t = _ from ht, if_pos hk, hk]
    exact ⟨rfl, rfl, rfl, ⟨_, List.getLast?_concat .., rfl, rfl, rfl, recFlags_replayable ..⟩, rfl⟩
  · rw [if_neg hk] at ht
    obtain ⟨hreport, hparked⟩ := commandFault_parks (s := s.withStopped c k) howner k (dw a) c.pc true
    rw [show t = _ from ht, if_neg hk]
    exact ⟨rfl, rfl, rfl, hreport, hparked⟩

/-! ## An element to memory (R160) -/

/-- What follows an element that has landed, where no barrier counts it. -/
def State.withLanded (s : State) (id i : Nat) : State :=
  { s with copies := updAll (fun c => decide (c.id = id)) (fun c => c.land i) s.copies }

theorem land_id (c : Copy) (i : Nat) : (c.land i).id = c.id := rfl

section Landed

variable {s : State} {c x : Copy} {i : Nat} {ds : List Piece} {bs : List Byte}

theorem copy?_setPin (hfind : s.copies.find? (fun y => decide (y.id = c.id)) = some x) (v : List Piece × List Byte) :
    (s.setPin c.id i v).copies.find? (fun y => decide (y.id = c.id)) =
      some { x with pins := (i, v) :: x.pins.filter fun p => decide (p.1 ≠ i) } := by
  exact (find?_updAll_copy (f := fun c : Copy => { c with pins := (i, v) :: c.pins.filter fun p => decide (p.1 ≠ i) })
    (fun _ => rfl) c.id s.copies).trans (by rw [hfind]; rfl)

/-- The front of the copy has passed an element that has landed. -/
theorem copy?_withLanded (hfind : s.copies.find? (fun y => decide (y.id = c.id)) = some x) (hnext : x.next = i) :
    ∃ c', (s.withLanded c.id i).copies.find? (fun y => decide (y.id = c.id)) = some c' ∧ i < c'.next :=
  ⟨x.land i, (find?_updAll_copy (fun y => land_id y i) c.id s.copies).trans (by rw [hfind]; rfl), lt_next_land hnext⟩

theorem writeMem_copies (s : State) (cs : List Host.Cell) : (s.writeMem cs).copies = s.copies := by
  cases cs <;> rfl

theorem afterWrite_copy (op : HomeOp) (old : Nat) (err : Option FaultClass)
    (hfind : s.copies.find? (fun y => decide (y.id = c.id)) = some x) (hbarrier : x.barrier = none) :
    s.afterWrite op (.copy c.id i) old err = s.withLanded c.id i := by
  unfold State.afterWrite
  simp only [hfind, Option.bind_some, hbarrier, Option.map_none]
  rfl

/-- An element is written at its home slice, where nothing holds it back. -/
theorem homeApply_copy (hplain : Plain s c.core) (hfind : s.copies.find? (fun y => decide (y.id = c.id)) = some x)
    (hcore : x.core = c.core) (hbarrier : x.barrier = none) (pa : Nat) :
    s.homeApply (.write (cellsFrom pa bs)) (.copy c.id i) = (s.writeMem (cellsFrom pa bs)).withLanded c.id i := by
  have hsource : s.coreOfSource (.copy c.id i) = some c.core := by
    rw [State.coreOfSource, State.copy?, hfind, Option.map_some, hcore]
  rw [homeApply_of_free hplain.tacks (lineFree_of_quiet hplain.sharers hplain.held _) rfl,
    applyWrite_of_core rfl hsource rfl (by simp), drainOwn_of_clean hplain.dirty hplain.caches]
  dsimp only
  rw [homeNow_of_no_copies hplain.copies]
  exact afterWrite_copy _ 0 none ((congrArg _ (writeMem_copies s _)).trans hfind) hbarrier

end Landed

/-! ## An element between core-store ranges -/

/-- An element that is not pinned yet is read where it lies. -/
theorem copyPin_storage {s s1 : State} {c : Copy} {i : Nat} {ds : List Piece} {bs : List Byte} (hsrc : c.srcSpace = 1)
    (hdst : c.dstSpace = 1) (hzero : c.zero = false) (hpins : ∀ p ∈ c.pins, p.1 ≠ i) (h : s.copyPin c i = (s1, .ok (ds, bs))) :
    s1 = s ∧ ds = [] ∧ bs = readBytes (s.core c.core).store (sideAddr 1 c.src c.srcDims i) c.elem := by
  have hfind : c.pins.find? (fun p => decide (p.1 = i)) = none := by simpa using hpins
  simp only [State.copyPin, hfind, hzero, hsrc, hdst, State.copySide, State.copyRead, Bool.false_eq_true, if_false, List.any_nil,
    Bool.or_false] at h
  split at h
  · next hread =>
    exact absurd h (by simp)
  · next s3 bs' hread =>
    injection hread with hs hbs
    injection h with h1 h2
    injection h2 with h2
    injection h2 with h2 h3
    split at hbs
    · cases hbs
    · injection hbs with hbs
      exact ⟨h1.symm.trans hs.symm, h2.symm, h3.symm.trans hbs.symm⟩

/-- An element that lands in core store, where no barrier counts it. -/
theorem copyWrite_storage {s : State} {c : Copy} (hdst : c.dstSpace = 1) (hbarrier : c.barrier = none) (i : Nat) (bs : List Byte)
    (ds : List Piece) :
    s.copyWrite c i bs ds = (s.writeStore c.core (sideAddr 1 c.dst c.dstDims i) bs).withLanded c.id i := by
  simp only [State.copyWrite, hdst, State.writePlace, State.copyLand, hbarrier]
  rfl

/-! ## The claim -/

/-- Settles O24: `copyStep` performs the first pinned element that its checks allow, and each end is an equation of its instruction. -/
theorem copySteps : Obligations.CopySteps := by
  refine ⟨fun s c i hx hy hfind hstopped hsaved hnext hlt hdone hheld hpower => ⟨?fails, ?performs⟩, ?complete, ?batch⟩
  case fails =>
    intro s1 k a hpin hboundary howner hcopies
    obtain ⟨hmem, hcores, hstops, hreport, hstatus⟩ := copyStop_stops hboundary howner a
    refine ⟨_, exec_copyElement hx hy hfind hstopped hsaved hnext hlt hdone hheld hpower, ?_⟩
    rw [copyStep_fails hnext hpin]
    refine ⟨hmem, hcores, hreport, hstatus, { c with stopped := some k, pins := [] }, ?_, rfl, hnext⟩
    rw [hstops]
    refine (find?_updAll_copy (f := fun x : Copy => { x with stopped := some k, pins := [] }) (fun _ => rfl) c.id s1.copies).trans ?_
    rw [hcopies, hfind]
    rfl
  case performs =>
    intro s1 ds bs hpin hcount hroom pinned
    have hpinned : s1.setPin c.id i (ds, bs) = pinned := setPin_copies ..
    refine ⟨_, exec_copyElement hx hy hfind hstopped hsaved hnext hlt hdone hheld hpower, ?_⟩
    rw [copyStep_performs hnext hpin hcount hroom, hpinned]
    refine ⟨rfl, fun p hspace hbarrier hds hplain hleaf hcopy => ?_, fun hsrc hdst hbarrier hzero hcore hpins => ?_⟩
    · obtain ⟨tl, htl⟩ := afterDirty_of_leavesDirty (s := pinned) hleaf c.unit.unit fun s => s.homeApply (.write (cellsFrom p.pa bs)) (.copy c.id i)
      have hfound := copy?_setPin hcopy (i := i) (ds, bs)
      rw [hpinned] at hfound
      have hwrite : pinned.copyWrite c i bs ds = (({ pinned with tlb := tl } : State).writeMem (cellsFrom p.pa bs)).withLanded c.id i := by
        rw [← homeApply_copy (s := { pinned with tlb := tl })
          ⟨hplain.tacks, hplain.sharers, hplain.held, hplain.copies, hplain.caches, hplain.dirty⟩ hfound rfl hbarrier, ← htl]
        simp only [State.copyWrite, hspace, hds]
      rw [hwrite]
      refine ⟨fun a => ?_, copy?_withLanded ((congrArg _ (writeMem_copies _ _)).trans hfound) hnext⟩
      exact (congrArg (cellGet · a) (writeMem_cellsFrom_mem { pinned with tlb := tl } p.pa bs)).trans (cellGet_writeBytes ..)
    · obtain ⟨rfl, -, hbs⟩ := copyPin_storage hsrc hdst hzero hpins hpin
      intro src dst
      have hlen : bs.length = c.elem := by rw [hbs, length_readBytes]
      have hfound := copy?_setPin hfind (i := i) (ds, bs)
      rw [hpinned] at hfound
      rw [copyWrite_storage hdst hbarrier]
      have hstore : ((pinned.writeStore c.core dst bs).core c.core).store = writeBytes (s1.core c.core).store dst bs :=
        congrArg Core.store (core_writeStore (s := pinned) hcore dst bs)
      refine ⟨?_, fun o ho => ?_, rfl, rfl, copy?_withLanded hfound hnext⟩
      · refine (congrArg (readBytes · dst c.elem) hstore).trans ?_
        rw [← hlen, readBytes_writeBytes_same, hlen]
        exact hbs
      · exact store_writeStore_outside pinned c.core dst bs c.core o (by rwa [hlen])
  case complete =>
    intro s c hx hmem hcount hsaved hstopped
    refine ⟨_, rfl, ?_, fun x hmem' hid => ?_, rfl, rfl⟩
    · simp [hx, hcount, hsaved, hstopped]
    · simp [hx, hmem', hid]
  case batch =>
    intro s p hp hsome hopen hidle
    have hgoes : (s.party p).batchDone ≠ (s.party p).batch ∧ (!s.batchBusy (s.party p).id (s.party p).batchDone) = true := by
      rw [State.party_id, hidle]
      exact ⟨hopen, rfl⟩
    have hexec : exec .batchComplete s = .next (s.updParty p fun q => { q with batchDone := (q.batchDone + 1) % 256 }) := by
      show execBatchComplete s = _
      rw [execBatchComplete, hp]
      rw [if_pos hgoes, State.party_id]
    exact ⟨_, hexec, State.party_updParty_self s p _ (fun _ => rfl) hsome, fun r hr => State.party_updParty_other s p r _ (fun _ => rfl) hr, rfl⟩

end Sys2Proof.Machine
end

section
/-!
SUPPORT. Copies of dies and the snoop filter (R155, R314): what the copies of a line are after the directory's steps.
-/

namespace Sys2Proof.Machine

/-! ## Copies given up -/

theorem reportCopy_dieCopies (s : State) (c : DieCopy) : (s.reportCopy c).dieCopies = s.dieCopies := by
  unfold State.reportCopy
  dsimp only
  split <;> rfl

theorem mem_giveUp {s : State} {c x : DieCopy} : x ∈ (s.giveUp c).dieCopies ↔ x ∈ s.dieCopies ∧ ¬(x.die = c.die ∧ x.line = c.line) := by
  have hsame : (if s.copyBad c then s.reportCopy c else s).dieCopies = s.dieCopies := by
    split
    · exact reportCopy_dieCopies s c
    · rfl
  show x ∈ ((if s.copyBad c then s.reportCopy c else s).dieCopies.filter _) ↔ _
  rw [hsame, List.mem_filter]
  simp [imp_iff_not_or]

theorem writeBack_dieCopies (s : State) (c : DieCopy) : (s.writeBack c).dieCopies = s.dieCopies := by
  unfold State.writeBack
  split
  · exact writeMem_dieCopies ..
  · rfl

theorem trimFilter_dieCopies (s : State) (line : Nat) : (s.trimFilter line).dieCopies = s.dieCopies := by
  unfold State.trimFilter
  split <;> rfl

theorem dieCopy?_some {s : State} {die line : Nat} {c : DieCopy} (h : s.dieCopy? die line = some c) :
    c ∈ s.dieCopies ∧ c.die = die ∧ c.line = line :=
  ⟨List.mem_of_find?_eq_some h, by simpa using List.find?_some h⟩

theorem mem_dropCopy {s : State} {die line : Nat} {x : DieCopy} :
    x ∈ (s.dropCopy die line).dieCopies ↔ x ∈ s.dieCopies ∧ ¬(x.die = die ∧ x.line = line) := by
  unfold State.dropCopy
  split
  · next h =>
    have hnone : ∀ c ∈ s.dieCopies, ¬(c.die = die ∧ c.line = line) := by simpa [State.dieCopy?] using h
    exact ⟨fun hx => ⟨hx, hnone x hx⟩, And.left⟩
  · next c h =>
    obtain ⟨-, hdie, hline⟩ := dieCopy?_some h
    rw [trimFilter_dieCopies, mem_giveUp, writeBack_dieCopies, hdie, hline]

theorem trimFilter_frame (s : State) (line : Nat) : { s.trimFilter line with filter := s.filter } = s := by
  unfold State.trimFilter
  split <;> rfl

theorem reportCopy_frame (s : State) (c : DieCopy) : { s.reportCopy c with errors := s.errors, records := s.records, fresh := s.fresh } = s := by
  unfold State.reportCopy
  dsimp only
  split <;> rfl

theorem giveUp_frame (s : State) (c : DieCopy) :
    { s.giveUp c with dieCopies := s.dieCopies, errors := s.errors, records := s.records, fresh := s.fresh } = s := by
  unfold State.giveUp
  dsimp only
  split
  · exact congrArg (fun t : State => ({ t with dieCopies := s.dieCopies } : State)) (reportCopy_frame s c)
  · rfl

/-- A clean copy goes with no data sent. -/
theorem dropCopy_of_clean {s : State} {die line : Nat} (h : ∀ c, s.dieCopy? die line = some c → c.isDirty = false) :
    (s.dropCopy die line).mem = s.mem ∧ (s.dropCopy die line).parties = s.parties := by
  unfold State.dropCopy
  split
  · exact ⟨rfl, rfl⟩
  · next c hc =>
    have hback : s.writeBack c = s := by rw [State.writeBack, h c hc]; rfl
    have htrim := trimFilter_frame (s.giveUp c) line
    have hgive := giveUp_frame s c
    rw [hback]
    exact ⟨((congrArg State.mem htrim :)).trans (congrArg State.mem hgive :),
      ((congrArg State.parties htrim :)).trans (congrArg State.parties hgive :)⟩

theorem dropCopy_dieRequests (s : State) (die line : Nat) : (s.dropCopy die line).dieRequests = s.dieRequests := by
  unfold State.dropCopy
  split
  · rfl
  · next c _ =>
    have hback : (s.writeBack c).dieRequests = s.dieRequests := by
      unfold State.writeBack State.writeMem
      split
      · split <;> rfl
      · rfl
    have htrim := trimFilter_frame ((s.writeBack c).giveUp c) line
    have hgive := giveUp_frame (s.writeBack c) c
    exact ((congrArg State.dieRequests htrim :)).trans ((congrArg State.dieRequests hgive :).trans hback)

theorem mem_invalidate_of_other {s : State} {line : Nat} {keep : Option Nat} {x : DieCopy} (hx : x.line ≠ line) :
    x ∈ (s.invalidate line keep).dieCopies ↔ x ∈ s.dieCopies := by
  unfold State.invalidate
  refine List.foldlRecOn (motive := fun t : State => x ∈ t.dieCopies ↔ x ∈ s.dieCopies) _ _ Iff.rfl fun t ht c _ => ?_
  split
  · exact ht
  · refine Iff.trans ?_ ht
    show x ∈ (t.dropCopy c.die line).dieCopies ↔ _
    rw [mem_dropCopy]
    exact and_iff_left fun h => hx h.2

/-! ## The filter (R314) -/

theorem oldestEntry_mem {fs : List FilterEntry} {v : FilterEntry} (h : oldestEntry fs = some v) : v ∈ fs := by
  have hstep (l : List FilterEntry) : ∀ b, l.foldl (fun b f =>
      match b with
      | none => some f
      | some g => if f.used < g.used then some f else some g) b = some v → v ∈ l ∨ b = some v := by
    induction l with
    | nil => exact fun b hb => .inr hb
    | cons f r ih =>
      intro b hb
      rcases ih _ hb with hr | hf
      · exact .inl (List.mem_cons_of_mem f hr)
      · cases b with
        | none => exact .inl (Option.some.inj hf ▸ List.mem_cons_self)
        | some g =>
          dsimp only at hf
          split at hf
          · exact .inl (Option.some.inj hf ▸ List.mem_cons_self)
          · exact .inr hf
  exact (hstep fs none h).resolve_right (by simp)

/-- What the use of a line's filter entry can do beside the filter itself: it invalidates one other line. -/
theorem useFilter_cases (s : State) (line : Nat) : ∃ s1, (s1 = s ∨ ∃ l, l ≠ line ∧ s1 = s.invalidate l none) ∧
    ∃ fs n, s.useFilter line = { s1 with filter := fs, fresh := n } := by
  unfold State.useFilter
  dsimp only
  split
  · exact ⟨s, .inl rfl, _, _, rfl⟩
  · split
    · exact ⟨s, .inl rfl, _, _, rfl⟩
    · next v hv =>
      have hmem := oldestEntry_mem hv
      have hne : v.line ≠ line := by
        have := (List.mem_filter.1 hmem).2
        simp only [Bool.and_eq_true, decide_eq_true_eq] at this
        exact this.1
      exact ⟨s.invalidate v.line none, .inr ⟨v.line, hne, rfl⟩, _, _, rfl⟩

/-- The copies of the line itself stay. -/
theorem mem_useFilter {s : State} {line : Nat} {x : DieCopy} (hx : x.line = line) :
    x ∈ (s.useFilter line).dieCopies ↔ x ∈ s.dieCopies := by
  obtain ⟨s1, hs1, fs, n, h⟩ := useFilter_cases s line
  rw [h]
  show x ∈ s1.dieCopies ↔ _
  obtain rfl | ⟨l, hl, rfl⟩ := hs1
  · rfl
  · exact mem_invalidate_of_other (hx ▸ hl.symm)

/-- Where no other line has a copy, only the filter changes. -/
theorem useFilter_of_only {s : State} {line : Nat} (h : ∀ c ∈ s.dieCopies, c.line = line) :
    ∃ fs n, s.useFilter line = { s with filter := fs, fresh := n } := by
  obtain ⟨s1, hs1, fs, n, hu⟩ := useFilter_cases s line
  refine ⟨fs, n, hu.trans ?_⟩
  obtain rfl | ⟨l, hl, rfl⟩ := hs1
  · rfl
  · have hnone : s.holders l = [] := by
      simp only [State.holders, List.filter_eq_nil_iff, decide_eq_true_eq]
      exact fun c hc hcl => hl (hcl.symm.trans (h c hc))
    rw [State.invalidate, hnone, List.foldl_nil]

end Sys2Proof.Machine
end

section
/-!
PROOFS. Steps of the caches and directories (R147, R151, R152, R154 to R157, R314 to R317).
-/

namespace Sys2Proof.Machine

/-! ## A dirty byte drains (R147) -/

/-- A byte of a core's L1 that nothing holds back reaches the home slice. -/
theorem drainL1_byte {s : State} {x y : Nat} {d : DirtyByte} (hfree : HomesFree s) (hcaches : s.caches = [])
    (hpower : s.holds .sram x = false) (hone : (s.core x).dirty.filter (fun d => decide (d.pa = y)) = [d])
    (hsound : ErrSite.dirty x y ∉ s.errors) (hhome : homeDie (y / 128 * 128) = dieOfCore x) :
    s.drainL1 x (fun d => decide (d.pa = y)) =
      (((s.takeDirty ⟨x, y / 128, [d], []⟩).writeMem [(y, d.val)]).setLastWriter (y / 128) x d.stamp).clearHolder x (y / 128) := by
  have hpa : d.pa = y := by
    have hd : d ∈ (s.core x).dirty.filter (fun d => decide (d.pa = y)) := by rw [hone]; exact List.mem_singleton_self d
    simpa using (List.mem_filter.1 hd).2
  have hback (e : DirtyByte) : s.backOf e = none := by simp [State.backOf, State.cache?, hcaches]
  have hdrain : s.lineDrain x (y / 128) (fun d => decide (d.pa = y) && (s.backOf d).isNone) (fun _ _ => false) = ⟨x, y / 128, [d], []⟩ := by
    have hsel : (fun d : DirtyByte => decide (d.pa / 128 = y / 128) && (decide (d.pa = y) && (s.backOf d).isNone)) =
        fun d => decide (d.pa = y) := by
      funext e
      by_cases he : e.pa = y <;> simp [he, hback]
    rw [State.lineDrain, hsel, hone, hcaches]
    rfl
  have hlines : coreLines ((((s.core x).dirty.filter fun d => decide (d.pa = y)).map fun d => (x, d.pa / 128))) = [(x, y / 128)] := by
    rw [hone, List.map_singleton, hpa]
    rfl
  have hholds : s.landHolds x (y / 128) = false := by
    simp [State.landHolds, hpower, State.homeHolds, hfree.accept, hhome]
  have hland : s.mayLand none ⟨x, y / 128, [d], []⟩ = true := by
    simp [State.mayLand, hfree.lineFree, State.drainBreaks, hfree.tacks, hholds]
  have hgood : s.l1Bad x d = false := by simpa [State.l1Bad, hpa] using hsound
  have hcells : s.drainCells ⟨x, y / 128, [d], []⟩ = [(y, d.val)] := by simp [State.drainCells, hgood, hpa]
  have htop : s.drainTop ⟨x, y / 128, [d], []⟩ = d.stamp := by simp [State.drainTop, hgood]
  have hout : s.takeOut ⟨x, y / 128, [d], []⟩ = s.takeDirty ⟨x, y / 128, [d], []⟩ := by simp [State.takeOut, hgood]
  have hpass : ((s.core x).dirty.filterMap s.backOf) = [] := List.filterMap_eq_nil_iff.2 fun e _ => hback e
  rw [State.drainL1, hlines, List.foldl_cons, List.foldl_nil, hpass, List.foldl_nil]
  dsimp only
  rw [hdrain, State.landDrain]
  simp only [List.isEmpty_cons, Bool.false_and, Bool.false_eq_true, if_false, hland, Bool.not_true, hcells, hout, htop]
  rw [State.landCells]
  simp only [hhome, true_or, if_true]
  rw [homeNow_write_of_no_copies (s := s.takeDirty ⟨x, y / 128, [d], []⟩) hfree.copies]

theorem clearHolder_frame (s : State) (core line : Nat) : { s.clearHolder core line with dirtyHolders := s.dirtyHolders } = s := by
  unfold State.clearHolder
  dsimp only
  split <;> rfl

/-- The dirty bytes of the core that stay. -/
theorem dirtyAt_of_filter {c : Core} {y a : Nat} {d : DirtyByte} (hone : c.dirty.filter (fun d => decide (d.pa = y)) = [d]) :
    dirtyAt { c with dirty := c.dirty.filter fun x => !([d].any fun y => decide (y = x)) } a = if a = y then none else dirtyAt c a := by
  have hmem (e : DirtyByte) : e ∈ c.dirty → e.pa = y → e = d := fun he hy => by
    have : e ∈ c.dirty.filter (fun d => decide (d.pa = y)) := List.mem_filter.2 ⟨he, by simpa using hy⟩
    rwa [hone, List.mem_singleton] at this
  have hd : d.pa = y := by
    have : d ∈ c.dirty.filter (fun d => decide (d.pa = y)) := by rw [hone]; exact List.mem_singleton_self d
    simpa using (List.mem_filter.1 this).2
  unfold dirtyAt
  rw [List.find?_filter]
  split
  · next h =>
    rw [List.find?_eq_none.2 fun e he => ?_, Option.map_none]
    subst h
    by_cases hy : e.pa = a
    · simp [hmem e he hy]
    · simp [hy]
  · next h =>
    congr 1
    refine List.find?_congr fun e _ => ?_
    by_cases he : e.pa = a
    · have hne : e ≠ d := by rintro rfl; exact h (he.symm.trans hd)
      simp [he, Ne.symm hne]
    · simp [he]

/-- What the drain of one byte leaves: memory, the dirty bytes of its core, and the last-writer record. -/
theorem byteDrained {s : State} {x y : Nat} {d : DirtyByte}
    (hone : (s.core x).dirty.filter (fun d => decide (d.pa = y)) = [d]) (hlen : x < s.cores.length) :
    let t := (((s.takeDirty ⟨x, y / 128, [d], []⟩).writeMem [(y, d.val)]).setLastWriter (y / 128) x d.stamp).clearHolder x (y / 128)
    (∀ a, cellGet (w := 8) t.mem a = if a = y then d.val else cellGet s.mem a) ∧ dirtyAt (t.core x) y = none ∧
      (∀ a, a ≠ y → dirtyAt (t.core x) a = dirtyAt (s.core x) a) ∧ ⟨y / 128, x, d.stamp⟩ ∈ t.lastWriters := by
  intro t
  have hframe := clearHolder_frame (((s.takeDirty ⟨x, y / 128, [d], []⟩).writeMem [(y, d.val)]).setLastWriter (y / 128) x d.stamp) x (y / 128)
  have hcore : t.core x = { s.core x with dirty := (s.core x).dirty.filter fun x => !([d].any fun y => decide (y = x)) } := by
    refine (congrArg (·.getD x Core.blank) (congrArg State.cores hframe :)).trans ?_
    exact (State.core_updCore s x x _).trans (if_pos ⟨rfl, hlen⟩)
  refine ⟨fun a => ?_, ?_, fun a ha => ?_, ?_⟩
  · exact (congrArg (cellGet (w := 8) · a) (congrArg State.mem hframe :)).trans (cellGet_cellSet ..)
  · rw [hcore, dirtyAt_of_filter hone, if_pos rfl]
  · rw [hcore, dirtyAt_of_filter hone, if_neg ha]
  · rw [show t.lastWriters = _ from (congrArg State.lastWriters hframe :)]
    exact List.mem_append_right _ (List.mem_singleton_self _)

/-! ## Clean copies (R147) -/

/-- The fill of an L1 from the home slice of its die, where nothing is newer anywhere else. -/
theorem fillL1_from_home {s : State} {x y cc : Nat} (hmarked : s.marked y = false) (hcaches : s.caches = []) (hcopies : s.dieCopies = [])
    (hhome : homeDie (y * 128) = dieOfCore x) (hlen : x < s.cores.length)
    (hroom : Core.l1Room { s.core x with clean := (s.core x).clean.filter fun l => decide (l.line ≠ y) } y = true) :
    let t := s.fillL1 x y cc
    t.mem = s.mem ∧ t.parties = s.parties ∧ (t.core x).clean = (s.core x).clean.filter (fun l => decide (l.line ≠ y)) ++
      [⟨y, (s.core x).overlay (y * 128) (readBytes s.mem (y * 128) 128)⟩] := by
  let emptied (c : Core) : Core := { c with clean := c.clean.filter fun l => decide (l.line ≠ y) }
  let s0 := s.updCore x emptied
  have hcore : s0.core x = emptied (s.core x) := (State.core_updCore s x x emptied).trans (if_pos ⟨rfl, hlen⟩)
  have hroom0 : (s0.core x).l1Room y = true := by rw [hcore]; exact hroom
  have hclean : (s0.core x).clean.find? (fun l => decide (l.line = y * 128 / 128)) = none := by
    rw [hcore, Nat.mul_div_cancel y (by omega)]
    simp [emptied]
  have hcid : ((cacheIdOf (s0.partOfCore x) x cc).bind fun i => (s0.cache? i).map fun c => (i, c)) = none := by
    have hnone (i : CacheId) : s0.cache? i = none := by
      show s.caches.find? _ = none
      rw [hcaches]
      rfl
    simp [hnone]
  have hunmarked : s0.marked (y * 128 / 128) = false := by
    rw [Nat.mul_div_cancel y (by omega)]
    exact hmarked
  have hread : s0.l2Read (dieOfCore x) (y * 128) 128 = (s0, readBytes s.mem (y * 128) 128) := l2Read_at_home (s := s0) hhome hcopies 128
  have hbase : s0.loadBase x (s0.partOfCore x) .core false ⟨y * 128, 128, cc, none⟩ = (s0, readBytes s.mem (y * 128) 128) := by
    simp only [State.loadBase, hunmarked, hclean, hcid, hread, Bool.false_eq_true, if_false]
  have hover : s0.ownOverlay x (y * 128) (readBytes s.mem (y * 128) 128) = (s.core x).overlay (y * 128) (readBytes s.mem (y * 128) 128) := by
    have hnone (pa : Nat) : s0.cacheDirty x pa = none := by
      show s.caches.findSome? _ = none
      rw [hcaches]
      rfl
    have hsame : (readBytes s.mem (y * 128) 128).mapIdx (fun _ b => b) = readBytes s.mem (y * 128) 128 :=
      List.ext_getElem (by simp) fun i h1 h2 => by simp
    simp only [State.ownOverlay, hnone, Option.getD_none, hsame, hcore]
    rfl
  have hfill : s.fillL1 x y cc = s0.updCore x fun c =>
      { c with clean := c.clean ++ [⟨y, (s.core x).overlay (y * 128) (readBytes s.mem (y * 128) 128)⟩] } := by
    have hkept : (s.updCore x emptied).roomL1 x y = s0 := if_pos hroom0
    rw [State.fillL1]
    dsimp only
    rw [hkept, if_pos hroom0, hbase]
    dsimp only
    rw [hover]
  intro t
  have hlen0 : x < s0.cores.length := (length_cores_updCore s x emptied).symm ▸ hlen
  rw [show t = _ from hfill]
  refine ⟨rfl, rfl, ?_⟩
  rw [State.core_updCore, if_pos ⟨rfl, hlen0⟩, hcore]

/-- A core's L1 may take a clean copy of a line (R147). -/
def State.MayFillL1 (s : State) (x y cc : Nat) : Prop :=
  (lineExists y = true ∧ s.marked y = false ∧ x < Config.allCores) ∧
    s.loadHolds x (s.partOfCore x) .core false ⟨y * 128, 128, cc, none⟩ = false ∧
      ∀ i, i < 128 → s.loadBad x (s.partOfCore x) .core false cc (y * 128 + i) = false

/-- A composed cache of a die may. -/
def State.MayFillCache (s : State) (x y die : Nat) : Prop :=
  (lineExists y = true ∧ s.marked y = false ∧ x < Config.allCores) ∧ s.dieHolds .sram die = false ∧
    (s.homeHolds die (y * 128) = true → (s.dieCopy? die y).isSome = true) ∧ ∀ i, i < 128 → s.l2Bad die (y * 128 + i) = false

theorem mayFillL1_iff (s : State) (x y cc : Nat) : s.MayFillL1 x y cc ↔
    ¬((!lineExists y || s.marked y || decide (Config.allCores ≤ x)) = true) ∧
      ¬((s.loadHolds x (s.partOfCore x) .core false ⟨y * 128, 128, cc, none⟩ ||
        (List.range 128).any fun i => s.loadBad x (s.partOfCore x) .core false cc (y * 128 + i)) = true) := by
  simp only [State.MayFillL1, Bool.or_eq_true, Bool.not_eq_true', decide_eq_true_eq, List.any_eq_true, List.mem_range, not_or,
    Bool.not_eq_true, Bool.not_eq_false, Nat.not_le, not_exists, not_and, and_assoc]

theorem mayFillCache_iff (s : State) (x y die : Nat) : s.MayFillCache x y die ↔
    ¬((!lineExists y || s.marked y || decide (Config.allCores ≤ x)) = true) ∧
      ¬((s.dieHolds .sram die || ((s.dieCopy? die y).isNone && s.homeHolds die (y * 128)) ||
        (List.range 128).any fun i => s.l2Bad die (y * 128 + i)) = true) := by
  have hcopy : (s.homeHolds die (y * 128) = true → (s.dieCopy? die y).isSome = true) ↔
      ((s.dieCopy? die y).isNone = true → s.homeHolds die (y * 128) = false) := by
    cases s.dieCopy? die y <;> simp
  simp only [State.MayFillCache, hcopy, Bool.or_eq_true, Bool.and_eq_true, Bool.not_eq_true', decide_eq_true_eq, List.any_eq_true,
    List.mem_range, not_or, Bool.not_eq_true, Bool.not_eq_false, Nat.not_le, not_exists, not_and, and_assoc]

theorem exec_cleanCopyFill_l1 {s : State} (hlevel : s.args.level = .l1) :
    (s.MayFillL1 s.args.x s.args.y s.args.z → exec .cleanCopyFill s = .next (s.fillL1 s.args.x s.args.y s.args.z)) ∧
      (¬s.MayFillL1 s.args.x s.args.y s.args.z → exec .cleanCopyFill s = .next s) := by
  have hexec : exec .cleanCopyFill s = execCleanCopyFill s := rfl
  rw [hexec, execCleanCopyFill, mayFillL1_iff, hlevel]
  refine ⟨fun ⟨hline, hread⟩ => ?_, fun hnot => ?_⟩
  · dsimp only
    rw [if_neg hline, if_neg hread]
  · dsimp only
    split
    · rfl
    · next hline => rw [if_pos (not_not.1 fun hread => hnot ⟨hline, hread⟩)]

theorem exec_cleanCopyFill_composed {s : State} {id : CacheId} (hlevel : s.args.level = .composed id) :
    (s.MayFillCache s.args.x s.args.y (id.cluster / 8) →
      exec .cleanCopyFill s = .next (s.fillCache id (id.cluster / 8) (s.args.y * 128))) ∧
      (¬s.MayFillCache s.args.x s.args.y (id.cluster / 8) → exec .cleanCopyFill s = .next s) := by
  have hexec : exec .cleanCopyFill s = execCleanCopyFill s := rfl
  rw [hexec, execCleanCopyFill, mayFillCache_iff, hlevel]
  refine ⟨fun ⟨hline, hread⟩ => ?_, fun hnot => ?_⟩
  · dsimp only
    rw [if_neg hline, if_neg hread]
  · dsimp only
    split
    · rfl
    · next hline => rw [if_pos (not_not.1 fun hread => hnot ⟨hline, hread⟩)]

/-! ## Commanded drains (R151, R152) -/

/-- The lazy-release records that a drain covers (R152). -/
def DrainCmd.covers (d : DrainCmd) (r : LazyRec) : Bool := decide (r.line = d.line ∧ r.core = d.core) &&
  match d.stamp with
  | none => true
  | some n => decide (r.seq ≤ n)

theorem mem_uncovered {l : List LazyRec} {d : DrainCmd} {r : LazyRec} : r ∈ l.filter (fun r => !d.covers r) ↔
    r ∈ l ∧ ¬(r.line = d.line ∧ r.core = d.core ∧ ∀ n, d.stamp = some n → r.seq ≤ n) := by
  rw [List.mem_filter, DrainCmd.covers]
  cases d.stamp <;> simp [imp_iff_not_or, or_assoc]

/-- Acquires that no party has do nothing but wait for none. -/
theorem settleAcquires_of_none {s : State} {p : PartyId} (h : (s.party p).acqs = []) :
    ∃ ps, s.settleAcquires p = { s with parties := ps } := by
  unfold State.settleAcquires
  split
  · exact ⟨s.parties, rfl⟩
  · dsimp only
    rw [h, List.foldl_nil]
    exact ⟨_, rfl⟩

/-! ## Copies across dies (R155) -/

theorem dieCopy?_of_no_copies {s : State} (hc : s.dieCopies = []) (die line : Nat) : s.dieCopy? die line = none := by
  rw [State.dieCopy?, hc]
  rfl

/-- The first copy of a line on another die: exclusive, where the home and other devices allow it. -/
theorem dieRead_of_no_copies {s : State} (hc : s.dieCopies = []) (x y : Nat) (forward : Bool) :
    let t := s.dieRead x y forward
    t.mem = s.mem ∧ t.parties = s.parties ∧ t.dieCopies = [⟨x, y,
      if s.refusesDirty y = true ∨ s.shared y = true then .shared else .exclusive, readBytes s.mem (y * 128) 128⟩] := by
  have hnone : s.holders y = [] := by rw [State.holders, hc]; rfl
  have hbad : s.badDirty y = false := by rw [State.badDirty, hnone]; rfl
  obtain ⟨fs, n, huse⟩ := useFilter_of_only (s := s) (line := y) (by simp [hc])
  let s0 : State := { s with filter := fs, fresh := n }
  have hrecall : s0.recallAll y = s0 := by
    rw [State.recallAll, recall_of_no_copies (s := s0) hc, show s0.dieCopies = [] from hc, List.map_nil]
    exact congrArg (fun l => ({ s0 with dieCopies := l } : State)) hc.symm
  have hread : s.dieRead x y forward = { s0 with dieCopies := s0.dieCopies ++ [⟨x, y,
      if (s0.holders y).isEmpty && !s0.refusesDirty y && !s0.shared y then .exclusive else .shared, readBytes s0.mem (y * 128) 128⟩] } := by
    have hnone0 : s0.holders y = [] := hnone
    unfold State.dieRead
    rw [dieCopy?_of_no_copies hc]
    simp only [hbad, Bool.false_eq_true, if_false, huse]
    rw [show ({ s with filter := fs, fresh := n } : State) = s0 from rfl, hnone0, List.find?_nil]
    dsimp only
    rw [hrecall, hnone0]
  intro t
  rw [show t = _ from hread]
  refine ⟨rfl, rfl, ?_⟩
  have hnone0 : s0.holders y = [] := hnone
  have hrefuses : s0.refusesDirty y = s.refusesDirty y := rfl
  have hshared : s0.shared y = s.shared y := rfl
  show s.dieCopies ++ _ = _
  rw [hc, hnone0, hrefuses, hshared]
  cases s.refusesDirty y <;> cases s.shared y <;> rfl

/-- Another die's copy of a line that one die holds modified or owned: both are shared then, or the holder keeps it owned. -/
theorem dieRead_of_dirty {s : State} {c : DieCopy} {x y : Nat} (hc : s.dieCopies = [c]) (hline : c.line = y) (hdie : c.die ≠ x)
    (hdirty : c.state = .modified ∨ c.state = .owned) (hsound : s.copyBad c = false) (forward : Bool) :
    let t := s.dieRead x y forward
    (forward = true → t.mem = s.mem ∧ t.dieCopies = [{ c with state := .owned }, ⟨x, y, .shared, c.bytes⟩]) ∧
      (forward = false → t.mem = writeBytes s.mem (y * 128) c.bytes ∧
        t.dieCopies = [{ c with state := .shared }, ⟨x, y, .shared, c.bytes⟩]) := by
  subst hline
  have hisdirty : c.isDirty = true := by
    obtain h | h := hdirty <;> simp [DieCopy.isDirty, h]
  have hnone : s.dieCopy? x c.line = none := by simp [State.dieCopy?, hc, hdie]
  have hholders {u : State} (hu : u.dieCopies = [c]) : u.holders c.line = [c] := by simp [State.holders, hu]
  have hgood : s.badDirty c.line = false := by simp [State.badDirty, hholders hc, hsound]
  obtain ⟨fs, n, huse⟩ := useFilter_of_only (s := s) (line := c.line) (by simp [hc])
  let s0 : State := { s with filter := fs, fresh := n }
  have hread (s1 : State) (h1 : (if forward then s0.forwardFrom c.line else s0.recallAll c.line) = s1) (hkept : s1.holders c.line ≠ []) :
      s.dieRead x c.line forward = { s1 with dieCopies := s1.dieCopies ++ [⟨x, c.line, .shared, c.bytes⟩] } := by
    unfold State.dieRead
    rw [hnone]
    simp only [hgood, Bool.false_eq_true, if_false, huse]
    rw [show ({ s with filter := fs, fresh := n } : State) = s0 from rfl, hholders (u := s0) hc, List.find?_cons_of_pos hisdirty]
    dsimp only
    rw [h1, List.isEmpty_eq_false_iff.2 hkept]
    rfl
  refine ⟨fun hf => ?_, fun hf => ?_⟩
  · have hcopies : (s0.forwardFrom c.line).dieCopies = [{ c with state := .owned }] := by
      show s.dieCopies.map _ = _
      rw [hc]
      simp [hisdirty]
    rw [hread _ (by rw [hf, if_pos rfl]) (by simp [State.holders, hcopies])]
    refine ⟨rfl, ?_⟩
    show (s0.forwardFrom c.line).dieCopies ++ _ = _
    rw [hcopies]
    rfl
  · have hback : s0.recall c.line = { s0.writeMem (cellsFrom (c.line * 128) c.bytes) with dieCopies := [{ c with state := .shared }] } := by
      have hbad0 : s0.copyBad c = false := hsound
      rw [State.recall, hholders (u := s0) hc]
      simp [hisdirty, hbad0, State.writeBack, writeMem_dieCopies, show s0.dieCopies = [c] from hc]
    have hall : s0.recallAll c.line = { s0.writeMem (cellsFrom (c.line * 128) c.bytes) with dieCopies := [{ c with state := .shared }] } := by
      rw [State.recallAll, hback]
      simp
    rw [hread _ (by rw [hf, if_neg Bool.false_ne_true, hall]) (by simp [State.holders])]
    exact ⟨writeMem_cellsFrom_mem s0 .., rfl⟩

/-- M is granted where no other die holds the line: its copy is the line's only one. -/
theorem dieOwn_only {s : State} {x y : Nat} (honly : ∀ c ∈ s.holders y, c.die = x) :
    (∃ c ∈ (s.dieOwn x y).dieCopies, c.die = x ∧ c.line = y ∧ c.state = .modified) ∧
      ∀ c ∈ (s.dieOwn x y).dieCopies, c.line = y → c.die = x ∧ c.state = .modified := by
  have hfold : (s.holders y).foldl (fun s c => if c.die = x then s else (s.giveUp c).dropClean c.die y) s = s :=
    foldl_of_fixed _ fun c hc => if_pos (honly c hc)
  have hown : ∃ bs, s.dieOwn x y = ({ s with dieCopies :=
      (s.dieCopies.filter fun c => !(decide (c.die = x) && decide (c.line = y))) ++ [⟨x, y, .modified, bs⟩] } : State).useFilter y := by
    unfold State.dieOwn
    rw [hfold]
    exact ⟨_, rfl⟩
  obtain ⟨bs, hown⟩ := hown
  rw [hown]
  refine ⟨⟨⟨x, y, .modified, bs⟩, (mem_useFilter rfl).2 (List.mem_append_right _ (List.mem_singleton_self _)), rfl, rfl, rfl⟩, fun c hc hy => ?_⟩
  rcases List.mem_append.1 ((mem_useFilter hy).1 hc) with hother | hself
  · obtain ⟨hmem, hnot⟩ := List.mem_filter.1 hother
    have hdie := honly c (List.mem_filter.2 ⟨hmem, by simpa using hy⟩)
    simp [hdie, hy] at hnot
  · obtain rfl := List.mem_singleton.1 hself
    exact ⟨rfl, rfl⟩

/-- Requests that wait for a die are not granted. -/
theorem grantDies_of_waiting {s : State} (h : ∀ r ∈ s.dieRequests, r.waits ≠ []) : s.grantDies = s := by
  have hnone : (s.dieRequests.filter fun r => r.waits.isEmpty) = [] := by
    simp only [List.filter_eq_nil_iff, List.isEmpty_iff]
    exact h
  rw [State.grantDies, hnone, List.foldl_nil]

/-- The only request, which waits for no die. -/
theorem grantDies_single {s : State} {y : Nat} (hnone : s.dieRequests = []) (hrefuses : s.refusesDirty y = false) (x : Nat) :
    let s1 : State := { s with dieRequests := [⟨x, y, []⟩] }
    s1.grantDies = if s.lineFree y then s.dieOwn x y else s1.askSharers y := by
  have hback : ({ s with dieRequests := [] } : State) = s := by rw [← hnone]
  have hgrant : State.grantDie { s with dieRequests := [⟨x, y, []⟩] } x y =
      if s.lineFree y then s.dieOwn x y else ({ s with dieRequests := [⟨x, y, []⟩] } : State).askSharers y := by
    have hrest : ([⟨x, y, []⟩] : List DieRequest).filter (fun r => !(decide (r.die = x) && decide (r.line = y))) = [] := by simp
    unfold State.grantDie
    simp only [hrest, hback, hrefuses, Bool.false_eq_true, if_false]
  exact hgrant

/-! ## Invalidations of the devices that share a line (R156) -/

theorem send_sent (s : State) (d : Nat) (b : PacketBody) : (s.send d b).sent = s.sent ++ [⟨d, lookupD d 0 s.nextSeqs, b, s.clk, s.clk⟩] := by
  unfold State.send State.emit
  dsimp only
  split <;> rfl

/-- What a packet that leaves changes. -/
theorem send_frame (s : State) (d : Nat) (b : PacketBody) :
    { s.send d b with fabric := s.fabric, outbox := s.outbox, sent := s.sent, nextSeqs := s.nextSeqs } = s := by
  unfold State.send State.emit
  dsimp only
  split <;> rfl

/-- The packet that asks a device to drop its copy of a line. -/
def Asked (s : State) (device line : Nat) : Prop := ∃ k ∈ s.sent, k.device = device ∧ k.body = .invalidate device line

/-- One sharing device is asked, unless it has been. -/
def State.askSharer (s : State) (line : Nat) (x : Nat × Nat) : State :=
  if s.sent.any fun p => decide (p.device = x.2) && decide (p.body = .invalidate x.2 line) then s else s.send x.2 (.invalidate x.2 line)

theorem askSharers_eq (s : State) (line : Nat) :
    s.askSharers line = (s.sharers.filter fun x => decide (x.1 = line)).foldl (fun s x => s.askSharer line x) s := rfl

theorem askSharer_asks (s : State) (line : Nat) (x : Nat × Nat) : Asked (s.askSharer line x) x.2 line := by
  unfold State.askSharer
  split
  · next h =>
    obtain ⟨p, hp, hx⟩ := List.any_eq_true.1 h
    simp only [Bool.and_eq_true, decide_eq_true_eq] at hx
    exact ⟨p, hp, hx⟩
  · exact ⟨_, by rw [send_sent]; exact List.mem_append_right _ (List.mem_singleton_self _), rfl, rfl⟩

theorem askSharer_keeps {s : State} {line d l : Nat} (h : Asked s d l) (x : Nat × Nat) : Asked (s.askSharer line x) d l := by
  obtain ⟨k, hk, hd⟩ := h
  unfold State.askSharer
  split
  · exact ⟨k, hk, hd⟩
  · exact ⟨k, by rw [send_sent]; exact List.mem_append_left _ hk, hd⟩

theorem askSharer_frame (s : State) (line : Nat) (x : Nat × Nat) :
    { s.askSharer line x with fabric := s.fabric, outbox := s.outbox, sent := s.sent, nextSeqs := s.nextSeqs } = s := by
  unfold State.askSharer
  split
  · rfl
  · exact send_frame ..

theorem askSharers_frame (s : State) (line : Nat) :
    { s.askSharers line with fabric := s.fabric, outbox := s.outbox, sent := s.sent, nextSeqs := s.nextSeqs } = s := by
  rw [askSharers_eq]
  refine List.foldlRecOn (motive := fun t : State =>
    { t with fabric := s.fabric, outbox := s.outbox, sent := s.sent, nextSeqs := s.nextSeqs } = s) _ _ rfl fun t ht x _ => ?_
  exact (congrArg (fun u : State => { u with fabric := s.fabric, outbox := s.outbox, sent := s.sent, nextSeqs := s.nextSeqs })
    (askSharer_frame t line x)).trans ht

/-- Every device that shares the line is asked to drop its copy. -/
theorem askSharers_asks {s : State} {line : Nat} {h : Nat × Nat} (hmem : h ∈ s.sharers) (hline : h.1 = line) :
    Asked (s.askSharers line) h.2 line := by
  have hstep (l : List (Nat × Nat)) : ∀ s : State, (h ∈ l ∨ Asked s h.2 line) → Asked (l.foldl (fun s x => s.askSharer line x) s) h.2 line := by
    induction l with
    | nil => exact fun s hs => hs.resolve_left (by simp)
    | cons x r ih =>
      intro s hs
      refine ih _ ?_
      rcases hs with hmem | hasked
      · rcases List.mem_cons.1 hmem with rfl | hr
        · exact .inr (askSharer_asks s line h)
        · exact .inl hr
      · exact .inr (askSharer_keeps hasked x)
  exact hstep _ s (.inl (List.mem_filter.2 ⟨hmem, by simpa using hline⟩))

/-! ## Requests of a die, and the acknowledgements of others (R155, R315) -/

/-- A die beyond a line's home may ask for it. -/
def State.MayAskDie (s : State) (x y : Nat) : Prop :=
  x < 4 ∧ homeDie (y * 128) ≠ x ∧ lineExists y = true ∧ s.homeHolds x (y * 128) = false

theorem not_mayAskDie_or {s : State} {x y : Nat} {kept : Prop} :
    4 ≤ x ∨ homeDie (y * 128) = x ∨ kept ∨ lineExists y = false ∨ s.homeHolds x (y * 128) = true ↔ ¬s.MayAskDie x y ∨ kept := by
  simp only [State.MayAskDie, ← Nat.not_lt, ← Bool.not_eq_true]
  tauto

theorem exec_dieReadRequest {s : State} :
    (¬s.MayAskDie s.args.x s.args.y ∨ s.marked s.args.y = true → exec .dieReadRequest s = .next s) ∧
      (s.MayAskDie s.args.x s.args.y → s.marked s.args.y = false →
        exec .dieReadRequest s = .next (s.dieRead s.args.x s.args.y s.args.flag)) := by
  have hexec : exec .dieReadRequest s = execDieReadRequest s := rfl
  rw [hexec, execDieReadRequest]
  refine ⟨fun hnot => congrArg _ (if_pos (not_mayAskDie_or.2 hnot)), fun hmay hmarked => congrArg _ (if_neg (mt not_mayAskDie_or.1 ?_))⟩
  simp [hmay, hmarked]

/-- The other dies that hold a line. -/
def State.otherHolders (s : State) (x y : Nat) : List Nat := ((s.holders y).filter fun c => decide (c.die ≠ x)).map (·.die)

theorem mem_otherHolders {s : State} {x y : Nat} {c : DieCopy} (hc : c ∈ s.holders y) (hne : c.die ≠ x) : c.die ∈ s.otherHolders x y :=
  List.mem_map_of_mem (List.mem_filter.2 ⟨hc, by simpa using hne⟩)

theorem exec_dieWriteRequest {s : State} :
    (¬s.MayAskDie s.args.x s.args.y ∨ s.refusesDirty s.args.y = true → exec .dieWriteRequest s = .next s) ∧
      (s.MayAskDie s.args.x s.args.y → s.refusesDirty s.args.y = false → exec .dieWriteRequest s =
        .next (if s.dieRequests.any (fun r => decide (r.die = s.args.x ∧ r.line = s.args.y)) then s.grantDies
          else State.grantDies { s with
            dieRequests := s.dieRequests ++ [⟨s.args.x, s.args.y, s.otherHolders s.args.x s.args.y⟩] })) := by
  have hexec : exec .dieWriteRequest s = execDieWriteRequest s := rfl
  rw [hexec, execDieWriteRequest]
  refine ⟨fun hnot => congrArg _ (if_pos (not_mayAskDie_or.2 hnot)), fun hmay haccepts => congrArg _ (if_neg (mt not_mayAskDie_or.1 ?_))⟩
  simp [hmay, haccepts]

/-- The first request for a line that no other die holds is granted, or asks the devices that share the line. -/
theorem exec_dieWriteRequest_first {s : State} (hmay : s.MayAskDie s.args.x s.args.y) (haccepts : s.refusesDirty s.args.y = false)
    (hnone : s.dieRequests = []) (honly : ∀ c ∈ s.holders s.args.y, c.die = s.args.x) : exec .dieWriteRequest s =
      .next (if s.lineFree s.args.y then s.dieOwn s.args.x s.args.y
        else ({ s with dieRequests := [⟨s.args.x, s.args.y, []⟩] } : State).askSharers s.args.y) := by
  have hnobody : s.otherHolders s.args.x s.args.y = [] := by simpa [State.otherHolders] using honly
  rw [exec_dieWriteRequest.2 hmay haccepts, hnobody, hnone, List.any_nil, if_neg Bool.false_ne_true, List.nil_append,
    grantDies_single hnone haccepts]

/-- A request for a line that another die holds waits, as the earlier ones do. -/
theorem others_wait {s : State} {x y : Nat} (hwaiting : ∀ r ∈ s.dieRequests, ¬(r.die = x ∧ r.line = y) ∧ r.waits ≠ [])
    (hother : ∃ c ∈ s.holders y, c.die ≠ x) : ∀ r ∈ s.dieRequests ++ [⟨x, y, s.otherHolders x y⟩], r.waits ≠ [] := by
  intro r hr
  rcases List.mem_append.1 hr with hold | hself
  · exact (hwaiting r hold).2
  · obtain ⟨c, hc, hne⟩ := hother
    rw [List.mem_singleton.1 hself]
    exact List.ne_nil_of_mem (mem_otherHolders hc hne)

/-- A request once a die has acknowledged that it dropped a line. -/
def DieRequest.acked (die line : Nat) (r : DieRequest) : DieRequest :=
  if r.line = line then { r with waits := r.waits.filter fun d => decide (d ≠ die) } else r

theorem not_mem_acked (x y : Nat) (r : DieRequest) : (r.acked x y).line = y → x ∉ (r.acked x y).waits := by
  unfold DieRequest.acked
  split
  · simp
  · next hother => exact fun hline => absurd hline hother

theorem mem_acked_waits {s : State} {x y : Nat} (h : ∀ r ∈ s.dieRequests, ∃ d ∈ r.waits, ¬(r.line = y ∧ d = x)) :
    ∀ r ∈ s.dieRequests.map (DieRequest.acked x y), r.waits ≠ [] := by
  intro r hr
  obtain ⟨r0, hr0, rfl⟩ := List.mem_map.1 hr
  obtain ⟨d, hd, hne⟩ := h r0 hr0
  refine List.ne_nil_of_mem (a := d) ?_
  unfold DieRequest.acked
  split
  · next hline => exact List.mem_filter.2 ⟨hd, by simpa using fun h => hne ⟨hline, h⟩⟩
  · exact hd

/-- A die that holds no data of its own drops its copy. -/
theorem exec_dieInvalidationAck_dropped {s : State} (hwaits : ∃ r ∈ s.dieRequests, r.line = s.args.y ∧ s.args.x ∈ r.waits)
    (hkept : (((s.dieCopy? s.args.x s.args.y).map DieCopy.isDirty).getD false && !s.refusesDirty s.args.y) = false) :
    let s1 := (s.dropCopy s.args.x s.args.y).dropClean s.args.x s.args.y
    exec .dieInvalidationAck s =
      .next (State.grantDies { s1 with dieRequests := s1.dieRequests.map (DieRequest.acked s.args.x s.args.y) }) := by
  have hasked : (s.dieRequests.any fun r => decide (r.line = s.args.y ∧ s.args.x ∈ r.waits)) = true := by simpa using hwaits
  show execDieInvalidationAck s = _
  simp only [execDieInvalidationAck, hasked, hkept, Bool.not_true, Bool.false_and, Bool.false_eq_true, if_false]
  rfl

/-- One that will forward its data waits for the others, and asks the devices that share the line. -/
theorem exec_dieInvalidationAck_last {s : State} {r : DieRequest} (hr : r ∈ s.dieRequests) (hline : r.line = s.args.y)
    (hx : s.args.x ∈ r.waits) (hmore : ∃ d ∈ r.waits, d ≠ s.args.x)
    (hforwards : (((s.dieCopy? s.args.x s.args.y).map DieCopy.isDirty).getD false && !s.refusesDirty s.args.y) = true) :
    exec .dieInvalidationAck s = .next (s.askSharers s.args.y) := by
  have hasked : (s.dieRequests.any fun r => decide (r.line = s.args.y ∧ s.args.x ∈ r.waits)) = true := by
    simpa using ⟨r, hr, hline, hx⟩
  have hlast : (s.dieRequests.all fun r => decide (r.line ≠ s.args.y ∨ s.args.x ∉ r.waits ∨ r.waits = [s.args.x])) = false := by
    rw [List.all_eq_false]
    refine ⟨r, hr, ?_⟩
    obtain ⟨d, hd, hne⟩ := hmore
    rw [decide_eq_true_eq]
    rintro (h | h | h)
    · exact h hline
    · exact h hx
    · rw [h, List.mem_singleton] at hd
      exact hne hd
  show execDieInvalidationAck s = _
  simp only [execDieInvalidationAck, hasked, hforwards, hlast, Bool.not_true, Bool.false_and, Bool.not_false, Bool.and_self,
    Bool.false_eq_true, if_false, if_true]

/-! ## The claim -/

/-- A step that the condition of its agent keeps from happening. -/
theorem gives_of_eq {i : Instr} {s a t : State} {P : State → Prop} (h : exec i s = .next a) (ht : a = t) (hp : P t) : Gives i s P :=
  ⟨t, ht ▸ h, hp⟩

theorem gives_idle {i : Instr} {s : State} (h : exec i s = .next s) : Gives i s (· = s) := ⟨s, h, rfl⟩

/-- Settles O52: a step that may not happen does nothing, and each other one is what its directory or cache does (the lemmas above). -/
theorem coherenceSteps : Obligations.CoherenceSteps := by
  intro s x y here waits
  refine ⟨?notice, ?refused, ?powerless, ?l1, ?byte, ?cache, ?fills, ?dropL1, ?dropCache, ?drains, ?noDrain, ?dies, ?ackIdle, ?acks,
    ?evict, ?deviceAck, ?fencedAt, ?fenced, ?readmittedAt, ?readmitted⟩
  case notice =>
    intro hwaits haccepts
    have hexec : exec .dirtyNotice s = .next (if waits && !s.refusesDirty y then { s with dirtyHolders := addNew (y, x) s.dirtyHolders } else s) := rfl
    rw [hwaits, haccepts] at hexec
    refine ⟨_, hexec, mem_addNew_self _ _, fun h hh => ?_, rfl⟩
    show h ∈ addNew (y, x) s.dirtyHolders
    unfold addNew
    split
    · exact hh
    · exact List.mem_append_left _ hh
  case refused =>
    intro hnot
    have hexec : exec .dirtyNotice s = .next (if waits && !s.refusesDirty y then { s with dirtyHolders := addNew (y, x) s.dirtyHolders } else s) := rfl
    refine gives_idle (hexec.trans (congrArg _ (if_neg ?_)))
    rw [Bool.and_eq_true, Bool.not_eq_true']
    rintro ⟨h1, h2⟩
    rcases hnot with h | h
    · rw [h] at h1; cases h1
    · rw [h] at h2; cases h2
  case powerless => exact fun hpower => gives_idle (congrArg _ (if_pos hpower))
  case l1 =>
    intro hlevel hpower
    refine ⟨_, rfl, ?_⟩
    rw [if_neg (ne_true_of_eq_false hpower), hlevel]
  case byte =>
    intro d hlevel hflag hpower hfree hcaches hone hsound hhome hlen
    have hhere : (fun d : DirtyByte => here d.pa) = fun d => decide (d.pa = y) := by
      funext d
      exact if_neg (ne_true_of_eq_false hflag)
    have hexec : exec .dirtyByteDrain s = .next (s.drainL1 x fun d => here d.pa) := by
      have hpower' : s.holds .sram s.args.x = false := hpower
      show execDirtyByteDrain s = _
      simp only [execDirtyByteDrain, hpower', hlevel, Bool.false_eq_true, if_false]
      rfl
    rw [hhere, drainL1_byte hfree hcaches hpower hone hsound hhome] at hexec
    exact ⟨_, hexec, byteDrained hone hlen⟩
  case cache =>
    intro id hlevel hpower
    refine ⟨_, rfl, ?_⟩
    rw [if_neg (ne_true_of_eq_false hpower), hlevel]
  case fills =>
    refine ⟨fun hlevel hnot => gives_idle ((exec_cleanCopyFill_l1 hlevel).2 hnot),
      fun id hlevel hnot => gives_idle ((exec_cleanCopyFill_composed hlevel).2 hnot), ?_,
      fun id hmay hlevel => ⟨_, (exec_cleanCopyFill_composed hlevel).1 hmay, rfl⟩⟩
    intro hmay hlevel hcaches hcopies hhome hlen hroom
    have ⟨⟨_, hmarked, _⟩, _⟩ := hmay
    exact ⟨_, (exec_cleanCopyFill_l1 hlevel).1 hmay, fillL1_from_home hmarked hcaches hcopies hhome hlen hroom⟩
  case dropL1 =>
    intro hlevel
    have hexec : exec .cleanCopyDrop s = .next (s.updCore x fun c => { c with clean := c.clean.filter fun l => decide (l.line ≠ y) }) := by
      show execCleanCopyDrop s = _
      simp only [execCleanCopyDrop, hlevel]
      rfl
    refine ⟨_, hexec, fun l hl => ?_, rfl⟩
    rw [State.core_updCore] at hl
    split at hl
    · simpa using (List.mem_filter.1 hl).2
    · next hout =>
      have hblank : s.core x = Core.blank := by
        rw [State.core, List.getD_eq_getElem?_getD, List.getElem?_eq_none (by omega), Option.getD_none]
      rw [hblank] at hl
      cases hl
  case dropCache =>
    intro id hlevel
    refine ⟨_, rfl, ?_⟩
    rw [hlevel]
    rfl
  case drains =>
    intro d hd
    have hdrain : exec .commandedDrain s = .next (if d.drained || s.holds .sram d.core then s
        else if (s.drainCore d.core d.stamp).dirtyLeft d.core (upTo d.stamp) then s.drainCore d.core d.stamp
        else { s.drainCore d.core d.stamp with
          drains := updAll (fun x => decide (x = d)) (fun x => { x with drained := true }) (s.drainCore d.core d.stamp).drains }) := by
      show execCommandedDrain s = _
      rw [execCommandedDrain, show s.drains[s.args.x]? = some d from hd]
    have hconfirm : exec .drainConfirmation s = .next (if !d.drained || s.drainsHeld d.core then s
        else State.settleAcquires { s with
          drains := s.drains.eraseIdx x
          lazy := s.lazy.filter fun r => !d.covers r } d.acquirer) := by
      show execDrainConfirmation s = _
      rw [execDrainConfirmation, show s.drains[s.args.x]? = some d from hd]
      rfl
    refine ⟨fun hnot => ?_, fun hleft hpower => ⟨fun hsome => ?_, fun hnone => ?_⟩, fun hnot => ?_, fun hdone hfree hacqs => ?_⟩
    · exact gives_idle (hdrain.trans (congrArg _ (if_pos (by simpa using hnot))))
    · exact gives_of_eq hdrain ((if_neg (by simp [hleft, hpower])).trans (if_pos hsome)) rfl
    · exact gives_of_eq hdrain ((if_neg (by simp [hleft, hpower])).trans (if_neg (ne_true_of_eq_false hnone))) ⟨rfl, by simp [updAll]⟩
    · exact gives_idle (hconfirm.trans (congrArg _ (if_pos (by simpa using hnot))))
    · obtain ⟨ps, hsettle⟩ := settleAcquires_of_none (p := d.acquirer)
        (s := { s with drains := s.drains.eraseIdx x, lazy := s.lazy.filter fun r => !d.covers r }) hacqs
      exact gives_of_eq hconfirm ((if_neg (by simp [hdone, hfree])).trans hsettle) ⟨rfl, rfl, fun r => mem_uncovered⟩
  case noDrain =>
    intro hnone
    refine ⟨gives_idle ?_, gives_idle ?_⟩
    · show execCommandedDrain s = _
      simp only [execCommandedDrain, show s.drains[s.args.x]? = none from hnone]
    · show execDrainConfirmation s = _
      simp only [execDrainConfirmation, show s.drains[s.args.x]? = none from hnone]
  case dies =>
    intro may
    refine ⟨fun hnot => gives_idle (exec_dieReadRequest.1 hnot), fun hmay hmarked => ⟨_, exec_dieReadRequest.2 hmay hmarked, rfl⟩,
      fun hmay hmarked hnone => ⟨_, exec_dieReadRequest.2 hmay hmarked, dieRead_of_no_copies hnone x y _⟩,
      fun c hmay hmarked hc hline hdie hstate hsound hlen => ?_,
      fun hnot => gives_idle (exec_dieWriteRequest.1 hnot), fun hmay haccepts => ?_⟩
    · obtain ⟨hforward, hrecall⟩ := dieRead_of_dirty hc hline hdie hstate hsound s.args.flag
      refine ⟨_, exec_dieReadRequest.2 hmay hmarked, ?_, fun hf => ?_, fun hf => ?_⟩
      · cases hf : s.args.flag with
        | true => rw [← hf, (hforward hf).2]; simp
        | false => rw [← hf, (hrecall hf).2]; simp
      · obtain ⟨hm, hcs⟩ := hforward hf
        exact ⟨hm, hcs ▸ List.mem_cons_self⟩
      · obtain ⟨hm, hcs⟩ := hrecall hf
        exact ⟨by rw [hm, ← hlen, readBytes_writeBytes_same], hcs ▸ List.mem_cons_self⟩
    · have hexec := exec_dieWriteRequest.2 hmay haccepts
      have hfirst := exec_dieWriteRequest_first hmay haccepts
      refine ⟨fun hasked => gives_of_eq hexec (if_pos (by simpa using hasked)) rfl,
        fun hnone honly hfree => gives_of_eq (hfirst hnone honly) (if_pos hfree) ⟨rfl, dieOwn_only honly⟩,
        fun hnone honly hbusy => gives_of_eq (hfirst hnone honly) (if_neg (ne_true_of_eq_false hbusy)) ?_, fun hwaiting hother => ?_⟩
      · have hframe := askSharers_frame { s with dieRequests := [⟨x, y, []⟩] } y
        exact ⟨⟨⟨x, y, []⟩, (congrArg State.dieRequests hframe :) ▸ List.mem_singleton_self _, rfl, rfl⟩,
          (congrArg State.dieCopies hframe :), (congrArg State.mem hframe :),
          fun h hh hl => askSharers_asks (s := { s with dieRequests := [⟨x, y, []⟩] }) hh hl⟩
      · have hnew : (s.dieRequests.any fun r => decide (r.die = x ∧ r.line = y)) = false := by
          simpa using fun r hr => not_and.1 (hwaiting r hr).1
        have hstill := others_wait (s := s) hwaiting hother
        exact gives_of_eq hexec ((if_neg (ne_true_of_eq_false hnew)).trans
          (grantDies_of_waiting (s := { s with dieRequests := s.dieRequests ++ [⟨x, y, s.otherHolders x y⟩] }) hstill))
          ⟨rfl, ⟨x, y, s.otherHolders x y⟩, List.mem_append_right _ (List.mem_singleton_self _), rfl, rfl,
            fun c hc hne => mem_otherHolders hc hne⟩
  case ackIdle =>
    intro hnone
    have hany : (s.dieRequests.any fun r => decide (r.line = y ∧ x ∈ r.waits)) = false := by simpa using hnone
    refine gives_idle (congrArg _ (if_pos ?_))
    rw [hany]
    rfl
  case acks =>
    intro forwards
    refine ⟨fun hwaits hkept hothers => ?_, fun hforwards ⟨r, hr, hline, hx, hmore⟩ => ?_⟩
    · have hmissing := mem_acked_waits (s := s) hothers
      refine gives_of_eq (exec_dieInvalidationAck_dropped hwaits (Bool.eq_false_iff.2 hkept))
        (grantDies_of_waiting (s := { (s.dropCopy x y).dropClean x y with
          dieRequests := ((s.dropCopy x y).dropClean x y).dieRequests.map (DieRequest.acked x y) }) ?_)
        ⟨fun c hc => (mem_dropCopy.1 hc).2, fun r hr => ?_⟩
      · rw [show ((s.dropCopy x y).dropClean x y).dieRequests = s.dieRequests from dropCopy_dieRequests s x y]
        exact hmissing
      · obtain ⟨r0, -, rfl⟩ := List.mem_map.1 hr
        exact not_mem_acked x y r0
    · exact gives_of_eq (exec_dieInvalidationAck_last hr hline hx hmore hforwards) rfl rfl
  case evict =>
    refine ⟨_, rfl, fun c hc => (mem_dropCopy.1 hc).2, fun hclean => dropCopy_of_clean fun c hc => ?_⟩
    obtain ⟨hmem, hdie, hline⟩ := dieCopy?_some hc
    obtain h | h := hclean c hmem hdie hline <;> simp [DieCopy.isDirty, h]
  case deviceAck =>
    intro hheld htacks hwaits
    have hsettle := settleWrites_of_nothing_held (s := { s with sharers := s.sharers.filter fun p => decide (p ≠ (y, x)) }) htacks hheld
    refine ⟨_, rfl, ?_⟩
    rw [hsettle, grantDies_of_waiting (s := { s with sharers := s.sharers.filter fun p => decide (p ≠ (y, x)) }) hwaits]
    exact ⟨rfl, rfl, fun p => by simp⟩
  case fencedAt =>
    intro hflag
    exact gives_of_eq rfl (if_pos hflag) ⟨mem_addNew_self _ _, rfl⟩
  case fenced =>
    intro hflag hheld htacks hwaits
    have hsettle := settleWrites_of_nothing_held
      (s := { s with fenced := addNew x s.fenced, sharers := s.sharers.filter fun p => decide (p.2 ≠ x) }) htacks hheld
    refine gives_of_eq rfl (if_neg (ne_true_of_eq_false hflag)) ?_
    rw [hsettle, grantDies_of_waiting
      (s := { s with fenced := addNew x s.fenced, sharers := s.sharers.filter fun p => decide (p.2 ≠ x) }) hwaits]
    exact ⟨mem_addNew_self _ _, fun p hp => by simpa using (List.mem_filter.1 hp).2, rfl, rfl⟩
  case readmittedAt =>
    intro hflag
    exact gives_of_eq rfl (if_pos hflag) ⟨by simp [x], fun c => by simp [x], rfl⟩
  case readmitted =>
    intro hflag
    exact gives_of_eq rfl (if_neg (ne_true_of_eq_false hflag)) ⟨by simp [x], rfl⟩

end Sys2Proof.Machine
end

section
/-!
SUPPORT. The Ethernet ports and the ordering machine (R328, R329): no translation, write or drain changes what a port holds.
-/

namespace Sys2Proof.Machine

theorem ether_foldl {α : Type} {f : State → α → State} (hf : ∀ s x, (f s x).ether = s.ether) (l : List α) (s : State) :
    (l.foldl f s).ether = s.ether := by
  induction l generalizing s with
  | nil => rfl
  | cons x r ih => exact (ih _).trans (hf s x)

/-! ## Copies of dies, and writes at home slices -/

@[simp] theorem ether_writeMem (s : State) (cs : List Host.Cell) : (s.writeMem cs).ether = s.ether := by cases cs <;> rfl

@[simp] theorem ether_writeBack (s : State) (c : DieCopy) : (s.writeBack c).ether = s.ether := by
  unfold State.writeBack
  split
  · exact ether_writeMem _ _
  · rfl

@[simp] theorem ether_giveUp (s : State) (c : DieCopy) : (s.giveUp c).ether = s.ether := by
  unfold State.giveUp State.reportCopy
  dsimp only
  split
  · split <;> rfl
  · rfl

@[simp] theorem ether_trimFilter (s : State) (line : Nat) : (s.trimFilter line).ether = s.ether := by
  unfold State.trimFilter
  split <;> rfl

@[simp] theorem ether_dropCopy (s : State) (die line : Nat) : (s.dropCopy die line).ether = s.ether := by
  unfold State.dropCopy
  split
  · rfl
  · simp

@[simp] theorem ether_dropClean (s : State) (die line : Nat) : (s.dropClean die line).ether = s.ether := rfl

@[simp] theorem ether_invalidate (s : State) (line : Nat) (keep : Option Nat) : (s.invalidate line keep).ether = s.ether := by
  refine ether_foldl (fun s c => ?_) _ s
  split
  · rfl
  · simp

@[simp] theorem ether_recall (s : State) (line : Nat) : (s.recall line).ether = s.ether := by
  refine ether_foldl (fun s c => ?_) _ s
  split <;> simp

@[simp] theorem ether_useFilter (s : State) (line : Nat) : (s.useFilter line).ether = s.ether := by
  unfold State.useFilter
  dsimp only
  split
  · rfl
  · split
    · rfl
    · exact ether_invalidate s _ none

@[simp] theorem ether_dieOwn (s : State) (die line : Nat) : (s.dieOwn die line).ether = s.ether := by
  refine (ether_useFilter _ _).trans ?_
  refine ether_foldl (fun s c => ?_) _ s
  split
  · rfl
  · simp

@[simp] theorem ether_homeNow (s : State) (op : HomeOp) : (s.homeNow op).1.ether = s.ether :=
  (ether_writeMem _ _).trans (ether_invalidate s op.line none)

@[simp] theorem ether_homeRead (s : State) (pa n : Nat) : (s.homeRead pa n).1.ether = s.ether := by
  unfold State.homeRead
  split
  · rfl
  · exact ether_recall s _

/-! ## Packets, breaks and drains -/

@[simp] theorem ether_send (s : State) (device : Nat) (body : PacketBody) : (s.send device body).ether = s.ether := by
  unfold State.send State.emit
  dsimp only
  split <;> rfl

@[simp] theorem ether_askSharers (s : State) (line : Nat) : (s.askSharers line).ether = s.ether := by
  refine ether_foldl (fun s x => ?_) _ s
  split
  · rfl
  · exact ether_send _ _ _

@[simp] theorem ether_startBreak (s : State) (idx : Nat) : (s.startBreak idx).ether = s.ether := by
  unfold State.startBreak
  split
  · rfl
  · split
    · refine (ether_foldl (fun s h => ?_) _ _).trans rfl
      rfl
    · rfl

@[simp] theorem ether_clearHolder (s : State) (core line : Nat) : (s.clearHolder core line).ether = s.ether := by
  unfold State.clearHolder
  dsimp only
  split <;> rfl

@[simp] theorem ether_landCells (s : State) (core line stamp : Nat) (cells : List Host.Cell) :
    (s.landCells core line stamp cells).ether = s.ether := by
  unfold State.landCells
  dsimp only
  split
  · exact ether_homeNow s _
  · split
    · rfl
    · exact ether_dieOwn s _ _

@[simp] theorem ether_takeOut (s : State) (d : LineDrain) : (s.takeOut d).ether = s.ether := by
  refine (ether_foldl (fun s pa => ?_) _ (s.takeDirty d)).trans rfl
  rfl

@[simp] theorem ether_landDrain (s : State) (own : Option Nat) (d : LineDrain) : (s.landDrain own d).ether = s.ether := by
  unfold State.landDrain
  dsimp only
  split
  · rfl
  · split
    · exact (ether_askSharers _ _).trans (ether_foldl (fun s t => ether_startBreak s _) _ s)
    · refine (ether_clearHolder _ _ _).trans ?_
      split
      · exact ether_takeOut s d
      · exact (ether_landCells _ _ _ _ _).trans (ether_takeOut s d)

@[simp] theorem ether_drainOwn (s : State) (core : Nat) (sel : Nat → Nat → Bool) (own : Option Nat) :
    (s.drainOwn core sel own).ether = s.ether :=
  ether_foldl (fun _ _ => (ether_landDrain _ _ _).trans (ether_foldl (fun _ _ => ether_landDrain _ _ _) _ _)) _ s

@[simp] theorem ether_roomFor (s : State) (line : Nat) (src : WriteSource) : (s.roomFor line src).ether = s.ether := by
  unfold State.roomFor State.roomForLazy
  split
  · rfl
  · split
    · rfl
    · dsimp only
      split <;> exact ether_drainOwn _ _ _ _

/-! ## What follows a write -/

@[simp] theorem ether_writePlace (s : State) (bs : List Byte) (pl : Place) : (s.writePlace bs pl).ether = s.ether := by
  cases pl <;> rfl

theorem ether_barrierEvent {s t : State} {pl : Place} {ev : BarrierEvent} (h : s.barrierEvent pl ev = .ok t) : t.ether = s.ether := by
  unfold State.barrierEvent at h
  dsimp only at h
  split at h
  · exact nomatch h
  · injection h with h
    subst h
    exact ether_writePlace s _ pl

@[simp] theorem ether_seenByCore (s : State) (q : Party) (e : SqEntry) : (s.seenByCore q e).ether = s.ether := by
  unfold State.seenByCore
  split
  · dsimp only
    split
    · rfl
    · split <;> rfl
  · rfl
  · rfl

@[simp] theorem ether_leaveRecord (s : State) (p : PartyId) (e : SqEntry) (line : Nat) : (s.leaveRecord p e line).ether = s.ether := by
  unfold State.leaveRecord
  dsimp only
  split <;> rfl

@[simp] theorem ether_entryDone (s : State) (p : PartyId) (id old : Nat) (wide : Bool) : (s.entryDone p id old wide).ether = s.ether := by
  unfold State.entryDone
  dsimp only
  split
  · rfl
  · next e _ =>
    have hrecord (line : Nat) : (if e.leavesRecord = true then (s.seenByCore (s.party p) e).leaveRecord p e line
        else s.seenByCore (s.party p) e).ether = s.ether := by
      split <;> simp
    have hacquire {u : State} (hu : u.ether = s.ether) (c : Prop) [Decidable c] (lines : List (Nat × Nat)) (scope : Scope) (fin : AcquireEnd) :
        (if c then u.beginAcquire p scope lines fin else u).ether = s.ether := by
      split <;> exact hu
    refine hacquire ?_ _ _ _ _
    split <;> exact hrecord _

@[simp] theorem ether_wakeIssuer (s : State) (p : PartyId) : (s.wakeIssuer p).ether = s.ether := by cases p <;> rfl

@[simp] theorem ether_afterWrite (s : State) (op : HomeOp) (src : WriteSource) (old : Nat) (err : Option FaultClass) :
    (s.afterWrite op src old err).ether = s.ether := by
  cases src with
  | entry p id => exact ether_entryDone _ _ _ _ _
  | copy id elem =>
    unfold State.afterWrite
    dsimp only
    split
    · rfl
    · split
      · next h => exact (ether_barrierEvent h).trans rfl
      · rfl
  | drain core stamp => exact ether_clearHolder _ core op.line
  | barrier p =>
    unfold State.afterWrite
    dsimp only
    split
    · rfl
    · split <;> rfl
  | packet device seq => exact ether_send _ _ _
  | completion n p => exact ether_wakeIssuer s p
  | accdMax core id part wg leaves =>
    unfold State.afterWrite
    dsimp only
    split <;> rfl
  | shuttle part seq =>
    unfold State.afterWrite
    dsimp only
    split <;> rfl
  | _ => rfl

@[simp] theorem ether_opFailed (s : State) (op : HomeOp) (src : WriteSource) : (s.opFailed op src).ether = s.ether := by
  unfold State.opFailed
  split
  · rfl
  · exact ether_send _ _ _
  · rfl
  · exact ether_afterWrite _ _ _ _ _

@[simp] theorem ether_applyWrite (s : State) (op : HomeOp) (src : WriteSource) : (s.applyWrite op src).ether = s.ether := by
  unfold State.applyWrite
  dsimp only
  split
  · exact ether_opFailed _ _ _
  · refine (ether_afterWrite _ _ _ _ _).trans ?_
    have hown : (match (s.roomFor op.line src).coreOfSource src with
        | none => s.roomFor op.line src
        | some c => (s.roomFor op.line src).drainOwn c (fun pa _ => op.touches pa) (some op.line)).ether = s.ether := by
      split <;> simp
    split <;> exact (ether_homeNow _ _).trans hown

/-! ## Held writes and writes that are asked for -/

@[simp] theorem ether_pushHeads (s : State) : s.pushHeads.ether = s.ether := by
  refine ether_foldl (fun s h => (ether_foldl (fun s (t : Tack) => ether_startBreak s t.index) _ _).trans ?_) _ s
  split
  · rfl
  · exact ether_roomFor _ _ _

@[simp] theorem ether_landHolders (s : State) (idx : Nat) : (s.landHolders idx).ether = s.ether := by
  unfold State.landHolders
  split
  · rfl
  · refine (ether_foldl (fun s h => ?_) _ s :)
    rfl

@[simp] theorem ether_settleLines (n : Nat) (s : State) : (State.settleHeld.settleLines n s).ether = s.ether := by
  induction n generalizing s with
  | zero => rfl
  | succ n ih =>
    unfold State.settleHeld.settleLines
    split
    · exact (ih _).trans (ether_applyWrite _ _ _)
    · rfl

@[simp] theorem ether_settleHeld (n : Nat) (s : State) : (s.settleHeld n).ether = s.ether := by
  induction n generalizing s with
  | zero => rfl
  | succ n ih =>
    unfold State.settleHeld
    dsimp only
    split
    · exact (ih _).trans ((ether_landHolders _ _).trans ((ether_settleLines _ _).trans (ether_pushHeads s)))
    · split
      · exact (ih _).trans ((ether_applyWrite _ _ _).trans (ether_pushHeads s))
      · exact ether_pushHeads s

@[simp] theorem ether_homeApply (s : State) (op : HomeOp) (src : WriteSource) : (s.homeApply op src).ether = s.ether := by
  unfold State.homeApply
  dsimp only
  split
  · exact ether_applyWrite _ _ _
  · refine (ether_settleHeld _ _).trans ((ether_askSharers _ _).trans ?_)
    split <;> rfl

@[simp] theorem ether_request (s : State) (a : AskedWrite) (ready : Bool) : (s.request a ready).ether = s.ether := by
  unfold State.request
  split
  · exact ether_homeApply _ _ _
  · rfl

@[simp] theorem ether_orLeaf (s : State) (unit at_ bit : Nat) : (s.orLeaf unit at_ bit).ether = s.ether := by
  unfold State.orLeaf
  dsimp only
  split
  · rfl
  · exact ether_request _ _ _

@[simp] theorem ether_setDirty (s : State) (unit : Nat) (ps : List Piece) : (s.setDirty unit ps).ether = s.ether := by
  refine ether_foldl (fun s p => ?_) _ s
  split
  · dsimp only
    split <;> exact ether_orLeaf _ _ _ _
  · rfl

@[simp] theorem ether_ask (s : State) (a : AskedWrite) : (s.ask a).ether = s.ether :=
  (ether_request _ _ _).trans (ether_setDirty _ _ _)

/-! ## Translation -/

@[simp] theorem ether_walk (va table : Nat) (levels : List (Nat × Nat × Nat × Nat)) (s : State) : (s.walk va table levels).1.ether = s.ether := by
  induction levels generalizing s table with
  | nil => rfl
  | cons l r ih =>
    obtain ⟨hi, lo, cls, pageBits⟩ := l
    have hread := ether_homeRead s (table + 8 * bitsOf va hi lo) 8
    unfold State.walk
    dsimp only
    iterate 2
      split
      · rfl
    iterate 2
      split
      · exact hread
    split
    · exact (ih _ _).trans hread
    · exact hread

@[simp] theorem ether_leafOf (s : State) (u : UnitCtx) (va : Nat) : (s.leafOf u va).1.ether = s.ether := by
  have hwalk := ether_walk va u.root walkLevels s
  unfold State.leafOf
  dsimp only
  split
  · split <;> rfl
  · split
    all_goals
      next h =>
        rw [h] at hwalk
        exact hwalk

@[simp] theorem ether_xlatePart (s : State) (u : UnitCtx) (va n : Nat) (k : Access) (mark : Bool) :
    (s.xlatePart u va n k mark).1.ether = s.ether := by
  have hleaf := ether_leafOf s u va
  unfold State.xlatePart
  split
  · split <;> rfl
  · split
    · next h =>
      rw [h] at hleaf
      exact hleaf
    · next s1 l h =>
      rw [h] at hleaf
      iterate 3
        split
        · exact hleaf
      have hmarked : (if mark = true ∧ l.walked = true then s1.orLeaf u.unit l.at_ 7 else s1).ether = s.ether := by
        split
        · exact (ether_orLeaf _ _ _ _).trans hleaf
        · exact hleaf
      generalize (if mark = true ∧ l.walked = true then s1.orLeaf u.unit l.at_ 7 else s1) = s2 at hmarked ⊢
      dsimp only
      split <;> exact hmarked

@[simp] theorem ether_xlateParts (u : UnitCtx) (k : Access) (mark : Bool) (parts : List (Nat × Nat)) (s : State) :
    (s.xlateParts u k mark parts).1.ether = s.ether := by
  induction parts generalizing s with
  | nil => rfl
  | cons p r ih =>
    have hpart := ether_xlatePart s u p.1 p.2 k mark
    unfold State.xlateParts
    split
    · next h =>
      rw [h] at hpart
      exact hpart
    · next s1 x h =>
      rw [h] at hpart
      have hrest := (ih s1).trans hpart
      split
      all_goals
        next hr =>
          rw [hr] at hrest
          exact hrest

@[simp] theorem ether_xlate (s : State) (u : UnitCtx) (va n : Nat) (k : Access) (mark : Bool) : (s.xlate u va n k mark).1.ether = s.ether := by
  unfold State.xlate
  split
  · rfl
  · exact ether_xlateParts u k mark _ s

/-! ## Ports -/

@[simp] theorem ether_portXlate (s : State) (port space va n : Nat) (k : Access) : (s.portXlate port space va n k).1.ether = s.ether := by
  unfold State.portXlate
  split
  · rfl
  · next part _ =>
    have hx := ether_xlate s ⟨portUnit port, space, (s.partition part).ptroot, true, false⟩ va n k true
    split
    · next h =>
      rw [h] at hx
      exact hx
    · next h =>
      rw [h] at hx
      split <;> exact hx

@[simp] theorem ether_portWrite (s : State) (port : Nat) (src : WriteSource) (ps : List (Piece × List Byte)) :
    (s.portWrite port src ps).ether = s.ether := ether_foldl (fun s _ => ether_ask s _) ps s

/-- The end of an operation changes no port. -/
@[simp] theorem ether_etherDone (s : State) (port : Nat) (o : EtherOp) (outcome cls len : Nat) :
    (s.etherDone port o outcome cls len).ether = s.ether := by
  have hx := ether_portXlate s port o.space o.completion 8 .write
  unfold State.etherDone
  dsimp only
  split
  · next h =>
    rw [h] at hx
    exact (ether_portWrite _ _ _ _).trans hx
  · next h =>
    rw [h] at hx
    exact (ether_wakeIssuer _ _).trans hx

end Sys2Proof.Machine
end

section
/-!
PROOFS. What happens at Ethernet and fabric ports (R162, R326, R328 to R332).
-/

namespace Sys2Proof.Machine

/-! ## Changes of a port -/

theorem etherPort_updEther {s : State} {x : Nat} (h : x < s.ether.length) (f : EtherPort → EtherPort) :
    (s.updEther x f).etherPort x = f (s.etherPort x) := by
  simp [State.etherPort, State.updEther, List.getD_eq_getElem?_getD, h]

theorem fabricPort_updFabric {s : State} {x : Nat} (h : x < s.fabric.length) (f : FabricPort → FabricPort) :
    (s.updFabric x f).fabricPort x = f (s.fabricPort x) := by
  simp [State.fabricPort, State.updFabric, List.getD_eq_getElem?_getD, h]

theorem length_ether_updEther (s : State) (x : Nat) (f : EtherPort → EtherPort) : (s.updEther x f).ether.length = s.ether.length :=
  List.length_modify ..

/-- A port that there is not has an empty queue. -/
theorem queue_updOp (s : State) (x k : Nat) (f : EtherOp → EtherOp) :
    ((s.updOp x k f).etherPort x).queue = (s.etherPort x).queue.modify k f := by
  by_cases h : x < s.ether.length
  · exact congrArg EtherPort.queue (etherPort_updEther h _)
  · have hblank {u : State} (hu : u.ether.length = s.ether.length) : u.etherPort x = EtherPort.blank := by
      rw [State.etherPort, List.getD_eq_getElem?_getD, List.getElem?_eq_none (by omega), Option.getD_none]
    rw [hblank rfl, State.updOp, hblank (length_ether_updEther ..)]
    exact (List.modify_nil ..).symm

/-! ## Up commands and the boot status (R329, R331, R332) -/

theorem answered_of_parties {s t : State} {c : Option (PartyId × Nat × Nat)} {v : DWord}
    (h : t.parties = (s.answerCommand c v).parties) : Answered s t c v := by
  rintro p n id rfl hstall hsome
  have hparty : t.party p = (s.answerCommand (some (p, n, id)) v).party p := by
    simp only [State.party, State.party?, h]
  rw [hparty, State.answerCommand, State.party_updParty_self s p _ (fun q => by split <;> rfl) hsome, hstall]
  simp

theorem answerCommand_frame (s : State) (c : Option (PartyId × Nat × Nat)) (v : DWord) :
    { s.answerCommand c v with parties := s.parties } = s := by
  cases c <;> rfl

/-- A port's up command has ended. -/
theorem tried_tried {s t : State} (hports : t.portsTried = s.portsTried) (hboot : t.bootStatus = s.bootStatus) (n : Nat) :
    Tried s (t.tried n) n := by
  refine ⟨?_, ?_⟩
  · show addNew n t.portsTried = _
    rw [hports]
  · show (if t.bootStatus = 0x03 ∧ _ then _ else _) = _
    rw [hboot]
    rfl

/-- What the end of an Ethernet up command leaves. -/
theorem ethernetCommand_ends {s : State} {x : Nat} (hx : x < s.ether.length) (v : DWord) (f : EtherPort → EtherPort) :
    let t := ((s.answerCommand (s.etherPort x).command v).updEther x f).tried x
    t.etherPort x = f (s.etherPort x) ∧ t.mem = s.mem ∧ Tried s t x ∧ Answered s t (s.etherPort x).command v := by
  have hframe := answerCommand_frame s (s.etherPort x).command v
  have hether : (s.answerCommand (s.etherPort x).command v).ether = s.ether := (congrArg State.ether hframe :)
  refine ⟨?_, (congrArg State.mem hframe :), tried_tried (t := (s.answerCommand (s.etherPort x).command v).updEther x f)
    (congrArg State.portsTried hframe :) (congrArg State.bootStatus hframe :) x, answered_of_parties rfl⟩
  have hport : (s.answerCommand (s.etherPort x).command v).etherPort x = s.etherPort x := by rw [State.etherPort, hether]; rfl
  exact (etherPort_updEther (hether ▸ hx) f).trans (congrArg f hport)

/-- What the end of a fabric up command leaves. -/
theorem fabricCommand_ends {s : State} {x : Nat} (hx : x < s.fabric.length) (v : DWord) (f : FabricPort → FabricPort) :
    let t := ((s.answerCommand (s.fabricPort x).command v).updFabric x f).tried (2 + x)
    t.fabricPort x = f (s.fabricPort x) ∧ t.mem = s.mem ∧ Tried s t (2 + x) ∧ Answered s t (s.fabricPort x).command v := by
  have hframe := answerCommand_frame s (s.fabricPort x).command v
  have hfabric : (s.answerCommand (s.fabricPort x).command v).fabric = s.fabric := (congrArg State.fabric hframe :)
  refine ⟨?_, (congrArg State.mem hframe :), tried_tried (t := (s.answerCommand (s.fabricPort x).command v).updFabric x f)
    (congrArg State.portsTried hframe :) (congrArg State.bootStatus hframe :) (2 + x), answered_of_parties rfl⟩
  have hport : (s.answerCommand (s.fabricPort x).command v).fabricPort x = s.fabricPort x := by rw [State.fabricPort, hfabric]; rfl
  exact (fabricPort_updFabric (hfabric ▸ hx) f).trans (congrArg f hport)

/-! ## Completion words (R162, R329) -/

theorem takes_of_free {s : State} (h : HomesFree s) (a : AskedWrite) : s.takes a true = true := by
  simp [State.takes, State.refusedWrite, h.accept, h.watched, h.asks]

/-- A write asked for by something that is no core reaches memory where nothing holds it back. -/
theorem ask_written {s : State} {p : Piece} (hfree : HomesFree s) (hdirty : s.leavesDirty [p] = true) (unit : Nat) (bs : List Byte)
    {src : WriteSource} (hrec : s.recordCore src = none) (hcore : s.coreOfSource src = none) :
    ∃ tl, s.ask ⟨unit, [p], .write (cellsFrom p.pa bs), src⟩ =
      (State.writeMem { s with tlb := tl } (cellsFrom p.pa bs)).afterWrite (.write (cellsFrom p.pa bs)) src 0 none := by
  obtain ⟨tl, htl⟩ := setDirty_of_leavesDirty unit [p] s hdirty
  have hfree' : HomesFree { s with tlb := tl } := ⟨hfree.tacks, hfree.sharers, hfree.held, hfree.asks, hfree.copies, hfree.accept⟩
  have htakes : State.takes { s with tlb := tl } ⟨unit, [p], .write (cellsFrom p.pa bs), src⟩ true = true :=
    takes_of_free hfree' _
  have hask : s.ask ⟨unit, [p], .write (cellsFrom p.pa bs), src⟩ = State.homeApply { s with tlb := tl } (.write (cellsFrom p.pa bs)) src := by
    show (s.setDirty unit [p]).request _ ((s.setDirty unit [p]).leavesDirty [p]) = _
    rw [htl, show State.leavesDirty { s with tlb := tl } [p] = true from hdirty, State.request, if_pos htakes]
  exact ⟨tl, hask.trans (hfree'.homeApply_write _ hrec hcore)⟩

theorem mem_portWrite {s : State} {x space : Nat} {ps : List Piece} {p : Piece} {bs : List Byte} (hp : ps = [p]) (hlen : p.len = bs.length)
    (hfree : HomesFree s) (hdirty : s.leavesDirty [p] = true) :
    (s.portWrite x (.port x space) (cutBytes ps bs)).mem = writeBytes s.mem p.pa bs := by
  obtain ⟨tl, hask⟩ := ask_written hfree hdirty (portUnit x) bs (src := .port x space) rfl rfl
  have hcut : cutBytes ps bs = [(p, bs)] := by rw [hp, cutBytes, hlen, List.take_length]; rfl
  rw [hcut]
  exact (congrArg State.mem hask).trans (writeMem_cellsFrom_mem { s with tlb := tl } ..)

theorem mem_wakeIssuer (s : State) (p : PartyId) : (s.wakeIssuer p).mem = s.mem := by cases p <;> rfl

/-- The completion word of an operation. -/
def completionWord (outcome cls len : Nat) : List Byte := toLe 8 (len * 2 ^ 16 + cls * 2 ^ 8 + outcome)

theorem mem_etherDone {s s1 : State} {x outcome cls len : Nat} {o : EtherOp} {y : Xlat} {p : Piece}
    (hx : s.portXlate x o.space o.completion 8 .write = (s1, .ok y)) (hp : y.pieces = [p]) (hlen : p.len = 8) (hfree : HomesFree s1)
    (hdirty : s1.leavesDirty [p] = true) :
    (s.etherDone x o outcome cls len).mem = writeBytes s1.mem p.pa (completionWord outcome cls len) := by
  have hcut : cutBytes [p] (completionWord outcome cls len) = [(p, completionWord outcome cls len)] := by
    rw [cutBytes, hlen, List.take_of_length_le (by rw [completionWord, length_toLe])]
    rfl
  obtain ⟨tl, hask⟩ := ask_written hfree hdirty (portUnit x) (completionWord outcome cls len) (src := .completion o.space o.issuer) rfl rfl
  have hdone : s.etherDone x o outcome cls len =
      s1.ask ⟨portUnit x, [p], .write (cellsFrom p.pa (completionWord outcome cls len)), .completion o.space o.issuer⟩ := by
    rw [State.etherDone, hx]
    dsimp only
    rw [hp]
    exact congrArg (s1.portWrite x (.completion o.space o.issuer)) hcut
  rw [hdone, hask]
  exact (mem_wakeIssuer _ _).trans (writeMem_cellsFrom_mem { s1 with tlb := tl } ..)

/-! ## The bytes that have left (R329, R330) -/

theorem find?_mapIdx_pair (bss : List (List Byte)) (k : Nat) :
    (bss.mapIdx fun i b => (i, b)).find? (fun p => decide (p.1 = k)) = bss[k]?.map fun b => (k, b) := by
  induction bss using List.reverseRecOn with
  | nil => rfl
  | append_singleton l b ih =>
    rw [List.mapIdx_concat, List.find?_append, ih]
    rcases Nat.lt_trichotomy k l.length with h | h | h
    · simp [List.getElem?_append_left h, List.getElem?_eq_getElem h]
    · simp [h]
    · rw [List.getElem?_eq_none (l := l) (by omega), List.getElem?_eq_none (by simp; omega)]
      simp
      omega

theorem prefixRead_of_parts {o : EtherOp} {bss : List (List Byte)} (h : o.parts = bss.mapIdx fun i b => (i, b)) (f : Nat) :
    ∀ k, bss.length ≤ k + f → o.prefixRead f k = (bss.drop k).flatten := by
  induction f with
  | zero => intro k hk; rw [List.drop_eq_nil_of_le (by omega)]; rfl
  | succ f ih =>
    intro k hk
    rw [EtherOp.prefixRead, h, find?_mapIdx_pair]
    by_cases hlt : k < bss.length
    · rw [List.getElem?_eq_getElem hlt, Option.map_some, List.drop_eq_getElem_cons hlt, List.flatten_cons]
      exact congrArg _ (ih (k + 1) (by omega))
    · rw [List.getElem?_eq_none (by omega), Option.map_none, List.drop_eq_nil_of_le (by omega)]
      rfl

theorem sentBytes_of_parts {o : EtherOp} {bss : List (List Byte)} (h : o.parts = bss.mapIdx fun i b => (i, b)) :
    o.sentBytes = bss.flatten := by
  rw [EtherOp.sentBytes, prefixRead_of_parts h, List.drop_zero]
  rw [h]
  simp

/-! ## Flow control (R328) -/

theorem framePriority_lt (bs : List Byte) : framePriority bs < 8 := by
  have hfield : beField bs 14 2 < 256 ^ 2 :=
    (le_lt _).trans_le (Nat.pow_le_pow_right (by omega) (by simp))
  unfold framePriority
  split
  · omega
  · omega

theorem length_pauseFrame (x p quanta : Nat) : (pauseFrame x p quanta).length = 64 := by
  simp [pauseFrame, length_toLe]

/-- What of a pause frame is read: its source address is not. -/
theorem pauseOf_address {h a b t : List Byte} (hh : h.length = 6) (ha : a.length = 6) (hb : b.length = 6) :
    pauseOf (h ++ (a ++ t)) = pauseOf (h ++ (b ++ t)) := by
  have hfirst (m : List Byte) : beField (h ++ m) 0 6 = beField h 0 6 := by simp [beField, ← hh]
  have hlast {c : List Byte} (hc : c.length = 6) (k n : Nat) : beField (h ++ (c ++ t)) (12 + k) n = beField t k n := by
    have hdrop : (h ++ (c ++ t)).drop (12 + k) = t.drop k := by
      rw [List.drop_append, List.drop_append, List.drop_eq_nil_of_le (by omega), List.drop_eq_nil_of_le (by omega), hh, hc]
      exact congrArg t.drop (by omega)
    rw [beField, hdrop]
    rfl
  have htimes {c : List Byte} (hc : c.length = 6) (p : Nat) : beField (h ++ (c ++ t)) (18 + 2 * p) 2 = beField t (6 + 2 * p) 2 :=
    (congrArg (beField _ · 2) (by omega)).trans (hlast hc (6 + 2 * p) 2)
  have htype {c : List Byte} (hc : c.length = 6) : beField (h ++ (c ++ t)) 12 2 = beField t 0 2 := hlast hc 0 2
  have hcode {c : List Byte} (hc : c.length = 6) : beField (h ++ (c ++ t)) 14 2 = beField t 2 2 := hlast hc 2 2
  have hnames {c : List Byte} (hc : c.length = 6) : beField (h ++ (c ++ t)) 16 2 = beField t 4 2 := hlast hc 4 2
  simp only [pauseOf, hfirst, htimes ha, htimes hb, htype ha, htype hb, hcode ha, hcode hb, hnames ha, hnames hb]

/-- The frame that pauses a priority names it alone, for its time. -/
theorem pauseOf_pauseFrame (x : Nat) {p : Nat} (hp : p < 8) :
    pauseOf (pauseFrame x p 0xFFFF) = some ((List.range 8).map fun i => if i = p then some 0xFFFF else none) := by
  have hzero : ∀ p, p < 8 → pauseOf ((toLe 6 0x0180C2000001).reverse ++ (List.replicate 6 0 ++ ((toLe 2 0x8808).reverse ++
      ((toLe 2 0x0101).reverse ++ ((toLe 2 (2 ^ p)).reverse ++ (((List.range 8).flatMap fun i =>
        (toLe 2 (if i = p then 0xFFFF else 0)).reverse) ++ List.replicate 30 0)))))) =
      some ((List.range 8).map fun i => if i = p then some 0xFFFF else none) := by decide +kernel
  rw [← hzero p hp, ← pauseOf_address (a := (toLe 6 (Config.portAddress x).toNat).reverse) (by simp) (by simp) (by simp), pauseFrame]
  simp only [List.append_assoc]

/-! ## Transmits (R329) -/

theorem mayBegin_iff (e : EtherPort) (k : Nat) (o : EtherOp) (clk : Nat) : e.mayBegin k o clk = true ↔
    (∀ y ∈ e.queue, y.began = false) ∧ (∀ y ∈ e.queue.take k, y.transmit = true → y.priority ≠ o.priority) ∧
      e.paused.getD o.priority 0 ≤ clk := by
  simp [EtherPort.mayBegin, and_assoc]

section Transmit

variable {s : State} {o : EtherOp} (hop : (s.etherPort s.args.x).queue[s.args.y]? = some o)
  (hruns : (!(s.etherPort s.args.x).up || !o.transmit || s.holds .ethernet (portCore s.args.x)) = false)

include hop hruns

theorem transmit_begins (hflag : s.args.flag = true) : exec .ethernetTransmitDone s =
    .next (if (s.etherPort s.args.x).mayBegin s.args.y o s.clk then s.updOp s.args.x s.args.y fun o => { o with began := true } else s) := by
  show execEthernetTransmitDone s = _
  simp only [execEthernetTransmitDone, hop, hruns, hflag, Bool.false_eq_true, if_false, if_true]

theorem transmit_leaves (hflag : s.args.flag = false) (hz : s.args.z = 0) : exec .ethernetTransmitDone s =
    .next (if o.began && decide (o.parts.length = (bufferLines o.buffer o.length).length) then
      (s.updEther s.args.x fun e => { e with sent := (o.sentBytes, true) :: e.sent }).endOp s.args.x s.args.y o 1 0 o.length else s) := by
  show execEthernetTransmitDone s = _
  simp only [execEthernetTransmitDone, hop, hruns, hflag, hz, Bool.false_eq_true, if_false, if_true]

/-- A line of the buffer is read, or the transmit ends. -/
theorem transmit_reads {n va len : Nat} (hflag : s.args.flag = false) (hz : s.args.z = n + 1)
    (hline : (bufferLines o.buffer o.length)[n]? = some (va, len)) (hnew : ∀ y ∈ o.parts, y.1 ≠ n)
    (hholds : s.portHolds s.args.x o.space va len = false) :
    (∀ s1 bs, s.portRead s.args.x o va len = (s1, .ok bs) → exec .ethernetTransmitDone s =
      .next (s1.updOp s.args.x s.args.y fun o => { o with parts := o.parts ++ [(n, bs)] })) ∧
    (∀ s1 c, s.portRead s.args.x o va len = (s1, .error c) → exec .ethernetTransmitDone s =
      .next ((s1.cutShort s.args.x o).endOp s.args.x s.args.y o 2 c.code o.moved)) := by
  have hexec : exec .ethernetTransmitDone s = execEthernetTransmitDone s := rfl
  have hunread : (o.parts.any fun p => decide (p.1 = n)) = false := by simpa using hnew
  rw [hexec]
  constructor
  all_goals
    intro s1 x hread
    simp only [execEthernetTransmitDone, hop, hruns, hflag, hz, hline, hholds, hread, Nat.add_sub_cancel, hunread, Nat.succ_ne_zero,
      Bool.or_false, Bool.false_eq_true, if_false]

end Transmit

/-! ## Frames that arrive (R328, R329) -/

theorem frameArrives_of_up {s : State} (hup : (s.etherPort s.args.x).up = true) (hpower : s.holds .ethernet (64 * s.args.x) = false)
    (hmin : 64 ≤ s.args.bytes.length) (hmax : s.args.bytes.length ≤ 9216) :
    exec .ethernetFrameReceive s = .next (s.frameArrives s.args.x s.args.bytes s.args.flag) := by
  have hruns : (!(s.etherPort s.args.x).up || s.holds .ethernet (portCore s.args.x)) = false := by
    rw [hup]
    exact hpower
  have hsome : s.args.bytes.isEmpty = false := by
    rw [List.isEmpty_eq_false_iff]
    rintro h
    simp [h] at hmin
  have hlength : ¬(s.args.bytes.length < 64 ∨ 9216 < s.args.bytes.length) := by omega
  show execEthernetFrameReceive s = _
  simp only [execEthernetFrameReceive, hruns, hsome, hlength, Bool.not_false, Bool.false_eq_true, if_false, if_true]

theorem freeReceive_of_none {e : EtherPort} (h : ∀ y ∈ e.queue, y.transmit = true ∨ y.frame ≠ []) : e.freeReceive = none := by
  rw [EtherPort.freeReceive, List.findIdx?_eq_none_iff]
  intro y hy
  rcases h y hy with ht | hf
  · simp [ht]
  · simp [hf]

theorem freeReceive_of_first {e : EtherPort} {k : Nat} {o : EtherOp} (hop : e.queue[k]? = some o) (hreceive : o.transmit = false)
    (hempty : o.frame = []) (hearlier : ∀ y ∈ e.queue.take k, y.transmit = true ∨ y.frame ≠ []) : e.freeReceive = some k := by
  obtain ⟨hk, ho⟩ := List.getElem?_eq_some_iff.1 hop
  rw [EtherPort.freeReceive, List.findIdx?_eq_some_iff_getElem]
  refine ⟨hk, by simp [ho, hreceive, hempty], fun j hj => ?_⟩
  rcases hearlier e.queue[j] (List.mem_take_iff_getElem.2 ⟨j, by omega, rfl⟩) with ht | hf
  · simp [ht]
  · simp [hf]

/-- Until when a priority is paused, which was until `old`: its partner names it with a time, or does not. -/
def pausedUntil (clk old : Nat) : Option Nat → Nat
  | some q => clk + (64 * q + 24) / 25
  | none => old

theorem paused_pause (e : EtherPort) (ts : List (Option Nat)) (clk : Nat) {n : Nat} (hn : n < e.paused.length) :
    (e.pause ts clk).paused.getD n 0 = pausedUntil clk (e.paused.getD n 0) (ts.getD n none) := by
  rw [EtherPort.pause, List.getD_eq_getElem?_getD, List.getElem?_mapIdx, List.getD_eq_getElem?_getD (l := e.paused), List.getElem?_eq_getElem hn,
    Option.map_some, Option.getD_some, Option.getD_some]
  cases ts.getD n none <;> rfl

section Arrival

variable {s : State} {x : Nat} {bs : List Byte}

theorem frameArrives_pauses {ts : List (Option Nat)} (h : pauseOf bs = some ts) :
    s.frameArrives x bs false = s.updEther x fun e => e.pause ts s.clk := by
  simp only [State.frameArrives, h]

theorem frameArrives_dropped (hnone : (s.etherPort x).freeReceive = none) : s.frameArrives x bs true = s := by
  simp only [State.frameArrives, hnone, if_true]

theorem frameArrives_bad {k : Nat} {o : EtherOp} (hop : (s.etherPort x).queue[k]? = some o) (hfree : (s.etherPort x).freeReceive = some k) :
    s.frameArrives x bs true = s.endOp x k o 4 0 0 := by
  simp only [State.frameArrives, hfree, hop, if_true]

theorem frameArrives_taken {k : Nat} (hplain : pauseOf bs = none) (hfree : (s.etherPort x).freeReceive = some k) :
    s.frameArrives x bs false = s.updOp x k fun o => { o with frame := bs } := by
  simp only [State.frameArrives, hplain, hfree, Bool.false_eq_true, if_false]

theorem frameArrives_waits (hplain : pauseOf bs = none) (hnone : (s.etherPort x).freeReceive = none) :
    s.frameArrives x bs false =
      (s.updEther x fun e => { e with waiting := e.waiting ++ [bs] }).sendPause x (framePriority bs) 0xFFFF := by
  simp only [State.frameArrives, hplain, hnone, Bool.false_eq_true, if_false]

end Arrival

/-! ## Receives (R162, R329) -/

section Receive

variable {s : State} {o : EtherOp} (hop : (s.etherPort s.args.x).queue[s.args.y]? = some o)
  (hruns : (!(s.etherPort s.args.x).up || s.holds .ethernet (portCore s.args.x)) = false)
  (hframed : (o.transmit || o.frame.isEmpty) = false) (hbytes : s.args.bytes = [])

include hop hruns hframed hbytes

theorem receive_completes (hz : s.args.z = 0) : exec .ethernetFrameReceive s =
    .next (if decide (o.parts.length = (bufferLines o.buffer o.frame.length).length) && !s.portHeld s.args.x then
      s.endOp s.args.x s.args.y o 1 0 o.frame.length else s) := by
  show execEthernetFrameReceive s = _
  simp only [execEthernetFrameReceive, hop, hruns, hframed, hbytes, hz, List.isEmpty_nil, Bool.not_true, Bool.false_eq_true, if_false, if_true]

/-- A line of the frame is written into the buffer, or the receive ends. -/
theorem receive_writes {n va len : Nat} (hz : s.args.z = n + 1) (hline : (bufferLines o.buffer o.frame.length)[n]? = some (va, len))
    (hnew : ∀ y ∈ o.parts, y.1 ≠ n) :
    (∀ s1 c, s.portXlate s.args.x o.space va len .write = (s1, .error c) → exec .ethernetFrameReceive s =
      .next (s1.endOp s.args.x s.args.y o 2 c.code o.moved)) ∧
    (∀ s1 y, s.portXlate s.args.x o.space va len .write = (s1, .ok y) → exec .ethernetFrameReceive s =
      .next ((s1.portWrite s.args.x (.port s.args.x o.space) (cutBytes y.pieces ((o.frame.drop (va - o.buffer)).take len))).updOp
        s.args.x s.args.y fun y => { y with parts := y.parts ++ [(n, (o.frame.drop (va - o.buffer)).take len)] })) := by
  have hexec : exec .ethernetFrameReceive s = execEthernetFrameReceive s := rfl
  have hunwritten : (o.parts.any fun p => decide (p.1 = n)) = false := by simpa using hnew
  rw [hexec]
  constructor
  all_goals
    intro s1 x hx
    simp only [execEthernetFrameReceive, hop, hruns, hframed, hbytes, hz, hline, hx, List.isEmpty_nil, Nat.add_sub_cancel, hunwritten,
      Nat.succ_ne_zero, Bool.not_true, Bool.false_eq_true, if_false]

end Receive

/-! ## A link is lost (R330) -/

/-- A port that is down, and whose queue is empty. -/
structure PortEmptied (x : Nat) (t : State) : Prop where
  there : x < t.ether.length
  up : (t.etherPort x).up = false
  queue : (t.etherPort x).queue = []

theorem PortEmptied.updEther {x : Nat} {t : State} (h : PortEmptied x t) {f : EtherPort → EtherPort}
    (hup : (f (t.etherPort x)).up = (t.etherPort x).up) (hqueue : (f (t.etherPort x)).queue = (t.etherPort x).queue) :
    PortEmptied x (t.updEther x f) where
  there := by
    rw [length_ether_updEther]
    exact h.there
  up := by
    rw [etherPort_updEther h.there, hup]
    exact h.up
  queue := by
    rw [etherPort_updEther h.there, hqueue]
    exact h.queue

theorem PortEmptied.of_ether {x : Nat} {t u : State} (h : PortEmptied x t) (he : u.ether = t.ether) : PortEmptied x u := by
  have hport : u.etherPort x = t.etherPort x := congrArg (·.getD x EtherPort.blank) he
  exact ⟨he ▸ h.there, hport ▸ h.up, hport ▸ h.queue⟩

theorem etherAbort_emptied {s : State} {x : Nat} (hx : x < s.ether.length) : PortEmptied x (s.etherAbort x) := by
  unfold State.etherAbort
  refine List.foldlRecOn (motive := PortEmptied x) _ _ ?_ fun t ht o _ => ?_
  · exact ⟨by rwa [length_ether_updEther], by rw [etherPort_updEther hx], by rw [etherPort_updEther hx]⟩
  · refine .of_ether (t := t.cutShort x o) ?_ (ether_etherDone ..)
    unfold State.cutShort
    split
    · exact ht.updEther rfl rfl
    · exact ht

/-! ## A fabric link that has trained (R331) -/

/-- Another port that is up leads to another device. -/
def State.otherDevice (s : State) (x z : Nat) : Prop :=
  ∃ n, n < 16 ∧ n ≠ x ∧ (s.fabricPort n).up = true ∧ (s.fabricPort n).device ≠ some z

/-- The port once its link `k` has trained, to the device `z` if it was down. -/
def raisedBy (k z : Nat) (f : FabricPort) : FabricPort :=
  { f with up := true, device := if f.up then f.device else some z, command := none, links := f.links.modify k Link.raise }

theorem updLink_updFabric (s : State) (x k : Nat) (f : FabricPort → FabricPort) (g : Link → Link) :
    (s.updFabric x f).updLink x k g = s.updFabric x fun p => { f p with links := (f p).links.modify k g } := by
  simp only [State.updFabric, State.updLink, List.modify_modify_eq]
  rfl

open Classical in
theorem linkTrained_eq {s : State}
    (h : ((s.fabricPort s.args.x).links.getD s.args.y Link.blank).enabled = true ∧ s.args.z < 65535) :
    exec .fabricLinkTrained s = .next (
      if (!(s.fabricPort s.args.x).up && (s.fabricPort s.args.x).command.isNone) = true then s
      else if (s.fabricPort s.args.x).up = false ∧ s.otherDevice s.args.x s.args.z then
        ((s.answerCommand (s.fabricPort s.args.x).command (BitVec.allOnes 64 - 1)).updFabric s.args.x fun f =>
          { f with command := none }).tried (2 + s.args.x)
      else
        ((s.answerCommand (s.fabricPort s.args.x).command 0).updFabric s.args.x (raisedBy s.args.y s.args.z)).tried (2 + s.args.x)) := by
  have hgo : (!((s.fabricPort s.args.x).links.getD s.args.y Link.blank).enabled || decide (65535 ≤ s.args.z)) = false := by
    rw [h.1, decide_eq_false (by omega)]
    rfl
  have hother : (!(s.fabricPort s.args.x).up && (List.range 16).any fun n => decide (n ≠ s.args.x) && (s.fabricPort n).up &&
      decide ((s.fabricPort n).device ≠ some s.args.z)) = true ↔
      (s.fabricPort s.args.x).up = false ∧ s.otherDevice s.args.x s.args.z := by
    simp [State.otherDevice, and_assoc]
  show execFabricLinkTrained s = _
  rw [execFabricLinkTrained]
  dsimp only
  rw [hgo, if_neg Bool.false_ne_true]
  refine congrArg Host.Outcome.next (if_congr Iff.rfl rfl (if_congr hother rfl ?_))
  rw [updLink_updFabric]
  rfl

/-! ## The claim -/

theorem etherDone_completes {s s1 : State} {x outcome cls len : Nat} {o : EtherOp} :
    (∀ c, s.portXlate x o.space o.completion 8 .write = (s1, .error c) → s.etherDone x o outcome cls len = s1.wakeIssuer o.issuer) ∧
    (∀ y p, s.portXlate x o.space o.completion 8 .write = (s1, .ok y) → y.pieces = [p] → p.len = 8 → HomesFree s1 →
      s1.leavesDirty [p] = true →
      let t := s.etherDone x o outcome cls len
      readBytes t.mem p.pa 8 = toLe 8 (len * 2 ^ 16 + cls * 2 ^ 8 + outcome) ∧
        ∀ a, a < p.pa ∨ p.pa + 8 ≤ a → cellGet (w := 8) t.mem a = cellGet s1.mem a) := by
  refine ⟨fun c hx => by rw [State.etherDone, hx], fun y p hx hp hlen hfree hdirty => ?_⟩
  have hmem := mem_etherDone (outcome := outcome) (cls := cls) (len := len) hx hp hlen hfree hdirty
  have hword : (completionWord outcome cls len).length = 8 := length_toLe ..
  dsimp only
  rw [hmem]
  refine ⟨?_, fun a ha => cellGet_writeBytes_outside _ _ _ _ (by rwa [hword])⟩
  rw [← hword]
  exact readBytes_writeBytes_same ..

/-- Settles O41: each event is an equation of its instruction; that no translation or write changes a port (`ether_etherDone`) gives the
lost link its empty queue. -/
theorem portEvents : Obligations.PortEvents := by
  refine ⟨fun s s1 x outcome cls len o => ⟨etherDone_completes.1, etherDone_completes.2, fun bss h => sentBytes_of_parts h⟩, ?_⟩
  intro s x k e g cut ends moved
  refine ⟨?linkUp, ?noCommand, ?timeout, ?isDown, ?failure, ?down, ?transmit, ?arrives, ?receive, ?trained, ?fabricTimeout⟩
  case linkUp =>
    intro hx hcommand
    exact gives_of_eq rfl (if_neg (by simpa [Option.isSome_iff_ne_none] using hcommand)) (ethernetCommand_ends hx 0 _)
  case noCommand =>
    intro hnone
    refine ⟨gives_of_eq rfl (if_pos (by rw [show (s.etherPort s.args.x).command = none from hnone]; rfl)) rfl, gives_idle ?_⟩
    show execEthernetUpTimeout s = _
    simp only [execEthernetUpTimeout, show (s.etherPort s.args.x).command = none from hnone]
  case timeout =>
    intro c hx hcommand
    have hexec : exec .ethernetUpTimeout s = .next (if c.2.1 + 2000000000 ≤ s.clk then
        ((s.answerCommand e.command (BitVec.allOnes 64 - 2)).updEther x fun e => { e with command := none }).tried x else s) := by
      show execEthernetUpTimeout s = _
      simp only [execEthernetUpTimeout, show (s.etherPort s.args.x).command = some c from hcommand, hcommand]
      rfl
    exact ⟨fun hlate => gives_of_eq hexec (if_pos hlate) (ethernetCommand_ends hx _ _),
      fun hearly => gives_of_eq hexec (if_neg (by omega)) rfl⟩
  case isDown => exact fun hdown => gives_of_eq rfl (if_neg (ne_true_of_eq_false hdown)) rfl
  case failure => exact fun hup => gives_of_eq rfl (if_pos hup) rfl
  case down =>
    intro hup hx
    have hdown := etherAbort_emptied hx
    refine gives_of_eq rfl (if_pos hup) ⟨hdown.up, hdown.queue, fun hnone => ?_⟩
    have hkept : s.etherAbort s.args.x = s.updEther s.args.x fun e => { e with up := false, queue := [], waiting := [], pausing := [] } := by
      rw [State.etherAbort, show (s.etherPort s.args.x).queue = [] from hnone, List.foldl_nil]
    exact ⟨(congrArg State.mem hkept).trans rfl, (congrArg State.parties hkept).trans rfl⟩
  case transmit =>
    intro o hop hup htransmit hpower hx lines free
    have hop' : (s.etherPort s.args.x).queue[s.args.y]? = some o := hop
    have hruns : (!(s.etherPort s.args.x).up || !o.transmit || s.holds .ethernet (portCore s.args.x)) = false := by
      rw [show (s.etherPort s.args.x).up = true from hup, htransmit]
      exact hpower
    have hmay := mayBegin_iff e k o s.clk
    refine ⟨fun hflag hfree => gives_of_eq (transmit_begins hop hruns hflag) (if_pos (hmay.2 hfree)) ⟨rfl, etherPort_updEther hx _⟩,
      fun hflag hbusy => gives_of_eq (transmit_begins hop hruns hflag) (if_neg (mt hmay.1 hbusy)) rfl,
      fun n va len hflag hz hline hnew hholds => ⟨fun s1 bs hread => ?_, fun s1 c hread => ?_⟩,
      fun hflag hz hbegan hall => gives_of_eq (transmit_leaves hop hruns hflag hz) (if_pos (by simpa [hbegan] using hall)) rfl,
      fun hflag hz hnot => gives_of_eq (transmit_leaves hop hruns hflag hz) (if_neg ?_) rfl⟩
    · exact gives_of_eq ((transmit_reads hop hruns hflag hz hline hnew hholds).1 s1 bs hread) rfl ⟨rfl, queue_updOp ..⟩
    · exact gives_of_eq ((transmit_reads hop hruns hflag hz hline hnew hholds).2 s1 c hread) rfl rfl
    · rw [Bool.and_eq_true, decide_eq_true_eq]
      rintro ⟨hbegan, hall⟩
      exact hnot.elim (fun h => nomatch hbegan.symm.trans h) fun h => h hall
  case arrives =>
    intro hup hpower hmin hmax hx
    have hexec := frameArrives_of_up (s := s) hup hpower hmin hmax
    refine ⟨fun ts hflag hpause => ?_, fun o hplain hop hreceive hempty hearlier => ⟨fun hflag => ?_, fun hflag => ?_⟩,
      fun hnone => ⟨fun hflag => ?_, fun hflag hplain => ?_⟩⟩
    · rw [hflag] at hexec
      refine gives_of_eq hexec (frameArrives_pauses hpause) ⟨rfl, fun n hn => ?_⟩
      rw [etherPort_updEther hx]
      exact paused_pause e ts s.clk hn
    · rw [hflag] at hexec
      exact gives_of_eq hexec (frameArrives_bad hop (freeReceive_of_first hop hreceive hempty hearlier)) rfl
    · have hplain' := hplain.resolve_left (ne_true_of_eq_false hflag)
      rw [hflag] at hexec
      exact gives_of_eq hexec (frameArrives_taken hplain' (freeReceive_of_first hop hreceive hempty hearlier)) ⟨rfl, etherPort_updEther hx _⟩
    · rw [hflag] at hexec
      exact gives_of_eq hexec (frameArrives_dropped (freeReceive_of_none hnone)) rfl
    · rw [hflag] at hexec
      refine gives_of_eq hexec (frameArrives_waits hplain (freeReceive_of_none hnone)) ⟨rfl, pauseFrame x (framePriority s.args.bytes) 0xFFFF,
        pauseOf_pauseFrame x (framePriority_lt _), length_pauseFrame .., ?_⟩
      rw [State.sendPause, etherPort_updEther (by rwa [length_ether_updEther]), etherPort_updEther hx]
      rfl
  case receive =>
    intro o hop hup hreceive hframe hpower hbytes lines
    have hruns : (!(s.etherPort s.args.x).up || s.holds .ethernet (portCore s.args.x)) = false := by
      rw [show (s.etherPort s.args.x).up = true from hup]
      exact hpower
    have hframed : (o.transmit || o.frame.isEmpty) = false := by
      rw [hreceive, Bool.false_or, List.isEmpty_eq_false_iff]
      exact hframe
    refine ⟨fun n va len hz hline hnew => ⟨fun s1 c hx => ?_, fun s1 y hx => ?_⟩, fun hz hall hlanded => ?_, fun hz hnot => ?_⟩
    · exact gives_of_eq ((receive_writes hop hruns hframed hbytes hz hline hnew).1 s1 c hx) rfl rfl
    · intro bs
      refine gives_of_eq ((receive_writes hop hruns hframed hbytes hz hline hnew).2 s1 y hx) rfl ⟨rfl, ?_⟩
      intro p hp hlen hsome hfree hdirty a
      have hmem := mem_portWrite (x := x) (space := o.space) hp hlen hfree hdirty
      exact (congrArg (cellGet (w := 8) · a) hmem).trans ((cellGet_writeBytes ..).trans (by rw [hlen]))
    · exact gives_of_eq (receive_completes hop hruns hframed hbytes hz) (if_pos (by
        rw [show s.portHeld s.args.x = false from hlanded]
        simpa using hall)) rfl
    · refine gives_of_eq (receive_completes hop hruns hframed hbytes hz) (if_neg ?_) rfl
      rw [Bool.and_eq_true, decide_eq_true_eq, Bool.not_eq_true']
      rintro ⟨hall, hlanded⟩
      exact hnot.elim (fun h => h hall) fun h => nomatch h.symm.trans hlanded
  case trained =>
    intro others trained
    have hrefused : (!(s.fabricPort s.args.x).up && (s.fabricPort s.args.x).command.isNone) = true ↔ g.up = false ∧ g.command = none := by
      simp [g, x]
    refine ⟨fun hnot => gives_of_eq rfl (if_pos (by simpa [trained, g, x, imp_iff_not_or] using hnot)) rfl,
      fun htrained hdown hnone => gives_of_eq (linkTrained_eq htrained) (if_pos (hrefused.2 ⟨hdown, hnone⟩)) rfl,
      fun htrained hx hy hup => ?_, fun htrained hx hdown hcommand hother => ?_⟩
    · have hgo : ¬(!(s.fabricPort s.args.x).up && (s.fabricPort s.args.x).command.isNone) = true := fun h => by
        obtain ⟨hdown, hnone⟩ := hrefused.1 h
        rcases hup with hup | ⟨hcommand, -⟩
        · exact nomatch hdown.symm.trans hup
        · rw [hnone] at hcommand
          cases hcommand
      have hfree : ¬((s.fabricPort s.args.x).up = false ∧ s.otherDevice s.args.x s.args.z) := fun ⟨hdown, hother⟩ =>
        hup.elim (fun hup => nomatch hdown.symm.trans hup) fun hup => hup.2 hother
      obtain ⟨hport, hmem, htried, hanswered⟩ := fabricCommand_ends hx 0 (raisedBy s.args.y s.args.z)
      refine gives_of_eq (linkTrained_eq htrained) ((if_neg hgo).trans (if_neg hfree))
        ⟨congrArg FabricPort.up hport, ?_, congrArg FabricPort.device hport, congrArg FabricPort.command hport, hmem, htried, hanswered⟩
      refine (congrArg (fun f : FabricPort => (f.links.getD s.args.y Link.blank).up) hport).trans ?_
      have hlink : s.args.y < (s.fabricPort x).links.length := hy
      simp [raisedBy, Link.raise, List.getD_eq_getElem?_getD, hlink]
    · have hgo : ¬(!(s.fabricPort s.args.x).up && (s.fabricPort s.args.x).command.isNone) = true := fun h => by
        rw [(hrefused.1 h).2] at hcommand
        cases hcommand
      exact gives_of_eq (linkTrained_eq htrained) ((if_neg hgo).trans (if_pos ⟨hdown, hother⟩)) (fabricCommand_ends hx _ _)
  case fabricTimeout =>
    intro c hx hcommand
    have hexec : exec .fabricUpTimeout s = .next (if c.2.1 + 800000000 ≤ s.clk then
        ((s.answerCommand g.command (BitVec.allOnes 64 - 2)).updFabric x fun f => { f with command := none }).tried (2 + x) else s) := by
      show execFabricUpTimeout s = _
      simp only [execFabricUpTimeout, show (s.fabricPort s.args.x).command = some c from hcommand, hcommand]
      rfl
    exact ⟨fun hlate => gives_of_eq hexec (if_pos hlate) (fabricCommand_ends hx _ _),
      fun hearly => gives_of_eq hexec (if_neg (by omega)) rfl⟩

end Sys2Proof.Machine
end

section
/-!
SUPPORT. Entries that leave a store queue (R148): what an entry leaves of its party, of the other parties and of the cores.
-/

namespace Sys2Proof.Machine

/-! ## Who a write wakes (R288) -/

/-- A change of a party that may end its halt, and changes nothing else. -/
structure Rouses (f : Party → Party) : Prop where
  awake : ∀ q, (∀ l n w, q.status ≠ .halted l n w) → f q = q
  rest : ∀ q, { f q with status := q.status } = q

namespace Rouses

variable {f g : Party → Party}

theorem id : Rouses fun q => q := ⟨fun _ _ => rfl, fun _ => rfl⟩

theorem comp (hg : Rouses g) (hf : Rouses f) : Rouses fun q => g (f q) where
  awake q hq := by rw [hf.awake q hq, hg.awake q hq]
  rest q := (congrArg (fun x : Party => { x with status := q.status }) (hg.rest (f q)) :).trans (hf.rest q)

theorem wokenBy (line : Nat) : Rouses (Party.wokenBy line) where
  awake _ h := Party.wokenBy_of_awake line h
  rest q := by
    unfold Party.wokenBy
    split
    · split <;> rfl
    · rfl

theorem keepsId (h : Rouses f) : KeepsId f := fun q => (congrArg Party.id (h.rest q) :)
theorem sq (h : Rouses f) (q : Party) : (f q).sq = q.sq := (congrArg Party.sq (h.rest q) :)
theorem acqs (h : Rouses f) (q : Party) : (f q).acqs = q.acqs := (congrArg Party.acqs (h.rest q) :)
theorem core (h : Rouses f) (q : Party) : (f q).core = q.core := (congrArg Party.core (h.rest q) :)

end Rouses

/-- The parties are the same, but that some may have been woken. -/
def Roused (s t : State) : Prop := ∃ f, Rouses f ∧ t.parties = s.parties.map f

namespace Roused

variable {s t u : State}

theorem of_eq (h : t.parties = s.parties) : Roused s t := ⟨fun q => q, Rouses.id, by rw [h, List.map_id']⟩

theorem trans (h : Roused s t) (h' : Roused t u) : Roused s u := by
  obtain ⟨f, hf, hs⟩ := h
  obtain ⟨g, hg, ht⟩ := h'
  exact ⟨fun q => g (f q), hg.comp hf, by rw [ht, hs, List.map_map]; rfl⟩

theorem then_eq (h : Roused s t) (he : u.parties = t.parties) : Roused s u := h.trans (.of_eq he)

theorem writeMem (s : State) (cs : List Host.Cell) : Roused s (s.writeMem cs) := by
  cases cs with
  | nil => exact of_eq rfl
  | cons c r => exact ⟨_, Rouses.wokenBy (c.1 / 128), rfl⟩

/-- A party once it may have been woken. -/
theorem party (h : Roused s t) : ∃ f, Rouses f ∧ ∀ p, t.party? p = (s.party? p).map f ∧ t.party p = f (s.party p) := by
  obtain ⟨f, hf, hp⟩ := h
  refine ⟨f, hf, fun p => ?_⟩
  have hparty := State.party?_mapParties hf.keepsId hp p
  refine ⟨hparty, ?_⟩
  rw [State.party, State.party, hparty]
  cases s.party? p with
  | none => exact (hf.awake _ fun _ _ _ h => by cases h).symm
  | some q => rfl

end Roused

/-! ## Nobody waits on an acquire, or to ask for a write -/

theorem settleAll_of_quiet {s : State} (hasks : s.asks = []) (hacqs : ∀ x ∈ s.parties, x.acqs = []) : s.settleAll = s := by
  rw [State.settleAll, askAgain_nil hasks]
  exact foldl_of_fixed _ fun q hq => if_pos (by rw [hacqs q hq]; rfl)

theorem acqs_of_roused {s t : State} (h : Roused s t) (hacqs : ∀ x ∈ s.parties, x.acqs = []) : ∀ x ∈ t.parties, x.acqs = [] := by
  obtain ⟨f, hf, hp⟩ := h
  intro x hx
  rw [hp] at hx
  obtain ⟨y, hy, rfl⟩ := List.mem_map.1 hx
  rw [hf.acqs, hacqs y hy]

theorem acqs_updParty {s : State} {p : PartyId} {g : Party → Party} (hg : ∀ q, q.acqs = [] → (g q).acqs = [])
    (hacqs : ∀ x ∈ s.parties, x.acqs = []) : ∀ x ∈ (s.updParty p g).parties, x.acqs = [] := by
  intro x hx
  obtain ⟨y, hy, rfl⟩ := List.mem_map.1 hx
  split
  · exact hg y (hacqs y hy)
  · exact hacqs y hy

/-! ## An entry leaves its queue -/

/-- The destination of what an entry brings back. -/
def SqBody.dest : SqBody → AtomDest
  | .atomic _ _ _ _ d => d
  | .remoteAtomic _ _ _ _ _ _ d => d
  | _ => .none

/-- A party once an entry has left its queue and its old word has been taken. -/
def Party.leave (q : Party) (e : SqEntry) (wide : Bool) (old : Nat) : Party :=
  (Party.takeOld { q with
    sq := q.sq.filter fun x => decide (x.id ≠ e.id)
    stallOn := q.stallOn.filter fun x => decide (x ≠ e.id) } e e.body.dest wide old).settleOps

theorem Party.takeOld_frame (q : Party) (e : SqEntry) (d : AtomDest) (wide : Bool) (old : Nat) :
    (q.takeOld e d wide old).sq = q.sq ∧ (q.takeOld e d wide old).acqs = q.acqs := by
  have hsreg (n : Nat) (v : DWord) : (q.setSreg n v).sq = q.sq ∧ (q.setSreg n v).acqs = q.acqs := by
    unfold Party.setSreg
    split <;> exact ⟨rfl, rfl⟩
  cases d with
  | none => exact ⟨rfl, rfl⟩
  | sreg n w => exact hsreg n _
  | vreg t n w => cases wide <;> exact ⟨rfl, rfl⟩

theorem Party.leave_id (q : Party) (e : SqEntry) (wide : Bool) (old : Nat) : (q.leave e wide old).id = q.id :=
  Party.takeOld_id ..

theorem Party.leave_sq (q : Party) (e : SqEntry) (wide : Bool) (old : Nat) :
    (q.leave e wide old).sq = q.sq.filter fun x => decide (x.id ≠ e.id) := (Party.takeOld_frame ..).1

theorem Party.leave_acqs (q : Party) (e : SqEntry) (wide : Bool) (old : Nat) : (q.leave e wide old).acqs = q.acqs :=
  (Party.takeOld_frame ..).2

/-- An entry that neither releases nor acquires is done. -/
theorem entryDone_plain {s : State} {p : PartyId} {id : Nat} {e : SqEntry} (he : (s.party p).sq.find? (fun x => decide (x.id = id)) = some e)
    (hrelease : e.release = false) (hacquire : e.acquire = false) (old : Nat) (wide : Bool) :
    ∃ errs, s.entryDone p id old wide = State.updParty { s.seenByCore (s.party p) e with errors := errs } p fun q => q.leave e wide old := by
  have hid : e.id = id := by simpa using List.find?_some he
  have hrecord : e.leavesRecord = false := by rw [SqEntry.leavesRecord, hrelease]; rfl
  unfold State.entryDone
  dsimp only
  rw [he]
  simp only [hrecord, hacquire, Bool.false_eq_true, if_false, Option.isSome_none]
  subst hid
  simp only [Party.leave]
  cases e.body with
  | atomic at_ fn x c d => cases d <;> exact ⟨_, rfl⟩
  | remoteAtomic peer device addr op x c d => cases d <;> exact ⟨_, rfl⟩
  | _ => exact ⟨(s.seenByCore (s.party p) e).errors, rfl⟩

theorem seenByCore_frame (s : State) (q : Party) (e : SqEntry) : { s.seenByCore q e with cores := s.cores, caches := s.caches } = s := by
  unfold State.seenByCore
  split
  · dsimp only
    split
    · rfl
    · split <;> rfl
  · rfl
  · rfl

/-- The same dirty bytes at every level. -/
structure SameDirty (s t : State) : Prop where
  cores : ∀ c, (t.core c).dirty = (s.core c).dirty
  caches : t.caches.map (·.dirty) = s.caches.map (·.dirty)

namespace SameDirty

variable {s t u : State}

theorem trans (h : SameDirty s t) (h' : SameDirty t u) : SameDirty s u :=
  ⟨fun c => (h'.cores c).trans (h.cores c), h'.caches.trans h.caches⟩

theorem of_eq (hcores : t.cores = s.cores) (hcaches : t.caches = s.caches) : SameDirty s t :=
  ⟨fun c => by rw [State.core, hcores]; rfl, by rw [hcaches]⟩

theorem foldl {α : Type} {f : State → α → State} (hf : ∀ s x, SameDirty s (f s x)) (l : List α) (s : State) : SameDirty s (l.foldl f s) := by
  induction l generalizing s with
  | nil => exact of_eq rfl rfl
  | cons x r ih => exact (hf s x).trans (ih _)

theorem updCore (s : State) (c : Nat) {f : Core → Core} (hf : ∀ k, (f k).dirty = k.dirty) : SameDirty s (s.updCore c f) := by
  refine ⟨fun d => ?_, rfl⟩
  rw [State.core_updCore]
  split
  · next h => rw [hf, h.1]
  · rfl

theorem updCache (s : State) (i : CacheId) {f : ComposedCache → ComposedCache} (hf : ∀ k, (f k).dirty = k.dirty) :
    SameDirty s (s.updCache i f) := by
  refine ⟨fun _ => rfl, ?_⟩
  simp only [State.updCache, updAll, List.map_map]
  refine List.map_congr_left fun k _ => ?_
  by_cases hk : k.id = i <;> simp [hk, hf]

theorem dropClean (s : State) (die line : Nat) : SameDirty s (s.dropClean die line) where
  cores c := by
    simp only [State.core, State.dropClean, List.getD_eq_getElem?_getD, List.getElem?_mapIdx]
    cases s.cores[c]? with
    | none => rfl
    | some k =>
      simp only [Option.map_some, Option.getD_some]
      split <;> rfl
  caches := by
    simp only [State.dropClean, List.map_map]
    refine List.map_congr_left fun k _ => ?_
    simp only [Function.comp_apply]
    split <;> rfl

end SameDirty

theorem seenByCore_sameDirty (s : State) (q : Party) (e : SqEntry) : SameDirty s (s.seenByCore q e) := by
  unfold State.seenByCore
  split
  · next at_ bs _ =>
    have hcore : SameDirty s (s.updCore q.core fun c => { c with clean := c.clean.map fun l =>
        if l.line = at_.pa / 128 then { l with bytes := setBytes l.bytes (at_.pa % 128) bs } else l }) := .updCore s q.core fun _ => rfl
    dsimp only
    split
    · exact hcore
    · split
      · exact hcore
      · exact hcore.trans (.updCache _ _ fun _ => rfl)
  · exact .dropClean _ _ _
  · exact .of_eq rfl rfl

/-- A store is seen by no other core. -/
theorem seenByCore_core_of_ne (s : State) (q : Party) {e : SqEntry} {p : Piece} {bs : List Byte} (hbody : e.body = .store p bs) {c : Nat}
    (hc : c ≠ q.core) : (s.seenByCore q e).core c = s.core c := by
  have hother (f : Core → Core) : (s.updCore q.core f).core c = s.core c := by
    rw [State.core_updCore, if_neg fun h => hc h.1]
  unfold State.seenByCore
  rw [hbody]
  dsimp only
  split
  · exact hother _
  · split <;> exact hother _

theorem party?_find {s : State} {p : PartyId} {q : Party} (h : s.party? p = some q) : q.id = p := by
  simpa using List.find?_some h

/-- A performed entry leaves its queue, once it has been performed in a state that has woken nobody but by its writes. -/
theorem entryDone_performed {s u : State} {q : Party} {e : SqEntry} (h : Performs s q e) (hq : s.party? s.args.p = some q)
    (hroused : Roused s u) (hasks : u.asks = []) (old : Nat) (wide : Bool) : ∃ f errs, Rouses f ∧
      let t := State.updParty { u.seenByCore (f q) e with errors := errs } q.id fun x => x.leave e wide old
      (u.entryDone q.id e.id old wide).settleAll = t ∧ Performed s t q e ∧ t.party q.id = (f q).leave e wide old := by
  obtain ⟨f, hf, hparty⟩ := hroused.party
  obtain ⟨hrelease, hacquire⟩ := h.plain
  have hid := party?_find hq
  have hsome : u.party? q.id = some (f q) := by rw [(hparty q.id).1, hid, hq, Option.map_some]
  have hthere : u.party q.id = f q := State.party_of_party? hsome
  have heid : e.id = s.args.x := by simpa using List.find?_some h.entry
  have he : (u.party q.id).sq.find? (fun x => decide (x.id = e.id)) = some e := by
    rw [hthere, hf.sq, heid]
    exact h.entry
  obtain ⟨errs, hdone⟩ := entryDone_plain he hrelease hacquire old wide
  rw [hthere] at hdone
  let v : State := { u.seenByCore (f q) e with errors := errs }
  have hparties : v.parties = u.parties := (congrArg State.parties (seenByCore_frame u (f q) e) :)
  have hkeeps : KeepsId fun x => x.leave e wide old := fun x => x.leave_id ..
  have hv : v.party? q.id = some (f q) := by rw [State.party?, hparties]; exact hsome
  refine ⟨f, errs, hf, ?_, ⟨?_, fun p hp hawake => ?_⟩, State.party_updParty_of_party? hv hkeeps⟩
  · rw [hdone]
    refine settleAll_of_quiet ((congrArg State.asks (seenByCore_frame u (f q) e) :).trans hasks) ?_
    refine acqs_updParty (s := v) (fun x hx => (x.leave_acqs ..).trans hx) ?_
    rw [hparties]
    exact acqs_of_roused hroused h.quiet.2
  · rw [State.party_updParty_of_party? hv hkeeps, Party.leave_sq, hf.sq]
  · rw [State.party_updParty_other _ _ _ _ hkeeps hp]
    show v.party p = _
    rw [State.party, State.party?, hparties]
    exact (hparty p).2.trans (hf.awake _ hawake)

end Sys2Proof.Machine
end

section
/-!
SUPPORT. Drains onto the line of a write (R146, R154, R155, R316): when the dirty bytes of some addresses of one line reach L2, memory and
every die's copy keep the line's other bytes.
-/

namespace Sys2Proof.Machine

/-! ## The same dirty bytes at every level -/

namespace SameDirty

theorem refl (s : State) : SameDirty s s := .of_eq rfl rfl

theorem writeMem (s : State) (cs : List Host.Cell) : SameDirty s (s.writeMem cs) := by cases cs <;> exact .of_eq rfl rfl

theorem giveUp (s : State) (c : DieCopy) : SameDirty s (s.giveUp c) :=
  .of_eq (congrArg State.cores (giveUp_frame s c) :) (congrArg State.caches (giveUp_frame s c) :)

theorem trimFilter (s : State) (line : Nat) : SameDirty s (s.trimFilter line) :=
  .of_eq (congrArg State.cores (trimFilter_frame s line) :) (congrArg State.caches (trimFilter_frame s line) :)

theorem dropCopy (s : State) (die line : Nat) : SameDirty s (s.dropCopy die line) := by
  unfold State.dropCopy
  split
  · exact refl s
  · refine (SameDirty.trans ?_ (giveUp _ _)).trans (trimFilter _ _)
    unfold State.writeBack
    split
    · exact writeMem _ _
    · exact refl s

theorem invalidate (s : State) (line : Nat) (keep : Option Nat) : SameDirty s (s.invalidate line keep) := by
  refine .foldl (fun s c => ?_) _ s
  split
  · exact refl s
  · exact (dropCopy _ _ _).trans (dropClean _ _ _)

theorem homeNow (s : State) (op : HomeOp) : SameDirty s (s.homeNow op).1 := (invalidate s op.line none).trans (writeMem _ _)

theorem useFilter (s : State) (line : Nat) : SameDirty s (s.useFilter line) := by
  obtain ⟨s1, hs1, fs, n, h⟩ := useFilter_cases s line
  rw [h]
  obtain rfl | ⟨l, -, rfl⟩ := hs1
  · exact .of_eq rfl rfl
  · exact (invalidate s l none).trans (.of_eq rfl rfl)

theorem dieOwn (s : State) (die line : Nat) : SameDirty s (s.dieOwn die line) := by
  have hfold : SameDirty s ((s.holders line).foldl (fun s c => if c.die = die then s else (s.giveUp c).dropClean c.die line) s) := by
    refine .foldl (fun s c => ?_) _ s
    split
    · exact refl s
    · exact (giveUp _ _).trans (dropClean _ _ _)
  refine (hfold.trans ?_).trans (useFilter _ _)
  exact .of_eq rfl rfl

theorem landCells (s : State) (core line stamp : Nat) (cells : List Host.Cell) : SameDirty s (s.landCells core line stamp cells) := by
  unfold State.landCells
  dsimp only
  split
  · exact (homeNow s _).trans (.of_eq rfl rfl)
  · split
    · exact .of_eq rfl rfl
    · exact (dieOwn s _ _).trans (.of_eq rfl rfl)

theorem clearHolder (s : State) (core line : Nat) : SameDirty s (s.clearHolder core line) :=
  .of_eq (congrArg State.cores (clearHolder_frame s core line) :) (congrArg State.caches (clearHolder_frame s core line) :)

end SameDirty

/-- A core holds no dirty byte of some addresses at any level. -/
structure CleanAt (c : Nat) (T : Nat → Prop) (s : State) : Prop where
  l1 : ∀ d ∈ (s.core c).dirty, ¬T d.pa
  caches : ∀ k ∈ s.caches, ∀ d ∈ k.dirty, d.core = c → ¬T d.pa

theorem CleanAt.of_sameDirty {c : Nat} {T : Nat → Prop} {s t : State} (h : CleanAt c T s) (hsame : SameDirty s t) : CleanAt c T t where
  l1 d hd := h.l1 d (hsame.cores c ▸ hd)
  caches k hk d hd := by
    have hmem : k.dirty ∈ s.caches.map (·.dirty) := hsame.caches ▸ List.mem_map_of_mem hk
    obtain ⟨k', hk', hdirty⟩ := List.mem_map.1 hmem
    exact h.caches k' hk' d (hdirty ▸ hd)

/-! ## Lines of dirty bytes, each once -/

theorem mem_of_mem_coreLines {l : List (Nat × Nat)} {x : Nat × Nat} (h : x ∈ coreLines l) : x ∈ l := by
  have hfold (m : List (Nat × Nat)) : ∀ r, x ∈ m.foldl (fun r y => addNew y r) r → x ∈ r ∨ x ∈ m := by
    induction m with
    | nil => exact fun r hr => .inl hr
    | cons y m ih =>
      intro r hr
      rcases ih _ hr with hold | hm
      · have hold : x ∈ addNew y r := hold
        unfold addNew at hold
        split at hold
        · exact .inl hold
        · rcases List.mem_append.1 hold with hr | hy
          · exact .inl hr
          · exact .inr (List.mem_singleton.1 hy ▸ List.mem_cons_self)
      · exact .inr (List.mem_cons_of_mem _ hm)
  exact (hfold l [] h).resolve_left (by simp)

/-- Bytes of one core and one line have one entry, if there are any. -/
theorem coreLines_of_all {l : List (Nat × Nat)} {a : Nat × Nat} (h : ∀ x ∈ l, x = a) : coreLines l = if l = [] then [] else [a] := by
  cases l with
  | nil => rfl
  | cons x r =>
    obtain rfl := h x List.mem_cons_self
    exact foldl_of_fixed (f := fun r x => addNew x r) (b := [x]) r fun y hy => by simp [addNew, h y (List.mem_cons_of_mem _ hy)]

/-! ## Copies that mirror memory, but at the addresses that are drained -/

/-- A copy of a line holds what memory held, but for some addresses. -/
structure Mirrors (s : State) (line : Nat) (T : Nat → Prop) (k : DieCopy) : Prop where
  same : k.line = line
  length : k.bytes.length = 128
  bytes : ∀ i, i < 128 → ¬T (line * 128 + i) → k.bytes[i]? = some (cellGet (w := 8) s.mem (line * 128 + i))

/-- The data of another copy. -/
theorem Mirrors.copy {s : State} {line : Nat} {T : Nat → Prop} {k : DieCopy} (h : Mirrors s line T k) (die : Nat) (st : Moesi) :
    Mirrors s line T ⟨die, line, st, k.bytes⟩ := ⟨rfl, h.length, h.bytes⟩

/-- A state that drains onto some addresses of a line have led to: its parties may have been woken, memory has changed at those addresses
only, and the only copies of dies are such copies of the line. -/
structure Landing (s : State) (line : Nat) (T : Nat → Prop) (t : State) : Prop where
  parties : Roused s t
  asks : t.asks = s.asks
  mem : ∀ a, ¬T a → cellGet (w := 8) t.mem a = cellGet s.mem a
  copies : ∀ k ∈ t.dieCopies, Mirrors s line T k

namespace Landing

variable {s t u : State} {line : Nat} {T : Nat → Prop}

theorem start (h : s.dieCopies = []) : Landing s line T s :=
  ⟨.of_eq rfl, rfl, fun _ _ => rfl, by rw [h]; exact fun _ hk => nomatch hk⟩

theorem of_eq (h : Landing s line T t) (hparties : u.parties = t.parties) (hasks : u.asks = t.asks) (hmem : u.mem = t.mem)
    (hcopies : ∀ k ∈ u.dieCopies, k ∈ t.dieCopies) : Landing s line T u where
  parties := h.parties.then_eq hparties
  asks := hasks.trans h.asks
  mem a ha := by rw [hmem, h.mem a ha]
  copies k hk := h.copies k (hcopies k hk)

theorem foldl {α : Type} {f : State → α → State} {l : List α} (hf : ∀ t, ∀ x ∈ l, Landing s line T t → Landing s line T (f t x))
    (h : Landing s line T t) : Landing s line T (l.foldl f t) :=
  List.foldlRecOn l f h fun _ ht x hx => hf _ x hx ht

theorem writeMem (h : Landing s line T t) {cs : List Host.Cell} (hcs : ∀ c ∈ cs, T c.1) : Landing s line T (t.writeMem cs) where
  parties := h.parties.trans (.writeMem t cs)
  asks := by cases cs <;> exact h.asks
  mem a ha := (writeMem_get cs a fun c hc he => ha (he ▸ hcs c hc)).trans (h.mem a ha)
  copies := by rw [writeMem_dieCopies]; exact h.copies

/-- Data that comes back to the home is what memory holds there already. -/
theorem writeBack (h : Landing s line T t) {k : DieCopy} (hk : Mirrors s line T k) : Landing s line T (t.writeBack k) := by
  unfold State.writeBack
  split
  · refine ⟨h.parties.trans (.writeMem t _), ?_, fun a ha => ?_, by rw [writeMem_dieCopies]; exact h.copies⟩
    · cases cellsFrom (k.line * 128) k.bytes <;> exact h.asks
    · rw [writeMem_cellsFrom_mem, cellGet_writeBytes, hk.length, hk.same]
      split
      · next hin =>
        obtain ⟨i, rfl⟩ : ∃ i, a = line * 128 + i := ⟨a - line * 128, by omega⟩
        rw [Nat.add_sub_cancel_left, List.getD_eq_getElem?_getD, hk.bytes i (by omega) ha, Option.getD_some]
      · exact h.mem a ha
  · exact h

theorem giveUp (h : Landing s line T t) (k : DieCopy) : Landing s line T (t.giveUp k) :=
  have hframe := giveUp_frame t k
  h.of_eq (congrArg State.parties hframe :) (congrArg State.asks hframe :) (congrArg State.mem hframe :) fun _ hx => (mem_giveUp.1 hx).1

theorem trimFilter (h : Landing s line T t) (l : Nat) : Landing s line T (t.trimFilter l) :=
  have hframe := trimFilter_frame t l
  h.of_eq (congrArg State.parties hframe :) (congrArg State.asks hframe :) (congrArg State.mem hframe :) fun k hk => by
    rwa [trimFilter_dieCopies] at hk

theorem dropClean (h : Landing s line T t) (die l : Nat) : Landing s line T (t.dropClean die l) := h.of_eq rfl rfl rfl fun _ hk => hk

theorem dropCopy (h : Landing s line T t) (die l : Nat) : Landing s line T (t.dropCopy die l) := by
  unfold State.dropCopy
  split
  · exact h
  · next k hk => exact ((h.writeBack (h.copies k (dieCopy?_some hk).1)).giveUp k).trimFilter l

theorem invalidate (h : Landing s line T t) (l : Nat) (keep : Option Nat) : Landing s line T (t.invalidate l keep) := by
  refine foldl (fun u c _ hu => ?_) h
  split
  · exact hu
  · exact (hu.dropCopy _ _).dropClean _ _

theorem homeNow (h : Landing s line T t) {cs : List Host.Cell} (hcs : ∀ c ∈ cs, T c.1) : Landing s line T (t.homeNow (.write cs)).1 :=
  (h.invalidate _ none).writeMem hcs

/-- What memory holds of the line. -/
theorem readBytes_mirrors (h : Landing s line T t) (die : Nat) (st : Moesi) : Mirrors s line T ⟨die, line, st, readBytes t.mem (line * 128) 128⟩ := by
  refine ⟨rfl, length_readBytes .., fun i hi hT => ?_⟩
  rw [← h.mem _ hT]
  simp [readBytes, hi]

/-- The data that comes with M. -/
theorem ownBytes (h : Landing s line T t) (die : Nat) : Mirrors s line T ⟨die, line, .modified,
    match (t.holders line).find? fun c => c.isDirty && (!t.copyBad c || decide (c.die = die)) with
    | some c => c.bytes
    | none => ((t.dieCopy? die line).map (·.bytes)).getD (readBytes t.mem (line * 128) 128)⟩ := by
  split
  · next c hc => exact (h.copies c (List.mem_filter.1 (List.mem_of_find?_eq_some hc)).1).copy die .modified
  · cases hcopy : t.dieCopy? die line with
    | none => exact h.readBytes_mirrors die .modified
    | some c => exact (h.copies c (dieCopy?_some hcopy).1).copy die .modified

theorem dieOwn (h : Landing s line T t) (die : Nat) : Landing s line T (t.dieOwn die line) := by
  have hbytes := h.ownBytes die
  have hfold : Landing s line T ((t.holders line).foldl (fun s c => if c.die = die then s else (s.giveUp c).dropClean c.die line) t) := by
    refine foldl (fun u c _ hu => ?_) h
    split
    · exact hu
    · exact (hu.giveUp c).dropClean _ _
  unfold State.dieOwn
  dsimp only
  generalize (t.holders line).foldl (fun s c => if c.die = die then s else (s.giveUp c).dropClean c.die line) t = u at hfold ⊢
  have hown (bs : List Byte) (hbs : Mirrors s line T ⟨die, line, .modified, bs⟩) : Landing s line T { u with
      dieCopies := (u.dieCopies.filter fun c => !(decide (c.die = die) && decide (c.line = line))) ++ [⟨die, line, .modified, bs⟩] } := by
    refine ⟨hfold.parties, hfold.asks, hfold.mem, fun k hk => ?_⟩
    rcases List.mem_append.1 hk with hold | hnew
    · exact hfold.copies k (List.mem_filter.1 hold).1
    · rw [List.mem_singleton.1 hnew]
      exact hbs
  have hown := hown _ hbytes
  obtain ⟨fs, n, huse⟩ := useFilter_of_only fun c hc => (hown.copies c hc).same
  exact huse ▸ hown.of_eq rfl rfl rfl fun _ hk => hk

/-- Bytes that a die's own copy takes. -/
theorem writeCopy (h : Landing s line T t) (hT : ∀ a, T a → a / 128 = line) {cs : List Host.Cell} (hcs : ∀ c ∈ cs, T c.1) (die : Nat) :
    Landing s line T (t.writeCopy die line cs) where
  parties := h.parties.then_eq rfl
  asks := h.asks
  mem := h.mem
  copies k hk := by
    obtain ⟨k0, hk0, rfl⟩ := List.mem_map.1 hk
    have hmirrors := h.copies k0 hk0
    split
    · refine List.foldlRecOn (motive := fun bs => Mirrors s line T { k0 with state := .modified, bytes := bs }) _ _
        ⟨hmirrors.same, hmirrors.length, hmirrors.bytes⟩ fun bs hbs x hx => ⟨hmirrors.same, (List.length_set ..).trans hbs.length, fun i hi hout => ?_⟩
      have hline := hT x.1 (hcs x hx)
      have hne : x.1 - line * 128 ≠ i := fun he => hout (by rw [show line * 128 + i = x.1 by omega]; exact hcs x hx)
      exact (List.getElem?_set_ne hne).trans (hbs.bytes i hi hout)
    · exact hmirrors

theorem landCells (h : Landing s line T t) (hT : ∀ a, T a → a / 128 = line) {cs : List Host.Cell} (hcs : ∀ c ∈ cs, T c.1) (core stamp : Nat) :
    Landing s line T (t.landCells core line stamp cs) := by
  have hset {u : State} (hu : Landing s line T u) : Landing s line T (u.setLastWriter line core stamp) := hu.of_eq rfl rfl rfl fun _ hk => hk
  unfold State.landCells
  dsimp only
  split
  · exact hset (h.homeNow hcs)
  · split
    · exact hset (h.writeCopy hT hcs _)
    · exact hset ((h.dieOwn _).writeCopy hT hcs _)

theorem takeOut (h : Landing s line T t) (d : LineDrain) : Landing s line T (t.takeOut d) := by
  refine foldl (fun u pa _ hu => ?_) (h.of_eq rfl rfl rfl fun _ hk => hk : Landing s line T (t.takeDirty d))
  exact hu.of_eq rfl rfl rfl fun _ hk => hk

theorem clearHolder (h : Landing s line T t) (core l : Nat) : Landing s line T (t.clearHolder core l) :=
  have hframe := clearHolder_frame t core l
  h.of_eq (congrArg State.parties hframe :) (congrArg State.asks hframe :) (congrArg State.mem hframe :) fun _ hk =>
    (congrArg State.dieCopies hframe :) ▸ hk

/-- Bytes of the line of a write that is being applied reach L2 (R149). -/
theorem landDrain (h : Landing s line T t) (hT : ∀ a, T a → a / 128 = line) {d : LineDrain} (hline : d.line = line)
    (hl1 : ∀ x ∈ d.l1, T x.pa) (hcc : ∀ x ∈ d.cc, T x.2.pa) : Landing s line T (t.landDrain (some line) d) := by
  have hcells : ∀ c ∈ t.drainCells d, T c.1 := by
    intro c hc
    rcases List.mem_append.1 hc with hcache | htop
    · obtain ⟨x, hx, rfl⟩ := List.mem_map.1 hcache
      exact hcc x (List.mem_filter.1 hx).1
    · obtain ⟨x, hx, rfl⟩ := List.mem_map.1 htop
      exact hl1 x (List.mem_filter.1 hx).1
  unfold State.landDrain
  dsimp only
  split
  · exact h
  · have hmay : t.mayLand (some line) d = true := by simp [State.mayLand, hline]
    rw [hmay, Bool.not_true, if_neg Bool.false_ne_true]
    refine clearHolder ?_ _ _
    split
    · exact h.takeOut d
    · rw [hline]
      exact (h.takeOut d).landCells hT hcells _ _

theorem drainCaches (h : Landing s line T t) (hT : ∀ a, T a → a / 128 = line) {which : CacheId → Bool} {sel : CcDirty → Bool}
    (hsel : ∀ d, sel d = true → T d.pa) : Landing s line T (t.drainCaches which sel (some line)) := by
  refine foldl (fun u x hx hu => hu.landDrain hT ?_ ?_ ?_) h
  · obtain ⟨k, -, hk⟩ := List.mem_flatMap.1 (mem_of_mem_coreLines hx)
    split at hk
    · obtain ⟨d, hd, rfl⟩ := List.mem_map.1 hk
      exact hT _ (hsel d (List.mem_filter.1 hd).2)
    · cases hk
  · intro d hd
    simp [State.lineDrain] at hd
  · intro d hd
    obtain ⟨k, -, hk⟩ := List.mem_flatMap.1 hd
    obtain ⟨c, hc, rfl⟩ := List.mem_map.1 hk
    have hboth := (List.mem_filter.1 hc).2
    simp only [Bool.and_eq_true] at hboth
    exact hsel c hboth.2.2

end Landing

/-! ## The drain of a core's own bytes before its write (R146) -/

section DrainOwn

variable {s : State} {line c : Nat} {T : Nat → Prop} {sel : Nat → Nat → Bool}

theorem lineDrain_selects (t : State) {l : Nat} {x : LineDrain} (hx : x = t.lineDrain c l (fun d => sel d.pa d.stamp) fun _ d => sel d.pa d.stamp)
    (hsel : ∀ a n, sel a n = true → T a) : (∀ d ∈ x.l1, T d.pa) ∧ ∀ d ∈ x.cc, T d.2.pa := by
  subst hx
  refine ⟨fun d hd => ?_, fun d hd => ?_⟩
  · have hboth := (List.mem_filter.1 hd).2
    simp only [Bool.and_eq_true] at hboth
    exact hsel _ _ hboth.2
  · obtain ⟨k, -, hk⟩ := List.mem_flatMap.1 hd
    obtain ⟨e, he, rfl⟩ := List.mem_map.1 hk
    have hboth := (List.mem_filter.1 he).2
    simp only [Bool.and_eq_true] at hboth
    exact hsel _ _ hboth.2

theorem core_of_not_lt {t : State} {c : Nat} (h : ¬c < t.cores.length) : t.core c = Core.blank := by
  rw [State.core, List.getD_eq_getElem?_getD, List.getElem?_eq_none (by omega), Option.getD_none]

theorem dirty_foldl_pass {α : Type} {f : ComposedCache → α → ComposedCache} (hf : ∀ k x, (f k x).dirty = k.dirty) (l : List α)
    (k : ComposedCache) : (l.foldl f k).dirty = k.dirty := by
  induction l generalizing k with
  | nil => rfl
  | cons x r ih => exact (ih _).trans (hf k x)

/-- The bytes of a core's L1 that stay behind a drain. -/
theorem dirty_takeDirty (t : State) (d : LineDrain) :
    ∀ x ∈ ((t.takeDirty d).core d.core).dirty, x ∈ (t.core d.core).dirty ∧ x ∉ d.l1 := by
  intro x hx
  have hcore : (t.takeDirty d).core d.core =
      (t.updCore d.core fun c => { c with dirty := c.dirty.filter fun x => !(d.l1.any fun y => decide (y = x)) }).core d.core := rfl
  rw [hcore, State.core_updCore] at hx
  split at hx
  · obtain ⟨hin, hout⟩ := List.mem_filter.1 hx
    rw [Bool.not_eq_true', List.any_eq_false] at hout
    exact ⟨hin, fun hmem => hout x hmem (decide_eq_true rfl)⟩
  · next hout =>
    rw [core_of_not_lt fun h => hout ⟨rfl, h⟩] at hx
    exact nomatch hx

/-- Those of a composed cache that stay. -/
theorem dirty_takeDirty_cache (t : State) (d : LineDrain) :
    ∀ k ∈ (t.takeDirty d).caches, ∃ k0 ∈ t.caches, ∀ x ∈ k.dirty, x ∈ k0.dirty ∧ (k0.id, x) ∉ d.cc := by
  intro k hk
  obtain ⟨k0, hk0, rfl⟩ := List.mem_map.1 hk
  refine ⟨k0, hk0, fun x hx => ?_⟩
  have hkept : x ∈ k0.dirty.filter fun x => !((d.cc.filter fun y => decide (y.1 = k0.id)).any fun y => decide (y.2 = x)) := by
    refine Eq.mp (congrArg (x ∈ ·) ((dirty_foldl_pass (fun k y => ?_) _ _).trans (dirty_foldl_pass (fun k y => ?_) _ _))) hx <;> rfl
  obtain ⟨hin, hout⟩ := List.mem_filter.1 hkept
  refine ⟨hin, fun hmem => ?_⟩
  have hany : ((d.cc.filter fun y => decide (y.1 = k0.id)).any fun y => decide (y.2 = x)) = true :=
    List.any_eq_true.2 ⟨(k0.id, x), List.mem_filter.2 ⟨hmem, decide_eq_true rfl⟩, decide_eq_true rfl⟩
  rw [hany] at hout
  exact nomatch hout

/-- The bytes that leave a core and its caches are those that are selected. -/
theorem takeOut_cleanAt (t : State) (hline : ∀ a, T a → a / 128 = line) (hsel : ∀ a n, T a → sel a n = true) :
    CleanAt c T (t.takeOut (t.lineDrain c line (fun d => sel d.pa d.stamp) fun _ d => sel d.pa d.stamp)) := by
  let d := t.lineDrain c line (fun d => sel d.pa d.stamp) fun _ d => sel d.pa d.stamp
  have hreport : SameDirty (t.takeDirty d) (t.takeOut d) := by
    refine .foldl (fun s pa => ?_) _ (t.takeDirty d)
    exact .of_eq rfl rfl
  refine CleanAt.of_sameDirty ⟨fun x hx hT => ?_, fun k hk x hx hc hT => ?_⟩ hreport
  · obtain ⟨hin, hout⟩ := dirty_takeDirty t d x hx
    exact hout (List.mem_filter.2 ⟨hin, by simp [hline _ hT, hsel _ _ hT]⟩)
  · obtain ⟨k0, hk0, hkept⟩ := dirty_takeDirty_cache t d k hk
    obtain ⟨hin, hout⟩ := hkept x hx
    exact hout (List.mem_flatMap.2 ⟨k0, hk0, List.mem_map.2 ⟨x, List.mem_filter.2 ⟨hin, by simp [hc, hline _ hT, hsel _ _ hT]⟩, rfl⟩⟩)

/-- With nothing selected there is nothing dirty of it. -/
theorem cleanAt_of_none (t : State) (hline : ∀ a, T a → a / 128 = line) (hsel : ∀ a n, T a → sel a n = true)
    (hl1 : (t.lineDrain c line (fun d => sel d.pa d.stamp) fun _ d => sel d.pa d.stamp).l1 = [])
    (hcc : (t.lineDrain c line (fun d => sel d.pa d.stamp) fun _ d => sel d.pa d.stamp).cc = []) : CleanAt c T t where
  l1 d hd hT := by
    have hin : d ∈ (t.lineDrain c line (fun d => sel d.pa d.stamp) fun _ d => sel d.pa d.stamp).l1 :=
      List.mem_filter.2 ⟨hd, by simp [hline _ hT, hsel _ _ hT]⟩
    rw [hl1] at hin
    exact nomatch hin
  caches k hk d hd hc hT := by
    have hin : (k.id, d) ∈ (t.lineDrain c line (fun d => sel d.pa d.stamp) fun _ d => sel d.pa d.stamp).cc :=
      List.mem_flatMap.2 ⟨k, hk, List.mem_map.2 ⟨d, List.mem_filter.2 ⟨hd, by simp [hc, hline _ hT, hsel _ _ hT]⟩, rfl⟩⟩
    rw [hcc] at hin
    exact nomatch hin

theorem landDrain_cleanAt (t : State) (hline : ∀ a, T a → a / 128 = line) (hsel : ∀ a n, T a → sel a n = true) :
    CleanAt c T (t.landDrain (some line) (t.lineDrain c line (fun d => sel d.pa d.stamp) fun _ d => sel d.pa d.stamp)) := by
  have hout := takeOut_cleanAt (c := c) t hline hsel
  unfold State.landDrain
  dsimp only
  split
  · next hnone =>
    obtain ⟨hl1, hcc⟩ := Bool.and_eq_true_iff.1 hnone
    exact cleanAt_of_none t hline hsel (List.isEmpty_iff.1 hl1) (List.isEmpty_iff.1 hcc)
  · have hmay : t.mayLand (some line) (t.lineDrain c line (fun d => sel d.pa d.stamp) fun _ d => sel d.pa d.stamp) = true := by
      simp [State.mayLand, State.lineDrain]
    rw [hmay, Bool.not_true, if_neg Bool.false_ne_true]
    refine CleanAt.of_sameDirty ?_ (.clearHolder _ _ _)
    split
    · exact hout
    · exact hout.of_sameDirty (.landCells _ _ _ _ _)

/-- Before a write at the home slice the core's own bytes of it have drained, and other cores' that stood beneath them. -/
theorem drainOwn_landing (hcopies : s.dieCopies = []) (hline : ∀ a, T a → a / 128 = line) (hsel : ∀ a n, sel a n = true ↔ T a) :
    Landing s line T (s.drainOwn c sel (some line)) ∧ CleanAt c T (s.drainOwn c sel (some line)) := by
  have hin (a n : Nat) : T a → sel a n = true := (hsel a n).2
  have hout (a n : Nat) : sel a n = true → T a := (hsel a n).1
  have hall : ∀ x ∈ (((s.core c).dirty.filter fun d => sel d.pa d.stamp).map fun d => (c, d.pa / 128)) ++
      s.caches.flatMap fun k => (k.dirty.filter fun d => decide (d.core = c) && sel d.pa d.stamp).map fun d => (c, d.pa / 128),
      x = (c, line) := by
    intro x hx
    rcases List.mem_append.1 hx with hl1 | hcc
    · obtain ⟨d, hd, rfl⟩ := List.mem_map.1 hl1
      rw [hline _ (hout _ _ (List.mem_filter.1 hd).2)]
    · obtain ⟨k, -, hk⟩ := List.mem_flatMap.1 hcc
      obtain ⟨d, hd, rfl⟩ := List.mem_map.1 hk
      have hboth := (List.mem_filter.1 hd).2
      rw [Bool.and_eq_true] at hboth
      rw [hline _ (hout _ _ hboth.2)]
  rw [State.drainOwn, State.dirtyLines, coreLines_of_all hall]
  split
  · next hnone =>
    obtain ⟨hl1, hcc⟩ := List.append_eq_nil_iff.1 hnone
    refine ⟨.start hcopies, ⟨fun d hd hT => ?_, fun k hk d hd hc hT => ?_⟩⟩
    · exact List.filter_eq_nil_iff.1 (List.map_eq_nil_iff.1 hl1) d hd (hin _ _ hT)
    · refine List.filter_eq_nil_iff.1 (List.map_eq_nil_iff.1 (List.flatMap_eq_nil_iff.1 hcc k hk)) d hd ?_
      rw [hin _ _ hT, hc]
      exact Bool.and_eq_true_iff.2 ⟨decide_eq_true rfl, rfl⟩
  · rw [List.foldl_cons, List.foldl_nil]
    dsimp only
    have hstart := (Landing.start (line := line) (T := T) hcopies).drainCaches hline
      (which := fun i => ((s.core c).dirty.filter fun d => decide (d.pa / 128 = line) && sel d.pa d.stamp).any fun d => decide (d.cc = some i))
      (sel := under c line 0 (((s.core c).dirty.filter fun d => decide (d.pa / 128 = line) && sel d.pa d.stamp).map (·.pa))) ?_
    · obtain ⟨hl1, hcc⟩ := lineDrain_selects (T := T) (c := c) (l := line) (sel := sel) _ rfl hout
      exact ⟨hstart.landDrain hline rfl hl1 hcc, landDrain_cleanAt _ hline hin⟩
    · intro d hd
      simp only [under, Nat.not_lt_zero, decide_false, Bool.and_false, Bool.false_or, Bool.and_eq_true, decide_eq_true_eq] at hd
      obtain ⟨-, -, hpa⟩ := hd
      obtain ⟨x, hx, hxd⟩ := List.mem_map.1 hpa
      have hboth := (List.mem_filter.1 hx).2
      rw [Bool.and_eq_true] at hboth
      exact hxd ▸ hout _ _ hboth.2

end DrainOwn

end Sys2Proof.Machine
end

section
/-!
PROOFS. Entries of the store queue are performed (R146 to R150, R158, R171, R175, R203, R205).
-/

namespace Sys2Proof.Machine

/-! ## The step -/

section Step

variable {s : State} {q : Party} {e : SqEntry}

theorem exec_storePerform (hq : s.party? s.args.p = some q) (he : q.sq.find? (fun e => decide (e.id = s.args.x)) = some e) :
    exec .storePerform s = .next (if e.failed then (if e.op.isNone then s.raiseEntry q.id e else s)
      else if q.mayLeave e && !s.maxBars q e && !s.entryHolds q e then (s.performEntry q e).settleAll else s) := by
  show execStorePerform s = _
  simp only [execStorePerform, State.party_of_party? hq, he]

theorem performs_step (hq : s.party? s.args.p = some q) (h : Performs s q e) :
    exec .storePerform s = .next (s.performEntry q e).settleAll := by
  obtain ⟨hfailed, -⟩ := h.sound
  obtain ⟨hholds, hbars⟩ := h.free
  rw [exec_storePerform hq h.entry, hfailed, h.turn, hbars, hholds]
  rfl

/-- A plain entry whose leaves are dirty takes no step of a release, and needs no room for a record. -/
theorem afterAll_plain (h : Performs s q e) {p : Piece} (hdirty : s.leavesDirty [p] = true) (line : Nat) (k : State → State) :
    ∃ tl, (s.afterDirty q.core [p] fun s => s.withRoom q e line fun s => s.afterSteps q e k) = k { s with tlb := tl } := by
  obtain ⟨hrelease, -⟩ := h.plain
  have hrecord : e.leavesRecord = false := by rw [SqEntry.leavesRecord, hrelease]; rfl
  obtain ⟨tl, htl⟩ := afterDirty_of_leavesDirty hdirty q.core fun s => s.withRoom q e line fun s => s.afterSteps q e k
  refine ⟨tl, htl.trans ?_⟩
  simp only [State.withRoom, State.afterSteps, hrecord, hrelease, Bool.not_false, Bool.true_or, if_true]

theorem performEntry_store (h : Performs s q e) {p : Piece} {bs : List Byte} (hbody : e.body = .store p bs)
    (hdirty : s.leavesDirty [p] = true) (hwatched : s.watched (p.pa / 128) = false) :
    ∃ tl, s.performEntry q e = State.performStore { s with tlb := tl } q.id e p bs := by
  obtain ⟨tl, htl⟩ := afterAll_plain h hdirty (p.pa / 128) fun s => s.performStore q.id e p bs
  refine ⟨tl, Eq.trans ?_ htl⟩
  have hrefused : s.refusedWrite (p.pa / 128) = false := by rw [State.refusedWrite, hwatched]; rfl
  simp only [State.performEntry, hbody, hrefused, Bool.false_eq_true, if_false]

/-- An atomic whose word holds an uncorrected error fails (R171). -/
theorem performEntry_bad (h : Performs s q e) {p : Piece} {fn : AtomFn} {x c : DWord} {d : AtomDest} (hbody : e.body = .atomic p fn x c d)
    (hfree : HomesFree s) (hscalar : e.op = none) (hbad : ∃ i, i < p.len ∧ s.byteBad q.core (p.pa + i) = true) :
    s.performEntry q e = (s.failEntry q.id e.id).raiseEntry q.id e := by
  obtain ⟨-, hfresh⟩ := h.sound
  have hrefused : s.refusedWrite (p.pa / 128) = false := by rw [State.refusedWrite, hfree.watched]; rfl
  have hany : ((List.range p.len).any fun i => s.byteBad q.core (p.pa + i)) = true := by simpa using hbad
  simp only [State.performEntry, hbody, hfresh, hrefused, hany, hscalar, Option.isSome_none, Bool.false_eq_true, if_false, if_true]

/-- One whose word can be read is asked for at its home (R149, R175). -/
theorem performEntry_atomic (h : Performs s q e) {p : Piece} {fn : AtomFn} {x c : DWord} {d : AtomDest} (hbody : e.body = .atomic p fn x c d)
    (hfree : HomesFree s) (hdirty : s.leavesDirty [p] = true) (hgood : ∀ i, i < p.len → s.byteBad q.core (p.pa + i) = false) :
    ∃ tl, s.performEntry q e = State.homeApply { s with tlb := tl } (.atomic p.pa fn (decide (p.len = 8)) x c) (.entry q.id e.id) := by
  obtain ⟨-, hfresh⟩ := h.sound
  have hrefused : s.refusedWrite (p.pa / 128) = false := by rw [State.refusedWrite, hfree.watched]; rfl
  have hany : ((List.range p.len).any fun i => s.byteBad q.core (p.pa + i)) = false := by simpa using hgood
  obtain ⟨tl, htl⟩ := afterAll_plain h hdirty (p.pa / 128) fun s =>
    s.homeApply (.atomic p.pa fn (decide (p.len = 8)) x c) (.entry q.id e.id)
  refine ⟨tl, Eq.trans ?_ htl⟩
  simp only [State.performEntry, hbody, hfresh, hrefused, hany, Bool.false_eq_true, if_false]

end Step

/-! ## Where the write of an entry comes from -/

/-- The write of a plain entry leaves no record. -/
theorem recordCore_plain {s : State} {q : Party} {e : SqEntry} (hq : s.party? q.id = some q) (he : q.sq.find? (fun x => decide (x.id = e.id)) = some e)
    (hrelease : e.release = false) : s.recordCore (.entry q.id e.id) = none := by
  have hrecord : e.leavesRecord = false := by rw [SqEntry.leavesRecord, hrelease]; rfl
  simp only [State.recordCore, State.party_of_party? hq, he, Option.bind_some, hrecord, Bool.false_eq_true, if_false]

theorem coreOfSource_entry {s : State} {q : Party} (hq : s.party? q.id = some q) (id : Nat) :
    s.coreOfSource (.entry q.id id) = some q.core := by
  rw [State.coreOfSource, State.party_of_party? hq]

/-! ## A core that holds nothing dirty of some bytes -/

theorem dirtyAt_eq_none {c : Core} {a : Nat} : dirtyAt c a = none ↔ ∀ d ∈ c.dirty, d.pa ≠ a := by
  simp [dirtyAt]

theorem cacheDirty_eq_none {s : State} {c a : Nat} :
    s.cacheDirty c a = none ↔ ∀ k ∈ s.caches, ∀ d ∈ k.dirty, d.core = c → d.pa ≠ a := by
  simp [State.cacheDirty, List.findSome?_eq_none_iff]

theorem drainOwn_of_none {s : State} {c : Nat} {sel : Nat → Nat → Bool} (hcore : ∀ d ∈ (s.core c).dirty, sel d.pa d.stamp = false)
    (hcaches : ∀ k ∈ s.caches, ∀ d ∈ k.dirty, d.core = c → sel d.pa d.stamp = false) (own : Option Nat) : s.drainOwn c sel own = s := by
  have hl1 : ((s.core c).dirty.filter fun d => sel d.pa d.stamp) = [] := List.filter_eq_nil_iff.2 fun d hd => by simp [hcore d hd]
  have hcc : (s.caches.flatMap fun k => (k.dirty.filter fun d => decide (d.core = c) && sel d.pa d.stamp).map fun d => (c, d.pa / 128)) = [] := by
    rw [List.flatMap_eq_nil_iff]
    intro k hk
    rw [List.map_eq_nil_iff, List.filter_eq_nil_iff]
    intro d hd
    rw [Bool.and_eq_true, decide_eq_true_eq]
    rintro ⟨hc, hsel⟩
    exact nomatch (hcaches k hk d hd hc).symm.trans hsel
  rw [State.drainOwn, State.dirtyLines, hl1, hcc]
  rfl

/-! ## Atomics (R175) -/

/-- An atomic on a word of which its core holds nothing dirty. -/
theorem atomic_applied {s : State} {q : Party} {id pa : Nat} {fn : AtomFn} {wide : Bool} {x c : DWord} (hq : s.party? q.id = some q)
    (hrec : s.recordCore (.entry q.id id) = none) (hfree : HomesFree s)
    (hgood : ∀ i, i < atomSize wide → s.byteBad q.core (pa + i) = false ∧ dirtyAt (s.core q.core) (pa + i) = none ∧
      s.cacheDirty q.core (pa + i) = none) :
    let n := atomSize wide
    let old := le (readBytes s.mem pa n)
    s.homeApply (.atomic pa fn wide x c) (.entry q.id id) =
      (s.writeMem (cellsFrom pa (toLe n (atomNew fn (8 * n) old (atomArg fn (8 * n) x.toNat) (c.toNat % 2 ^ (8 * n)))))).entryDone
        q.id id old wide := by
  intro n old
  let op : HomeOp := .atomic pa fn wide x c
  have hcore := coreOfSource_entry hq id
  have hbad : s.opBad op (.entry q.id id) = false := by
    have hany : ((List.range n).any fun i => s.byteBad q.core (pa + i)) = false := by simpa using fun i hi => (hgood i hi).1
    simp only [State.opBad, op, hcore]
    exact hany
  have hclean : s.drainOwn q.core (fun pa _ => op.touches pa) (some op.line) = s := by
    have huntouched (a : Nat) (h : ∀ i, i < n → a ≠ pa + i) : op.touches a = false := by
      have hout : ¬(pa ≤ a ∧ a < pa + n) := fun ⟨h1, h2⟩ => h (a - pa) (by omega) (by omega)
      exact decide_eq_false hout
    refine drainOwn_of_none (fun d hd => huntouched _ fun i hi => ?_) (fun k hk d hd hc => huntouched _ fun i hi => ?_) _
    · exact dirtyAt_eq_none.1 (hgood i hi).2.1 d hd
    · exact cacheDirty_eq_none.1 (hgood i hi).2.2 k hk d hd hc
  rw [homeApply_of_free hfree.tacks (hfree.lineFree _) hrec, applyWrite_of_core hrec hcore hbad (fun _ _ _ _ => nofun), hclean,
    homeNow_of_no_copies hfree.copies]
  rfl

/-- The old word stands in its destination. -/
theorem leave_oldIn (q : Party) {e : SqEntry} {p : Piece} {fn : AtomFn} {x c : DWord} {d : AtomDest} (hbody : e.body = .atomic p fn x c d)
    (wide : Bool) (old : Nat) : OldIn (q.leave e wide old) d wide old := by
  unfold Party.leave
  rw [hbody]
  cases d with
  | none => trivial
  | sreg n w =>
    intro hn
    exact (Party.sreg_setSreg _ n n _).trans (if_pos ⟨rfl, hn⟩)
  | vreg k n w =>
    cases wide with
    | false => exact ⟨(Party.vreg_setVreg ..).trans (if_pos rfl), nofun⟩
    | true =>
      refine ⟨?_, fun _ => (Party.vreg_setVreg ..).trans (if_pos rfl)⟩
      exact (Party.vreg_setVreg ..).trans ((if_neg (by omega)).trans ((Party.vreg_setVreg ..).trans (if_pos rfl)))

/-! ## Stores that merge (R147) -/

theorem performStore_merged {s : State} {q : Party} {e : SqEntry} {p : Piece} {bs : List Byte} (hq : s.party? q.id = some q)
    (hscope : e.scope = .group ∨ e.scope = .core) (hrefuses : s.refusesDirty (p.pa / 128) = false)
    (hready : (s.core q.core).mergeReady (p.pa / 128) = true) :
    s.performStore q.id e p bs =
      (s.merge q.core (cacheIdOf (s.partOf q) q.core p.cc) p bs).entryDone q.id e.id 0 false := by
  have hbefore : s.beforeMerge q.core (p.pa / 128) = s := by
    obtain ⟨hroom, hstamps⟩ := Bool.and_eq_true_iff.1 hready
    rw [Bool.not_eq_true'] at hstamps
    rw [State.beforeMerge, hstamps, if_neg Bool.false_ne_true]
    exact if_pos hroom
  obtain h | h := hscope
  all_goals
    simp only [State.performStore, h, State.party_of_party? hq, hrefuses, hbefore, hready, Bool.false_and, Bool.false_eq_true, if_false, if_true]

theorem SameDirty.dirtyAt {s t : State} (h : SameDirty s t) (c a : Nat) : dirtyAt (t.core c) a = dirtyAt (s.core c) a := by
  rw [Machine.dirtyAt, h.cores c, Machine.dirtyAt]

theorem find?_mapIdx_dirty {bs : List Byte} {pa a r : Nat} {cc : Option CacheId} (h : pa ≤ a) :
    ((bs.mapIdx fun i b => (⟨pa + i, b, r, cc⟩ : DirtyByte)).find? fun d => decide (d.pa = a)).map (·.val) = bs[a - pa]? := by
  induction bs generalizing pa with
  | nil => rfl
  | cons b bs ih =>
    have hshift : (bs.mapIdx fun i b => (⟨pa + (i + 1), b, r, cc⟩ : DirtyByte)) = bs.mapIdx fun i b => ⟨pa + 1 + i, b, r, cc⟩ := by
      simp only [Nat.add_assoc, Nat.add_comm 1]
    rw [List.mapIdx_cons, hshift, List.find?_cons]
    by_cases ha : a = pa
    · simp [ha]
    · have hne : decide (pa + 0 = a) = false := by simpa using fun h => ha h.symm
      rw [show a - pa = a - (pa + 1) + 1 by omega, List.getElem?_cons_succ, ← ih (pa := pa + 1) (by omega)]
      simp only [hne]

/-- The bytes that a core holds dirty once a store has merged. -/
theorem dirtyAt_merge {s : State} {c : Nat} (hc : c < s.cores.length) (cc : Option CacheId) (p : Piece) (bs : List Byte) (a : Nat) :
    dirtyAt ((s.merge c cc p bs).core c) a = if p.pa ≤ a ∧ a < p.pa + bs.length then bs[a - p.pa]? else dirtyAt (s.core c) a := by
  have hcore : (s.merge c cc p bs).core c = { s.core c with
      dirty := ((s.core c).dirty.filter fun d => !(decide (p.pa ≤ d.pa) && decide (d.pa < p.pa + bs.length))) ++
        bs.mapIdx fun i b => ⟨p.pa + i, b, (s.core c).relSeq, cc⟩ } := (State.core_updCore ..).trans (if_pos ⟨rfl, hc⟩)
  rw [hcore, dirtyAt, List.find?_append, Option.map_or]
  split
  · next hin =>
    have hgone : ((s.core c).dirty.filter fun d => !(decide (p.pa ≤ d.pa) && decide (d.pa < p.pa + bs.length))).find?
        (fun d => decide (d.pa = a)) = none := by
      simp only [List.find?_eq_none, List.mem_filter, decide_eq_true_eq]
      rintro d ⟨-, hd⟩ rfl
      simp at hd
      omega
    rw [hgone, Option.map_none, Option.none_or]
    exact find?_mapIdx_dirty hin.1
  · next hout =>
    have hkept : ((s.core c).dirty.filter fun d => !(decide (p.pa ≤ d.pa) && decide (d.pa < p.pa + bs.length))).find?
        (fun d => decide (d.pa = a)) = (s.core c).dirty.find? fun d => decide (d.pa = a) := by
      rw [List.find?_filter]
      refine List.find?_congr fun d _ => ?_
      by_cases hd : d.pa = a
      · simp [hd]; omega
      · simp [hd]
    have hnew : (bs.mapIdx fun i b => (⟨p.pa + i, b, (s.core c).relSeq, cc⟩ : DirtyByte)).find? (fun d => decide (d.pa = a)) = none := by
      rw [List.find?_eq_none]
      intro d hd
      obtain ⟨i, hi, rfl⟩ := List.mem_mapIdx.1 hd
      simp
      omega
    rw [hkept, hnew, Option.map_none, Option.or_none, dirtyAt]

/-! ## Stores at their home slices (R149) -/

/-- A store from DEVICE up, or at CLUSTER scope with no composed cache, is asked for at its home slice where no die holds a copy. -/
theorem performStore_home {s : State} {q : Party} {e : SqEntry} {p : Piece} {bs : List Byte} (hq : s.party? q.id = some q)
    (hscope : e.scope = .device ∨ e.scope = .pdevice ∨ e.scope = .fabric ∨
      (e.scope = .cluster ∧ (cacheIdOf (s.partOf q) q.core p.cc).bind s.cache? = none))
    (hcopies : s.dieCopies = []) :
    s.performStore q.id e p bs = s.homeApply (.write (cellsFrom p.pa bs)) (.entry q.id e.id) := by
  have hl2 (home : Bool) : s.storeL2 q.core home p bs q.id e.id = s.homeApply (.write (cellsFrom p.pa bs)) (.entry q.id e.id) := by
    have hnone : s.ownsLine (dieOfCore q.core) (p.pa / 128) = false := by
      simp [State.ownsLine, State.holdsM, dieCopy?_of_no_copies hcopies]
    simp only [State.storeL2, hnone, Bool.and_false, Bool.false_and, Bool.false_eq_true, if_false]
  obtain h | h | h | ⟨h, hcache⟩ := hscope
  · simp only [State.performStore, h, State.party_of_party? hq, hl2]
  · simp only [State.performStore, h, State.party_of_party? hq, hl2]
  · simp only [State.performStore, h, State.party_of_party? hq, hl2]
  · simp only [State.performStore, h, State.party_of_party? hq, hcache, hl2]

/-- The bytes of a store. -/
def storeBytes (p : Piece) (bs : List Byte) (a : Nat) : Prop := p.pa ≤ a ∧ a < p.pa + bs.length

theorem mem_cellsFrom {pa : Nat} {bs : List Byte} {c : Host.Cell} (h : c ∈ cellsFrom pa bs) : pa ≤ c.1 ∧ c.1 < pa + bs.length := by
  obtain ⟨i, hi, rfl⟩ := List.mem_mapIdx.1 h
  exact ⟨Nat.le_add_right .., Nat.add_lt_add_left hi _⟩

theorem touches_write (p : Piece) (bs : List Byte) (a : Nat) :
    HomeOp.touches (.write (cellsFrom p.pa bs)) a = true ↔ storeBytes p bs a := by
  show (cellsFrom p.pa bs).any _ = true ↔ _
  rw [List.any_eq_true]
  constructor
  · rintro ⟨c, hc, ha⟩
    exact of_decide_eq_true ha ▸ mem_cellsFrom hc
  · rintro ⟨h1, h2⟩
    exact ⟨(p.pa + (a - p.pa), bs[a - p.pa]), List.mem_mapIdx.2 ⟨a - p.pa, by omega, rfl⟩, decide_eq_true (by omega)⟩

theorem line_write {p : Piece} {bs : List Byte} (h : bs ≠ []) : HomeOp.line (.write (cellsFrom p.pa bs)) = p.pa / 128 := by
  cases bs with
  | nil => exact absurd rfl h
  | cons b r => simp [HomeOp.line, cellsFrom]

/-- A store of bytes of one line, at a home slice where nothing holds it back. -/
theorem store_applied {s : State} {q : Party} {id : Nat} {p : Piece} {bs : List Byte} (hq : s.party? q.id = some q)
    (hrec : s.recordCore (.entry q.id id) = none) (hfree : HomesFree s) (hline : p.pa % 128 + bs.length ≤ 128) (hsome : bs ≠ []) :
    ∃ u, s.homeApply (.write (cellsFrom p.pa bs)) (.entry q.id id) = u.entryDone q.id id 0 false ∧ Roused s u ∧ u.asks = s.asks ∧
      (∀ a, cellGet (w := 8) u.mem a = if p.pa ≤ a ∧ a < p.pa + bs.length then bs.getD (a - p.pa) 0 else cellGet s.mem a) ∧
      CleanAt q.core (storeBytes p bs) u := by
  let op : HomeOp := .write (cellsFrom p.pa bs)
  have hT (a : Nat) (h : storeBytes p bs a) : a / 128 = p.pa / 128 := by
    obtain ⟨h1, h2⟩ := h
    omega
  obtain ⟨hland, hclean⟩ := drainOwn_landing (c := q.core) (sel := fun pa _ => op.touches pa) hfree.copies hT
    fun a _ => touches_write p bs a
  have hhome := hland.invalidate op.line none
  refine ⟨((s.drainOwn q.core (fun pa _ => op.touches pa) (some (p.pa / 128))).homeNow op).1, ?_, hhome.parties.trans (.writeMem _ _), ?_,
    fun a => ?_, hclean.of_sameDirty (.homeNow _ _)⟩
  · rw [homeApply_of_free hfree.tacks (hfree.lineFree _) hrec, applyWrite_of_core hrec (coreOfSource_entry hq id) rfl (fun _ _ _ _ h => by cases h),
      line_write hsome]
    rfl
  · have hasks (t : State) (cs : List Host.Cell) : (t.writeMem cs).asks = t.asks := by cases cs <;> rfl
    exact (hasks _ _).trans hhome.asks
  · refine (congrArg (cellGet (w := 8) · a) (writeMem_cellsFrom_mem _ p.pa bs)).trans ((cellGet_writeBytes ..).trans ?_)
    split
    · rfl
    · next hout => exact hhome.mem a hout

/-! ## Failed entries (R171) -/

/-- What a fault leaves of its party. -/
structure ParkedOn (cls : FaultClass) (q r : Party) : Prop where
  status : r.status = .parked
  cls : r.park.map (·.cls) = some cls
  sregs : r.sregs = q.sregs
  pc : r.pc = q.pc
  sq : r.sq = q.sq

theorem fault_parkedOn {s : State} {p : PartyId} {q : Party} (h : s.party? p = some q) (c : FaultClass) (u : FaultUnit) (i : FaultInfo) :
    ParkedOn c q ((s.fault p c u i).party p) := by
  have hp : (s.fault p c u i).party p = (q.parkOn c u s.clk).keepRecord s c i :=
    State.party_updParty_of_party? h (keepRecord_keepsId s c u i s.clk)
  rw [hp]
  unfold Party.keepRecord
  split <;> exact ⟨rfl, rfl, rfl, rfl, rfl⟩

/-- The entry of the instruction at which the stream stalls goes with the fault, and the stream stands at that instruction. -/
theorem raiseEntry_stalled {s : State} {q : Party} {e : SqEntry} (hq : s.party? q.id = some q) (hpark : q.mayPark = true)
    (hstall : e.id ∈ q.stallOn) : ParkedOn .memoryError { q.dropEntry e.id with pc := q.pc - 4 } ((s.raiseEntry q.id e).party q.id) := by
  have hraise : s.raiseEntry q.id e = (s.updParty q.id fun q => { q.dropEntry e.id with pc := q.pc - 4 }).fault q.id .memoryError .scalar
      (FaultInfo.at_ e.va) := by
    simp only [State.raiseEntry, State.party_of_party? hq, hpark, hstall, Bool.not_true, Bool.false_eq_true, if_false, if_true]
  have hkeeps : KeepsId fun q : Party => { q.dropEntry e.id with pc := q.pc - 4 } := fun _ => rfl
  rw [hraise]
  exact fault_parkedOn (by rw [State.party?_updParty _ _ _ _ hkeeps, hq]; simp) ..

/-- The entry of another instruction waits for the fault service. -/
theorem raiseEntry_passed {s : State} {q : Party} {e : SqEntry} (hq : s.party? q.id = some q) (hpark : q.mayPark = true)
    (hstall : e.id ∉ q.stallOn) : ParkedOn .memoryError q ((s.raiseEntry q.id e).party q.id) := by
  have hraise : s.raiseEntry q.id e = s.fault q.id .memoryError (.entry e.id) (FaultInfo.at_ e.va) := by
    simp only [State.raiseEntry, State.party_of_party? hq, hpark, hstall, Bool.not_true, Bool.false_eq_true, if_false]
  rw [hraise]
  exact fault_parkedOn hq ..

theorem raiseEntry_frame (s : State) (p : PartyId) (e : SqEntry) :
    { s.raiseEntry p e with parties := s.parties, records := s.records, fresh := s.fresh } = s := by
  unfold State.raiseEntry
  dsimp only
  split
  · rfl
  · split <;> rfl

theorem raiseEntry_parks {s : State} {q : Party} {e : SqEntry} (hq : s.party? q.id = some q) (hpark : q.mayPark = true) :
    ((s.raiseEntry q.id e).party q.id).status = .parked ∧
      ((s.raiseEntry q.id e).party q.id).park.map (·.cls) = some .memoryError ∧
      ((s.raiseEntry q.id e).party q.id).sregs = q.sregs := by
  by_cases hstall : e.id ∈ q.stallOn
  · have h := raiseEntry_stalled hq hpark hstall
    exact ⟨h.status, h.cls, h.sregs⟩
  · have h := raiseEntry_passed hq hpark hstall
    exact ⟨h.status, h.cls, h.sregs⟩

theorem raiseEntry_acqs {s : State} (p : PartyId) (e : SqEntry) (hacqs : ∀ x ∈ s.parties, x.acqs = []) :
    ∀ x ∈ (s.raiseEntry p e).parties, x.acqs = [] := by
  have hfault {u : State} (c : FaultClass) (f : FaultUnit) (i : FaultInfo) (hu : ∀ x ∈ u.parties, x.acqs = []) :
      ∀ x ∈ (u.fault p c f i).parties, x.acqs = [] := by
    refine acqs_updParty (s := u) (fun q hq => ?_) hu
    have hlet : (q.parkOn c f u.clk).acqs = [] := by
      show q.acqs.filter Acquire.lasts = []
      rw [hq]
      rfl
    unfold Party.keepRecord
    split <;> exact hlet
  unfold State.raiseEntry
  dsimp only
  split
  · exact hacqs
  · split
    · exact hfault _ _ _ (acqs_updParty (s := s) (fun _ hq => hq) hacqs)
    · exact hfault _ _ _ hacqs

/-! ## The claim -/

/-- Settles O60: a performed entry leaves its queue (`entryDone_performed`); a store at its home follows the drain of its own bytes
(`drainOwn_landing`), which leaves every other byte of the line in memory and in the copies of dies. -/
theorem storesPerformed : Obligations.StoresPerformed := by
  intro s q e hq he
  have hid := party?_find hq
  have hq' : s.party? q.id = some q := by rw [hid]; exact hq
  have heid : e.id = s.args.x := by simpa using List.find?_some he
  have hexec := exec_storePerform hq he
  refine ⟨fun hfailed hnot => ?failedIdle, fun hfailed hscalar hpark => ?failedParks, fun hsound hnot => ?idle, fun hsound hleave hbars hholds => ?general,
    fun p bs hbody hperf hdirty hline hsome => ⟨fun hscope hrefuses hready hcore => ?merged, fun hscope hfree => ?stored⟩, ?atomics,
    fun cl b bs hbody hperf hmode howner hsize hroom hbank => ?push, fun peer d a bs hbody hperf => ?remote⟩
  case failedIdle =>
    refine gives_of_eq hexec ((if_pos hfailed).trans ?_) rfl
    split
    · next hnone =>
      have hbusy : q.mayPark = false := hnot.resolve_left (by simpa using hnone)
      simp only [State.raiseEntry, State.party_of_party? hq', hbusy, Bool.not_false, if_true]
    · rfl
  case failedParks =>
    refine gives_of_eq hexec ((if_pos hfailed).trans (if_pos (by rw [hscalar]; rfl))) ?_
    obtain ⟨hstatus, hcls, hsregs⟩ := raiseEntry_parks (e := e) hq' hpark
    refine ⟨hstatus, hcls, (congrArg State.mem (raiseEntry_frame s q.id e) :), hsregs, fun hstall => ?_, fun hstall => ?_⟩
    · have h := raiseEntry_stalled hq' hpark hstall
      refine ⟨h.pc, fun x hx => ?_⟩
      rw [h.sq] at hx
      simpa using (List.mem_filter.1 hx).2
    · have h := raiseEntry_passed hq' hpark hstall
      exact ⟨h.pc, e, by rw [h.sq]; exact List.mem_of_find?_eq_some he, rfl⟩
  case idle =>
    refine gives_of_eq hexec ((if_neg (ne_true_of_eq_false hsound)).trans (if_neg ?_)) rfl
    rw [Bool.and_eq_true, Bool.and_eq_true, Bool.not_eq_true', Bool.not_eq_true']
    rintro ⟨⟨hleave, hbars⟩, hholds⟩
    rcases hnot with h | h | h
    · exact nomatch h.symm.trans hleave
    · exact nomatch h.symm.trans hbars
    · exact nomatch h.symm.trans hholds
  case general => exact gives_of_eq hexec ((if_neg (ne_true_of_eq_false hsound)).trans (if_pos (by rw [hleave, hbars, hholds]; rfl))) rfl
  case merged =>
    have hwatched : s.watched (p.pa / 128) = false := by
      rw [State.refusesDirty, Bool.or_eq_false_iff] at hrefuses
      exact hrefuses.1
    obtain ⟨tl, hperform⟩ := performEntry_store hperf hbody hdirty hwatched
    let s0 : State := { s with tlb := tl }
    let u := s0.merge q.core (cacheIdOf (s0.partOf q) q.core p.cc) p bs
    have hmerge := performStore_merged (s := s0) (bs := bs) hq' hscope hrefuses hready
    obtain ⟨f, errs, hf, hsettled, hperformed, -⟩ := entryDone_performed (u := u) hperf hq (.of_eq rfl) hperf.quiet.1 0 false
    have hframe := seenByCore_frame u (f q) e
    refine gives_of_eq (performs_step hq hperf) ((congrArg State.settleAll (hperform.trans hmerge)).trans hsettled) ⟨hperformed, ?_⟩
    refine ⟨(congrArg State.mem hframe :), fun a => ?_, fun c hc => ?_, ?_⟩
    · exact ((seenByCore_sameDirty u (f q) e).dirtyAt q.core a).trans (dirtyAt_merge (s := s0) hcore _ p bs a)
    · refine (seenByCore_core_of_ne u (f q) hbody (by rwa [hf.core])).trans ?_
      exact (State.core_updCore ..).trans (if_neg fun h => hc h.1)
    · have hheld : (p.pa / 128, q.core) ∈ u.dirtyHolders := mem_addNew_self _ _
      exact (congrArg State.dirtyHolders hframe :).symm ▸ hheld
  case stored =>
    obtain ⟨tl, hperform⟩ := performEntry_store hperf hbody hdirty (hfree.watched _)
    let s0 : State := { s with tlb := tl }
    have hfree0 : HomesFree s0 := ⟨hfree.tacks, hfree.sharers, hfree.held, hfree.asks, hfree.copies, hfree.accept⟩
    have hrec : s0.recordCore (.entry q.id e.id) = none :=
      recordCore_plain (s := s0) hq' (by rw [heid]; exact he) hperf.plain.1
    obtain ⟨u, hdone, hroused, hasks, hmem, hclean⟩ := store_applied (s := s0) (id := e.id) hq' hrec hfree0 hline hsome
    have hstore : s.performEntry q e = u.entryDone q.id e.id 0 false :=
      hperform.trans ((performStore_home (s := s0) hq' hscope hfree.copies).trans hdone)
    obtain ⟨f, errs, -, hsettled, hperformed, -⟩ := entryDone_performed (u := u) hperf hq (.trans (.of_eq (t := s0) rfl) hroused)
      (hasks.trans hfree.asks) 0 false
    have hend := hclean.of_sameDirty (seenByCore_sameDirty u (f q) e)
    refine gives_of_eq (performs_step hq hperf) ((congrArg State.settleAll hstore).trans hsettled) ⟨hperformed, fun a => ?_, fun a h1 h2 => ⟨?_, ?_⟩⟩
    · exact (congrArg (cellGet (w := 8) · a) (congrArg State.mem (seenByCore_frame u (f q) e) :)).trans (hmem a)
    · exact dirtyAt_eq_none.2 fun d hd hpa => hend.l1 d hd (by rw [hpa]; exact ⟨h1, h2⟩)
    · exact cacheDirty_eq_none.2 fun k hk d hd hc hpa => hend.caches k hk d hd hc (by rw [hpa]; exact ⟨h1, h2⟩)
  case atomics =>
    intro p fn x c d hbody hperf hfree hdirty wide n old hline hlen
    refine ⟨fun hgood => ?_, fun i hi hbad hscalar hpark => ?_⟩
    · obtain ⟨tl, happly⟩ := performEntry_atomic hperf hbody hfree hdirty fun i hi => (hgood i (hlen ▸ hi)).1
      let s0 : State := { s with tlb := tl }
      let word := toLe n (atomNew fn (8 * n) old (atomArg fn (8 * n) x.toNat) (c.toNat % 2 ^ (8 * n)))
      have hfree0 : HomesFree s0 := ⟨hfree.tacks, hfree.sharers, hfree.held, hfree.asks, hfree.copies, hfree.accept⟩
      have hrec : s0.recordCore (.entry q.id e.id) = none :=
        recordCore_plain (s := s0) hq' (by rw [heid]; exact he) hperf.plain.1
      have hdone : s.performEntry q e = (s0.writeMem (cellsFrom p.pa word)).entryDone q.id e.id old wide :=
        happly.trans (atomic_applied (s := s0) hq' hrec hfree0 hgood)
      have hasks : (s0.writeMem (cellsFrom p.pa word)).asks = [] := (hfree0.writeMem _).asks
      obtain ⟨f, errs, -, hsettled, hperformed, hthere⟩ := entryDone_performed (u := s0.writeMem (cellsFrom p.pa word)) hperf hq
        (.trans (.of_eq (t := s0) rfl) (.writeMem s0 _)) hasks old wide
      have hmem := (congrArg State.mem (seenByCore_frame (s0.writeMem (cellsFrom p.pa word)) (f q) e) :).trans
        (writeMem_cellsFrom_mem s0 p.pa word)
      have hword : word.length = n := length_toLe ..
      refine gives_of_eq (performs_step hq hperf) ((congrArg State.settleAll hdone).trans hsettled) ⟨hperformed, ?_, ?_, fun a ha => ?_⟩
      · rw [hthere]
        exact leave_oldIn _ hbody wide old
      · have hread := readBytes_writeBytes_same s0.mem p.pa word
        rw [hword] at hread
        exact (congrArg (readBytes · p.pa n) hmem).trans hread
      · exact (congrArg (cellGet (w := 8) · a) hmem).trans (cellGet_writeBytes_outside _ _ _ _ (by rwa [hword]))
    · have hperform : s.performEntry q e = (s.failEntry q.id e.id).raiseEntry q.id e := performEntry_bad hperf hbody hfree hscalar
        ⟨i, hlen ▸ hi, hbad⟩
      let u := s.failEntry q.id e.id
      let failed (q : Party) : Party :=
        { q with sq := updAll (fun x => decide (x.id = e.id)) (fun x => { x with held := true, req := some (x.req.getD 0) }) q.sq }
      have hkeeps : KeepsId failed := fun _ => rfl
      have hthere : u.party? q.id = some (failed q) := by
        show (s.updParty q.id failed).party? q.id = _
        rw [State.party?_updParty _ _ _ _ hkeeps, hq']
        simp
      have hframe := raiseEntry_frame u q.id e
      have hacqs := raiseEntry_acqs (s := u) q.id e (acqs_updParty (s := s) (fun _ hx => hx) hperf.quiet.2)
      obtain ⟨hstatus, hcls, hsregs⟩ := raiseEntry_parks (s := u) (q := failed q) (e := e) hthere hpark
      exact gives_of_eq (performs_step hq hperf) ((congrArg State.settleAll hperform).trans
        (settleAll_of_quiet ((congrArg State.asks hframe :).trans hperf.quiet.1) hacqs)) ⟨hstatus, hcls, (congrArg State.mem hframe :), hsregs⟩
  case push =>
    let u := s.updBank cl b fun k => { k with entries := k.entries ++ [bs] }
    have hperform : s.performEntry q e = u.entryDone q.id e.id 0 false := by
      have hgoes : ¬((s.bank cl b).mode ≠ .fifo ∨ some (s.bank cl b).owner ≠ s.partOf q ∨ (s.bank cl b).entrySize ≠ bs.length) := by
        simp [hmode, howner, hsize]
      simp only [State.performEntry, hbody, hgoes, hroom.not_ge, if_false]
      rfl
    obtain ⟨f, errs, -, hdone, hperformed, -⟩ := entryDone_performed (u := u) hperf hq (.of_eq rfl) hperf.quiet.1 0 false
    have hframe := seenByCore_frame u (f q) e
    refine gives_of_eq (performs_step hq hperf) ((congrArg State.settleAll hperform).trans hdone)
      ⟨hperformed, (congrArg State.mem hframe :), ?_⟩
    refine (congrArg (·.getD (cl * 64 + b) Bank.blank) (congrArg State.banks hframe :)).trans ?_
    simp [u, State.updBank, State.bank, List.getD_eq_getElem?_getD, hbank]
  case remote =>
    have hframe := send_frame s d (.store a bs)
    have hquiet := hperf.quiet
    obtain ⟨hrelease, -⟩ := hperf.plain
    let marked (q : Party) : Party := { q with sq := updAll (fun x => decide (x.id = e.id)) (fun x => { x with req := some (s.nextSeq d) }) q.sq }
    have hmarks : KeepsId marked := fun _ => rfl
    have hperform : s.performEntry q e = (s.send d (.store a bs)).updParty q.id marked := by
      simp only [State.performEntry, hbody, State.sendEntry, State.afterSteps, hrelease, Bool.not_false, Bool.true_or, if_true]
      rfl
    have hsettle : ((s.send d (.store a bs)).updParty q.id marked).settleAll = (s.send d (.store a bs)).updParty q.id marked :=
      settleAll_of_quiet ((congrArg State.asks hframe :).trans hquiet.1) (acqs_updParty (fun _ hx => hx)
        ((congrArg State.parties hframe :) ▸ hquiet.2))
    refine gives_of_eq (performs_step hq hperf) ((congrArg State.settleAll hperform).trans hsettle)
      ⟨send_sent .., (congrArg State.mem hframe :), ?_⟩
    have hthere : (s.send d (.store a bs)).party? q.id = some q := by
      rw [State.party?, show (s.send d (.store a bs)).parties = s.parties from (congrArg State.parties hframe :)]
      exact hq'
    rw [State.party_updParty_of_party? hthere hmarks]
    simp [marked, updAll]

end Sys2Proof.Machine
end

section
/-!
SUPPORT. The CLU family (R191 to R193): what CJOIN, CLEAVE and CQUERY answer.
-/

namespace Sys2Proof.Machine

/-- An instruction of the lane side of a compute core goes on where a group acts. -/
theorem laneOnly_group {s : State} (h : s.actor.isSteward = false) (k : Out) : s.laneOnly k = k := by
  simp [State.laneOnly, h]

theorem firstBelow_eq_some {n m : Nat} {c : Nat → Bool} (hm : m < n) (hc : c m = true) (hlow : ∀ k, k < m → c k = false) :
    firstBelow n c = some m := by
  rw [firstBelow, List.find?_range_eq_some]
  exact ⟨hc, List.mem_range.2 hm, fun k hk => by simp [hlow k hk]⟩

theorem firstBelow_eq_none {n : Nat} {c : Nat → Bool} (h : ∀ k, k < n → c k = false) : firstBelow n c = none := by
  rw [firstBelow, List.find?_eq_none]
  exact fun k hk => by simp [h k (List.mem_range.1 hk)]

section Clu

variable {s : State} {w : Workgroup} {d a : BitVec 6} (hgroup : s.actor.isSteward = false) (hwg : s.wgOf s.actor = some w)

/-- The lowest free member of a sharing group of the workgroup's cluster (R191). -/
def State.freeMember (s : State) (w : Workgroup) (g : Nat) : Option Nat :=
  firstBelow 4 fun m => !s.memberMapped w.part (clusterOfCore w.core) g m

include hgroup

/-- R191. A group number above 15. -/
theorem gives_cjoin_illegal (h : Ready s [d] [a]) (hg : 16 ≤ (s.rd a).toNat) : Gives (.cjoin d a) s (Trapped s · .illegal) := by
  refine ⟨s.trap .illegal, ?_, trapped_trap h.here .illegal⟩
  show execCjoin d a s = _
  rw [execCjoin, laneOnly_group hgroup, scalar_ready h]
  simp only [if_pos hg]

include hwg

/-- R191. A member joins no second group, and its own again under the number that it has. -/
theorem exec_cjoin_member (h : Ready s [d] [a]) (hg : (s.rd a).toNat < 16) {c k m : Nat} (hs : w.sharing = some (c, k, m)) :
    exec (.cjoin d a) s = .next (if k = (s.rd a).toNat then s.alu d (dw m) else s.trap .cluster) := by
  show execCjoin d a s = _
  rw [execCjoin, laneOnly_group hgroup, scalar_ready h]
  simp only [if_neg (Nat.not_le.2 hg), hwg, hs]

/-- R191. Else it takes the lowest number that is free in its cluster. -/
theorem exec_cjoin_free (h : Ready s [d] [a]) (hg : (s.rd a).toNat < 16) (hs : w.sharing = none) {m : Nat}
    (hm : s.freeMember w (s.rd a).toNat = some m) :
    exec (.cjoin d a) s = .next
      ((s.updWg w.part w.id fun w' => { w' with sharing := some (clusterOfCore w.core, (s.rd a).toNat, m) }).alu d (dw m)) := by
  show execCjoin d a s = _
  rw [State.freeMember] at hm
  rw [execCjoin, laneOnly_group hgroup, scalar_ready h]
  simp only [if_neg (Nat.not_le.2 hg), hwg, hs, hm]

theorem exec_cjoin_full (h : Ready s [d] [a]) (hg : (s.rd a).toNat < 16) (hs : w.sharing = none)
    (hm : s.freeMember w (s.rd a).toNat = none) : exec (.cjoin d a) s = .next (s.alu d (BitVec.allOnes 64)) := by
  show execCjoin d a s = _
  rw [State.freeMember] at hm
  rw [execCjoin, laneOnly_group hgroup, scalar_ready h]
  simp only [if_neg (Nat.not_le.2 hg), hwg, hs, hm]

theorem exec_cleave : exec .cleave s = .next (s.leave w.part w.id).adv := by
  show execCleave s = _
  rw [execCleave, laneOnly_group hgroup, hwg]

theorem exec_cquery_alone (h : Ready s [d] []) (hs : w.sharing = none) : exec (.cquery d) s = .next (s.alu d 0) := by
  show execCquery d s = _
  rw [execCquery, laneOnly_group hgroup, scalar_ready h]
  simp only [hwg, hs]

/-- R193. The members that are mapped, one bit for each. -/
theorem exec_cquery_member (h : Ready s [d] []) {cl g m : Nat} (hs : w.sharing = some (cl, g, m)) :
    let bit (i : Nat) : Nat := if s.memberMapped w.part cl g i then 2 ^ i else 0
    exec (.cquery d) s = .next (s.alu d (dw (g * 256 + 64 + m * 16 + (bit 0 + bit 1 + bit 2 + bit 3)))) := by
  intro bit
  have hbit (i : Nat) : (s.memberMapped w.part cl g i).toNat * 2 ^ i = bit i := by
    cases hi : s.memberMapped w.part cl g i <;> simp [bit, hi]
  show execCquery d s = _
  rw [execCquery, laneOnly_group hgroup, scalar_ready h]
  simp only [hwg, hs, hbit, Nat.reducePow]
  rw [show (List.range 4).foldl (fun n i => n + bit i) 0 = 0 + bit 0 + bit 1 + bit 2 + bit 3 from rfl, Nat.zero_add]

end Clu

/-- Settles O26: by the checks of each instruction; the free member is the lowest that nobody has. -/
theorem sharingGroups : Obligations.SharingGroups := by
  intro s w hgroup hwg share
  refine ⟨fun d a h => ?cjoin, fun h => ?cleave, fun d h => ?cquery⟩
  case cjoin =>
    have hhere : s.here := h.here
    refine ⟨gives_cjoin_illegal hgroup h, fun hg c k m hs => ⟨fun hk => ?own, fun hk => ?other⟩,
      fun hg hs => ⟨fun m hm hfree hlow => ?joins, fun hall => ?full⟩⟩
    case own => exact ⟨_, (exec_cjoin_member hgroup hwg h hg hs).trans (congrArg _ (if_pos hk)), wrote_alu hhere d _⟩
    case other => exact ⟨_, (exec_cjoin_member hgroup hwg h hg hs).trans (congrArg _ (if_neg hk)), trapped_trap hhere _⟩
    case joins =>
      have hfirst : s.freeMember w (s.rd a).toNat = some m :=
        firstBelow_eq_some hm (by simp [hfree]) fun k hk => by simp [hlow k hk]
      exact ⟨_, exec_cjoin_free hgroup hwg h hg hs hfirst, wrote_alu (s := share _) hhere d _⟩
    case full =>
      have hnone : s.freeMember w (s.rd a).toNat = none := firstBelow_eq_none fun k hk => by simp [hall k hk]
      exact ⟨_, exec_cjoin_full hgroup hwg h hg hs hnone, wrote_alu hhere d _⟩
  case cleave => exact ⟨_, exec_cleave hgroup hwg, became_upd (s := share none) h.here _ fun _ => rfl⟩
  case cquery =>
    exact ⟨fun hs => ⟨_, exec_cquery_alone hgroup hwg h hs, wrote_alu h.here d 0⟩,
      fun cl g m hs => ⟨_, exec_cquery_member hgroup hwg h hs, wrote_alu h.here d _⟩⟩

end Sys2Proof.Machine
end

section
/-!
SUPPORT. Loads (R146, R172): no read at any level changes who there is, and what a load reads where nothing nearer holds the bytes.
-/

namespace Sys2Proof.Machine

/-! ## Who there is after a read -/

theorem sameWho_recallAll (s : State) (line : Nat) : SameWho s (s.recallAll line) := (sameWho_recall s line).trans (.of_eq rfl rfl)

theorem sameWho_dieRead (s : State) (die line : Nat) (forward : Bool) : SameWho s (s.dieRead die line forward) := by
  have huse : SameWho s ((if s.badDirty line then s.recall line else s).useFilter line) := by
    refine SameWho.trans ?_ (sameWho_useFilter _ line)
    split
    · exact sameWho_recall s line
    · exact .refl s
  unfold State.dieRead
  split
  · exact .refl s
  · dsimp only
    generalize (if s.badDirty line then s.recall line else s).useFilter line = s0 at huse
    cases (s0.holders line).find? DieCopy.isDirty with
    | none => exact (huse.trans (sameWho_recallAll s0 line)).trans (.of_eq rfl rfl)
    | some c =>
      cases forward with
      | false => exact (huse.trans (sameWho_recallAll s0 line)).trans (.of_eq rfl rfl)
      | true => exact huse.trans (.of_eq rfl rfl)

theorem sameWho_l2Read (s : State) (die pa n : Nat) : SameWho s (s.l2Read die pa n).1 := by
  have hread := sameWho_dieRead s die (pa / 128) false
  unfold State.l2Read
  dsimp only
  split
  · exact sameWho_homeRead s pa n
  · split
    · exact .refl s
    · split
      · exact sameWho_homeRead s pa n
      · split
        · exact hread
        · exact hread.trans (sameWho_homeRead _ pa n)

theorem sameWho_l2Lines (die : Nat) (l : List (Nat × Nat)) : ∀ s : State, SameWho s (s.l2Lines die l).1 := by
  induction l with
  | nil => exact SameWho.refl
  | cons x r ih => exact fun s => (sameWho_l2Read s die x.1 x.2).trans (ih _)

theorem sameWho_fillCache (s : State) (i : CacheId) (die pa : Nat) : SameWho s (s.fillCache i die pa) := by
  unfold State.fillCache
  split
  · exact .refl s
  · exact (sameWho_l2Lines die _ s).trans (.of_eq rfl rfl)

theorem sameWho_loadBase (s : State) (core : Nat) (part : Option Nat) (scope : Scope) (acq : Bool) (p : Piece) :
    SameWho s (s.loadBase core part scope acq p).1 := by
  have hhome := sameWho_homeRead s p.pa p.len
  have hl2 := sameWho_l2Read s (dieOfCore core) p.pa p.len
  unfold State.loadBase
  dsimp only
  split
  · exact hhome
  · cases scope <;> dsimp only
    case group | core =>
      split
      · exact .refl s
      · split
        · split
          · exact .refl s
          · exact hl2
        · exact hl2
    case cluster =>
      split
      · split
        · exact .refl s
        · exact (sameWho_fillCache s _ _ _).trans (sameWho_l2Read _ _ _ _)
      · exact hl2
    case device =>
      split
      · exact hhome
      · exact hl2
    case fabric | pdevice => exact hhome

theorem sameWho_loadPiece (s : State) (q : Party) (part : Option Nat) (scope : Scope) (acq : Bool) (op : Option Nat) (p : Piece) :
    SameWho s (s.loadPiece q part scope acq op p).1 := sameWho_loadBase s q.core part scope acq p

/-! ## Bytes that nothing nearer holds -/

section FromHome

variable {s : State} {core : Nat} {p : Piece} (hcopies : s.dieCopies = []) (hcaches : s.caches = [])
include hcopies

theorem homeBad_of_no_copies (pa : Nat) : s.homeBad pa = decide (ErrSite.mem pa ∈ s.errors) := by
  simp [State.homeBad, State.holders, hcopies]

theorem l2Bad_of_no_copies (die pa : Nat) : s.l2Bad die pa = decide (ErrSite.mem pa ∈ s.errors) := by
  simp [State.l2Bad, homeBad_of_no_copies hcopies, dieCopy?_of_no_copies hcopies]

include hcaches

/-- R146. No copy of the core, no cache and no die stands before memory. -/
theorem loadBase_from_home (hclean : (s.core core).clean = []) (hdie : homeDie p.pa = dieOfCore core) (part : Option Nat)
    (scope : Scope) (acq : Bool) : s.loadBase core part scope acq p = (s, readBytes s.mem p.pa p.len) := by
  have hcid (i : Option CacheId) : (i.bind fun i => (s.cache? i).map fun c => (i, c)) = none := by
    cases i <;> simp [State.cache?, hcaches]
  have hhome := homeRead_of_no_copies hcopies p.pa p.len
  have hl2 := l2Read_at_home (pa := p.pa) hdie hcopies p.len
  unfold State.loadBase
  simp only [hcid, hclean, hhome, hl2, List.find?_nil, ite_self]
  cases scope <;> simp only [ite_self]

/-- R302. An error is met in the bytes that are read, or anywhere in a marked line. -/
theorem loadBad_from_home (hclean : (s.core core).clean = []) (hdirty : (s.core core).dirty = []) {pa : Nat}
    (hsound : ∀ a, a / 128 = pa / 128 → a = pa ∨ s.marked (pa / 128) = true → ErrSite.mem a ∉ s.errors) (part : Option Nat)
    (scope : Scope) (acq : Bool) (cc : Nat) : s.loadBad core part scope acq cc pa = false := by
  have hcid (i : Option CacheId) : (i.bind fun i => (s.cache? i).map fun c => (i, c)) = none := by
    cases i <;> simp [State.cache?, hcaches]
  have hown : s.ownDirty core pa = false := by simp [State.ownDirty, State.cacheDirty, hdirty, hcaches]
  have hpa : ErrSite.mem pa ∉ s.errors := hsound pa rfl (.inl rfl)
  have hline (hm : s.marked (pa / 128) = true) : s.lineBad pa = false := by
    rw [State.lineBad, if_pos hm, List.any_eq_false]
    intro i hi
    rw [List.mem_range] at hi
    have := hsound (pa / 128 * 128 + i) (by omega) (.inr hm)
    simp [homeBad_of_no_copies hcopies, this]
  unfold State.loadBad
  simp only [hcid, hown, hclean, l2Bad_of_no_copies hcopies, homeBad_of_no_copies hcopies, hpa, Bool.false_eq_true, if_false,
    decide_false, Bool.and_false]
  split
  · exact hline ‹_›
  · cases scope <;> simp only [ite_self]

end FromHome

/-- R146. What a load reads where nothing nearer holds the bytes: memory's own. -/
theorem loadPiece_from_home {s : State} {q : Party} {p : Piece} (hcopies : s.dieCopies = []) (hcaches : s.caches = []) (hsq : q.sq = [])
    (hclean : (s.core q.core).clean = []) (hdirty : (s.core q.core).dirty = []) (hdie : homeDie p.pa = dieOfCore q.core)
    (hline : p.pa % 128 + p.len ≤ 128)
    (hsound : ∀ a, a / 128 = p.pa / 128 → (p.pa ≤ a ∧ a < p.pa + p.len) ∨ s.marked (p.pa / 128) = true →
      ErrSite.mem a ∉ s.errors)
    (part : Option Nat) (scope : Scope) (acq : Bool) (op : Option Nat) :
    s.loadPiece q part scope acq op p = (s, readBytes s.mem p.pa p.len, false) := by
  have hqueue (a : Nat) : q.sqByte op a = none := by simp [Party.sqByte, hsq]
  have hsame (bs : List Byte) : (bs.mapIdx fun _ b => b) = bs := List.ext_getElem (by simp) (by simp)
  have hown (bs : List Byte) : s.ownOverlay q.core p.pa bs = bs := by
    simp only [State.ownOverlay, Core.overlay, State.cacheDirty, hdirty, hcaches, List.find?_nil, List.findSome?_nil, Option.map_none,
      Option.getD_none, hsame]
  have hbad (i : Nat) (hi : i < p.len) : s.loadBad q.core part scope acq p.cc (p.pa + i) = false := by
    have hl : (p.pa + i) / 128 = p.pa / 128 := by omega
    refine loadBad_from_home hcopies hcaches hclean hdirty (fun a ha hcase => hsound a (ha.trans hl) ?_) part scope acq p.cc
    rw [hl] at hcase
    exact hcase.imp_left fun h => by omega
  have hany : ((List.range p.len).any fun i =>
      (q.sqByte op (p.pa + i)).isNone && s.loadBad q.core part scope acq p.cc (p.pa + i)) = false := by
    rw [List.any_eq_false]
    intro i hi
    simp [hbad i (List.mem_range.1 hi)]
  unfold State.loadPiece
  simp only [loadBase_from_home hcopies hcaches hclean hdie, hown, hany]
  simp only [hqueue, Option.getD_none, hsame]

end Sys2Proof.Machine
end

section
/-!
SUPPORT. Scalar loads, and the checks of scalar accesses (R170 to R174): what each piece of a load leaves, and what a failed check does.
-/

namespace Sys2Proof.Machine

/-! ## A load performs its next piece (R172, R326) -/

section LoadNext

variable {s s1 : State} {d : BitVec 6} {z va : Nat} {scope : Scope} {acq : Bool} {got bs : List Byte} {p : Piece} {r : List Piece}

theorem keepsId_afterPiece (va : Nat) (p : Piece) (h : Option (List Piece × List Byte)) :
    KeepsId fun q => { q with loaded := addNew (p.pa / 128, va) q.loaded, half := h } := fun _ => rfl

section Performed

variable (haccepted : s.loadHolds s.me.core (s.partOf s.me) scope acq p = false)
  (hpiece : s.loadPiece s.me (s.partOf s.me) scope acq none p = (s1, bs, false))
include haccepted hpiece

/-- The last piece of a plain load: the register takes the value. -/
theorem loadNext_last (hacq : acq = false) :
    s.loadNext d z va scope acq got [p] = (afterPiece s1 va p none).alu d (loadExtend z (got ++ bs)) := by
  subst hacq
  simp only [State.loadNext, haccepted, hpiece, Bool.false_eq_true, if_false]
  rfl

/-- The last piece of an acquiring load: the register waits for the acquire. -/
theorem loadNext_acquires (hacq : acq = true) :
    s.loadNext d z va scope acq got [p] = (afterPiece s1 va p none).acquire (afterPiece s1 va p none).actor
    scope [(p.pa / 128, va)] (.load d.toNat va z [p] (loadExtend z (got ++ bs))) := by
  subst hacq
  simp only [State.loadNext, haccepted, hpiece, Bool.false_eq_true, if_false]
  rfl

/-- A piece with others to follow: the load keeps what it has read. -/
theorem loadNext_more (hr : r ≠ []) : s.loadNext d z va scope acq got (p :: r) = afterPiece s1 va p (some (r, got ++ bs)) := by
  obtain ⟨x, l, rfl⟩ := List.exists_cons_of_ne_nil hr
  simp only [State.loadNext, haccepted, hpiece, Bool.false_eq_true, if_false]
  rfl

end Performed

end LoadNext

section ScalarLoad

variable {s s1 : State} {d : BitVec 6} {z va : Nat} {scope : Scope} {acq : Bool} (hacq : s.me.acquireBehind = false)
include hacq

/-- A load that is part of the way through goes on. -/
theorem scalarLoad_half {ps : List Piece} {got : List Byte} (hhalf : s.me.half = some (ps, got)) :
    s.scalarLoad d z va scope acq = s.loadNext d z va scope acq got ps := by
  simp only [State.scalarLoad, hacq, hhalf, Bool.false_eq_true, if_false]

/-- A load whose checks pass begins. -/
theorem scalarLoad_begins {x : Xlat} (hhalf : s.me.half = none)
    (h : s.checkAccess s.me va (sizeBytes z) .read acq false = (s1, .ok x)) (hpend : s.me.atomicPending x.pieces = false) :
    s.scalarLoad d z va scope acq = s1.loadNext d z va scope acq [] x.pieces := by
  simp only [State.scalarLoad, hacq, hhalf, h, hpend, Bool.false_eq_true, if_false]

theorem scalarLoad_refused {c : FaultClass} {a2 : Nat} {rp : Bool} (hhalf : s.me.half = none)
    (h : s.checkAccess s.me va (sizeBytes z) .read acq false = (s1, .fault c a2 rp)) :
    s.scalarLoad d z va scope acq = s1.accessFault va c a2 rp := by
  simp only [State.scalarLoad, hacq, hhalf, h, Bool.false_eq_true, if_false]

end ScalarLoad

section Forms

variable {s : State} {d a : BitVec 6}

theorem exec_ld (h : Ready s [d] [a]) (z : BitVec 3) (i : BitVec 11) :
    exec (.ld d a z i) s = .next (s.scalarLoad d z.toNat (s.rd a + i.signExtend 64).toNat .core false) :=
  scalar_ready h fun s => s.scalarLoad d z.toNat (s.plainAddr a i) .core false

theorem exec_lda (h : Ready s [d] [a]) (z sc : BitVec 3) (i : BitVec 8) : exec (.lda d a z sc i) s =
    .next (s.scalarLoad d z.toNat (s.rd a + i.signExtend 64 * BitVec.ofNat 64 (sizeBytes z.toNat)).toNat (scopeOf sc.toNat) true) :=
  scalar_ready h fun s => s.scalarLoad d z.toNat (s.orderedAddr a z i) (scopeOf sc.toNat) true

theorem exec_st (h : Ready s [] [d, a]) (z : BitVec 3) (i : BitVec 11) :
    exec (.st d a z i) s = .next (s.scalarStore (s.rd d) z.toNat (s.rd a + i.signExtend 64).toNat .core false) :=
  scalar_ready h fun s => s.scalarStore (s.rd d) z.toNat (s.plainAddr a i) .core false

theorem exec_stl (h : Ready s [] [d, a]) (z sc : BitVec 3) (i : BitVec 8) : exec (.stl d a z sc i) s =
    .next (s.scalarStore (s.rd d) z.toNat (s.rd a + i.signExtend 64 * BitVec.ofNat 64 (sizeBytes z.toNat)).toNat (scopeOf sc.toNat) true) :=
  scalar_ready h fun s => s.scalarStore (s.rd d) z.toNat (s.orderedAddr a z i) (scopeOf sc.toNat) true

end Forms

/-! ## A failed check (R171) -/

theorem scalarStore_refused {s s1 : State} {v : DWord} {z va : Nat} {scope : Scope} {rel : Bool} {c : FaultClass} {a2 : Nat} {rp : Bool}
    (hfree : StoreFree s) (h : s.checkAccess s.me va (sizeBytes z) .write rel true = (s1, .fault c a2 rp)) :
    s.scalarStore v z va scope rel = s1.accessFault va c a2 rp := by
  obtain ⟨hacq, hloads⟩ := hfree
  simp only [State.scalarStore, hacq, hloads, h, Bool.or_false, Bool.false_eq_true, if_false]

/-- An ordered access that is not aligned fails its first check. -/
theorem checkAccess_misaligned (s : State) (q : Party) {va n : Nat} (k : Access) (stores : Bool) (h : va % n ≠ 0) :
    s.checkAccess q va n k true stores = (s, .fault .alignment 0 false) := by
  rw [State.checkAccess, if_pos ⟨rfl, h⟩]

theorem trapped_accessFault {s : State} (h : s.here) (va : Nat) (c : FaultClass) (a2 : Nat) (rp : Bool) :
    Trapped s (s.accessFault va c a2 rp) c := trapped_fault h c _ _

theorem accessFault_addr (s : State) (va : Nat) (c : FaultClass) (a2 : Nat) (rp : Bool) :
    ((s.accessFault va c a2 rp).records.getLast?.map fun r => r.body.addr.toNat) = some (va % 2 ^ 64) := by
  rw [State.accessFault, fault_records_getLast?]
  exact congrArg some (BitVec.toNat_ofNat va 64)

/-! ## The claims -/

/-- Settles O9: what an instruction does is `State.loadNext`, one piece of which each clause names; memory's own bytes are read at the
home slice, where nothing nearer holds them. -/
theorem scalarLoads : Obligations.ScalarLoads := by
  refine ⟨?pieces, fun s q part scope acq op p hcopies hcaches hsq hclean hdirty hdie hline hsound =>
    loadPiece_from_home hcopies hcaches hsq hclean hdirty hdie hline hsound part scope acq op⟩
  intro s d a z hready hacq loads
  have hloads {i : Instr} {va : Nat} {scope : Scope} {acq : Bool}
      (hgo : exec i s = .next (s.scalarLoad d z.toNat va scope acq)) : loads i va scope acq := by
    have hperforms {u : State} (hwho : SameWho s u) {got : List Byte} {p : Piece} {r : List Piece}
        (hnext : s.scalarLoad d z.toNat va scope acq = u.loadNext d z.toNat va scope acq got (p :: r))
        (haccepted : u.loadHolds u.me.core (u.partOf u.me) scope acq p = false) {u1 : State} {bs : List Byte}
        (hpiece : u.loadPiece u.me (u.partOf u.me) scope acq none p = (u1, bs, false)) :
        let v := loadExtend z.toNat (got ++ bs)
        let last := afterPiece u1 va p none
        (r = [] → acq = false → Gives i s (Wrote last · d v)) ∧
        (r = [] → acq = true →
          Gives i s (· = last.acquire last.actor scope [(p.pa / 128, va)] (.load d.toNat va z.toNat [p] v))) ∧
        (r ≠ [] → Gives i s (· = afterPiece u1 va p (some (r, got ++ bs)))) := by
      rw [hnext] at hgo
      have hread : SameWho u u1 := by
        have := sameWho_loadPiece u u.me (u.partOf u.me) scope acq none p
        rwa [hpiece] at this
      refine ⟨?last, ?acquires, fun hr => ⟨_, hgo, loadNext_more haccepted hpiece hr⟩⟩
      case last =>
        rintro rfl hplain
        rw [loadNext_last haccepted hpiece hplain] at hgo
        exact ⟨_, hgo, wrote_alu (here_upd ((hwho.trans hread).here hready.here) _ (keepsId_afterPiece va p none)) d _⟩
      case acquires =>
        rintro rfl hordered
        exact ⟨_, hgo, loadNext_acquires haccepted hpiece hordered⟩
    exact ⟨fun s1 p r c rw hhalf hcheck hpend haccepted u1 bs hpiece =>
        hperforms (sameWho_checkAccess hcheck) (scalarLoad_begins hacq hhalf hcheck hpend) haccepted hpiece,
      fun p r got hhalf haccepted u1 bs hpiece => hperforms (.refl s) (scalarLoad_half hacq hhalf) haccepted hpiece⟩
  exact ⟨fun i => hloads (exec_ld hready z i), fun sc i => hloads (exec_lda hready z sc i)⟩

/-- Fewer registers are asked for. -/
theorem Ready.mono {s : State} {ds ss ds' ss' : List (BitVec 6)} (h : Ready s ds ss) (hd : ds' ⊆ ds) (hs : ss' ⊆ ss) :
    Ready s ds' ss' where
  here := h.here
  free r hr := h.free r (by
    rcases List.mem_append.1 hr with hr | hr
    · exact List.mem_append_left _ (hd hr)
    · exact List.mem_append_right _ (hs hr))
  sound r hr := h.sound r (hs hr)

/-- An atomic is one meaning, of an operation and a width, whose check comes first. -/
theorem exec_atomicForms (s : State) (d a b : BitVec 6) (sc : BitVec 3) (ar : BitVec 1) :
    ∀ f ∈ atomicForms d a b sc ar ++ casForms d a b sc ar, exec f.1 s = s.amo f.2.1 f.2.2 d a b sc (decide (ar = 1)) := by
  simp only [atomicForms, casForms, List.cons_append, List.nil_append, List.forall_mem_cons, List.not_mem_nil, false_imp_iff,
    implies_true, and_true]
  and_intros <;> rfl

theorem ready_amo {s : State} {d a b : BitVec 6} (h : Ready s [d] [a, b, d]) (fn : AtomFn) :
    Ready s [d] (if fn = .cas then [a, b, d] else [a, b]) := by
  split
  · exact h
  · exact h.mono (List.Subset.refl _) (by simp)

/-- An atomic that fails its checks (R171). -/
theorem amo_refused {s s1 : State} {fn : AtomFn} {wide : Bool} {d a b : BitVec 6} {c : FaultClass} {a2 : Nat} {rp : Bool}
    (h : Ready s [d] (if fn = .cas then [a, b, d] else [a, b])) (hfree : StoreFree s)
    (hcheck : s.checkAccess s.me (s.rd a).toNat (atomSize wide) .write true true = (s1, .fault c a2 rp)) (sc : BitVec 3) (ar : Bool) :
    s.amo fn wide d a b sc ar = .next (s1.accessFault (s.rd a).toNat c a2 rp) := by
  obtain ⟨hacq, hloads⟩ := hfree
  rw [State.amo, scalar_ready h]
  simp only [hacq, hloads, hcheck, Bool.or_false, Bool.false_eq_true, if_false]

/-- Settles O12: a check that fails has the fault taken in the state that its translation leaves; an ordered access checks its alignment
first. -/
theorem accessFaults : Obligations.AccessFaults := by
  intro s s1 d a b z sc ar i j c a2 rp va vo n faults
  have hfaults {q : Party} {at_ m : Nat} {k : Access} {aligned stores : Bool} (hhere : s.here)
      (h : s.checkAccess q at_ m k aligned stores = (s1, .fault c a2 rp)) : faults at_ (s1.accessFault at_ c a2 rp) :=
    ⟨trapped_accessFault ((sameWho_checkAccess h).here hhere) at_ c a2 rp, accessFault_addr s1 at_ c a2 rp⟩
  refine ⟨fun hready hfree => ?loads, fun hready hfree => ?stores, fun hready hfree f hf hmis => ?atomics⟩
  case loads =>
    obtain ⟨hacq, hhalf⟩ := hfree
    refine ⟨fun h => ⟨_, exec_ld hready z i, ?_⟩, fun h => ⟨_, exec_lda hready z sc j, ?_⟩,
      fun h => ⟨_, exec_lda hready z sc j, ?_⟩⟩
    · rw [scalarLoad_refused hacq hhalf h]
      exact hfaults hready.here h
    · rw [scalarLoad_refused hacq hhalf h]
      exact hfaults hready.here h
    · rw [scalarLoad_refused hacq hhalf (checkAccess_misaligned s s.me .read false h)]
      exact trapped_accessFault hready.here ..
  case stores =>
    refine ⟨fun h => ⟨_, exec_st hready z i, ?_⟩, fun h => ⟨_, exec_stl hready z sc j, ?_⟩,
      fun h => ⟨_, exec_stl hready z sc j, ?_⟩⟩
    · rw [scalarStore_refused hfree h]
      exact hfaults hready.here h
    · rw [scalarStore_refused hfree h]
      exact hfaults hready.here h
    · rw [scalarStore_refused hfree (checkAccess_misaligned s s.me .write true h)]
      exact trapped_accessFault hready.here ..
  case atomics =>
    refine ⟨_, (exec_atomicForms s d a b sc ar f hf).trans (amo_refused (ready_amo hready f.2.1) hfree
      (checkAccess_misaligned s s.me .write true hmis) sc _), trapped_accessFault hready.here ..⟩

/-! ## Atomics (R175, R176) -/

/-- What an atomic that enters the queue leaves of its party. -/
def Party.withAtomic (e : SqEntry) (d : BitVec 6) (n : Nat) (stalls : PartyId → Bool) (q : Party) : Party :=
  { q with
    sq := q.sq ++ [{ e with id := n, space := q.spaceid.toNat }]
    pending := if d = 0 then q.pending else q.pending ++ [(d.toNat, n)]
    stallOn := if stalls q.id then q.stallOn ++ [n] else q.stallOn
    pc := q.pc + 4 }

theorem Party.withAtomic_keepsId (e : SqEntry) (d : BitVec 6) (n : Nat) (stalls : PartyId → Bool) :
    KeepsId (Party.withAtomic e d n stalls) :=
  fun _ => rfl

/-- The entry of a scalar atomic before the queue numbers it. -/
def amoEntry (s : State) (fn : AtomFn) (wide : Bool) (d a b : BitVec 6) (sc : BitVec 3) (ar : Bool) (pc : Piece) : SqEntry :=
  ⟨0, (s.rd a).toNat, scopeOf sc.toNat, ar, ar, .atomic pc fn (s.rd b) (s.rd d) (if d = 0 then .none else .sreg d.toNat wide), none, 0,
    none, false, false, 0, false⟩

/-- An atomic whose word passes its checks: its entry is the newest of its party's queue. -/
theorem amo_enters {s s1 : State} {fn : AtomFn} {wide : Bool} {d a b : BitVec 6} {pc : Piece} {c r : Bool}
    (h : Ready s [d] (if fn = .cas then [a, b, d] else [a, b])) (hfree : StoreFree s)
    (hcheck : s.checkAccess s.me (s.rd a).toNat (atomSize wide) .write true true = (s1, .ok ⟨[pc], c, r⟩))
    (hsound : ∀ i, i < atomSize wide → s1.byteBad s.me.core (pc.pa + i) = false) (sc : BitVec 3) (ar : Bool) :
    s.amo fn wide d a b sc ar =
      .next { s1.upd (Party.withAtomic (amoEntry s fn wide d a b sc ar pc) d s1.fresh (fun p => ar || s1.ownTack p [pc])) with
        fresh := s1.fresh + 1 } := by
  obtain ⟨hacq, hloads⟩ := hfree
  have hbytes : ((List.range (atomSize wide)).any fun i => s1.byteBad s.me.core (pc.pa + i)) = false :=
    List.any_eq_false.mpr fun i hi => by simp [hsound i (List.mem_range.mp hi)]
  rw [State.amo, scalar_ready h]
  simp only [hacq, hloads, hcheck, hbytes, Bool.or_false, Bool.false_eq_true, if_false]
  let enters (q : Party) : Party :=
    { q with sq := q.sq ++ [{ amoEntry s fn wide d a b sc ar pc with id := s1.fresh, space := q.spaceid.toNat }] }
  let waits (q : Party) : Party :=
    { q with
      pending := if d = 0 then q.pending else q.pending ++ [(d.toNat, s1.fresh)]
      stallOn := if ar || s1.ownTack q.id [pc] then q.stallOn ++ [s1.fresh] else q.stallOn }
  have henters : KeepsId enters := fun _ => rfl
  have hboth : KeepsId (waits ∘ enters) := fun _ => rfl
  have h1 := State.updParty_updParty s1 s1.actor waits henters
  have h2 := State.updParty_updParty s1 s1.actor (fun q => { q with pc := q.pc + 4 }) hboth
  rw [← h1] at h2
  exact congrArg (fun t : State => (Host.Outcome.next { s1 with parties := t.parties, fresh := s1.fresh + 1 } : Out)) h2

/-- What such an atomic leaves is the entry that the statement names. -/
theorem atomicEntered_withAtomic {s s1 : State} (hhere : s1.here) (d a b : BitVec 6) (sc : BitVec 3) (ar : BitVec 1) (fn : AtomFn)
    (wide : Bool) (pc : Piece) :
    AtomicEntered s s1
      { s1.upd (Party.withAtomic (amoEntry s fn wide d a b sc (decide (ar = 1)) pc) d s1.fresh
          (fun p => decide (ar = 1) || s1.ownTack p [pc])) with fresh := s1.fresh + 1 }
      d a b sc ar fn wide pc := by
  have hkeeps := Party.withAtomic_keepsId (amoEntry s fn wide d a b sc (decide (ar = 1)) pc) d s1.fresh
    fun p => decide (ar = 1) || s1.ownTack p [pc]
  refine ⟨?me, fun p hp => State.party_upd_other s1 _ hkeeps hp, fun _ => rfl, rfl, rfl⟩
  case me =>
    refine (State.me_upd hhere _ hkeeps).trans ?_
    simp only [Party.withAtomic, amoEntry, Bool.or_eq_true, decide_eq_true_eq]

/-- Settles O11: every form enters as the entry of its operation. -/
theorem scalarAtomics : Obligations.ScalarAtomics := by
  intro s s1 d a b sc ar pc hfree hsound word
  have henters {f : Instr × AtomFn × Bool} (hready : Ready s [d] (if f.2.1 = .cas then [a, b, d] else [a, b]))
      (hf : f ∈ atomicForms d a b sc ar ++ casForms d a b sc ar) (hword : word f.2.2) :
      Gives f.1 s fun t => AtomicEntered s s1 t d a b sc ar f.2.1 f.2.2 pc := by
    obtain ⟨c, r, hcheck, hlen⟩ := hword
    have hbytes (i : Nat) (hi : i < atomSize f.2.2) : s1.byteBad s.me.core (pc.pa + i) = false := hsound i (hlen ▸ hi)
    exact ⟨_, (exec_atomicForms s d a b sc ar f hf).trans (amo_enters hready hfree hcheck hbytes sc _),
      atomicEntered_withAtomic ((sameWho_checkAccess hcheck).here hready.here) ..⟩
  refine ⟨fun hready f hf => henters ?_ (List.mem_append_left _ hf), fun hready f hf =>
    henters ?_ (List.mem_append_right _ hf)⟩
  · have hfn : f.2.1 ≠ .cas := (by decide : ∀ g ∈ (atomicForms 0 0 0 0 0).map (·.2.1), g ≠ .cas) _
      (List.mem_map_of_mem (f := (·.2.1)) hf)
    rw [if_neg hfn]
    exact hready
  · have hfn : f.2.1 = .cas := (by decide : ∀ g ∈ (casForms 0 0 0 0 0).map (·.2.1), g = .cas) _
      (List.mem_map_of_mem (f := (·.2.1)) hf)
    rw [if_pos hfn]
    exact hready

end Sys2Proof.Machine
end

section
/-!
SUPPORT. The fences (R177), and an acquire that commands no drain (R152).
-/
namespace Sys2Proof.Machine

/-! ## After the runs -/

theorem afterRuns_idle {s : State} (h : s.me.laneIdle = true) (k : State → Out) : s.afterRuns k = k (synced s) := if_pos h

/-- A change of the acting party after which its stream goes on. -/
theorem upd_adv (s : State) {f : Party → Party} (hf : KeepsId f) : (s.upd f).adv = s.upd fun q => { f q with pc := (f q).pc + 4 } :=
  State.updParty_updParty s s.actor _ hf

/-! ## The fences (R177) -/

/-- A group whose bytes have all left its core has nothing to drain for a release. -/
theorem releaseDrains_of_none_left {s : State} {core : Nat} (h : s.dirtyLeft core (upTo none) = false) (scope : Scope) :
    s.releaseDrains core scope true = s ∧ s.releaseReady core scope true = true := by
  obtain ⟨hl1, hcc⟩ := Bool.or_eq_false_iff.1 h
  have hdirty : (s.core core).dirty = [] := List.eq_nil_iff_forall_not_mem.2 fun d hd => by
    simpa [upTo] using List.any_eq_false.1 hl1 d hd
  have hcaches : s.caches.flatMap (fun c => (c.dirty.filter fun d => decide (d.core = core) && upTo none d.pa d.stamp).map
      fun d => (core, d.pa / 128)) = [] := List.flatMap_eq_nil_iff.2 fun c hc => by
    have hnone := List.any_eq_false.1 ((Bool.not_eq_true _).mp (List.any_eq_false.1 hcc c hc))
    rw [List.filter_eq_nil_iff.2 hnone, List.map_nil]
  have hlines : s.dirtyLines core (upTo none) = [] := by
    rw [State.dirtyLines, hcaches, hdirty]
    rfl
  have hall : s.drainCore core none = s := by rw [State.drainCore, State.drainOwn, hlines, List.foldl_nil]
  have hown : s.drainL1 core (fun _ => true) = s := by rw [State.drainL1, hdirty]; rfl
  unfold State.releaseDrains State.releaseReady
  cases scope.forRelease <;> simp [hall, hown, hdirty, h]

/-- A release's rise of the sequence concerns the core only. -/
theorem bumpFor_who (s : State) (core : Nat) (scope : Scope) :
    (s.bumpFor core scope).actor = s.actor ∧ (s.bumpFor core scope).me = s.me := by
  unfold State.bumpFor
  split <;> exact ⟨rfl, rfl⟩

/-- What a FENCE.REL leaves of its party. -/
def Party.withFence (n : Nat) (scope : Scope) (q : Party) : Party :=
  { q with
    sq := q.sq ++ [⟨n, 0, scope, true, false, .fence, none, 0, none, false, false, q.spaceid.toNat, false⟩]
    pc := q.pc + 4 }

/-- What a FENCE.ENG leaves of its party. -/
def Party.withMark (n : Nat) (q : Party) : Party := { q with engFence := some n, pc := q.pc + 4 }

/-- A state whose acting party goes on and which numbers one entry. -/
theorem entered_upd {s : State} (hhere : s.here) (f : Party → Party) (hf : KeepsId f) :
    Entered s { s.upd f with fresh := s.fresh + 1 } (f s.me) 1 :=
  ⟨State.me_upd hhere f hf, fun _ hp => State.party_upd_other s f hf hp, fun _ => rfl, rfl, rfl⟩

theorem fence_enters (s : State) (scope : Scope) :
    (s.enqueue s.actor ⟨0, 0, scope, true, false, .fence, none, 0, none, false, false, 0, false⟩).adv =
      { s.upd (Party.withFence s.fresh scope) with fresh := s.fresh + 1 } :=
  congrArg (fun t : State => { s with parties := t.parties, fresh := s.fresh + 1 }) (upd_adv s (f := fun q => { q with
    sq := q.sq ++ [⟨s.fresh, 0, scope, true, false, .fence, none, 0, none, false, false, q.spaceid.toNat, false⟩] }) fun _ => rfl)

theorem mark_enters (s : State) :
    (({ s with fresh := s.fresh + 1 } : State).upd fun q => { q with engFence := some s.fresh }).adv =
      { s.upd (Party.withMark s.fresh) with fresh := s.fresh + 1 } :=
  congrArg (fun t : State => { s with parties := t.parties, fresh := s.fresh + 1 })
    (upd_adv s (f := fun q => { q with engFence := some s.fresh }) fun _ => rfl)

/-! ## An acquire without drains (R152) -/

/-- A party with one acquire more. -/
def Party.acquiring (a : Acquire) (q : Party) : Party := { q with acqs := q.acqs ++ [a] }

/-- A party whose acquires are all under completion. -/
def Party.acquiresNone (q : Party) : Party := { q with acqs := [] }

/-- The acting party has no other acquire, and no drain is commanded: the acquire completes at once. -/
theorem acquire_of_no_drains {s : State} {scope : Scope} {lines : List (Nat × Nat)} (hhere : s.here) (hacqs : s.me.acqs = [])
    (hlines : ∀ l ∈ lines, s.drainsFor s.actor s.me.core scope l.1 = []) (hdrains : ∀ c ∈ s.drains, c.acquirer ≠ s.actor)
    (fin : AcquireEnd) :
    s.acquire s.actor scope lines fin = (s.upd Party.acquiresNone).acquireEnd s.actor ⟨scope, fin⟩ := by
  have hkeeps : KeepsId (Party.acquiring ⟨scope, fin⟩) := fun _ => rfl
  have hdead : s.deadDrain s.actor scope lines = none := by
    have hfind : (lines.find? fun l => (s.drainsFor s.actor s.me.core scope l.1).any fun d => (s.core d.core).failed) = none :=
      List.find?_eq_none.2 fun l hl => by rw [hlines l hl]; simp
    exact congrArg (Option.map (·.2)) hfind
  have hbegun : s.beginAcquire s.actor scope lines fin = s.upd (Party.acquiring ⟨scope, fin⟩) := by
    have hcommanded : (lines.flatMap fun l => s.drainsFor s.actor s.me.core scope l.1) = [] := List.flatMap_eq_nil_iff.2 hlines
    show ({ s.upd _ with drains := s.drains ++ ((lines.flatMap fun l => s.drainsFor s.actor s.me.core scope l.1).filter _) } : State) = _
    rw [hcommanded, List.filter_nil, List.append_nil]
    rfl
  have hnone : ((s.upd (Party.acquiring ⟨scope, fin⟩)).drains.any fun d => decide (d.acquirer = s.actor)) = false :=
    List.any_eq_false.2 fun c hc => by simpa using hdrains c hc
  have hme : ((s.upd (Party.acquiring ⟨scope, fin⟩)).party s.actor).acqs = [⟨scope, fin⟩] :=
    (congrArg Party.acqs (State.me_upd hhere _ hkeeps)).trans (by rw [Party.acquiring, hacqs]; rfl)
  have hcleared : (s.upd (Party.acquiring ⟨scope, fin⟩)).updParty s.actor (fun q => { q with acqs := [] }) =
      s.upd Party.acquiresNone := State.updParty_updParty s s.actor _ hkeeps
  rw [State.acquire, hdead]
  dsimp only
  rw [hbegun, State.settleAcquires, hnone, hme, hcleared]
  rfl

/-- What an acquire drops of the core's clean lines and floors does not depend on the parties, and it changes nothing but the cores. -/
theorem acquireNow_updParty (s : State) (p : PartyId) (f : Party → Party) (core : Nat) (scope : Scope) :
    (s.updParty p f).acquireNow core scope = { s.updParty p f with cores := (s.acquireNow core scope).cores } := by
  cases scope <;> rfl

/-- From CLUSTER up an acquire drops the clean lines of its core. -/
theorem clean_acquireNow {s : State} {core : Nat} (hcore : core < s.cores.length) {scope : Scope}
    (hscope : scope = .cluster ∨ scope = .device ∨ scope = .fabric) : ((s.acquireNow core scope).core core).clean = [] := by
  obtain rfl | rfl | rfl := hscope <;>
    · rw [State.acquireNow, State.core_updCore, if_pos ⟨rfl, hcore⟩]

/-- What a scalar load leaves of its party when its acquire completes. -/
def Party.acquired (d : Nat) (v : DWord) (q : Party) : Party :=
  { q.acquiresNone.setSreg d v with pc := q.pc + 4 }

theorem Party.acquired_keepsId (d : Nat) (v : DWord) : KeepsId (Party.acquired d v) := fun q => Party.setSreg_id q.acquiresNone d v

/-- A load whose acquire has completed writes its register and goes on. -/
theorem acquireEnd_load {s : State} (hhere : s.here) {scope : Scope} (hscope : scope ≠ .pdevice) (d va z : Nat) (ps : List Piece)
    (v : DWord) :
    (s.upd Party.acquiresNone).acquireEnd s.actor ⟨scope, .load d va z ps v⟩ =
      { s.upd (Party.acquired d v) with
        cores := (s.acquireNow s.me.core scope).cores
        errors := s.errors.filter fun e => decide (e ≠ .sreg s.actor d) } := by
  have hcore : ((s.upd Party.acquiresNone).party s.actor).core = s.me.core :=
    (congrArg Party.core (State.me_upd hhere Party.acquiresNone fun _ => rfl)).trans rfl
  have hwrites : KeepsId ((fun q => q.setSreg d v) ∘ Party.acquiresNone) := fun q => Party.setSreg_id q.acquiresNone d v
  have hparties : ((((s.upd Party.acquiresNone).updParty s.actor fun q => q.setSreg d v).updParty s.actor fun q =>
      { q with pc := q.pc + 4 })).parties = (s.upd (Party.acquired d v)).parties := by
    have h1 := State.updParty_updParty s s.actor (fun q => q.setSreg d v) (f := Party.acquiresNone) fun _ => rfl
    have h2 := State.updParty_updParty s s.actor (fun q => { q with pc := q.pc + 4 }) hwrites
    rw [← h1] at h2
    refine (congrArg State.parties h2).trans (congrArg (fun f => (s.upd f).parties) (funext fun q => ?_))
    show ({ q.acquiresNone.setSreg d v with pc := (q.acquiresNone.setSreg d v).pc + 4 } : Party) = _
    rw [Party.setSreg_pc]
    rfl
  have hnow : (s.upd Party.acquiresNone).acquireNow s.me.core scope = _ := acquireNow_updParty s s.actor Party.acquiresNone s.me.core scope
  rw [State.acquireEnd]
  dsimp only
  rw [if_neg hscope, hcore, hnow]
  exact congrArg (fun ps => ({ s with
    parties := ps
    cores := (s.acquireNow s.me.core scope).cores
    errors := s.errors.filter fun e => decide (e ≠ .sreg s.actor d) } : State)) hparties

theorem acqs_acquired (d : Nat) (v : DWord) (q : Party) : (Party.acquired d v q).acqs = [] :=
  congrArg (fun p : Party => p.acqs) (Party.setSreg_frame q.acquiresNone d v)

theorem sreg_acquired (d : Nat) (v : DWord) (q : Party) (r : Nat) :
    (Party.acquired d v q).sreg r = if r = d ∧ r ≠ 0 then v else q.sreg r := by
  show (q.acquiresNone.setSreg d v).sreg r = _
  rw [Party.sreg_setSreg]
  refine if_congr (and_congr_right fun h => by rw [h]) rfl rfl

/-- Settles O13: the fences of an idle group go on from what its waiting leaves; an acquire that commands no drain ends at once. -/
theorem fences : Obligations.Fences := by
  refine ⟨fun s sc hhere => ⟨?ifence, fun hidle => ?idle⟩, ?acquire⟩
  case ifence =>
    refine ⟨_, rfl, ?_⟩
    rw [upd_adv s (f := fun q => { q with fetched := [] }) fun _ => rfl]
    exact became_upd hhere _ fun _ => rfl
  case idle =>
    intro s1
    have hhere1 : s1.here := here_synced hhere
    refine ⟨fun hloads hacq => ⟨_, ?acq, rfl⟩, fun hloads =>
      ⟨⟨_, ?rel, entered_upd hhere1 (Party.withFence s1.fresh (scopeOf sc.toNat)) fun _ => rfl⟩,
        ⟨_, ?eng, entered_upd hhere1 (Party.withMark s1.fresh) fun _ => rfl⟩⟩, fun hsettled => ?full⟩
    case acq =>
      show s.fenceAcq (scopeOf sc.toNat) = _
      rw [State.fenceAcq, afterRuns_idle hidle]
      show (if (!s1.me.loads.isEmpty || s1.me.acquireBehind) = true then _ else _) = _
      rw [hloads, hacq]
      rfl
    case rel =>
      show s.fenceRel (scopeOf sc.toNat) = _
      rw [State.fenceRel, afterRuns_idle hidle, if_neg (by rw [hloads]; exact Bool.false_ne_true)]
      exact congrArg _ (fence_enters s1 _)
    case eng =>
      show execFenceEng s = _
      rw [execFenceEng, afterRuns_idle hidle, if_neg (by rw [hloads]; exact Bool.false_ne_true)]
      exact congrArg _ (mark_enters s1)
    case full =>
      intro core acquires drained
      let goesOn (u : State) : State := u.acquire u.actor (scopeOf sc.toNat) u.me.loaded .next
      have hfull : exec (.fenceFull sc) s = .next (s1.afterRelease core (scopeOf sc.toNat) goesOn) := by
        show s.fenceFull (scopeOf sc.toNat) = _
        rw [State.fenceFull, afterRuns_idle hidle, if_neg (by rw [hsettled]; exact Bool.false_ne_true)]
      have hacquires (u : State) : goesOn (u.bumpFor core (scopeOf sc.toNat)) = acquires u := by
        obtain ⟨hactor, hme⟩ := bumpFor_who u core (scopeOf sc.toNat)
        show State.acquire _ (u.bumpFor core (scopeOf sc.toNat)).actor _ (u.bumpFor core (scopeOf sc.toNat)).me.loaded _ = _
        rw [hactor, hme]
      have hready (h : drained.releaseReady core (scopeOf sc.toNat) true = true) : Gives (.fenceFull sc) s (· = acquires drained) :=
        ⟨_, hfull, (if_pos h).trans (hacquires drained)⟩
      refine ⟨fun hleft => ?_, hready, fun h => ⟨_, hfull, if_neg (by rw [h]; exact Bool.false_ne_true)⟩⟩
      obtain ⟨hdrained, hnow⟩ := releaseDrains_of_none_left hleft (scopeOf sc.toNat)
      exact (congrArg acquires hdrained) ▸ hready ((congrArg (State.releaseReady · core (scopeOf sc.toNat) true) hdrained).trans hnow)
  case acquire =>
    intro s scope lines d va z ps v hhere hacqs hscope hcore hlines hdrains t
    have ht : t = _ := (acquire_of_no_drains hhere hacqs hlines hdrains _).trans (acquireEnd_load hhere hscope d va z ps v)
    have hkeeps := Party.acquired_keepsId d v
    have hme : t.me = Party.acquired d v s.me := ht ▸ State.me_upd hhere _ hkeeps
    have hcores : t.cores = (s.acquireNow s.me.core scope).cores := by rw [ht]
    refine ⟨fun r => hme ▸ sreg_acquired d v s.me r, by rw [hme]; rfl, hme ▸ acqs_acquired d v s.me,
      fun p hp => ?_, fun a => by rw [ht]; rfl, fun h => ?_, fun h => ?_⟩
    · rw [ht]; exact State.party_upd_other s _ hkeeps hp
    · have := clean_acquireNow hcore h
      rwa [State.core, ← hcores] at this
    · rw [hcores]
      obtain rfl | rfl := h <;> rfl

end Sys2Proof.Machine
end

section
/-!
SUPPORT. TCOPY at issue (R178 to R183), TPREF and TQUERY (R185, R186).
-/
namespace Sys2Proof.Machine

/-! ## TCOPY (R178 to R183) -/

section Tcopy

variable {s : State} {d a b : BitVec 6}

/-- No FENCE.ENG and no lane acquire holds back an engine command. -/
def EngineFree (s : State) : Prop := s.me.engHeld = false ∧ s.me.acquireBehind = false

theorem exec_tcopy_group (h : Ready s [d] [a, b]) (hgroup : s.actor.isSteward = false) (hfree : EngineFree s) :
    exec (.tcopy d a b) s = .next (s.copyGroup d (s.rd a).toNat (s.rd b)) := by
  obtain ⟨heng, hacq⟩ := hfree
  show execTcopy d a b s = _
  rw [execTcopy, scalar_ready h]
  simp [heng, hacq, hgroup]

theorem exec_tcopy_steward (h : Ready s [d] [a, b]) (hsteward : s.actor.isSteward = true) (hfree : EngineFree s) :
    exec (.tcopy d a b) s = .next (s.copySteward d (s.rd a).toNat (s.rd b)) := by
  obtain ⟨heng, hacq⟩ := hfree
  show execTcopy d a b s = _
  rw [execTcopy, scalar_ready h]
  simp [heng, hacq, hsteward]

/-- A descriptor that is not aligned, of a group and of a steward core (R180). -/
theorem gives_tcopy_misaligned (h : Ready s [d] [a, b]) (hfree : EngineFree s) (hoff : (s.rd a).toNat % 64 ≠ 0) :
    Gives (.tcopy d a b) s (Trapped s · .alignment) := by
  cases hwho : s.actor.isSteward with
  | false => exact ⟨_, (exec_tcopy_group h hwho hfree).trans (congrArg _ (if_pos hoff)), trapped_fault h.here ..⟩
  | true => exact ⟨_, (exec_tcopy_steward h hwho hfree).trans (congrArg _ (if_pos hoff)), trapped_fault h.here ..⟩

/-- A descriptor outside the share of its group (R180). -/
theorem copyGroup_outside {off : Nat} (hoff : off % 64 = 0) (hshare : s.inShare s.actor off 32 = false) (barrier : DWord) :
    s.copyGroup d off barrier = s.trapAt .protection off := by
  have hid : s.me.id = s.actor := State.party_id s s.actor
  simp [State.copyGroup, hid, hoff, hshare]

/-- A group's descriptor stands in its share, and its bytes are the fields `c` in `n` dimensions. -/
structure Described (s : State) (off n : Nat) (c : CopyDesc) : Prop where
  aligned : off % 64 = 0
  header : s.inShare s.actor off 32 = true
  headerSound : s.storeBad 32 (.store s.me.core off) = false
  dims : descDims (s.readPlace 32 (.store s.me.core off)) = some n
  all : s.inShare s.actor off (32 + 24 * n) = true
  sound : s.storeBad (32 + 24 * n) (.store s.me.core off) = false
  fields : CopyDesc.ofBytes (s.readPlace (32 + 24 * n) (.store s.me.core off)) n = some c

theorem copyGroup_described {off n : Nat} {c : CopyDesc} (h : Described s off n c) (barrier : DWord) :
    s.copyGroup d off barrier =
      s.copyIssue d off (s.readPlace (32 + 24 * n) (.store s.me.core off)) n barrier := by
  obtain ⟨haligned, hheader, hhsound, hdims, hall, hsound, -⟩ := h
  have hid : s.me.id = s.actor := State.party_id s s.actor
  simp [State.copyGroup, hid, haligned, hheader, hhsound, hdims, hall, hsound]

/-- A check of R180 that fails raises its class, and no copy begins. -/
theorem copyIssue_refused {bs : List Byte} {n : Nat} {c : CopyDesc} {barrier : DWord} {k : FaultClass}
    (hfields : CopyDesc.ofBytes bs n = some c) (hcheck : s.copyChecks s.me c barrier = .error k) (off : Nat) :
    s.copyIssue d off bs n barrier = s.trap k := by
  simp only [State.copyIssue, hfields, hcheck]

/-- The copy has room: a slot of its core, entries of the lock table, and its workgroup's budget (R178). -/
structure CopyRoom (s : State) (w : Workgroup) : Prop where
  slots : (s.copies.filter fun x => decide (x.core = s.me.core) && !x.saved).length < 512
  locks : s.lockEntries s.me.core + 2 ≤ 1024
  work : s.wgOf s.actor = some w
  budget : s.budgetOk w.key (·.budget) s.copiesUnder 1 = true

theorem copyIssue_begins {bs : List Byte} {n : Nat} {c : CopyDesc} {barrier : DWord} {pl : Option Place} {w : Workgroup}
    (hgroup : s.actor.isSteward = false) (hroom : CopyRoom s w) (hfields : CopyDesc.ofBytes bs n = some c)
    (hcheck : s.copyChecks s.me c barrier = .ok pl) (off : Nat) :
    s.copyIssue d off bs n barrier = s.copyBegin d c pl (barrier.toNat % 2 ^ 25) := by
  obtain ⟨hslots, hlocks, hwork, hbudget⟩ := hroom
  have hid : s.me.id = s.actor := State.party_id s s.actor
  simp only [State.copyIssue, hfields, hcheck, hid, hgroup, hwork, hbudget, Bool.false_eq_true, if_false, if_true, Bool.not_false,
    Bool.true_and, ge_iff_le, if_neg (Nat.not_le.2 hslots)]
  rw [if_neg (by simpa using hlocks)]

/-- The copy `x` is the one that a descriptor's fields `c` ask for, in a slot of the acting group's core. -/
structure CopyOf (s : State) (c : CopyDesc) (pl : Option Place) (slot : Nat) (x : Copy) : Prop where
  place : x.core = s.me.core ∧ x.slot = slot ∧ x.tagSlot = slot
  owner : x.owner = s.actor ∧ x.batch = s.me.batch
  sides : x.src = c.src ∧ x.dst = c.dst ∧ x.srcSpace = c.srcSpace ∧ x.dstSpace = c.dstSpace
  shape : x.elem = c.elem ∧ x.dims = c.dims ∧ x.zero = c.zero ∧ x.barrier = pl
  fresh : x.next = 0 ∧ x.done = [] ∧ x.stopped = none ∧ x.saved = false

/-- The copy stands with its core, which counts its slot's generation; its tag is one of the group's. -/
def State.withCopy (s : State) (x : Copy) : State :=
  ({ s.updCore s.me.core fun k => { k with generations := assocSet x.slot x.generation k.generations } with
      copies := s.copies ++ [x]
      fresh := s.fresh + 1 } : State).upd fun q => { q with copyTags := q.copyTags ++ [x.generation * 512 + x.slot] }

/-- The generation of the next copy in a slot of the acting party's core (R183). -/
def State.slotGeneration (s : State) (slot : Nat) : Nat :=
  let tags := s.tagsOf s.me
  freeGen slot tags tags.length
    (match (s.core s.me.core).generations.find? fun x => decide (x.1 = slot) with
     | none => 0
     | some x => (x.2 + 1) % 2 ^ 23)

/-- The copy that a group's descriptor asks for, in a slot. -/
def State.groupCopy (s : State) (part wg : Nat) (c : CopyDesc) (pl : Option Place) (off slot : Nat) : Copy :=
  { id := s.fresh, core := s.me.core, slot := slot, tagSlot := slot, generation := s.slotGeneration slot, owner := s.actor,
    part := part, wg := wg, batch := s.me.batch, steward := false, space := (s.unitOf s.me).space, root := (s.unitOf s.me).root,
    pc := s.me.pc, src := c.src, dst := c.dst, elem := c.elem, dims := c.dims, srcSpace := c.srcSpace, dstSpace := c.dstSpace,
    zero := c.zero, barrier := pl, barrierOff := off, srcRange := hullRange c.srcSpace c.srcHull,
    dstRange := hullRange c.dstSpace c.dstHull, next := 0, done := [], pins := [], stopped := none, saved := false }

/-- A copy takes the lowest free slot of its core. -/
theorem copyBegin_slot {slot : Nat} (hgroup : s.actor.isSteward = false) (hslot : slot < 512)
    (hfree : ∀ x ∈ s.copies, x.core = s.me.core → x.saved = false → x.slot ≠ slot)
    (hlow : ∀ k, k < slot → ∃ x ∈ s.copies, x.core = s.me.core ∧ x.slot = k ∧ x.saved = false) (d : BitVec 6) (c : CopyDesc)
    (pl : Option Place) (off : Nat) :
    ∃ x, CopyOf s c pl slot x ∧ s.copyBegin d c pl off = (s.withCopy x).alu d (BitVec.ofNat 64 (x.generation * 512 + slot)) := by
  have hid : s.me.id = s.actor := State.party_id s s.actor
  have hfirst : (firstBelow 512 fun k => !(s.copies.any fun x => decide (x.core = s.me.core ∧ x.slot = k) && !x.saved)) = some slot := by
    refine firstBelow_eq_some hslot ?_ fun k hk => ?_
    · simp only [Bool.not_eq_true', List.any_eq_false, Bool.and_eq_true, decide_eq_true_eq, not_and]
      exact fun x hx ⟨hcore, hat⟩ hsaved => hfree x hx hcore hsaved hat
    · obtain ⟨x, hx, hcore, hat, hsaved⟩ := hlow k hk
      simp only [Bool.not_eq_false', List.any_eq_true, Bool.and_eq_true, decide_eq_true_eq, Bool.not_eq_true']
      exact ⟨x, hx, ⟨hcore, hat⟩, hsaved⟩
  cases hwho : s.actor with
  | steward n => rw [hwho] at hgroup; cases hgroup
  | group p w g =>
    refine ⟨s.groupCopy p w c pl off slot,
      ⟨⟨rfl, rfl, rfl⟩, ⟨rfl, rfl⟩, ⟨rfl, rfl, rfl, rfl⟩, ⟨rfl, rfl, rfl, rfl⟩, ⟨rfl, rfl, rfl, rfl⟩⟩, ?_⟩
    unfold State.groupCopy
    rw [hwho] at hid ⊢
    unfold State.copyBegin
    simp only [hfirst, hid]
    rfl

/-- The tag is the register's and one more of the group's; nothing else of any party changes. -/
theorem withCopy_alu (hhere : s.here) (x : Copy) (d : BitVec 6) (v : DWord) :
    let t := (s.withCopy x).alu d v
    (∀ r, t.me.sreg r = if r = d.toNat ∧ r ≠ 0 then v else s.me.sreg r) ∧
      t.me.copyTags = s.me.copyTags ++ [x.generation * 512 + x.slot] ∧ t.me.pc = s.me.pc + 4 ∧
      { t.me with sregs := s.me.sregs, copyTags := s.me.copyTags, pc := s.me.pc } = s.me ∧
      (∀ p, p ≠ s.actor → t.party p = s.party p) ∧ ∀ m, cellGet t.mem m = cellGet s.mem m := by
  intro t
  let tags (q : Party) : Party := { q with copyTags := q.copyTags ++ [x.generation * 512 + x.slot] }
  have htags : KeepsId tags := fun _ => rfl
  have hme : (s.withCopy x).me = tags s.me := State.me_upd hhere tags htags
  have hthere : (s.withCopy x).here := here_upd hhere tags htags
  obtain ⟨hreg, hpc, hmine, hothers, -, -, -⟩ := wrote_alu hthere d v
  rw [hme] at hreg hpc hmine
  refine ⟨hreg, congrArg Party.copyTags hmine, hpc, ?_, fun p hp => ?_, fun _ => rfl⟩
  · exact congrArg (fun q : Party => { q with copyTags := s.me.copyTags }) hmine
  · exact (hothers p hp).trans (State.party_upd_other s tags htags hp)

end Tcopy

/-! ## TQUERY (R186) -/

section Tquery

variable {s : State} {d a : BitVec 6}

/-- The copy is the one that a tag of a party's workgroup, or of a steward core, names. -/
def Copy.named (p : PartyId) (tag : Nat) (c : Copy) : Bool :=
  decide (c.generation * 512 + c.tagSlot = tag) &&
    match p with
    | .group part wg _ => !c.steward && decide (c.part = part ∧ c.wg = wg)
    | .steward _ => decide (c.owner = p)

/-- A tag that the workgroup did not issue. -/
theorem exec_tquery_foreign (h : Ready s [d] [a]) (htag : (s.rd a).toNat ∉ s.tagsOf s.me) :
    exec (.tquery d a) s = .next (s.alu d 0) := by
  show execTquery d a s = _
  rw [execTquery, scalar_ready h]
  exact congrArg _ (if_neg htag)

/-- The copy of a tag of the workgroup is the first one that the tag names. -/
theorem exec_tquery_own (h : Ready s [d] [a]) (htag : (s.rd a).toNat ∈ s.tagsOf s.me) {o : Option Copy}
    (hfind : s.copies.find? (Copy.named s.actor (s.rd a).toNat) = o) :
    exec (.tquery d a) s = .next (o.elim (s.acquire s.actor .device [] (.load d.toNat 0 3 [] 0)) fun c =>
      s.alu d (if c.stopped.isSome || c.saved then dw (c.next * 4 + 2) else 1)) := by
  have hid : s.me.id = s.actor := State.party_id s s.actor
  rw [← hid] at hfind
  unfold Copy.named at hfind
  show execTquery d a s = _
  rw [execTquery, scalar_ready h]
  dsimp only
  rw [if_pos htag]
  subst hfind
  cases hc : s.copies.find? _ with
  | none => rfl
  | some c => rfl

theorem exec_tquery_done (h : Ready s [d] [a]) (htag : (s.rd a).toNat ∈ s.tagsOf s.me)
    (hnone : ∀ c ∈ s.copies, ¬c.named s.actor (s.rd a).toNat = true) :
    exec (.tquery d a) s = .next (s.acquire s.actor .device [] (.load d.toNat 0 3 [] 0)) :=
  exec_tquery_own h htag (List.find?_eq_none.2 hnone)

theorem exec_tquery_found (h : Ready s [d] [a]) (htag : (s.rd a).toNat ∈ s.tagsOf s.me) {c : Copy} (hc : c ∈ s.copies)
    (hmine : c.named s.actor (s.rd a).toNat = true) (hall : ∀ c' ∈ s.copies, c'.named s.actor (s.rd a).toNat = true → c' = c) :
    exec (.tquery d a) s = .next (s.alu d (if c.stopped.isSome || c.saved then dw (c.next * 4 + 2) else 1)) := by
  obtain ⟨x, hfind⟩ := Option.isSome_iff_exists.1 (List.find?_isSome.2 ⟨c, hc, hmine⟩)
  have hx : x = c := hall x (List.mem_of_find?_eq_some hfind) (List.find?_some hfind)
  exact hx ▸ exec_tquery_own h htag hfind

end Tquery

/-- Settles O16: a described copy that passes its checks takes the lowest free slot, each failed check its class; a tag is looked up
among the copies. -/
theorem copyIssued : Obligations.CopyIssued := by
  refine ⟨⟨?begins, ?refused⟩, fun s => ⟨fun a b hready => ?hints, fun d a hready => ?query⟩⟩
  case begins =>
    intro s d a b n slot c pl w hready hgroup heng hacq off at_ h1 h2 h3 h4 h5 h6 h7 hcheck hslots hlocks hwork hbudget hslot hfree hlow
    obtain ⟨x, hx, hbegun⟩ := copyBegin_slot hgroup hslot hfree hlow d c pl ((s.rd b).toNat % 2 ^ 25)
    obtain ⟨⟨hcore, hat, htag⟩, ⟨howner, hbatch⟩, ⟨hsrc, hdst, hss, hds⟩, ⟨helem, hdims, hzero, hbarrier⟩, hnext,
      hdone, hstopped, hsaved⟩ := hx
    have hexec := (exec_tcopy_group hready hgroup ⟨heng, hacq⟩).trans (congrArg _
      (((copyGroup_described ⟨h1, h2, h3, h4, h5, h6, h7⟩ _).trans
      (copyIssue_begins hgroup ⟨hslots, hlocks, hwork, hbudget⟩ h7 hcheck off)).trans hbegun))
    have hafter := withCopy_alu hready.here x d (BitVec.ofNat 64 (x.generation * 512 + slot))
    rw [hat] at hafter
    exact ⟨_, hexec, x, rfl, hcore, hat, htag, howner, hbatch, hsrc, hdst, helem, hdims, hss, hds, hzero, hbarrier, hnext, hdone,
      hstopped, hsaved, hafter⟩
  case refused =>
    intro s d a b hready heng hacq off at_
    have hfree : EngineFree s := ⟨heng, hacq⟩
    refine ⟨gives_tcopy_misaligned hready hfree, fun hgroup haligned hshare => ?outside,
      fun n c k hgroup h1 h2 h3 h4 h5 h6 h7 hcheck => ?checks⟩
    case outside =>
      exact ⟨_, (exec_tcopy_group hready hgroup hfree).trans (congrArg _ (copyGroup_outside haligned hshare _)),
        trapped_fault hready.here ..⟩
    case checks =>
      exact ⟨_, (exec_tcopy_group hready hgroup hfree).trans (congrArg _ ((copyGroup_described ⟨h1, h2, h3, h4, h5, h6, h7⟩ _).trans
        (copyIssue_refused h7 hcheck off))), trapped_trap hready.here k⟩
  case hints =>
    exact ⟨⟨_, scalar_ready hready _, became_upd hready.here _ fun _ => rfl⟩,
      ⟨_, scalar_ready hready _, became_upd hready.here _ fun _ => rfl⟩⟩
  case query =>
    intro tag mine
    have hmine (c : Copy) : mine c ↔ c.named s.actor tag = true := by
      simp only [mine, Copy.named, Bool.and_eq_true, decide_eq_true_eq]
      refine and_congr_right fun _ => ?_
      cases s.actor <;> simp
    refine ⟨fun htag => ⟨_, exec_tquery_foreign hready htag, wrote_alu hready.here d 0⟩, fun htag hnone =>
      ⟨_, exec_tquery_done hready htag fun c hc hn => hnone c hc ((hmine c).2 hn), rfl⟩, fun htag c hc hm hall => ?_⟩
    have hexec := exec_tquery_found hready htag hc ((hmine c).1 hm) fun c' hc' hn => hall c' hc' ((hmine c').2 hn)
    refine ⟨fun hgoes hkept => ⟨_, hexec, ?_⟩, fun hstops => ⟨_, hexec, ?_⟩⟩
    · rw [hgoes, hkept]
      exact wrote_alu hready.here d 1
    · rw [if_pos (by simpa using hstops)]
      exact wrote_alu hready.here d _

end Sys2Proof.Machine
end

section
/-!
SUPPORT. The TACK family (R187 to R190).
-/
namespace Sys2Proof.Machine

/-! ## Objects in global memory that a scalar instruction reads (R171) -/

/-- An object whose checks pass and whose bytes are sound is read. -/
theorem readObject_sound {s s1 s2 : State} {va n : Nat} {scope : Scope} {x : Xlat} {bs : List Byte} (hacq : s.me.acquireBehind = false)
    (hcheck : s.checkAccess s.me va n .read false false = (s1, .ok x)) (hpending : s.me.atomicPending x.pieces = false)
    (hholds : ∀ p ∈ x.pieces, s1.loadHolds s.me.core (s1.partOf s.me) scope false p = false)
    (hload : s1.loadPieces s.me (s1.partOf s.me) scope false none x.pieces = (s2, bs, false)) (k : State → List Byte → State) :
    s.readObject va n scope k = k s2 bs := by
  have hfree : x.pieces.any (s1.loadHolds s.me.core (s1.partOf s.me) scope false) = false :=
    List.any_eq_false.2 fun p hp => by simp [hholds p hp]
  simp only [State.readObject, hacq, hcheck, hpending, hfree, hload, Bool.or_self, Bool.false_eq_true, if_false]

/-! ## Claims of lines that no core holds dirty (R163) -/

/-- A line without dirty holders has none to drain: who holds other lines dirty stays. -/
theorem dirtyHolders_claimLine {s : State} {l : Nat} (hclean : ∀ h ∈ s.dirtyHolders, h.1 ≠ l) :
    (s.claimLine l).dirtyHolders = s.dirtyHolders := by
  have hnone : (s.dirtyHolders.filter fun h => decide (h.1 = l)) = [] := List.filter_eq_nil_iff.2 fun h hh => by simp [hclean h hh]
  unfold State.claimLine
  dsimp only
  rw [hnone, List.foldl_nil]
  exact List.filter_eq_self.2 fun h hh => by simp [hclean h hh]

theorem dirtyHolders_claimLines (ps : List Piece) : ∀ {s : State}, (∀ p ∈ ps, ∀ h ∈ s.dirtyHolders, h.1 ≠ p.pa / 128) →
    (s.claimLines ps).dirtyHolders = s.dirtyHolders := by
  induction ps with
  | nil => exact fun _ => rfl
  | cons p r ih =>
    intro s hclean
    obtain ⟨hp, hr⟩ := List.forall_mem_cons.1 hclean
    have hline := dirtyHolders_claimLine hp
    exact (ih (s := s.claimLine (p.pa / 128)) (hline ▸ hr)).trans hline

/-- Where no die has a copy either, there is nothing to recall. -/
theorem claimLine_of_free {s : State} (hcopies : s.dieCopies = []) {l : Nat} (hclean : ∀ h ∈ s.dirtyHolders, h.1 ≠ l) :
    s.claimLine l = s := by
  have hnone : (s.dirtyHolders.filter fun h => decide (h.1 = l)) = [] := List.filter_eq_nil_iff.2 fun h hh => by simp [hclean h hh]
  have hrecall : s.recallAll l = s := by rw [State.recallAll, recall_of_no_copies hcopies, hcopies, List.map_nil, ← hcopies]
  have hall (f : Nat × Nat → Bool) : (s.dirtyHolders.filter fun h => decide (h.1 ≠ l) || f h) = s.dirtyHolders :=
    List.filter_eq_self.2 fun h hh => by simp [hclean h hh]
  unfold State.claimLine
  dsimp only
  rw [hnone, List.foldl_nil, hrecall, hall]

/-- The lines of a watch are free once claimed (R188 step 6). -/
theorem claimed_claimLines {s : State} {ps : List Piece} (hclean : ∀ p ∈ ps, ∀ h ∈ s.dirtyHolders, h.1 ≠ p.pa / 128) :
    (ps.all fun p => (s.claimLines ps).claimed (p.pa / 128)) = true := by
  simp only [List.all_eq_true, State.claimed, dirtyHolders_claimLines ps hclean, Bool.not_eq_true', List.any_eq_false, decide_eq_true_eq]
  exact hclean

/-! ## The registry's answers (R188) -/

section Register

/-- The tack that a descriptor asks for, at an index of the registry. -/
def State.liveTack (s : State) (q : Party) (t : TackDesc) (watch : List Piece) (i : Nat) : Tack :=
  { index := i
    generation := match s.tackAt i with
      | none => 1
      | some o => (o.generation + 1) % 2 ^ 20
    state := .live, kind := t.kind, part := s.tackPart q, launch := s.launchOf q.id, base := t.base, length := t.length,
    value := dw t.value, watch := watch, space := (s.unitOf q).space
    pages := (cutAt 65536 258 t.base t.length).map fun c => s.pageOf (s.unitOf q) c.1
    holders := [] }

/-- The watch of a tack: nothing of a tack without length, or the pieces of its range. -/
def State.watchOf (s : State) (t : TackDesc) : State × Except (FaultClass × Nat) Xlat :=
  if t.length = 0 then (s, .ok ⟨[], true, true⟩) else s.xlate (s.unitOf s.me) t.base t.length .watch false

variable {s s1 : State} {t : TackDesc} {x : Xlat} (hwatch : s.watchOf t = (s1, .ok x)) (d : BitVec 6)
include hwatch

/-- No tack is free. -/
theorem register_full (hfree : s1.freeTack = none) : s.register d t = s1.alu d (BitVec.allOnes 64) := by
  rw [State.watchOf] at hwatch
  simp only [State.register, hwatch, hfree]
  rfl

variable {i : Nat} (hfree : s1.freeTack = some i)
include hfree

/-- A line of the watch does not exist. -/
theorem register_absent (hexist : ¬∀ p ∈ x.pieces, lineExists (p.pa / 128) = true) :
    s.register d t = s1.alu d (BitVec.allOnes 64 - 1) := by
  have habsent : (x.pieces.any fun p => !lineExists (p.pa / 128)) = true := by simpa [List.any_eq_true] using hexist
  rw [State.watchOf] at hwatch
  simp only [State.register, hwatch, hfree, habsent, if_true]
  rfl

variable (hexist : ∀ p ∈ x.pieces, lineExists (p.pa / 128) = true)
include hexist

omit hwatch hfree in
theorem all_lines_exist : (x.pieces.any fun p => !lineExists (p.pa / 128)) = false :=
  List.any_eq_false.2 fun p hp => by simp [hexist p hp]

/-- A line of the watch is an accumulator's. -/
theorem register_marked (hmarked : ∃ p ∈ x.pieces, s1.marked (p.pa / 128) = true) :
    s.register d t = s1.alu d (BitVec.allOnes 64 - 3) := by
  have hany : (x.pieces.any fun p => s1.marked (p.pa / 128)) = true := List.any_eq_true.2 hmarked
  rw [State.watchOf] at hwatch
  simp only [State.register, hwatch, hfree, all_lines_exist hexist, hany, Bool.false_eq_true, if_true, if_false]
  rfl

/-- The watched word has another value. -/
theorem register_other_value {p : Piece} (hone : x.pieces = [p]) (hmarked : s1.marked (p.pa / 128) = false)
    (hclean : ∀ h ∈ s1.dirtyHolders, h.1 ≠ p.pa / 128) (hkind : t.kind = .val) (hcopies : s1.dieCopies = [])
    (hsound : ∀ k, k < p.len → s1.byteBad s.me.core (p.pa + k) = false) (hvalue : le (readBytes s1.mem p.pa p.len) ≠ t.value) :
    s.register d t = s1.alu d (BitVec.allOnes 64 - 2) := by
  have hclaimed : s1.claimed (p.pa / 128) = true := by
    rw [State.claimed, Bool.not_eq_true', List.any_eq_false]
    exact fun h hh => by simp [hclean h hh]
  have hlines := all_lines_exist hexist
  have hbytes : ((List.range p.len).any fun k => s1.byteBad s.me.core (p.pa + k)) = false :=
    List.any_eq_false.2 fun k hk => by simp [hsound k (List.mem_range.1 hk)]
  rw [State.watchOf] at hwatch
  rw [hone] at hlines
  simp only [State.register, hwatch, hfree, hone, hlines, State.claimLines, List.foldl_cons, List.foldl_nil,
    claimLine_of_free hcopies hclean, List.any_cons, List.any_nil, List.all_cons, List.all_nil, hclaimed, hmarked, hbytes, hkind,
    List.flatMap_cons, List.flatMap_nil, List.append_nil, Bool.or_false, Bool.and_true, Bool.not_true, Bool.false_eq_true, and_false,
    if_false, true_and, if_pos hvalue]
  rfl

/-- A tack of another kind is registered, live, at the head of the registry. -/
theorem register_live (hmarked : ∀ p ∈ x.pieces, s1.marked (p.pa / 128) = false)
    (hclean : ∀ p ∈ x.pieces, ∀ h ∈ s1.dirtyHolders, h.1 ≠ p.pa / 128) (hkind : t.kind ≠ .val) :
    ∃ (k : Tack) (u : State), s.register d t = u.alu d (BitVec.ofNat 64 (k.generation * 4096 + i)) ∧
      u.tacks.head? = some k ∧ k.index = i ∧ k.state = .live ∧ k.kind = t.kind ∧ k.watch = x.pieces ∧ k.base = t.base ∧
      k.length = t.length ∧ k.holders = [] := by
  have hnone : (x.pieces.any fun p => s1.marked (p.pa / 128)) = false := List.any_eq_false.2 fun p hp => by simp [hmarked p hp]
  rw [State.watchOf] at hwatch
  simp only [State.register, hwatch, hfree, all_lines_exist hexist, hnone, claimed_claimLines hclean, hkind, Bool.not_true,
    Bool.false_eq_true, if_false, false_and]
  exact ⟨(s1.claimLines x.pieces).liveTack s.me t x.pieces i, _, rfl, rfl, rfl, rfl, rfl, rfl, rfl, rfl, rfl⟩

end Register

/-! ## Holders (R189, R190) -/

section Holders

variable {s : State} {d a b : BitVec 6}

theorem exec_tacknew_misaligned (h : Ready s [d] [a]) (hva : (s.rd a).toNat % 32 ≠ 0) :
    exec (.tacknew d a) s = .next (s.trapAt .alignment (s.rd a).toNat) := by
  show execTacknew d a s = _
  rw [execTacknew, scalar_ready h]
  exact congrArg _ (if_pos hva)

/-- A descriptor that is read and well formed is registered. -/
theorem exec_tacknew_reads {s1 s2 : State} {x : Xlat} {bs : List Byte} {t : TackDesc} (h : Ready s [d] [a])
    (hacq : s.me.acquireBehind = false) (hva : (s.rd a).toNat % 32 = 0) (hcheck : s.checkAccess s.me (s.rd a).toNat 32 .read false false = (s1, .ok x))
    (hpending : s.me.atomicPending x.pieces = false)
    (hholds : ∀ p ∈ x.pieces, s1.loadHolds s.me.core (s1.partOf s.me) .core false p = false)
    (hload : s1.loadPieces s.me (s1.partOf s.me) .core false none x.pieces = (s2, bs, false)) (hdesc : TackDesc.ofBytes bs = some t) :
    exec (.tacknew d a) s = .next (s2.register d t) := by
  show execTacknew d a s = _
  rw [execTacknew, scalar_ready h]
  dsimp only
  rw [if_neg (not_not.2 hva), readObject_sound hacq hcheck hpending hholds hload, hdesc]

theorem exec_tackon_misaligned (h : Ready s [d] [a, b]) (hb : (s.rd b).toNat % 4 ≠ 0) :
    exec (.tackon d a b) s = .next (s.trapAt .alignment (s.rd b).toNat) := by
  show execTackon d a b s = _
  rw [execTackon, scalar_ready h]
  exact congrArg _ (if_pos hb)

theorem exec_tackon_unknown (h : Ready s [d] [a, b]) (hb : (s.rd b).toNat % 4 = 0) (ht : s.tackOf s.me (s.rd a) = none) :
    exec (.tackon d a b) s = .next (s.alu d (BitVec.allOnes 64 - 4)) := by
  show execTackon d a b s = _
  rw [execTackon, scalar_ready h]
  dsimp only
  rw [if_neg (not_not.2 hb), ht]
  rfl

variable {t : Tack}

theorem exec_tackon_dead (h : Ready s [d] [a, b]) (hb : (s.rd b).toNat % 4 = 0) (ht : s.tackOf s.me (s.rd a) = some t)
    (hstate : t.state ≠ .live) : exec (.tackon d a b) s = .next (s.alu d (BitVec.allOnes 64 - 5)) := by
  show execTackon d a b s = _
  rw [execTackon, scalar_ready h]
  dsimp only
  rw [if_neg (not_not.2 hb), ht]
  dsimp only
  rw [if_pos hstate]
  rfl

/-- The group holds four tacks and not this one. -/
theorem exec_tackon_full (h : Ready s [d] [a, b]) (hb : (s.rd b).toNat % 4 = 0) (ht : s.tackOf s.me (s.rd a) = some t)
    (hstate : t.state = .live) (hnot : t.holder? s.actor = false) (hfour : 4 ≤ (s.tacks.filter fun x => x.holder? s.actor).length) :
    exec (.tackon d a b) s = .next (s.alu d (BitVec.allOnes 64 - 6)) := by
  have hid : s.me.id = s.actor := State.party_id s s.actor
  show execTackon d a b s = _
  rw [execTackon, scalar_ready h]
  dsimp only
  rw [if_neg (not_not.2 hb), ht]
  dsimp only
  rw [if_neg (not_not.2 hstate), hid, hnot, if_pos (by simpa using hfour)]
  rfl

/-- The group becomes a holder, and acquires. -/
theorem exec_tackon_holds (h : Ready s [d] [a, b]) (hb : (s.rd b).toNat % 4 = 0) (ht : s.tackOf s.me (s.rd a) = some t)
    (hstate : t.state = .live) (hroom : t.holder? s.actor = true ∨ (s.tacks.filter fun x => x.holder? s.actor).length < 4) :
    exec (.tackon d a b) s = .next ((s.updTack t.index fun t =>
      { t with holders := (t.holders.filter fun x => decide (x.p ≠ s.actor)) ++ [⟨s.actor, s.rd b⟩] }).acquire s.actor .device []
        (.load d.toNat 0 3 [] 0)) := by
  have hid : s.me.id = s.actor := State.party_id s s.actor
  have hnot : ¬(!t.holder? s.actor && decide (4 ≤ (s.tacks.filter fun x => x.holder? s.actor).length)) = true := by
    rw [Bool.and_eq_true, Bool.not_eq_true', decide_eq_true_eq]
    rintro ⟨hno, hfour⟩
    obtain hyes | hfew := hroom
    · rw [hyes] at hno; cases hno
    · omega
  show execTackon d a b s = _
  rw [execTackon, scalar_ready h]
  dsimp only
  rw [if_neg (not_not.2 hb), ht]
  dsimp only
  rw [if_neg (not_not.2 hstate), hid, if_neg hnot]
  rfl

/-- A group that gives a tack up: the tacks change alone. -/
def State.tackedOff (s : State) (t : Tack) : State :=
  s.updTack t.index fun t => { t with holders := t.holders.filter fun h => decide (h.p ≠ s.actor) }

theorem exec_tackoff_unknown (h : Ready s [] [a]) (ht : s.tackOf s.me (s.rd a) = none) : exec (.tackoff a) s = .next s.adv := by
  show execTackoff a s = _
  rw [execTackoff, scalar_ready h]
  rw [ht]

theorem exec_tackoff_known (h : Ready s [] [a]) (ht : s.tackOf s.me (s.rd a) = some t) :
    exec (.tackoff a) s = .next (s.tackedOff t).adv := by
  show execTackoff a s = _
  rw [execTackoff, scalar_ready h]
  rw [ht]
  rfl

theorem holder?_tackedOff (s : State) (t : Tack) {x : Tack} (hx : x ∈ (s.tackedOff t).tacks) (hindex : x.index = t.index) :
    x.holder? s.actor = false := by
  obtain ⟨y, -, rfl⟩ := List.mem_map.1 hx
  split at hindex
  · next hy => simp [hy, Tack.holder?]
  · next hy => exact absurd hindex (by simpa using hy)

theorem exec_tackdrop_unknown (h : Ready s [d] [a]) (ht : s.tackOf s.me (s.rd a) = none) :
    exec (.tackdrop d a) s = .next (s.alu d (BitVec.allOnes 64 - 4)) := by
  show execTackdrop d a s = _
  rw [execTackdrop, scalar_ready h]
  rw [ht]
  rfl

theorem exec_tackdrop_held (h : Ready s [d] [a]) (ht : s.tackOf s.me (s.rd a) = some t) (hheld : t.holders ≠ []) :
    exec (.tackdrop d a) s = .next (s.alu d (BitVec.allOnes 64 - 7)) := by
  show execTackdrop d a s = _
  rw [execTackdrop, scalar_ready h]
  rw [ht]
  dsimp only
  rw [if_pos (by simpa using hheld)]
  rfl

theorem exec_tackdrop_free (h : Ready s [d] [a]) (ht : s.tackOf s.me (s.rd a) = some t) (hheld : t.holders = []) :
    exec (.tackdrop d a) s = .next ((s.updTack t.index fun t => { t with state := .free, watch := [] }).alu d 0) := by
  show execTackdrop d a s = _
  rw [execTackdrop, scalar_ready h]
  rw [ht]
  dsimp only
  rw [if_neg (by simp [hheld])]

theorem exec_tackq_unknown (h : Ready s [d] [a]) (ht : s.tackOf s.me (s.rd a) = none) :
    exec (.tackq d a) s = .next (s.alu d 0) := by
  show execTackq d a s = _
  rw [execTackq, scalar_ready h]
  dsimp only
  rw [ht]

/-- The number that TACKQ answers for a tack's state (R190). -/
def TackState.code : TackState → Nat
  | .free => 0
  | .live => 1
  | .breaking => 2
  | .broken => 3

theorem exec_tackq_known (h : Ready s [d] [a]) (ht : s.tackOf s.me (s.rd a) = some t) :
    exec (.tackq d a) s = .next (s.alu d (BitVec.ofNat 64 (min (s.held.filter fun w => s.breaks w.op w.source t).length 65535 * 65536 +
      min t.holders.length 255 * 256 + (if t.holder? s.actor then 4 else 0) + t.state.code))) := by
  have hfour : (if t.holder? s.actor then 4 else 0) = (t.holder? s.actor).toNat * 4 := by cases t.holder? s.actor <;> rfl
  show execTackq d a s = _
  rw [execTackq, scalar_ready h]
  dsimp only
  rw [ht, hfour]
  rfl

end Holders

/-- Settles O25: a well-formed descriptor is registered or its answer says why not; the holders are those of the tack of a valid
handle. -/
theorem tackRegistered : Obligations.TackRegistered := by
  refine ⟨⟨?new, ?registry⟩, fun s => ⟨?on, ?off, ?handle⟩⟩
  case new =>
    intro s s1 s2 d a x bs hready hfree va
    obtain ⟨hacq, -⟩ := hfree
    exact ⟨fun hva => ⟨_, exec_tacknew_misaligned hready hva, trapped_fault hready.here ..⟩,
      fun hva hcheck hpending hholds hload t hdesc =>
        ⟨_, exec_tacknew_reads hready hacq hva hcheck hpending hholds hload hdesc, rfl⟩⟩
  case registry =>
    intro s s1 d t x hwatch
    refine ⟨register_full hwatch d, fun i hfree => ?_⟩
    intro exist undirtied
    exact ⟨register_absent hwatch d hfree, register_marked hwatch d hfree,
      fun p hexist hone hmarked hclean hkind hcopies hsound hvalue =>
        ⟨s1, register_other_value hwatch d hfree hexist hone hmarked (hclean p (by simp [hone])) hkind hcopies hsound hvalue, rfl⟩,
      register_live hwatch d hfree⟩
  case on =>
    intro d a b hready h others
    refine ⟨fun hb => ⟨_, exec_tackon_misaligned hready hb, trapped_fault hready.here ..⟩, fun hb => ⟨fun ht => ?_,
      fun t ht hstate => ?_,
      fun t ht hstate hnot hfour => ?_, fun t ht hstate hroom => ⟨_, exec_tackon_holds hready hb ht hstate hroom, rfl⟩⟩⟩
    · exact ⟨_, exec_tackon_unknown hready hb ht, wrote_alu hready.here ..⟩
    · exact ⟨_, exec_tackon_dead hready hb ht hstate, wrote_alu hready.here ..⟩
    · exact ⟨_, exec_tackon_full hready hb ht hstate hnot hfour, wrote_alu hready.here ..⟩
  case off =>
    intro a hready
    have hadv (u : State) (hu : u.here) :
        u.adv.me = { u.me with pc := u.me.pc + 4 } ∧ ∀ p, p ≠ u.actor → u.adv.party p = u.party p :=
      ⟨State.me_adv hu, fun p hp => State.party_upd_other u (fun q => { q with pc := q.pc + 4 }) (fun _ => rfl) hp⟩
    cases ht : s.tackOf s.me (s.rd a) with
    | none =>
      obtain ⟨hme, hothers⟩ := hadv s hready.here
      exact ⟨_, exec_tackoff_unknown hready ht, hme, hothers, rfl, fun t h => absurd h (by simp)⟩
    | some t =>
      obtain ⟨hme, hothers⟩ := hadv (s.tackedOff t) hready.here
      refine ⟨_, exec_tackoff_known hready ht, hme, hothers, rfl, fun t' h x hx hindex => ?_⟩
      obtain rfl := Option.some.inj h
      exact holder?_tackedOff s t hx hindex
  case handle =>
    intro d a hready h
    refine ⟨fun ht => ⟨⟨_, exec_tackdrop_unknown hready ht, wrote_alu hready.here ..⟩,
        ⟨_, exec_tackq_unknown hready ht, wrote_alu hready.here ..⟩⟩,
      fun t ht => ⟨fun hheld => ⟨_, exec_tackdrop_held hready ht hheld, wrote_alu hready.here ..⟩,
        fun hheld => ⟨_, exec_tackdrop_free hready ht hheld, wrote_alu (s := s.updTack t.index _) hready.here d 0⟩, ?_⟩⟩
    intro st held
    have hcode : st = t.state.code := by cases hst : t.state <;> simp [st, hst, TackState.code]
    rw [hcode]
    exact ⟨_, exec_tackq_known hready ht, wrote_alu hready.here ..⟩

end Sys2Proof.Machine
end

section
/-!
SUPPORT. Fabric reductions (R195 to R197, R308).
-/
namespace Sys2Proof.Machine

/-! ## Association lists -/

@[simp] theorem lookupD_assocSet_self {α β : Type} [DecidableEq α] (k : α) (v dflt : β) (l : List (α × β)) :
    lookupD k dflt (assocSet k v l) = v := if_pos rfl

theorem mem_addNew {α : Type} [DecidableEq α] {x y : α} {l : List α} : y ∈ addNew x l ↔ y = x ∨ y ∈ l := by
  unfold addNew
  split
  · next hx => exact ⟨.inr, fun h => h.elim (fun e => e ▸ hx) id⟩
  · simp [or_comm]

/-! ## The slots of a switch -/

theorem slotAt_setSlot_self (s : State) (y : Slot) : (s.setSlot y).slotAt y.port y.slot = y := by
  simp [State.slotAt, State.setSlot]

theorem slotAt_setSlot_other (s : State) (y : Slot) {p k : Nat} (h : (p, k) ≠ (y.port, y.slot)) :
    (s.setSlot y).slotAt p k = s.slotAt p k := by
  have hne : ¬(y.port = p ∧ y.slot = k) := fun ⟨hp, hk⟩ => h (by rw [hp, hk])
  simp only [State.slotAt, State.setSlot, List.find?_cons, hne, decide_false]
  rw [List.find?_filter]
  refine congrArg (Option.getD · _) (congrArg (List.find? · s.slots) (funext fun x => ?_))
  by_cases hx : x.port = p ∧ x.slot = k
  · obtain ⟨rfl, rfl⟩ := hx
    have hkept : ¬(x.port = y.port ∧ x.slot = y.slot) := fun ⟨hp, hk⟩ => hne ⟨hp.symm, hk.symm⟩
    simpa [imp_iff_not_or] using hkept
  · simp [hx]

/-- In `t` the slot of a descriptor is `y`, and every other slot is as in `s`. -/
structure SlotBecomes (s t : State) (f : FredDesc) (y : Slot) : Prop where
  it : t.slotAt f.port f.slot = y
  others : ∀ p k, (p, k) ≠ (f.port, f.slot) → t.slotAt p k = s.slotAt p k

theorem SlotBecomes.refl (s : State) (f : FredDesc) : SlotBecomes s s f (s.slotAt f.port f.slot) := ⟨rfl, fun _ _ _ => rfl⟩

theorem slotBecomes_setSlot (s : State) {f : FredDesc} {y : Slot} (hport : y.port = f.port) (hslot : y.slot = f.slot) :
    SlotBecomes s (s.setSlot y) f y := by
  refine ⟨?_, fun p k h => slotAt_setSlot_other s y (by rwa [hport, hslot])⟩
  rw [← hport, ← hslot]
  exact slotAt_setSlot_self s y

/-! ## The status word (R197) -/

/-- The fields of a status word. -/
theorem statusFields (r st k : Nat) (b3 b2 b1 b0 : Bool) (hst : st < 256) (hk : k < 256) :
    let n := r * 2 ^ 24 + st * 2 ^ 16 + k * 2 ^ 8 + b3.toNat * 8 + b2.toNat * 4 + b1.toNat * 2 + b0.toNat
    n / 2 ^ 24 = r ∧ n / 2 ^ 16 % 256 = st ∧ n / 2 ^ 8 % 256 = k ∧ n / 2 ^ 5 % 8 = 0 ∧ n.testBit 4 = false ∧ n.testBit 3 = b3 ∧
      n.testBit 2 = b2 ∧ n.testBit 1 = b1 ∧ n.testBit 0 = b0 := by
  intro n
  have h3 := Bool.toNat_lt b3
  have h2 := Bool.toNat_lt b2
  have h1 := Bool.toNat_lt b1
  have h0 := Bool.toNat_lt b0
  have hbit {m : Nat} {b : Bool} (h : m = b.toNat) : decide (m = 1) = b := by subst h; cases b <;> rfl
  simp only [Nat.testBit_eq_decide_div_mod_eq, n]
  exact ⟨by omega, by omega, by omega, by omega, decide_eq_false (by omega), hbit (by omega), hbit (by omega), hbit (by omega),
    hbit (by omega)⟩

/-- The number of a slot's state in its status word. -/
def SlotState.code : SlotState → Nat
  | .idle => 0
  | .collecting => 1
  | .delivered => 2

theorem statusWord_status {x : Slot} (hround : x.round < 256) (hreceived : x.received < 256) (mismatch late : Bool) :
    StatusWord (x.status mismatch late) x false mismatch late := by
  have hcode : x.state.code < 256 := by cases x.state <;> decide
  let nan : Bool := decide (x.operation < 3) && x.taken.any (fredNan x.operation)
  obtain ⟨h24, h16, h8, h5, b4, b3, b2, b1, b0⟩ :=
    statusFields x.round x.state.code x.received mismatch late x.isPartial nan hcode hreceived
  generalize hn : x.round * 2 ^ 24 + x.state.code * 2 ^ 16 + x.received * 2 ^ 8 + mismatch.toNat * 8 + late.toNat * 4 +
    x.isPartial.toNat * 2 + nan.toNat = n at h24 h16 h8 h5 b4 b3 b2 b1 b0
  have hv : x.status mismatch late = BitVec.ofNat 64 n := congrArg (BitVec.ofNat 64) hn
  have htoNat : (BitVec.ofNat 64 n).toNat = n := (BitVec.toNat_ofNat n 64).trans (Nat.mod_eq_of_lt (by omega))
  have hbit (i : Nat) : (BitVec.ofNat 64 n).getLsbD i = n.testBit i := congrArg (Nat.testBit · i) htoNat
  rw [hv]
  refine ⟨by rw [htoNat, h24], ?_, by rw [htoNat, h8], (hbit 4).trans b4, (hbit 3).trans b3, (hbit 2).trans b2, (hbit 1).trans b1, ?_,
    by rw [htoNat, h5]⟩
  · rw [htoNat, h16]
    cases x.state <;> rfl
  · rw [hbit, b0]
    simp only [nan, Bool.and_eq_true, decide_eq_true_eq, List.any_eq_true, fredNan]
    refine and_congr_right fun hop => exists_congr fun y => and_congr_right fun _ => ?_
    exact and_iff_right (by omega)

/-! ## The FRED instructions (R195, R197) -/

section Fred

variable {s : State} {d a b : BitVec 6} {f : FredDesc}

theorem exec_fred (h : Ready s [d] [a, b]) :
    ∀ i ∈ [Instr.frjoin d a, .frput d a b, .frget d a, .frstat d a], ∃ k, exec i s = .next (s.fred a k) := by
  have ha : Ready s [d] [a] := h.mono (List.Subset.refl _) (by simp)
  simp only [List.forall_mem_cons, List.not_mem_nil, false_imp_iff, implies_true, and_true]
  refine ⟨?_, ?_, ?_, ?_⟩
  · show ∃ k, execFrjoin d a s = .next (s.fred a k)
    exact ⟨_, by rw [execFrjoin, scalar_ready ha]⟩
  · show ∃ k, execFrput d a b s = .next (s.fred a k)
    exact ⟨_, by rw [execFrput, scalar_ready h]⟩
  · show ∃ k, execFrget d a s = .next (s.fred a k)
    exact ⟨_, by rw [execFrget, scalar_ready ha]⟩
  · show ∃ k, execFrstat d a s = .next (s.fred a k)
    exact ⟨_, by rw [execFrstat, scalar_ready ha]⟩

theorem fred_illegal (hword : FredDesc.ofWord (s.rd a) = none) (k : State → FredDesc → Option Slot → State) :
    s.fred a k = s.trap .illegal := by
  rw [State.fred, hword]

/-- A slot of another owner, or of none. -/
theorem fred_foreign (hword : FredDesc.ofWord (s.rd a) = some f) (howner : (s.slotAt f.port f.slot).owner ≠ s.partOf s.me)
    (k : State → FredDesc → Option Slot → State) :
    s.fred a k = s.fault s.actor .remote .scalar
      { addr := 0, addr2 := dw (f.key ||| 0x3000), replayable := false, unfinished := 0, laneAddr := none } := by
  simp only [State.fred, hword, if_pos (Or.inr howner : _ ∨ _)]

/-- The word names a slot of the party's partition. -/
structure FredOwns (s : State) (a : BitVec 6) (f : FredDesc) : Prop where
  word : FredDesc.ofWord (s.rd a) = some f
  owned : (s.slotAt f.port f.slot).owner.isSome = true
  owner : (s.slotAt f.port f.slot).owner = s.partOf s.me

theorem fred_owned (h : FredOwns s a f) (k : State → FredDesc → Option Slot → State) :
    s.fred a k = if (s.fabric.getD f.port FabricPort.blank).up then k s f (some (s.slotAt f.port f.slot)) else k s f none := by
  obtain ⟨hword, howned, howner⟩ := h
  have hmine : ¬((s.slotAt f.port f.slot).owner.isNone = true ∨ (s.slotAt f.port f.slot).owner ≠ s.partOf s.me) := by
    rw [not_or, not_not]
    exact ⟨fun hnone => by simp [Option.isNone_iff_eq_none.1 hnone] at howned, howner⟩
  simp only [State.fred, hword, if_neg hmine]

theorem FredReach.owns (h : FredReach s a f) : FredOwns s a f := ⟨h.word, h.owner.1, h.owner.2⟩

theorem fred_reached (h : FredReach s a f) (k : State → FredDesc → Option Slot → State) :
    s.fred a k = k s f (some (s.slotAt f.port f.slot)) := by
  rw [fred_owned h.owns, if_pos h.port]

theorem fred_down (h : FredOwns s a f) (hdown : (s.fabric.getD f.port FabricPort.blank).up = false)
    (k : State → FredDesc → Option Slot → State) : s.fred a k = k s f none := by
  rw [fred_owned h, hdown]
  rfl

/-- The switch's answer: a status seen and a register written, with a slot changed at most. -/
theorem slotIs_answer (hhere : s.here) {y : Slot} {ss : List Slot} (h : SlotBecomes s { s with slots := ss } f y) (v : DWord)
    (d : BitVec 6) (r : DWord) : SlotIs s ((({ s with slots := ss } : State).seen f v).alu d r) f y v d r := by
  let sees (q : Party) : Party := { q with frSeen := assocSet f.key v q.frSeen }
  let u : State := ({ s with slots := ss } : State).seen f v
  have hu : u.here := here_upd (s := { s with slots := ss }) hhere sees fun _ => rfl
  have hme : u.me = sees s.me := State.me_upd (s := { s with slots := ss }) hhere sees fun _ => rfl
  obtain ⟨hreg, hpc, hmine, hothers, -, -, -⟩ := wrote_alu hu d r
  rw [hme] at hreg hpc hmine
  have hslots (p k : Nat) : (u.alu d r).slotAt p k = ({ s with slots := ss } : State).slotAt p k := rfl
  refine ⟨(hslots _ _).trans h.it, ?_, ?_, hpc, fun n hn => ?_, fun p hp => ?_,
    fun p k hpk => (hslots p k).trans (h.others p k hpk), rfl⟩
  · by_cases hd : d = 0
    · subst hd; rfl
    · have hd' : d.toNat ≠ 0 := fun h0 => hd (BitVec.eq_of_toNat_eq h0)
      rw [hreg, if_pos ⟨rfl, hd'⟩, if_neg hd]
  · have hseen := congrArg Party.frSeen hmine
    exact (congrArg (lookupD f.key 0) hseen).trans (lookupD_assocSet_self ..)
  · rw [hreg, if_neg fun h => hn h.1]; rfl
  · exact (hothers p hp).trans (State.party_upd_other { s with slots := ss } sees (fun _ => rfl) hp)

/-- The same with the slot as it was. -/
theorem slotIs_unchanged (hhere : s.here) (f : FredDesc) (v : DWord) (d : BitVec 6) (r : DWord) :
    SlotIs s ((s.seen f v).alu d r) f (s.slotAt f.port f.slot) v d r := slotIs_answer (ss := s.slots) hhere (.refl s f) v d r

/-- The same with the slot set anew. -/
theorem slotIs_setSlot (hhere : s.here) {y : Slot} (hport : y.port = f.port) (hslot : y.slot = f.slot) (v : DWord) (d : BitVec 6)
    (r : DWord) : SlotIs s (((s.setSlot y).seen f v).alu d r) f y v d r :=
  slotIs_answer (ss := (s.setSlot y).slots) hhere (slotBecomes_setSlot s hport hslot) v d r

/-- Bit 4 of a status that has it clear. -/
theorem or_16_of_clear {v : DWord} (h : v.getLsbD 4 = false) : v ||| 16 = v + 16 := by
  refine (BitVec.add_eq_or_of_and_eq_zero v 16 (BitVec.eq_of_getLsbD_eq fun i hi => ?_)).symm
  have hbit : (16 : DWord).getLsbD i = decide (i = 4) :=
    (by decide : ∀ j : Fin 64, (16 : DWord).getLsbD j = decide (j.val = 4)) ⟨i, hi⟩
  rw [BitVec.getLsbD_and, hbit]
  by_cases h4 : i = 4
  · subst h4; rw [h]; rfl
  · simp [h4]

theorem gives_frstat (h : Ready s [d] [a]) (hown : FredOwns s a f) :
    Gives (.frstat d a) s (Wrote s · d (lookupD f.key 0 s.me.frSeen)) := by
  refine ⟨_, show execFrstat d a s = .next (s.alu d (lookupD f.key 0 s.me.frSeen)) from ?_, wrote_alu h.here d _⟩
  rw [execFrstat, scalar_ready h, fred_owned hown, ite_self]

/-- With the port down nothing is done, and the answer says so. -/
theorem exec_fred_down (h : Ready s [d] [a, b]) (hown : FredOwns s a f) (hdown : (s.fabric.getD f.port FabricPort.blank).up = false) :
    let v := lookupD f.key 0 s.me.frSeen ||| 16
    exec (.frjoin d a) s = .next ((s.seen f v).alu d v) ∧ exec (.frput d a b) s = .next ((s.seen f v).alu d v) ∧
      exec (.frget d a) s = .next ((s.seen f v).alu d 0) := by
  intro v
  have ha : Ready s [d] [a] := h.mono (List.Subset.refl _) (by simp)
  refine ⟨show execFrjoin d a s = _ from ?_, show execFrput d a b s = _ from ?_, show execFrget d a s = _ from ?_⟩
  · rw [execFrjoin, scalar_ready ha, fred_down hown hdown]
    rfl
  · rw [execFrput, scalar_ready h, fred_down hown hdown]
    rfl
  · rw [execFrget, scalar_ready ha, fred_down hown hdown]

/-- FRPUT sends a contribution (R195). -/
theorem gives_frput (h : Ready s [d] [a, b]) (hreach : FredReach s a f) :
    Gives (.frput d a b) s fun t => Became
      { s with
        puts := s.puts ++ [⟨s.fresh, s.actor, s.rd a, s.rd b, d.toNat, s.clk⟩]
        fresh := s.fresh + 1 } t
      { s.me with
        pending := if d = 0 then s.me.pending else s.me.pending ++ [(d.toNat, s.fresh)]
        pc := s.me.pc + 4 } := by
  let u : State := { s with
    puts := s.puts ++ [⟨s.fresh, s.actor, s.rd a, s.rd b, d.toNat, s.clk⟩]
    fresh := s.fresh + 1 }
  let waits (q : Party) : Party := { q with pending := if d = 0 then q.pending else q.pending ++ [(d.toNat, s.fresh)] }
  have hgoes : exec (.frput d a b) s = .next (u.upd waits).adv := by
    show execFrput d a b s = _
    rw [execFrput, scalar_ready h, fred_reached hreach]
  rw [upd_adv u (f := waits) fun _ => rfl] at hgoes
  exact ⟨_, hgoes, became_upd (s := u) h.here _ fun _ => rfl⟩

/-- A round that opens in an idle slot. -/
def Slot.opened (x : Slot) (f : FredDesc) (p : PartyId) (clk : Nat) : Slot :=
  { x.close with
    state := .collecting
    round := f.round
    operation := f.operation
    count := f.count
    timeout := f.timeout
    openedAt := clk
    joiners := [(p, false)] }

/-- FRJOIN opens the round of an idle slot. -/
theorem exec_frjoin_opens (h : Ready s [d] [a]) (hreach : FredReach s a f) (hstate : (s.slotAt f.port f.slot).state = .idle) :
    let y := (s.slotAt f.port f.slot).opened f s.actor s.clk
    exec (.frjoin d a) s = .next (((s.setSlot y).seen f (y.status false false)).alu d (y.status false false)) := by
  intro y
  show execFrjoin d a s = _
  rw [execFrjoin, scalar_ready h, fred_reached hreach]
  simp only [hstate]
  rfl

/-- The descriptor of a FRJOIN agrees with the round that collects, and has room in it. -/
def Slot.admits (x : Slot) (f : FredDesc) (p : PartyId) : Prop := x.agrees f = true ∧ (x.joined p = true ∨ x.joiners.length < x.count)

/-- A party has joined a round. -/
def Slot.joinedBy (x : Slot) (p : PartyId) : Slot := { x with joiners := addNew (p, false) x.joiners }

theorem exec_frjoin_joins (h : Ready s [d] [a]) (hreach : FredReach s a f) (hstate : (s.slotAt f.port f.slot).state = .collecting)
    (hadmits : (s.slotAt f.port f.slot).admits f s.actor) :
    let x := s.slotAt f.port f.slot
    let v := (x.joinedBy s.actor).status false false
    exec (.frjoin d a) s = .next (((s.setSlot (x.joinedBy s.actor)).seen f v).alu d v) := by
  intro x v
  obtain ⟨hagrees, hroom⟩ := hadmits
  have hno : ¬(!x.agrees f || (!x.joined s.actor && decide (x.count ≤ x.joiners.length))) = true := by
    rw [hagrees]
    obtain hjoined | hfew := hroom
    · simp [x, hjoined]
    · simp [x, Nat.not_le.2 hfew]
  show execFrjoin d a s = _
  rw [execFrjoin, scalar_ready h, fred_reached hreach]
  dsimp only
  split
  · next hidle => exact absurd (hstate.symm.trans hidle) (by decide)
  · rw [if_neg hno]
    rfl
  · next hdone => exact absurd (hstate.symm.trans hdone) (by decide)

theorem exec_frjoin_refused (h : Ready s [d] [a]) (hreach : FredReach s a f) (hstate : (s.slotAt f.port f.slot).state = .collecting)
    (hadmits : ¬(s.slotAt f.port f.slot).admits f s.actor) :
    let v := (s.slotAt f.port f.slot).status true false
    exec (.frjoin d a) s = .next ((s.seen f v).alu d v) := by
  intro v
  have hyes : (!(s.slotAt f.port f.slot).agrees f || (!(s.slotAt f.port f.slot).joined s.actor &&
      decide ((s.slotAt f.port f.slot).count ≤ (s.slotAt f.port f.slot).joiners.length))) = true := by
    rw [Slot.admits, not_and, not_or] at hadmits
    cases hagrees : (s.slotAt f.port f.slot).agrees f with
    | false => rfl
    | true =>
      obtain ⟨hnot, hfull⟩ := hadmits hagrees
      simpa [hnot] using Nat.not_lt.1 hfull
  show execFrjoin d a s = _
  rw [execFrjoin, scalar_ready h, fred_reached hreach]
  simp only [hstate]
  rw [if_pos hyes]
  rfl

theorem exec_frjoin_late (h : Ready s [d] [a]) (hreach : FredReach s a f) (hstate : (s.slotAt f.port f.slot).state = .delivered) :
    let v := (s.slotAt f.port f.slot).status (!(s.slotAt f.port f.slot).agrees f) true
    exec (.frjoin d a) s = .next ((s.seen f v).alu d v) := by
  intro v
  show execFrjoin d a s = _
  rw [execFrjoin, scalar_ready h, fred_reached hreach]
  simp only [hstate]
  rfl

/-- The party has joined the descriptor's round. -/
def Slot.engages (x : Slot) (f : FredDesc) (p : PartyId) : Prop := x.state ≠ .idle ∧ x.round = f.round ∧ x.joined p = true

theorem Slot.not_engages_iff {x : Slot} {f : FredDesc} {p : PartyId} :
    ¬x.engages f p ↔ x.state = .idle ∨ x.round ≠ f.round ∨ (!x.joined p) = true := by
  rw [Slot.engages, not_and_or, not_and_or, not_not, Bool.not_eq_true, Bool.not_eq_true']

theorem exec_frget_foreign (h : Ready s [d] [a]) (hreach : FredReach s a f) (hnot : ¬(s.slotAt f.port f.slot).engages f s.actor) :
    exec (.frget d a) s = .next ((s.seen f ((s.slotAt f.port f.slot).status true false)).alu d 0) := by
  show execFrget d a s = _
  rw [execFrget, scalar_ready h, fred_reached hreach]
  exact congrArg _ (if_pos (Slot.not_engages_iff.1 hnot))

theorem exec_frget_waits (h : Ready s [d] [a]) (hreach : FredReach s a f) (hjoined : (s.slotAt f.port f.slot).engages f s.actor)
    (hstate : (s.slotAt f.port f.slot).state = .collecting) : exec (.frget d a) s = .next s := by
  show execFrget d a s = _
  rw [execFrget, scalar_ready h, fred_reached hreach]
  dsimp only
  rw [if_neg (mt Slot.not_engages_iff.2 (not_not.2 hjoined)), if_pos hstate]

/-- A reader has taken the result; the last one closes the round. -/
def Slot.readBy (x : Slot) (p : PartyId) : Slot :=
  let y := { x with getters := addNew p x.getters }
  if y.joiners.all fun j => decide (j.1 ∈ y.getters) then y.close else y

theorem exec_frget_reads (h : Ready s [d] [a]) (hreach : FredReach s a f) (hjoined : (s.slotAt f.port f.slot).engages f s.actor)
    (hstate : (s.slotAt f.port f.slot).state = .delivered) :
    let x := s.slotAt f.port f.slot
    exec (.frget d a) s = .next (((s.setSlot (x.readBy s.actor)).seen f (x.status false false)).alu d x.result) := by
  intro x
  show execFrget d a s = _
  rw [execFrget, scalar_ready h, fred_reached hreach]
  dsimp only
  rw [if_neg (mt Slot.not_engages_iff.2 (not_not.2 hjoined)), if_neg (by rw [hstate]; decide)]
  rfl

end Fred

theorem Slot.opened_place (x : Slot) (f : FredDesc) (p : PartyId) (clk : Nat) :
    (x.opened f p clk).port = x.port ∧ (x.opened f p clk).slot = x.slot := ⟨rfl, rfl⟩

theorem Slot.joinedBy_place (x : Slot) (p : PartyId) : (x.joinedBy p).port = x.port ∧ (x.joinedBy p).slot = x.slot := ⟨rfl, rfl⟩

theorem Slot.readBy_place (x : Slot) (p : PartyId) : (x.readBy p).port = x.port ∧ (x.readBy p).slot = x.slot := by
  unfold Slot.readBy
  dsimp only
  split <;> exact ⟨rfl, rfl⟩

theorem Slot.readBy_last {x : Slot} {p : PartyId} (h : ∀ j ∈ x.joiners, j.1 = p ∨ j.1 ∈ x.getters) :
    (x.readBy p).state = .idle := by
  unfold Slot.readBy
  dsimp only
  rw [if_pos (by simpa [List.all_eq_true, mem_addNew] using h)]
  rfl

theorem Slot.readBy_not_last {x : Slot} {p : PartyId} (h : ∃ j ∈ x.joiners, j.1 ≠ p ∧ j.1 ∉ x.getters) :
    x.readBy p = { x with getters := addNew p x.getters } := by
  obtain ⟨j, hj, hnot, hnever⟩ := h
  unfold Slot.readBy
  dsimp only
  refine if_neg fun hall => ?_
  obtain hp | hg := mem_addNew.1 (of_decide_eq_true (List.all_eq_true.1 hall j hj))
  · exact hnot hp
  · exact hnever hg

/-! ## Contributions at the switch (R196, R308) -/

/-- What an answer to a contribution leaves of its party, but for the register. -/
def Party.answered (c : FredPut) (f : FredDesc) (v : DWord) (q : Party) : Party :=
  { q with
    frSeen := assocSet f.key v q.frSeen
    pending := q.pending.filter fun x => decide (x ≠ (c.dest, c.id)) }

/-- The answer to a contribution whose register waits for it. -/
theorem answerPut_waiting {s : State} {c : FredPut} (hwaits : (c.dest, c.id) ∈ (s.party c.p).pending) (f : FredDesc) (v : DWord) :
    s.answerPut c f v =
      (({ s with puts := s.puts.filter fun x => decide (x.id ≠ c.id) } : State).wrTo c.p c.dest v).updParty c.p
        (Party.answered c f v) := by
  have hyes : ((s.party c.p).pending.any fun x => decide (x = (c.dest, c.id))) = true :=
    List.any_eq_true.2 ⟨_, hwaits, decide_eq_true rfl⟩
  rw [State.answerPut, hyes]
  rfl

/-- The answer to one whose register waits no longer. -/
theorem answerPut_unawaited {s : State} {c : FredPut} (hnot : (c.dest, c.id) ∉ (s.party c.p).pending) (f : FredDesc) (v : DWord) :
    s.answerPut c f v =
      ({ s with puts := s.puts.filter fun x => decide (x.id ≠ c.id) } : State).updParty c.p (Party.answered c f v) := by
  have hno : ((s.party c.p).pending.any fun x => decide (x = (c.dest, c.id))) = false :=
    List.any_eq_false.2 fun x hx h => hnot (of_decide_eq_true h ▸ hx)
  rw [State.answerPut, hno]
  rfl

/-- The parties after an answer: its own has the word, in the register too where it waits for it. -/
theorem party_answerPut {s : State} {c : FredPut} (hparty : (s.party? c.p).isSome = true) (f : FredDesc) (v : DWord) :
    (s.answerPut c f v).party c.p =
        Party.answered c f v (if (c.dest, c.id) ∈ (s.party c.p).pending then (s.party c.p).setSreg c.dest v else s.party c.p) ∧
      ∀ p, p ≠ c.p → (s.answerPut c f v).party p = s.party p := by
  let u : State := { s with puts := s.puts.filter fun x => decide (x.id ≠ c.id) }
  have hanswered : KeepsId (Party.answered c f v) := fun _ => rfl
  have hwrites : KeepsId fun q => q.setSreg c.dest v := fun q => Party.setSreg_id q _ _
  by_cases hwaits : (c.dest, c.id) ∈ (s.party c.p).pending
  · have hthere : ((u.wrTo c.p c.dest v).party? c.p).isSome = true := by
      show ((u.updParty c.p fun q => q.setSreg c.dest v).party? c.p).isSome = true
      rw [State.party?_updParty _ _ _ _ hwrites]
      simpa using (show (u.party? c.p).isSome = true from hparty)
    rw [answerPut_waiting hwaits, if_pos hwaits]
    refine ⟨?_, fun p hp => ?_⟩
    · refine (State.party_updParty_self _ c.p _ hanswered hthere).trans (congrArg _ ?_)
      exact State.party_updParty_self u c.p _ hwrites hparty
    · refine (State.party_updParty_other _ c.p p _ hanswered hp).trans ?_
      exact State.party_updParty_other u c.p p _ hwrites hp
  · rw [answerPut_unawaited hwaits, if_neg hwaits]
    exact ⟨State.party_updParty_self u c.p _ hanswered hparty, fun p hp => State.party_updParty_other u c.p p _ hanswered hp⟩

/-- An answer changes neither memory nor a slot, and the contribution is on its way no longer. -/
theorem answerPut_rest (s : State) (c : FredPut) (f : FredDesc) (v : DWord) :
    (s.answerPut c f v).slots = s.slots ∧ (s.answerPut c f v).mem = s.mem ∧
      (s.answerPut c f v).puts = s.puts.filter fun x => decide (x.id ≠ c.id) := by
  by_cases hwaits : (c.dest, c.id) ∈ (s.party c.p).pending
  · rw [answerPut_waiting hwaits]
    exact ⟨rfl, rfl, rfl⟩
  · rw [answerPut_unawaited hwaits]
    exact ⟨rfl, rfl, rfl⟩

theorem slotAt_of_slots {s t : State} (h : t.slots = s.slots) (p k : Nat) : t.slotAt p k = s.slotAt p k := by
  rw [State.slotAt, State.slotAt, h]

/-- The answer of a switch whose slot is now `y`. -/
theorem putAnswered_answerPut {s : State} {c : FredPut} (hparty : (s.party? c.p).isSome = true) {f : FredDesc} {y : Slot} {ss : List Slot}
    (h : SlotBecomes s { s with slots := ss } f y) (v : DWord) :
    PutAnswered s (State.answerPut { s with slots := ss } c f v) c f y v := by
  obtain ⟨hme, hothers⟩ := party_answerPut (s := { s with slots := ss }) hparty f v
  obtain ⟨hslots, hmem, hputs⟩ := answerPut_rest { s with slots := ss } c f v
  have hparties (p : PartyId) : ({ s with slots := ss } : State).party p = s.party p := rfl
  rw [hparties] at hme
  refine ⟨(slotAt_of_slots hslots _ _).trans h.it, ?_, ?_, ?_, fun n => ?_, hothers,
    fun p k hpk => (slotAt_of_slots hslots p k).trans (h.others p k hpk), hmem⟩
  · rw [hputs]
    simp
  · rw [hme]
    exact lookupD_assocSet_self ..
  · rw [hme, Party.answered]
    simp
  · rw [hme]
    show (if (c.dest, c.id) ∈ (s.party c.p).pending then (s.party c.p).setSreg c.dest v else s.party c.p).sreg n = _
    by_cases hwaits : (c.dest, c.id) ∈ (s.party c.p).pending
    · rw [if_pos hwaits, Party.sreg_setSreg]
      refine if_congr ?_ rfl rfl
      constructor
      · rintro ⟨rfl, hn⟩; exact ⟨rfl, hn, hwaits⟩
      · rintro ⟨rfl, hn, -⟩; exact ⟨rfl, hn⟩
    · rw [if_neg hwaits, if_neg fun h => hwaits h.2.2]

section Puts

variable {s : State} {c : FredPut} {f : FredDesc} (hid : s.args.x = c.id) (hmem : c ∈ s.puts)
  (honly : ∀ k ∈ s.puts, k.id = c.id → k = c) (hword : FredDesc.ofWord c.word = some f)

include hid hmem honly in
theorem find?_put : (s.puts.find? fun k => decide (k.id = s.args.x)) = some c := by
  have hsome : (s.puts.find? fun k => decide (k.id = s.args.x)).isSome = true :=
    List.find?_isSome.2 ⟨c, hmem, decide_eq_true hid.symm⟩
  obtain ⟨k, hk⟩ := Option.isSome_iff_exists.1 hsome
  have hkid := List.find?_some hk
  have hkc : k = c := honly k (List.mem_of_find?_eq_some hk) ((of_decide_eq_true hkid).trans hid)
  rw [hk, hkc]

include hid hmem honly hword

/-- A contribution reaches its switch. -/
theorem exec_packetAcknowledge_put (hflag : s.args.flag = true) (hup : (s.fabric.getD f.port FabricPort.blank).up = true)
    {z : Slot} {v : DWord} (hput : (s.slotAt f.port f.slot).put f c.p c.value s.clk = (z, v)) :
    exec .packetAcknowledge s = .next ((s.setSlot z).answerPut c f v) := by
  show execPacketAcknowledge s = _
  rw [execPacketAcknowledge, if_pos hflag, State.takePut, find?_put hid hmem honly]
  dsimp only
  rw [hword]
  dsimp only
  rw [hup, hput]
  rfl

theorem exec_destinationUnreachable_put (hflag : s.args.flag = true) : exec .destinationUnreachable s =
    .next (if s.clk < c.sentAt + 4000000 then s else s.answerPut c f (lookupD f.key 0 (s.party c.p).frSeen ||| 16)) := by
  show execDestinationUnreachable s = _
  rw [execDestinationUnreachable, if_pos hflag, State.losePut, find?_put hid hmem honly]
  dsimp only
  rw [hword]
  rfl

end Puts

/-! ## What a slot does with a contribution (R196) -/

/-- The word that a contribution adds to its round: 32 bits of it for a floating-point operation. -/
def Slot.word (x : Slot) (v : DWord) : DWord := if x.operation < 4 then v &&& 0xFFFFFFFF else v

/-- The slot with one contribution more. -/
def Slot.taking (x : Slot) (v : DWord) : Slot := { x with taken := x.taken ++ [x.word v], received := x.received + 1 }

section SlotPut

variable {x : Slot} {f : FredDesc} {p : PartyId} (v : DWord) (clk : Nat)

theorem put_foreign (h : ¬x.engages f p) : x.put f p v clk = (x, x.status true false) := if_pos (Slot.not_engages_iff.1 h)

theorem put_engaged (h : x.engages f p) : x.put f p v clk =
    if x.state = .delivered then (x, x.status false true)
    else
      let z := if x.received + 1 = x.count then (x.taking v).deliver clk false else x.taking v
      (z, z.status false false) := if_neg (mt Slot.not_engages_iff.2 (not_not.2 h))

theorem put_late (h : x.engages f p) (hstate : x.state = .delivered) : x.put f p v clk = (x, x.status false true) := by
  rw [put_engaged v clk h, if_pos hstate]

theorem put_taken (h : x.engages f p) (hstate : x.state = .collecting) (hmore : x.received + 1 ≠ x.count) :
    x.put f p v clk = (x.taking v, (x.taking v).status false false) := by
  rw [put_engaged v clk h, if_neg (by rw [hstate]; decide), if_neg hmore]

/-- The last contribution delivers the round. -/
theorem put_last (h : x.engages f p) (hstate : x.state = .collecting) (hlast : x.received + 1 = x.count) :
    x.put f p v clk = ((x.taking v).deliver clk false, ((x.taking v).deliver clk false).status false false) := by
  rw [put_engaged v clk h, if_neg (by rw [hstate]; decide), if_pos hlast]

end SlotPut

/-! ## The folds (R196) -/

/-- The contributions of a maximum or minimum that are no NaN. -/
def reals (vs : List DWord) : List DWord := vs.filter fun v => !(FType.f32.decode v.toNat).isNan

theorem filter_fredNan {op : Nat} (hop : op < 4) (vs : List DWord) : (vs.filter fun v => !fredNan op v) = reals vs :=
  congrArg (List.filter · vs) (funext fun v => by simp [fredNan, hop])

theorem reals_eq_nil {vs : List DWord} (h : ∀ v ∈ vs, (FType.f32.decode v.toNat).isNan = true) : reals vs = [] :=
  List.filter_eq_nil_iff.2 fun v hv => by simp [h v hv]

/-- Maxima and minima of NaNs only. -/
theorem fredResult_of_nans {vs : List DWord} (h : ∀ v ∈ vs, (FType.f32.decode v.toNat).isNan = true) {op : Nat} (hop : op < 3) :
    fredResult op vs = BitVec.ofNat 64 FType.f32.canonicalNan := by
  have hnone := (filter_fredNan (op := op) (by omega) vs).trans (reals_eq_nil h)
  interval_cases op <;>
    · rw [fredResult]
      simp only [hnone]
      rfl

/-- Maxima and minima of the contributions that are no NaN. -/
theorem fredResult_of_reals {vs r : List DWord} {v : DWord} (h : reals vs = v :: r) :
    fredResult 0 vs = BitVec.ofNat 64 (r.foldl (fun a x => fmax32 a x.toNat) v.toNat) ∧
      fredResult 1 vs = BitVec.ofNat 64 (r.foldl (fun a x => fmin32 a x.toNat) v.toNat) ∧
      fredResult 2 vs = BitVec.ofNat 64 (r.foldl (fun a x => famax32 a x.toNat) (famax32 v.toNat v.toNat)) := by
  refine ⟨?_, ?_, ?_⟩ <;>
    · rw [fredResult]
      simp only [filter_fredNan, h, Nat.reduceLT]
      rfl

/-- A sum with a NaN. -/
theorem fredResult_sum_nan {vs : List DWord} (h : ∃ v ∈ vs, (FType.f32.decode v.toNat).isNan = true) :
    fredResult 3 vs = BitVec.ofNat 64 FType.f32.canonicalNan := by
  obtain ⟨w, hw, hnan⟩ := h
  have hany : vs.any (fredNan 3) = true := List.any_eq_true.2 ⟨w, hw, by simp [fredNan, hnan]⟩
  cases vs with
  | nil => cases hw
  | cons v r => exact if_pos hany

theorem fredResult_sum {v : DWord} {r : List DWord} (h : ∀ x ∈ v :: r, ¬(FType.f32.decode x.toNat).isNan = true) :
    fredResult 3 (v :: r) = BitVec.ofNat 64 (r.foldl (fun a x => rne32Add a x.toNat) v.toNat) := by
  have hno : (v :: r).any (fredNan 3) = false := List.any_eq_false.2 fun x hx => by simp [fredNan, h x hx]
  exact if_neg (by rw [hno]; exact Bool.false_ne_true)

theorem toNat_foldl_add (vs : List DWord) (a : DWord) :
    (vs.foldl (fun a x => a + x) a).toNat = (a.toNat + (vs.map (·.toNat)).sum) % 2 ^ 64 := by
  induction vs generalizing a with
  | nil => simp [Nat.mod_eq_of_lt a.isLt]
  | cons v r ih => rw [List.foldl_cons, ih, BitVec.toNat_add, List.map_cons, List.sum_cons, Nat.mod_add_mod, Nat.add_assoc]

/-- The greater of two signed words. -/
def sMax (a x : DWord) : DWord := if a.slt x then x else a

theorem sMax_bounds (a x : DWord) : a.toInt ≤ (sMax a x).toInt ∧ x.toInt ≤ (sMax a x).toInt ∧ (sMax a x = a ∨ sMax a x = x) := by
  unfold sMax
  rw [BitVec.slt_eq_decide]
  by_cases h : a.toInt < x.toInt
  · rw [if_pos (decide_eq_true h)]
    exact ⟨h.le, le_refl _, .inr rfl⟩
  · rw [if_neg (by simpa using h)]
    exact ⟨le_refl _, not_lt.1 h, .inl rfl⟩

theorem foldl_sMax (vs : List DWord) (a : DWord) :
    (vs.foldl sMax a = a ∨ vs.foldl sMax a ∈ vs) ∧ a.toInt ≤ (vs.foldl sMax a).toInt ∧
      ∀ v ∈ vs, v.toInt ≤ (vs.foldl sMax a).toInt := by
  induction vs generalizing a with
  | nil => exact ⟨.inl rfl, le_refl _, fun v hv => absurd hv (by simp)⟩
  | cons w r ih =>
    obtain ⟨ha, hw, hone⟩ := sMax_bounds a w
    obtain ⟨hin, hbase, hall⟩ := ih (sMax a w)
    refine ⟨?_, ha.trans hbase, fun v hv => ?_⟩
    · rw [List.foldl_cons]
      obtain hsame | hmem := hin
      · rw [hsame]
        exact hone.imp id fun e => by rw [e]; exact List.mem_cons_self
      · exact .inr (List.mem_cons_of_mem _ hmem)
    · obtain rfl | hr := List.mem_cons.1 hv
      · exact hw.trans hbase
      · exact hall v hr

/-- The greatest signed contribution: the least word where all are the least. -/
theorem fredResult_sMax {vs : List DWord} :
    (fredResult 5 []).toInt = -2 ^ 63 ∧ (vs ≠ [] → fredResult 5 vs ∈ vs) ∧ ∀ v ∈ vs, v.toInt ≤ (fredResult 5 vs).toInt := by
  have hfold : fredResult 5 vs = vs.foldl sMax (dw (2 ^ 63)) := rfl
  have hleast : (dw (2 ^ 63)).toInt = -2 ^ 63 := by decide
  obtain ⟨hin, -, hall⟩ := foldl_sMax vs (dw (2 ^ 63))
  rw [← hfold] at hin hall
  refine ⟨hleast, fun hne => ?_, hall⟩
  obtain hsame | hmem := hin
  · obtain ⟨v, hv⟩ := List.exists_mem_of_ne_nil vs hne
    have hv' : v.toInt = (dw (2 ^ 63)).toInt := by
      have h1 := hall v hv
      have h2 := BitVec.le_toInt v
      rw [hsame, hleast] at h1
      rw [hleast]
      norm_num at h2 ⊢
      omega
    rw [hsame, ← BitVec.eq_of_toInt_eq hv']
    exact hv
  · exact hmem

/-! ## Timeouts of a round (R196) -/

section Timeouts

variable {s : State}

theorem exec_roundTimeout : exec .roundTimeout s =
    let x := s.slotAt s.args.x s.args.y
    .next (if x.state = .collecting ∧ x.openedAt + x.timeout * 4000 ≤ s.clk then s.setSlot (x.deliver s.clk true) else s) := rfl

theorem exec_slotCloseTimeout : exec .slotCloseTimeout s =
    let x := s.slotAt s.args.x s.args.y
    .next (if x.state = .delivered ∧ x.deliveredAt + x.timeout * 4000 ≤ s.clk then s.setSlot x.close else s) := rfl

end Timeouts

theorem FredDesc.round_lt {w : DWord} {f : FredDesc} (h : FredDesc.ofWord w = some f) : f.round < 256 := by
  unfold FredDesc.ofWord at h
  dsimp only at h
  split at h
  · obtain rfl := Option.some.inj h
    exact Nat.mod_lt _ (by decide)
  · cases h

section Instructions

variable {s : State} {d a b : BitVec 6} {f : FredDesc}

theorem gives_fred_down (h : Ready s [d] [a, b]) (hown : FredOwns s a f) (hdown : (s.fabric.getD f.port FabricPort.blank).up = false)
    (hclear : (lookupD f.key 0 s.me.frSeen).getLsbD 4 = false) :
    let v := lookupD f.key 0 s.me.frSeen + 16
    let x := s.slotAt f.port f.slot
    (∀ i ∈ [Instr.frjoin d a, .frput d a b], Gives i s fun t => SlotIs s t f x v d v ∧ t.puts = s.puts) ∧
      Gives (.frget d a) s fun t => SlotIs s t f x v d 0 := by
  intro v x
  obtain ⟨hjoin, hput, hget⟩ := exec_fred_down h hown hdown
  rw [or_16_of_clear hclear] at hjoin hput hget
  have hsame := slotIs_unchanged h.here f v d
  refine ⟨?_, ⟨_, hget, hsame 0⟩⟩
  simp only [List.forall_mem_cons, List.not_mem_nil, false_imp_iff, implies_true, and_true]
  exact ⟨⟨_, hjoin, hsame v, rfl⟩, ⟨_, hput, hsame v, rfl⟩⟩

variable (h : Ready s [d] [a]) (hreach : FredReach s a f) (hport : (s.slotAt f.port f.slot).port = f.port)
  (hslot : (s.slotAt f.port f.slot).slot = f.slot)
include h hreach

include hport hslot in
theorem gives_frjoin_opens (hidle : (s.slotAt f.port f.slot).state = .idle) :
    let y := (s.slotAt f.port f.slot).opened f s.actor s.clk
    Gives (.frjoin d a) s fun t => ∃ v, SlotIs s t f y v d v ∧ StatusWord v y false false false := by
  intro y
  obtain ⟨hp, hk⟩ := Slot.opened_place (s.slotAt f.port f.slot) f s.actor s.clk
  exact ⟨_, exec_frjoin_opens h hreach hidle, _, slotIs_setSlot h.here (hp.trans hport) (hk.trans hslot) _ d _,
    statusWord_status (x := y) (FredDesc.round_lt hreach.word) (Nat.zero_lt_succ _) false false⟩

include hport hslot in
theorem gives_frjoin_joins (hfits : SlotFits (s.slotAt f.port f.slot)) (hstate : (s.slotAt f.port f.slot).state = .collecting)
    (hadmits : (s.slotAt f.port f.slot).admits f s.actor) :
    let x := s.slotAt f.port f.slot
    Gives (.frjoin d a) s fun t => ∃ v, SlotIs s t f (x.joinedBy s.actor) v d v ∧ StatusWord v x false false false := by
  intro x
  obtain ⟨hround, hreceived⟩ := hfits
  obtain ⟨hp, hk⟩ := x.joinedBy_place s.actor
  exact ⟨_, exec_frjoin_joins h hreach hstate hadmits, _, slotIs_setSlot h.here (hp.trans hport) (hk.trans hslot) _ d _,
    statusWord_status (x := x) hround (hreceived.trans (by decide)) false false⟩

theorem gives_frjoin_refused (hfits : SlotFits (s.slotAt f.port f.slot)) (hstate : (s.slotAt f.port f.slot).state = .collecting)
    (hadmits : ¬(s.slotAt f.port f.slot).admits f s.actor) :
    let x := s.slotAt f.port f.slot
    Gives (.frjoin d a) s fun t => ∃ v, SlotIs s t f x v d v ∧ StatusWord v x false true false := by
  obtain ⟨hround, hreceived⟩ := hfits
  exact ⟨_, exec_frjoin_refused h hreach hstate hadmits, _, slotIs_unchanged h.here f _ d _,
    statusWord_status hround (by omega) true false⟩

theorem gives_frjoin_late (hfits : SlotFits (s.slotAt f.port f.slot)) (hstate : (s.slotAt f.port f.slot).state = .delivered) :
    let x := s.slotAt f.port f.slot
    Gives (.frjoin d a) s fun t => ∃ v, SlotIs s t f x v d v ∧ StatusWord v x false (!x.agrees f) true := by
  obtain ⟨hround, hreceived⟩ := hfits
  exact ⟨_, exec_frjoin_late h hreach hstate, _, slotIs_unchanged h.here f _ d _, statusWord_status hround (by omega) _ true⟩

theorem gives_frget_foreign (hfits : SlotFits (s.slotAt f.port f.slot)) (hnot : ¬(s.slotAt f.port f.slot).engages f s.actor) :
    let x := s.slotAt f.port f.slot
    Gives (.frget d a) s fun t => ∃ v, SlotIs s t f x v d 0 ∧ StatusWord v x false true false := by
  obtain ⟨hround, hreceived⟩ := hfits
  exact ⟨_, exec_frget_foreign h hreach hnot, _, slotIs_unchanged h.here f _ d 0, statusWord_status hround (by omega) true false⟩

include hport hslot in
theorem gives_frget_reads (hjoined : (s.slotAt f.port f.slot).engages f s.actor) (hstate : (s.slotAt f.port f.slot).state = .delivered) :
    let x := s.slotAt f.port f.slot
    Gives (.frget d a) s fun t => ∃ v, SlotIs s t f (x.readBy s.actor) v d x.result := by
  intro x
  obtain ⟨hp, hk⟩ := x.readBy_place s.actor
  exact ⟨_, exec_frget_reads h hreach hjoined hstate, _, slotIs_setSlot h.here (hp.trans hport) (hk.trans hslot) _ d _⟩

end Instructions

section Arrivals

variable {s : State} {c : FredPut} {f : FredDesc} (hflag : s.args.flag = true) (hid : s.args.x = c.id) (hmem : c ∈ s.puts)
  (honly : ∀ k ∈ s.puts, k.id = c.id → k = c) (hword : FredDesc.ofWord c.word = some f) (hparty : (s.party? c.p).isSome = true)
include hflag hid hmem honly hword hparty

/-- The switch's answer to a contribution that reaches it. -/
theorem gives_put (hup : (s.fabric.getD f.port FabricPort.blank).up = true) {z : Slot} {v : DWord}
    (hput : (s.slotAt f.port f.slot).put f c.p c.value s.clk = (z, v)) (hport : z.port = f.port) (hslot : z.slot = f.slot) :
    Gives .packetAcknowledge s fun t => PutAnswered s t c f z v :=
  ⟨_, exec_packetAcknowledge_put hid hmem honly hword hflag hup hput,
    putAnswered_answerPut (ss := (s.setSlot z).slots) hparty (slotBecomes_setSlot s hport hslot) v⟩

/-- A contribution that has had no answer for 1 ms is lost, and none before (R308). -/
theorem gives_put_lost :
    (s.clk < c.sentAt + 4000000 → Gives .destinationUnreachable s (· = s)) ∧
      (c.sentAt + 4000000 ≤ s.clk → Gives .destinationUnreachable s fun t =>
        PutAnswered s t c f (s.slotAt f.port f.slot) (lookupD f.key 0 (s.party c.p).frSeen ||| 16)) := by
  have hexec := exec_destinationUnreachable_put hid hmem honly hword hflag
  refine ⟨fun hearly => ⟨_, hexec, if_pos hearly⟩, fun hover => ⟨_, hexec, ?_⟩⟩
  rw [if_neg (Nat.not_lt.2 hover)]
  exact putAnswered_answerPut (ss := s.slots) hparty (.refl s f) _

end Arrivals

/-- Settles O27: a FRED instruction answers as its slot stands, and leaves the slot as that answer says; so do the events. -/
theorem fabricReductions : Obligations.FabricReductions := by
  refine ⟨?instructions, ?puts, ?folds, ?timeouts⟩
  case instructions =>
    intro s d a b f hready x last all
    have ha : Ready s [d] [a] := hready.mono (List.Subset.refl _) (by simp)
    refine ⟨fun hword i hi => ?_, fun hword howner i hi => ?_, fun hword howned howner => ⟨gives_frstat ha ⟨hword, howned, howner⟩,
      gives_fred_down hready ⟨hword, howned, howner⟩⟩, fun hreach hport hslot => ⟨gives_frput hready hreach, fun hidle => ?opens,
      fun hfits hstate => ⟨gives_frjoin_joins ha hreach hport hslot hfits hstate, gives_frjoin_refused ha hreach hfits hstate⟩,
      gives_frjoin_late ha hreach, gives_frget_foreign ha hreach,
      fun hjoined hstate => ⟨_, exec_frget_waits ha hreach hjoined hstate, rfl⟩,
      fun hjoined hstate => ?reads⟩⟩
    · obtain ⟨k, hk⟩ := exec_fred hready i hi
      exact ⟨_, hk.trans (congrArg _ (fred_illegal hword k)), trapped_trap hready.here _⟩
    · obtain ⟨k, hk⟩ := exec_fred hready i hi
      exact ⟨_, hk.trans (congrArg _ (fred_foreign hword howner k)), trapped_fault hready.here ..⟩
    case opens =>
      exact (gives_frjoin_opens ha hreach hport hslot hidle).mono fun t ⟨v, hslotIs, hstatus⟩ =>
        ⟨_, v, hslotIs, hstatus, rfl, rfl, rfl, rfl, rfl, rfl, rfl, rfl, rfl, rfl⟩
    case reads =>
      exact (gives_frget_reads ha hreach hport hslot hjoined hstate).mono fun t ⟨v, hslotIs⟩ =>
        ⟨_, v, hslotIs, Slot.readBy_last, Slot.readBy_not_last⟩
  case puts =>
    intro s c f hflag hid hmem honly hword hparty x w y joined
    refine ⟨fun hup hport hslot hround hreceived => ?_, gives_put_lost hflag hid hmem honly hword hparty⟩
    have hmore : x.received + 1 < 256 := by omega
    refine ⟨fun hjoined hstate hnot => ?_, fun hjoined hstate hlast => ?_, fun hjoined hstate => ?_, fun hnot => ?_⟩
    · exact (gives_put hflag hid hmem honly hword hparty hup (put_taken c.value s.clk hjoined hstate hnot) hport hslot).mono
        fun t hanswer =>
        ⟨_, hanswer, statusWord_status (x := x.taking c.value) hround hmore false false⟩
    · exact (gives_put hflag hid hmem honly hword hparty hup (put_last c.value s.clk hjoined hstate hlast) hport hslot).mono
        fun t hanswer =>
        ⟨_, _, hanswer, statusWord_status (x := (x.taking c.value).deliver s.clk false) hround hmore false false, rfl, rfl, rfl, rfl, rfl,
          rfl⟩
    · exact (gives_put hflag hid hmem honly hword hparty hup (put_late c.value s.clk hjoined hstate) hport hslot).mono fun t hanswer =>
        ⟨_, hanswer, statusWord_status hround (by omega) false true⟩
    · exact (gives_put hflag hid hmem honly hword hparty hup (put_foreign c.value s.clk hnot) hport hslot).mono fun t hanswer =>
        ⟨_, hanswer, statusWord_status hround (by omega) true false⟩
  case folds =>
    intro nan none
    exact ⟨fun vs hnan op hop => fredResult_of_nans hnan hop, fun vs v r h => fredResult_of_reals h, rfl,
      fun vs h => fredResult_sum_nan h,
      fun v r h => fredResult_sum h, fun vs => ⟨(toNat_foldl_add vs 0).trans (by simp), fredResult_sMax⟩⟩
  case timeouts =>
    intro s x hport hslot
    have hset (y : Slot) (hp : y.port = s.args.x) (hk : y.slot = s.args.y) : (s.setSlot y).slotAt s.args.x s.args.y = y := by
      rw [← hp, ← hk]
      exact slotAt_setSlot_self s y
    refine ⟨fun hstate hover => ?_, fun hstate hover => ?_, fun hearly => ?_, fun hearly => ?_⟩
    · exact ⟨_, exec_roundTimeout.trans (congrArg _ (if_pos ⟨hstate, hover⟩)), _, hset _ hport hslot, rfl, rfl, rfl, rfl⟩
    · exact ⟨_, exec_slotCloseTimeout.trans (congrArg _ (if_pos ⟨hstate, hover⟩)), _, hset _ hport hslot, rfl, rfl, rfl, rfl⟩
    · exact ⟨_, exec_roundTimeout, if_neg fun h => absurd h.2 (Nat.not_le.2 hearly)⟩
    · exact ⟨_, exec_slotCloseTimeout, if_neg fun h => absurd h.2 (Nat.not_le.2 hearly)⟩

end Sys2Proof.Machine
end

section
/-!
PROOFS. Lane accesses to global memory (R198 to R202, R204 to R206).
-/
namespace Sys2Proof.Machine

/-! ## Elements beyond a row's length (R204) -/

/-- A zero that is written leaves zeros zero. -/
theorem vreg_wrV_zero {s : State} (h : s.here) {n t m u : Nat} (hzero : (m = n ∧ u = t) ∨ s.me.vreg m u = 0) :
    (s.wrV s.actor n t 0).me.vreg m u = 0 := by
  have hme : (s.wrV s.actor n t 0).me = s.me.setVreg n t 0 := State.me_upd h _ fun _ => rfl
  rw [hme, Party.vreg_setVreg]
  obtain ⟨rfl, rfl⟩ | hold := hzero
  · exact if_pos rfl
  · rw [hold, ite_self]

/-- An element of a thread takes zero where it stands beyond the thread's row. -/
def zeroElement (w : LaneWord) (len : Nat → Nat) (t : Nat) (s : State) (e : Nat) : State :=
  if len t ≤ e then s.wrV s.actor (w.vd.toNat + e) t 0 else s

/-- All of them do. -/
def zeroRow (w : LaneWord) (len : Nat → Nat) (s : State) (t : Nat) : State :=
  (List.range (w.cnt.toNat + 1)).foldl (zeroElement w len t) s

/-- Zeros that are written one after another: each register of them is zero, and zeros stay. -/
theorem foldl_zeros {α : Type} {put : State → α → State} {names : α → Nat → Nat → Prop} {s : State} (h : s.here)
    (hput : ∀ v x, v.here → LaneWrote v (put v x) ∧ ∀ m u, names x m u ∨ v.me.vreg m u = 0 → (put v x).me.vreg m u = 0)
    (xs : List α) :
    LaneWrote s (xs.foldl put s) ∧ ∀ m u, (∃ x ∈ xs, names x m u) ∨ s.me.vreg m u = 0 → (xs.foldl put s).me.vreg m u = 0 := by
  induction xs generalizing s with
  | nil => exact ⟨.refl h, fun m u hz => hz.elim (fun ⟨x, hx, _⟩ => absurd hx (by simp)) id⟩
  | cons x r ih =>
    obtain ⟨hwrote, hzero⟩ := hput s x h
    obtain ⟨hwrote', hzero'⟩ := ih hwrote.here
    refine ⟨hwrote.trans hwrote', fun m u hz => hzero' m u ?_⟩
    obtain ⟨y, hy, hname⟩ | hold := hz
    · obtain rfl | hy := List.mem_cons.1 hy
      · exact .inr (hzero m u (.inl hname))
      · exact .inl ⟨y, hy, hname⟩
    · exact .inr (hzero m u (.inr hold))

theorem zeroRow_spec (w : LaneWord) (len : Nat → Nat) {s : State} (h : s.here) (t : Nat) :
    LaneWrote s (zeroRow w len s t) ∧
      ∀ m u, (u = t ∧ ∃ e, e ≤ w.cnt.toNat ∧ len t ≤ e ∧ m = w.vd.toNat + e) ∨ s.me.vreg m u = 0 →
        (zeroRow w len s t).me.vreg m u = 0 := by
  have hput (v : State) (e : Nat) (hv : v.here) :
      LaneWrote v (zeroElement w len t v e) ∧
        ∀ m u, (len t ≤ e ∧ m = w.vd.toNat + e ∧ u = t) ∨ v.me.vreg m u = 0 → (zeroElement w len t v e).me.vreg m u = 0 := by
    unfold zeroElement
    split
    · exact ⟨laneWrote_wrV hv _ _ _, fun m u hz => vreg_wrV_zero hv (hz.imp_left And.right)⟩
    · next hlen => exact ⟨.refl hv, fun m u hz => hz.elim (fun hname => absurd hname.1 hlen) id⟩
  obtain ⟨hwrote, hzero⟩ := foldl_zeros h hput (List.range (w.cnt.toNat + 1))
  refine ⟨hwrote, fun m u hz => hzero m u (hz.imp_left ?_)⟩
  rintro ⟨hu, e, he, hlen, hm⟩
  exact ⟨e, List.mem_range.2 (by omega), hlen, hm, hu⟩

/-- The same for every thread. -/
theorem zeroRows_spec (w : LaneWord) (len : Nat → Nat) {s : State} (h : s.here) (ts : List Nat) :
    LaneWrote s (ts.foldl (zeroRow w len) s) ∧
      ∀ k ∈ ts, ∀ e, e ≤ w.cnt.toNat → len k ≤ e → (ts.foldl (zeroRow w len) s).me.vreg (w.vd.toNat + e) k = 0 := by
  obtain ⟨hwrote, hzero⟩ := foldl_zeros h (fun v t hv => zeroRow_spec w len hv t) ts
  exact ⟨hwrote, fun k hk e he hlen => hzero _ _ (.inl ⟨k, hk, rfl, e, he, hlen, rfl⟩)⟩

theorem me_addLoads {s : State} (h : s.here) (ls : List LaneAccess) : (s.addLoads ls).me = { s.me with loads := s.me.loads ++ ls } :=
  State.me_upd h _ fun _ => rfl

/-- What a RAGLD leaves before its run goes on: zeros beyond the rows, and a load for each element. -/
theorem ragged_loads {s : State} (h : s.here) (w : LaneWord) (len : Nat → Nat) (ts : List Nat) (ls : List LaneAccess) :
    let s2 := (ts.foldl (zeroRow w len) s).addLoads ls
    s2.mem = s.mem ∧ s2.me.loads = s.me.loads ++ ls ∧
      ∀ k ∈ ts, ∀ e, e ≤ w.cnt.toNat → len k ≤ e → s2.me.vreg (w.vd.toNat + e) k = 0 := by
  intro s2
  obtain ⟨hwrote, hzero⟩ := zeroRows_spec w len h ts
  have hme := me_addLoads hwrote.here ls
  refine ⟨(congrArg State.mem hwrote.rest :), ?_, fun k hk e he hlen => ?_⟩
  · have hloads : (ts.foldl (zeroRow w len) s).me.loads = s.me.loads := (congrArg Party.loads hwrote.mine :)
    rw [hme, hloads]
  · rw [hme]
    exact hzero k hk e he hlen

/-! ## The claim -/

/-- No load of a list of threads reads what an atomic of the group has yet to change. -/
theorem none_pending {α : Type} {q : Party} {ps : α → List Piece} {xs : List α} (h : ∀ x ∈ xs, q.atomicPending (ps x) = false) :
    ¬(xs.any fun x => q.atomicPending (ps x)) = true := by
  rw [Bool.not_eq_true, List.any_eq_false]
  exact fun x hx => by simp [h x hx]

/-- Settles O47: each instruction's sweep makes the accesses that pass, and the faults that are left decide how it ends. -/
theorem laneGlobal : Obligations.LaneGlobal := by
  intro s r w h ts n one
  refine ⟨?ld, ?ragld, ?st, ?atom, ?atomr⟩
  case ld =>
    intro u acq o check s2 hpass hpending
    have hi : exec (.laneLd w) s = execLaneLd w s := rfl
    unfold execLaneLd at hi
    have hloads := none_pending hpending
    refine ⟨fun hok => gives_laneEnds h hpass hi ?_, fun f fs hbad => gives_laneParks h hpass hi ?_⟩
    · exact (if_neg hloads).trans (congrArg (Swept.done _) hok)
    · exact (if_neg hloads).trans (congrArg (Swept.done _) hbad)
  case ragld =>
    intro u o check hpass hpending hok hthere
    have hi : exec (.ragld w) s = execRagld w s := rfl
    unfold execRagld at hi
    let ls : List LaneAccess := check.2.1.map fun x => ⟨s.fresh, x.2.thread, x.1, x.2.addr, x.2.pieces, [], none, []⟩
    have hgood : (ts.filter fun t => !(check.2.2.any fun f => decide (f.thread = t))) = ts :=
      List.filter_eq_self.2 fun t _ => by rw [hok]; rfl
    have hends := gives_laneEnds h hpass hi (s2 := (ts.foldl (zeroRow w (raggedLength o.me w)) check.1).addLoads ls) ?_
    · exact hends.mono fun t ht => ⟨_, ht, ragged_loads hthere w (raggedLength o.me w) ts ls⟩
    · refine (if_neg (none_pending hpending)).trans ?_
      show Swept.done (((ts.filter fun t => !(check.2.2.any fun f => decide (f.thread = t))).foldl
        (zeroRow w (raggedLength o.me w)) check.1).addLoads ls) check.2.2 = _
      rw [hgood, hok]
  case st =>
    intro u rel o check s2 hpass
    have hi : exec (.laneSt w) s = execLaneSt w s := rfl
    unfold execLaneSt at hi
    exact ⟨fun hok => gives_laneEnds h hpass hi (congrArg (Swept.done _) hok),
      fun f fs hbad => gives_laneParks h hpass hi (congrArg (Swept.done _) hbad)⟩
  case atom =>
    intro u o check s2 hpass
    have hi : exec (.atom w) s = execAtom w s := rfl
    unfold execAtom at hi
    exact ⟨fun hok => gives_laneEnds h hpass hi (congrArg (Swept.done _) hok),
      fun f fs hbad => gives_laneParks h hpass hi (congrArg (Swept.done _) hbad)⟩
  case atomr =>
    intro u code o check put hpass hok
    have hi : exec (.atomr w) s = execAtomr w s := rfl
    unfold execAtomr at hi
    refine ⟨fun hadds => gives_laneEnds h hpass hi ?_, fun hother => gives_laneEnds h hpass hi ?_⟩
    · exact (if_pos hadds).trans (congrArg (Swept.done _) hok)
    · exact (if_neg (by omega)).trans (congrArg (Swept.done _) hok)

end Sys2Proof.Machine
end

section
/-!
PROOFS. Barrier objects (R224, R225, R255, R302): their phases, their 16 bytes, and an event as one indivisible step.
-/
namespace Sys2Proof.Machine

/-! ## Events on an object (R225) -/

/-- While arrivals are expected the phase goes on. -/
theorem BarrierObj.settle_of_remaining {b : BarrierObj} (h : b.remaining ≠ 0) : b.settle = b := if_neg fun hc => h hc.1

/-- While bytes are awaited the phase goes on. -/
theorem BarrierObj.settle_of_waiting {b : BarrierObj} (h : b.waiting ≠ 0) : b.settle = b := if_neg fun hc => h hc.2

theorem BarrierObj.settle_completes {b : BarrierObj} (hremaining : b.remaining = 0) (hwaiting : b.waiting = 0) :
    b.settle = { b with phase := (b.phase + 1) % 256, remaining := b.expected, latched := false } := if_pos ⟨hremaining, hwaiting⟩

/-- An arrival without a count at an object that names none. -/
theorem BarrierObj.apply_arrive {b : BarrierObj} (hnamed : b.named = false) (hremaining : b.remaining ≠ 0) :
    b.apply (.arrive 0) = .ok ({ b with remaining := b.remaining - 1 } : BarrierObj).settle := by
  simp [BarrierObj.apply, hnamed, hremaining]

theorem BarrierObj.apply_expect {b : BarrierObj} {n : Int} (h : inPending (b.waiting + n) = true) :
    b.apply (.expect n) = .ok ({ b with waiting := b.waiting + n } : BarrierObj).settle := if_pos h

theorem BarrierObj.apply_land {b : BarrierObj} {n : Nat} (h : inPending (b.waiting - n) = true) :
    b.apply (.land n) = .ok ({ b with waiting := b.waiting - n } : BarrierObj).settle := if_pos h

/-- An object in its first phase, without a named count: `left` of `e` arrivals are still expected. -/
def firstPhase (e left owner : Nat) : BarrierObj := ⟨0, 0, e, left, false, false, owner⟩

theorem firstPhase_arrive {e n : Nat} (hn : n ≠ 0) (o : Nat) : (firstPhase e (n + 1) o).apply (.arrive 0) = .ok (firstPhase e n o) :=
  (BarrierObj.apply_arrive rfl (Nat.succ_ne_zero n)).trans (congrArg _ (BarrierObj.settle_of_remaining (b := firstPhase e n o) hn))

theorem firstPhase_last_arrive (e o : Nat) : (firstPhase e 1 o).apply (.arrive 0) = .ok ⟨1, 0, e, e, false, false, o⟩ :=
  (BarrierObj.apply_arrive rfl Nat.one_ne_zero).trans (congrArg _ (BarrierObj.settle_completes (b := firstPhase e 0 o) rfl rfl))

/-- Bytes awaited before the last arrival hold the phase open until they have landed. -/
theorem phase_held_open {b : BarrierObj} {n : Nat} (hnamed : b.named = false) (hwaiting : b.waiting = 0) (hremaining : b.remaining = 1)
    (hpos : 1 ≤ n) (hn : n < 2 ^ 23) :
    b.apply (.expect n) = .ok { b with waiting := n } ∧
      ({ b with waiting := n } : BarrierObj).apply (.arrive 0) = .ok { b with waiting := n, remaining := 0 } ∧
      ({ b with waiting := n, remaining := 0 } : BarrierObj).apply (.land n) =
        .ok { b with waiting := 0, phase := (b.phase + 1) % 256, remaining := b.expected, latched := false } := by
  have hopen : (n : Int) ≠ 0 := by omega
  refine ⟨?expect, ?arrive, ?land⟩
  case expect =>
    rw [BarrierObj.apply_expect (by simp [inPending, hwaiting]; omega), hwaiting, Int.zero_add,
      BarrierObj.settle_of_waiting (by exact hopen)]
  case arrive =>
    rw [BarrierObj.apply_arrive (by exact hnamed) (by simp [hremaining]), BarrierObj.settle_of_waiting (by exact hopen)]
    simp [hremaining]
  case land =>
    rw [BarrierObj.apply_land (by simp [inPending]), BarrierObj.settle_completes rfl (by simp)]
    simp

/-! ## The 16 bytes (R224) -/

theorem toSigned_ofSigned_24 {x : Int} (hlo : -8388608 ≤ x) (hhi : x ≤ 8388607) : toSigned 24 (ofSigned 24 x) = x := by
  unfold toSigned ofSigned
  norm_num
  split <;> omega

theorem ofBytes_toBytes {b : BarrierObj} (hphase : b.phase < 256) (hlo : -8388608 ≤ b.waiting) (hhi : b.waiting ≤ 8388607)
    (hexpected : b.expected < 65536) (hremaining : b.remaining < 65536) (howner : b.owner < 2 ^ 32) :
    BarrierObj.ofBytes b.toBytes = b := by
  obtain ⟨phase, waiting, expected, remaining, named, latched, owner⟩ := b
  have hwaiting : ofSigned 24 waiting < 2 ^ 24 := by unfold ofSigned; omega
  have hsigned := toSigned_ofSigned_24 hlo hhi
  have hnamed : named.toNat < 2 := named.toNat_lt
  have hlatched : latched.toNat < 2 := latched.toNat_lt
  have hbit (p : Bool) : decide (p.toNat = 1) = p := by cases p <;> rfl
  simp only [BarrierObj.ofBytes, BarrierObj.toBytes, le_toLe, bitsOf] at *
  generalize ofSigned 24 waiting = w at *
  generalize hv : (phase * 2 ^ 120 + w * 2 ^ 96 + expected * 2 ^ 80 + remaining * 2 ^ 64 + named.toNat * 2 ^ 49 + latched.toNat * 2 ^ 48 +
    owner) % 256 ^ 16 = v
  have fphase : v / 2 ^ 120 % 2 ^ (127 + 1 - 120) = phase := by omega
  have fwaiting : v / 2 ^ 96 % 2 ^ (119 + 1 - 96) = w := by omega
  have fexpected : v / 2 ^ 80 % 2 ^ (95 + 1 - 80) = expected := by omega
  have fremaining : v / 2 ^ 64 % 2 ^ (79 + 1 - 64) = remaining := by omega
  have fnamed : v / 2 ^ 49 % 2 ^ (49 + 1 - 49) = named.toNat := by omega
  have flatched : v / 2 ^ 48 % 2 ^ (48 + 1 - 48) = latched.toNat := by omega
  have fowner : v / 2 ^ 0 % 2 ^ (31 + 1 - 0) = owner := by omega
  rw [fphase, fwaiting, fexpected, fremaining, fnamed, flatched, fowner, hsigned, hbit, hbit]

/-! ## Who waits on an object (R255) -/

/-- A party that is blocked on the object at `pl` observes the phase that an event has left, unless it has observed one. -/
def Party.observing (pl : Place) (phase : Nat) (counted : List (Place × Nat)) (q : Party) : Party :=
  match q.waitsOn with
  | some w =>
    if w.place = pl ∧ w.seen = none ∧ w.phase ≠ phase then
      { q with waitsOn := some { w with seen := some (phase, decide ((pl, w.phase) ∈ counted)) } }
    else q
  | none => q

section Observing

variable {pl : Place} {phase : Nat} {counted : List (Place × Nat)} {q : Party}

theorem Party.observing_frame : { q.observing pl phase counted with waitsOn := q.waitsOn } = q := by
  unfold Party.observing
  split
  · split <;> rfl
  · rfl

theorem Party.observing_keepsId : KeepsId (Party.observing pl phase counted) := fun _ =>
  (congrArg Party.id Party.observing_frame :)

theorem Party.observing_of_none (h : q.waitsOn = none) : q.observing pl phase counted = q := by
  unfold Party.observing
  rw [h]

theorem Party.observing_sees {w : BarrierWait} (h : q.waitsOn = some w) (hsees : w.place = pl ∧ w.seen = none ∧ w.phase ≠ phase) :
    (q.observing pl phase counted).waitsOn = some { w with seen := some (phase, decide ((pl, w.phase) ∈ counted)) } := by
  unfold Party.observing
  rw [h]
  dsimp only
  rw [if_pos hsees]

theorem Party.observing_blind {w : BarrierWait} (h : q.waitsOn = some w) (hblind : ¬(w.place = pl ∧ w.seen = none ∧ w.phase ≠ phase)) :
    (q.observing pl phase counted).waitsOn = some w := by
  unfold Party.observing
  rw [h]
  dsimp only
  rw [if_neg hblind, h]

end Observing

/-! ## An event on an object in core store (R225, R302) -/

theorem State.party_mapParties {s t : State} {f : Party → Party} (hf : KeepsId f) (h : t.parties = s.parties.map f) {p : PartyId}
    (hblank : f (Party.blank p 0) = Party.blank p 0) : t.party p = f (s.party p) := by
  rw [State.party, State.party?_mapParties hf h, State.party]
  cases s.party? p with
  | none => exact hblank.symm
  | some q => rfl

/-- An event writes the new object and shows its phase to those that wait; nothing else of the cores, of memory or of a party
changes. -/
theorem barrierEvent_store {s t : State} {core off : Nat} {ev : BarrierEvent} (h : s.barrierEvent (.store core off) ev = .ok t) :
    ∃ b counted, (s.barrierAt (.store core off)).apply ev = .ok b ∧ t.cores = (s.writeStore core off b.toBytes).cores ∧ t.mem = s.mem ∧
      ∀ p, t.party p = (s.party p).observing (.store core off) b.phase counted := by
  unfold State.barrierEvent at h
  dsimp only at h
  split at h
  · exact nomatch h
  · next b hb =>
    injection h with h
    subst h
    exact ⟨b, _, hb, rfl, rfl, fun p => State.party_mapParties Party.observing_keepsId rfl (Party.observing_of_none rfl)⟩

theorem BarrierObj.length_toBytes (b : BarrierObj) : b.toBytes.length = 16 := length_toLe ..

theorem State.core_congr {s t : State} (h : t.cores = s.cores) (c : Nat) : t.core c = s.core c := by rw [State.core, State.core, h]

/-! ## The claim -/

/-- Settles O14: by induction on the arrivals, by the fields of the 16 bytes, and by what an event on core store writes. -/
theorem barrierPhases : Obligations.BarrierPhases := by
  refine ⟨⟨fun e o b0 he => ?arrivals, fun b n hnamed hwaiting hremaining hpos hn => ?bytes, fun b => ofBytes_toBytes⟩,
    fun s t core off ev hcore h => ?event⟩
  case arrivals =>
    intro arrive k
    induction k with
    | zero =>
      intro _
      rw [if_neg (by omega)]
      rfl
    | succ k ih =>
      intro hk
      have hstep : (firstPhase e (e - k) o).apply (.arrive 0) =
          .ok (if k + 1 = e then ⟨1, 0, e, e, false, false, o⟩ else firstPhase e (e - (k + 1)) o) := by
        by_cases hlast : k + 1 = e
        · rw [if_pos hlast, show e - k = 1 by omega]
          exact firstPhase_last_arrive e o
        · rw [if_neg hlast, show e - k = e - (k + 1) + 1 by omega]
          exact firstPhase_arrive (by omega) o
      rw [List.range_succ, List.foldl_append, ih (by omega), if_neg (by omega)]
      exact hstep
  case bytes =>
    obtain ⟨hexpect, harrive, hland⟩ := phase_held_open hnamed hwaiting hremaining hpos hn
    exact ⟨_, _, hexpect, harrive, rfl, _, hland, rfl, rfl⟩
  case event =>
    obtain ⟨b, counted, hb, hcores, hmem, hparties⟩ := barrierEvent_store h
    have hlen := b.length_toBytes
    refine ⟨b, hb, ?_, fun o ho => ?_, fun c hc => ?_, fun a => by rw [hmem], fun p => ⟨?_, fun hnone => ?_, fun w hw => ?_⟩⟩
    · rw [State.core_congr hcores, core_writeStore hcore, ← hlen]
      exact readBytes_writeBytes_same _ _ _
    · rw [State.core_congr hcores]
      exact store_writeStore_outside s core off b.toBytes core o (hlen ▸ ho)
    · rw [State.core_congr hcores]
      exact (State.core_updCore s core c _).trans (if_neg fun hboth => hc hboth.1)
    · rw [hparties]
      exact Party.observing_frame
    · rw [hparties, Party.observing_of_none hnone, hnone]
    · rw [hparties]
      exact ⟨fun hsees => ⟨_, Party.observing_sees hw hsees⟩, Party.observing_blind hw⟩

end Sys2Proof.Machine
end

section
/-!
PROOFS. Priorities age and launches block after their times (R217, R218, R222, R323).
-/
namespace Sys2Proof.Machine

/-! ## One launch of the table changes -/

theorem State.launch?_updLaunch_other {s : State} {part seq p n : Nat} (hne : ¬(p = part ∧ n = seq)) {f : Launch → Launch}
    (hf : ∀ l, (f l).part = l.part ∧ (f l).seq = l.seq) : (s.updLaunch part seq f).launch? p n = s.launch? p n := by
  rw [State.launch?_mapLaunches (s := s) (f := fun l => if decide (l.part = part ∧ l.seq = seq) then f l else l)
    (fun l => by split <;> simp [hf l]) rfl]
  cases hl : s.launch? p n with
  | none => rfl
  | some l =>
    obtain ⟨rfl, rfl⟩ : l.part = p ∧ l.seq = n := by simpa using List.find?_some hl
    rw [Option.map_some, if_neg (by simpa using hne)]

/-- Which launch of a partition is first concerns the launches of that partition only. -/
theorem State.launch?_noteFirst_other (s : State) {part p : Nat} (hne : p ≠ part) (n : Nat) :
    (s.noteFirst part).launch? p n = s.launch? p n := by
  obtain ⟨note, hmap, hkey, hother⟩ : ∃ note : Launch → Launch, (s.noteFirst part).launches = s.launches.map note ∧
      (∀ l, (note l).part = l.part ∧ (note l).seq = l.seq) ∧ ∀ l, l.part ≠ part → note l = l := by
    refine ⟨_, rfl, fun l => ?_, fun l hl => if_pos hl⟩
    split
    · exact ⟨rfl, rfl⟩
    · split <;> exact ⟨rfl, rfl⟩
  rw [State.launch?_mapLaunches hkey hmap]
  cases hl : s.launch? p n with
  | none => rfl
  | some l =>
    obtain ⟨rfl, -⟩ : l.part = p ∧ l.seq = n := by simpa using List.find?_some hl
    rw [Option.map_some, hother l hne]

section LaunchNow

variable {s t : State} {part seq : Nat}

theorem launchNow_updLaunch {l : Launch} (h : s.launch? part seq = some l) {f : Launch → Launch}
    (hf : ∀ l, (f l).part = l.part ∧ (f l).seq = l.seq) : LaunchNow s (s.updLaunch part seq f) part seq (f l) :=
  ⟨⟨_, State.launch?_updLaunch h hf⟩,
    fun _ _ m hne hm => ⟨m.firstSince, (State.launch?_updLaunch_other hne hf).trans hm, fun _ => rfl⟩, rfl⟩

theorem LaunchNow.noteFirst {m : Launch} (h : LaunchNow s t part seq m) : LaunchNow s (t.noteFirst part) part seq m := by
  obtain ⟨⟨f, hf⟩, hothers, hframe⟩ := h
  refine ⟨State.launch?_noteFirst hf part, fun p n l hne hl => ?_, hframe⟩
  obtain ⟨g, hg, hkept⟩ := hothers p n l hne hl
  by_cases hp : p = part
  · obtain ⟨g', hg'⟩ := State.launch?_noteFirst hg part
    exact ⟨g', hg', fun hother => absurd hp hother⟩
  · exact ⟨g, (State.launch?_noteFirst_other t hp n).trans hg, hkept⟩

end LaunchNow

/-! ## Launches (R217, R218) -/

/-- An eligible launch whose first workgroup has not started rises by one after each 20 microseconds, to 7 at most. -/
def Launch.agedAt (clk : Nat) (l : Launch) : Launch :=
  { l with aged := if l.state = .eligible ∧ l.nextIndex = 0 ∧ l.eligibleAt + 80000 * (l.aged + 1) ≤ clk ∧
      l.priority + l.aged < 7 then l.aged + 1 else l.aged }

/-- A launch that has been first for 100 microseconds blocks. -/
def Launch.blockingAt (clk : Nat) (l : Launch) : Launch :=
  { l with blocking := l.blocking || (l.firstSince.map fun n => decide (n + 400000 ≤ clk)).getD false }

/-- A stagger runs out. -/
def Launch.staggeredAt (clk : Nat) (l : Launch) : Launch :=
  { l with lastStart := l.lastStart.filter fun n => decide (clk < n + l.rcb.stagger) }

theorem exec_dispatchPriorityAging (s : State) : exec .dispatchPriorityAging s =
    .next ((s.updLaunch s.args.x s.args.y (Launch.agedAt s.clk)).noteFirst s.args.x) := by
  show execDispatchPriorityAging s = _
  refine congrArg (fun f => Host.Outcome.next ((s.updLaunch s.args.x s.args.y f).noteFirst s.args.x)) (funext fun l => ?_)
  rw [Config.us20]
  unfold Launch.agedAt
  by_cases h : l.state = .eligible ∧ l.nextIndex = 0 ∧ l.eligibleAt + 80000 * (l.aged + 1) ≤ s.clk ∧ l.priority + l.aged < 7
  · rw [if_pos h, if_pos h]
  · rw [if_neg h, if_neg h]

theorem exec_launchBlocking (s : State) :
    exec .launchBlocking s = .next (s.updLaunch s.args.x s.args.y (Launch.blockingAt s.clk)) := by
  show execLaunchBlocking s = _
  refine congrArg (fun f => Host.Outcome.next (s.updLaunch s.args.x s.args.y f)) (funext fun l => ?_)
  have hblocks {b : Bool} (h : (l.blocking || (l.firstSince.map fun n => decide (n + 400000 ≤ s.clk)).getD false) = b) :
      { l with blocking := b } = l.blockingAt s.clk := h ▸ rfl
  cases hfirst : l.firstSince with
  | none => exact hblocks (b := l.blocking) (by simp [hfirst])
  | some n =>
    by_cases hn : n + 400000 ≤ s.clk
    · refine (if_pos hn).trans ?_
      rw [← hfirst]
      exact hblocks (b := true) (by simp [hfirst, hn])
    · exact (if_neg hn).trans (hblocks (b := l.blocking) (by simp [hfirst, hn]))

theorem exec_staggerExpiry (s : State) : exec .staggerExpiry s =
    .next ((s.updLaunch s.args.x s.args.y (Launch.staggeredAt s.clk)).noteFirst s.args.x) := by
  show execStaggerExpiry s = _
  refine congrArg (fun f => Host.Outcome.next ((s.updLaunch s.args.x s.args.y f).noteFirst s.args.x)) (funext fun l => ?_)
  have hlasts {o : Option Nat} (h : (l.lastStart.filter fun n => decide (s.clk < n + l.rcb.stagger)) = o) :
      { l with lastStart := o } = l.staggeredAt s.clk := h ▸ rfl
  cases hlast : l.lastStart with
  | none => exact hlasts (by rw [hlast]; rfl)
  | some n =>
    by_cases hn : n + l.rcb.stagger ≤ s.clk
    · exact (if_pos (decide_eq_true hn)).trans (hlasts (by simp [hlast, Option.filter, hn]))
    · exact (if_neg (by simpa [State.staggered] using hn)).trans (hlasts (o := l.lastStart) (by simp [hlast, Option.filter, hn]))

/-! ## Saved workgroups (R323) -/

theorem State.wg?_updWg {s : State} {part id : Nat} {w : Workgroup} (h : s.wg? part id = some w) {f : Workgroup → Workgroup}
    (hf : ∀ w, (f w).part = w.part ∧ (f w).id = w.id) : (s.updWg part id f).wg? part id = some (f w) := by
  have hkey : w.part = part ∧ w.id = id := by simpa using List.find?_some h
  have hsame : (fun w : Workgroup => decide (w.part = part ∧ w.id = id)) ∘
      (fun w => if decide (w.part = part ∧ w.id = id) then f w else w) = fun w => decide (w.part = part ∧ w.id = id) :=
    funext fun w => by
      dsimp only [Function.comp_apply]
      split <;> simp [hf w]
  show (List.map _ s.workgroups).find? _ = _
  rw [List.find?_map, hsame, show s.workgroups.find? _ = some w from h, Option.map_some, if_pos (by simpa using hkey)]

/-- A saved workgroup rises by one after each 20 microseconds, to 7 at most. -/
def State.savedAged (s : State) (w : Workgroup) : Workgroup :=
  if w.state = .saved ∧ w.savedAt + 80000 * (w.aged + 1) ≤ s.clk ∧ s.priorityOf w + w.aged < 7 then { w with aged := w.aged + 1 } else w

theorem State.savedAged_keepsKey (s : State) (w : Workgroup) : (s.savedAged w).part = w.part ∧ (s.savedAged w).id = w.id := by
  unfold State.savedAged
  split <;> exact ⟨rfl, rfl⟩

theorem exec_savedPriorityAging (s : State) :
    exec .savedPriorityAging s = .next (s.updWg s.args.x s.args.y s.savedAged) := rfl

/-! ## Ready runs (R222) -/

/-- The wait of a run, which counts while the run is ready. -/
def Party.waitingAt (clk : Nat) (ready : Bool) (q : Party) : Party :=
  match q.readySince with
  | none => if ready then { q with readySince := some clk } else q
  | some n =>
    if !ready then { q with readySince := none }
    else if n + 80000 * (q.aged + 1) ≤ clk ∧ q.aged < 7 then { q with aged := q.aged + 1 }
    else q

theorem Party.waitingAt_keepsId (clk : Nat) (ready : Bool) : KeepsId (Party.waitingAt clk ready) := by
  intro q
  unfold Party.waitingAt
  split
  · split <;> rfl
  · split
    · rfl
    · split <;> rfl

theorem Party.waitingAt_begins {q : Party} (h : q.readySince = none) (clk : Nat) :
    q.waitingAt clk true = { q with readySince := some clk } := by simp [Party.waitingAt, h]

theorem Party.waitingAt_goesOn {q : Party} {n : Nat} (h : q.readySince = some n) (clk : Nat) : q.waitingAt clk true =
    if n + 80000 * (q.aged + 1) ≤ clk ∧ q.aged < 7 then { q with aged := q.aged + 1 } else q := by simp [Party.waitingAt, h]

theorem Party.waitingAt_ends (q : Party) (clk : Nat) : q.waitingAt clk false = { q with readySince := none } := by
  unfold Party.waitingAt
  cases h : q.readySince with
  | none => simp [← h]
  | some n => rfl

theorem exec_issuePriorityAging {s : State} {q : Party} (h : s.party? s.args.p = some q) : exec .issuePriorityAging s =
    .next (s.updParty s.args.p (Party.waitingAt s.clk (s.runReady q && q.flagsClear (s.headWait q)))) := by
  show execIssuePriorityAging s = _
  rw [execIssuePriorityAging, State.party_of_party? h, party?_id h]
  rfl

/-! ## The claim -/

/-- Settles O30: each event is one update of its launch, its workgroup or its party. -/
theorem ageing : Obligations.Ageing := by
  intro s
  refine ⟨fun l hl => ⟨?ages, ?blocks, ?stagger⟩, fun w hw => ?saved, fun q hq => ?issue⟩
  case ages =>
    exact ⟨_, exec_dispatchPriorityAging s, (launchNow_updLaunch hl (f := Launch.agedAt s.clk) fun _ => ⟨rfl, rfl⟩).noteFirst⟩
  case blocks =>
    exact ⟨_, exec_launchBlocking s, launchNow_updLaunch hl (f := Launch.blockingAt s.clk) fun _ => ⟨rfl, rfl⟩⟩
  case stagger =>
    exact ⟨_, exec_staggerExpiry s, (launchNow_updLaunch hl (f := Launch.staggeredAt s.clk) fun _ => ⟨rfl, rfl⟩).noteFirst⟩
  case saved =>
    exact ⟨_, exec_savedPriorityAging s, rfl, State.wg?_updWg hw s.savedAged_keepsKey⟩
  case issue =>
    intro ready
    have hkeeps := Party.waitingAt_keepsId s.clk (s.runReady q && q.flagsClear (s.headWait q))
    have hparty := State.party_updParty_of_party? hq hkeeps
    have hready (h : ready) : (s.runReady q && q.flagsClear (s.headWait q)) = true := Bool.and_eq_true_iff.2 h
    refine ⟨_, exec_issuePriorityAging hq, rfl, fun p hp => State.party_updParty_other s _ p _ hkeeps hp, fun hnone h => ?_,
      fun n hn h => ?_, fun h => ?_⟩
    · rw [hparty, hready h, Party.waitingAt_begins hnone]
    · rw [hparty, hready h, Party.waitingAt_goesOn hn]
    · have hnot : (s.runReady q && q.flagsClear (s.headWait q)) = false := by
        rw [← Bool.not_eq_true, Bool.and_eq_true_iff]
        exact h
      rw [hparty, hnot, Party.waitingAt_ends]

end Sys2Proof.Machine
end

section
/-!
PROOFS. The shuttle's writes to memory (R215, R221): the status word of a launch, and the arrival on its completion barrier.
-/
namespace Sys2Proof.Machine

/-! ## A write of the shuttle -/

section ShuttleWrite

variable {s : State} {part seq va n : Nat} {op : Nat → HomeOp}

theorem shuttleWrite_failed {e : FaultClass × Nat} (h : (s.xlate (s.shuttleUnit part) va n .write true).2 = .error e) :
    s.shuttleWrite part seq va n op = (s.xlate (s.shuttleUnit part) va n .write true).1.launchEvent part seq e.1 va := by
  unfold State.shuttleWrite
  generalize s.xlate (s.shuttleUnit part) va n .write true = r at h ⊢
  obtain ⟨s1, y⟩ := r
  obtain rfl : y = .error e := h
  rfl

theorem shuttleWrite_asked {x : Xlat} {p : Piece} (h : (s.xlate (s.shuttleUnit part) va n .write true).2 = .ok x) (hp : x.pieces = [p])
    (hmarked : (s.xlate (s.shuttleUnit part) va n .write true).1.marked (p.pa / 128) = false) :
    s.shuttleWrite part seq va n op =
      (s.xlate (s.shuttleUnit part) va n .write true).1.ask ⟨512 + part, [p], op p.pa, .shuttle part seq⟩ := by
  unfold State.shuttleWrite
  generalize s.xlate (s.shuttleUnit part) va n .write true = r at h hmarked ⊢
  obtain ⟨s1, y⟩ := r
  obtain rfl : y = .ok x := h
  simp only at hmarked
  simp only [hp, List.any_cons, List.any_nil, hmarked, Bool.or_false, Bool.false_eq_true, if_false]
  rfl

end ShuttleWrite

/-- In `t` a record of the event has been posted to the launch's domain, and memory is as it was (R221). -/
def LaunchTold (s : State) (part seq : Nat) (cls : FaultClass) (addr : Nat) (t : State) : Prop :=
  ∃ r : PendingRec, t.records = s.records ++ [r] ∧ r.body.cls = cls ∧ r.queue = some part ∧ r.body.addr = BitVec.ofNat 64 addr ∧
    r.body.domain = ((s.launch? part seq).map (·.domain)).getD 0 ∧ r.body.flags.getLsbD 1 = true ∧ t.mem = s.mem

/-- A record of an event says that it is one (R297). -/
theorem eventFlag : (recFlags false true false false false false false).getLsbD 1 = true := by decide

theorem launchTold_launchEvent (s : State) (part seq : Nat) (cls : FaultClass) (addr : Nat) :
    LaunchTold s part seq cls addr (s.launchEvent part seq cls addr) := ⟨_, rfl, rfl, rfl, rfl, rfl, eventFlag, rfl⟩

/-- Bytes written stand where they were written, and no other byte changes. -/
theorem writeBytes_exactly (m : Cells 8) (a : Nat) {bs : List Byte} {n : Nat} (hlen : bs.length = n) :
    readBytes (writeBytes m a bs) a n = bs ∧ ∀ b, b < a ∨ a + n ≤ b → cellGet (writeBytes m a bs) b = cellGet m b := by
  subst hlen
  exact ⟨readBytes_writeBytes_same m a bs, cellGet_writeBytes_outside m a bs⟩

/-- The shuttle's bytes reach a home slice at which nothing waits. -/
theorem mem_ask_shuttle {s : State} {p : Piece} (hfree : HomesFree s) (hdirty : s.leavesDirty [p] = true) (unit part seq : Nat)
    (bs : List Byte) : (s.ask ⟨unit, [p], .write (cellsFrom p.pa bs), .shuttle part seq⟩).mem = writeBytes s.mem p.pa bs := by
  obtain ⟨tl, hask⟩ := ask_written hfree hdirty unit bs (src := .shuttle part seq) rfl rfl
  rw [hask]
  exact writeMem_cellsFrom_mem { s with tlb := tl } p.pa bs

/-! ## The status word (R215) -/

theorem writeStatus_eq {s : State} {part seq : Nat} {l : Launch} (h : s.launch? part seq = some l) (code : Nat) :
    s.writeStatus part seq code =
      if l.rcb.statusAddr = 0 then s.updLaunch part seq (noted · code)
      else (s.updLaunch part seq (noted · code)).shuttleWrite part seq l.rcb.statusAddr 8 fun pa =>
        .write (cellsFrom pa (statusBytes l code)) := by
  rw [State.writeStatus, h]
  rfl

theorem statusWritten_writeStatus {s : State} {part seq : Nat} {l : Launch} (h : s.launch? part seq = some l) (code : Nat) :
    StatusWritten s part seq l code (s.writeStatus part seq code) := by
  rw [writeStatus_eq h]
  refine ⟨fun hnone => if_pos hnone, fun hsome => ⟨fun c a hfail => ?failed, fun x p hok hp hfree hmarked hdirty => ?written⟩⟩
  case failed =>
    rw [if_neg hsome, shuttleWrite_failed hfail]
    exact launchTold_launchEvent _ part seq c _
  case written =>
    rw [hp] at hdirty
    rw [if_neg hsome, shuttleWrite_asked hok hp hmarked, mem_ask_shuttle hfree hdirty]
    exact writeBytes_exactly _ p.pa (length_toLe 8 _)

/-! ## The arrival on a completion barrier (R225) -/

/-- A write whose leaves have Dirty set reaches a home slice at which nothing waits. -/
theorem ask_accepted {s : State} {p : Piece} (hfree : HomesFree s) (hdirty : s.leavesDirty [p] = true) (unit : Nat) (op : HomeOp)
    (src : WriteSource) : ∃ tl, s.ask ⟨unit, [p], op, src⟩ = State.homeApply { s with tlb := tl } op src := by
  obtain ⟨tl, htl⟩ := setDirty_of_leavesDirty unit [p] s hdirty
  have hfree' : HomesFree { s with tlb := tl } := ⟨hfree.tacks, hfree.sharers, hfree.held, hfree.asks, hfree.copies, hfree.accept⟩
  refine ⟨tl, ?_⟩
  show (s.setDirty unit [p]).request _ ((s.setDirty unit [p]).leavesDirty [p]) = _
  rw [htl, show State.leavesDirty { s with tlb := tl } [p] = true from hdirty, State.request, if_pos (takes_of_free hfree' _)]

section HomeBarrier

variable {s : State} {pa part seq : Nat}

theorem homeEffect_barrier_ok {b : BarrierObj} (h : (BarrierObj.ofBytes (readBytes s.mem pa 16)).apply (.arrive 1) = .ok b) :
    s.homeEffect (.barrier pa 1 1 0) = (cellsFrom pa b.toBytes, (BarrierObj.ofBytes (readBytes s.mem pa 16)).phase, none) := by
  have hev : barrierEventOf 1 1 0 = .arrive 1 := rfl
  simp only [State.homeEffect, hev, h]

theorem homeEffect_barrier_error {c : FaultClass} (h : (BarrierObj.ofBytes (readBytes s.mem pa 16)).apply (.arrive 1) = .error c) :
    s.homeEffect (.barrier pa 1 1 0) = ([], (BarrierObj.ofBytes (readBytes s.mem pa 16)).phase, some c) := by
  have hev : barrierEventOf 1 1 0 = .arrive 1 := rfl
  simp only [State.homeEffect, hev, h]

/-- The shuttle's arrival at an object that can be read, at a home slice at which nothing waits. -/
theorem homeApply_shuttle_barrier (hfree : HomesFree s) (hgood : ∀ i, i < 16 → s.lineBad (pa + i) = false) :
    ∃ phase, s.homeApply (.barrier pa 1 1 0) (.shuttle part seq) =
      ((s.writeMem (s.homeEffect (.barrier pa 1 1 0)).1).noteBarrier (.mem pa) phase []).afterWrite (.barrier pa 1 1 0)
        (.shuttle part seq) (s.homeEffect (.barrier pa 1 1 0)).2.1 (s.homeEffect (.barrier pa 1 1 0)).2.2 := by
  have hbad : s.opBad (.barrier pa 1 1 0) (.shuttle part seq) = false :=
    List.any_eq_false.2 fun i hi => by
      rw [Bool.not_eq_true]
      exact hgood i (List.mem_range.1 hi)
  have hnow := homeNow_of_no_copies hfree.copies (.barrier pa 1 1 0)
  refine ⟨((s.writeMem (s.homeEffect (.barrier pa 1 1 0)).1).barrierAt (.mem pa)).phase, ?_⟩
  rw [homeApply_of_free hfree.tacks (hfree.lineFree _) rfl, State.applyWrite, hbad, if_neg Bool.false_ne_true]
  show (let r := s.homeNow (.barrier pa 1 1 0); State.afterWrite (r.1.noteBarrier (.mem pa) (r.1.barrierAt (.mem pa)).phase []) _ _ r.2.1 r.2.2) = _
  rw [hnow]

/-- An object that takes the arrival is written; no record is posted. -/
theorem shuttle_arrival_taken (hfree : HomesFree s) (hgood : ∀ i, i < 16 → s.lineBad (pa + i) = false) {b : BarrierObj}
    (hb : (BarrierObj.ofBytes (readBytes s.mem pa 16)).apply (.arrive 1) = .ok b) :
    (s.homeApply (.barrier pa 1 1 0) (.shuttle part seq)).mem = writeBytes s.mem pa b.toBytes ∧
      (s.homeApply (.barrier pa 1 1 0) (.shuttle part seq)).records = s.records := by
  obtain ⟨phase, happly⟩ := homeApply_shuttle_barrier (part := part) (seq := seq) hfree hgood
  rw [happly, homeEffect_barrier_ok hb]
  dsimp only [State.afterWrite, State.noteBarrier]
  exact ⟨writeMem_cellsFrom_mem s pa b.toBytes, writeMem_records s _⟩

/-- An object that refuses the arrival stays as it is, and the launch's domain is told. -/
theorem shuttle_arrival_refused (hfree : HomesFree s) (hgood : ∀ i, i < 16 → s.lineBad (pa + i) = false) {c : FaultClass}
    (hc : (BarrierObj.ofBytes (readBytes s.mem pa 16)).apply (.arrive 1) = .error c) :
    LaunchTold s part seq c (((s.launch? part seq).map (·.rcb.barrier)).getD 0)
      (s.homeApply (.barrier pa 1 1 0) (.shuttle part seq)) := by
  obtain ⟨phase, happly⟩ := homeApply_shuttle_barrier (part := part) (seq := seq) hfree hgood
  rw [happly, homeEffect_barrier_error hc]
  exact ⟨_, rfl, rfl, rfl, rfl, rfl, eventFlag, rfl⟩

end HomeBarrier

/-- What the shuttle asks for at a launch's barrier, if it has one. -/
def State.barrierAsked (s : State) (part seq barrier : Nat) : State :=
  if barrier = 0 then s else s.shuttleWrite part seq barrier 16 fun pa => .barrier pa 1 1 0

theorem arrivalMade_barrierAsked (s : State) (part seq : Nat) (l : Launch) :
    ArrivalMade s part seq l (s.barrierAsked part seq l.rcb.barrier) := by
  refine ⟨fun hnone => if_pos hnone, fun hsome => ?_⟩
  rw [State.barrierAsked, if_neg hsome]
  refine ⟨fun c a hfail => ?failed, fun x p hok hp hfree hmarked hdirty hgood => ?asked⟩
  case failed =>
    rw [shuttleWrite_failed hfail]
    exact launchTold_launchEvent _ part seq c _
  case asked =>
    rw [hp] at hdirty
    rw [shuttleWrite_asked hok hp hmarked]
    generalize (s.xlate (s.shuttleUnit part) l.rcb.barrier 16 .write true).1 = u at *
    obtain ⟨tl, hask⟩ := ask_accepted hfree hdirty (512 + part) (.barrier p.pa 1 1 0) (.shuttle part seq)
    have hfree' : HomesFree { u with tlb := tl } := ⟨hfree.tacks, hfree.sharers, hfree.held, hfree.asks, hfree.copies, hfree.accept⟩
    rw [hask]
    refine ⟨fun b' hb => ?_, fun c m hb hm hbarrier => ?_⟩
    · obtain ⟨hmem, hrecords⟩ := shuttle_arrival_taken (part := part) (seq := seq) hfree' hgood hb
      obtain ⟨hin, hout⟩ := writeBytes_exactly u.mem p.pa (bs := b'.toBytes) (length_toLe ..)
      rw [hmem]
      exact ⟨hin, hrecords, hout⟩
    · have htold := shuttle_arrival_refused (part := part) (seq := seq) hfree' hgood hb
      have haddr : (((State.launch? { u with tlb := tl } part seq).map (·.rcb.barrier)).getD 0) = l.rcb.barrier := by
        rw [show State.launch? { u with tlb := tl } part seq = some m from hm, Option.map_some, Option.getD_some, hbarrier]
      rw [haddr] at htold
      exact htold

end Sys2Proof.Machine
end

section
/-!
PROOFS. A launch completes in the steps of R221, and the launches that wait on its ticket become eligible or never run (R215, R216).
-/
namespace Sys2Proof.Machine

/-! ## Launches told of a new state -/

/-- The launches `ns` of a partition are now in a state; nothing else that is said here has changed. -/
structure Retold (s t : State) (part : Nat) (ns : List Nat) (st : LaunchState) : Prop where
  mem : t.mem = s.mem
  parties : t.parties = s.parties
  launches : ∃ g : Launch → Launch, t.launches = s.launches.map g ∧ ∀ l, (g l).part = l.part ∧ (g l).seq = l.seq ∧ (g l).rcb = l.rcb ∧
    (g l).state = if l.part = part ∧ l.seq ∈ ns then st else l.state

/-- No launch has a status word. -/
def Silent (s : State) : Prop := ∀ m ∈ s.launches, m.rcb.statusAddr = 0

/-- No two launches have one ticket. -/
def OneOfEach (s : State) : Prop := ∀ m ∈ s.launches, ∀ n ∈ s.launches, m.part = n.part → m.seq = n.seq → m = n

theorem launch?_key {s : State} {part seq : Nat} {l : Launch} (h : s.launch? part seq = some l) : l.part = part ∧ l.seq = seq := by
  simpa using List.find?_some h

theorem mem_of_launch? {s : State} {part seq : Nat} {l : Launch} (h : s.launch? part seq = some l) : l ∈ s.launches :=
  List.mem_of_find?_eq_some h

theorem launch?_of_mem {s : State} (hone : OneOfEach s) {l : Launch} (hl : l ∈ s.launches) : s.launch? l.part l.seq = some l := by
  obtain ⟨m, hm⟩ : ∃ m, s.launch? l.part l.seq = some m :=
    Option.isSome_iff_exists.1 (List.find?_isSome.2 ⟨l, hl, by simp⟩)
  obtain ⟨hpart, hseq⟩ := launch?_key hm
  rw [hm, hone m (mem_of_launch? hm) l hl hpart hseq]

namespace Retold

variable {s t u : State} {part : Nat} {ns ms : List Nat} {st : LaunchState}

theorem of_launches_eq (hmem : t.mem = s.mem) (hparties : t.parties = s.parties) (hlaunches : t.launches = s.launches) :
    Retold s t part [] st :=
  ⟨hmem, hparties, id, by rw [hlaunches, List.map_id], fun l => ⟨rfl, rfl, rfl, by simp⟩⟩

theorem trans (h : Retold s t part ns st) (h' : Retold t u part ms st) : Retold s u part (ns ++ ms) st := by
  obtain ⟨g, hg, hkeeps⟩ := h.launches
  obtain ⟨g', hg', hkeeps'⟩ := h'.launches
  refine ⟨h'.mem.trans h.mem, h'.parties.trans h.parties, g' ∘ g, by rw [hg', hg, List.map_map], fun l => ?_⟩
  obtain ⟨hpart, hseq, hrcb, hstate⟩ := hkeeps l
  obtain ⟨hpart', hseq', hrcb', hstate'⟩ := hkeeps' (g l)
  refine ⟨hpart'.trans hpart, hseq'.trans hseq, hrcb'.trans hrcb, hstate'.trans ?_⟩
  rw [hpart, hseq, hstate]
  by_cases hp : l.part = part <;> by_cases hn : l.seq ∈ ns <;> by_cases hm : l.seq ∈ ms <;> simp [hp, hn, hm]

theorem forth (h : Retold s t part ns st) {l : Launch} (hl : l ∈ s.launches) : ∃ m ∈ t.launches, m.part = l.part ∧ m.seq = l.seq ∧
    m.rcb = l.rcb ∧ m.state = if l.part = part ∧ l.seq ∈ ns then st else l.state := by
  obtain ⟨g, hg, hkeeps⟩ := h.launches
  exact ⟨g l, hg ▸ List.mem_map_of_mem hl, hkeeps l⟩

theorem back (h : Retold s t part ns st) {m : Launch} (hm : m ∈ t.launches) : ∃ l ∈ s.launches, m.part = l.part ∧ m.seq = l.seq ∧
    m.rcb = l.rcb ∧ m.state = if l.part = part ∧ l.seq ∈ ns then st else l.state := by
  obtain ⟨g, hg, hkeeps⟩ := h.launches
  rw [hg] at hm
  obtain ⟨l, hl, rfl⟩ := List.mem_map.1 hm
  exact ⟨l, hl, hkeeps l⟩

theorem launch? (h : Retold s t part ns st) {p n : Nat} {l : Launch} (hl : s.launch? p n = some l) :
    ∃ m, t.launch? p n = some m ∧ m.rcb = l.rcb ∧ m.state = if p = part ∧ n ∈ ns then st else l.state := by
  obtain ⟨g, hg, hkeeps⟩ := h.launches
  obtain ⟨rfl, rfl⟩ := launch?_key hl
  obtain ⟨-, -, hrcb, hstate⟩ := hkeeps l
  exact ⟨g l, by rw [State.launch?_mapLaunches (fun l => ⟨(hkeeps l).1, (hkeeps l).2.1⟩) hg, hl, Option.map_some], hrcb, hstate⟩

theorem silent (h : Retold s t part ns st) (hs : Silent s) : Silent t := fun m hm => by
  obtain ⟨l, hl, -, -, hrcb, -⟩ := h.back hm
  rw [hrcb, hs l hl]

theorem oneOfEach (h : Retold s t part ns st) (hone : OneOfEach s) : OneOfEach t := by
  obtain ⟨g, hg, hkeeps⟩ := h.launches
  intro m hm n hn hpart hseq
  rw [hg] at hm hn
  obtain ⟨k, hk, rfl⟩ := List.mem_map.1 hm
  obtain ⟨l, hl, rfl⟩ := List.mem_map.1 hn
  obtain ⟨hkpart, hkseq, -, -⟩ := hkeeps k
  obtain ⟨hlpart, hlseq, -, -⟩ := hkeeps l
  rw [hone k hk l hl (hkpart ▸ hlpart ▸ hpart) (hkseq ▸ hlseq ▸ hseq)]

/-- A launch that still waits has been told nothing. -/
theorem waiting_back (h : Retold s t part ns st) (hst : st ≠ .waiting) {m : Launch} (hm : m ∈ t.launches) (hw : m.state = .waiting) :
    ∃ l ∈ s.launches, m.part = l.part ∧ m.seq = l.seq ∧ l.state = .waiting := by
  obtain ⟨l, hl, hpart, hseq, -, hstate⟩ := h.back hm
  refine ⟨l, hl, hpart, hseq, ?_⟩
  rw [hw] at hstate
  split at hstate
  · exact absurd hstate.symm hst
  · exact hstate.symm

/-- Launches told one after another. -/
theorem foldl {f : State → Nat → State} (hf : ∀ u n, Silent u → Retold u (f u n) part [n] st) (ns : List Nat) :
    ∀ {s : State}, Silent s → Retold s (ns.foldl f s) part ns st := by
  induction ns with
  | nil => exact fun _ => .of_launches_eq rfl rfl rfl
  | cons n r ih => exact fun hs => (hf _ n hs).trans (ih ((hf _ n hs).silent hs))

end Retold

section Updates

variable (s : State) (part : Nat)

/-- A change of one launch which puts it into a state. -/
theorem retold_updLaunch (n : Nat) {f : Launch → Launch} {st : LaunchState}
    (hf : ∀ l, (f l).part = l.part ∧ (f l).seq = l.seq ∧ (f l).rcb = l.rcb ∧ (f l).state = st) :
    Retold s (s.updLaunch part n f) part [n] st := by
  refine ⟨rfl, rfl, _, rfl, fun l => ?_⟩
  obtain ⟨hpart, hseq, hrcb, hstate⟩ := hf l
  by_cases hl : l.part = part ∧ l.seq = n
  · simp [hl, hpart, hseq, hrcb, hstate]
  · simp [hl]

/-- A change of one launch which leaves it in its state. -/
theorem retold_noted (n code : Nat) (p : Nat) (st : LaunchState) : Retold s (s.updLaunch part n (noted · code)) p [] st := by
  refine ⟨rfl, rfl, _, rfl, fun l => ?_⟩
  split <;> simp [noted]

theorem retold_makeEligible (n : Nat) : Retold s (s.makeEligible part n) part [n] .eligible := by
  obtain ⟨hmem, hparties, hlaunches⟩ := retold_updLaunch s part n (st := .eligible)
    (f := fun l => { l with state := .eligible, eligibleAt := s.clk, order := s.fresh }) fun _ => ⟨rfl, rfl, rfl, rfl⟩
  exact ⟨hmem, hparties, hlaunches⟩

theorem retold_dropRegions (p : Nat) (st : LaunchState) : Retold s s.dropRegions p [] st := .of_launches_eq rfl rfl rfl

theorem retold_noteFirst (p : Nat) (st : LaunchState) : Retold s (s.noteFirst part) p [] st := by
  refine ⟨rfl, rfl, _, rfl, fun l => ?_⟩
  split
  · simp
  · split <;> simp

end Updates

/-! ## Status words where there are none -/

theorem updLaunch_of_absent {s : State} {part seq : Nat} (h : s.launch? part seq = none) (f : Launch → Launch) :
    s.updLaunch part seq f = s := by
  have hkeep : updAll (fun l : Launch => decide (l.part = part ∧ l.seq = seq)) f s.launches = s.launches := by
    refine (List.map_congr_left fun l hl => ?_).trans (List.map_id _)
    exact if_neg (List.find?_eq_none.1 h l hl)
  rw [State.updLaunch, hkeep]

/-- Without a status address nothing but the code is noted. -/
theorem writeStatus_of_silent {s : State} (hs : Silent s) (part seq code : Nat) :
    s.writeStatus part seq code = s.updLaunch part seq (noted · code) := by
  cases hl : s.launch? part seq with
  | none => rw [updLaunch_of_absent hl, State.writeStatus, hl]
  | some l => rw [writeStatus_eq hl, if_pos (hs l (mem_of_launch? hl))]

theorem retold_writeStatus {s : State} (hs : Silent s) (part seq code p : Nat) (st : LaunchState) :
    Retold s (s.writeStatus part seq code) p [] st := by
  rw [writeStatus_of_silent hs]
  exact retold_noted ..

/-! ## A ticket ends (R216) -/

/-- The launches that wait on a ticket. -/
def State.waiters (s : State) (part seq : Nat) : List Nat := (s.launches.filter fun l => l.waitsOn part seq).map (·.seq)

theorem Launch.waitsOn_iff {l : Launch} {part seq : Nat} :
    l.waitsOn part seq = true ↔ l.state = .waiting ∧ l.part = part ∧ l.rcb.after = ticketOf part seq := by simp [Launch.waitsOn]

theorem mem_waiters {s : State} {l : Launch} (hl : l ∈ s.launches) {part seq : Nat} (h : l.waitsOn part seq = true) :
    l.seq ∈ s.waiters part seq := List.mem_map_of_mem (List.mem_filter.2 ⟨hl, h⟩)

/-- `ns` are numbers of launches that wait. -/
def Waiting (s : State) (part : Nat) (ns : List Nat) : Prop := ∀ n ∈ ns, ∃ l ∈ s.launches, l.part = part ∧ l.seq = n ∧ l.state = .waiting

theorem waiting_waiters (s : State) (part seq : Nat) : Waiting s part (s.waiters part seq) := by
  intro n hn
  obtain ⟨l, hl, rfl⟩ := List.mem_map.1 hn
  obtain ⟨hl, hw⟩ := List.mem_filter.1 hl
  obtain ⟨hstate, hpart, -⟩ := Launch.waitsOn_iff.1 hw
  exact ⟨l, hl, hpart, rfl, hstate⟩

/-- Launches that never run, among them those that wait on the ticket, have waited before. -/
theorem retold_notRun (part : Nat) (f : Nat) : ∀ (s : State) (qs : List Nat), Silent s →
    ∃ ns, Retold s (s.notRun part f qs) part ns .notRun ∧ Waiting s part ns ∧ (f ≠ 0 → ∀ q ∈ qs.head?, s.waiters part q ⊆ ns) := by
  induction f with
  | zero => exact fun s qs _ => ⟨[], .of_launches_eq rfl rfl rfl, fun n hn => absurd hn (by simp), fun h => absurd rfl h⟩
  | succ f ih =>
    intro s qs hs
    cases qs with
    | nil => exact ⟨[], .of_launches_eq rfl rfl rfl, fun n hn => absurd hn (by simp), fun _ q hq => absurd hq (by simp)⟩
    | cons q rest =>
      have hstep (u : State) (n : Nat) (hu : Silent u) :
          Retold u ((u.updLaunch part n fun l => { l with state := .notRun }).writeStatus part n 5) part [n] .notRun := by
        have htold := retold_updLaunch u part n (st := .notRun) (f := fun l => { l with state := .notRun }) fun _ => ⟨rfl, rfl, rfl, rfl⟩
        exact htold.trans (retold_writeStatus (htold.silent hu) part n 5 part .notRun)
      have htold := Retold.foldl hstep (s.waiters part q) hs
      obtain ⟨ns, hrest, hwaiting, -⟩ := ih _ (rest ++ s.waiters part q) (htold.silent hs)
      refine ⟨s.waiters part q ++ ns, htold.trans hrest, fun n hn => ?_, fun _ q' hq' => ?_⟩
      · obtain hn | hn := List.mem_append.1 hn
        · exact waiting_waiters s part q n hn
        · obtain ⟨m, hm, rfl, rfl, hstate⟩ := hwaiting n hn
          obtain ⟨l, hl, hpart, hseq, hw⟩ := htold.waiting_back (by decide) hm hstate
          exact ⟨l, hl, hpart.symm, hseq.symm, hw⟩
      · obtain rfl : q = q' := by simpa using hq'
        exact List.subset_append_left _ _

/-- The state that the end of a ticket gives those that wait on it. -/
def nextState (code : Nat) : LaunchState := if code = 3 then .eligible else .notRun

theorem retold_ticketEnded {s : State} (hs : Silent s) (part seq code : Nat) :
    ∃ ns, Retold s (s.ticketEnded part seq code) part ns (nextState code) ∧ Waiting s part ns ∧ s.waiters part seq ⊆ ns := by
  unfold State.ticketEnded nextState
  split
  · have hstep (u : State) (n : Nat) (hu : Silent u) : Retold u ((u.makeEligible part n).writeStatus part n 0) part [n] .eligible :=
      (retold_makeEligible u part n).trans (retold_writeStatus ((retold_makeEligible u part n).silent hu) part n 0 part .eligible)
    exact ⟨s.waiters part seq, .foldl hstep _ hs, waiting_waiters s part seq, List.Subset.refl _⟩
  · obtain ⟨ns, htold, hwaiting, hall⟩ := retold_notRun part (s.launches.length + 1) s [seq] hs
    exact ⟨ns, htold, hwaiting, hall (Nat.succ_ne_zero _) seq (by simp)⟩

/-! ## The steps of a completion (R221) -/

/-- The code of a launch whose workgroups have all ended. -/
def Launch.endCode (l : Launch) : Nat := if l.failures = 0 then 3 else 4

theorem Launch.endCode_eq_three_iff {l : Launch} : l.endCode = 3 ↔ l.failures = 0 := by
  by_cases h : l.failures = 0 <;> simp [Launch.endCode, h]

/-- The state of such a launch, by that code. -/
def endState (code : Nat) : LaunchState := if code = 3 then .complete else .failed

/-- The arrival on a completion barrier has been asked for. -/
def State.barrierReached (s : State) (part seq barrier : Nat) : State :=
  (s.barrierAsked part seq barrier).updLaunch part seq (noted · 7)

/-- The last step of a completion. -/
def State.launchEnded (s : State) (part seq code : Nat) : State :=
  (((s.updLaunch part seq fun l => { l with state := endState code }).ticketEnded part seq code).dropRegions).noteFirst part

/-- The steps of a completion after the status word. -/
def State.afterStatus (s : State) (part seq : Nat) (l : Launch) : State :=
  if s.shuttleHeld part seq then s
  else if (s.barrierReached part seq l.rcb.barrier).shuttleHeld part seq then s.barrierReached part seq l.rcb.barrier
  else (s.barrierReached part seq l.rcb.barrier).launchEnded part seq l.endCode

/-- The status word has been asked for. -/
def State.statusReached (s : State) (part seq code : Nat) : State := (s.writeStatus part seq code).updLaunch part seq (noted · 6)

/-- The drains of a completion: those of the partition's cores. -/
def State.coresDrained (s : State) (part : Nat) : State := (s.coresOf part).foldl (fun s c => s.releaseDrains c .device true) s

/-- The release sequences of some cores rise. -/
def State.coresRaised (s : State) (cs : List Nat) : State := cs.foldl (fun s c => s.bumpFor c .device) s

theorem coresRaised_frame (cs : List Nat) : ∀ s : State, { s.coresRaised cs with cores := s.cores } = s := by
  induction cs with
  | nil => exact fun _ => rfl
  | cons c r ih => exact fun s => (congrArg (fun u : State => { u with cores := s.cores }) (ih (s.bumpFor c .device)) :)

theorem launch?_coresRaised (s : State) (cs : List Nat) (part seq : Nat) : (s.coresRaised cs).launch? part seq = s.launch? part seq :=
  (congrArg (State.launch? · part seq) (coresRaised_frame cs s) :)

section Steps

variable {s : State} {part seq : Nat} {l : Launch}

theorem completeLaunch_after_status (h : l.statusWritten = 6) : s.completeLaunch part seq l = s.afterStatus part seq l := by
  simp only [State.completeLaunch, h, Nat.lt_irrefl, if_false, false_and, Nat.lt_succ_self, if_true]
  rfl

theorem completeLaunch_after_arrival (h : 7 ≤ l.statusWritten) : s.completeLaunch part seq l =
    if s.shuttleHeld part seq then s else s.launchEnded part seq l.endCode := by
  have h6 : ¬l.statusWritten < 6 := by omega
  have h7 : ¬l.statusWritten < 7 := by omega
  simp only [State.completeLaunch, h6, h7, if_false, false_and]
  split <;> rfl

theorem completeLaunch_undrained (h : l.statusWritten < 6) (hl : (s.coresDrained part).launch? part seq = some l)
    (hnot : ¬∀ c ∈ s.coresOf part, (s.coresDrained part).releaseReady c .device true = true) :
    s.completeLaunch part seq l = s.coresDrained part := by
  have hall : ((s.coresOf part).all fun c => (s.coresDrained part).releaseReady c .device true) = false := by
    rw [← Bool.not_eq_true, List.all_eq_true]
    exact hnot
  have hrelease (k : State → State) : s.releaseAll part k = s.coresDrained part :=
    if_neg (by rw [← Bool.not_eq_true] at hall; exact hall)
  simp only [State.completeLaunch, h, if_true, hrelease, hl, Option.map_some, Option.getD_some, and_self]

theorem completeLaunch_drained (h : l.statusWritten < 6)
    (hready : ∀ c ∈ s.coresOf part, (s.coresDrained part).releaseReady c .device true = true) : s.completeLaunch part seq l =
      (((s.coresDrained part).coresRaised (s.coresOf part)).statusReached part seq l.endCode).afterStatus part seq l := by
  have hrelease (k : State → State) : s.releaseAll part k = k ((s.coresDrained part).coresRaised (s.coresOf part)) :=
    if_pos (List.all_eq_true.2 hready)
  have h7 : l.statusWritten < 7 := Nat.lt_succ_of_lt h
  have hreached (u : State) : ¬((((u.updLaunch part seq (noted · 6)).launch? part seq).map (·.statusWritten)).getD 6 < 6) := by
    cases hu : u.launch? part seq with
    | none => rw [updLaunch_of_absent hu, hu]; decide
    | some m => rw [State.launch?_updLaunch hu (f := (noted · 6)) fun _ => ⟨rfl, rfl⟩]; exact Nat.lt_irrefl 6
  have hnoted := hreached (((s.coresDrained part).coresRaised (s.coresOf part)).writeStatus part seq l.endCode)
  simp only [State.completeLaunch, h, h7, if_true, hrelease, true_and]
  exact if_neg hnoted

end Steps

/-! ## A completion that nothing holds back -/

theorem shuttleHeld_eq_false {s : State} (hheld : s.held = []) (hasks : s.asks = []) (part seq : Nat) : s.shuttleHeld part seq = false := by
  simp [State.shuttleHeld, State.waitsFor, State.waitsAny, hheld, hasks]

theorem afterStatus_of_quiet {s : State} (hheld : s.held = []) (hasks : s.asks = []) {part seq : Nat} {l : Launch}
    (hbarrier : l.rcb.barrier = 0) :
    s.afterStatus part seq l = (s.updLaunch part seq (noted · 7)).launchEnded part seq l.endCode := by
  have hreached : s.barrierReached part seq l.rcb.barrier = s.updLaunch part seq (noted · 7) := by
    rw [State.barrierReached, State.barrierAsked, if_pos hbarrier]
  have hfree := shuttleHeld_eq_false (s := s.updLaunch part seq (noted · 7)) hheld hasks part seq
  rw [State.afterStatus, shuttleHeld_eq_false hheld hasks, if_neg Bool.false_ne_true, hreached, hfree, if_neg Bool.false_ne_true]

theorem releaseReady_of_drained {s : State} (h : Drained s) (c : Nat) : s.releaseReady c .device true = true := by
  show (!true || !s.dirtyLeft c (upTo none)) = true
  rw [dirtyLeft_of_drained h]
  rfl

/-- A completion finds nothing to wait for: what comes before its last step tells no launch anything. -/
theorem completeLaunch_of_quiet {s : State} {part seq : Nat} {l : Launch} (hbarrier : l.rcb.barrier = 0) (hs : Silent s) (hd : Drained s)
    (hheld : s.held = []) (hasks : s.asks = []) :
    ∃ v, Retold s v part [] .running ∧ s.completeLaunch part seq l = v.launchEnded part seq l.endCode := by
  have hdrained : s.coresDrained part = s := foldl_of_fixed _ fun c _ => drainCore_of_drained hd c
  have hquiet {u : State} (h : Retold s u part [] .running) (hheld : u.held = []) (hasks : u.asks = []) :
      ∃ v, Retold s v part [] .running ∧ u.afterStatus part seq l = v.launchEnded part seq l.endCode :=
    ⟨_, h.trans (retold_noted u part seq 7 part .running), afterStatus_of_quiet hheld hasks hbarrier⟩
  obtain hstage | hstage | hstage : l.statusWritten < 6 ∨ l.statusWritten = 6 ∨ 7 ≤ l.statusWritten := by omega
  · have hframe := coresRaised_frame (s.coresOf part) s
    have hraised : Retold s (s.coresRaised (s.coresOf part)) part [] .running :=
      .of_launches_eq (congrArg State.mem hframe :) (congrArg State.parties hframe :) (congrArg State.launches hframe :)
    have hwritten := retold_writeStatus (hraised.silent hs) part seq l.endCode part .running
    have hreached := (hraised.trans hwritten).trans (retold_noted _ part seq 6 part .running)
    rw [completeLaunch_drained hstage fun c _ => by rw [hdrained]; exact releaseReady_of_drained hd c, hdrained]
    refine hquiet hreached ?_ ?_
    · rw [State.statusReached, writeStatus_of_silent (hraised.silent hs)]
      exact (congrArg State.held hframe :).trans hheld
    · rw [State.statusReached, writeStatus_of_silent (hraised.silent hs)]
      exact (congrArg State.asks hframe :).trans hasks
  · rw [completeLaunch_after_status hstage]
    exact hquiet (.of_launches_eq rfl rfl rfl) hheld hasks
  · exact ⟨s, .of_launches_eq rfl rfl rfl, by
      rw [completeLaunch_after_arrival hstage, shuttleHeld_eq_false hheld hasks, if_neg Bool.false_ne_true]⟩

/-- The last step of a completion: the launch has ended, and those that wait on its ticket have been told. -/
theorem launchEnded_tells {s : State} (hs : Silent s) (hone : OneOfEach s) {part seq : Nat} {l : Launch} (hl : s.launch? part seq = some l)
    (hrunning : l.state = .running) (code : Nat) :
    (s.launchEnded part seq code).mem = s.mem ∧ (s.launchEnded part seq code).parties = s.parties ∧
      (∃ m, (s.launchEnded part seq code).launch? part seq = some m ∧ m.state = endState code) ∧
      ∀ w ∈ s.launches, w.waitsOn part seq = true →
        ∃ m, (s.launchEnded part seq code).launch? w.part w.seq = some m ∧ m.state = nextState code := by
  have hended := retold_updLaunch s part seq (st := endState code) (f := fun l => { l with state := endState code })
    fun _ => ⟨rfl, rfl, rfl, rfl⟩
  obtain ⟨ns, hnext, hwaiting, hall⟩ := retold_ticketEnded (hended.silent hs) part seq code
  have hlast := (hnext.trans (retold_dropRegions _ part _)).trans (retold_noteFirst _ part part _)
  rw [List.append_nil, List.append_nil] at hlast
  have hnotWaiting (st : LaunchState) (h : st = endState code) : st ≠ .waiting := by
    rw [h, endState]
    split <;> decide
  obtain ⟨m, hm, -, hmstate⟩ := hended.launch? hl
  rw [if_pos ⟨rfl, List.mem_singleton_self seq⟩] at hmstate
  have hself : seq ∉ ns := by
    intro hseq
    obtain ⟨k, hk, rfl, rfl, hkstate⟩ := hwaiting seq hseq
    have hkm : k = m := Option.some.inj ((launch?_of_mem (hended.oneOfEach hone) hk).symm.trans hm)
    exact hnotWaiting k.state (hkm ▸ hmstate) hkstate
  refine ⟨hlast.mem, hlast.parties, ?_, fun w hw hwaits => ?_⟩
  · obtain ⟨k, hk, -, hkstate⟩ := hlast.launch? hm
    exact ⟨k, hk, by rw [hkstate, if_neg fun h => hself h.2, hmstate]⟩
  · obtain ⟨hwstate, hwpart, hwafter⟩ := Launch.waitsOn_iff.1 hwaits
    have hother : w.seq ≠ seq := by
      intro hseq
      have hwl : some w = some l := (launch?_of_mem hone hw).symm.trans (by rw [hwpart, hseq, hl])
      rw [Option.some.inj hwl, hrunning] at hwstate
      exact absurd hwstate (by decide)
    obtain ⟨x, hx, hxpart, hxseq, hxrcb, hxstate⟩ := hended.forth hw
    rw [if_neg fun h => hother (List.mem_singleton.1 h.2)] at hxstate
    have hxwaits := Launch.waitsOn_iff.2 ⟨hxstate.trans hwstate, hxpart.trans hwpart, hxrcb ▸ hwafter⟩
    obtain ⟨k, hk, -, hkstate⟩ := hlast.launch? (launch?_of_mem (hended.oneOfEach hone) hx)
    rw [hxpart, hxseq] at hk hkstate
    exact ⟨k, hk, hkstate.trans (if_pos ⟨hwpart, hxseq ▸ hall (mem_waiters hx hxwaits)⟩)⟩

end Sys2Proof.Machine
end

section
/-!
PROOFS. Wide phases (R230, R231), and the ends of launches (R215, R216, R221, R225).
-/
namespace Sys2Proof.Machine

/-! ## The workgroup that goes on next (R231) -/

theorem head?_insertNat (n : Nat) (l : List Nat) : (insertNat n l).head? = some (l.head?.elim n (min n)) := by
  cases l with
  | nil => rfl
  | cons m r =>
    rw [insertNat]
    split
    · next h => simp [Nat.min_eq_left h.le]
    · next h => simp [Nat.min_eq_right (Nat.le_of_not_lt h)]

/-- The lowest index of some workgroups and of a list's head goes on first. -/
theorem head?_foldl_insertNat {k : Nat} (ws : List Workgroup) : ∀ l : List Nat, (∀ m ∈ l.head?, k ≤ m) → (∀ w ∈ ws, k ≤ w.index) →
    (l.head? = some k ∨ ∃ w ∈ ws, w.index = k) → (ws.foldl (fun a w => insertNat w.index a) l).head? = some k := by
  induction ws with
  | nil =>
    rintro l - - (h | ⟨w, hw, -⟩)
    · exact h
    · exact absurd hw (by simp)
  | cons w r ih =>
    intro l hl hws h
    obtain ⟨hw, hr⟩ := List.forall_mem_cons.1 hws
    have hhead := head?_insertNat w.index l
    refine ih _ (fun m hm => ?_) hr ?_
    · rw [hhead] at hm
      obtain rfl := Option.some.inj hm
      cases hl0 : l.head? with
      | none => exact hw
      | some m => exact Nat.le_min.2 ⟨hw, hl m hl0⟩
    · rw [hhead]
      obtain h | ⟨v, hv, hvk⟩ := h
      · exact .inl (by rw [h]; exact congrArg some (Nat.min_eq_right hw))
      · obtain rfl | hv := List.mem_cons.1 hv
        · refine .inl (congrArg some ?_)
          cases hl0 : l.head? with
          | none => exact hvk
          | some m => exact (Nat.min_eq_left (hvk ▸ hl m hl0)).trans hvk
        · exact .inr ⟨v, hv, hvk⟩

/-- A group of the workgroup is stopped in PHASE. -/
def State.inPhase (s : State) (w : Workgroup) : Bool := w.groups.any fun g => decide ((s.party g).status = .phase)

theorem State.inPhase_iff {s : State} {w : Workgroup} : s.inPhase w = true ↔ ∃ g ∈ w.groups, (s.party g).status = .phase := by
  simp [State.inPhase]

/-- The indices of the workgroups that are still to go on, in order. -/
def State.resumeOrder (s : State) (part seq : Nat) (l : Launch) : List Nat :=
  if !l.resume.isEmpty then l.resume
  else if l.unplaced || !((s.wgsOf part seq).all fun w => s.arrived w) then []
  else ((s.wgsOf part seq).filter s.inPhase).foldl (fun a w => insertNat w.index a) []

section ResumeOrder

variable {s : State} {part seq : Nat} {l : Launch}

/-- A phase of which some group has not arrived has not completed. -/
theorem resumeOrder_of_missing (hresume : l.resume = []) (h : l.unplaced = true ∨ ∃ w ∈ s.wgsOf part seq, s.arrived w = false) :
    s.resumeOrder part seq l = [] := by
  have hmissing : (l.unplaced || !((s.wgsOf part seq).all fun w => s.arrived w)) = true := by
    obtain h | ⟨w, hw, hnot⟩ := h
    · rw [h, Bool.true_or]
    · rw [List.all_eq_false.2 ⟨w, hw, by rw [hnot]; exact Bool.false_ne_true⟩, Bool.not_false, Bool.or_true]
  rw [State.resumeOrder, hresume, if_neg (by simp), if_pos hmissing]

/-- A completed phase goes on where it has come to. -/
theorem resumeOrder_begun {i : Nat} (h : l.resume.head? = some i) : (s.resumeOrder part seq l).head? = some i := by
  have hsome : (!l.resume.isEmpty) = true := by
    cases hresume : l.resume with
    | nil => rw [hresume] at h; exact nomatch h
    | cons m r => rfl
  rw [State.resumeOrder, if_pos hsome, h]

/-- When every group has arrived, the lowest of the workgroups that wait goes on first. -/
theorem resumeOrder_completes {w : Workgroup} (hw : w ∈ s.wgsOf part seq) (hresume : l.resume = []) (hplaced : l.unplaced = false)
    (harrived : ∀ v ∈ s.wgsOf part seq, s.arrived v = true) (hphase : s.inPhase w = true)
    (hlowest : ∀ v ∈ s.wgsOf part seq, s.inPhase v = true → w.index ≤ v.index) :
    (s.resumeOrder part seq l).head? = some w.index := by
  have hall : ¬(l.unplaced || !((s.wgsOf part seq).all fun w => s.arrived w)) = true := by
    rw [hplaced, List.all_eq_true.2 harrived]
    exact Bool.false_ne_true
  rw [State.resumeOrder, hresume, if_neg (by simp), if_neg hall]
  refine head?_foldl_insertNat _ [] (by simp) (fun v hv => ?_) (.inr ⟨w, List.mem_filter.2 ⟨hw, hphase⟩, rfl⟩)
  obtain ⟨hv, hvphase⟩ := List.mem_filter.1 hv
  exact hlowest v hv hvphase

end ResumeOrder

/-! ## A workgroup goes on (R230) -/

/-- A group that has been stopped in PHASE goes on. -/
def Party.resumed (q : Party) : Party := if q.status = .phase then { q with status := .running } else q

theorem Party.resumed_keepsId : KeepsId Party.resumed := fun q => by
  unfold Party.resumed
  split <;> rfl

theorem Party.resumed_of_phase {q : Party} (h : q.status = .phase) : q.resumed = { q with status := .running } := if_pos h

theorem Party.resumed_of_not_phase {q : Party} (h : q.status ≠ .phase) : q.resumed = q := if_neg h

theorem Party.resumed_resumed (q : Party) : q.resumed.resumed = q.resumed := by
  by_cases h : q.status = .phase
  · rw [resumed_of_phase h]
    exact resumed_of_not_phase (by simp)
  · rw [resumed_of_not_phase h, resumed_of_not_phase h]

/-- The groups of a workgroup go on. -/
def State.groupsResumed (s : State) (gs : List PartyId) : State := gs.foldl (fun s g => s.updParty g Party.resumed) s

theorem groupsResumed_frame (s : State) (gs : List PartyId) : { s.groupsResumed gs with parties := s.parties } = s :=
  foldl_parties_frame (f := fun s g => s.updParty g Party.resumed) (fun _ _ => rfl) gs s

theorem party_updParty_resumed (s : State) (g : PartyId) : (s.updParty g Party.resumed).party g = (s.party g).resumed := by
  rw [State.party, State.party?_updParty _ _ _ _ Party.resumed_keepsId, State.party]
  cases s.party? g with
  | none => rfl
  | some q => rw [Option.map_some, if_pos rfl, Option.getD_some, Option.getD_some]

theorem party_groupsResumed (p : PartyId) (gs : List PartyId) : ∀ s : State,
    (s.groupsResumed gs).party p = if p ∈ gs then (s.party p).resumed else s.party p := by
  induction gs with
  | nil => exact fun _ => rfl
  | cons g r ih =>
    intro s
    rw [show s.groupsResumed (g :: r) = (s.updParty g Party.resumed).groupsResumed r from rfl, ih]
    by_cases hg : p = g
    · subst hg
      rw [party_updParty_resumed, Party.resumed_resumed, ite_self, if_pos List.mem_cons_self]
    · rw [State.party_updParty_other s g p _ Party.resumed_keepsId hg]
      simp [hg]

/-- A wide phase goes on with a workgroup: its launch keeps who is to go on, and its groups run. -/
def State.phaseBegun (s : State) (part seq : Nat) (w : Workgroup) (order : List Nat) : State :=
  (s.updLaunch part seq fun l => { l with resume := order }).groupsResumed w.groups

/-- Then its core acquires, and the launch keeps when. -/
def State.phaseResumed (s : State) (part seq : Nat) (w : Workgroup) (order : List Nat) : State :=
  ((s.phaseBegun part seq w order).acquireNow w.core .device).updLaunch part seq
    fun l => { l with resume := order.tail, lastStart := some s.clk }

section PhaseResumed

variable (s : State) (part seq : Nat) (w : Workgroup) (order : List Nat)

theorem phaseBegun_frame : { s.phaseBegun part seq w order with parties := s.parties } =
    s.updLaunch part seq fun l => { l with resume := order } := groupsResumed_frame _ _

theorem phaseResumed_party (p : PartyId) : (s.phaseResumed part seq w order).party p =
    if p ∈ w.groups then (s.party p).resumed else s.party p :=
  party_groupsResumed p w.groups (s.updLaunch part seq fun l => { l with resume := order })

theorem phaseResumed_mem : (s.phaseResumed part seq w order).mem = s.mem :=
  (congrArg State.mem (phaseBegun_frame s part seq w order) :)

theorem phaseResumed_clean (hcore : w.core < s.cores.length) : ((s.phaseResumed part seq w order).core w.core).clean = [] := by
  have hcores : (s.phaseBegun part seq w order).cores = s.cores := (congrArg State.cores (phaseBegun_frame s part seq w order) :)
  exact clean_acquireNow (s := s.phaseBegun part seq w order) (by rw [hcores]; exact hcore) (.inr (.inl rfl))

theorem phaseResumed_launch {l : Launch} (hl : s.launch? part seq = some l) :
    ∃ m, (s.phaseResumed part seq w order).launch? part seq = some m ∧ m.lastStart = some s.clk := by
  have hbegun : ((s.phaseBegun part seq w order).acquireNow w.core .device).launch? part seq = some { l with resume := order } :=
    (congrArg (State.launch? · part seq) (phaseBegun_frame s part seq w order) :).trans
      (State.launch?_updLaunch hl (f := fun l => { l with resume := order }) fun _ => ⟨rfl, rfl⟩)
  exact ⟨_, State.launch?_updLaunch hbegun (f := fun l => { l with resume := order.tail, lastStart := some s.clk })
    fun _ => ⟨rfl, rfl⟩, rfl⟩

end PhaseResumed

section Exec

variable {s : State} {l : Launch} (hl : s.launch? s.args.x s.args.y = some l)
include hl

theorem exec_widePhaseComplete_waits (h : s.resumeOrder s.args.x s.args.y l = []) : exec .widePhaseComplete s = .next s := by
  show execWidePhaseComplete s = _
  rw [execWidePhaseComplete, hl]
  dsimp only
  split
  · rfl
  · next i rest horder =>
    have hsome : s.resumeOrder s.args.x s.args.y l = i :: rest := horder
    rw [h] at hsome
    exact nomatch hsome

theorem exec_widePhaseComplete_resumes {w : Workgroup} (horder : (s.resumeOrder s.args.x s.args.y l).head? = some w.index)
    (hw : w ∈ s.wgsOf s.args.x s.args.y) (honly : ∀ v ∈ s.wgsOf s.args.x s.args.y, v.index = w.index → v = w)
    (hresident : w.state = .resident) (hstagger : s.staggered l.lastStart l.rcb.stagger = true) :
    exec .widePhaseComplete s = .next (s.phaseResumed s.args.x s.args.y w (s.resumeOrder s.args.x s.args.y l)) := by
  have hfind : (s.wgsOf s.args.x s.args.y).find? (fun v => decide (v.index = w.index)) = some w := by
    cases hv : (s.wgsOf s.args.x s.args.y).find? (fun v => decide (v.index = w.index)) with
    | none => exact absurd (List.find?_eq_none.1 hv w hw) (by simp)
    | some v => rw [honly v (List.mem_of_find?_eq_some hv) (by simpa using List.find?_some hv)]
  show execWidePhaseComplete s = _
  rw [execWidePhaseComplete, hl]
  dsimp only
  split
  · next hnone =>
    have hnil : s.resumeOrder s.args.x s.args.y l = [] := hnone
    rw [hnil] at horder
    exact nomatch horder
  · next i rest hcons =>
    have hsome : s.resumeOrder s.args.x s.args.y l = i :: rest := hcons
    rw [hsome] at horder ⊢
    obtain rfl : i = w.index := Option.some.inj horder
    rw [hfind]
    dsimp only
    rw [if_pos ⟨hresident, hstagger⟩, hcons]
    rfl

theorem exec_launchComplete : exec .launchComplete s = .next (
    if l.over || decide (l.ended < l.rcb.total) then s else s.completeLaunch s.args.x s.args.y l) := by
  show execLaunchComplete s = _
  rw [execLaunchComplete, hl]

end Exec

/-! ## The claim -/

/-- What a step after the status word does, by whether a home slice holds its write back. -/
theorem afterStatus_cases (s : State) (part seq : Nat) (l : Launch) :
    (s.shuttleHeld part seq = true → s.afterStatus part seq l = s) ∧
      (s.shuttleHeld part seq = false →
        ((s.barrierReached part seq l.rcb.barrier).shuttleHeld part seq = true →
          s.afterStatus part seq l = s.barrierReached part seq l.rcb.barrier) ∧
        ((s.barrierReached part seq l.rcb.barrier).shuttleHeld part seq = false →
          s.afterStatus part seq l = (s.barrierReached part seq l.rcb.barrier).launchEnded part seq l.endCode)) := by
  refine ⟨fun h => if_pos h, fun h => ⟨fun h' => ?_, fun h' => ?_⟩⟩
  · rw [State.afterStatus, h, if_neg Bool.false_ne_true, if_pos h']
  · rw [State.afterStatus, h, if_neg Bool.false_ne_true, h', if_neg Bool.false_ne_true]

/-- Settles O32: a completion by its steps, in what they wait for and in whom they tell; a wide phase by the workgroup that goes on. -/
theorem launchesEnd : Obligations.LaunchesEnd := by
  intro s l hl part seq code cs drained ready arrived ended arrives past
  have hgoes (hpast : past) : exec .launchComplete s = .next (s.completeLaunch part seq l) := by
    obtain ⟨hover, hended⟩ := hpast
    have hnot : (l.over || decide (l.ended < l.rcb.total)) = false := by
      rw [hover, decide_eq_false (Nat.not_lt_of_le hended), Bool.or_false]
    rw [exec_launchComplete hl, hnot, if_neg Bool.false_ne_true]
  have harrives (u : State) : arrives u (u.afterStatus part seq l) := afterStatus_cases u part seq l
  refine ⟨fun hnot => ?early, fun hpast hstage hnotReady hkept => ?undrained, fun hpast hstage hready hkept => ?status,
    fun hpast hstage => ?barrier, fun hpast hstage => ?last, fun u => ⟨_, arrivalMade_barrierAsked u part seq l, rfl⟩,
    fun hrunning hended hbarrier hs hd hheld hasks hone => ?quiet, fun hresume hmissing => ?missing,
    fun w hw hresident hstagger honly hnext => ?resumes⟩
  case early =>
    have hearly : (l.over || decide (l.ended < l.rcb.total)) = true := by
      rw [Bool.or_eq_true, decide_eq_true_iff]
      exact hnot
    exact ⟨_, by rw [exec_launchComplete hl, if_pos hearly], rfl⟩
  case undrained => exact ⟨_, hgoes hpast, completeLaunch_undrained hstage hkept hnotReady⟩
  case status =>
    intro u
    have hu : u.launch? part seq = some l := (launch?_coresRaised drained cs part seq).trans hkept
    refine ⟨hu, statusWritten_writeStatus hu code, _, hgoes hpast, ?_⟩
    rw [completeLaunch_drained hstage hready]
    exact harrives _
  case barrier =>
    refine ⟨_, hgoes hpast, ?_⟩
    rw [completeLaunch_after_status hstage]
    exact harrives s
  case last =>
    have hlast := completeLaunch_after_arrival (s := s) (part := part) (seq := seq) hstage.ge
    refine ⟨fun hwaits => ⟨_, hgoes hpast, hlast.trans (if_pos hwaits)⟩, fun hfree => ⟨_, hgoes hpast, hlast.trans (if_neg ?_)⟩⟩
    rw [hfree]
    exact Bool.false_ne_true
  case quiet =>
    have hover : l.over = false := by
      rw [Launch.over, hrunning]
      rfl
    obtain ⟨v, hv, hcomplete⟩ := completeLaunch_of_quiet (part := part) (seq := seq) (l := l) hbarrier hs hd hheld hasks
    obtain ⟨m, hm, -, hmstate⟩ := hv.launch? hl
    obtain ⟨hmem, hparties, hself, hothers⟩ := launchEnded_tells (hv.silent hs) (hv.oneOfEach hone) hm
      (hmstate.trans (by simp [hrunning])) l.endCode
    refine ⟨_, hgoes ⟨hover, hended⟩, ?_⟩
    rw [hcomplete]
    refine ⟨hmem.trans hv.mem, hparties.trans hv.parties, ?_, fun w hw hwaits => ?_⟩
    · obtain ⟨k, hk, hkstate⟩ := hself
      exact ⟨k, hk, hkstate.trans (if_congr Launch.endCode_eq_three_iff rfl rfl)⟩
    · obtain ⟨hwstate, hwpart, hwafter⟩ := Launch.waitsOn_iff.1 hwaits
      obtain ⟨x, hx, hxpart, hxseq, hxrcb, hxstate⟩ := hv.forth hw
      rw [if_neg fun h => absurd h.2 (by simp)] at hxstate
      obtain ⟨k, hk, hkstate⟩ := hothers x hx (Launch.waitsOn_iff.2 ⟨hxstate.trans hwstate, hxpart.trans hwpart, hxrcb ▸ hwafter⟩)
      rw [hxpart, hxseq] at hk
      exact ⟨k, hk, hkstate.trans (if_congr Launch.endCode_eq_three_iff rfl rfl)⟩
  case missing => exact ⟨_, exec_widePhaseComplete_waits hl (resumeOrder_of_missing hresume hmissing), rfl⟩
  case resumes =>
    have horder : (s.resumeOrder part seq l).head? = some w.index := by
      obtain hbegun | ⟨hresume, hplaced, harrived, hphase, hlowest⟩ := hnext
      · exact resumeOrder_begun hbegun
      · exact resumeOrder_completes hw hresume hplaced harrived (State.inPhase_iff.2 hphase)
          fun v hv hvphase => hlowest v hv (State.inPhase_iff.1 hvphase)
    have hparty := phaseResumed_party s part seq w (s.resumeOrder part seq l)
    refine ⟨_, exec_widePhaseComplete_resumes hl horder hw honly hresident hstagger, fun g hg hphase => ?_, fun g hg => ?_,
      phaseResumed_mem s part seq w _, phaseResumed_clean s part seq w _, phaseResumed_launch s part seq w _ hl⟩
    · exact (hparty g).trans ((if_pos hg).trans (Party.resumed_of_phase hphase))
    · refine (hparty g).trans ?_
      split
      · next hin => exact Party.resumed_of_not_phase (hg.resolve_left fun hout => hout hin)
      · rfl

end Sys2Proof.Machine
end
